-- ==== Sys2Proof/Word.lean ====
section
/-! DEFINITION. The word types of the HM-C12 model and the index types of its parts. -/

namespace Sys2Proof

/-- One byte. -/
abbrev Byte := BitVec 8
/-- A 32-bit register or status word. -/
abbrev Word32 := BitVec 32
/-- A 64-bit word. -/
abbrev Word64 := BitVec 64

/-- A channel, 0 to 11 (R17). -/
abbrev Ch := Fin 12
/-- A work ring of a channel, 0 to 8 (R138). -/
abbrev Ring := Fin 9
/-- A logical device, 0 to 15 (R308). -/
abbrev Ld := Fin 16
/-- A mailbox (R401): 2L and 2L + 1 are the primary and secondary mailbox of logical device L,
32 is the sideband mailbox. -/
abbrev Mbox := Fin 33

end Sys2Proof
end

