-- ==== Sys2Proof/Syntax.lean ====
section
/-! DEFINITION. The commands of the block: one constructor of `Instr` for each row of
spec/opcode_table.json, and the types of their operands. The docstring of a constructor gives the
row's rule and summary. -/

namespace Sys2Proof

/-- What the surroundings show while a command reads memory or runs an engine: the T1 lines that the
stack returns uncorrectable (R229), and the point at which the engine faults (R128): for an attention descriptor the row tile
before which it does, or the number of tiles for a fault after the last; for an Append the KV head (log 138). -/
structure Env where
  lost   : List Nat
  fault  : Option Nat
  keyBad : List Nat := []
  corr   : Nat := 0
  deriving DecidableEq, Repr

/-- Nothing lost and no fault. -/
def Env.clean : Env := { lost := [], fault := none }

/-- The host-port events of R338 that take the port down. -/
inductive LinkDownKind
  | linkDown | hotReset | perst
  deriving DecidableEq, Repr

/-- An HDM decoder as a host programs it (R323): base and size in bytes, skip in bytes, interleave ways,
granularity in bytes. -/
structure HdmDecoder where
  base : Nat
  size : Nat
  skip : Nat
  ways : Nat
  gran : Nat
  deriving DecidableEq, Repr

/-- An MCTP endpoint of the device (R341). -/
inductive Endpoint
  | host (l : Ld)
  | fm
  | i3c
  deriving DecidableEq, Repr

/-- An SPDM request other than those with a row of their own (R440): its header, the bytes that follow, and the session that it comes in. -/
structure SpdmReq where
  version : Byte
  code    : Byte
  param1  : Byte
  param2  : Byte
  data    : List Byte := []
  session : Option Nat := none
  deriving DecidableEq, Repr

/-- GET_MEASUREMENTS (R441): the operation (an index, 0 or 0xFF), whether a signature is asked for, and with it the nonce of 32 bytes and the slot of the
certificate chain. -/
structure MeasReq where
  idx   : Byte
  sign  : Bool
  nonce : BitVec 256
  slot  : Byte
  deriving DecidableEq, Repr

/-- KEY_EXCHANGE (R440): the measurement summary asked for, the slot of the certificate chain, and the bytes that follow. -/
structure KexReq where
  summary : Byte
  slot    : Byte
  data    : List Byte
  deriving DecidableEq, Repr

/-- An IDE stream of the host port (R458). -/
inductive IdeStream
  | linkIo | linkMem | sel (i : Fin 4)
  deriving DecidableEq, Repr

/-- A sub-stream of an IDE stream (R458): its direction, and the flow (posted, non-posted, completions; CXL.cachemem has the first only). -/
structure IdeSub where
  tx   : Bool
  flow : Fin 3
  deriving DecidableEq, Repr

/-- An IDE_KM request in a secured session (R458): program a key set of a sub-stream with a key and an initialisation vector, switch to it (on CXL.cachemem with
the mode, containment or skid), or stop. -/
inductive IdeKmReq
  | keyProg (st : IdeStream) (sub : IdeSub) (set : Fin 2) (key : BitVec 256) (iv : BitVec 64)
  | kSetGo (st : IdeStream) (sub : IdeSub) (set : Fin 2) (skid : Bool)
  | kSetStop (st : IdeStream) (sub : IdeSub)
  deriving DecidableEq, Repr

/-- How the I3C sideband takes its dynamic address (R343). -/
inductive I3cAssign
  | entdaa (addr : BitVec 7)
  | setdasa (staticAddr addr : BitVec 7)
  deriving DecidableEq, Repr

/-- A group's result (R461, R473): the failed engine slots and SM4 engines, channel logic, T0 banks, the stack,
its lanes and the failed physical Sieve rows. -/
structure GroupRec where
  engFail    : BitVec 5
  sm4Fail    : BitVec 2
  logicFail  : Bool
  t0Banks    : Nat
  stackFail  : Bool
  stackLanes : List Nat
  sieveRows  : List Nat
  deriving DecidableEq, Repr

/-- Nothing failed. -/
def GroupRec.pass : GroupRec :=
  { engFail := 0, sm4Fail := 0, logicFail := false, t0Banks := 0, stackFail := false, stackLanes := [], sieveRows := [] }

/-- A die that answers on a NAND bus (R264): its bus and target, whether its parameter page passes its CRC, the data and spare bytes of a page,
pages per block, blocks over all its planes, planes, whether it programs every page of a word line in one operation, and its bad blocks. -/
structure DieFound where
  bus       : Nat
  target    : Nat
  crcOk     : Bool
  dataBytes : Nat
  spareBytes : Nat
  pages     : Nat
  blocks    : Nat
  planes    : Nat
  wholeLine : Bool
  bad       : List Nat
  deriving DecidableEq, Repr

/-- What a channel's NAND buses show at a start (R264): the populated buses whose training passes, and the dies that answer. -/
structure DieReport where
  buses : Byte
  dies  : List DieFound
  deriving DecidableEq, Repr

/-- What a start of a channel shows (R264, R293, R467): whether the stack trains, the lanes that fail training, the dies found, whether an
anchor is readable, the journal pages (by JPSEQ) of which no copy is good, and the physical pages whose out-of-band CHECK fails. -/
structure StartReport where
  stackOk   : Bool
  lanes     : List Nat
  dies      : DieReport
  anchorOk  : Bool
  badJournal : List Nat
  badPages  : List Nat
  deriving DecidableEq, Repr

/-- A reassembled MCTP message (R341), by type. A command that starts a channel, or that channels answer, carries what its row would carry. -/
inductive MctpMsg
  /-- Type 0x00: a control command and its data. -/
  | control (cmd : Byte) (data : List Byte)
  /-- Type 0x05: an SPDM request, served by the SPDM rows. -/
  | spdm (code : Byte)
  /-- Type 0x06: a secured message of an SPDM session. -/
  | secured (session : Nat)
  /-- Type 0x07: a CXL FM-API command. -/
  | fmApi (opcode : BitVec 16) (inp : List Byte) (start : StartReport) (answered : List Ch)
  /-- Type 0x08: a CXL CCI command. -/
  | cci (opcode : BitVec 16) (inp : List Byte) (start : StartReport) (answered : List Ch)
  /-- Any other type. -/
  | other (type : Byte)
  deriving DecidableEq, Repr

/-- How a unit read ends (R281); the corrected bits of a read that decodes (R301). -/
inductive NandResult
  | hard (corrected : Nat)
  | retry (corrected : Nat)
  | soft (corrected : Nat)
  | rebuilt
  | lost
  deriving DecidableEq, Repr

/-- A rail (R474, R494): the stack rails are VSTK_C, VSTK_Q, VSTK_PP, those of PHY and optics VPHY, VOPT_D, VOPT_L. The supply monitor does not watch VAON_IO. -/
inductive Rail
  | vcore | vsram | vaon | vnand | stack (i : Fin 3) | phy (i : Fin 3) | pwrfail | vaonIo
  deriving DecidableEq, Repr

/-- A rail and its voltage in millivolts. -/
structure RailDip where
  rail : Rail
  mv   : Nat
  deriving DecidableEq, Repr

/-- What the governor reads at the end of a window (R503): the millivolts on the five current-sense pairs, and the voltages of VSRAM and VNAND in millivolts. -/
structure PowerSense where
  core   : Nat
  sram   : Nat
  nand   : Nat
  stk    : Nat
  phy    : Nat
  sramMv : Nat
  nandMv : Nat
  deriving DecidableEq, Repr

/-- What a native peer reports of itself in training (R374). -/
structure PeerInfo where
  port   : BitVec 4
  serial : BitVec 24
  deriving DecidableEq, Repr

/-- A control flit of the peer (R394): its channel state, a supply warning, a connection reset. -/
structure PeerFlit where
  state     : BitVec 8
  supply    : Bool
  connReset : Bool
  deriving DecidableEq, Repr

/-- The framing of an Ethernet packet as the port finds it (R395): IEEE 802.1Q tags, IPv4 options or IPv6 extension headers, a fragment, the UDP destination
port. -/
structure EthFrame where
  tags     : Nat
  options  : Bool
  fragment : Bool
  udp      : BitVec 16
  deriving DecidableEq, Repr

/-- A RoCEv2 request packet (R395, R396): its framing, destination queue pair, BTH opcode, 24-bit PSN, the ECN-CE mark,
whether its ICRC holds, the symbols that FEC corrected in it (R375), R_Key, virtual address, DMA length, payload, and the compare (or add) and swap operands of an
atomic. -/
structure RocePkt where
  eth     : EthFrame
  qpn     : BitVec 24
  opcode  : Byte
  psn     : BitVec 24
  ce      : Bool
  icrcOk  : Bool
  corrected : Nat
  rkey    : Word32
  va      : Word64
  len     : Nat
  payload : List Byte
  arg1    : Word64
  swap    : Word64
  deriving DecidableEq, Repr

/-- What a native packet arrives with (R375, R379): its CRC, the symbols that FEC corrected in its flits, and whether the peer held a credit for it: the
number of buffers that the device's link layer advertises is not in the specification (log 82). -/
structure LinkFrame where
  crc       : Word32
  corrected : Nat
  credit    : Bool
  deriving DecidableEq, Repr

/-- What a register write carries (R8, R312): a word, or two words of one access of 8 bytes, the lower address first. -/
inductive RegData
  | word (v : Word32)
  | pair (lo hi : Word32)
  deriving DecidableEq, Repr

/-- How a host link trains (R304, R307): rate in GT/s and lanes. -/
structure LinkRate where
  gtps  : Nat
  width : Nat
  deriving DecidableEq, Repr

/-- The commands of the HM-C12, one constructor for each row of spec/opcode_table.json. -/
inductive Instr
  /-- NOP (R152). Descriptor that performs only its header wait and gate add. -/
  | nop (c : Ch) (r : Ring)
  /-- ATTEND (R111). Attention descriptor that makes one pass over a sequence's pages and writes outputs, log-sum-exp and row status. -/
  | attend (c : Ch) (r : Ring) (env : Env)
  /-- ATTEND_GRIST (R160). Batch attention over up to 64 sequences of one length bucket, each on a fixed array schedule. -/
  | attendGrist (c : Ch) (r : Ring) (env : Env)
  /-- ATTEND_RAGGED (R161). Batch attention over up to 64 sequences using a length table, attending only the pages each one holds. -/
  | attendRagged (c : Ch) (r : Ring) (env : Env)
  /-- APPEND (R155). Writes key and value vectors at positions of one layer for every KV head, creating and summarising pages. -/
  | append (c : Ch) (r : Ring) (env : Env)
  /-- PREFETCH (R166). Copies pages or a raw T1 range into T0 at DEST. -/
  | prefetch (c : Ch) (r : Ring) (env : Env)
  /-- PLACE (R254). Moves pages in range to TO_TIER at locations from the destination list. -/
  | place (c : Ch) (r : Ring)
  /-- PROMOTE (R256). Moves pages to a higher tier and returns a Frozen sequence to Active. -/
  | promote (c : Ch) (r : Ring)
  /-- DEMOTE (R255). Moves pages to a lower tier, and freezes a whole sequence when demoted whole to T2. -/
  | demote (c : Ch) (r : Ring)
  /-- DROP (R257). Makes Private pages Empty and releases their locations. -/
  | drop (c : Ch) (r : Ring)
  /-- PERSIST (R258). Writes a durable image of a sequence, prefix block or region through Marl's frozen stream. -/
  | persist (c : Ch) (r : Ring) (env : Env)
  /-- MERGE (R369). Combines partial attention tiles row by row through their log-sum-exp values. -/
  | merge (c : Ch) (r : Ring) (env : Env)
  /-- SLIP_FILL (R363). Writes an 8-byte pattern repeatedly over a destination range. -/
  | slipFill (c : Ch) (r : Ring) (env : Env)
  /-- SLIP_COPY (R365). Copies a source range to a destination range as if all of the source were read first. -/
  | slipCopy (c : Ch) (r : Ring) (env : Env)
  /-- SLIP_COMPARE (R365). Finds the byte offset of the first plaintext difference between two ranges. -/
  | slipCompare (c : Ch) (r : Ring) (env : Env)
  /-- SLIP_REDUCE (R367). Reduces up to 32 sources element by element into a destination. -/
  | slipReduce (c : Ch) (r : Ring) (env : Env)
  /-- SLIP_PUBLISH (R355). Compare-and-swap publish of a region's version word from ring 6. -/
  | slipPublish (c : Ch) (r : Ring)
  /-- SLIP_ATOMIC (R368). Atomic add or compare-and-swap on an 8- or 16-byte word at the Slip unit. -/
  | slipAtomic (c : Ch) (r : Ring) (env : Env)
  /-- SIEVE_HASH (R175). Computes SM3 chain hashes of up to 64 token blocks into T0. -/
  | sieveHash (c : Ch) (r : Ring)
  /-- SIEVE_PROBE (R184). Searches the Sieve for a vector of chain hashes and writes result records and DEPTH. -/
  | sieveProbe (c : Ch) (r : Ring)
  /-- SIEVE_INSERT (R187). Places a new row of a band, into a hole or via a pending row and background shift. -/
  | sieveInsert (c : Ch) (r : Ring)
  /-- SIEVE_REMOVE (R192). Invalidates every row that the locator matches in one array handshake. -/
  | sieveRemove (c : Ch) (r : Ring)
  /-- SIEVE_SET_FLAGS (R193). Writes PINNED and USER into rows that the locator matches. -/
  | sieveSetFlags (c : Ch) (r : Ring)
  /-- SIEVE_READ (R193). Copies logical Sieve rows into T0 as 32-byte records. -/
  | sieveRead (c : Ch) (r : Ring)
  /-- SEQ_OPEN (R170). Opens a sequence in a Free slot and returns its handle. -/
  | seqOpen (c : Ch) (r : Ring)
  /-- SEQ_CLOSE (R52). Marks a slot Closing, then releases every page, summary and node of the sequence and advances GEN. -/
  | seqClose (c : Ch) (r : Ring)
  /-- ATTACH (R212). A sequence takes up a Live prefix block at its next page. -/
  | attach (c : Ch) (r : Ring)
  /-- SWEEP (R227). Recounts reference counts of blocks in scope and frees unheld blocks. -/
  | sweep (c : Ch) (r : Ring)
  /-- BLOCK_CREATE (R211). Turns one page of a sequence across all layers and heads into a new prefix block. -/
  | blockCreate (c : Ch) (r : Ring)
  /-- PRUNE (R219). Removes pages from attention for good under a lossy policy. -/
  | prune (c : Ch) (r : Ring)
  /-- SET_PROTECT (R224). Writes PROTECT and recomputes TILTH in summaries of pages in range. -/
  | setProtect (c : Ch) (r : Ring)
  /-- TILTH_SCAN (R225). Reports the lowest current tilth scores among a range of summaries. -/
  | tilthScan (c : Ch) (r : Ring)
  /-- GATE_WAIT_RELEASE (R145). A descriptor waiting on its header gate is released when the count satisfies the wait. -/
  | gateWaitRelease (c : Ch) (r : Ring)
  /-- PRESENCE_GATE_RELEASE (R164). An engine waiting on a page's presence gate re-reads the entry after the gate changes. -/
  | presenceGateRelease (c : Ch) (r : Ring) (env : Env)
  /-- USE_COUNT_ADMIT (R53). A descriptor waiting at a full USE_COUNT is admitted once a descriptor naming the slot retires. -/
  | useCountAdmit (c : Ch) (r : Ring)
  /-- SEQ_CLOSE_RELEASE (R53). A Closing sequence's close proceeds to release once USE_COUNT reaches 0. -/
  | seqCloseRelease (c : Ch)
  /-- GATE_ADD_ARRIVAL (R146). A gate add from another channel arrives through the port hub and changes the count. -/
  | gateAddArrival (c : Ch)
  /-- RELEASE_RECORD_WRITE (R237). A released location is written to the release log after its guard clears, waiting for room if full. -/
  | releaseRecordWrite (c : Ch)
  /-- FRAME_GUARD_CLEAR (R238). A descriptor waiting before its first write to a guarded frame continues once the guard clears. -/
  | frameGuardClear (c : Ch) (r : Ring)
  /-- PAGE_MOVE_END (R163). A page move ends: new tier and location written, PGATE cleared and the gate advanced. -/
  | pageMoveEnd (c : Ch) (r : Ring) (k : Nat) (env : Env)
  /-- RING_DRAIN_END (R173). A stopping ring drains and the device clears ENABLE. -/
  | ringDrainEnd (c : Ch) (r : Ring)
  /-- RING_TAIL_WRITE (R140). Doorbell write of a ring's TAIL hands new descriptors to the fetcher. -/
  | ringTailWrite (l : Ld) (c : Ch) (r : Ring) (v : Word32)
  /-- RING_ENABLE_WRITE (R139). Writing ENABLE 1 starts a ring, or sets CFG_ERR when its areas are invalid. -/
  | ringEnableWrite (l : Ld) (c : Ch) (r : Ring) (v : Word32)
  /-- RING_STOP_WRITE (R173). Writing STOP 1 aborts waiting and later descriptors and drains the ring. -/
  | ringStopWrite (l : Ld) (c : Ch) (r : Ring) (v : Word32)
  /-- RING_DISABLE_WRITE (R174). Writing ENABLE 0 acts as STOP and leaves ENABLE clear. -/
  | ringDisableWrite (l : Ld) (c : Ch) (r : Ring) (v : Word32)
  /-- GATE_SET_WRITE (R148). A host write through the gate window sets a gate's count. -/
  | gateSetWrite (l : Ld) (c : Ch) (g : Nat) (v : Word32)
  /-- GATE_ADD_WRITE (R146). A host write through the add window adds to a gate's count. -/
  | gateAddWrite (l : Ld) (c : Ch) (g : Nat) (v : Word32)
  /-- CLEAR_LOW (R39). Writing CLEAR_LOW sets PACE_LOW to 0xF_FFFF. -/
  | clearLow (l : Ld) (c : Ch) (v : Word32)
  /-- SR_SEED_WRITE (R104). Writing SR_SEED loads the channel's rounding generator. -/
  | srSeedWrite (l : Ld) (c : Ch) (v : Word32)
  /-- RELEASE_LOG_ENABLE_WRITE (R237). Writing the release log's ENABLE starts recording and zeroes HEAD and TAIL. -/
  | releaseLogEnableWrite (l : Ld) (c : Ch) (v : Word32)
  /-- LINK_ENABLE_WRITE (R374). Writing LINK_CFG ENABLE starts port training, or takes the port down. -/
  | linkEnableWrite (l : Ld) (c : Ch) (v : Word32)
  /-- SQ_TAIL_WRITE (R387). Doorbell write of a connection's send-queue tail hands new entries to the port. -/
  | sqTailWrite (l : Ld) (c : Ch) (conn : Nat) (v : Word32)
  /-- REGISTER_WRITE (R8). A write to a register with no behaviour of its own, including W1C clears. -/
  | registerWrite (l : Ld) (off : Nat) (v : RegData)
  /-- BAD_REGISTER_ACCESS (R312). A register access of wrong size or alignment reads all ones and records BAD_SIZE. -/
  | badRegisterAccess (l : Ld) (off size : Nat) (isWrite : Bool)
  /-- PACE_WINDOW_END (R39). At the end of a reference-clock window the pace meter latches its step count. -/
  | paceWindowEnd (c : Ch) (steps : BitVec 20)
  /-- REFCLK_LOSS (R40). Loss of a link reference clock discards the window in progress and clears VALID. -/
  | refclkLoss (c : Ch)
  /-- REFCLK_RETURN (R40). Return of the reference clock starts a new pace window. -/
  | refclkReturn (c : Ch)
  /-- CXL_MEM_READ (R345). Host CXL.mem read resolved through a window or extent and returned decrypted or poisoned. -/
  | cxlMemRead (l : Ld) (dpa : Nat) (own : Bool) (env : Env)
  /-- CXL_MEM_WRITE (R345). Host CXL.mem write resolved through a window or extent, encrypted and stored. -/
  | cxlMemWrite (l : Ld) (dpa : Nat) (data : List Byte) (be : BitVec 64)
  /-- T0_WINDOW_READ (R317). Host read of up to 64 bytes through a channel's T0 window. -/
  | t0WindowRead (l : Ld) (off len : Nat)
  /-- T0_WINDOW_WRITE (R317). Host write of up to 64 bytes through a channel's T0 window. -/
  | t0WindowWrite (l : Ld) (off : Nat) (data : List Byte)
  /-- BIRSP (R329). A host's BIRsp releases the snooped line to the waiting request. -/
  | birsp (c : Ch) (l : Ld) (line : Nat)
  /-- BICONFLICT (R330). A BIConflict for a line with a snoop outstanding is answered with BIConflictAck. -/
  | biconflict (c : Ch) (l : Ld) (line : Nat)
  /-- BI_SNOOP_TIMEOUT (R331). A back-invalidate snoop unanswered within 2^BI_TIMEOUT_LOG2 steps lapses the lease. -/
  | biSnoopTimeout (c : Ch) (l : Ld) (line : Nat)
  /-- HOST_LINK_DOWN (R338). Host-port link down, hot reset or PERST# resets functions and lapses every logical device. -/
  | hostLinkDown (ev : LinkDownKind)
  /-- HOST_LINK_UP (R306). The host-port link trains, entering CXL mode or PCIe-only mode, and clears LAPSED. -/
  | hostLinkUp (rate : LinkRate) (flit256 : Bool)
  /-- FLR (R338). Function level reset of a logical device resets its registers and lapses its lease. -/
  | flr (l : Ld)
  /-- CXL_RESET (R338). CXL Reset of a logical device resets it, uncommits decoders and stops its channels' rings. -/
  | cxlReset (l : Ld)
  /-- LD_BIND (R422). The fabric manager binds a logical device to a host. -/
  | ldBind (l : Ld)
  /-- LD_UNBIND (R331). The fabric manager unbinds a logical device, which lapses its lease. -/
  | ldUnbind (l : Ld)
  /-- HDM_DECODER_COMMIT (R323). A host commits an HDM decoder through the CXL decoder registers. -/
  | hdmDecoderCommit (l : Ld) (n : Fin 8) (d : HdmDecoder)
  /-- MSIX_UNMASK (R340). Unmasking a vector sends one message for its pending requests. -/
  | msixUnmask (l : Ld) (vec : Option Nat)
  /-- MCTP_MESSAGE (R341). A reassembled MCTP message arrives at an endpoint and is routed by type. -/
  | mctpMessage (ep : Endpoint) (msg : MctpMsg)
  /-- GET_MEASUREMENTS (R441). SPDM request returning signed SM3 measurement blocks. -/
  | getMeasurements (ep : Endpoint) (req : MeasReq)
  /-- KEY_EXCHANGE (R440). SPDM KEY_EXCHANGE opening a secured session, at most eight at once. -/
  | keyExchange (ep : Endpoint) (req : KexReq)
  /-- SPDM_REQUEST (R440). Other SPDM 1.2 request of the supported subset, or one answered UnsupportedRequest. -/
  | spdmRequest (ep : Endpoint) (req : SpdmReq)
  /-- IDE_KM (R458). IDE_KM programs or switches IDE stream keys in a secured session. -/
  | ideKm (session : Nat) (req : IdeKmReq)
  /-- IDE_INTEGRITY_FAIL (R459). A flit or TLP failing its IDE check drops data and puts the stream Insecure. -/
  | ideIntegrityFail (stream : IdeStream)
  /-- I3C_ADDRESS_ASSIGN (R343). The sideband takes its dynamic address by ENTDAA or SETDASA. -/
  | i3cAddressAssign (m : I3cAssign)
  /-- IDENTIFY_MEMORY_DEVICE (R304). CXL command returning the memory device identity. -/
  | identifyMemoryDevice (mb : Mbox)
  /-- GET_SUPPORTED_LOGS (R410). CXL command listing the supported logs. -/
  | getSupportedLogs (mb : Mbox)
  /-- GET_LOG (R410). CXL command returning a log. -/
  | getLog (mb : Mbox) (uuid : BitVec 128) (off len : Nat)
  /-- GET_POISON_LIST (R335). CXL command listing orphaned lines as device-injected poison. -/
  | getPoisonList (mb : Mbox) (dpa len : Nat)
  /-- CLEAR_POISON (R334). CXL command clearing an orphan mark and writing the command's data. -/
  | clearPoison (mb : Mbox) (dpa : Nat) (data : List Byte)
  /-- GET_EVENT_RECORDS (R410). CXL command reading the dynamic capacity event log. -/
  | getEventRecords (mb : Mbox) (log : Byte)
  /-- CLEAR_EVENT_RECORDS (R410). CXL command clearing dynamic capacity event records. -/
  | clearEventRecords (mb : Mbox) (log : Byte) (handles : List Nat)
  /-- GET_DC_CONFIGURATION (R318). CXL command reporting the dynamic capacity partitions. -/
  | getDcConfiguration (mb : Mbox)
  /-- GET_DC_EXTENT_LIST (R324). CXL command listing granted extents. -/
  | getDcExtentList (mb : Mbox) (count start : Nat)
  /-- ADD_DC_RESPONSE (R326). Host accepts an offered extent, which becomes reachable at its partition's DPA. -/
  | addDcResponse (mb : Mbox) (exts : List (Nat × Nat))
  /-- RELEASE_DYNAMIC_CAPACITY (R327). Host releases an extent grant after revocation, snoops and unmap. -/
  | releaseDynamicCapacity (mb : Mbox) (exts : List (Nat × Nat))
  /-- BACKGROUND_OPERATION_STATUS (R407). CXL command reporting a mailbox's background command status. -/
  | backgroundOperationStatus (mb : Mbox)
  /-- REQUEST_ABORT_BACKGROUND (R407). Request to abort a background operation, answered Unsupported. -/
  | requestAbortBackground (mb : Mbox)
  /-- GET_LD_INFO (R308). Sideband CXL command reporting logical devices. -/
  | getLdInfo (mb : Mbox)
  /-- GET_DCD_INFO (R318). Sideband CXL command reporting dynamic capacity device information. -/
  | getDcdInfo (mb : Mbox)
  /-- INITIATE_DC_ADD (R325). Fabric manager adds an extent, checked before it is offered to the host. -/
  | initiateDcAdd (mb : Mbox) (l : Ld) (part : Fin 4) (off len : Nat) (tag : BitVec 128)
  /-- INITIATE_DC_RELEASE (R327). Fabric manager forces release of an extent grant. -/
  | initiateDcRelease (mb : Mbox) (l : Ld) (part : Fin 4) (off len : Nat)
  /-- SET_LD_ALLOCATIONS (R18). CXL command answered Unsupported because assignment uses the staging set. -/
  | setLdAllocations (mb : Mbox)
  /-- GET_IDENTITY (R14). Mailbox command returning form, stepping, firmware version and identity record. -/
  | getIdentity (mb : Mbox) (inp : List Byte)
  /-- GET_HEALTH (R427). Mailbox command polling channels and returning part of the health log. -/
  | getHealth (mb : Mbox) (inp : List Byte) (answered : List Ch)
  /-- SET_TIME (R409). Stores a 64-bit HOST_TIME. -/
  | setTime (mb : Mbox) (inp : List Byte)
  /-- SELF_TEST_QUERY (R473). Returns the stored self-test record. -/
  | selfTestQuery (mb : Mbox) (inp : List Byte)
  /-- SHUTDOWN (R463). Stops rings, closes connections, flushes media, turns channels Off and runs self-test. -/
  | shutdown (mb : Mbox) (inp : List Byte)
  /-- STAGE_WRITE (R413). Merges staging entries into the mailbox's staging set. -/
  | stageWrite (mb : Mbox) (inp : List Byte)
  /-- STAGE_READ (R413). Returns entries of the staging set. -/
  | stageRead (mb : Mbox) (inp : List Byte)
  /-- STAGE_CLEAR (R413). Empties the staging set. -/
  | stageClear (mb : Mbox) (inp : List Byte)
  /-- COMMIT_CHECK (R414). Checks the staged state and returns findings without change. -/
  | commitCheck (mb : Mbox) (inp : List Byte)
  /-- COMMIT_APPLY (R415). Fences affected channels, checks, broadcasts the commit and advances COMMIT_GEN. -/
  | commitApply (mb : Mbox) (inp : List Byte)
  /-- COMMIT_FENCE_STANDS (R415). The commit proceeds once every operation admitted before its fence has retired. -/
  | commitFenceStands
  /-- COMMIT_QUERY (R415). Returns the commit generation in force. -/
  | commitQuery (mb : Mbox) (inp : List Byte)
  /-- CAP_READ (R420). Returns bytes of a logical device's capability area. -/
  | capRead (mb : Mbox) (inp : List Byte)
  /-- EVENT_READ (R424). Returns event records and optionally consumes them. -/
  | eventRead (mb : Mbox) (inp : List Byte)
  /-- CHANNEL_ISOLATE (R429). Closes a channel's hub port, ends its operations, clears its key cache and isolates it. -/
  | channelIsolate (mb : Mbox) (inp : List Byte)
  /-- CHANNEL_RESET (R429). Isolates a channel, resets it and brings it through Starting. -/
  | channelReset (mb : Mbox) (inp : List Byte) (start : StartReport)
  /-- MEDIA_FORMAT (R410). Erases every good block, builds stripe blocks, writes anchors and carries slot and region records. -/
  | mediaFormat (mb : Mbox) (inp : List Byte)
  /-- MEDIA_FLUSH (R410). Makes every accepted program durable and optionally completes a checkpoint. -/
  | mediaFlush (mb : Mbox) (inp : List Byte)
  /-- MEDIA_DISCARD (R298). Clears every slot of a run of logical units. -/
  | mediaDiscard (mb : Mbox) (inp : List Byte)
  /-- MEDIA_SECURE_DISCARD (R299). Unmaps units and erases every stripe block that may hold their copies. -/
  | mediaSecureDiscard (mb : Mbox) (inp : List Byte)
  /-- REGION_CREATE (R349). Creates a Live region on an index and journals it. -/
  | regionCreate (mb : Mbox) (inp : List Byte)
  /-- REGION_SET_HOME (R350). Adds a home run of T2 units to a region. -/
  | regionSetHome (mb : Mbox) (inp : List Byte)
  /-- REGION_REGISTER (R352). Adds a registration or changes its rights. -/
  | regionRegister (mb : Mbox) (inp : List Byte)
  /-- REGION_REVOKE (R361). Revokes one registration and completes after the drain. -/
  | regionRevoke (mb : Mbox) (inp : List Byte)
  /-- REGION_RELEASE (R353). Revokes all registrations, releases runs and frees or retires the index. -/
  | regionRelease (mb : Mbox) (inp : List Byte)
  /-- REGION_PUBLISH (R355). Mailbox compare-and-swap publish of a region's version word. -/
  | regionPublish (mb : Mbox) (inp : List Byte)
  /-- REGION_QUERY (R346). Returns a region directory entry and version word. -/
  | regionQuery (mb : Mbox) (inp : List Byte)
  /-- REVOCATION_DRAIN_END (R359). A revocation proceeds when the drain count of the old epoch reaches 0. -/
  | revocationDrainEnd (idx : Nat)
  /-- REGION_ADMISSION_RESUME (R359). An admission waiting at a saturated DRAIN count proceeds when it falls. -/
  | regionAdmissionResume (c : Ch) (r : Ring)
  /-- LINK_CONN_SET (R376). Creates a connection and makes it Ready. -/
  | linkConnSet (mb : Mbox) (inp : List Byte)
  /-- LINK_CONN_RESET (R377). Sets a new send or receive PSN of a connection. -/
  | linkConnReset (mb : Mbox) (inp : List Byte)
  /-- LINK_CONN_CLOSE (R377). Closes a connection once nothing is outstanding and frees its nodes. -/
  | linkConnClose (mb : Mbox) (inp : List Byte)
  /-- LINK_CONN_QUERY (R410). Returns a connection's state and PSNs. -/
  | linkConnQuery (mb : Mbox) (inp : List Byte)
  /-- LINK_WINDOW_SET (R392). Writes one remote window. -/
  | linkWindowSet (mb : Mbox) (inp : List Byte)
  /-- LINK_KEY_SET (R396). Writes one RoCE memory key of a port. -/
  | linkKeySet (mb : Mbox) (inp : List Byte)
  /-- KEY_LOAD (R446). Decrypts a wrapped owner key, logs its epoch and loads the slot. -/
  | keyLoad (mb : Mbox) (inp : List Byte)
  /-- KEY_DESTROY (R450). Purges an owner key from every key cache, zeroes it and marks the slot Purging. -/
  | keyDestroy (mb : Mbox) (inp : List Byte) (answered : List Ch)
  /-- KEY_QUERY (R442). Returns an owner key slot's state. -/
  | keyQuery (mb : Mbox) (inp : List Byte)
  /-- OWNER_PURGE (R300). After key destruction, each channel's Marl unmaps the owner's units and journals OWNER_PURGE. -/
  | ownerPurge (c : Ch) (slot : Nat)
  /-- KEY_PURGE_TIMEOUT (R430). A channel not acknowledging a key purge within 2^16 island steps is isolated. -/
  | keyPurgeTimeout (c : Ch) (slot : Nat)
  /-- KEY_STORAGE_CHECK (R448). Periodic check of each Loaded slot's storage, moving failed slots to spare storage. -/
  | keyStorageCheck (failed : List Nat)
  /-- FIRMWARE_UPDATE (R436). Writes a chunk of an image into the copy not running. -/
  | firmwareUpdate (mb : Mbox) (inp : List Byte)
  /-- FIRMWARE_ACTIVATE (R437). Checks the transferred copy, selects it and restarts Kiln through Booting. -/
  | firmwareActivate (mb : Mbox) (inp : List Byte)
  /-- FIRMWARE_RECOVER (R438). Transfers an image into island SRAM, checks it, writes copy A and restarts Kiln. -/
  | firmwareRecover (mb : Mbox) (inp : List Byte)
  /-- FIRMWARE_WATCHDOG_EXPIRY (R399). Firmware failing to signal the watchdog within 2^30 island steps puts Kiln in Recovery. -/
  | firmwareWatchdogExpiry
  /-- BOOT (R435). The boot ROM checks and loads an image copy, applying the start-up commit where due. -/
  | boot
  /-- ENGINE_MAP_COMMIT (R469). Kiln applies its own commit mapping a failed slot's ring to the spare. -/
  | engineMapCommit (c : Ch)
  /-- SIEVE_INSERT_RESUME (R187). An insert waiting for the pending row proceeds once the running shift lands. -/
  | sieveInsertResume (c : Ch)
  /-- SHIFT_ROW_COPY (R191). The background shift copies one row toward the hole. -/
  | shiftRowCopy (c : Ch)
  /-- SHIFT_LANDING (R189). The pending row is written at its target and BSTART values adjusted. -/
  | shiftLanding (c : Ch)
  /-- SCRUB_VISIT (R195). The scrubber checks one Sieve row against its mirror and repairs or invalidates it. -/
  | scrubVisit (c : Ch) (parityBad mirrorBad : Bool)
  /-- SIEVE_ROW_SPARE_IN (R196). A spare physical row replaces a failed one between ring 7 descriptors. -/
  | sieveRowSpareIn (c : Ch) (idx : Nat)
  /-- SIEVE_BLOCK_REMOVAL (R193). A home channel's request removes every Sieve row naming a poisoned or released block. -/
  | sieveBlockRemoval (c : Ch)
  /-- SIEVE_COUNT_REQUEST (R227). A sweep's count request counts rows naming a block at the Sieve array. -/
  | sieveCountRequest (c tgt : Ch)
  /-- SIEVE_REPORT (R209). A Sieve insert or removal report reaches the block's reference port and is applied or refused. -/
  | sieveReport (c : Ch)
  /-- HELD_REFERENCE_CHANGE (R228). Changes held during a sweep are applied in arrival order after it. -/
  | heldReferenceChange (c : Ch)
  /-- POISON_SCAN (R229). After earlier attaches retire, sharers of a poisoned block receive EV_PAGE_POISON. -/
  | poisonScan (c : Ch)
  /-- CASCADE_FRAME (R200). A depth cascade frame arrives and the device suppresses and forwards hits. -/
  | cascadeFrame (c : Ch) (frame : BitVec 74)
  /-- CASCADE_TIMEOUT (R201). No cascade frame within 2^CAS_TIMEOUT_LOG2 steps ends the probe with a timeout. -/
  | cascadeTimeout (c : Ch)
  /-- LATE_CASCADE_FRAME (R201). A cascade frame arriving after the timeout is discarded. -/
  | lateCascadeFrame (c : Ch) (frame : BitVec 74)
  /-- CAND (R203). A paired CAND frame exchanges candidate matching indices. -/
  | cand (c : Ch) (frame : BitVec 40)
  /-- PLACE_FRAME (R203). A paired PLACE frame directs the follower's insert and shift. -/
  | placeFrame (c : Ch) (frame : BitVec 40)
  /-- DROP_FRAME (R203). A paired DROP frame invalidates the same index on the partner. -/
  | dropFrame (c : Ch) (frame : BitVec 40)
  /-- MARK (R203). A paired MARK frame applies a flag change at the same index. -/
  | mark (c : Ch) (frame : BitVec 40)
  /-- WRITE_BACK_TAKE (R244). The mover takes a write-back queue entry when its hold, fill or idle condition is met. -/
  | writeBackTake (c : Ch) (idle : Bool) (env : Env)
  /-- STRIPE_PROGRAMMED (R278). A stripe's 16 programs complete and map entries, buffer and MAP records are updated. -/
  | stripeProgrammed (c : Ch) (stream : Fin 4) (group : Nat)
  /-- STRIPE_PAD (R279). A stream's stripe waiting 2^24 steps is padded and programmed. -/
  | stripePad (c : Ch) (stream : Fin 4) (group : Nat)
  /-- PROGRAM_FAILURE (R283). A member program failure reprograms the stripe elsewhere and marks blocks. -/
  | programFailure (c : Ch) (stream : Fin 4) (group member : Nat)
  /-- ERASE_FAILURE (R283). An erase failure retires blocks and may retire the stripe block. -/
  | eraseFailure (c : Ch) (group sb : Nat) (members : List Nat)
  /-- NAND_READ_COMPLETE (R281). A unit read decodes, retries, soft-decodes or rebuilds from parity. -/
  | nandReadComplete (c : Ch) (unit : Nat) (res : NandResult)
  /-- DIE_TIMEOUT (R284). A die leaving four operations without status within 2^27 steps fails. -/
  | dieTimeout (c : Ch) (die : Nat)
  /-- DIE_PARAMETER_CHANGE (R284). A die whose parameter page changes fails. -/
  | dieParameterChange (c : Ch) (die : Nat)
  /-- COLLECTION (R287). Collection chooses a victim stripe block and copies its valid units out. -/
  | collection (c : Ch)
  /-- STRIPE_BLOCK_ERASE (R288). A victim is erased once its JSEQ_INVAL is durable and no read is in flight. -/
  | stripeBlockErase (c : Ch) (group sb : Nat)
  /-- JOURNAL_PAGE_PROGRAMMED (R289). Both copies of a journal page complete and the durable journal sequence advances. -/
  | journalPageProgrammed (c : Ch)
  /-- CHECKPOINT (R291). Marl writes changed map segments, the directory and CKPT. -/
  | checkpoint (c : Ch)
  /-- ANCHOR_WRITE (R291). Once CKPT is durable, an anchor page is written to both anchor blocks. -/
  | anchorWrite (c : Ch)
  /-- TEMPERATURE_SAMPLE (R302). Marl samples die temperature after each 2^16 programs or erases or 2^20 reads. -/
  | temperatureSample (c : Ch) (celsius : Int)
  /-- CHANNEL_START (R466). Kiln brings a channel through Starting with the stored or fallback self-test result. -/
  | channelStart (c : Ch) (start : StartReport)
  /-- SELF_TEST_WINDOW_CHECK (R466). Kiln rechecks voltage and temperature every 2^24 island steps before the fallback test. -/
  | selfTestWindowCheck (vcoreMv : Nat) (tj : Int)
  /-- SELF_TEST_GROUP_START (R462). A staggered self-test group starts after its predecessors allow. -/
  | selfTestGroupStart (g : Ch)
  /-- SELF_TEST_GROUP_END (R462). A group finishes and its record goes to the island. -/
  | selfTestGroupEnd (g : Ch) (rec : GroupRec)
  /-- STACK_LANE_FAILURE (R471). A failed stack lane is replaced by its group's spare or the stack drops to half width. -/
  | stackLaneFailure (c : Ch) (lane : Nat)
  /-- SUPPLY_WARN (R477). A rail crossing its warning level or PWRFAIL_N throttles channels and starts the power-fail flush. -/
  | supplyWarn (rail : Rail) (mv : Nat)
  /-- WARN_ACK_TIMEOUT (R428). A channel not acknowledging the warning broadcast within 2^16 island steps is isolated. -/
  | warnAckTimeout (c : Ch)
  /-- SUPPLY_OK (R478). Rails recover above warning plus hysteresis and the supply throttle lifts. -/
  | supplyOk (rail : Rail) (mv : Nat)
  /-- FLUSH_COMPLETE (R478). The power-fail flush completes and held programs resume. -/
  | flushComplete (c : Ch)
  /-- SUPPLY_RESET (R476). VCORE or VSRAM crossing its reset level loses every channel's state. -/
  | supplyReset (dip : RailDip)
  /-- SUPPLY_RESTORED (R476). After a VCORE or VSRAM reset, valid rails bring every channel up again. -/
  | supplyRestored
  /-- COLD_START (R476). VAON rises after loss and the whole device starts cold. -/
  | coldStart
  /-- REGULATOR_ALERT (R502). VR_ALERT_N asserts and Kiln reads STATUS_WORD, treating the rail as in warning. -/
  | regulatorAlert (rail : Rail) (fault : Bool) (mv : Nat)
  /-- THERMAL_SAMPLE (R480). A channel samples Tj and sets its thermal throttle level. -/
  | thermalSample (c : Ch) (sensor : Byte) (die stack : Int)
  /-- THERMAL_TRIP (R481). A junction reaching trip flushes media, isolates channels and asserts THERMTRIP_N. -/
  | thermalTrip (c : Ch) (tj : Int)
  /-- THERMAL_TRIP_BOUND (R481). After 2^20 island steps, channels are isolated even if flushes have not completed. -/
  | thermalTripBound
  /-- GOVERNOR_WINDOW (R483). At each window end the governor adjusts its level and the VCORE setpoint. -/
  | governorWindow (sense : PowerSense) (mv : Nat)
  /-- HEALTH_POLL_TIMEOUT (R427). A channel not answering a health poll within 2^20 island steps keeps its section marked STALE. -/
  | healthPollTimeout (c : Ch)
  /-- LINK_TRAINING_DONE (R374). Port training completes and the link comes up. -/
  | linkTrainingDone (c : Ch) (failed : BitVec 5) (peer : PeerInfo)
  /-- LINK_LANE_FAILURE (R374). A failed link lane triggers retraining with the spare or at reduced width. -/
  | linkLaneFailure (c : Ch) (lane : Fin 5)
  /-- LINK_RETRAIN_DONE (R374). Port retraining ends and packets may start again. -/
  | linkRetrainDone (c : Ch)
  /-- LINK_LOSS_OF_SIGNAL (R394). The port loses signal and goes down. -/
  | linkLossOfSignal (c : Ch)
  /-- UNCORRECTABLE_FLIT (R375). A flit that FEC cannot correct is dropped with its packets. -/
  | uncorrectableFlit (c : Ch)
  /-- PACKET_RECEIVE (R382). A native packet arrives and is classified new, ahead, duplicate or stale. -/
  | packetReceive (c : Ch) (hdr : BitVec 256) (payload : List Byte) (frame : LinkFrame)
  /-- WRITE (R384). A native remote WRITE is admitted and its packets written. -/
  | write (c : Ch) (env : Env)
  /-- READ_REQ (R384). A native remote read is admitted and answered with READ_RESP packets. -/
  | readReq (c : Ch) (env : Env)
  /-- ADD8 (R381). Native atomic add on an 8-byte word or a gate. -/
  | add8 (c : Ch) (env : Env)
  /-- ADD16 (R381). Native atomic add on a 16-byte word. -/
  | add16 (c : Ch) (env : Env)
  /-- CAS8 (R381). Native compare-and-swap on an 8-byte word. -/
  | cas8 (c : Ch) (env : Env)
  /-- CAS16 (R356). Native compare-and-swap on a 16-byte word, including a version-word publish. -/
  | cas16 (c : Ch) (env : Env)
  /-- DUPLICATE_LAST (R385). A duplicate LAST packet is answered from its duplicate record. -/
  | duplicateLast (c : Ch) (env : Env)
  /-- ACK (R390). A WRITE acknowledgement ends an outstanding operation. -/
  | ack (c : Ch)
  /-- READ_RESP (R380). Read response data arrives at the initiator. -/
  | readResp (c : Ch)
  /-- ATOMIC_RESP (R380). An atomic response ends an outstanding atomic with the word found. -/
  | atomicResp (c : Ch)
  /-- NAK_SEQ (R390). A sequence NAK makes outstanding operations from its PSN retransmit at once. -/
  | nakSeq (c : Ch)
  /-- CONTROL_FLIT (R394). A peer's control flit reports its channel state, supply warning or connection reset. -/
  | controlFlit (c : Ch) (f : PeerFlit)
  /-- SEND_QUEUE_ISSUE (R388). A send-queue entry is checked and sent with consecutive PSNs. -/
  | sendQueueIssue (c : Ch) (conn : Nat)
  /-- T3_MOVE_RESUME (R389). A T3 page move held by the duplicate window starts once SND_UNA advances. -/
  | t3MoveResume (c : Ch) (r : Ring)
  /-- OPERATION_TIMER_EXPIRY (R390). An operation's timer expires and it begins a retransmission wait, or fails after RETRY_MAX. -/
  | operationTimerExpiry (c : Ch) (conn : Nat) (psn : Word32)
  /-- RETRANSMIT_WAIT_END (R390). The back-off wait ends and the operation's packets are resent. -/
  | retransmitWaitEnd (c : Ch) (conn : Nat) (psn : Word32)
  /-- HOST_MEMORY_REQUEST_DONE (R393). A KIND 1 remote-window request to host memory completes or times out. -/
  | hostMemoryRequestDone (c : Ch) (r : Ring) (k : Nat) (timeout : Bool) (data : List Byte)
  /-- RDMA_WRITE (R397). A RoCEv2 RDMA WRITE packet is admitted and written. -/
  | rdmaWrite (c : Ch) (pkt : RocePkt) (env : Env)
  /-- RDMA_READ_REQUEST (R397). A RoCEv2 RDMA READ request is answered with read responses. -/
  | rdmaReadRequest (c : Ch) (pkt : RocePkt) (env : Env)
  /-- CMPSWAP (R396). A RoCEv2 8-byte compare-and-swap. -/
  | cmpswap (c : Ch) (pkt : RocePkt) (env : Env)
  /-- FETCHADD (R396). A RoCEv2 8-byte fetch-and-add, including gate adds. -/
  | fetchadd (c : Ch) (pkt : RocePkt) (env : Env)
  /-- ROCE_UNSUPPORTED_REQUEST (R395). An unsupported RoCEv2 packet receives a NAK for an invalid request. -/
  | roceUnsupportedRequest (c : Ch) (pkt : RocePkt)
  /-- PAUSE_FRAME (R395). A priority flow control or pause frame is received and honoured. -/
  | pauseFrame (c : Ch) (prio quanta : Nat)
  /-- ERASE_COMPLETE (R288). A stripe-block erase completes successfully, its ERASE record is appended and the stripe block becomes free. -/
  | eraseComplete (c : Ch) (group sb : Nat)
  /-- LINK_RETRAIN_TIMEOUT (R394). A port retrain that exceeds 100 µs takes the port Down and raises EV_LINK_DOWN. -/
  | linkRetrainTimeout (c : Ch)
  /-- VAON_RESET (R476). VAON falls through its reset level and the whole device, island included, loses its state. -/
  | vaonReset
  /-- FATAL_FAULT (R22). A fatal fault inside a channel takes it from Ready or Degraded to Isolated with CAUSE 4. -/
  | fatalFault (c : Ch)
  /-- GLOBAL_PERSISTENT_FLUSH (R304). A CXL Global Persistent Flush phase arrives and is acknowledged with no action. -/
  | globalPersistentFlush (phase : Nat)
  /-- CREDIT_ADVERTISED (R375). The peer advertises a receive buffer, letting the native link layer start a packet that waited for credit. -/
  | creditAdvertised (c : Ch) (n : Nat)
  /-- ISLAND_PACE_WINDOW_END (R431). At the end of each 1,000-cycle SREFCLK window, ISLAND_PACE latches its island step count and advances WINDOW_SEQ. -/
  | islandPaceWindowEnd (steps : BitVec 20)
  deriving DecidableEq, Repr

end Sys2Proof
end

