-- ==== Sys2Proof/Config.lean ====
section
/-! DEFINITION. What the specification leaves open, as constants without a body: nothing in Lean can see their
values, so every statement holds whatever they are. Each is named in a row of notes/assumptions. -/

namespace Sys2Proof

/-- Log 1. A free value for each number drawn: values that the specification gives no number for (ELAPSED of a
completion record R151, the numbers of allocated nodes R64, the seed of the rounding generator R104). -/
opaque Config.free : Nat → BitVec 64

/-- Log 14. The order in which the array and the soft-max unit add (R98 says that it is fixed and does not state it):
with `n` summands left, the positions of the two that are added next. -/
opaque Config.addPick : Nat → Nat × Nat

/-- Log 15. The error of the soft-max unit's exp, in units in the last place (R112 bounds it by 2). -/
opaque Config.expErr : Word32 → Int
/-- Log 32. The sign to which a score is clamped when the FP32 sums of finite operands meet infinities of both signs, by the position's slot
(R113 clamps the score; the specification does not state the sign). -/
opaque Config.clampNeg : Nat → Bool
/-- Log 15. The error of the soft-max unit's ln, in units in the last place (R112 bounds it by 2). -/
opaque Config.lnErr : Word32 → Int

/-- Log 5. The private part of the identity key pair, sealed in a fuse of each device (R432, R439). -/
opaque Config.idKey : Nat
/-- Log 5. The private part of the wrap key pair, sealed in a fuse of each device (R432, R439). -/
opaque Config.wrapKey : Nat
/-- Log 5. The X.509 v3 form of a certificate (R439), whose names and times the specification does not give: its place (0 root CA, 1 device CA, 2 device,
3 wrap), the die serial number of its subject, and its public key. -/
opaque Config.x509 : Nat → Nat → List Byte → List Byte
/-- Log 39. What SPDM asks a responder to say and the specification does not give: 0 CTExponent, 1 DataTransferSize, 2 MaxSPDMmsgSize, 3 HeartbeatPeriod. -/
opaque Config.spdmParam : Nat → Nat

/-- Log 16. The SM3 digest of the boot ROM (measurement block 1 of R441). -/
opaque Config.bootRomDigest : List Byte
/-- Log 16. The bytes of the board record in the firmware flash (measurement block 4 of R441): of BOARD, POWER_W, CASCADE and TARGETS, in that order (the record's
layout is not in the specification). -/
opaque Config.boardRecord : List Nat → List Byte
/-- Log 12. A byte of the node pool, the pooled area or an unassigned part of the metadata area as a metadata window
reads it: channel, T1 byte address (the node layout in the pool is the allocator's). -/
opaque Config.metaByte : Nat → Nat → Byte
/-- Log 16. FLIT_MODES of capability 0x0008 (R421): the specification does not give its coding. -/
opaque Config.flitModes : Byte
/-- Log 16. VERSION of a capability entry: capability ID. -/
opaque Config.capVersion : Nat → Byte
/-- Log 16. VERSION of the health log (R426). -/
opaque Config.healthVersion : BitVec 16
/-- Log 1. The rated endurance of the dies in erases (R301 gives wear over it, and no figure). -/
opaque Config.endurance : Nat
/-- Log 1. WEAR_USED of the device section from the channels' (R301 states no combination). -/
opaque Config.deviceWear : List Nat → BitVec 16
/-- Log 150. Where a function's configuration space holds the MSI-X and the AER capability, and its revision (PCI Express; R308 and R312 give no layout). -/
opaque Config.msixCap : Nat
/-- Log 150. The AER capability. -/
opaque Config.aerCap : Nat
/-- Log 150. Revision ID. -/
opaque Config.revision : Byte
/-- Log 150. Where BAR0's device registers hold the registers of mailbox 0 (primary) and 1 (secondary), by mailbox; and where its component registers hold the
RAS capability (CXL 3.1; R312 gives no layout within the two 64 KiB parts). -/
opaque Config.mbRegs : Nat → Nat
/-- Log 150. The RAS capability. -/
opaque Config.rasCap : Nat
/-- Log 150. The HDM decoder capability among BAR0's component registers. -/
opaque Config.hdmCap : Nat
/-- Log 150. The device status among BAR0's device registers. -/
opaque Config.devStatus : Nat
/-- Log 150. The memory device status among BAR0's device registers. -/
opaque Config.memStatus : Nat
/-- Log 150. The data object exchange capability in configuration space. -/
opaque Config.doeCap : Nat
/-- Log 150. The IDE capability in configuration space. -/
opaque Config.ideCap : Nat
/-- Log 150. The CDAT of a logical device, entry by entry: the entry's bytes and the handle of the next (CXL 3.1; R304 names the table and not its contents). -/
opaque Config.cdat : Nat → Nat → List Byte × Nat
/-- Log 84. The path MTU of an Ethernet connection, as a power of two over 1,024 bytes (R395 allows three per connection; R376 has no parameter for it). -/
opaque Config.pathMtu : Nat → Fin 3
/-- Log 191. The number of received packets waiting from which an Ethernet port pauses its peer, the priority that it pauses, and for how long (R395 gives none). -/
opaque Config.pfcMark : Nat
/-- Log 191. The priority. -/
opaque Config.pfcPrio : Fin 8
/-- Log 191. The quanta. -/
opaque Config.pfcQuanta : BitVec 16
/-- Log 16. CXL logs and Get Log contents (CXL 3.1, not in the specification): log identifier. -/
opaque Config.cxlLog : BitVec 128 → List Byte

end Sys2Proof
end

