-- ==== Sys2Proof/Machine/Types.lean ====
section
/-! DEFINITION. The records that the state of a channel and of the Kiln island is made of. -/

namespace Sys2Proof.Machine
open Sys2Proof

/-- A sparse store: (index, value) pairs, indices rising. -/
abbrev SMap (α : Type) := List (Nat × α)

/-- A number: NaN, an infinity, or (−1)^neg × m × 2^e exactly. -/
inductive Num
  | nan
  | inf (neg : Bool)
  | fin (neg : Bool) (m : Nat) (e : Int)
  deriving DecidableEq, Repr

/-! ## Objects -/

/-- Sequence slot states (R50). -/
inductive SlotState
  | free | active | frozen | closing | retired
  deriving DecidableEq, Repr

/-- A sequence table entry (R63), and whether the sequence has had its first write (R57, R213). -/
structure SeqEntry where
  gen       : BitVec 16
  state     : SlotState
  modelTag  : BitVec 16
  layersM1  : BitVec 8
  headsM1   : BitVec 6
  headDim   : BitVec 3
  length    : BitVec 29
  posBase   : BitVec 28
  owner     : BitVec 12
  kFmt      : BitVec 5
  vFmt      : BitVec 5
  lossOk    : Bool
  ring      : Bool
  sinkPages : BitVec 4
  ringPages : BitVec 22
  ringHead  : BitVec 22
  useCount  : BitVec 16
  dirNode   : BitVec 24
  prefixPb  : BitVec 40
  written   : Bool
  deriving DecidableEq, Repr

/-- The reset value of a sequence table entry (R63). -/
def SeqEntry.free : SeqEntry :=
  { gen := 0, state := .free, modelTag := 0, layersM1 := 0, headsM1 := 0, headDim := 0, length := 0, posBase := 0,
    owner := 0, kFmt := 0, vFmt := 0, lossOk := false, ring := false, sinkPages := 0, ringPages := 0, ringHead := 0,
    useCount := 0, dirNode := 0, prefixPb := 0xFFFFFFFFFF, written := false }

/-- A directory entry (R67). -/
structure DirEntry where
  present  : Bool
  depth    : BitVec 2
  rootNode : BitVec 24
  deriving DecidableEq, Repr

/-- KIND of a page-table entry (R68). -/
inductive PKind
  | empty | priv | shared | pruned
  deriving DecidableEq, Repr

/-- A page-table entry, or a page record of a prefix block (R68). -/
structure Pte where
  kind    : PKind
  tier    : BitVec 2
  cls     : BitVec 3
  fill    : BitVec 7
  poison  : Bool
  dirty   : BitVec 16
  pgate   : BitVec 12
  refcnt  : BitVec 16
  summIdx : BitVec 24
  loc     : BitVec 45
  deriving DecidableEq, Repr

/-- The Empty entry (R69): KIND 0 and every other field 0. PGATE of an entry that is not Empty resets to 0xFFF (R68). -/
def Pte.empty : Pte :=
  { kind := .empty, tier := 0, cls := 0, fill := 0, poison := false, dirty := 0, pgate := 0, refcnt := 0, summIdx := 0, loc := 0 }

/-- A page summary (R72). -/
structure Summ where
  mass      : Word32
  knorm     : Word32
  touch     : BitVec 40
  tilth     : BitVec 16
  protect   : BitVec 2
  ownerKind : Bool
  ownerRef  : BitVec 40
  layer     : Byte
  head      : BitVec 6
  pn        : BitVec 22
  keyScale  : BitVec 16
  massN     : Word32
  mean      : List Byte
  deriving DecidableEq, Repr

/-- STATE of a prefix-block descriptor (R74). -/
inductive PbState
  | free | building | live | poisoned
  deriving DecidableEq, Repr

/-- A prefix-block slot: the slot table entry (R73) and the descriptor header (R74). The page records stand apart. -/
structure PbSlot where
  used      : Bool
  pbGen     : BitVec 12
  firstNode : BitVec 24
  key       : BitVec 128
  modelTag  : BitVec 16
  state     : PbState
  layersM1  : Byte
  headsM1   : BitVec 6
  headDim   : BitVec 3
  kFmt      : BitVec 5
  vFmt      : BitVec 5
  blockNo   : BitVec 22
  parent    : BitVec 40
  owner     : BitVec 12
  deriving DecidableEq, Repr

/-- The reset value of a prefix-block slot. -/
def PbSlot.free : PbSlot :=
  { used := false, pbGen := 0, firstNode := 0, key := 0, modelTag := 0, state := .free, layersM1 := 0, headsM1 := 0,
    headDim := 0, kFmt := 0, vFmt := 0, blockNo := 0, parent := 0xFFFFFFFFFF, owner := 0 }

/-- What a node of the node pool (R64) is used for. -/
inductive NodeKey
  | dir (slot i : Nat)
  | leaf (slot layer head i : Nat)
  | mid (slot layer head i : Nat)
  | pb (slot i : Nat)
  | region (idx : Nat)
  | conn (n i : Nat)
  | window (i : Nat)
  deriving DecidableEq, Repr

/-! ## Work rings -/

/-- What a descriptor reports at its retire (R151). -/
structure Cpl where
  status : BitVec 16
  flags  : BitVec 16
  minCov : BitVec 16
  detail : Word32
  result : Word64
  deriving DecidableEq, Repr

/-- The parameters of one attention over one sequence (R109), with the limit of held positions (the LENGTH snapshot
of R57, or the length table's of R161) and the last page of the LENGTH snapshot, from which a ring's live set follows (R118). -/
structure AttnParams where
  slot    : Nat
  layer   : Nat
  head    : Nat
  kind    : Nat
  qpos0   : Nat
  qn      : Nat
  g       : Nat
  window  : Nat
  sink    : Nat
  tree    : BitVec 256
  pageLo  : Nat
  pageHi  : Nat
  scale   : Word32
  qFmt    : BitVec 5
  oFmt    : BitVec 5
  qAddr   : Nat
  oAddr   : Nat
  select  : Bool
  topk    : Nat
  recent  : Nat
  beta    : BitVec 16
  stream  : Bool
  massFb  : Bool
  absent  : Bool
  heldEnd : Nat
  last    : Nat
  deriving DecidableEq, Repr

/-- The running state of one row (R111 on): maximum, sum, accumulator, the offset sums of Tilth values (R97), counts and flags. -/
structure RowAcc where
  m        : Num
  l        : Num
  acc      : List Num
  off      : List Num
  eligible : Nat
  attended : Nat
  nan      : Bool
  skipped  : Bool
  poisoned : Bool
  overrun  : Bool
  clamp    : Bool
  deriving DecidableEq, Repr

/-- An attention descriptor under way: the sequence's parameters, the sequences of the batch still to run, the slots of all, the row
tile and whether it has begun, its query rows as read at its start (R110: elements and scales), its pages still to visit, the pages chosen
(R122), the rows, the feedback log (R134), the pages attended with their summaries, the pages staged so far (R107), and what the completion
will report. -/
structure AttnCtx where
  cur      : AttnParams
  subs     : List AttnParams
  slots    : List Nat
  tile     : Nat
  begun    : Bool
  qrows    : List (List Byte × List Byte)
  todo     : List Nat
  chosen   : Option (List Nat)
  rows     : List RowAcc
  massLog  : List (Nat × Num)
  attended : List (Nat × Nat)
  staged   : Nat
  flags    : BitVec 16
  minCov   : BitVec 16
  tag      : BitVec 16
  deriving DecidableEq, Repr

/-- One page move of a placement descriptor (R250, R251): the page (key of its entry or page record), whether it is a
block's record, the destination of its list entry, whether it writes a homed page back to its home (pooled demotion), whether it has
ended, whether its T3 request is outstanding, and whether the other ring named the page first (R252). -/
structure Move where
  key   : Nat
  isPb  : Bool
  dest  : BitVec 45
  homed : Bool
  ended : Bool
  wait3 : Bool
  later : Bool
  deriving DecidableEq, Repr

/-- A placement descriptor whose moves are under way. -/
structure MoveCtx where
  opcode  : Byte
  kind    : Nat
  obj     : BitVec 48
  whole   : Bool
  toTier  : BitVec 2
  cls     : BitVec 3
  pgate   : BitVec 12
  owner   : BitVec 12
  tag     : BitVec 16
  useSlot : Option Nat
  moves   : List Move
  acted   : Nat
  skipped : Nat
  evicted : Nat
  status  : BitVec 16
  detail  : Word32
  stopped : Bool
  deriving DecidableEq, Repr

/-- A Sieve row (R178). -/
structure SieveRow where
  key     : BitVec 128
  tag     : BitVec 16
  band    : BitVec 4
  valid   : Bool
  transit : Bool
  pinned  : Bool
  user    : Bool
  pb      : BitVec 40
  deriving DecidableEq, Repr

/-- An invalid row. -/
def SieveRow.none : SieveRow :=
  { key := 0, tag := 0, band := 0, valid := false, transit := false, pinned := false, user := false, pb := 0 }

/-- Where an insert places its row (R187, R188): the row, its target, the direction, the insert index i, the hole, the rows to move, and
whether it goes into a hole at the edge of its band with no shift. As the pending row of a running shift: the rows moved so far, the index that the
next copy writes, and the index whose row carries TRANSIT. -/
structure PendRow where
  row    : SieveRow
  target : Nat
  down   : Bool
  edge   : Nat
  hole   : Nat
  total  : Nat
  direct : Bool
  moved  : Nat
  cur    : Nat
  prev   : Option Nat
  deriving DecidableEq, Repr

/-- A probe that waits for its cascade frame (R200): entries hit here, the searches' results, CAS_SEQ, where the
records go, and (paired mode, R203) the keys, the entry under search, x and the round trips made. -/
structure ProbeCtx where
  recs    : List (BitVec 128)
  resAddr : Nat
  casSeq  : Byte
  keys    : List (BitVec 128)
  entry   : Nat
  x       : Nat
  trips   : Nat
  deriving DecidableEq, Repr

/-- What an `Append` still has to write into a frame under a guard (R238): the key of the page's entry, its frame and class, the page's slots,
the 4 KiB pieces written, and the writes: T1 address and plaintext. -/
structure HeldPage where
  key    : Nat
  frame  : Nat
  cls    : Nat
  fill   : Nat
  pieces : List Nat
  writes : List (Nat × List Byte)
  deriving DecidableEq, Repr

/-- An `Append` whose other writes are done: its slot, the pages held, whether it rewrites a shared page (R215), and its flags. -/
structure AppendCtx where
  slot     : Nat
  pages    : List HeldPage
  rewrites : Bool
  flags    : BitVec 16
  deriving DecidableEq, Repr

/-- The writes that a Slip descriptor still has to make, in order: its destination's channel and owner, the next T1 address, the plaintext of the lines
from there on, and its completion (R238, R246, R365). -/
structure SlipCtx where
  ch    : Nat
  owner : Nat
  addr  : Nat
  lines : List (List Byte)
  cpl   : Cpl
  deriving DecidableEq, Repr

/-- Why a ring's head descriptor has not retired. -/
inductive RingWait
  /-- Nothing is admitted or waiting. -/
  | idle
  /-- It waits on its header gate (R145); the flag says that a change of the gate has satisfied the wait. -/
  | gate (met : Bool)
  /-- Its header wait (or another wait before its admission) is over; it may be admitted. -/
  | released
  /-- A wait during its execution is over; it goes on executing. -/
  | resumed
  /-- It waits at admission because USE_COUNT is full (R53). -/
  | useFull
  /-- A `SeqClose` waits until USE_COUNT is 0 (R53). -/
  | closeDrain (slot : Nat)
  /-- A whole `Demote` waits until USE_COUNT counts itself alone (R255). -/
  | freeze (slot : Nat) (ctx : MoveCtx)
  /-- An engine waits on the presence gate of a page (R164). -/
  | presence (gate : Nat) (met : Bool) (ctx : AttnCtx)
  /-- Page moves are under way (R251). -/
  | moves (ctx : MoveCtx)
  /-- An `Append` waits for the move of a page to end (R252). -/
  | pageMove (key : Nat)
  /-- It waits for guards of R126 before it writes frames (R238); the writes that come before are done. -/
  | guardPages (ctx : AppendCtx)
  | guardWrites (ctx : SlipCtx)
  /-- A Slip descriptor waits at a write for room in the write-back queue (R246), or for its turn at the lines still to write (R329). -/
  | slipRoom (ctx : SlipCtx)
  /-- A `Persist` waits until the journal holds its image durably (R258). -/
  | persist (cpl : Cpl) (tag evicted : Nat)
  /-- A `Drop`, `Prune` or `SeqClose` waits with entries still to act on: at the release log (R237), for another agent that holds the next entry (R252),
  or for a sweep (R228). -/
  | dropping (left : List Nat) (acted skipped : Nat)
  /-- A `Persist` waits for acceptance or at the release log (R278, R237): the pages still to take homes, with their list entries. -/
  | persistGo (homes : List ((Nat × Bool) × Nat))
  /-- A whole `Demote`, its moves over, hands its summaries to Marl (R255 step 4): the next unit of the metadata store and the units left. -/
  | freezeOut (ctx : MoveCtx) (next left : Nat)
  /-- A `SieveInsert` waits for the pending row to land (R187 step 1). -/
  | insertWait
  /-- Sieve reports are outstanding (R180): how many, the row to place, and the completion. -/
  | reports (left : Nat) (row : Option PendRow) (cpl : Cpl)
  /-- A probe waits for its cascade frame (R200). -/
  | cascade (ctx : ProbeCtx)
  /-- A paired exchange is under way (R203). -/
  | paired (ctx : ProbeCtx)
  /-- A `Sweep` waits for the count requests it sent (R227). -/
  | sweep
  /-- A change of the descriptor is held by a running sweep (R228). -/
  | held
  /-- It waits at the release log (R237), or for room for its journal records (R289); the descriptor's work is done. -/
  | logFull (cpl : Cpl)
  /-- Its admission to a region waits at a saturated DRAIN count (R359). -/
  | drain (region par : Nat)
  /-- It waits for a back-invalidate snoop (R329). -/
  | snoop
  /-- It waits at Marl for acceptance (R278, R292, R477). -/
  | media
  deriving DecidableEq, Repr

/-- The RWL words of a channel block (R8, R65, R198, R223, R239, R269, R375). `linkCfg` leaves out ENABLE, which is RW. -/
structure ChCfg where
  objCfg    : Word32
  tilthCfg  : Word32
  tierCfg   : Word32
  sieveCfg  : Word32
  sieveMask : Vector Word32 4
  marlCfg   : Word32
  linkCfg   : Word32
  deriving DecidableEq, Repr

/-- The reset values of the RWL words, packed from the fields of their maps: OBJ_CFG 0x14, 0x11, 0x18, 8; TILTH_CFG
4, 4; TIER_CFG 0, 2, 0xA, 4; SIEVE_CFG 0xFFFF, 0xA, 0, 0, 0, 0x14; MARL_CFG 1, 0x40, 0x60, 0x20; LINK_CFG 0, 8, 0x11, 7, 0xC. -/
def ChCfg.reset : ChCfg :=
  { objCfg := 0xA4702000, tilthCfg := 0x44000000, tierCfg := 0x4A400000, sieveCfg := 0xFFFFA014,
    sieveMask := Vector.replicate 4 0xFFFFFFFF, marlCfg := 0x44060200, linkCfg := 0x445F0000 }

/-- What a commit changes of a channel: its words, where its areas begin (R64, R240), and CH_ASSIGN. -/
structure ChSettings where
  cfg      : ChCfg
  mdBase   : BitVec 16
  poolBase : BitVec 16
  assign   : Word32
  deriving DecidableEq, Repr

/-- What a commit changes of a logical device: LD_CFG and LD_KEYS. -/
structure LdSettings where
  cfg  : Word32
  keys : Word32
  deriving DecidableEq, Repr

/-- The settings of a commit (R26). -/
structure Settings where
  chs : Vector ChSettings 12
  lds : Vector LdSettings 16
  deriving DecidableEq, Repr

/-- The registers of one ring (R139), the sequence slots whose USE_COUNT its admitted descriptor counts in (R53), the regions (index and
DRAIN parity) that count it (R359), where its head descriptor stands, the settings under which that descriptor runs when a commit has
changed them since it began (R26), and the pages that it has evicted as a `Persist` (R296). -/
structure RingState where
  base     : BitVec 12
  cplBase  : BitVec 12
  enable   : Bool
  stop     : Bool
  draining : Bool
  sizeLog2 : BitVec 4
  irqVec   : BitVec 11
  tail     : BitVec 12
  head     : BitVec 12
  cfgErr   : Bool
  retired  : Word32
  phase    : Bool
  inUse    : List Nat
  regs     : List (Nat × Nat)
  wait     : RingWait
  old      : Option Settings
  evicted  : Nat
  deriving DecidableEq, Repr

/-- The reset value of a ring (R139). -/
def RingState.reset : RingState :=
  { base := 0, cplBase := 0, enable := false, stop := false, draining := false, sizeLog2 := 6, irqVec := 0, tail := 0,
    head := 0, cfgErr := false, retired := 0, phase := true, inUse := [], regs := [], wait := .idle, old := none, evicted := 0 }

/-- A gate add on its way through the port hub (R146). -/
structure GateAdd where
  gate   : BitVec 12
  amount : Word32
  deriving DecidableEq, Repr

/-- A location being released (R126, R237): tier, class, location, and the engine rings whose attention descriptors,
admitted before the free, have not retired. -/
structure Release where
  tier  : BitVec 2
  cls   : BitVec 3
  loc   : BitVec 45
  rings : List Nat
  deriving DecidableEq, Repr

/-- The release log (R237) and the releases not yet recorded. -/
structure RelLog where
  base     : BitVec 12
  enable   : Bool
  sizeLog2 : BitVec 5
  head     : BitVec 16
  tail     : BitVec 16
  fullWait : Bool
  queue    : List Release
  deriving DecidableEq, Repr

/-! ## The Sieve -/

/-- A Sieve's report to a block's home channel (R180): the reporting channel, its ring 7 (or a loss or request that
waits for no answer), insert or removal, and the block. -/
structure Report where
  from_  : Nat
  answer : Bool
  insert : Bool
  pb     : BitVec 40
  deriving DecidableEq, Repr

/-- The state of a channel's Sieve (R178 to R197); `phys`: the logical indices that a spare physical row serves; `bad`: the physical rows that
have failed. -/
structure Sieve where
  rows      : SMap SieveRow
  mirror    : SMap SieveRow
  unusable  : List Nat
  sparing   : List Nat
  phys      : SMap Nat
  bad       : List Nat
  rewrites  : SMap Nat
  spares    : Nat
  usable    : Nat
  bstart    : Vector Nat 16
  pend      : Option PendRow
  scrubPos  : Nat
  fixed     : Nat
  lost      : Nat
  deriving DecidableEq, Repr

/-! ## Sharing -/

/-- A sweep under way (R227): the blocks in scope with their counts so far per record, and the channels still to
answer. -/
structure SweepCtx where
  blocks  : List Nat
  q       : SMap Nat
  waiting : List Nat
  deriving DecidableEq, Repr

/-- A change that a running sweep holds (R228). -/
inductive HeldChange
  | report (r : Report)
  | ring (r : Nat)
  | poison (key : Nat) (pb : BitVec 40)
  deriving DecidableEq, Repr

/-- A poison scan due (R229 step 3.3): the block, layer and head. -/
structure PoisonScan where
  pb    : BitVec 40
  layer : Nat
  head  : Nat
  deriving DecidableEq, Repr

/-- The reference port of a channel's object unit (R206) and what waits for it, with the blocks that were in the scope of a sweep whose held
changes are not all applied (R228). -/
structure RefPort where
  reports  : List Report
  sweep    : Option SweepCtx
  scope    : List Nat
  held     : List HeldChange
  removals : List (Nat × BitVec 40)
  scans    : List PoisonScan
  deriving DecidableEq, Repr

/-! ## Pooled mode -/

/-- A home table entry (R241), and the frame class that the home has in T2 (the page's class when it lay there, log 30). -/
structure HomeEntry where
  homed  : Bool
  wbBusy : Bool
  home   : BitVec 35
  cls    : BitVec 3
  deriving DecidableEq, Repr

/-- No home. -/
def HomeEntry.none : HomeEntry := { homed := false, wbBusy := false, home := 0, cls := 0 }

/-- A write-back in flight (R245): a page piece's unit or a region piece's, the SUMM_IDX or piece, the unit within the home, the owner, the unit
of T2, its slots, the first byte, the plaintext read from T1, and the home that it is for. -/
structure WbRun where
  region : Bool
  ref    : Nat
  unit   : Nat
  owner  : Nat
  lu     : Nat
  mask   : Nat
  off    : Nat
  bytes  : List Byte
  home   : BitVec 35
  deriving DecidableEq, Repr

/-- A write-back queue entry (R243). -/
structure WbEntry where
  region : Bool
  piece  : BitVec 4
  ref    : Nat
  stamp  : Word32
  deriving DecidableEq, Repr

end Sys2Proof.Machine
end

