-- ==== Sys2Proof/Machine/Bits.lean ====
section
/-! DEFINITION. Sparse stores, bit fields and byte strings (R6: structures are little-endian). -/

namespace Sys2Proof.Machine
open Sys2Proof

/-! ## Sparse stores -/

/-- The value at index `k`, if listed. -/
def smGet? {α : Type} : SMap α → Nat → Option α
  | [], _ => none
  | (i, v) :: m, k => if i = k then some v else if k < i then none else smGet? m k

/-- The value at index `k`; an unlisted index reads `d`. -/
def smGet {α : Type} (d : α) (m : SMap α) (k : Nat) : α := (smGet? m k).getD d

/-- Lists `v` at index `k`. -/
def smPut {α : Type} : SMap α → Nat → α → SMap α
  | [], k, v => [(k, v)]
  | (i, w) :: m, k, v => if k < i then (k, v) :: (i, w) :: m else if i = k then (k, v) :: m else (i, w) :: smPut m k v

/-- Removes index `k`. -/
def smDel {α : Type} : SMap α → Nat → SMap α
  | [], _ => []
  | (i, w) :: m, k => if i = k then m else if k < i then (i, w) :: m else (i, w) :: smDel m k

/-- Writes `v` at index `k` of a store whose unlisted indices read `d`: writing `d` removes the entry, so that equal
contents are equal data. -/
def smSet {α : Type} [DecidableEq α] (d : α) (m : SMap α) (k : Nat) (v : α) : SMap α :=
  if v = d then smDel m k else smPut m k v

/-- The entries whose index satisfies `p`. -/
def smFilter {α : Type} (p : Nat → Bool) (m : SMap α) : SMap α := m.filter (fun e => p e.1)

/-- The canonical form: indices strictly rising from above `lo`. -/
def smRising {α : Type} : Option Nat → SMap α → Bool
  | _, [] => true
  | lo, (i, _) :: m => (match lo with | none => true | some b => decide (b < i)) && smRising (some i) m

/-- The canonical form of a store whose unlisted indices read `d`. -/
def smWf {α : Type} [DecidableEq α] (d : α) (m : SMap α) : Bool :=
  smRising none m && m.all (fun e => !decide (e.2 = d))

/-- Writes a byte string at consecutive indices from `a`; unlisted bytes read 0. -/
def smBytes (m : SMap Byte) (a : Nat) : List Byte → SMap Byte
  | [] => m
  | b :: bs => smBytes (smSet 0 m a b) (a + 1) bs

/-- Reads `n` bytes from `a`. -/
def smRead (m : SMap Byte) (a : Nat) : Nat → List Byte
  | 0 => []
  | n + 1 => smGet 0 m a :: smRead m (a + 1) n

/-! ## Bit fields -/

/-- Bits [hi:lo] of a number. -/
def fld (w hi lo : Nat) : Nat := (w >>> lo) % 2 ^ (hi + 1 - lo)

/-- Bit `i` of a number. -/
def bit (w i : Nat) : Bool := w.testBit i

/-- A number of `n` bits placed at bit `lo`. -/
def at_ (lo n v : Nat) : Nat := (v % 2 ^ n) <<< lo

/-- 1 for true. -/
def b2n (b : Bool) : Nat := if b then 1 else 0

/-- The number of a little-endian byte string. -/
def leNat : List Byte → Nat
  | [] => 0
  | b :: bs => b.toNat + 256 * leNat bs

/-- The little-endian byte string of `k` bytes of a number. -/
def natLe (v : Nat) : Nat → List Byte
  | 0 => []
  | k + 1 => BitVec.ofNat 8 v :: natLe (v / 256) k

/-- The number of a big-endian byte string. -/
def beNat (bs : List Byte) : Nat := bs.foldl (fun a b => 256 * a + b.toNat) 0

/-- The big-endian byte string of `k` bytes of a number. -/
def natBe (v k : Nat) : List Byte := (natLe v k).reverse

/-- `n` bytes from offset `o` of a byte string; missing bytes are 0. -/
def bsub (bs : List Byte) (o n : Nat) : List Byte :=
  let t := (bs.drop o).take n
  t ++ List.replicate (n - t.length) 0

/-- The little-endian number of `n` bytes at offset `o`. -/
def bnum (bs : List Byte) (o n : Nat) : Nat := leNat (bsub bs o n)

/-- All bytes 0. -/
def zeros (n : Nat) : List Byte := List.replicate n 0

/-- Overwrites bytes of a byte string from offset `o`. -/
def bset (bs : List Byte) (o : Nat) (v : List Byte) : List Byte := bs.take o ++ v ++ bs.drop (o + v.length)

/-- Cuts a list into pieces of `n` (fuel: the list's length). -/
def chunks {α : Type} (n : Nat) (xs : List α) : List (List α) :=
  go xs.length xs
where
  /-- At most `fuel` pieces. -/
  go : Nat → List α → List (List α)
  | 0, _ => []
  | _, [] => []
  | fuel + 1, ys => ys.take n :: go fuel (ys.drop n)

/-- Saturating addition of a counter of `w` bits. -/
def satAdd (w a n : Nat) : Nat := min (a + n) (2 ^ w - 1)

/-- Rounds up to a multiple of `n`. -/
def roundUp (x n : Nat) : Nat := (x + n - 1) / n * n

/-- ⌈x / n⌉. -/
def ceilDiv (x n : Nat) : Nat := (x + n - 1) / n

/-- A byte string of `n` bytes (two's complement) of an integer. -/
def intLe (v : Int) (n : Nat) : List Byte := natLe (v % (2 ^ (8 * n) : Nat)).toNat n

/-- The channel of a number, if it is one. -/
def chOf (n : Nat) : Option Ch := if h : n < 12 then some ⟨n, h⟩ else none

/-- The ring of a number, if it is one. -/
def ringOf (n : Nat) : Option Ring := if h : n < 9 then some ⟨n, h⟩ else none

/-- The logical device of a number, if it is one. -/
def ldOf (n : Nat) : Option Ld := if h : n < 16 then some ⟨n, h⟩ else none

/-- All channels. -/
def allCh : List Ch := [0, 1, 2, 3, 4, 5, 6, 7, 8, 9, 10, 11]

/-- All rings of a channel. -/
def allRings : List Ring := [0, 1, 2, 3, 4, 5, 6, 7, 8]

/-- All logical devices. -/
def allLds : List Ld := [0, 1, 2, 3, 4, 5, 6, 7, 8, 9, 10, 11, 12, 13, 14, 15]

/-- The first index below `n` that satisfies `p`. -/
def firstIdx (p : Nat → Bool) (n : Nat) : Option Nat := (List.range n).find? p

/-- The lowest index not listed in a store whose entries start at `i`. -/
def lowestFree {α : Type} : SMap α → Nat → Nat
  | [], i => i
  | (k, _) :: m, i => if k = i then lowestFree m (i + 1) else i

/-- The lowest index from `i` on at which `n` indices in a row are not listed, in a store whose entries from `i` on are those given. -/
def lowestRun {α : Type} : SMap α → Nat → Nat → Nat
  | [], _, i => i
  | (k, _) :: m, n, i => if k < i + n then lowestRun m n (k + 1) else i

/-- Insertion sort by a Boolean order (stable). -/
def sortBy {α : Type} (le : α → α → Bool) : List α → List α
  | [] => []
  | x :: xs => ins x (sortBy le xs)
where
  /-- Inserts into a sorted list. -/
  ins (x : α) : List α → List α
  | [] => [x]
  | y :: ys => if le x y then x :: y :: ys else y :: ins x ys

/-- Removes later repeats. -/
def dedup {α : Type} [DecidableEq α] : List α → List α
  | [] => []
  | x :: xs => x :: (dedup xs).filter (fun y => !decide (y = x))

/-- The popcount of a number of at most `n` bits. -/
def popcount (v : Nat) : Nat → Nat
  | 0 => 0
  | n + 1 => v % 2 + popcount (v / 2) n

end Sys2Proof.Machine
end

