-- ==== Sys2Proof/Machine/Operands.lean ====
section
/-! DEFINITION. Numbers and number formats: FP32 arithmetic (R98), element encodings (R85 to R88), packing (R89, R90),
the Tilth rotation (R91), rounding into a format (R99 to R102), stochastic rounding (R103, R104), and the exp and ln of
the soft-max unit (R112). A `Num` is exact; arithmetic rounds it to FP32. -/

namespace Sys2Proof.Machine
open Sys2Proof

/-! ## Exact numbers -/

/-- A floating-point format: significand bits with the hidden one, exponent of the smallest normal, largest exponent. -/
structure FloatFmt where
  p    : Nat
  emin : Int
  emax : Int
  deriving DecidableEq, Repr

/-- The formats of R85. -/
def fp32F : FloatFmt := { p := 24, emin := -126, emax := 127 }
/-- BF16. -/
def bf16F : FloatFmt := { p := 8, emin := -126, emax := 127 }
/-- FP16. -/
def fp16F : FloatFmt := { p := 11, emin := -14, emax := 15 }
/-- FP8 E5M2. -/
def e5m2F : FloatFmt := { p := 3, emin := -14, emax := 15 }
/-- FP8 E4M3. -/
def e4m3F : FloatFmt := { p := 4, emin := -6, emax := 8 }
/-- FP6 E3M2. -/
def e3m2F : FloatFmt := { p := 3, emin := -2, emax := 4 }
/-- FP6 E2M3. -/
def e2m3F : FloatFmt := { p := 4, emin := 0, emax := 2 }
/-- FP4 E2M1. -/
def e2m1F : FloatFmt := { p := 2, emin := 0, emax := 2 }

/-- Zero. -/
def Num.zero : Num := .fin false 0 0
/-- One. -/
def Num.one : Num := .fin false 1 0
/-- Minus infinity. -/
def Num.negInf : Num := .inf true

/-- A natural number as a number. -/
def numOfNat (n : Nat) : Num := .fin false n 0

/-- Whether a number is NaN. -/
def isNan : Num → Bool
  | .nan => true
  | _ => false

/-- Whether a number is infinite. -/
def isInf : Num → Bool
  | .inf _ => true
  | _ => false

/-- Whether a number is finite. -/
def isFin : Num → Bool
  | .fin _ _ _ => true
  | _ => false

/-- Whether a number is a zero. -/
def isZero : Num → Bool
  | .fin _ m _ => m == 0
  | _ => false

/-- The sign. -/
def isNeg : Num → Bool
  | .fin n _ _ => n
  | .inf n => n
  | .nan => false

/-- The number with the other sign. -/
def numNeg : Num → Num
  | .fin n m e => .fin (!n) m e
  | .inf n => .inf (!n)
  | .nan => .nan

/-- The magnitude. -/
def numAbs : Num → Num
  | .fin _ m e => .fin false m e
  | .inf _ => .inf false
  | .nan => .nan

/-- The signed integer m × 2^(e − base) of a finite number, for `base` at most e. -/
def toScaled (base : Int) (neg : Bool) (m : Nat) (e : Int) : Int :=
  let v : Int := (m <<< (e - base).toNat : Nat)
  if neg then -v else v

/-- Compares: whether a < b. NaN compares false. -/
def numLt : Num → Num → Bool
  | .nan, _ => false
  | _, .nan => false
  | .inf a, .inf b => a && !b
  | .inf a, .fin _ _ _ => a
  | .fin _ _ _, .inf b => !b
  | .fin a m e, .fin b n f => decide (toScaled (min e f) a m e < toScaled (min e f) b n f)

/-- Whether a ≤ b. -/
def numLe (a b : Num) : Bool := !isNan a && !isNan b && !numLt b a

/-- Whether a = b as numbers. -/
def numEq (a b : Num) : Bool := numLe a b && numLe b a

/-- The greater of two; NaN if either is NaN. -/
def numMax (a b : Num) : Num := if isNan a || isNan b then .nan else if numLt a b then b else a

/-- The lesser of two; NaN if either is NaN. -/
def numMin (a b : Num) : Num := if isNan a || isNan b then .nan else if numLt b a then b else a

/-- The exact sum of finite numbers (a zero sum of unlike signs is +0). -/
def addExact (a : Bool) (m : Nat) (e : Int) (b : Bool) (n : Nat) (f : Int) : Num :=
  let base := min e f
  let s := toScaled base a m e + toScaled base b n f
  if s = 0 then .fin (a && b) 0 0 else .fin (decide (s < 0)) s.natAbs base

/-- The exact product. -/
def mulExact : Num → Num → Num
  | .nan, _ => .nan
  | _, .nan => .nan
  | .inf a, .inf b => .inf (a != b)
  | .inf a, .fin b n _ => if n = 0 then .nan else .inf (a != b)
  | .fin a m _, .inf b => if m = 0 then .nan else .inf (a != b)
  | .fin a m e, .fin b n f => .fin (a != b) (m * n) (e + f)

/-! ## Rounding -/

/-- The quantum exponent that a format gives to a magnitude m × 2^e, m not 0. -/
def quantum (F : FloatFmt) (m : Nat) (e : Int) : Int :=
  max (e + (Nat.log2 m : Nat) - (F.p - 1 : Int)) (F.emin - (F.p - 1 : Int))

/-- The magnitude's integer in units of 2^q, rounded to nearest, ties to even. -/
def rneAt (q : Int) (m : Nat) (e : Int) : Nat :=
  if q ≤ e then m <<< (e - q).toNat
  else
    let d := (q - e).toNat
    let k := m >>> d
    let r := m % 2 ^ d
    let half := 2 ^ (d - 1)
    if r < half then k else if half < r then k + 1 else if k % 2 = 0 then k else k + 1

/-- The largest finite magnitude of an IEEE-like format (not E4M3, which R85 ends at 448). -/
def maxFinite (F : FloatFmt) : Nat × Int := (2 ^ F.p - 1, F.emax - (F.p - 1 : Int))

/-- Rounding to nearest even with an unbounded exponent; at or above the largest finite value plus half a unit in its last
place the result is infinite (R101). -/
def roundIeee (F : FloatFmt) : Num → Num
  | .fin s m e =>
    if m = 0 then .fin s 0 0 else
    let q := quantum F m e
    let k := rneAt q m e
    if k ≥ 2 ^ F.p ∧ q + F.p > F.emax ∨ q + (F.p - 1 : Int) > F.emax then .inf s else .fin s k q
  | x => x

/-- Rounding to FP32. -/
def r32 (x : Num) : Num := roundIeee fp32F x

/-- FP32 addition (R98). -/
def addR : Num → Num → Num
  | .nan, _ => .nan
  | _, .nan => .nan
  | .inf a, .inf b => if a = b then .inf a else .nan
  | .inf a, _ => .inf a
  | _, .inf b => .inf b
  | .fin a m e, .fin b n f => r32 (addExact a m e b n f)

/-- FP32 subtraction. -/
def subR (a b : Num) : Num := addR a (numNeg b)

/-- FP32 multiplication. -/
def mulR (a b : Num) : Num := r32 (mulExact a b)

/-- FP32 division. -/
def divR : Num → Num → Num
  | .nan, _ => .nan
  | _, .nan => .nan
  | .inf _, .inf _ => .nan
  | .inf a, .fin b _ _ => .inf (a != b)
  | .fin a _ _, .inf b => .fin (a != b) 0 0
  | .fin a m e, .fin b n f =>
    if n = 0 then (if m = 0 then .nan else .inf (a != b))
    else if m = 0 then .fin (a != b) 0 0
    else
      let k := 64 + Nat.log2 n
      let num := m <<< k
      let q := num / n
      let st := if num % n = 0 then 0 else 1
      r32 (.fin (a != b) (2 * q + st) (e - f - k - 1))

/-- The integer square root of a number below 2^(2·fuel), bit by bit. -/
def isqrt : Nat → Nat → Nat
  | 0, _ => 0
  | fuel + 1, n =>
    let r := 2 * isqrt fuel (n / 4)
    if (r + 1) * (r + 1) ≤ n then r + 1 else r

/-- FP32 square root of a number that is not negative. -/
def sqrtR : Num → Num
  | .fin s m e =>
    if m = 0 then .fin s 0 0 else if s then .nan else
    let m1 := if e % 2 = 0 then m else 2 * m
    let e1 := if e % 2 = 0 then e else e - 1
    let sh := 64
    let v := m1 <<< sh
    let r := isqrt (Nat.log2 v / 2 + 1) v
    let st := if r * r = v then 0 else 1
    r32 (.fin false (2 * r + st) ((e1 - sh) / 2 - 1))
  | .inf s => if s then .nan else .inf false
  | .nan => .nan

/-- Rounds to nearest even in a format whose overflow saturates (R101). -/
def roundSat (F : FloatFmt) (mx : Nat × Int) : Num → Num
  | .fin s m e =>
    if m = 0 then .fin s 0 0 else
    let q := quantum F m e
    let r := Num.fin s (rneAt q m e) q
    if numLt (.fin false mx.1 mx.2) (numAbs r) then .fin s mx.1 mx.2 else r
  | .inf s => .fin s mx.1 mx.2
  | .nan => .nan

/-- The largest finite magnitude of E4M3: 448 (R85). -/
def maxE4m3 : Nat × Int := (14, 5)

/-! ## Bits of floating-point formats (R85) -/

/-- Packs a finite number that the format holds exactly: exponent field of `eb` bits with its bias, `F.p − 1` mantissa
bits. -/
def packFin (F : FloatFmt) (eb : Nat) (bias : Int) (s : Bool) (m : Nat) (e : Int) : Nat :=
  let mb := F.p - 1
  let sgn := at_ (eb + mb) 1 (b2n s)
  if m = 0 then sgn else
  let E := e + (Nat.log2 m : Nat)
  if E < F.emin then
    let q := F.emin - (mb : Int)
    sgn + (if q ≤ e then m <<< (e - q).toNat else m >>> (q - e).toNat)
  else
    let q := E - (mb : Int)
    let k := if q ≤ e then m <<< (e - q).toNat else m >>> (q - e).toNat
    sgn + at_ mb eb (E + bias).toNat + k % 2 ^ mb

/-- Reads the bits of a format: `hasInf` when the top exponent holds infinity and NaN; `nanTop` when its all-ones code alone is
NaN (E4M3). -/
def unpackF (eb mb : Nat) (bias : Int) (hasInf nanTop : Bool) (w : Nat) : Num :=
  let s := bit w (eb + mb)
  let x := fld w (eb + mb - 1) mb
  let m := w % 2 ^ mb
  if hasInf && x == 2 ^ eb - 1 then (if m = 0 then .inf s else .nan)
  else if nanTop && x == 2 ^ eb - 1 && m == 2 ^ mb - 1 then .nan
  else if x = 0 then .fin s m (1 - bias - mb)
  else .fin s (2 ^ mb + m) (x - bias - mb)

/-- FP32 of its bits. -/
def f32Of (w : Nat) : Num := unpackF 8 23 127 true false w
/-- BF16 of its bits. -/
def bf16Of (w : Nat) : Num := unpackF 8 7 127 true false w
/-- FP16 of its bits. -/
def fp16Of (w : Nat) : Num := unpackF 5 10 15 true false w
/-- E5M2 of its bits. -/
def e5m2Of (w : Nat) : Num := unpackF 5 2 15 true false w
/-- E4M3 of its bits. -/
def e4m3Of (w : Nat) : Num := unpackF 4 3 7 false true w

/-- An IEEE-like format's bits of any number, rounded (R101); NaN is the quiet NaN with sign 0 (log 18). -/
def packIeee (F : FloatFmt) (eb : Nat) (bias : Int) (x : Num) : Nat :=
  match roundIeee F x with
  | .nan => at_ (F.p - 1) eb (2 ^ eb - 1) + 2 ^ (F.p - 2)
  | .inf s => at_ (eb + F.p - 1) 1 (b2n s) + at_ (F.p - 1) eb (2 ^ eb - 1)
  | .fin s m e => packFin F eb bias s m e

/-- FP32 bits. -/
def f32Bits (x : Num) : Nat := packIeee fp32F 8 127 x
/-- BF16 bits. -/
def bf16Bits (x : Num) : Nat := packIeee bf16F 8 127 x
/-- FP16 bits. -/
def fp16Bits (x : Num) : Nat := packIeee fp16F 5 15 x
/-- E5M2 bits. -/
def e5m2Bits (x : Num) : Nat := packIeee e5m2F 5 15 x

/-- E4M3 bits: saturating, NaN is S.1111.111. -/
def e4m3Bits (x : Num) : Nat :=
  match roundSat e4m3F maxE4m3 x with
  | .nan => 0x7F
  | .fin s m e => packFin e4m3F 4 7 s m e
  | .inf _ => 0

/-- Bits of a saturating format without NaN: a NaN becomes 0 (R101). -/
def satBits (F : FloatFmt) (eb : Nat) (bias : Int) (x : Num) : Nat :=
  match roundSat F (maxFinite F) x with
  | .fin s m e => packFin F eb bias s m e
  | _ => 0

/-- The FP32 word of a number. -/
def f32W (x : Num) : Word32 := BitVec.ofNat 32 (f32Bits x)

/-! ## exp and ln (R112) -/

/-- Fraction bits of the fixed-point evaluation. -/
def fxBits : Nat := 112

/-- ln 2 × 2^112, truncated. -/
def ln2Fx : Nat := 0xB17217F7D1CF79ABC9E3B39803F2

/-- Σ r^k / k! in fixed point, from term `k`: `t` is the running term. -/
def expSeries : Nat → Nat → Nat → Nat → Nat
  | 0, _, _, _ => 0
  | n + 1, k, t, r => t + expSeries n (k + 1) ((t * r) >>> fxBits / (k + 1)) r

/-- Steps a rounded FP32 number by `d` units in the last place away from its nearest value; `up` for greater magnitude. -/
def ulpStep (x : Num) (d : Int) : Num :=
  match x with
  | .fin s m e =>
    let q := quantum fp32F (max m 1) e
    let k := rneAt q m e
    r32 (.fin s ((k : Int) + d).toNat q)
  | y => y

/-- The error drawn for an operand, held to the bound of two units in the last place: the fixed-point result is within half a
unit, so a step of one keeps it and a step of two is taken as one when it would leave it. -/
def boundedStep (rounded exact : Num) (err : Int) : Num :=
  let d : Int := if err < -2 then -2 else if 2 < err then 2 else err
  let cand := ulpStep rounded d
  let two := match rounded with
    | .fin _ m e => Num.fin false 2 (quantum fp32F (max m 1) e)
    | _ => Num.zero
  let diff := match cand, exact with
    | .fin a m e, .fin b n f => numAbs (addExact a m e (!b) n f)
    | _, _ => .inf false
  if numLe diff two then cand else ulpStep rounded (if d < 0 then -1 else if 0 < d then 1 else 0)

/-- exp of a finite number, as an exact fixed-point number accurate beyond FP32. -/
def expFx (neg : Bool) (m : Nat) (e : Int) : Num :=
  let v : Int := if 0 ≤ e + fxBits then ((m <<< (e + fxBits).toNat : Nat) : Int) else ((m >>> (-(e + fxBits)).toNat : Nat) : Int)
  let x : Int := if neg then -v else v
  let k := x / (ln2Fx : Int)
  let r := (x % (ln2Fx : Int)).toNat
  .fin false (expSeries 40 0 (2 ^ fxBits) r) (k - fxBits)

/-- exp as the soft-max unit computes it: exact at 0 and −∞, else within two units in the last place (R112). -/
def expR : Num → Num
  | .nan => .nan
  | .inf s => if s then .zero else .inf false
  | .fin s m e =>
    if m = 0 then .one
    else if numLt (numOfNat 200) (.fin false m e) then (if s then .zero else .inf false)
    else
      let x := expFx s m e
      boundedStep (r32 x) x (Config.expErr (f32W (.fin s m e)))

/-- Σ z^(2k+1) / (2k+1) in fixed point. -/
def atanhSeries : Nat → Nat → Nat → Nat → Nat
  | 0, _, _, _ => 0
  | n + 1, k, t, z2 => t / (2 * k + 1) + atanhSeries n (k + 1) ((t * z2) >>> fxBits) z2

/-- ln of a positive number: ln(m·2^e) = (e + L) ln 2 + 2 atanh((y − 1)/(y + 1)). -/
def lnFx (m : Nat) (e : Int) : Num :=
  let L := Nat.log2 m
  let y := (m <<< fxBits) >>> L
  let one := 2 ^ fxBits
  let z := ((y - one) <<< fxBits) / (y + one)
  let s : Int := ((2 * atanhSeries 40 0 z ((z * z) >>> fxBits) : Nat) : Int) + (e + (L : Int)) * (ln2Fx : Int)
  .fin (decide (s < 0)) s.natAbs (-(fxBits : Int))

/-- ln as the soft-max unit computes it (R112): ln 0 = −∞, ln 1 = 0 exactly. -/
def lnR : Num → Num
  | .nan => .nan
  | .inf s => if s then .nan else .inf false
  | .fin s m e =>
    if m = 0 then .inf true
    else if s then .nan
    else if numEq (.fin false m e) .one then .zero
    else
      let x := lnFx m e
      boundedStep (r32 x) x (Config.lnErr (f32W (.fin false m e)))

/-! ## Sums in the fixed order of the array (R98; log 14) -/

/-- Removes position `i` of a list and gives it. -/
def pull (i : Nat) (xs : List Num) : Num × List Num := (xs.getD i .zero, xs.take i ++ xs.drop (i + 1))

/-- Adds `n` times the two summands that the array's order picks. -/
def sumSteps : Nat → List Num → List Num
  | 0, xs => xs
  | n + 1, xs =>
    match xs with
    | [] => []
    | [x] => [x]
    | _ =>
      let p := Config.addPick xs.length
      let a := pull (p.1 % xs.length) xs
      let b := pull (p.2 % a.2.length) a.2
      sumSteps n (addR a.1 b.1 :: b.2)

/-- The sum of a list in the array's order; an empty sum is 0. -/
def sumR (xs : List Num) : Num :=
  match sumSteps xs.length xs with
  | [] => .zero
  | x :: _ => r32 x

/-! ## Format codes and roles (R82) -/

/-- The elements of a format. -/
inductive Elem
  | fp32 | bf16 | fp16 | e4m3 | e5m2 | e3m2 | e2m3 | e2m1 | mxint8 | int8 | int4 | loam | tilth
  deriving DecidableEq, Repr

/-- The scale of a format. -/
inductive ScaleFmt
  | none | e8m0 | fp32 | bf16 | e4m3 | tilth
  deriving DecidableEq, Repr

/-- The operand class (R94): W16, W8, W4; FP32 appears only at the outputs and append sources. -/
inductive OpClass
  | w32 | w16 | w8 | w4
  deriving DecidableEq, Repr

/-- A row of the format table (R82): element, element bits, block length (0: none; 255: the head vector), scale, class, and the
roles K, V, Q, O, A. -/
structure Fmt where
  elem  : Elem
  bits  : Nat
  block : Nat
  scale : ScaleFmt
  cls   : OpClass
  k     : Bool
  v     : Bool
  q     : Bool
  o     : Bool
  a     : Bool
  deriving DecidableEq, Repr

/-- The format table (R82, R94). -/
def fmtOf : Nat → Option Fmt
  | 0x00 => some ⟨.fp32, 32, 0, .none, .w32, false, false, false, true, true⟩
  | 0x01 => some ⟨.bf16, 16, 0, .none, .w16, true, true, true, true, true⟩
  | 0x02 => some ⟨.fp16, 16, 0, .none, .w16, true, true, true, true, true⟩
  | 0x03 => some ⟨.e4m3, 8, 0, .none, .w8, true, true, true, true, true⟩
  | 0x04 => some ⟨.e5m2, 8, 0, .none, .w8, true, true, true, false, true⟩
  | 0x05 => some ⟨.e3m2, 6, 0, .none, .w8, true, true, false, false, false⟩
  | 0x06 => some ⟨.e2m3, 6, 0, .none, .w8, true, true, false, false, false⟩
  | 0x07 => some ⟨.e2m1, 4, 0, .none, .w4, true, true, false, false, false⟩
  | 0x08 => some ⟨.e4m3, 8, 32, .e8m0, .w8, true, true, true, true, false⟩
  | 0x09 => some ⟨.e3m2, 6, 32, .e8m0, .w8, true, true, false, false, false⟩
  | 0x0A => some ⟨.e2m1, 4, 32, .e8m0, .w4, true, true, true, false, false⟩
  | 0x0B => some ⟨.mxint8, 8, 32, .e8m0, .w8, true, true, false, false, false⟩
  | 0x0C => some ⟨.int8, 8, 255, .fp32, .w8, true, true, false, false, false⟩
  | 0x0D => some ⟨.int4, 4, 32, .bf16, .w4, true, true, false, false, false⟩
  | 0x0E => some ⟨.e2m1, 4, 16, .e4m3, .w4, true, true, true, false, false⟩
  | 0x0F => some ⟨.loam, 4, 16, .e4m3, .w4, true, true, false, false, false⟩
  | 0x10 => some ⟨.tilth, 3, 64, .tilth, .w4, true, true, false, false, false⟩
  | 0x11 => some ⟨.tilth, 2, 64, .tilth, .w4, true, true, false, false, false⟩
  | _ => none

/-- A format of a code known to be valid; an invalid code reads as FP32. -/
def fmtD (code : Nat) : Fmt := (fmtOf code).getD ⟨.fp32, 32, 0, .none, .w32, false, false, false, true, true⟩

/-- The head dimension of its code (R56). -/
def headDimOf : Nat → Nat
  | 0 => 64
  | 1 => 96
  | 2 => 128
  | 3 => 192
  | 4 => 256
  | _ => 0

/-- Bytes of one scale in the scale area (R90). -/
def scaleWidth : ScaleFmt → Nat
  | .none => 0
  | .e8m0 => 1
  | .fp32 => 4
  | .bf16 => 2
  | .e4m3 => 1
  | .tilth => 4

/-- Elements of one scale block. -/
def blockLen (f : Fmt) (dim : Nat) : Nat := if f.block = 0 ∨ f.block = 255 then dim else f.block

/-- Scale blocks of one head vector. -/
def blocksOf (f : Fmt) (dim : Nat) : Nat := if f.block = 0 then 0 else dim / blockLen f dim

/-- Bytes of the elements of one head vector (R89). -/
def vecBytes (f : Fmt) (dim : Nat) : Nat := dim * f.bits / 8

/-- Bytes of the scales of one head vector (R90). -/
def vecScaleBytes (f : Fmt) (dim : Nat) : Nat := blocksOf f dim * scaleWidth f.scale

/-- A page's four areas (R59): offsets of keys, values, key scales, value scales, and its size. -/
structure PageLayout where
  keys    : Nat
  vals    : Nat
  kScales : Nat
  vScales : Nat
  size    : Nat
  deriving DecidableEq, Repr

/-- The layout of a page (R59). -/
def pageLayout (kf vf : Fmt) (dim : Nat) : PageLayout :=
  let k := roundUp (64 * vecBytes kf dim) 64
  let v := roundUp (64 * vecBytes vf dim) 64
  let ks := roundUp (64 * vecScaleBytes kf dim) 64
  let vs := roundUp (64 * vecScaleBytes vf dim) 64
  { keys := 0, vals := k, kScales := k + v, vScales := k + v + ks, size := k + v + ks + vs }

/-! ## Decoding (R86 to R90) -/

/-- Two's complement of `n` bits. -/
def signedOf (n w : Nat) : Int := if bit w (n - 1) then (w : Int) - (2 ^ n : Nat) else w

/-- An integer as a number. -/
def numOfInt (v : Int) (e : Int) : Num := .fin (decide (v < 0)) v.natAbs e

/-- The operand value of an element code; block scales apart (R86, R96). A Tilth element is its u. -/
def elemOf (f : Fmt) (w : Nat) : Num :=
  match f.elem with
  | .fp32 => f32Of w
  | .bf16 => bf16Of w
  | .fp16 => fp16Of w
  | .e4m3 => e4m3Of w
  | .e5m2 => e5m2Of w
  | .e3m2 => unpackF 3 2 3 false false w
  | .e2m3 => unpackF 2 3 1 false false w
  | .e2m1 => unpackF 2 1 1 false false w
  | .mxint8 => numOfInt (signedOf 8 w) (-6)
  | .int8 => numOfInt (signedOf 8 w) 0
  | .int4 => numOfInt (signedOf 4 w) 0
  | .loam => if w % 8 = 0 then .zero else .fin (bit w 3) 1 ((w % 8 : Nat) - 7)
  | .tilth => .fin false w 0

/-- A block scale, and the offset of a Tilth group (R86 to R88). -/
def scaleOf (s : ScaleFmt) (w : Nat) : Num × Num :=
  match s with
  | .none => (.one, .zero)
  | .e8m0 => (if w % 256 = 255 then .nan else .fin false 1 ((w % 256 : Nat) - 127), .zero)
  | .fp32 => (f32Of w, .zero)
  | .bf16 => (bf16Of w, .zero)
  | .e4m3 => (numAbs (e4m3Of w), .zero)
  | .tilth => (bf16Of (w % 65536), bf16Of (w / 65536))

/-- The element codes of a packed head vector (R89). -/
def unpackElems (f : Fmt) (dim : Nat) (bytes : List Byte) : List Nat :=
  let v := leNat bytes
  (List.range dim).map (fun i => (v >>> (f.bits * i)) % 2 ^ f.bits)

/-- A decoded head vector: operand elements, block scales and offsets, block length. -/
structure Vec where
  elems  : List Num
  scales : List (Num × Num)
  block  : Nat
  deriving DecidableEq, Repr

/-- Decodes a head vector from its element bytes and its scale bytes. -/
def decodeVec (f : Fmt) (dim : Nat) (eb sb : List Byte) : Vec :=
  let w := scaleWidth f.scale
  { elems := (unpackElems f dim eb).map (elemOf f),
    scales := (List.range (blocksOf f dim)).map (fun i => scaleOf f.scale (bnum sb (w * i) w)),
    block := blockLen f dim }

/-- Whether a decoded vector holds a NaN (element, scale or offset). -/
def vecNan (v : Vec) : Bool := v.elems.any isNan || v.scales.any (fun s => isNan s.1 || isNan s.2)

/-- Whether a decoded vector holds an infinity. -/
def vecInf (v : Vec) : Bool := v.elems.any isInf || v.scales.any (fun s => isInf s.1 || isInf s.2)

/-- The elements with their block scales (and offsets) applied in FP32. -/
def vecValues (v : Vec) : List Num :=
  if v.scales.isEmpty then v.elems
  else (v.elems.zipIdx).map (fun (x, i) =>
    let s := v.scales.getD (i / v.block) (.one, .zero)
    if isZero s.2 then mulR s.1 x else addR (mulR s.1 x) s.2)

/-! ## The Tilth rotation (R91 to R93) -/

/-- One stage of the fast Walsh–Hadamard transform, of span `h`. -/
def fwhtStage (h : Nat) (xs : List Num) : List Num :=
  (xs.zipIdx).map (fun (x, i) => if (i / h) % 2 = 0 then addR x (xs.getD (i + h) .zero) else subR (xs.getD (i - h) .zero) x)

/-- H of R91: stages of span 1, 2, 4, 8, 16, 32, 64. -/
def hadamard (xs : List Num) : List Num :=
  fwhtStage 64 (fwhtStage 32 (fwhtStage 16 (fwhtStage 8 (fwhtStage 4 (fwhtStage 2 (fwhtStage 1 xs))))))

/-- D of R91. -/
def signD (xs : List Num) : List Num :=
  (xs.zipIdx).map (fun (x, i) => if popcount (i &&& 0x6D) 7 % 2 = 1 then numNeg x else x)

/-- Division by 2^k: exact but for subnormal results. -/
def divPow2 (k : Nat) : Num → Num
  | .fin s m e => r32 (.fin s m (e - k))
  | x => x

/-- H·D·x / 2^k of each 128-element block. -/
def rotateHD (k : Nat) (xs : List Num) : List Num :=
  (chunks 128 xs).flatMap (fun b => (hadamard (signD b)).map (divPow2 k))

/-- D·H·x / 8 of each 128-element block (R93). -/
def restoreDH (xs : List Num) : List Num :=
  (chunks 128 xs).flatMap (fun b => (signD (hadamard b)).map (divPow2 3))

/-! ## The rounding generator (R104) -/

/-- One shift: the register after it, and the output bit. -/
def lfsrShift (g : BitVec 31) : BitVec 31 × Bool :=
  let out := g.getLsbD 30
  let inb := g.getLsbD 30 != g.getLsbD 27
  ((g <<< 1) ||| BitVec.ofNat 31 (b2n inb), out)

/-- `n` shifts, the earliest output bit highest. -/
def lfsrDraw : Nat → BitVec 31 → Nat → BitVec 31 × Nat
  | 0, g, r => (g, r)
  | n + 1, g, r => let s := lfsrShift g; lfsrDraw n s.1 (2 * r + b2n s.2)

/-- A draw of 16 bits. -/
def drawR (g : BitVec 31) : BitVec 31 × Nat := lfsrDraw 16 g 0

/-! ## Rounding into a format (R99 to R103) -/

/-- Whether a magnitude a is below b. -/
def magLt (a b : Num) : Bool := numLt (numAbs a) (numAbs b)

/-- The finite elements' largest magnitude; none when every finite element is zero or none is finite. -/
def amaxOf (xs : List Num) : Option Num :=
  let m := (xs.filter isFin).foldl (fun a x => numMax a (numAbs x)) .zero
  if isZero m then none else some m

/-- Rounds a positive finite number up to a value of a float format, at most `mx`. -/
def roundUpF (F : FloatFmt) (mx : Nat × Int) : Num → Num
  | .fin _ m e =>
    if m = 0 then .zero else
    let q := quantum F m e
    let k := if q ≤ e then m <<< (e - q).toNat else (m + 2 ^ (q - e).toNat - 1) >>> (q - e).toNat
    let r := Num.fin false k q
    if numLt (.fin false mx.1 mx.2) r then .fin false mx.1 mx.2 else r
  | _ => .fin false mx.1 mx.2

/-- Rounds a finite number of either sign down to a BF16 value, held to the largest finite magnitude. -/
def roundDownBf16 : Num → Num
  | .fin s m e =>
    if m = 0 then .fin s 0 0 else
    let q := quantum bf16F m e
    let mx := maxFinite bf16F
    let k := if q ≤ e then m <<< (e - q).toNat
             else if s then (m + 2 ^ (q - e).toNat - 1) >>> (q - e).toNat else m >>> (q - e).toNat
    let r := Num.fin s k q
    if numLt (.fin false mx.1 mx.2) (numAbs r) then .fin s mx.1 mx.2 else r
  | x => x

/-- ⌊log2⌋ of a positive finite number. -/
def floorLog2 : Num → Int
  | .fin _ m e => e + (Nat.log2 (max m 1) : Nat)
  | _ => 0

/-- Divides an exact amax by a small integer without rounding, as numerator and denominator for the upward rounding: amax / d
rounded up to the next value of the format. -/
def upQuot (F : FloatFmt) (mx : Nat × Int) (d : Nat) : Num → Num
  | .fin _ m e =>
    let k := 64
    let num := m <<< k
    let q := num / d
    let st := if num % d = 0 then 0 else 1
    roundUpF F mx (.fin false (2 * q + st) (e - k - 1))
  | _ => .zero

/-- The block scale that R99 derives, as a number and its stored bits. -/
def deriveScale (f : Fmt) (xs : List Num) : (Num × Num) × Nat :=
  match f.scale with
  | .none => ((.one, .zero), 0)
  | .e8m0 =>
    let emax : Int := match f.elem with
      | .e4m3 => 8
      | .e3m2 => 4
      | .e2m1 => 2
      | _ => 0
    match amaxOf xs with
    | none => ((.fin false 1 (-127), .zero), 0)
    | some a =>
      let e := floorLog2 a - emax
      let code := if e < -127 then 0 else min 254 (e + 127).toNat
      ((.fin false 1 ((code : Int) - 127), .zero), code)
  | .fp32 =>
    match amaxOf xs with
    | none => ((.zero, .zero), 0)
    | some a => let s := divR a (numOfNat 127); ((s, .zero), f32Bits s)
  | .bf16 =>
    match amaxOf xs with
    | none => ((.zero, .zero), 0)
    | some a => let s := upQuot bf16F (maxFinite bf16F) 7 a; ((s, .zero), bf16Bits s)
  | .e4m3 =>
    match amaxOf xs with
    | none => ((.zero, .zero), 0)
    | some a =>
      let s := upQuot e4m3F maxE4m3 (if f.elem = .loam then 1 else 6) a
      ((s, .zero), e4m3Bits s)
  | .tilth =>
    match xs.filter isFin with
    | [] => ((.zero, .zero), 0)
    | y :: ys =>
      if (y :: ys).all isZero then ((.zero, .zero), 0) else
      let mn := ys.foldl numMin y
      let mx := ys.foldl numMax y
      let off := roundDownBf16 mn
      let sc := if numEq mn mx then Num.zero
                else match mx, off with
                  | .fin a m e, .fin b n g => upQuot bf16F (maxFinite bf16F) (2 ^ f.bits - 1) (addExact a m e (!b) n g)
                  | _, _ => .zero
      ((sc, off), bf16Bits sc + 65536 * bf16Bits off)

/-- The integer nearest to a number, ties to even. -/
def roundInt : Num → Int
  | .fin s m e => let k : Int := rneAt 0 m e; if s then -k else k
  | .inf s => if s then -(2 ^ 40) else 2 ^ 40
  | .nan => 0

/-- The magnitude codes of Loam-4 from 1 to 7: 2^(m−7). -/
def loamMag (m : Nat) : Num := if m = 0 then .zero else .fin false 1 ((m : Int) - 7)

/-- The Loam-4 magnitude code whose value is nearest, a tie taking the lower (R100). -/
def loamCode (x : Num) : Nat :=
  (List.range 7).foldl (fun best i =>
    let m := i + 1
    match numAbs x, loamMag best, loamMag m with
    | .fin _ a e, .fin _ b f, .fin _ c g =>
      if numLt (numAbs (addExact false a e true c g)) (numAbs (addExact false a e true b f)) then m else best
    | _, _, _ => if isInf x then 7 else best) 0

/-- Clamp bounds of an integer element (R99). -/
def intBounds (f : Fmt) : Int × Int :=
  match f.elem with
  | .mxint8 => (-127, 127)
  | .int8 => (-127, 127)
  | .int4 => (-7, 7)
  | .tilth => (0, (2 ^ f.bits : Nat) - 1)
  | _ => (0, 0)

/-- The two's complement code of an integer. -/
def codeOfInt (n : Nat) (v : Int) : Nat := (v % (2 ^ n : Nat)).toNat

/-- Clamps an integer. -/
def clampInt (b : Int × Int) (v : Int) : Int := if v < b.1 then b.1 else if b.2 < v then b.2 else v

/-- Rounds a quotient to nearest even into an element code (R100, R101). A negative Loam-4 quotient that rounds to zero keeps its sign, 0b1000
(DESIGN CHOICE, log 129). -/
def encElem (f : Fmt) (x : Num) : Nat :=
  match f.elem with
  | .fp32 => f32Bits x
  | .bf16 => bf16Bits x
  | .fp16 => fp16Bits x
  | .e5m2 => e5m2Bits x
  | .e4m3 => e4m3Bits x
  | .e3m2 => satBits e3m2F 3 3 x
  | .e2m3 => satBits e2m3F 2 1 x
  | .e2m1 => satBits e2m1F 2 1 x
  | .mxint8 =>
    match x with
    | .fin s m e => codeOfInt 8 (clampInt (intBounds f) (roundInt (.fin s m (e + 6))))
    | y => codeOfInt 8 (clampInt (intBounds f) (roundInt y))
  | .int8 => codeOfInt 8 (clampInt (intBounds f) (roundInt x))
  | .int4 => codeOfInt 4 (clampInt (intBounds f) (roundInt x))
  | .tilth => codeOfInt f.bits (clampInt (intBounds f) (roundInt x))
  | .loam => if isNan x then 0 else let c := loamCode x; if c = 0 then 8 * b2n (isNeg x) else c + 8 * b2n (isNeg x)

/-- The magnitudes around a finite number in a format: lower, upper, or none when it is representable (after the clamp and the
saturation of R99 and R101). -/
def neighbours (f : Fmt) (x : Num) : Option (Num × Num) :=
  let fl := fun (F : FloatFmt) (mx : Nat × Int) =>
    match x with
    | .fin _ m e =>
      if m = 0 then none else
      let q := quantum F m e
      if numLe (.fin false mx.1 mx.2) (.fin false m e) then none
      else if q ≤ e then none
      else
        let d := (q - e).toNat
        if m % 2 ^ d = 0 then none else some (Num.fin false (m >>> d) q, Num.fin false (m >>> d + 1) q)
    | _ => none
  let int := fun (sh : Int) (mxMag : Nat) =>
    match x with
    | .fin _ m e =>
      let e := e + sh
      if 0 ≤ e then none
      else if mxMag ≤ m >>> (-e).toNat then none
      else if m % 2 ^ (-e).toNat = 0 then none
      else some (Num.fin false (m >>> (-e).toNat) (-sh), Num.fin false (m >>> (-e).toNat + 1) (-sh))
    | _ => none
  match f.elem with
  | .fp32 => none
  | .bf16 => fl bf16F (maxFinite bf16F)
  | .fp16 => fl fp16F (maxFinite fp16F)
  | .e5m2 => fl e5m2F (maxFinite e5m2F)
  | .e4m3 => fl e4m3F maxE4m3
  | .e3m2 => fl e3m2F (maxFinite e3m2F)
  | .e2m3 => fl e2m3F (maxFinite e2m3F)
  | .e2m1 => fl e2m1F (maxFinite e2m1F)
  | .mxint8 => int 6 127
  | .int8 => int 0 127
  | .int4 => int 0 7
  | .tilth => if isNeg x then none else int 0 (2 ^ f.bits - 1)
  | .loam =>
    let a := numAbs x
    if isZero a || numLe .one a then none else
    (List.range 7).findSome? (fun i =>
      if numLt (loamMag i) a && numLt a (loamMag (i + 1)) then some (loamMag i, loamMag (i + 1)) else none)

/-- (x − lo) / (hi − lo) > R / 65,536, all exact (R103 step 2). -/
def takesHi (x lo hi : Num) (r : Nat) : Bool :=
  match x, lo, hi with
  | .fin a m e, .fin b n f, .fin c k g =>
    let d1 := addExact a m e (!b) n f
    let d2 := addExact c k g (!b) n f
    numLt (mulExact (numOfNat r) d2) (mulExact (numOfNat 65536) d1)
  | _, _, _ => false

/-- Stochastic rounding of a quotient (R103): the element code and the generator. -/
def encElemSr (f : Fmt) (g : BitVec 31) (x : Num) : Nat × BitVec 31 :=
  match neighbours f x with
  | none => (encElem f x, g)
  | some (a, b) =>
    let d := drawR g
    let lo := if isNeg x then numNeg b else a
    let hi := if isNeg x then numNeg a else b
    (encElem f (if takesHi x lo hi d.2 then hi else lo), d.1)

/-- A block's elements divided by its scale in FP32 (R99): a zero element stays zero, and a quotient by a scale that has rounded to 0 is beyond every
element. For Tilth the offset is taken off first, and a group whose values are all equal has scale 0 and u = 0. -/
def quotients (f : Fmt) (sc : Num × Num) (xs : List Num) : List Num :=
  match f.scale with
  | .none => xs
  | .tilth => xs.map (fun x => if isFin x then (if isZero sc.1 then .zero else divR (subR x sc.2) sc.1) else x)
  | _ => xs.map (fun x => if isFin x then (if isZero x then x else if isZero sc.1 then .inf (isNeg x) else divR x sc.1) else x)

/-- The codes of a list of quotients, under a generator when rounding is stochastic. -/
def encElems (f : Fmt) (sr : Bool) (g : BitVec 31) : List Num → List Nat × BitVec 31
  | [] => ([], g)
  | x :: xs =>
    let c := if sr then encElemSr f g x else (encElem f x, g)
    let rest := encElems f sr c.2 xs
    (c.1 :: rest.1, rest.2)

/-- An encoded head vector: element bytes, scale bytes, the generator, and whether a NaN was met. -/
structure EncVec where
  elems  : List Byte
  scales : List Byte
  gen    : BitVec 31
  nan    : Bool
  deriving DecidableEq, Repr

/-- Packs element codes (R89). -/
def packElems (f : Fmt) (cs : List Nat) : List Byte :=
  natLe ((cs.zipIdx).foldl (fun a (c, i) => a + c <<< (f.bits * i)) 0) (cs.length * f.bits / 8)

/-- Encodes a list of blocks. -/
def encBlocks (f : Fmt) (sr : Bool) : BitVec 31 → List (List Num) → List Nat × List Byte × BitVec 31
  | g, [] => ([], [], g)
  | g, b :: bs =>
    let sc := deriveScale f b
    let cs := encElems f sr g (quotients f sc.1 b)
    let rest := encBlocks f sr cs.2 bs
    (cs.1 ++ rest.1, natLe sc.2 (scaleWidth f.scale) ++ rest.2.1, rest.2.2)

/-- Stores a head vector in a format (R91, R99 to R103): Tilth values are rotated first. -/
def encodeVec (f : Fmt) (sr : Bool) (g : BitVec 31) (xs : List Num) : EncVec :=
  let ys := if f.elem = .tilth then rotateHD 4 xs else xs
  let r := encBlocks f sr g (chunks (blockLen f xs.length) ys)
  { elems := packElems f r.1, scales := r.2.1, gen := r.2.2, nan := ys.any isNan }

/-- The operand class in which a query-key product runs: the wider (R95). -/
def widerClass : OpClass → OpClass → OpClass
  | .w16, _ => .w16
  | _, .w16 => .w16
  | .w8, _ => .w8
  | _, .w8 => .w8
  | a, _ => a

/-- A soft-max weight in the probability operand form (R97): a BF16 significand for W16 values, else four significand bits; both
with the exponent range of FP32. -/
def probForm (cls : OpClass) (x : Num) : Num :=
  roundIeee { p := if cls = .w16 then 8 else 4, emin := -126, emax := 127 } x

end Sys2Proof.Machine
end

