-- ==== Sys2Proof/Machine/Crypto.lean ====
section
/-! DEFINITION. CRC-32C (R6), SM3 (GB/T 32905), SM4 (GB/T 32907), XTS over 64-byte lines (R453), and SM2 (GB/T 32918). The specification
names the standards; their algorithms are PRESUMED from them (log 17). -/

namespace Sys2Proof.Machine
open Sys2Proof

/-! ## CRC-32C -/

/-- One bit of the reflected CRC with polynomial 0x82F63B78. -/
def crcBit (c : Word32) : Word32 := if c.getLsbD 0 then (c >>> 1) ^^^ 0x82F63B78#32 else c >>> 1

/-- One byte. -/
def crcByte (c : Word32) (b : Byte) : Word32 :=
  let c := c ^^^ b.setWidth 32
  crcBit (crcBit (crcBit (crcBit (crcBit (crcBit (crcBit (crcBit c)))))))

/-- CRC-32C (Castagnoli) of a byte string. -/
def crc32c (bs : List Byte) : Word32 := ~~~ (bs.foldl crcByte 0xFFFFFFFF)

/-! ## SM3 -/

/-- Rotation left of a 32-bit word. -/
def rotl (x : Word32) (n : Nat) : Word32 := x.rotateLeft (n % 32)

/-- P0 of SM3. -/
def sm3P0 (x : Word32) : Word32 := x ^^^ rotl x 9 ^^^ rotl x 17
/-- P1 of SM3. -/
def sm3P1 (x : Word32) : Word32 := x ^^^ rotl x 15 ^^^ rotl x 23

/-- FF of round `j`. -/
def sm3FF (j : Nat) (x y z : Word32) : Word32 := if j < 16 then x ^^^ y ^^^ z else (x &&& y) ||| (x &&& z) ||| (y &&& z)
/-- GG of round `j`. -/
def sm3GG (j : Nat) (x y z : Word32) : Word32 := if j < 16 then x ^^^ y ^^^ z else (x &&& y) ||| (~~~ x &&& z)

/-- The 32-bit words of a block, most significant byte first. -/
def beWords (bs : List Byte) : List Word32 := (chunks 4 bs).map (fun c => BitVec.ofNat 32 (beNat c))

/-- Extends a list of message words, newest first, by `n` words. -/
def sm3Expand : Nat → List Word32 → List Word32
  | 0, ws => ws
  | n + 1, ws =>
    let w := fun i => ws.getD i 0
    let v := sm3P1 (w 15 ^^^ w 8 ^^^ rotl (w 2) 15) ^^^ rotl (w 12) 7 ^^^ w 5
    sm3Expand n (v :: ws)

/-- The eight registers of SM3. -/
structure Sm3Regs where
  a : Word32
  b : Word32
  c : Word32
  d : Word32
  e : Word32
  f : Word32
  g : Word32
  h : Word32
  deriving DecidableEq, Repr

/-- The initial value of SM3. -/
def Sm3Regs.iv : Sm3Regs :=
  { a := 0x7380166f, b := 0x4914b2b9, c := 0x172442d7, d := 0xda8a0600, e := 0xa96f30bc, f := 0x163138aa, g := 0xe38dee4d, h := 0xb0fb0e4e }

/-- One round. -/
def sm3Round (r : Sm3Regs) (j : Nat) (w w' : Word32) : Sm3Regs :=
  let t : Word32 := if j < 16 then 0x79cc4519 else 0x7a879d8a
  let ss1 := rotl (rotl r.a 12 + r.e + rotl t j) 7
  let ss2 := ss1 ^^^ rotl r.a 12
  let tt1 := sm3FF j r.a r.b r.c + r.d + ss2 + w'
  let tt2 := sm3GG j r.e r.f r.g + r.h + ss1 + w
  { a := tt1, b := r.a, c := rotl r.b 9, d := r.c, e := sm3P0 tt2, f := r.e, g := rotl r.f 19, h := r.g }

/-- The rounds from `j` over the expanded words. -/
def sm3Rounds : Nat → Nat → List Word32 → Sm3Regs → Sm3Regs
  | 0, _, _, r => r
  | n + 1, j, ws, r =>
    let w := ws.getD 0 0
    sm3Rounds n (j + 1) (ws.drop 1) (sm3Round r j w (w ^^^ ws.getD 4 0))

/-- The compression function over one 64-byte block. -/
def sm3Block (v : Sm3Regs) (blk : List Byte) : Sm3Regs :=
  let ws := (sm3Expand 52 (beWords blk).reverse).reverse
  let r := sm3Rounds 64 0 ws v
  { a := r.a ^^^ v.a, b := r.b ^^^ v.b, c := r.c ^^^ v.c, d := r.d ^^^ v.d, e := r.e ^^^ v.e, f := r.f ^^^ v.f, g := r.g ^^^ v.g, h := r.h ^^^ v.h }

/-- SM3 of a byte string: 32 bytes. -/
def sm3 (msg : List Byte) : List Byte :=
  let l := msg.length
  let padded := msg ++ [0x80] ++ zeros ((119 - l % 64) % 64) ++ natBe (8 * l) 8
  let r := (chunks 64 padded).foldl sm3Block .iv
  [r.a, r.b, r.c, r.d, r.e, r.f, r.g, r.h].flatMap (fun w => natBe w.toNat 4)

/-! ## SM4 -/

/-- The S-box of SM4, sixteen rows as numbers (most significant byte first). -/
def sm4SboxRow : Nat → Nat
  | 0 => 0xd690e9fecce13db716b614c228fb2c05
  | 1 => 0x2b679a762abe04c3aa44132649860699
  | 2 => 0x9c4250f491ef987a33540b43edcfac62
  | 3 => 0xe4b31ca9c908e89580df94fa758f3fa6
  | 4 => 0x4707a7fcf37317ba83593c19e6854fa8
  | 5 => 0x686b81b27164da8bf8eb0f4b70569d35
  | 6 => 0x1e240e5e6358d1a225227c3b01217887
  | 7 => 0xd40046579fd327524c3602e7a0c4c89e
  | 8 => 0xeabf8ad240c738b5a3f7f2cef96115a1
  | 9 => 0xe0ae5da49b341a55ad933230f58cb1e3
  | 10 => 0x1df6e22e8266ca60c02923ab0d534e6f
  | 11 => 0xd5db3745defd8e2f03ff6a726d6c5b51
  | 12 => 0x8d1baf92bbddbc7f11d95c411f105ad8
  | 13 => 0x0ac13188a5cd7bbd2d74d012b8e5b4b0
  | 14 => 0x8969974a0c96777e65b9f109c56ec684
  | _ => 0x18f07dec3adc4d2079ee5f3ed7cb3948

/-- The S-box. -/
def sm4Sbox (x : Nat) : Nat := (sm4SboxRow (x / 16) >>> (8 * (15 - x % 16))) % 256

/-- The non-linear transform τ. -/
def sm4Tau (x : Word32) : Word32 :=
  let v := x.toNat
  BitVec.ofNat 32 (sm4Sbox (v / 16777216 % 256) * 16777216 + sm4Sbox (v / 65536 % 256) * 65536 + sm4Sbox (v / 256 % 256) * 256 + sm4Sbox (v % 256))

/-- The transform T of the rounds. -/
def sm4T (x : Word32) : Word32 :=
  let b := sm4Tau x
  b ^^^ rotl b 2 ^^^ rotl b 10 ^^^ rotl b 18 ^^^ rotl b 24

/-- The transform T′ of the key schedule. -/
def sm4T' (x : Word32) : Word32 :=
  let b := sm4Tau x
  b ^^^ rotl b 13 ^^^ rotl b 23

/-- CK of round `i`: bytes (4i + j) × 7 modulo 256. -/
def sm4Ck (i : Nat) : Word32 :=
  BitVec.ofNat 32 ((4*i*7 % 256) * 16777216 + ((4*i+1)*7 % 256) * 65536 + ((4*i+2)*7 % 256) * 256 + (4*i+3)*7 % 256)

/-- Four words under way. -/
abbrev Quad := Word32 × Word32 × Word32 × Word32

/-- The round keys from round `i`. -/
def sm4Keys : Nat → Nat → Quad → List Word32
  | 0, _, _ => []
  | n + 1, i, (k0, k1, k2, k3) =>
    let k4 := k0 ^^^ sm4T' (k1 ^^^ k2 ^^^ k3 ^^^ sm4Ck i)
    k4 :: sm4Keys n (i + 1) (k1, k2, k3, k4)

/-- The four words of a 128-bit block, most significant word first. -/
def quadOf (b : BitVec 128) : Quad :=
  (b.extractLsb' 96 32, b.extractLsb' 64 32, b.extractLsb' 32 32, b.extractLsb' 0 32)

/-- The block of four words. -/
def ofQuad : Quad → BitVec 128
  | (a, b, c, d) => a ++ b ++ c ++ d

/-- The 32 round keys of a key. -/
def sm4Schedule (key : BitVec 128) : List Word32 :=
  sm4Keys 32 0 (quadOf (key ^^^ 0xa3b1bac656aa3350677d9197b27022dc#128))

/-- One round. -/
def sm4Round (x : Quad) (rk : Word32) : Quad :=
  (x.2.1, x.2.2.1, x.2.2.2, x.1 ^^^ sm4T (x.2.1 ^^^ x.2.2.1 ^^^ x.2.2.2 ^^^ rk))

/-- The reversal R of the last round's words. -/
def sm4Rev (x : Quad) : Quad := (x.2.2.2, x.2.2.1, x.2.1, x.1)

/-- SM4 under a list of round keys. -/
def sm4Run (rks : List Word32) (b : BitVec 128) : BitVec 128 := ofQuad (sm4Rev (rks.foldl sm4Round (quadOf b)))

/-- SM4 encryption of one block. -/
def sm4Enc (key b : BitVec 128) : BitVec 128 := sm4Run (sm4Schedule key) b

/-- SM4 decryption of one block: the round keys in the reverse order. -/
def sm4Dec (key b : BitVec 128) : BitVec 128 := sm4Run (sm4Schedule key).reverse b

/-! ## XTS -/

/-- Multiplication by α in GF(2^128) of a tweak read little-endian (IEEE 1619). -/
def xtsMul (t : BitVec 128) : BitVec 128 := if t.getLsbD 127 then (t <<< 1) ^^^ 0x87#128 else t <<< 1

/-- The block of 16 bytes, first byte most significant (SM4's order). -/
def blkOf (bs : List Byte) : BitVec 128 := BitVec.ofNat 128 (beNat bs)

/-- The 16 bytes of a block. -/
def blkBytes (b : BitVec 128) : List Byte := natBe b.toNat 16

/-- The tweak value: the little-endian number of SM4 of the tweak, encoded little-endian, under the tweak key. -/
def xtsTweak (key2 tw : BitVec 128) : BitVec 128 :=
  BitVec.ofNat 128 (leNat (blkBytes (sm4Enc key2 (blkOf (natLe tw.toNat 16)))))

/-- One XTS block: XOR, cipher, XOR, all over bytes. -/
def xtsBlock (f : BitVec 128 → BitVec 128) (t b : BitVec 128) : BitVec 128 :=
  let t' := blkOf (natLe t.toNat 16)
  f (b ^^^ t') ^^^ t'

/-- XTS over the blocks of a line. -/
def xtsBlocks (f : BitVec 128 → BitVec 128) : BitVec 128 → List (BitVec 128) → List (BitVec 128)
  | _, [] => []
  | t, b :: bs => xtsBlock f t b :: xtsBlocks f (xtsMul t) bs

/-- A 64-byte line as four blocks. -/
def lineBlocks (bs : List Byte) : List (BitVec 128) :=
  [blkOf (bsub bs 0 16), blkOf (bsub bs 16 16), blkOf (bsub bs 32 16), blkOf (bsub bs 48 16)]

/-- SM4-XTS encryption of a 64-byte line (R453). -/
def xtsEnc (key1 key2 tw : BitVec 128) (line : List Byte) : List Byte :=
  (xtsBlocks (sm4Enc key1) (xtsTweak key2 tw) (lineBlocks line)).flatMap blkBytes

/-- SM4-XTS decryption of a 64-byte line. -/
def xtsDec (key1 key2 tw : BitVec 128) (line : List Byte) : List Byte :=
  (xtsBlocks (sm4Dec key1) (xtsTweak key2 tw) (lineBlocks line)).flatMap blkBytes

/-- The tweak of a T1 line (R453). -/
def tweakT1 (c line : Nat) : BitVec 128 := BitVec.ofNat 128 (at_ 124 4 1 + at_ 120 4 c + at_ 0 31 line)
/-- The tweak of a line of a T2 unit (R453). -/
def tweakT2 (c unit line : Nat) : BitVec 128 := BitVec.ofNat 128 (at_ 124 4 2 + at_ 120 4 c + at_ 8 32 unit + at_ 0 8 line)
/-- The tweak of a T3 line (R453): window index, offset in 2 KiB units, line within the 2 KiB. -/
def tweakT3 (c win off line : Nat) : BitVec 128 :=
  BitVec.ofNat 128 (at_ 124 4 3 + at_ 120 4 c + at_ 38 12 win + at_ 5 33 off + at_ 0 5 line)

/-! ## SM2: the curve (R433, R439, R445) -/

/-- The prime of the SM2 P-256 curve. -/
def sm2P : Nat := 0xFFFFFFFEFFFFFFFFFFFFFFFFFFFFFFFFFFFFFFFF00000000FFFFFFFFFFFFFFFF
/-- The coefficient a, which is −3. -/
def sm2A : Nat := 0xFFFFFFFEFFFFFFFFFFFFFFFFFFFFFFFFFFFFFFFF00000000FFFFFFFFFFFFFFFC
/-- The coefficient b. -/
def sm2B : Nat := 0x28E9FA9E9D9F5E344D5A9E4BCF6509A7F39789F515AB8F92DDBCBD414D940E93
/-- The order of the base point. -/
def sm2N : Nat := 0xFFFFFFFEFFFFFFFFFFFFFFFFFFFFFFFF7203DF6B21C6052B53BBF40939D54123
/-- The base point's x. -/
def sm2Gx : Nat := 0x32C4AE2C1F1981195F9904466A39C9948FE30BBFF2660BE1715A4589334C74C7
/-- The base point's y. -/
def sm2Gy : Nat := 0xBC3736A2F4F6779C59BDCEE36B692153D0A9877CC62A474002DF32E52139F0A0

/-- A point in Jacobian coordinates; z = 0 is the point at infinity. -/
structure Jac where
  x : Nat
  y : Nat
  z : Nat
  deriving DecidableEq, Repr

/-- Difference modulo the prime. -/
def fSub (a b : Nat) : Nat := (a + (sm2P - b % sm2P)) % sm2P

/-- Product modulo the prime. -/
def fMul (a b : Nat) : Nat := a * b % sm2P

/-- The point at infinity. -/
def Jac.zero : Jac := { x := 1, y := 1, z := 0 }

/-- The double of a point of a curve whose a is −3. -/
def jDbl (q : Jac) : Jac :=
  let d := fMul q.z q.z
  let g := fMul q.y q.y
  let b := fMul q.x g
  let a := fMul 3 (fMul (fSub q.x d) (q.x + d))
  let x := fSub (fMul a a) (8 * b)
  { x, y := fSub (fMul a (fSub (4 * b) x)) (8 * fMul g g), z := fSub (fSub (fMul (q.y + q.z) (q.y + q.z)) g) d }

/-- The sum of two points. -/
def jAdd (q r : Jac) : Jac :=
  if q.z = 0 then r
  else if r.z = 0 then q
  else
    let z1 := fMul q.z q.z
    let z2 := fMul r.z r.z
    let u1 := fMul q.x z2
    let u2 := fMul r.x z1
    let s1 := fMul q.y (fMul r.z z2)
    let s2 := fMul r.y (fMul q.z z1)
    if u1 = u2 then (if s1 = s2 then jDbl q else .zero)
    else
      let h := fSub u2 u1
      let w := fSub s2 s1
      let h2 := fMul h h
      let h3 := fMul h h2
      let v := fMul u1 h2
      let x := fSub (fSub (fMul w w) h3) (2 * v)
      { x, y := fSub (fMul w (fSub v x)) (fMul s1 h3), z := fMul h (fMul q.z r.z) }

/-- A multiple of a point by a number of `bits` bits. -/
def jMul : Nat → Nat → Jac → Jac
  | 0, _, _ => .zero
  | bits + 1, k, q =>
    let r := jDbl (jMul bits (k / 2) q)
    if k % 2 = 1 then jAdd r q else r

/-- A power modulo `m`, of an exponent of `bits` bits. -/
def powMod (m : Nat) : Nat → Nat → Nat → Nat
  | 0, _, _ => 1
  | bits + 1, x, e =>
    let r := powMod m bits x (e / 2)
    let r := r * r % m
    if e % 2 = 1 then r * x % m else r

/-- The affine coordinates of a point. -/
def affine (q : Jac) : Nat × Nat :=
  let i := powMod sm2P 256 q.z (sm2P - 2)
  let i2 := fMul i i
  (fMul q.x i2, fMul q.y (fMul i i2))

/-- Whether two coordinates are those of a point of the curve. -/
def onCurve (x y : Nat) : Bool :=
  decide (x < sm2P ∧ y < sm2P) && fMul y y == (fMul x (fMul x x) + fMul sm2A x + sm2B) % sm2P

/-- The base point. -/
def sm2G : Jac := { x := sm2Gx, y := sm2Gy, z := 1 }

/-- The public key of a private key: x then y, big-endian. -/
def sm2Pub (d : Nat) : List Byte := let a := affine (jMul 256 d sm2G); natBe a.1 32 ++ natBe a.2 32

/-! ## SM2: signatures (GB/T 32918.2) -/

/-- The digest of the signer's identity, with the default user ID "1234567812345678". -/
def sm2Za (pub : List Byte) : List Byte :=
  let id : List Byte := [0x31, 0x32, 0x33, 0x34, 0x35, 0x36, 0x37, 0x38]
  sm3 (natBe 128 2 ++ id ++ id ++ natBe sm2A 32 ++ natBe sm2B 32 ++ natBe sm2Gx 32 ++ natBe sm2Gy 32 ++ bsub pub 0 64)

/-- The number of the digest that is signed. -/
def sm2E (pub msg : List Byte) : Nat := beNat (sm3 (sm2Za pub ++ msg))

/-- Whether a signature, r then s, of a message holds under a public key. -/
def sm2Verify (pub msg sig : List Byte) : Bool :=
  let x := beNat (bsub pub 0 32)
  let y := beNat (bsub pub 32 32)
  let r := beNat (bsub sig 0 32)
  let s := beNat (bsub sig 32 32)
  let t := (r + s) % sm2N
  let q := jAdd (jMul 256 s sm2G) (jMul 256 t { x, y, z := 1 })
  onCurve x y && decide (0 < r ∧ r < sm2N ∧ 0 < s ∧ s < sm2N ∧ t ≠ 0) && q.z != 0 && (sm2E pub msg + (affine q).1) % sm2N == r

/-- The signature of a message under a private key with the random number `k`. -/
def sm2SignWith (d k : Nat) (msg : List Byte) : List Byte :=
  let r := (sm2E (sm2Pub d) msg + (affine (jMul 256 k sm2G)).1) % sm2N
  let s := powMod sm2N 256 (1 + d) (sm2N - 2) * ((k + (sm2N - r * d % sm2N)) % sm2N) % sm2N
  natBe r 32 ++ natBe s 32

/-! ## SM2: decryption (GB/T 32918.4) -/

/-- The key derivation function: `n` bytes from the blocks from `ct` on (fuel: blocks). -/
def sm2Kdf (z : List Byte) : Nat → Nat → Nat → List Byte
  | 0, _, _ => []
  | k + 1, ct, n => (sm3 (z ++ natBe ct 4)).take n ++ sm2Kdf z k (ct + 1) (n - 32)

/-- The plaintext of C1 ‖ C3 ‖ C2 (65, 32 and the remaining bytes) under a private key; none when C1 is no point of the curve, or C3 does not match. -/
def sm2Decrypt (d : Nat) (c : List Byte) : Option (List Byte) :=
  let x := beNat (bsub c 1 32)
  let y := beNat (bsub c 33 32)
  let c2 := c.drop 97
  if c.headD 0 ≠ 4 ∨ !onCurve x y then none
  else
    let a := affine (jMul 256 d { x, y, z := 1 })
    let t := sm2Kdf (natBe a.1 32 ++ natBe a.2 32) (c2.length / 32 + 1) 1 c2.length
    let m := List.zipWith (fun p q => p ^^^ q) c2 t
    if t.all (fun b => b == 0) ∨ sm3 (natBe a.1 32 ++ m ++ natBe a.2 32) ≠ bsub c 65 32 then none else some m

end Sys2Proof.Machine
end

