-- ==== Sys2Proof/Machine/Flags.lean ====
section
/-! DEFINITION. Status codes (R412), completion flags (R151), and the events' codes (R425). -/

namespace Sys2Proof.Machine
open Sys2Proof

/-- The status codes of R412. -/
inductive St
  | ok | badField | badOpcode | outOfRange | accessDenied | channelDown | wrongChannel | aborted | nodesFull | modeDenied | busy
  | badCommand | badLength | slotBusy | slotRetired | staleHandle | seqFrozen | badShape | posLimit | summaryFull | stalePrefix
  | ownerMismatch | chainBreak | pageState | pagePoisoned | lossDenied | pageAbsent | frameSmall | badFormat | engineFault
  | dataPoison | sieveFull | sieveDup | cascadeMismatch | cascadeTimeout | mediaFull | mediaReadonly | mediaAbsent | locBusy
  | mediaInUse | regionRetired | staleRegion | regionRevoked | regionInUse | versionConflict | noHome | regsFull | extentOverlap
  | extentsFull | linkTimeout | linkConnError | linkWindowFull | staleAperture | commitInvalid | stageFull | keysFull | keyEmpty
  | sigInvalid | rollback | noImage | kilnRecovery
  deriving DecidableEq, Repr

/-- The 16-bit code of a status (R412). -/
def stCode : St → Nat
  | .ok => 0x0000
  | .badField => 0x0001
  | .badOpcode => 0x0002
  | .outOfRange => 0x0003
  | .accessDenied => 0x0004
  | .channelDown => 0x0005
  | .wrongChannel => 0x0006
  | .aborted => 0x0007
  | .nodesFull => 0x0008
  | .modeDenied => 0x0009
  | .busy => 0x000A
  | .badCommand => 0x000B
  | .badLength => 0x000C
  | .slotBusy => 0x0100
  | .slotRetired => 0x0101
  | .staleHandle => 0x0102
  | .seqFrozen => 0x0103
  | .badShape => 0x0104
  | .posLimit => 0x0105
  | .summaryFull => 0x0106
  | .stalePrefix => 0x0107
  | .ownerMismatch => 0x0108
  | .chainBreak => 0x0109
  | .pageState => 0x010A
  | .pagePoisoned => 0x010B
  | .lossDenied => 0x010C
  | .pageAbsent => 0x010D
  | .frameSmall => 0x010E
  | .badFormat => 0x0200
  | .engineFault => 0x0201
  | .dataPoison => 0x0202
  | .sieveFull => 0x0300
  | .sieveDup => 0x0301
  | .cascadeMismatch => 0x0302
  | .cascadeTimeout => 0x0303
  | .mediaFull => 0x0400
  | .mediaReadonly => 0x0401
  | .mediaAbsent => 0x0402
  | .locBusy => 0x0403
  | .mediaInUse => 0x0404
  | .regionRetired => 0x0500
  | .staleRegion => 0x0501
  | .regionRevoked => 0x0502
  | .regionInUse => 0x0503
  | .versionConflict => 0x0504
  | .noHome => 0x0505
  | .regsFull => 0x0506
  | .extentOverlap => 0x0507
  | .extentsFull => 0x0508
  | .linkTimeout => 0x0600
  | .linkConnError => 0x0601
  | .linkWindowFull => 0x0602
  | .staleAperture => 0x0603
  | .commitInvalid => 0x0700
  | .stageFull => 0x0701
  | .keysFull => 0x0702
  | .keyEmpty => 0x0703
  | .sigInvalid => 0x0704
  | .rollback => 0x0705
  | .noImage => 0x0706
  | .kilnRecovery => 0x0707

/-- A status as the 16 bits of a record. -/
def stBits (x : St) : BitVec 16 := BitVec.ofNat 16 (stCode x)

/-- Flag bits of a completion record (R151). -/
def flEmpty : BitVec 16 := 0x8000
/-- NAN. -/
def flNan : BitVec 16 := 0x4000
/-- SKIPPED. -/
def flSkipped : BitVec 16 := 0x2000
/-- POISONED. -/
def flPoisoned : BitVec 16 := 0x1000
/-- OVERRUN. -/
def flOverrun : BitVec 16 := 0x0800
/-- CLAMP. -/
def flClamp : BitVec 16 := 0x0400
/-- NAN_IN. -/
def flNanIn : BitVec 16 := 0x0200
/-- INF_IN. -/
def flInfIn : BitVec 16 := 0x0100
/-- ADD_REFUSED. -/
def flAddRefused : BitVec 16 := 0x0080

/-- A flag set when a condition holds. -/
def flIf (b : Bool) (f : BitVec 16) : BitVec 16 := if b then f else 0

/-- A completion with a status, nothing else: MIN_COVERAGE is 65,535 when there are no rows (R151). -/
def cplSt (x : St) : Cpl := { status := stBits x, flags := 0, minCov := 0xFFFF, detail := 0, result := 0 }

/-- A completion with a status and DETAIL. -/
def cplDet (x : St) (d : Nat) : Cpl := { cplSt x with detail := BitVec.ofNat 32 d }

/-- A completion with a status and RESULT. -/
def cplRes (x : St) (v : Nat) : Cpl := { cplSt x with result := BitVec.ofNat 64 v }

/-- Severities of events (R424). -/
def sevInfo : BitVec 2 := 0
/-- Warning. -/
def sevWarn : BitVec 2 := 1
/-- Error. -/
def sevErr : BitVec 2 := 2
/-- Fatal. -/
def sevFatal : BitVec 2 := 3

end Sys2Proof.Machine
end

