-- ==== Sys2Proof/Machine/Units.lean ====
section
/-! DEFINITION. The records of Marl, the link port, the coherence point, the mailboxes and the Kiln island. -/

namespace Sys2Proof.Machine
open Sys2Proof

/-! ## Marl -/

/-- A map entry (R270). -/
structure MapEntry where
  mapped : Bool
  sealed : Bool
  stream : BitVec 2
  slots  : Byte
  region : Bool
  owner  : BitVec 12
  pua    : BitVec 33
  deriving DecidableEq, Repr

/-- The reset value of a map entry: PUA all ones while MAPPED is 0 (R270). -/
def MapEntry.none : MapEntry :=
  { mapped := false, sealed := false, stream := 0, slots := 0, region := false, owner := 0, pua := 0x1FFFFFFFF }

/-- A page of a stripe block on flash: its stored bytes (sparse, unlisted bytes 0) and its out-of-band record (R275). KIND 0 is data, 1 parity, 2 a
pad, 5 the metadata store. `xor`: in a parity page, the XOR of the out-of-band records of the stripe's data members (R266). -/
structure FlashPage where
  kind   : Nat
  stream : BitVec 2
  gc     : Bool
  owner  : BitVec 12
  slots  : Byte
  lu     : Nat
  wseq   : Nat
  prev   : BitVec 33
  lost   : Byte
  xor    : BitVec 256
  data   : SMap Byte
  deriving DecidableEq, Repr

/-- A unit in the program buffer (R278): the physical page that it takes, whether the program of its stripe has been issued on the NAND buses (R22, R292),
its page, and whether a release or a later program has made its map update a no-op (R280). -/
structure BufUnit where
  pua    : BitVec 33
  issued : Bool
  page   : FlashPage
  stale  : Bool
  deriving DecidableEq, Repr

/-- The state of a stripe block (R267). -/
inductive SbState
  | free | opened | closed | retired | journal
  deriving DecidableEq, Repr

/-- A stripe-block table entry (R266, R286): state, erase count, JSEQ_INVAL, members to retire at the next erase with their cause, whether an
erase has been issued, and the reads in flight. The valid-unit count is computed from the map and the owner set from the pages on flash; a read begins
and ends within one command, so that none is in flight between two (log 146). -/
structure SbInfo where
  state   : SbState
  erases  : Nat
  inval   : Nat
  retire  : List (Nat × Nat)
  erasing : Bool
  reads   : Nat
  deriving DecidableEq, Repr

/-- A free stripe block that has never been erased. -/
def SbInfo.fresh : SbInfo := { state := .free, erases := 0, inval := 0, retire := [], erasing := false, reads := 0 }

/-- The stripe-block table (R266): entries that are not fresh, the 16 member blocks of each stripe block, the die spares of each die, the blocks
retired (die, block), and the failed dies. -/
structure SbTable where
  sbs     : SMap SbInfo
  members : SMap (List Nat)
  spares  : SMap (List Nat)
  retired : List (Nat × Nat)
  failed  : List Nat
  deriving DecidableEq, Repr

/-- No stripe blocks. -/
def SbTable.empty : SbTable := { sbs := [], members := [], spares := [], retired := [], failed := [] }

/-- An open stripe block of a stream in a group (R277) and the stripe being filled. -/
structure OpenSb where
  stream : Nat
  group  : Nat
  sb     : Nat
  stripe : Nat
  filled : Nat
  deriving DecidableEq, Repr

/-- A journal record (R290). -/
inductive JRec
  | pad
  | map (gc : Bool) (stream : BitVec 2) (owner : BitVec 12) (slots : Byte) (lu : Nat) (pua old : BitVec 33)
  | unmap (secure : Bool) (slots : Byte) (lu : Nat)
  | image (kind : Nat) (obj : BitVec 48) (first units prevFirst : Nat)
  | imageFree (kind : Nat) (obj : BitVec 48) (first : Nat)
  | sbOpen (group sb stream wseq : Nat)
  | sbClose (group sb wseq : Nat)
  | erase (group sb count : Nat)
  | sbMember (group sb member block : Nat)
  | retire (die block cause : Nat)
  | slot (slot : Nat) (gen : BitVec 16) (state : SlotState)
  | region (idx : Nat) (gen : BitVec 16) (event : Nat)
  | ckpt (dirPua : BitVec 33) (segments replay : Nat)
  | media (readonly : Bool) (op : BitVec 2) (capNow capCeil : Nat)
  | ownerPurge (owner : BitVec 12)
  | dieFail (die : Nat)
  deriving DecidableEq, Repr

/-- A region home run (R347). -/
structure HomeRun where
  ch     : Nat
  t1Base : Nat
  len    : Nat
  lu     : Nat
  deriving DecidableEq, Repr

/-- What a `Persist` image holds (R258 step 3). -/
inductive ImageBody
  | seq (entry : SeqEntry) (dirs : SMap DirEntry) (pages : SMap Pte) (summs : SMap Summ)
  | block (slot : PbSlot) (recs : SMap Pte) (summs : SMap Summ)
  | region (version root : Word64) (runs : List HomeRun)
  deriving DecidableEq, Repr

/-- A `Persist` image (R258, R273): object, its first unit in the metadata store, the T2 units it names, its contents, the JSEQ of its IMAGE
record, and when it became durable among the images of the device (R354). -/
structure Image where
  kind  : Nat
  obj   : BitVec 48
  first : Nat
  units : List Nat
  body  : ImageBody
  jseq  : Nat
  stamp : Nat
  deriving DecidableEq, Repr

/-- An image whose IMAGE record is not durable yet: the ring of its `Persist`, its units that Marl has not accepted yet (R278), and the JSEQ that its
record has taken (none while programs of its units are still in the buffer, R279). -/
structure PendImage where
  ring  : Nat
  image : Image
  left  : Nat
  jseq  : Option Nat
  deriving DecidableEq, Repr

/-- What the journal assigns, and a checkpoint holds (R290, R291): the map, slots' GEN and STATE, the stripe-block table, the images in
force, the GEN and last EVENT of region indices, the capacity ceiling and read-only state, the directory of map segments, and the physical pages that hold
the directory. -/
structure Snap where
  map      : SMap MapEntry
  slots    : SMap (BitVec 16 × SlotState)
  table    : SbTable
  images   : List Image
  regs     : SMap (BitVec 16 × Nat)
  capCeil  : Nat
  readonly : Bool
  dir      : SMap (BitVec 33)
  dirAt    : List (BitVec 33)
  deriving DecidableEq, Repr

/-- A checkpoint of nothing. -/
def Snap.empty : Snap :=
  { map := [], slots := [], table := .empty, images := [], regs := [], capCeil := 0, readonly := false, dir := [], dirAt := [] }

/-- A journal page (R289): JPSEQ, FIRST_JSEQ and its records in use. Its place follows from JPSEQ. -/
structure JPage where
  seq   : Nat
  first : Nat
  recs  : List JRec
  deriving DecidableEq, Repr

/-- The anchor in force (R291): anchor sequence, the directory's address, REPLAY_JSEQ, the JPSEQ of the journal page that holds it; the blocks of the
two anchor blocks, the pages written in each and their erases. -/
structure Anchor where
  seq    : Nat
  dirPua : BitVec 33
  replay : Nat
  jpage  : Nat
  blocks : Nat × Nat
  fill   : Nat × Nat
  erases : Nat × Nat
  deriving DecidableEq, Repr

/-- No anchor. -/
def Anchor.none : Anchor := { seq := 0, dirPua := 0, replay := 0, jpage := 0, blocks := (0, 0), fill := (0, 0), erases := (0, 0) }

/-- What flash holds (R233, R289, R291): format parameters, the anchor, the checkpoint it names, the sixteen journal stripe blocks and the journal pages from
the replay point on, the JSEQ and JPSEQ that the next page takes, the turns of journal stripe blocks opened, the pages of data stripe blocks, the pages of
map segments and directories, pages that are unrecoverable, the images in the metadata store, and the write sequence. -/
structure MarlFlash where
  formatted : Bool
  opFmt     : BitVec 2
  spareRes  : Nat
  sbPerGrp  : List Nat
  capFmt    : Nat
  anchor    : Anchor
  snap      : Snap
  jsbs      : List Nat
  journal   : List JPage
  jnext     : Nat
  jcount    : Nat
  jopened   : Nat
  pages     : SMap FlashPage
  segs      : SMap FlashPage
  lostPuas  : List Nat
  store     : List Image
  wseq      : Nat
  deriving DecidableEq, Repr

/-- The counters of Marl's health part (R301). -/
structure MarlHealth where
  retiredProg  : Nat
  retiredErase : Nat
  retiredRead  : Nat
  unitsRead    : Nat
  unitsHost    : Nat
  unitsGc      : Nat
  evicted      : Nat
  errBin       : Vector Nat 16
  retries      : Nat
  soft         : Nat
  rebuilt      : Nat
  unrecovered  : Nat
  pfFlushes    : Nat
  recoveries   : Nat
  tempMax      : Int
  tempMin      : Int
  tempHist     : Vector Nat 64
  deriving DecidableEq, Repr

/-- The state of a channel's flash manager (R263 to R302). `dieLoc`: bus and target of each used die, in order (R265); `badFound`: their bad blocks; `frozenAt`: the
run of the metadata store that a Frozen sequence's summaries take (R255); `work` and `reads`: programs and erases, and unit reads, since the last
temperature samples (R302). -/
structure Marl where
  busMask   : Byte
  dies      : Nat
  unused    : Nat
  dieLoc    : List (Nat × Nat)
  badFound  : List (List Nat)
  pagesPerBlock : Nat
  blocks    : Nat
  planes    : Nat
  hold      : Bool
  flushing  : Bool
  map       : SMap MapEntry
  opens     : List OpenSb
  nextGroup : Vector Nat 4
  buffer    : List BufUnit
  jbuf      : List JRec
  marked    : List Nat
  ckptStep  : Nat
  ckptJseq  : Nat
  ckpt      : Snap
  capCeil   : Nat
  readonly  : Bool
  slots     : SMap (BitVec 16 × SlotState)
  table     : SbTable
  images    : List Image
  frozen    : SMap Summ
  frozenAt  : SMap (Nat × Nat)
  due       : List Nat
  pendImgs  : List PendImage
  work      : Nat
  reads     : Nat
  flash     : MarlFlash
  health    : MarlHealth
  deriving DecidableEq, Repr

/-! ## The link port -/

/-- A native packet: header (R379) and payload. -/
structure Packet where
  hdr     : BitVec 256
  payload : List Byte
  deriving DecidableEq, Repr

/-- Connection states (R377). -/
inductive ConnState
  | closed | ready | error
  deriving DecidableEq, Repr

/-- A duplicate record (R385): the LAST PSN, status, whether applied, the word an atomic found, what a replay needs
of the request, the target's generation and the epoch of the registration that stood when it was written, and the response of a RoCEv2 read (R397). -/
structure DupRec where
  psn     : Nat
  lstat   : Byte
  applied : Bool
  word    : BitVec 128
  opc     : Byte
  tgtKind : BitVec 2
  tgtId   : Word32
  addr    : Nat
  len     : Nat
  gen     : Nat
  reg     : Option Word32
  data    : List Byte
  deriving DecidableEq, Repr

/-- The operation being received on a connection (R383): its LSTAT when it is refused, where it goes on, the packets taken so far, the
bytes still to come (of a RoCEv2 WRITE), and its region with the drain parity that counts it. -/
structure RxOp where
  refused : Option Nat
  tgtKind : BitVec 2
  tgtId   : Word32
  addr    : Nat
  pkts    : Nat
  left    : Nat
  adm     : Option (Nat × Nat)
  deriving DecidableEq, Repr

/-- What originated an outstanding operation (R387): a send-queue entry (its 512 bits, its index, and the phase of its pass), or the
move of a page to or from T3 (ring and move number). -/
inductive OpSource
  | entry (e : BitVec 512) (idx : Nat) (phase : Bool)
  | move (r k : Nat)
  deriving DecidableEq, Repr

/-- An outstanding operation (R388 to R390). -/
structure OutOp where
  first   : Nat
  last    : Nat
  src     : OpSource
  packets : List Packet
  retries : Nat
  waiting : Bool
  read    : List Byte
  deriving DecidableEq, Repr

/-- The parameters of a connection (R376). -/
structure ConnParams where
  peerConn : BitVec 16
  peerQpn  : BitVec 24
  peerAddr : BitVec 160
  sport    : BitVec 16
  t0Rd     : Bool
  t0Wr     : Bool
  gateAdd  : Bool
  sqBase   : BitVec 12
  cplBase  : BitVec 12
  sqLog2   : BitVec 4
  deriving DecidableEq, Repr

/-- A connection (R376, R377). -/
structure Conn where
  state   : ConnState
  params  : ConnParams
  sndNext : Nat
  rcvNext : Nat
  nakSent : Bool
  dups    : List DupRec
  rx      : Option RxOp
  outs    : List OutOp
  sqHead  : Nat
  sqIssue : Nat
  sqDone  : List Nat
  sqTail  : Nat
  sqPhase : Bool
  sqMet   : Bool
  rcvCount : Nat
  cnpSent : Bool
  deriving DecidableEq, Repr

/-- A Closed connection. -/
def Conn.closed : Conn :=
  { state := .closed,
    params := { peerConn := 0, peerQpn := 0, peerAddr := 0, sport := 0, t0Rd := false, t0Wr := false, gateAdd := false,
                sqBase := 0, cplBase := 0, sqLog2 := 0 },
    sndNext := 0, rcvNext := 0, nakSent := false, dups := [], rx := none, outs := [], sqHead := 0, sqIssue := 0, sqDone := [], sqTail := 0,
    sqPhase := true, sqMet := false, rcvCount := 0, cnpSent := false }

/-- A request packet that has been received and classified (R382): native or RoCEv2; `dup` for a duplicate; `extra` for a read or
atomic beyond the 16 outstanding ones of its queue pair (R395). -/
inductive RxPkt
  | native (dup : Bool) (p : Packet)
  | roce (dup extra : Bool) (p : RocePkt)
  deriving DecidableEq, Repr

/-- A RoCEv2 answer (R395, R396): acknowledge (AETH syndrome), a packet of a read response with its BTH opcode, atomic response, CNP. -/
inductive RoceAns
  | ack (psn : BitVec 24) (syndrome : Byte)
  | read (opcode : Byte) (psn : BitVec 24) (data : List Byte)
  | atomic (psn : BitVec 24) (word : Word64)
  | cnp
  deriving DecidableEq, Repr

/-- STATE of LINK_STATUS (R375). -/
inductive PortState
  | down | training | up | retraining
  deriving DecidableEq, Repr

/-- A link port (R372 to R396); `winDue`: windows to be made invalid once no move uses them, with the mailbox that waits and the window (R392); `ethq`:
answers held while the peer pauses the port (R395). -/
structure Port where
  state      : PortState
  width      : Nat
  laneFailed : BitVec 5
  spareUsed  : Bool
  err        : BitVec 6
  fecCorr    : Word32
  fecUncorr  : Word32
  peerValid  : Bool
  peer       : PeerInfo
  enable     : Bool
  apLo       : SMap Word32
  apHi       : SMap Word32
  conns      : SMap Conn
  rx         : List RxPkt
  rsp        : List Packet
  credits    : Nat
  txq        : List Packet
  windows    : SMap (BitVec 128)
  winDue     : List (Nat × Nat × BitVec 128)
  keys       : SMap Word64
  paused     : Bool
  ethq       : List (Nat × RoceAns)
  deriving DecidableEq, Repr

/-! ## Coherence -/

/-- A holder table entry (R329): the T1 line, whether it is held in state A, and the holding logical devices. -/
structure Holder where
  line : Nat
  excl : Bool
  lds  : List Nat
  deriving DecidableEq, Repr

/-- A device-side reader or writer at a coherence point (R329): a ring's descriptor, a link connection's packet, the write-back that a channel's mover
is to take, or the release of a logical device's grants (R327). -/
inductive DevReq
  | ring (c : Ch) (r : Ring)
  | rx (c : Ch) (conn : Nat)
  | wb (c : Ch)
  | grant (l : Nat)
  deriving DecidableEq, Repr

/-- A request that waits at a line (R329, R330): a host's read or write (with the region and the parity that count it, R359), a device-side access, or
the line's eviction for a request to the line `line`. -/
inductive SnoopFor
  | hostRead (l : Nat) (dpa : Nat) (own : Bool) (adm : Option (Nat × Nat))
  | hostWrite (l : Nat) (dpa : Nat) (data : List Byte) (be : BitVec 64) (adm : Option (Nat × Nat))
  | dev (d : DevReq) (write : Bool)
  | way (line : Nat)
  deriving DecidableEq, Repr

/-- A line at which requests wait (R329, R330): the logical devices that a snoop still waits for (none: no snoop of it), whether that snoop is for
data only (BISnpData), whether the snoop of the first request has been answered, and the requests, in order of arrival. -/
structure Snoop where
  line : Nat
  lds  : List Nat
  data : Bool
  done : Bool
  next : List SnoopFor
  deriving DecidableEq, Repr

/-! ## Mailboxes and Kiln -/

/-- STATE of KILN_STATUS (R399). -/
inductive KilnState
  | booting | running | recovery
  deriving DecidableEq, Repr

/-- The reply of a CXL command, as data (its byte layout is CXL 3.1's). -/
inductive CxlReply
  | identify (totalUnits persistent : Nat) (poisonMax : Nat)
  | supportedLogs (logs : List (BitVec 128))
  | log (data : List Byte)
  | poisonList (entries : List (Nat × Nat)) (overflow : Bool)
  | events (log : Byte) (extents : List (Nat × Nat × Nat × Nat))
  | dcConfig (parts : List (Nat × Nat × Bool))
  | extents (total start : Nat) (list : List (Nat × Nat × BitVec 128))
  | background (opcode : BitVec 16) (running : Bool) (status : BitVec 16)
  | ldInfo (count : Nat)
  | dcdInfo (parts blockSize hosts : Nat)
  | done
  deriving DecidableEq, Repr

/-- The CXL return codes of R403, and Invalid Input of R325. -/
inductive CxlRc
  | success | background | busy | unsupported | invalidInput
  deriving DecidableEq, Repr

/-- A background command under way (R407), with what it waits for. A `Shutdown` holds the step
of R463 that it is at, and the flushes still to end: channel, phase, write sequence, JSEQ. -/
inductive BgTask
  | shutdown (stage : Nat) (flush : List (Nat × Nat × Nat × Nat))
  | chReset (c : Nat)
  | mediaFlush (c : Nat) (ckpt : Bool) (phase wseq jseq : Nat)
  | secureDiscard (c first count : Nat) (owners : List Nat) (sbs : Option (List Nat))
  | revoke (idx : Nat) (reg : Nat)
  | release (idx : Nat)
  | connClose (c conn : Nat)
  | fwActivate
  | mediaFormat (c : Nat)
  | mediaDiscard (c : Nat)
  deriving DecidableEq, Repr

/-- A mailbox (R401 to R408): its background command, whether that command's result is to be discarded, the last results, and whether the result of the
foreground command in progress is to be discarded. `bgOp`: the opcode of the last background command; `irqOn`: the interrupt at the end of a background
command is enabled (R407); `via`: the endpoint and opcode of a command in progress that came as a message (R342). -/
structure MbState where
  bg     : Option BgTask
  bgOp   : BitVec 16
  via    : Option (Endpoint × Nat)
  drop   : Bool
  opcode : BitVec 16
  status : BitVec 16
  rc     : CxlRc
  out    : List Byte
  reply  : CxlReply
  bgStatus : BitVec 16
  irqOn  : Bool
  dropFg : Bool
  deriving DecidableEq, Repr

/-- A mailbox that has served nothing. -/
def MbState.reset : MbState :=
  { bg := none, bgOp := 0, via := none, drop := false, opcode := 0, status := 0, rc := .success, out := [], reply := .done, bgStatus := 0, irqOn := false, dropFg := false }

/-- A staged word (R413): its mask and value. -/
structure Staged where
  ld    : Nat
  off   : Nat
  mask  : Word32
  value : Word32
  deriving DecidableEq, Repr

/-- A register write held by a commit fence (R415). -/
structure HeldWrite where
  l   : Nat
  off : Nat
  v   : Word32
  deriving DecidableEq, Repr

/-- A commit whose fence is raised (R415): the mailbox, the staged words and the affected channels. -/
structure Commit where
  mb     : Nat
  words  : List Staged
  chans  : List Nat
  deriving DecidableEq, Repr

/-- A `KeyDestroy` that waits for channels to acknowledge (R430): mailbox, slot, channels still to answer, channels isolated. -/
structure KeyDestroying where
  mb       : Nat
  slot     : Nat
  wait     : List Nat
  isolated : Nat
  deriving DecidableEq, Repr

/-- A `GetHealth` that waits for channels to answer the poll (R427): mailbox, OFFSET, LENGTH, channels still to answer. -/
structure HealthPoll where
  mb   : Nat
  off  : Nat
  len  : Nat
  wait : List Nat
  deriving DecidableEq, Repr

/-- An event record (R424, R425). -/
structure EvRec where
  event   : BitVec 16
  sev     : BitVec 2
  ch      : BitVec 4
  ld      : BitVec 4
  seq     : Word32
  gen     : Word32
  time    : Word64
  touch   : BitVec 40
  detail  : List Byte
  deriving DecidableEq, Repr

/-- An event queue (R423). -/
structure EvQueue where
  recs  : SMap EvRec
  prod  : Nat
  cons  : Nat
  cfg   : Word32
  lost  : Word32
  drops : Nat
  seq   : Word32
  deriving DecidableEq, Repr

/-- The reset value of an event queue (R423). -/
def EvQueue.reset : EvQueue :=
  { recs := [], prod := 0, cons := 0, cfg := 0x00000802, lost := 0, drops := 0, seq := 0 }

/-- A registration of a region (R347). -/
structure Reg where
  valid   : Bool
  revoked : Bool
  kind    : BitVec 2
  rights  : BitVec 4
  unit    : BitVec 4
  conn    : BitVec 16
  regEp   : Word32
  revEp   : Word32
  deriving DecidableEq, Repr

/-- STATE of a region directory entry (R346). -/
inductive RegionState
  | free | live | releasing | retired
  deriving DecidableEq, Repr

/-- A revocation under way (R359): the registrations, whether the revocation point is past, and the parity it drains. -/
structure Revoke where
  regs  : List Nat
  point : Bool
  again : List (Nat × BitVec 4)
  deriving DecidableEq, Repr

/-- A region: directory entry (R346) and record (R347); whether its release (R353) is under way, and whether the units of its runs have been released. -/
structure Region where
  state   : RegionState
  gen     : BitVec 16
  homeCh  : Nat
  owner   : BitVec 12
  node    : BitVec 24
  version : Word64
  root    : Word64
  epoch   : Word32
  drain0  : BitVec 24
  drain1  : BitVec 24
  runs    : List HomeRun
  regs    : SMap Reg
  revokes : List Revoke
  releasing : Bool
  freed   : Bool
  lastEvent : Nat
  deriving DecidableEq, Repr

/-- A Free index that has never been used. -/
def Region.free : Region :=
  { state := .free, gen := 0, homeCh := 0, owner := 0, node := 0, version := 0, root := 0, epoch := 0, drain0 := 0,
    drain1 := 0, runs := [], regs := [], revokes := [], releasing := false, freed := false, lastEvent := 1 }

/-- An extent grant, or an offer not yet accepted (R324 to R327); a grant being released, and the mailbox that waits for its end. -/
structure Grant where
  ld     : Nat
  part   : Nat
  dpa    : Nat
  len    : Nat
  region : Word32
  ch     : Nat
  t1     : Nat
  owner  : BitVec 12
  live   : Bool
  leaving : Bool
  by_    : Nat
  deriving DecidableEq, Repr

/-- Key slot states (R442). -/
inductive KeyState
  | empty | loaded | purging | failed
  deriving DecidableEq, Repr

/-- An owner key slot (R442, R446) with the highest EPOCH of the key log, and the channels whose purge is due. -/
structure KeySlot where
  state     : KeyState
  key1      : BitVec 128
  key2      : BitVec 128
  lastEpoch : Word32
  purge     : List Nat
  deriving DecidableEq, Repr

/-- An Empty slot that was never loaded. -/
def KeySlot.none : KeySlot := { state := .empty, key1 := 0, key2 := 0, lastEpoch := 0, purge := [] }

/-- A key-log record (R447). -/
structure KeyLogRec where
  type  : Byte
  slot  : BitVec 16
  epoch : Word32
  chans : BitVec 16
  rseq  : Nat
  check : Word32 := 0
  deriving DecidableEq, Repr

/-- A copy of the key log's header (R447): the half that it names, the header sequence number, and the CRC-32C over the two (DESIGN CHOICE, log 181: as a byte and
eight bytes). -/
structure KeyHdr where
  half : Bool
  seq  : Nat
  crc  : Word32
  deriving DecidableEq, Repr

/-- The CRC-32C of a header copy. -/
def KeyHdr.sum (half : Bool) (seq : Nat) : Word32 := crc32c (natLe (b2n half) 1 ++ natLe seq 8)

/-- A header copy as it is written. -/
def KeyHdr.of (half : Bool) (seq : Nat) : KeyHdr := { half, seq, crc := KeyHdr.sum half seq }

/-- The key log (R447): the half in use, both copies of the header, both halves, and the next RSEQ. -/
structure KeyLog where
  active : Bool
  hdr0   : KeyHdr
  hdr1   : KeyHdr
  half0  : List KeyLogRec
  half1  : List KeyLogRec
  rseq   : Nat
  deriving DecidableEq, Repr

/-- A firmware image copy in the flash: its bytes (sparse, unlisted bytes 0xFF after an erase read as absent) and the 4 KiB
pages written since its transfer began (R433, R436, R437). -/
structure FwCopy where
  bytes : SMap Byte
  pages : List Nat
  begun : Bool
  deriving DecidableEq, Repr

/-- An IDE stream (R458): the key sets of its sub-streams that have been programmed, each with its key and initialisation vector; the set that each sub-stream
uses; skid mode; Insecure. -/
structure IdeState where
  keys     : List ((IdeSub × Fin 2) × (BitVec 256 × BitVec 64))
  active   : List (IdeSub × Fin 2)
  skid     : Bool
  insecure : Bool
  deriving DecidableEq, Repr

/-- What an endpoint and its SPDM responder have said to each other, as a signature covers it (R440; DSP0274, log 39): versions, capabilities and algorithms;
digests and certificates; measurements. -/
structure SpdmTalk where
  vca   : List Byte
  certs : List Byte
  meas  : List Byte
  deriving DecidableEq, Repr

/-- Nothing said. -/
def SpdmTalk.none : SpdmTalk := { vca := [], certs := [], meas := [] }

/-- IDE with no keys. -/
def IdeState.off : IdeState := { keys := [], active := [], skid := false, insecure := false }

/-- The self-test record (R473) and controller (R461 to R466): the groups still to start and those that run, the records of the running
test, whether it is a `Shutdown`'s, and the channels that wait to enter Starting. -/
structure SelfTest where
  valid    : Bool
  when_    : Byte
  cause    : Byte
  state    : Byte
  vcoreMv  : Nat
  tjMax    : Int
  gen      : Word32
  time     : Word64
  groups   : Vector (Option GroupRec) 12
  todo     : List Nat
  running  : List Nat
  got      : SMap GroupRec
  atShut   : Bool
  starts   : List Nat
  deriving DecidableEq, Repr

/-- The device's supply, thermal and self-test counters (R487). -/
structure DevHealth where
  supplyWarns  : Nat
  supplyResets : Nat
  pfPin        : Nat
  vcoreMin     : Nat
  vcoreMax     : Nat
  throttles    : Nat
  trips        : Nat
  tjMax        : Int
  tjMin        : Int
  govWindows   : Nat
  testsShut    : Nat
  testsStart   : Nat
  testsAborted : Nat
  peakW        : Nat
  railWarn     : Vector Nat 8
  railReset    : Vector Nat 8
  sampled      : Bool
  deriving DecidableEq, Repr

end Sys2Proof.Machine
end

