-- ==== Sys2Proof/Machine/State.lean ====
section
/-! DEFINITION. The state of the HM-C12: what the specification gives the device, the queue of waiting commands,
and what the device has sent. -/

namespace Sys2Proof.Machine
open Sys2Proof

/-! ## A channel -/

/-- STATE of CH_STATUS (R20). -/
inductive ChState
  | absent | off | starting | ready | degraded | isolated
  deriving DecidableEq, Repr

/-- The pace meter (R39, R40): PACE_STATUS, PACE_CTRL, the WINDOW setting of the window in progress, PACE_LOW, and
whether the reference clock is present. -/
structure Pace where
  valid  : Bool
  seq    : Byte
  count  : BitVec 20
  window : Bool
  inUse  : Bool
  low    : BitVec 20
  refclk : Bool
  deriving DecidableEq, Repr

/-- The reset value of the pace meter. -/
def Pace.reset : Pace :=
  { valid := false, seq := 0, count := 0, window := false, inUse := false, low := 0xFFFFF, refclk := true }

/-- CH_THROTTLE (R472): the supply, thermal and governor levels, Tj, the junction sensor, and whether a thermal trip holds the channel (R481). -/
structure Throttle where
  supply   : Nat
  thermal  : Nat
  governor : Nat
  tj       : Int
  die      : Int
  tripHold : Bool
  deriving DecidableEq, Repr

/-- No throttle. -/
def Throttle.reset : Throttle := { supply := 0, thermal := 0, governor := 0, tj := 0, die := 0, tripHold := false }

/-- What Kiln keeps for the engines, lanes and marks of a channel (R43, R467 to R471): the slot that serves each ring,
failed slots, failed SM4 engines, the slots marked failed whose rings wait for the engine-map commit, failed stack lanes (and those that
failed at run time), whether the stack runs at half width, the group record in force, the runtime marks, and whether a start has put the engine
map in force since the last reset. -/
structure Engines where
  slotOf   : Vector (Option (Fin 5)) 4
  failed   : BitVec 5
  sm4Fail  : BitVec 2
  mapDue   : List (Fin 5)
  lanes    : List Nat
  rtLanes  : List Nat
  half     : Bool
  group    : GroupRec
  tested   : Bool
  marks    : BitVec 5
  markHalf : Bool
  mapped   : Bool
  deriving DecidableEq, Repr

/-- Slots 0 to 3 serve rings 0 to 3, slot 4 is the spare (R43). -/
def Engines.reset : Engines :=
  { slotOf := #v[some 0, some 1, some 2, some 3], failed := 0, sm4Fail := 0, mapDue := [], lanes := [], rtLanes := [], half := false,
    group := .pass, tested := false, marks := 0, markHalf := false, mapped := false }

/-- The counters of a channel's section of the health log that no register holds (R426, R469, R488). `sparesIn`: spares brought in,
engines, Sieve rows, stack lanes, link lanes. -/
structure ChHealth where
  orphaned    : Nat
  sparesIn    : Vector Nat 4
  connErrors  : Nat
  pushSeq     : Word32
  engErr      : Vector Nat 5
  throttles   : Nat
  tjMax       : Int
  tjMin       : Int
  tjSeen      : Bool
  stackCorr   : Nat
  laneSpares  : Nat
  deriving DecidableEq, Repr

/-- Nothing counted. -/
def ChHealth.reset : ChHealth :=
  { orphaned := 0, sparesIn := Vector.replicate 4 0, connErrors := 0, pushSeq := 0, engErr := Vector.replicate 5 0,
    throttles := 0, tjMax := 0, tjMin := 0, tjSeen := false, stackCorr := 0, laneSpares := 0 }

/-- The object unit and its tables (R63 to R74, R206, R241 to R246). -/
structure Objects where
  mdBase    : BitVec 16
  poolBase  : BitVec 16
  touch     : BitVec 40
  seqs      : SMap SeqEntry
  dirs      : SMap DirEntry
  ptes      : SMap Pte
  summs     : SMap Summ
  pbs       : SMap PbSlot
  pbRecs    : SMap Pte
  nodes     : SMap NodeKey
  homes     : SMap HomeEntry
  dirtyMap  : List Nat
  wbq       : List WbEntry
  wbRun     : Option WbRun
  backlog   : Bool
  port      : RefPort
  deriving DecidableEq, Repr

/-- Empty tables. -/
def Objects.reset : Objects :=
  { mdBase := 0, poolBase := 0, touch := 0, seqs := [], dirs := [], ptes := [], summs := [], pbs := [],
    pbRecs := [], nodes := [], homes := [], dirtyMap := [], wbq := [], wbRun := none, backlog := false,
    port := { reports := [], sweep := none, scope := [], held := [], removals := [], scans := [] } }

/-- The rows of a Sieve that holds nothing (R179, R181). -/
def Sieve.reset : Sieve :=
  { rows := [], mirror := [], unusable := [], sparing := [], phys := [], bad := [], rewrites := [], spares := 4096, usable := 131072,
    bstart := Vector.replicate 16 0, pend := none, scrubPos := 0, fixed := 0, lost := 0 }

/-- Marl with no flash found. -/
def MarlFlash.blank : MarlFlash :=
  { formatted := false, opFmt := 0, spareRes := 0, sbPerGrp := [], capFmt := 0, anchor := .none, snap := .empty, jsbs := [], journal := [],
    jnext := 0, jcount := 0, jopened := 0, pages := [], segs := [], lostPuas := [], store := [], wseq := 0 }

/-- Nothing counted (R301). -/
def MarlHealth.reset : MarlHealth :=
  { retiredProg := 0, retiredErase := 0, retiredRead := 0, unitsRead := 0, unitsHost := 0, unitsGc := 0, evicted := 0,
    errBin := Vector.replicate 16 0, retries := 0, soft := 0, rebuilt := 0, unrecovered := 0, pfFlushes := 0,
    recoveries := 0, tempMax := 0, tempMin := 0, tempHist := Vector.replicate 64 0 }

/-- Marl at reset (R269). -/
def Marl.reset : Marl :=
  { busMask := 0, dies := 0, unused := 0, dieLoc := [], badFound := [], pagesPerBlock := 0, blocks := 0, planes := 0, hold := false,
    flushing := false, map := [], opens := [], nextGroup := Vector.replicate 4 0, buffer := [], jbuf := [], marked := [],
    ckptStep := 0, ckptJseq := 0, ckpt := .empty, capCeil := 0, readonly := false, slots := [], table := .empty, images := [], frozen := [],
    frozenAt := [], due := [], pendImgs := [], work := 0, reads := 0, flash := .blank, health := .reset }

/-- A port that is down (R375). -/
def Port.reset : Port :=
  { state := .down, width := 0, laneFailed := 0, spareUsed := false, err := 0, fecCorr := 0, fecUncorr := 0, peerValid := false,
    peer := { port := 0, serial := 0 }, enable := false, apLo := [], apHi := [], conns := [], rx := [], rsp := [], credits := 0,
    txq := [], windows := [], winDue := [], keys := [], paused := false, ethq := [] }

/-- A channel (R17). `t1` holds the stack's bytes as stored (ciphertext, R453); `t1Lost` the 64-byte lines that read
uncorrectable (R229), `t1Orphan` those that carry the poison mark (R334); `discard`: the sequences that its last reset ended, which a start
without a journal reports (R55). -/
structure Channel where
  state     : ChState
  connected : Bool
  pace      : Pace
  throttle  : Throttle
  cfg       : ChCfg
  eng       : Engines
  health    : ChHealth
  srGen     : BitVec 31
  rings     : Vector RingState 9
  gates     : SMap Word32
  gateQ     : List GateAdd
  rel       : RelLog
  t0        : SMap Byte
  t1        : SMap Byte
  t1Lost    : List Nat
  t1Orphan  : List Nat
  obj       : Objects
  sieve     : Sieve
  casSeq    : Byte
  marl      : Marl
  link      : Port
  holders   : List Holder
  snoops    : List Snoop
  keyCache  : List Nat
  mdKey1    : BitVec 128
  mdKey2    : BitVec 128
  discard   : Nat
  deriving DecidableEq, Repr

/-- The reset value of the release log (R237). -/
def RelLog.reset : RelLog :=
  { base := 0, enable := false, sizeLog2 := 12, head := 0, tail := 0, fullWait := false, queue := [] }

/-- A channel at cold start (R10, R20): Off, every register at the reset value of its field map. -/
def Channel.reset : Channel :=
  { state := .off, connected := true, pace := .reset, throttle := .reset, cfg := .reset, eng := .reset, health := .reset,
    srGen := 1, rings := Vector.replicate 9 .reset, gates := [], gateQ := [], rel := .reset, t0 := [], t1 := [], t1Lost := [],
    t1Orphan := [], obj := .reset, sieve := .reset, casSeq := 0, marl := .reset, link := .reset, holders := [], snoops := [],
    keyCache := [], mdKey1 := 0, mdKey2 := 0, discard := 0 }

/-! ## A logical device -/

/-- A logical device (R308, R315, R319, R323, R338, R340): LD_CFG, LD_KEYS, the windows, LD_STATUS, ACCESS_ERR, binding,
HDM decoders with their error-not-committed bits (`hdmErr`, R323), the address and data of the MSI-X table's vectors (`vecs`,
R340), BAR0 and BAR2 (R308), the masks and severities of the RAS capability (`ras`, R312), the data object exchange mailbox: the words written, the words to
be read and its error (R304), the uncorrectable-error status of AER (`aer`, R312), the MSI-X vectors unmasked and pending (every other vector is masked
and not pending), the function mask, the dynamic-capacity event log and the bytes of the capability list (R419). -/
structure LdState where
  cfg      : Word32
  keys     : Word32
  win      : Vector (BitVec 128) 16
  lapsed   : Bool
  orphaned : Nat
  access   : BitVec 5
  bound    : Bool
  busMaster : Bool
  bar0     : Word64
  bar2     : Word64
  ras      : SMap Word32
  doeIn    : List Word32
  doeOut   : List Word32
  doeErr   : Bool
  ideSel   : BitVec 4
  hdm      : Vector (Option HdmDecoder) 8
  hdmErr   : BitVec 8
  vecs     : SMap (BitVec 64 × Word32)
  aer      : Word32
  unmasked : List Nat
  funcMask : Bool
  pba      : List Nat
  dcLog    : List (Nat × Nat × Nat × Nat)
  capBytes : SMap Byte
  deriving DecidableEq, Repr

/-- A logical device at cold start; the RAS masks and severities as CXL 3.1 resets them (PRESUMED, log 150). -/
def LdState.reset : LdState :=
  { cfg := 0x1C000000, keys := 0, win := Vector.replicate 16 0, lapsed := false, orphaned := 0, access := 0,
    bound := false, busMaster := false, bar0 := 0, bar2 := 0, ras := [(4, 0x1CFFF), (8, 0x1CFFF), (0x10, 0x7F)], doeIn := [], doeOut := [], doeErr := false, ideSel := 0, hdm := Vector.replicate 8 none, hdmErr := 0, vecs := [], aer := 0, unmasked := [], funcMask := false, pba := [], dcLog := [],
    capBytes := [] }

/-! ## The island -/

/-- What a unit is built with (R2, R14, R308, R432, R506): form (true: HM-C12-K), stepping, grade, serial number, board
type, POWER_W (0: none recorded), TARGETS and CASCADE of the board record, MLD mode, strap pins, whether VAON_IO is supplied with VAON, and the fuses ROOT_HASH and DEBUG_LOCK. -/
structure Build where
  formK     : Bool
  stepping  : BitVec 16
  grade     : Byte
  serial    : Word64
  board     : Byte
  powerW    : BitVec 11
  targets   : List Byte
  cascade   : BitVec 16
  mld       : Bool
  strap     : BitVec 3
  rootHash  : BitVec 256
  idKey     : Nat
  wrapKey   : Nat
  debugLock : Bool
  deriving DecidableEq, Repr

/-- The firmware flash and the running image (R433 to R438), with what attestation measured of it when it started (R441). -/
structure Firmware where
  copyA    : FwCopy
  copyB    : FwCopy
  preferB  : Bool
  runB     : Bool
  version  : Word32
  svn      : BitVec 16
  minSvn   : BitVec 7
  raiseSvn : Bool
  hash     : List Byte
  svnBytes : List Byte
  recovery : FwCopy
  deriving DecidableEq, Repr

/-- An empty image copy. -/
def FwCopy.empty : FwCopy := { bytes := [], pages := [], begun := false }

/-- The supply monitor, governor and trip state (R472 to R483, R498 to R502); `rising`: the rails that have not been valid since VAON rose. -/
structure Supply where
  warn     : BitVec 8
  vcoreMv  : BitVec 16
  setpoint : Nat
  govLevel : Nat
  powerW   : BitVec 11
  down     : List Rail
  low      : List Rail
  aon      : Bool
  io       : Bool
  tripping : Bool
  ackDue   : List Nat
  thermtrip : Bool
  rising   : BitVec 8
  shdnDone : Bool
  deriving DecidableEq, Repr

/-- The host port (R304 to R306, R338, R341, R343, R440, R458): `width` is the width that the link trained at, 0 while it is down. -/
structure HostPort where
  up        : Bool
  cxl       : Bool
  flit256   : Bool
  width     : Nat
  eids      : List (Endpoint × Byte)
  i3cAddr   : Option (BitVec 7)
  sessions  : List (Nat × Endpoint)
  nextSess  : Nat
  talks     : List (Endpoint × SpdmTalk)
  ideLinkIo : IdeState
  ideLinkMem : IdeState
  ideSel    : Vector IdeState 4
  deriving DecidableEq, Repr

/-- A host port whose link has not trained. -/
def HostPort.reset : HostPort :=
  { up := false, cxl := false, flit256 := false, width := 0, eids := [], i3cAddr := none, sessions := [], nextSess := 0, talks := [], ideLinkIo := .off,
    ideLinkMem := .off, ideSel := Vector.replicate 4 .off }

/-- ISLAND_PACE (R431). -/
structure IslandPace where
  valid : Bool
  seq   : Byte
  count : BitVec 20
  deriving DecidableEq, Repr

/-- The Kiln island (R399 to R431, R442 to R448, R461 to R483). -/
structure Island where
  kiln      : KilnState
  cause     : BitVec 4
  commitGen : Word32
  committed : Bool
  hostTime  : Word64
  mboxes    : Vector MbState 33
  waiting   : List (Nat × Instr)
  staging   : Vector (List Staged) 33
  commit    : Option Commit
  destroy   : Option KeyDestroying
  poll      : Option HealthPoll
  heldRegs  : List HeldWrite
  chAssign  : Vector Word32 12
  stCfg     : Word32
  evq       : Vector EvQueue 17
  pace      : IslandPace
  supply    : Supply
  selfTest  : SelfTest
  devHealth : DevHealth
  polled    : SMap (List Byte)
  stale     : List Nat
  keySlots  : SMap KeySlot
  keySpares : Nat
  keyRot    : List Nat
  keyLog    : KeyLog
  regions   : SMap Region
  grants    : List Grant
  fw        : Firmware
  deriving DecidableEq, Repr

/-- What the device has sent at its pins. -/
inductive Out
  /-- An MSI-X message of a logical device (R340), with the address and data of its table entry. -/
  | msix (l vec : Nat) (addr : BitVec 64) (data : Word32)
  /-- The completion of a host read. -/
  | readData (l : Nat) (data : List Byte)
  /-- The poisoned completion of a host read, with the data that it carries where the specification states them. -/
  | readPoison (l : Nat) (data : Option (List Byte))
  /-- The answer "unsupported request" to a host read (R459). -/
  | unsupported (l : Nat)
  /-- The completion of a host memory write. -/
  | writeDone (l : Nat)
  /-- A back-invalidate snoop (R329): BISnpInv, or BISnpData when `data`. -/
  | snoop (c l line : Nat) (data : Bool)
  /-- BIConflictAck (R330). -/
  | conflictAck (c l line : Nat)
  /-- The acknowledgement of a Global Persistent Flush phase (R304). -/
  | gpfAck (phase : Nat)
  /-- A native link packet (R379), as the bytes sent. -/
  | packet (c : Nat) (bytes : List Byte)
  /-- What the port says of itself in training (R374): port number and die serial number. -/
  | train (c port : Nat) (serial : Word64)
  /-- A control flit of a native port (R394). -/
  | control (c : Nat) (f : PeerFlit)
  /-- A RoCEv2 answer on a connection (R395, R396). -/
  | roce (c conn : Nat) (a : RoceAns)
  /-- A priority flow control frame of an Ethernet port (R395): priority and quanta. -/
  | pfc (c prio : Nat) (quanta : BitVec 16)
  /-- A depth cascade frame (R200) and a paired-mode frame (R203). -/
  | cascade (c : Nat) (frame : BitVec 74)
  | pair (c : Nat) (frame : BitVec 40)
  /-- A request to host memory through a KIND 1 remote window (R393): logical device, address, length, and the data of a write. -/
  | hostRead (l : Nat) (addr len : Nat)
  | hostWrite (l : Nat) (addr : Nat) (data : List Byte)
  /-- An MCTP or SPDM answer (R341, R440), as bytes; it is sent in transmission units of 64 bytes. -/
  | mctp (ep : Endpoint) (type : Byte) (data : List Byte)
  /-- The answer to a command that came as a CCI or FM-API message (R342, R402): opcode, return code, status, output payload, and the reply of a CXL command. -/
  | cciReply (ep : Endpoint) (opcode : BitVec 16) (rc : CxlRc) (status : BitVec 16) (out : List Byte) (reply : CxlReply)
  /-- The MCTP error for an unsupported message type (R341). -/
  | mctpError (ep : Endpoint) (type : Byte)
  /-- A dynamic-capacity notification to a host. -/
  | dcEvent (l : Nat)
  /-- An in-band interrupt of the sideband (R424). -/
  | ibi (queue : Nat)
  /-- PMBus VOUT_COMMAND to a rail's regulator (R502), in millivolts. -/
  | vout (r : Rail) (mv : Nat)
  /-- PMBus OPERATION to a rail's regulator (R502): its output on or off. -/
  | operation (r : Rail) (on : Bool)
  /-- PMBus read of STATUS_WORD from a rail's regulator (R502). -/
  | statusWord (r : Rail)
  deriving DecidableEq, Repr

/-- The state of the device. `pending` is the model's queue of waiting commands, oldest first; `out` what the device has
sent (log 2), oldest first; `freeCount` counts the free values drawn (log 1). -/
structure State where
  pending   : List Instr
  out       : List Out
  freeCount : Nat
  build     : Build
  island    : Island
  host      : HostPort
  lds       : Vector LdState 16
  chans     : Vector Channel 12
  deriving DecidableEq, Repr

/-- The faults of the block. It has none: an error of the hardware is a status, a flag, an event or a state. -/
inductive Fault
  /-- Raised by no command; safe. The host's interface asks for a type of faults. -/
  | none
  deriving DecidableEq, Repr

/-- The refusals of the block. -/
inductive Refusal
  /-- Answered by the dispatcher for a command without a meaning; safe: the machine stops. -/
  | notModelled (mnemonic : String)
  deriving DecidableEq, Repr

/-! ## Reset -/

/-- The build that the model takes (log 3): an HM-C12-P with no board record, so LIMIT_W reads 820, its reset value. -/
def Build.reset : Build :=
  { formK := false, stepping := 0x4231, grade := 0x53, serial := 1, board := 0, powerW := 0, targets := [], cascade := 0, mld := false, strap := 0, rootHash := 0,
    idKey := Config.idKey, wrapKey := Config.wrapKey, debugLock := true }

/-- The firmware at cold start (log 3): both copies empty. -/
def Firmware.reset : Firmware :=
  { copyA := .empty, copyB := .empty, preferB := false, runB := false, version := 0, svn := 0, minSvn := 0, raiseSvn := false,
    hash := [], svnBytes := [], recovery := .empty }

/-- The island at cold start (R10). -/
def Island.reset : Island :=
  { kiln := .booting, cause := 0, commitGen := 0, committed := false, hostTime := 0, mboxes := Vector.replicate 33 .reset, waiting := [],
    staging := Vector.replicate 33 [], commit := none, destroy := none, poll := none, heldRegs := [], chAssign := Vector.replicate 12 0,
    stCfg := 0xA8C64000, evq := Vector.replicate 17 .reset, pace := { valid := false, seq := 0, count := 0 },
    supply := { warn := 0, vcoreMv := 0, setpoint := 760, govLevel := 0, powerW := 0, down := [], low := [], aon := true, io := true, tripping := false, ackDue := [],
                thermtrip := false, rising := 0, shdnDone := false },
    selfTest := { valid := false, when_ := 0, cause := 1, state := 0, vcoreMv := 0, tjMax := 0, gen := 0, time := 0,
                  groups := Vector.replicate 12 none, todo := [], running := [], got := [], atShut := false, starts := [] },
    devHealth := { supplyWarns := 0, supplyResets := 0, pfPin := 0, vcoreMin := 0, vcoreMax := 0, throttles := 0, trips := 0,
                   tjMax := 0, tjMin := 0, govWindows := 0, testsShut := 0, testsStart := 0, testsAborted := 0, peakW := 0,
                   railWarn := Vector.replicate 8 0, railReset := Vector.replicate 8 0, sampled := false },
    polled := [], stale := [], keySlots := [], keySpares := 64, keyRot := [],
    keyLog := { active := false, hdr0 := .of false 0, hdr1 := .of false 0, half0 := [], half1 := [], rseq := 0 },
    regions := [], grants := [], fw := .reset }

/-- The logical devices at cold start: logical device 0 holds every key slot (LD_KEYS, R442). None is bound by a fabric manager; in SLD mode logical device 0
is always bound, and no binding is kept (R422). -/
def ldsReset : Vector LdState 16 :=
  (Vector.replicate 16 LdState.reset).set 0 { LdState.reset with keys := 0x00080000 }

/-- The machine right after a cold start. -/
def State.reset : State :=
  { pending := [], out := [], freeCount := 0, build := .reset, island := .reset, host := .reset, lds := ldsReset,
    chans := Vector.replicate 12 .reset }

end Sys2Proof.Machine
end

