-- ==== Sys2Proof/Machine/Ops.lean ====
section
/-! DEFINITION. The named operations over the state: channels and their parts, T0 and T1, gates, events, MSI-X, keys. -/

namespace Sys2Proof.Machine
open Sys2Proof

/-! ## Access -/

/-- Channel `c`. -/
def State.ch (s : State) (c : Ch) : Channel := s.chans[c]

/-- Replaces channel `c`. -/
def setCh (s : State) (c : Ch) (x : Channel) : State := { s with chans := s.chans.set c x }

/-- Changes channel `c`. -/
def modCh (s : State) (c : Ch) (f : Channel → Channel) : State := setCh s c (f (s.ch c))

/-- Logical device `l`. -/
def State.ld (s : State) (l : Ld) : LdState := s.lds[l]

/-- Changes logical device `l`. -/
def modLd (s : State) (l : Ld) (f : LdState → LdState) : State := { s with lds := s.lds.set l (f (s.ld l)) }

/-- Changes the island. -/
def modIsland (s : State) (f : Island → Island) : State := { s with island := f s.island }

/-- Changes the host port. -/
def modHost (s : State) (f : HostPort → HostPort) : State := { s with host := f s.host }

/-- Changes a ring of a channel. -/
def modRing (s : State) (c : Ch) (r : Ring) (f : RingState → RingState) : State :=
  modCh s c (fun ch => { ch with rings := ch.rings.set r (f ch.rings[r]) })

/-- Ring `r` of channel `c`. -/
def State.ring (s : State) (c : Ch) (r : Ring) : RingState := (s.ch c).rings[r]

/-- The settings in force (R26). -/
def settingsOf (s : State) : Settings :=
  { chs := Vector.zipWith (fun (ch : Channel) (a : Word32) => { cfg := ch.cfg, mdBase := ch.obj.mdBase, poolBase := ch.obj.poolBase, assign := a })
      s.chans s.island.chAssign,
    lds := s.lds.map (fun d => { cfg := d.cfg, keys := d.keys }) }

/-- The state under other settings. -/
def withSettings (s : State) (x : Settings) : State :=
  { s with
    island := { s.island with chAssign := x.chs.map (fun k => k.assign) }
    lds := Vector.zipWith (fun (d : LdState) (k : LdSettings) => { d with cfg := k.cfg, keys := k.keys }) s.lds x.lds
    chans := Vector.zipWith (fun (ch : Channel) (k : ChSettings) =>
      { ch with cfg := k.cfg, obj := { ch.obj with mdBase := k.mdBase, poolBase := k.poolBase } }) s.chans x.chs }

/-- A step of the head descriptor of a ring, under the settings in force when it began (R26). -/
def underOwn (s : State) (c : Ch) (r : Ring) (f : State → State) : State :=
  match (s.ring c r).old with
  | none => f s
  | some x => withSettings (f (withSettings s x)) (settingsOf s)

/-- The same for a step that answers something besides. -/
def underOwnP {α : Type} (s : State) (c : Ch) (r : Ring) (f : State → α × State) : α × State :=
  match (s.ring c r).old with
  | none => f s
  | some x =>
    let y := f (withSettings s x)
    (y.1, withSettings y.2 (settingsOf s))

/-- Sets why a ring's head descriptor waits. -/
def setWait (s : State) (c : Ch) (r : Ring) (w : RingWait) : State := modRing s c r (fun g => { g with wait := w })

/-- Changes the object unit of a channel. -/
def modObj (s : State) (c : Ch) (f : Objects → Objects) : State := modCh s c (fun ch => { ch with obj := f ch.obj })

/-- Changes the reference port of a channel. -/
def modRefPort (s : State) (c : Ch) (f : RefPort → RefPort) : State := modObj s c (fun o => { o with port := f o.port })

/-- Changes the Sieve of a channel. -/
def modSieve (s : State) (c : Ch) (f : Sieve → Sieve) : State := modCh s c (fun ch => { ch with sieve := f ch.sieve })

/-- Changes Marl of a channel. -/
def modMarl (s : State) (c : Ch) (f : Marl → Marl) : State := modCh s c (fun ch => { ch with marl := f ch.marl })

/-- Changes the flash of a channel's Marl. -/
def modFlash (s : State) (c : Ch) (f : MarlFlash → MarlFlash) : State := modMarl s c (fun m => { m with flash := f m.flash })

/-- Changes the link port of a channel. -/
def modLink (s : State) (c : Ch) (f : Port → Port) : State := modCh s c (fun ch => { ch with link := f ch.link })

/-- Changes the health counts of a channel. -/
def modHealth (s : State) (c : Ch) (f : ChHealth → ChHealth) : State := modCh s c (fun ch => { ch with health := f ch.health })

/-- Changes a mailbox. -/
def modMb (s : State) (mb : Mbox) (f : MbState → MbState) : State :=
  modIsland s (fun i => { i with mboxes := i.mboxes.set mb (f i.mboxes[mb]) })

/-- Mailbox `mb`. -/
def State.mb (s : State) (mb : Mbox) : MbState := s.island.mboxes[mb]

/-- Sends an output. -/
def emit (s : State) (o : Out) : State := { s with out := s.out ++ [o] }

/-- The result of a command of a mailbox: on the register interface it is recorded in the mailbox, and a command that came as a message is answered by a
message (R402). A foreground command's is discarded when its function has been reset meanwhile (R338). -/
def mbResult (s : State) (mb : Mbox) (op : Nat) (f : MbState → MbState) : State :=
  let m := s.mb mb
  if m.dropFg then modMb s mb (fun m => { m with dropFg := false })
  else match m.via with
    | some (ep, o) =>
      if o = op then
        let r := f m
        emit (modMb s mb (fun m => { m with via := none, bg := r.bg, bgOp := r.bgOp, drop := r.drop })) (.cciReply ep r.opcode r.rc r.status r.out r.reply)
      else modMb s mb f
    | none => modMb s mb f

/-- Draws a free value (log 1). -/
def drawFree (s : State) : Word64 × State := (Config.free s.freeCount, { s with freeCount := s.freeCount + 1 })

/-- Whether a channel is Ready or Degraded (R20). -/
def isUp (s : State) (c : Ch) : Bool := (s.ch c).state == .ready || (s.ch c).state == .degraded

/-- Whether a channel is present: not Absent (R3). -/
def isPresent (s : State) (c : Ch) : Bool := (s.ch c).state != .absent

/-- The present channels. -/
def presentChs (s : State) : List Ch := allCh.filter (isPresent s)

/-- Folds a change over channels. -/
def forCh (s : State) (cs : List Ch) (f : State → Ch → State) : State := cs.foldl f s

/-- A region of the directory (R346). -/
def regionAt (s : State) (idx : Nat) : Region := smGet Region.free s.island.regions idx

/-- Changes a region. -/
def modRegion (s : State) (idx : Nat) (f : Region → Region) : State :=
  modIsland s (fun i => { i with regions := smSet Region.free i.regions idx (f (smGet Region.free i.regions idx)) })

/-! ## Assignment (R18, R315) -/

/-- The logical device that holds a channel, from CH_ASSIGN. -/
def ldOfCh (s : State) (c : Ch) : Option Ld :=
  let w := s.island.chAssign[c].toNat
  if bit w 31 then ldOf (fld w 27 24) else none

/-- The channels that a logical device holds. -/
def chsOfLd (s : State) (l : Ld) : List Ch := allCh.filter (fun c => ldOfCh s c == some l)

/-- The key range of a logical device (R442): first slot and count. -/
def keyRange (s : State) (l : Ld) : Nat × Nat := let w := (s.ld l).keys.toNat; (fld w 31 20, fld w 19 7)

/-- Whether a key slot lies in a logical device's range. -/
def keyInLd (s : State) (l : Ld) (slot : Nat) : Bool :=
  let r := keyRange s l
  decide (r.1 ≤ slot) && decide (slot < r.1 + r.2)

/-- Whether a key slot lies in the range of the logical device that holds a channel (R444). -/
def keyInCh (s : State) (c : Ch) (slot : Nat) : Bool :=
  match ldOfCh s c with
  | some l => keyInLd s l slot
  | none => false

/-! ## MSI-X (R339, R340) and event queues (R422 to R425) -/

/-- Whether the IDE stream in which a function's requests come is Insecure (R459): the selective streams that its configuration space enables, else the link
stream (PRESUMED, PCI Express, log 150). -/
def ioInsecure (s : State) (l : Ld) : Bool :=
  if (s.ld l).ideSel = 0 then s.host.ideLinkIo.insecure
  else (List.finRange 4).any (fun i => (s.ld l).ideSel.getLsbD i.val && s.host.ideSel[i].insecure)

/-- Whether accesses of CXL.io by a logical device's host reach its function: the link is up (R338), their IDE stream not Insecure (R459), and the function
bound to a host in MLD mode (R308). -/
def ioUp (s : State) (l : Ld) : Bool := s.host.up && !ioInsecure s l && (if s.build.mld then (s.ld l).bound else l == 0)

/-- Whether a rail that has been valid is in warning (R477, R498). -/
def warned (s : State) : Bool := s.island.supply.warn &&& ~~~ s.island.supply.rising != 0

/-- Whether the sideband works (R343). -/
def sidebandUp (s : State) : Bool := s.island.supply.aon && s.island.supply.io

/-- The message of a vector. -/
def msixMsg (s : State) (l : Ld) (vec : Nat) : Out :=
  let e := smGet (0, 0) (s.ld l).vecs vec
  .msix l.val vec e.1 e.2

/-- Requests a message on a vector: sent, or pending when masked; not delivered while the link is down (R338). -/
def msixReq (s : State) (l : Ld) (vec : Nat) : State :=
  if !s.host.up then s
  else if !(s.ld l).funcMask && (s.ld l).unmasked.contains vec then emit s (msixMsg s l vec)
  else modLd s l (fun d => { d with pba := if d.pba.contains vec then d.pba else d.pba ++ [vec] })

/-- Whether an event queue is full (R423). -/
def evFull (q : EvQueue) : Bool := (q.prod + 1) % 512 == q.cons

/-- Writes one record into a queue that is not full. -/
def evPut (q : EvQueue) (r : EvRec) : EvQueue :=
  { q with recs := smPut q.recs q.prod { r with seq := q.seq }, prod := (q.prod + 1) % 512, seq := q.seq + 1 }

/-- Whether a record of a severity requests a message (R424). -/
def evIrq (q : EvQueue) (sev : BitVec 2) : Bool := bit q.cfg.toNat 31 && decide (fld q.cfg.toNat 12 11 ≤ sev.toNat)

/-- Requests the message of a record written to queue `n`: MSI-X of a logical device, in-band interrupt of the sideband (R343). -/
def evSignal (s : State) (n : Fin 17) (sev : BitVec 2) : State :=
  match ldOf n with
  | some l => if evIrq s.island.evq[n] sev then msixReq s l (fld s.island.evq[n].cfg.toNat 10 0) else s
  | none => if s.island.supply.io then emit s (.ibi n) else s

/-- Puts a record into queue `n` when it has room, and signals it. -/
def evWrite (s : State) (n : Fin 17) (r : EvRec) : State :=
  evSignal (modIsland s (fun i => { i with evq := i.evq.set n (evPut i.evq[n] r) })) n r.sev

/-- Counts a dropped record (R423). -/
def evDrop (s : State) (n : Fin 17) : State :=
  modIsland s (fun i =>
    let q := i.evq[n]
    { i with evq := i.evq.set n { q with lost := if q.lost = 0xFFFFFFFF then q.lost else q.lost + 1, drops := q.drops + 1 } })

/-- Appends a record to queue `n`: an overflow record first when records were dropped since the last one (R423). -/
def evAppend (s : State) (n : Fin 17) (r : EvRec) : State :=
  let q := s.island.evq[n]
  if evFull q then evDrop s n
  else if q.drops = 0 then evWrite s n r
  else
    let ov : EvRec := { r with event := 0x0105, sev := sevWarn, ch := 0xF, touch := 0, ld := if n.val < 16 then BitVec.ofNat 4 n.val else 0xF, detail := natLe q.drops 4 }
    let s1 := evWrite s n ov
    let s2 := modIsland s1 (fun i => { i with evq := i.evq.set n { i.evq[n] with drops := 0 } })
    if evFull s2.island.evq[n] then evDrop s2 n else evWrite s2 n r

/-- The sideband queue. -/
def sidebandQ : Fin 17 := 16

/-- The queue of a logical device. -/
def ldQ (l : Ld) : Fin 17 := ⟨l.val, by omega⟩

/-- The queues of an event of scope C (R422). -/
def queuesC (s : State) (c : Ch) : List (Fin 17) :=
  match ldOfCh s c with
  | some l => [ldQ l, sidebandQ]
  | none => [sidebandQ]

/-- The queues of an event of scope D (R422). -/
def queuesD (s : State) : List (Fin 17) :=
  (allLds.filter (fun l => if s.build.mld then (s.ld l).bound else l == 0)).map ldQ ++ [sidebandQ]

/-- The queues of an event that concerns a key slot (R422). -/
def queuesKey (s : State) (slot : Nat) : List (Fin 17) :=
  (allLds.filter (fun l => keyInLd s l slot)).map ldQ ++ [sidebandQ]

/-- Raises an event on queues. -/
def raiseOn (s : State) (qs : List (Fin 17)) (code : BitVec 16) (sev : BitVec 2) (c : Option Ch) (ld : Nat) (detail : List Byte) : State :=
  let r : EvRec :=
    { event := code, sev, ch := (match c with | some x => BitVec.ofNat 4 x.val | none => 0xF), ld := BitVec.ofNat 4 ld, seq := 0,
      gen := s.island.commitGen, time := s.island.hostTime, touch := (match c with | some x => (s.ch x).obj.touch | none => 0),
      detail := bsub detail 0 32 }
  qs.foldl (fun t n => evAppend t n r) s

/-- Raises an event of scope C. -/
def raiseC (s : State) (c : Ch) (code : BitVec 16) (sev : BitVec 2) (detail : List Byte) : State :=
  raiseOn s (queuesC s c) code sev (some c) (match ldOfCh s c with | some l => l.val | none => 0xF) detail

/-- Raises an event of scope D. -/
def raiseD (s : State) (code : BitVec 16) (sev : BitVec 2) (detail : List Byte) : State :=
  raiseOn s (queuesD s) code sev none 0xF detail

/-- Raises an event of scope S. -/
def raiseS (s : State) (code : BitVec 16) (sev : BitVec 2) (detail : List Byte) : State :=
  raiseOn s [sidebandQ] code sev none 0xF detail

/-- A spare of a channel is brought in: counted in the health log and raised (R44). KIND: 0 engine slot, 1 Sieve row, 2 stack lane, 3 link
lane. -/
def raiseSpare (s : State) (c : Ch) (kind : Fin 4) (unit : Nat) : State :=
  raiseC (modHealth s c (fun h => { h with sparesIn := h.sparesIn.set kind (h.sparesIn[kind] + 1) })) c 0x0202 sevInfo (natLe kind.val 1 ++ natLe unit 4)

/-- The code of a channel state in CH_STATUS (R20). -/
def chStateCode : ChState → Nat
  | .absent => 0
  | .off => 1
  | .starting => 2
  | .ready => 3
  | .degraded => 4
  | .isolated => 5

/-- The severity of `EV_CHANNEL_STATE` (R425). -/
def chStateSev (new : ChState) (cause : Nat) : BitVec 2 :=
  match new with
  | .off => 0
  | .starting => 0
  | .ready => 0
  | .degraded => 1
  | .absent => 2
  | .isolated => if cause = 4 then 3 else 2

/-- Whether a link port runs in Ethernet-compatible mode (R375). -/
def isEthernet (s : State) (c : Ch) : Bool := bit (s.ch c).cfg.linkCfg.toNat 31

/-- A native port that is up sends its peer a control flit (R394). -/
def sendFlit (s : State) (c : Ch) (supply reset : Bool) : State :=
  if (s.ch c).link.state = .up ∧ !isEthernet s c then
    emit s (.control c.val { state := BitVec.ofNat 8 (chStateCode (s.ch c).state), supply, connReset := reset })
  else s

/-- Sets a channel's state, tells its peer (R394), and raises `EV_CHANNEL_STATE` with OLD, NEW and CAUSE. -/
def setChState (s : State) (c : Ch) (new : ChState) (cause : Nat) : State :=
  let old := (s.ch c).state
  let s := sendFlit (modCh s c (fun ch => { ch with state := new })) c false false
  raiseC s c 0x0200 (chStateSev new cause) (natLe (chStateCode old) 1 ++ natLe (chStateCode new) 1 ++ natLe cause 1)

/-! ## T0 (R234, R235) -/

/-- Bytes of a channel's T0. -/
def t0Size : Nat := 0x1000000

/-- Where the general area ends and the engine private areas begin (R234). -/
def t0General : Nat := 0xE00000

/-- Where the engine private areas end: four areas of 0x8_0000 (R234). -/
def t0PrivEnd : Nat := 0xE00000 + 4 * 0x80000

/-- Whether a range lies within T0. -/
def inT0 (off len : Nat) : Bool := decide (off + len ≤ t0Size)

/-- Whether a range touches an engine private area. -/
def touchesPriv (off len : Nat) : Bool := decide (0 < len ∧ off < t0PrivEnd ∧ t0General < off + len)

/-- Whether a range lies within the general area. -/
def inGeneral (off len : Nat) : Bool := decide (off + len ≤ t0General)

/-- Reads T0. -/
def t0Read (s : State) (c : Ch) (off n : Nat) : List Byte := smRead (s.ch c).t0 off n

/-- Reads a little-endian number of T0. -/
def t0Num (s : State) (c : Ch) (off n : Nat) : Nat := leNat (t0Read s c off n)

/-- Writes T0. -/
def t0Write (s : State) (c : Ch) (off : Nat) (bs : List Byte) : State :=
  modCh s c (fun ch => { ch with t0 := smBytes ch.t0 off bs })

/-! ## Keys (R442, R449) -/

/-- A key slot. -/
def keySlot (s : State) (slot : Nat) : KeySlot := smGet KeySlot.none s.island.keySlots slot

/-- Whether a slot is Loaded. -/
def keyLoaded (s : State) (slot : Nat) : Bool := (keySlot s slot).state == .loaded

/-- Changes a key slot. -/
def modKey (s : State) (slot : Nat) (f : KeySlot → KeySlot) : State :=
  modIsland s (fun i => { i with keySlots := smSet KeySlot.none i.keySlots slot (f (smGet KeySlot.none i.keySlots slot)) })

/-- A channel removes a slot from its key cache. -/
def purgeCache (s : State) (c : Ch) (slot : Nat) : State :=
  modCh s c (fun ch => { ch with keyCache := ch.keyCache.filter (fun x => x != slot) })

/-- A Loaded slot's storage fails its check (R448): its key is gone, in the key caches too (DEDUCED, log 179). -/
def keyFails (s : State) (slot : Nat) : State :=
  if !keyLoaded s slot then s
  else
    let s := forCh (modIsland s (fun i => { i with keyRot := i.keyRot.filter (fun x => x != slot) })) allCh (fun t c => purgeCache t c slot)
    if s.island.keySpares = 0 then modKey s slot (fun k => { k with state := .failed, key1 := 0, key2 := 0 })
    else
      let s := modKey s slot (fun k => { k with state := .empty, key1 := 0, key2 := 0 })
      let s := modIsland s (fun i => { i with keySpares := i.keySpares - 1 })
      raiseOn s (queuesKey s slot) 0x0202 sevInfo none 0xF (natLe 5 1 ++ natLe slot 4)

/-- Whether a slot refuses new key-cache fills: its key is being destroyed (R450 step 1). -/
def keyRefused (s : State) (slot : Nat) : Bool := s.island.destroy.any (fun d => d.slot == slot)

/-- Uses a key in a channel's key cache of 64 entries, least recently used replaced first. A fill checks the slot's storage (R448); a slot whose key is being
destroyed takes none (R450). -/
def useKey (s : State) (c : Ch) (slot : Nat) : State :=
  if (s.ch c).keyCache.contains slot ∨ (keyLoaded s slot ∧ !keyRefused s slot ∧ !s.island.keyRot.contains slot) then
    modCh s c (fun ch => { ch with keyCache := (slot :: ch.keyCache.filter (fun x => x != slot)).take 64 })
  else if keyRefused s slot then s
  else keyFails s slot

/-- Whether a channel has an owner's key: the slot is Loaded, and in the key cache (R449, R450). -/
def keyHere (s : State) (c : Ch) (slot : Nat) : Bool := keyLoaded s slot && (s.ch c).keyCache.contains slot

/-! ## T1 (R233, R453) -/

/-- Bytes of a channel's stack (R233). -/
def t1Size : Nat := 80000000000

/-- The stored bytes of T1. -/
def t1Raw (s : State) (c : Ch) (a n : Nat) : List Byte := smRead (s.ch c).t1 a n

/-- The 64-byte lines of a range. -/
def linesOf (a n : Nat) : List Nat := if n = 0 then [] else (List.range ((a + n - 1) / 64 + 1 - a / 64)).map (fun i => a / 64 + i)

/-- Whether a line of T1 is uncorrectable to a device-side reader: lost, or orphaned (R229, R334). -/
def lineBad (s : State) (c : Ch) (line : Nat) : Bool := (s.ch c).t1Lost.contains line || (s.ch c).t1Orphan.contains line

/-- Whether a range holds a line that a device-side reader finds uncorrectable. -/
def rangeBad (s : State) (c : Ch) (a n : Nat) : Bool := (linesOf a n).any (lineBad s c)

/-- Adds the lines that the stack returns uncorrectable while a command runs. -/
def addLost (s : State) (c : Ch) (lines : List Nat) : State :=
  modCh s c (fun ch => { ch with t1Lost := lines.foldl (fun m x => if m.contains x then m else m ++ [x]) ch.t1Lost })

/-- Loaded slots whose storage no longer passes its check: the next fill of a key cache, or the periodic check, finds them (R448). -/
def rotKeys (s : State) (slots : List Nat) : State :=
  modIsland s (fun i => { i with keyRot := i.keyRot ++ slots.filter (fun x => keyLoaded s x && !i.keyRot.contains x) })

/-- What a command's surroundings show: the lines that the stack returns uncorrectable, the slots whose storage has failed, and the errors that the stack's lanes
have corrected (R488). -/
def takeEnv (s : State) (c : Ch) (env : Env) : State :=
  modHealth (addLost (rotKeys s env.keyBad) c env.lost) c (fun h => { h with stackCorr := h.stackCorr + env.corr })

/-- One line of plaintext under an owner's key. -/
def t1Line (s : State) (c : Ch) (owner line : Nat) : List Byte :=
  let k := keySlot s owner
  xtsDec k.key1 k.key2 (tweakT1 c line) (t1Raw s c (64 * line) 64)

/-- Plaintext of a range under an owner's key. -/
def t1Plain (s : State) (c : Ch) (owner a n : Nat) : List Byte :=
  let ls := linesOf a n
  ((ls.flatMap (t1Line s c owner)).drop (a % 64)).take n

/-- Writes the stored bytes of a line, which clears a loss mark (the whole line is written anew). -/
def t1PutLine (s : State) (c : Ch) (line : Nat) (bs : List Byte) : State :=
  modCh s c (fun ch => { ch with t1 := smBytes ch.t1 (64 * line) bs, t1Lost := ch.t1Lost.filter (fun x => x != line) })

/-- Writes one whole line of plaintext under an owner's key. -/
def t1EncLine (s : State) (c : Ch) (owner line : Nat) (bs : List Byte) : State :=
  let k := keySlot s owner
  t1PutLine s c line (xtsEnc k.key1 k.key2 (tweakT1 c line) bs)

/-- Writes plaintext at T1 under an owner's key: whole lines are encrypted, a partial line is read, merged and written. A merge
into a lost line leaves its mark. -/
def t1Write (s : State) (c : Ch) (owner a : Nat) (bs : List Byte) : State :=
  (linesOf a bs.length).foldl (fun t line =>
    let lo := max a (64 * line)
    let hi := min (a + bs.length) (64 * line + 64)
    let part := (bs.drop (lo - a)).take (hi - lo)
    if hi - lo = 64 then t1EncLine t c owner line part
    else
      let lost := (t.ch c).t1Lost.contains line
      let t' := t1EncLine t c owner line (bset (t1Line t c owner line) (lo - 64 * line) part)
      if lost then addLost t' c [line] else t') s

/-- Writes stored bytes at T1 without a key; lines wholly written lose a loss mark. -/
def t1WriteRaw (s : State) (c : Ch) (a : Nat) (bs : List Byte) : State :=
  let whole := (linesOf a bs.length).filter (fun l => decide (a ≤ 64 * l ∧ 64 * l + 64 ≤ a + bs.length))
  modCh s c (fun ch => { ch with t1 := smBytes ch.t1 a bs, t1Lost := ch.t1Lost.filter (fun x => !whole.contains x) })

/-- The first byte of the metadata area (R64). -/
def mdBase (s : State) (c : Ch) : Nat := 0x200000 * (s.ch c).obj.mdBase.toNat

/-- The first byte of the pooled area; MD_BASE in exclusive mode. -/
def poolBase (s : State) (c : Ch) : Nat := 0x200000 * (s.ch c).obj.poolBase.toNat

/-- Whether a channel is in pooled mode (R239). -/
def isPooled (s : State) (c : Ch) : Bool := bit (s.ch c).cfg.tierCfg.toNat 31

/-! ## Descriptor headers (R142) -/

/-- A descriptor header. -/
structure Hdr where
  opcode    : Nat
  irq       : Bool
  addOn     : Bool
  waitGate  : Nat
  waitCount : Nat
  addCh     : Nat
  addGate   : Nat
  addAmount : Nat
  tag       : Nat
  reserved  : Nat
  deriving DecidableEq, Repr

/-- The header of a descriptor. -/
def hdrOf (d : Nat) : Hdr :=
  { opcode := fld d 127 120, irq := bit d 119, addOn := bit d 118, waitGate := fld d 115 104, waitCount := fld d 103 72,
    addCh := fld d 71 68, addGate := fld d 67 56, addAmount := fld d 55 40, tag := fld d 39 24,
    reserved := fld d 117 116 + fld d 23 0 }

/-- The descriptor at index `i` of a ring: 128 bytes of T0. -/
def descAt (s : State) (c : Ch) (r : Ring) (i : Nat) : Nat :=
  t0Num s c ((s.ring c r).base.toNat * 4096 + 128 * i) 128

/-- The descriptor at HEAD. A write to an entry from HEAD to TAIL has no defined effect (R140): the model reads the entry when the descriptor runs, and again
at its retire (DESIGN CHOICE, log 188). -/
def headDesc (s : State) (c : Ch) (r : Ring) : Nat := descAt s c r (s.ring c r).head.toNat

/-! ## Gates (R144 to R148) -/

/-- Number of gates of a channel. -/
def numGates : Nat := 4095

/-- The count of a gate. -/
def gateCount (s : State) (c : Ch) (g : Nat) : Word32 := smGet 0 (s.ch c).gates g

/-- Whether a wait is satisfied: (count − WAIT_COUNT) modulo 2^32 below 2^31 (R145). -/
def gateMet (count want : Word32) : Bool := decide ((count - want).toNat < 2 ^ 31)

/-- Notes a change of gate `g` at a ring: a header wait that the count satisfies stays satisfied (R145), a presence wait re-reads
its page (R164). -/
def latchRing (s : State) (c : Ch) (g : Nat) (r : Ring) : State :=
  match (s.ring c r).wait with
  | .gate false =>
    let h := hdrOf (headDesc s c r)
    if h.waitGate = g ∧ gateMet (gateCount s c g) (BitVec.ofNat 32 h.waitCount) then setWait s c r (.gate true) else s
  | .presence g' false ctx => if g' = g then setWait s c r (.presence g' true ctx) else s
  | _ => s

/-- The send-queue entry of a connection at `i` (R387). -/
def sqEntry (s : State) (c : Ch) (k : Conn) (i : Nat) : Nat := t0Num s c (k.params.sqBase.toNat * 4096 + 64 * i) 64

/-- Notes a change of gate `g` at the send queues' heads. -/
def latchConns (s : State) (c : Ch) (g : Nat) : State :=
  modCh s c (fun ch => { ch with link := { ch.link with conns := ch.link.conns.map (fun e =>
    let k := e.2
    let d := sqEntry s c k k.sqIssue
    if k.sqIssue != k.sqTail && fld d 501 490 == g && gateMet (gateCount s c g) (BitVec.ofNat 32 (fld d 489 458))
    then (e.1, { k with sqMet := true }) else e) } })

/-- Sets a gate's count; every waiter on it re-evaluates. -/
def gateSet (s : State) (c : Ch) (g : Nat) (v : Word32) : State :=
  let s := modCh s c (fun ch => { ch with gates := smSet 0 ch.gates g v })
  latchConns (allRings.foldl (fun t r => latchRing t c g r) s) c g

/-- Adds to a gate modulo 2^32 as one change (R146). -/
def gateAdd (s : State) (c : Ch) (g : Nat) (n : Word32) : State := gateSet s c g (gateCount s c g + n)

/-- A gate add by a unit of channel `c` to a gate of channel number `to`: within the channel at once, to another through the port
hub, which refuses it for a channel that is not Ready or Degraded (R21). Gives whether it was refused. -/
def gateAddTo (s : State) (c : Ch) (dst g n : Nat) : State × Bool :=
  if g = 0xFFF then (s, false)
  else match chOf dst with
    | none => (s, true)
    | some t =>
      if t = c then (gateAdd s c g (BitVec.ofNat 32 n), false)
      else if isUp s t then
        (modCh s t (fun ch => { ch with gateQ := ch.gateQ ++ [{ gate := BitVec.ofNat 12 g, amount := BitVec.ofNat 32 n }] }), false)
      else (s, true)

/-! ## Objects -/

/-- A sequence table entry. -/
def seqAt (s : State) (c : Ch) (slot : Nat) : SeqEntry := smGet SeqEntry.free (s.ch c).obj.seqs slot

/-- Writes a sequence table entry. -/
def setSeq (s : State) (c : Ch) (slot : Nat) (e : SeqEntry) : State :=
  modObj s c (fun o => { o with seqs := smSet SeqEntry.free o.seqs slot e })

/-- Changes a sequence table entry. -/
def modSeq (s : State) (c : Ch) (slot : Nat) (f : SeqEntry → SeqEntry) : State := setSeq s c slot (f (seqAt s c slot))

/-- The key of a layer and head of a slot. -/
def lhKey (slot layer head : Nat) : Nat := (slot * 256 + layer) * 64 + head

/-- The key of a page-table entry: slot, layer, KV head, page-map entry. -/
def pteKey (slot layer head e : Nat) : Nat := lhKey slot layer head * 2 ^ 22 + e

/-- The page-map entry's part of a key. -/
def pteSlot (key : Nat) : Nat := key / 2 ^ 22 / 64 / 256
/-- The layer's part. -/
def pteLayer (key : Nat) : Nat := key / 2 ^ 22 / 64 % 256
/-- The head's part. -/
def pteHead (key : Nat) : Nat := key / 2 ^ 22 % 64
/-- The entry's part. -/
def pteEntry (key : Nat) : Nat := key % 2 ^ 22

/-- A page-table entry; an absent one reads Empty (R67). -/
def pteAt (s : State) (c : Ch) (key : Nat) : Pte := smGet Pte.empty (s.ch c).obj.ptes key

/-- Writes a page-table entry. -/
def setPte (s : State) (c : Ch) (key : Nat) (e : Pte) : State :=
  modObj s c (fun o => { o with ptes := smSet Pte.empty o.ptes key e })

/-- A prefix-block slot. -/
def pbAt (s : State) (c : Ch) (slot : Nat) : PbSlot := smGet PbSlot.free (s.ch c).obj.pbs slot

/-- Writes a prefix-block slot. -/
def setPb (s : State) (c : Ch) (slot : Nat) (p : PbSlot) : State :=
  modObj s c (fun o => { o with pbs := smSet PbSlot.free o.pbs slot p })

/-- The key of a page record of a prefix block. -/
def recKey (slot layer head : Nat) : Nat := slot * 2 ^ 14 + layer * 64 + head

/-- A page record. -/
def recAt (s : State) (c : Ch) (key : Nat) : Pte := smGet Pte.empty (s.ch c).obj.pbRecs key

/-- Writes a page record. -/
def setRec (s : State) (c : Ch) (key : Nat) (e : Pte) : State :=
  modObj s c (fun o => { o with pbRecs := smSet Pte.empty o.pbRecs key e })

/-- The page of an entry, or of a record. -/
def pageAt (s : State) (c : Ch) (isPb : Bool) (key : Nat) : Pte := if isPb then recAt s c key else pteAt s c key

/-- Writes the page of an entry, or of a record. -/
def setPage (s : State) (c : Ch) (isPb : Bool) (key : Nat) (e : Pte) : State := if isPb then setRec s c key e else setPte s c key e

/-- The fields of OBJ_CFG (R65). -/
def seqSlots (s : State) (c : Ch) : Nat := 2 ^ fld (s.ch c).cfg.objCfg.toNat 31 27
/-- Prefix-block slots. -/
def pbSlots (s : State) (c : Ch) : Nat := 2 ^ fld (s.ch c).cfg.objCfg.toNat 26 22
/-- Summary pool entries. -/
def summSlots (s : State) (c : Ch) : Nat := 2 ^ fld (s.ch c).cfg.objCfg.toNat 21 17
/-- Nodes of the node pool: 2^18 of 4 KiB in each GiB. -/
def nodeSlots (s : State) (c : Ch) : Nat := 2 ^ 18 * fld (s.ch c).cfg.objCfg.toNat 16 10

/-- Nodes not in use. -/
def nodesFree (s : State) (c : Ch) : Nat := nodeSlots s c - (s.ch c).obj.nodes.length

/-- Whether a node serves a purpose already. -/
def nodeTaken (s : State) (c : Ch) (k : NodeKey) : Bool := (s.ch c).obj.nodes.any (fun e => e.2 == k)

/-- The number of the node that serves a purpose; 0 when none does. -/
def nodeOf (s : State) (c : Ch) (k : NodeKey) : Nat := (((s.ch c).obj.nodes.find? (fun e => e.2 == k)).map (fun e => e.1)).getD 0

/-- Takes nodes from the node pool, one for each purpose not yet served; none when the pool has too few. The lowest free node is taken (log
12: the manual leaves the choice to the allocator). -/
def allocNodes (s : State) (c : Ch) (ks : List NodeKey) : Option State :=
  let new := dedup (ks.filter (fun k => !nodeTaken s c k))
  if new.length ≤ nodesFree s c then
    some (new.foldl (fun t k => modObj t c (fun o => { o with nodes := smPut o.nodes (lowestFree o.nodes 0) k })) s)
  else none

/-- Takes consecutive nodes (R67, R74): the lowest run of free nodes (log 12); none when the pool holds no such run. -/
def allocRun (s : State) (c : Ch) (ks : List NodeKey) : Option State :=
  let n := lowestRun (s.ch c).obj.nodes ks.length 0
  if n + ks.length ≤ nodeSlots s c then
    some (modObj s c (fun o => { o with nodes := ks.zipIdx.foldl (fun m e => smPut m (n + e.2) e.1) o.nodes }))
  else none

/-- Returns nodes to the node pool. -/
def freeNodes (s : State) (c : Ch) (p : NodeKey → Bool) : State :=
  modObj s c (fun o => { o with nodes := o.nodes.filter (fun e => !p e.2) })

/-- Allocates a summary: the lowest free index (log 19), or none. -/
def allocSumm (s : State) (c : Ch) (m : Summ) : Option (Nat × State) :=
  let i := lowestFree (s.ch c).obj.summs 0
  if i < summSlots s c then some (i, modObj s c (fun o => { o with summs := smPut o.summs i m })) else none

/-- Frees a summary. -/
def freeSumm (s : State) (c : Ch) (i : Nat) : State := modObj s c (fun o => { o with summs := smDel o.summs i })

/-- Changes a summary, if it exists. -/
def modSumm (s : State) (c : Ch) (i : Nat) (f : Summ → Summ) : State :=
  match smGet? (s.ch c).obj.summs i with
  | some m => modObj s c (fun o => { o with summs := smPut o.summs i (f m) })
  | none => s

/-- The value of the touch counter for an access; the counter then advances by one and wraps (R81, R135). -/
def touchNext (s : State) (c : Ch) : BitVec 40 × State :=
  ((s.ch c).obj.touch, modObj s c (fun o => { o with touch := o.touch + 1 }))

/-! ## ACCESS_ERR (R315) -/

/-- Sets bits of ACCESS_ERR (R315). -/
def accessErr (s : State) (l : Ld) (b : BitVec 5) : State := modLd s l (fun d => { d with access := d.access ||| b })

/-- UNASSIGNED_CH of ACCESS_ERR. -/
def aeUnassigned : BitVec 5 := 4

/-! ## Releases and guards (R126, R237) -/

/-- The engine rings of a channel whose admitted descriptor, an attention descriptor or an append (R217), has not retired: it counts in
USE_COUNT (R53). -/
def attnRings (s : State) (c : Ch) : List Nat :=
  (allRings.filter (fun r => decide (r.val < 4) && !(s.ring c r).inUse.isEmpty)).map (fun r => r.val)

/-- Releases a location: its record waits for the guard of R126. -/
def release (s : State) (c : Ch) (tier : BitVec 2) (cls : BitVec 3) (loc : BitVec 45) : State :=
  let x : Release := { tier, cls, loc, rings := attnRings s c }
  modCh s c (fun ch => { ch with rel := { ch.rel with queue := ch.rel.queue ++ [x] } })

/-- The attention descriptor of a ring has retired: the guards that it held clear. -/
def clearGuard (s : State) (c : Ch) (r : Nat) : State :=
  modCh s c (fun ch => { ch with rel := { ch.rel with queue := ch.rel.queue.map (fun x => { x with rings := x.rings.filter (fun y => y != r) }) } })

/-- Whether a T1 frame of 2 KiB units [lo, hi) is under a guard. -/
def guarded (s : State) (c : Ch) (lo hi : Nat) : Bool :=
  (s.ch c).rel.queue.any (fun x => x.tier == 1 && !x.rings.isEmpty && decide (x.loc.toNat < hi ∧ lo < x.loc.toNat + 2 ^ x.cls.toNat))

end Sys2Proof.Machine
end

