-- ==== Sys2Proof/Machine/Rings.lean ====
section
/-! DEFINITION. The life of a descriptor (R138 to R151, R173): header checks, gate wait, admission, retire with the completion
record, gate add and interrupt, the abort of a stopped ring, and the admission check of a sequence handle (R54). -/

namespace Sys2Proof.Machine
open Sys2Proof

/-- Whether an opcode is assigned and accepted on a ring (R152 and the opcode tables of the units). -/
def opcodeOn (op r : Nat) : Bool :=
  if op = 0x00 then true
  else if 0x01 ≤ op ∧ op ≤ 0x04 then decide (r ≤ 3)
  else if 0x10 ≤ op ∧ op ≤ 0x15 then r == 4 || r == 5
  else if 0x20 ≤ op ∧ op ≤ 0x26 then r == 6
  else if 0x30 ≤ op ∧ op ≤ 0x35 then r == 7
  else if 0x40 ≤ op ∧ op ≤ 0x47 then r == 8
  else false

/-- The header checks of R143, in their order; none when the header passes. -/
def headerBad (h : Hdr) (r : Nat) : Option St :=
  if !opcodeOn h.opcode r then some .badOpcode
  else if 12 ≤ h.addCh ∨ (h.waitGate ≠ 0xFFF ∧ numGates ≤ h.waitGate) ∨ (h.addGate ≠ 0xFFF ∧ numGates ≤ h.addGate) ∨ h.reserved ≠ 0 then some .badField
  else none

/-- Entries of a ring. -/
def ringSize (g : RingState) : Nat := 2 ^ g.sizeLog2.toNat

/-- The completion record (R151). -/
def cplRecord (phase : Bool) (h : Hdr) (x : Cpl) (pos elapsed : Word32) : List Byte :=
  natLe (at_ 255 1 (b2n phase) + at_ 240 8 h.opcode + at_ 224 16 h.tag + at_ 208 16 x.status.toNat + at_ 192 16 x.flags.toNat
    + at_ 176 16 x.minCov.toNat + at_ 128 32 x.detail.toNat + at_ 64 64 x.result.toNat + at_ 32 32 pos.toNat + elapsed.toNat) 32

/-- The end of an operation that a region's record counts (R359). -/
def regionEnd (s : State) (x : Nat × Nat) : State :=
  modRegion s x.1 (fun g => if x.2 = 0 then { g with drain0 := g.drain0 - 1 } else { g with drain1 := g.drain1 - 1 })

/-- The end of an operation that a region's record may count. -/
def endAdm (s : State) (adm : Option (Nat × Nat)) : State :=
  match adm with
  | some x => regionEnd s x
  | none => s

/-- Takes an admitted descriptor's slots out of USE_COUNT (R53), and its admissions out of their regions' DRAIN counts (R359). -/
def dropUses (s : State) (c : Ch) (r : Ring) : State :=
  let s1 := (s.ring c r).inUse.foldl (fun t slot => modSeq t c slot (fun e => { e with useCount := e.useCount - 1 })) s
  let s2 := (s.ring c r).regs.foldl regionEnd s1
  modRing s2 c r (fun g => { g with inUse := [], regs := [] })

/-- Whether a head descriptor has begun: it has been admitted and has not retired. -/
def begun (w : RingWait) : Bool :=
  match w with
  | .idle => false
  | .gate _ => false
  | .released => false
  | .useFull => false
  | .insertWait => false
  | .drain _ _ => false
  | _ => true

/-- Whether the ring's head descriptor has been admitted already. -/
def wasAdmitted (s : State) (c : Ch) (r : Ring) : Bool :=
  begun (s.ring c r).wait || !(s.ring c r).inUse.isEmpty || !(s.ring c r).regs.isEmpty

/-- Whether the gate add of a header is made, under ADD_ON (R142). -/
def addsGate (h : Hdr) (x : Cpl) : Bool := h.addGate != 0xFFF && (!h.addOn || x.status == 0)

/-- The completion record of a retire, HEAD, RETIRED and the phase (R141, R151). ELAPSED is a free value (log 1). -/
def writeCpl (s : State) (c : Ch) (r : Ring) (h : Hdr) (x : Cpl) : State :=
  let g := s.ring c r
  let f := drawFree s
  let pos := g.retired + 1
  let s1 := t0Write f.2 c (g.cplBase.toNat * 4096 + 32 * g.head.toNat) (cplRecord g.phase h x pos (f.1.setWidth 32))
  let hd := (g.head.toNat + 1) % ringSize g
  modRing s1 c r (fun g => { g with head := BitVec.ofNat 12 hd, retired := pos, phase := if hd = 0 then !g.phase else g.phase, wait := .idle, old := none, evicted := 0 })

/-- Whether a gate add to a channel would be refused by the port hub (R21, R146). -/
def addRefused (s : State) (c : Ch) (h : Hdr) : Bool :=
  match chOf h.addCh with
  | some t => t != c && !isUp s t
  | none => true

/-- One retire (R147): completion record, gate add, MSI-X request; its guards (R126) and its place among the held changes (R228) end. `adds` says
whether the descriptor makes its add at all (R143). -/
def retire1 (s : State) (c : Ch) (r : Ring) (x : Cpl) (adds : Bool) : State :=
  let h := hdrOf (headDesc s c r)
  let add := adds && addsGate h x
  let x := if add && addRefused s c h then { x with flags := x.flags ||| flAddRefused } else x
  let vec := (s.ring c r).irqVec.toNat
  let s := clearGuard (writeCpl (dropUses s c r) c r h x) c r
  let s := modRefPort s c (fun p => { p with held := p.held.filter (fun y => y != .ring r.val) })
  let s := if add then (gateAddTo s c h.addCh h.addGate h.addAmount).1 else s
  if h.irq then (match ldOfCh s c with | some l => msixReq s l vec | none => s) else s

/-- Descriptors between HEAD and TAIL. -/
def ringFill (g : RingState) : Nat := (g.tail.toNat + ringSize g - g.head.toNat) % ringSize g

/-- Retires `n` descriptors with `ST_ABORTED` (R173). -/
def abortSome : Nat → State → Ch → Ring → State
  | 0, s, _, _ => s
  | n + 1, s, c, r => abortSome n (retire1 s c r (cplSt .aborted) true) c r

/-- Aborts every descriptor of a stopping ring up to TAIL (R173). -/
def abortRest (s : State) (c : Ch) (r : Ring) : State := abortSome (ringFill (s.ring c r)) s c r

/-- A retire; on a stopping ring every later descriptor up to TAIL then ends aborted (R173). -/
def retireAs (s : State) (c : Ch) (r : Ring) (x : Cpl) (adds : Bool) : State :=
  let s := retire1 s c r x adds
  if (s.ring c r).draining then abortRest s c r else s

/-- Free entries of the release log. -/
def relRoom (l : RelLog) : Nat :=
  let n := 2 ^ l.sizeLog2.toNat
  n - 1 - (l.head.toNat + n - l.tail.toNat % n) % n

/-- Whether releases wait for room in the log (R237): those whose guard has cleared are more than its free entries. -/
def logFull (s : State) (c : Ch) : Bool :=
  let l := (s.ch c).rel
  l.enable && decide (relRoom l < (l.queue.filter (fun x => x.rings.isEmpty)).length)

/-- Notes that a release waits for room (FULL_WAIT, R237). -/
def noteFull (s : State) (c : Ch) : State := modCh s c (fun ch => { ch with rel := { ch.rel with fullWait := true } })

/-- Whether the release log is full for the unit of a ring: the guards that its own descriptor holds end with it. -/
def logFullFor (s : State) (c : Ch) (r : Ring) : Bool := logFull (clearGuard s c r) c

/-- Whether appends to the journal wait for a page buffer: both hold a page's 510 records, and more have come (R289). -/
def journalOver (s : State) (c : Ch) : Bool := (s.ch c).marl.flash.formatted && decide (1020 < (s.ch c).marl.jbuf.length)

/-- A descriptor's end: it retires, or waits at the release when the release log is full (R237), or for room for its journal records (R289). -/
def retire (s : State) (c : Ch) (r : Ring) (x : Cpl) : State :=
  if logFullFor s c r then setWait (noteFull s c) c r (.logFull x)
  else if journalOver s c then setWait s c r (.logFull x)
  else retireAs s c r x true

/-- The descriptor of a ring whose work is done and that waited for room goes on when there is room. -/
def logRing (s : State) (c : Ch) (r : Ring) : State :=
  if logFullFor s c r || journalOver s c then s
  else match (s.ring c r).wait with
    | .logFull x => retireAs s c r x true
    | _ => s

/-- A descriptor's end with a bare status. -/
def retireSt (s : State) (c : Ch) (r : Ring) (x : St) : State := retire s c r (cplSt x)

/-- Whether a commit's fence is raised on a channel (R415). -/
def fenced (s : State) (c : Ch) : Bool :=
  match s.island.commit with
  | some m => m.chans.contains c.val
  | none => false

/-- Whether a fence holds the admission of an opcode on a ring: ring 8 descriptors, `Persist` and `SieveInsert` (R415). -/
def fenceHolds (s : State) (c : Ch) (r : Ring) (op : Nat) : Bool := fenced s c && (r == 8 || op == 0x15 || op == 0x32)

/-- Whether the ring's unit takes a descriptor now: the channel is up, the ring runs (or, stopping, still has its executing descriptor) and holds one, and neither a thermal trip (R481) nor an engine-map commit that the
ring waits for (R469) holds its fetch. -/
def ringTakes (s : State) (c : Ch) (r : Ring) : Bool :=
  let ch := s.ch c
  let g := ch.rings[r]
  let cont := match g.wait with | .resumed => true | _ => false
  isUp s c && (if g.draining then cont else g.enable) && g.head != g.tail && !ch.throttle.tripHold &&
  !(match (if h : r.val < 4 then ch.eng.slotOf[r.val] else none) with
    | some x => ch.eng.mapDue.contains x
    | none => false)

/-- Whether no engine slot serves the ring (R470). -/
def unserved (s : State) (c : Ch) (r : Ring) : Bool :=
  if h : r.val < 4 then (s.ch c).eng.slotOf[r.val].isNone else false

/-- Runs the descriptor at HEAD when it is one of the row's opcode (R149): header check, wait, then the unit's admission and
execution `body`. A descriptor whose opcode is unassigned or not accepted on the ring runs under the `Nop` row (log 20). -/
def runHead (s : State) (c : Ch) (r : Ring) (op : Nat) (body : Nat → State → State) : State :=
  if !ringTakes s c r then s
  else
    let d := headDesc s c r
    let h := hdrOf d
    match (s.ring c r).wait with
    | .resumed => if h.opcode = op then underOwn s c r (body d) else s
    | .slipRoom _ => if h.opcode = op then underOwn s c r (body d) else s
    | .released => if h.opcode = op ∧ !fenceHolds s c r op then body d s else s
    | .idle =>
      if (if opcodeOn h.opcode r then h.opcode = op else op = 0) then
        match headerBad h r with
        | some e => retireAs s c r (cplSt e) false
        | none =>
          if unserved s c r then retireAs s c r (cplDet .engineFault 0xFFFFFFFF) true
          else if h.waitGate ≠ 0xFFF ∧ !gateMet (gateCount s c h.waitGate) (BitVec.ofNat 32 h.waitCount) then setWait s c r (.gate false)
          else if fenceHolds s c r op then setWait s c r .released
          else body d s
      else s
    | _ => s

/-- Any of bits [hi:lo] of a descriptor set: a reserved field is nonzero (R8). -/
def resv (d hi lo : Nat) : Bool := fld d hi lo != 0

/-! ## Sequence handles (R47, R54) -/

/-- A handle's GEN, HOME_CH and SLOT. -/
structure Handle where
  gen  : Nat
  home : Nat
  slot : Nat
  deriving DecidableEq, Repr

/-- The fields of a 48-bit handle. -/
def handleOf (v : Nat) : Handle := { gen := fld v 47 32, home := fld v 31 28, slot := fld v 27 0 }

/-- The 48 bits of a handle. -/
def handleBits (gen home slot : Nat) : Nat := at_ 32 16 gen + at_ 28 4 home + at_ 0 28 slot

/-- Checks 1 to 5 of R54 for a handle; `frozenOk` when R50 lets the descriptor name a Frozen sequence. -/
def seqCheck (s : State) (c : Ch) (h : Handle) (frozenOk : Bool) : Option St :=
  if 12 ≤ h.home ∨ seqSlots s c ≤ h.slot then some .outOfRange
  else if h.home ≠ c.val then some .wrongChannel
  else
    let e := seqAt s c h.slot
    if e.state = .retired then some .slotRetired
    else if e.gen.toNat ≠ h.gen ∨ e.state = .free ∨ e.state = .closing then some .staleHandle
    else if e.state = .frozen ∧ !frozenOk then some .seqFrozen
    else none

/-- The checks of R54 at a descriptor's admission; one that has been admitted and goes on after a wait is not checked anew. -/
def admitCheck (s : State) (c : Ch) (r : Ring) (h : Handle) (frozenOk : Bool) : Option St :=
  if wasAdmitted s c r then none else seqCheck s c h frozenOk

/-- Whether USE_COUNT of a slot is at its limit (R53). -/
def useFull (s : State) (c : Ch) (slot : Nat) : Bool := (seqAt s c slot).useCount == 0xFFFF

/-- Counts the ring's descriptor in USE_COUNT of a slot until it retires (R53). -/
def countUse (s : State) (c : Ch) (r : Ring) (slot : Nat) : State :=
  let s := modSeq s c slot (fun e => { e with useCount := e.useCount + 1 })
  modRing s c r (fun g => { g with inUse := slot :: g.inUse })

/-- Admits a descriptor that names slots: it waits while a USE_COUNT is full (R53), else it counts and goes on; one that counts already
(it waited after its admission) goes on. -/
def admitUse (s : State) (c : Ch) (r : Ring) (slots : List Nat) (k : State → State) : State :=
  if !(s.ring c r).inUse.isEmpty then k s
  else if slots.any (useFull s c) then setWait s c r .useFull
  else k (slots.foldl (fun t x => countUse t c r x) s)

/-- Number of layers of an entry. -/
def layersOf (e : SeqEntry) : Nat := e.layersM1.toNat + 1
/-- Number of KV heads of an entry. -/
def headsOf (e : SeqEntry) : Nat := e.headsM1.toNat + 1

/-- Whether a ring entry index is used for page numbers (R62). -/
def pageEntry (e : SeqEntry) (p : Nat) : Nat :=
  if e.ring then (if p < e.sinkPages.toNat then p else e.sinkPages.toNat + p % (max 1 e.ringPages.toNat)) else p

/-- Entries of a sequence's page map that a ring sequence has. -/
def ringEntries (e : SeqEntry) : Nat := e.sinkPages.toNat + e.ringPages.toNat

/-- The page layout of a sequence (R59). -/
def seqLayout (e : SeqEntry) : Nat × Nat × Nat := (e.kFmt.toNat, e.vFmt.toNat, headDimOf e.headDim.toNat)

/-- Size of a frame class in bytes (R60). -/
def classBytes (cls : Nat) : Nat := 2048 * 2 ^ cls

end Sys2Proof.Machine
end

