-- ==== Sys2Proof/Machine/MarlOps.lean ====
section
/-! DEFINITION. Marl's operations: geometry and capacity (R265 to R268), the map (R270 to R274), acceptance into the program buffer
and the streams (R276 to R280), the journal (R289, R290), images and seals (R273), capacity and read-only (R297). -/

namespace Sys2Proof.Machine
open Sys2Proof

/-! ## Geometry and capacity -/

/-- Marl of a channel. -/
def State.marl (s : State) (c : Ch) : Marl := (s.ch c).marl

/-- Die groups (R265). -/
def groups (m : Marl) : Nat := m.dies / 16

/-- k of OP_SEL (R267). -/
def opK (op : Nat) : Nat :=
  match op with
  | 0 => 14
  | 1 => 13
  | 2 => 11
  | _ => 0

/-- Stripe blocks at format. -/
def sbFmt (m : Marl) : Nat := (m.flash.sbPerGrp.take (groups m)).sum

/-- The key of a stripe block. -/
def sbKey (g i : Nat) : Nat := g * 16384 + i

/-- A stripe block. -/
def sbAt (m : Marl) (key : Nat) : SbInfo := smGet SbInfo.fresh m.table.sbs key

/-- All stripe blocks of a group. -/
def sbsOf (m : Marl) (g : Nat) : List Nat := (List.range (m.flash.sbPerGrp.getD g 0)).map (sbKey g)

/-- Stripe blocks retired. -/
def sbRetired (m : Marl) : Nat := (m.table.sbs.filter (fun e => e.2.state == .retired)).length

/-- SB_GOOD (R268). -/
def sbGood (m : Marl) : Nat := sbFmt m - sbRetired m

/-- Free stripe blocks (MARL_FREE): every good one that is neither open, closed nor of the journal. -/
def sbFree (m : Marl) : Nat := sbFmt m - (m.table.sbs.filter (fun e => e.2.state != .free)).length

/-- SYS_UNITS (R268). -/
def sysUnits (m : Marl) : Nat := m.flash.capFmt / 33
/-- LU_EXPORT (R268). -/
def luExport (m : Marl) : Nat := m.flash.capFmt - sysUnits m
/-- SEG_UNITS (R268). -/
def segUnits (m : Marl) : Nat := 2 * ceilDiv m.flash.capFmt 2048

/-- POOL_SB (R268). -/
def poolSb (m : Marl) : Int := (sbGood m : Int) - 16 - ceilDiv (m.capCeil + segUnits m) (15 * max 1 m.pagesPerBlock)

/-- The units that a summary or an image takes in the metadata store, each image rounded up to whole units (log 23). -/
def imageUnits (x : Image) : Nat :=
  match x.body with
  | .seq _ d p u => ceilDiv (64 + 8 * d.length + 16 * p.length + 512 * u.length) 16384
  | .block _ r u => ceilDiv (64 + 16 * r.length + 512 * u.length) 16384
  | .region _ _ r => ceilDiv (64 + 16 * r.length) 16384

/-- The runs of the metadata store in use: images in force, images whose IMAGE record is not durable yet, and the summaries of Frozen sequences. -/
def storeRuns (m : Marl) : List (Nat × Nat) :=
  dedup ((m.images ++ m.pendImgs.map (fun p => p.image)).map (fun x => (x.first, imageUnits x)) ++ m.frozenAt.map (fun e => e.2))

/-- Units of the metadata store in use. -/
def metaUnits (m : Marl) : Nat := ((storeRuns m).map (fun r => r.2)).sum

/-- Accepted units, not cancelled, whose entries are unmapped. -/
def acceptedNew (m : Marl) : Nat :=
  (dedup ((m.buffer.filter (fun u => u.page.kind == 0 && !u.stale)).map (fun u => u.page.lu))).filter
    (fun lu => !(smGet MapEntry.none m.map lu).mapped) |>.length

/-- MAPPED (R286): the units of the metadata store count as such. -/
def mappedUnits (m : Marl) : Nat := (m.map.filter (fun e => e.2.mapped && decide (e.1 < luExport m))).length + metaUnits m + acceptedNew m

/-- CAP_NOW (R268, R297). -/
def capNow (m : Marl) : Nat :=
  if m.readonly then m.capCeil
  else min m.capCeil (((sbGood m : Int) - 16 - 2 * m.flash.spareRes) * (15 * m.pagesPerBlock) - segUnits m).toNat

/-- Whether the channel has a T2: sixteen used dies or more, and formatted (R265). -/
def hasT2 (m : Marl) : Bool := decide (16 ≤ m.dies) && m.flash.formatted

/-! ## The stripe blocks at format (R264, R265, R267) -/

/-- Whether a die may be used (R264), but for its geometry. -/
def dieOk (x : DieFound) : Bool :=
  x.crcOk && x.dataBytes == 16384 && decide (1824 ≤ x.spareBytes) && decide (x.pages ≤ 4096) && decide (x.blocks ≤ 16384) && x.wholeLine

/-- The dies of populated buses in Marl's order (R265): target 0 on each bus in ascending order, then target 1, and so on. -/
def dieOrder (d : DieReport) : List DieFound :=
  (List.range 16).flatMap (fun t => (List.range 8).flatMap (fun b =>
    d.dies.filter (fun x => d.buses.getLsbD b && x.bus == b && x.target == t)))

/-- The used dies (R264): those that pass, of the geometry of the first that does: its pages, blocks and planes (DESIGN CHOICE, log 189). -/
def usedDies (d : DieReport) : List DieFound :=
  let xs := (dieOrder d).filter dieOk
  match xs with
  | [] => []
  | x :: _ => xs.filter (fun y => y.pages == x.pages && y.blocks == x.blocks && y.planes == x.planes)

/-- The good blocks of a die in each plane, ascending: block b lies in plane b mod the number of planes (log 148). -/
def goodBlocks (blocks planes : Nat) (bad : List Nat) : List (List Nat) :=
  (List.range planes).map (fun p => (List.range blocks).filter (fun b => b % planes == p && !bad.contains b))

/-- Sets `n` blocks aside (R267 step 2), from plane `p` on in turn, each the highest of its plane: the blocks, and what is left. -/
def setAside : Nat → Nat → List (List Nat) → List Nat × List (List Nat)
  | 0, _, ps => ([], ps)
  | n + 1, p, ps =>
    let k := p % max 1 ps.length
    let x := ps.getD k []
    let r := setAside n (k + 1) (ps.set k x.dropLast)
    (x.getLast?.toList ++ r.1, r.2)

/-- A die's anchor block, if it takes one, its spares and the blocks left in each plane (R267 steps 1 and 2). -/
def asideOf (blocks planes : Nat) (bad : List Nat) (anchor : Bool) : Option Nat × List Nat × List (List Nat) :=
  let ps := goodBlocks blocks planes bad
  let n := blocks / 64
  if anchor then
    let r := setAside (n - 1) 1 (ps.set 0 ((ps.getD 0 []).drop 1))
    ((ps.getD 0 []).head?, r.1, r.2)
  else (none, setAside n 0 ps)

/-- The stripe blocks of one plane of a group (R267 step 3), and each member's blocks left over. -/
def pairPlane (ls : List (List Nat)) : List (List Nat) × List (List Nat) :=
  let k := (ls.map (fun l => l.length)).foldl min (ls.headD []).length
  ((List.range k).map (fun i => ls.map (fun l => l.getD i 0)), ls.map (fun l => l.drop k))

/-- The stripe blocks of a group, plane by plane, and the spares of its sixteen dies (R267 steps 3 and 4). -/
def formGroup (planes : Nat) (ds : List (List Nat × List (List Nat))) : List (List Nat) × List (List Nat) :=
  let ps := (List.range planes).map (fun p => pairPlane (ds.map (fun d => d.2.getD p [])))
  (ps.flatMap (fun p => p.1), ds.zipIdx.map (fun (d, m) => d.1 ++ ps.flatMap (fun p => p.2.getD m [])))

/-- What a format builds: the stripe blocks of each group with their member blocks, the spares of each die, and the two anchor blocks. `bad`: the bad and
retired blocks of each used die. -/
def formAll (blocks planes dies : Nat) (bad : Nat → List Nat) : List (List (List Nat)) × List (List Nat) × (Nat × Nat) :=
  let ds := (List.range dies).map (fun d => asideOf blocks planes (bad d) (d < 2))
  let gs := (List.range (dies / 16)).map (fun g => formGroup planes (((ds.drop (16 * g)).take 16).map (fun d => d.2)))
  (gs.map (fun g => g.1), gs.flatMap (fun g => g.2), ((ds.getD 0 (none, [], [])).1.getD 0, (ds.getD 1 (none, [], [])).1.getD 0))

/-! ## The journal (R289, R290) -/

/-- Records of a journal page. -/
def jPageRecords : Nat := 510

/-- The JSEQ that the next record takes. -/
def nextJseq (m : Marl) : Nat := m.flash.jnext + m.jbuf.length

/-- The durable journal sequence: every record below it is durable. -/
def durableJseq (m : Marl) : Nat := m.flash.jnext

/-- Appends a record; a channel whose media is unformatted has no journal (R55). `jbuf` holds the two page buffers and, past them, the appends that
wait for one: the descriptor that made one does not retire before it is in a buffer (R289, log 26). -/
def jAppend (s : State) (c : Ch) (r : JRec) : State :=
  if (s.marl c).flash.formatted then modMarl s c (fun m => { m with jbuf := m.jbuf ++ [r] }) else s

/-- Whether both page buffers are full, so that an append would wait. -/
def jFull (m : Marl) : Bool := m.flash.formatted && decide (2 * jPageRecords ≤ m.jbuf.length)

/-- Codes of a slot's state (R50). -/
def slotStateCode : SlotState → Nat
  | .free => 0
  | .active => 1
  | .frozen => 2
  | .closing => 3
  | .retired => 7

/-- Fields packed downward from a bit (R290). -/
def packDown : Nat → List (Nat × Nat) → Nat
  | _, [] => 0
  | n, (w, v) :: r => at_ (n - w) w v + packDown (n - w) r

/-- A journal record's TYPE and fields, high to low (R290). -/
def jrecFields : JRec → Nat × List (Nat × Nat)
  | .pad => (0x00, [])
  | .map gc stream owner slots lu pua old =>
    (0x01, [(1, b2n gc), (2, 0), (2, stream.toNat), (12, owner.toNat), (8, slots.toNat), (32, lu), (33, pua.toNat), (33, old.toNat)])
  | .unmap secure slots lu => (0x02, [(1, b2n secure), (8, slots.toNat), (32, lu)])
  | .image kind obj first units prev => (0x03, [(2, kind), (48, obj.toNat), (32, first), (24, units), (32, prev)])
  | .imageFree kind obj first => (0x04, [(2, kind), (48, obj.toNat), (32, first)])
  | .sbOpen g sb stream wseq => (0x05, [(3, g), (14, sb), (3, stream), (48, wseq)])
  | .sbClose g sb wseq => (0x06, [(3, g), (14, sb), (48, wseq)])
  | .erase g sb count => (0x07, [(3, g), (14, sb), (24, count)])
  | .sbMember g sb member block => (0x08, [(3, g), (14, sb), (4, member), (16, block)])
  | .retire die block cause => (0x09, [(7, die), (16, block), (2, cause)])
  | .slot slot gen st => (0x0A, [(28, slot), (16, gen.toNat), (3, slotStateCode st)])
  | .region idx gen ev => (0x0B, [(16, idx), (16, gen.toNat), (2, ev)])
  | .ckpt dir segs replay => (0x0C, [(33, dir.toNat), (24, segs), (48, replay)])
  | .media ro op now ceil => (0x0D, [(1, b2n ro), (2, op.toNat), (32, now), (32, ceil)])
  | .ownerPurge owner => (0x0E, [(12, owner.toNat)])
  | .dieFail die => (0x0F, [(7, die)])

/-- A journal record (R290). -/
def jrecBits (r : JRec) : Nat := at_ 248 8 (jrecFields r).1 + packDown 248 (jrecFields r).2

/-- Journal pages of a stripe block: eight page pairs for each page of a block (R289). -/
def jPagesPerSb (m : Marl) : Nat := 8 * max 1 m.pagesPerBlock

/-- The journal stripe block that takes page `k` (by JPSEQ): the sixteen in turn (log 28). -/
def jSbOf (m : Marl) (k : Nat) : Nat := m.flash.jsbs.getD (k / jPagesPerSb m % 16) 0

/-- The two physical pages of journal page `k`: page ⌊n / 8⌋ of members 2(n mod 8) and 2(n mod 8) + 1, for page n of its stripe block (R289). -/
def jPuas (m : Marl) (k : Nat) : List Nat :=
  let n := k % jPagesPerSb m
  let key := jSbOf m k
  [0, 1].map (fun i => at_ 30 3 (key / 16384) + at_ 16 14 (key % 16384) + at_ 4 12 (n / 8) + at_ 0 4 (2 * (n % 8) + i))

/-- A journal page as both copies hold it (R289): the header, the records in use, and PAD records. CHECK covers bytes 4 to 16,383. -/
def jPageBytes (m : Marl) (p : JPage) : List Byte :=
  let next := jSbOf m (p.seq + jPagesPerSb m)
  let head := at_ 448 64 p.seq + at_ 400 48 p.first + at_ 390 10 p.recs.length + at_ 373 17 next
  let body := (natLe head 64).drop 4 ++ p.recs.flatMap (fun r => natLe (jrecBits r) 32)
    ++ (List.replicate (jPageRecords - p.recs.length) JRec.pad).flatMap (fun r => natLe (jrecBits r) 32)
  natLe (crc32c body).toNat 4 ++ body

/-- Applies a journal record to the state that the earlier ones left (R290). `store`: the images in the metadata store. -/
def replayRec (store : List Image) (x : Snap) (r : JRec) : Snap :=
  let modSb := fun (g sb : Nat) (f : SbInfo → SbInfo) =>
    let k := g * 16384 + sb
    { x with table := { x.table with sbs := smSet SbInfo.fresh x.table.sbs k (f (smGet SbInfo.fresh x.table.sbs k)) } }
  let drop := fun (die block : Nat) (t : SbTable) => { t with spares := smPut t.spares die ((smGet [] t.spares die).filter (fun b => b != block)) }
  match r with
  | .pad => x
  | .map _ stream owner slots lu pua _ => { x with map := smPut x.map lu { MapEntry.none with mapped := true, stream, owner, slots, pua } }
  | .unmap _ slots lu =>
    { x with map := smSet MapEntry.none x.map lu { smGet MapEntry.none x.map lu with mapped := false, slots, pua := MapEntry.none.pua } }
  | .image kind obj first _ _ =>
    { x with images := x.images.filter (fun y => !(y.kind == kind && y.obj == obj))
                        ++ (store.find? (fun y => y.kind == kind && y.obj == obj && y.first == first)).toList }
  | .imageFree kind obj first => { x with images := x.images.filter (fun y => !(y.kind == kind && y.obj == obj && y.first == first)) }
  | .sbOpen g sb stream _ => modSb g sb (fun b => { b with state := if stream = 4 then .journal else .opened })
  | .sbClose g sb _ => modSb g sb (fun b => { b with state := .closed })
  | .erase g sb count => modSb g sb (fun b => { SbInfo.fresh with erases := count, state := if b.state = .journal then .journal else .free })
  | .sbMember g sb member block =>
    let k := g * 16384 + sb
    { x with table := drop (16 * g + member) block { x.table with members := smPut x.table.members k ((smGet [] x.table.members k).set member block) } }
  | .retire die block _ => { x with table := drop die block { x.table with retired := x.table.retired ++ [(die, block)] } }
  | .slot i gen st => { x with slots := smPut x.slots i (gen, st) }
  | .region i gen ev => { x with regs := smPut x.regs i (gen, ev) }
  | .ckpt _ _ _ => x
  | .media ro _ _ ceil => { x with readonly := ro, capCeil := ceil }
  | .ownerPurge o => { x with map := x.map.map (fun e => if e.2.owner = o then (e.1, { e.2 with mapped := false, slots := 0, pua := MapEntry.none.pua }) else e) }
  | .dieFail die => { x with table := { x.table with failed := if x.table.failed.contains die then x.table.failed else x.table.failed ++ [die] } }

/-- The journal pages that a replay reaches: up to the first of which no copy is good (R293). -/
def replayPages (f : MarlFlash) (bad : List Nat) : List JPage := f.journal.takeWhile (fun p => !bad.contains p.seq)

/-- The records that a replay applies: from REPLAY_JSEQ on. -/
def replayRecs (f : MarlFlash) (bad : List Nat) : List JRec := (replayPages f bad).flatMap (fun p => p.recs.drop (f.anchor.replay - p.first))

/-- The state that the anchored checkpoint and the journal leave (R293). -/
def flashSnap (f : MarlFlash) (bad : List Nat) : Snap := (replayRecs f bad).foldl (replayRec f.store) f.snap

/-- The first unit of the metadata store that a run of `n` units takes: the lowest run that is free and that no image of the durable journal holds
(log 23). -/
def metaFirst (m : Marl) (n : Nat) : Nat :=
  let held := storeRuns m ++ (flashSnap m.flash []).images.map (fun x => (x.first, imageUnits x))
  let used : SMap Unit := (held.flatMap (fun r => (List.range r.2).map (fun i => r.1 + i))).foldl (fun x u => smPut x u ()) []
  lowestRun used n (luExport m)

/-- Journals a slot's GEN and STATE (R55). -/
def jSlot (s : State) (c : Ch) (slot : Nat) : State :=
  let e := seqAt s c slot
  let s := jAppend s c (.slot slot e.gen e.state)
  if (s.marl c).flash.formatted then modMarl s c (fun m => { m with slots := smPut m.slots slot (e.gen, e.state) }) else s

/-- Changes the stripe-block table. -/
def modTable (s : State) (c : Ch) (f : SbTable → SbTable) : State := modMarl s c (fun m => { m with table := f m.table })

/-- Changes a stripe block. -/
def modSb (s : State) (c : Ch) (key : Nat) (f : SbInfo → SbInfo) : State :=
  modTable s c (fun x => { x with sbs := smSet SbInfo.fresh x.sbs key (f (smGet SbInfo.fresh x.sbs key)) })

/-! ## Physical addresses (R270) -/

/-- A physical address. -/
def puaOf (g sb page member : Nat) : BitVec 33 := BitVec.ofNat 33 (at_ 30 3 g + at_ 16 14 sb + at_ 4 12 page + at_ 0 4 member)

/-- The stripe block of a physical address. -/
def puaSb (p : BitVec 33) : Nat := sbKey (fld p.toNat 32 30) (fld p.toNat 29 16)

/-- The die of a physical address. -/
def puaDie (p : BitVec 33) : Nat := 16 * fld p.toNat 32 30 + fld p.toNat 3 0

/-- The stripe of a physical address. -/
def stripeOf (p : BitVec 33) : Nat := p.toNat / 16

/-- No physical address. -/
def puaNone : BitVec 33 := 0x1FFFFFFFF

/-- A page has become invalid through the journal record appended last: JSEQ_INVAL of its stripe block (R286). -/
def invalidate (s : State) (c : Ch) (p : BitVec 33) : State :=
  if p = puaNone then s else
  let j := nextJseq (s.marl c)
  modSb s c (puaSb p) (fun b => { b with inval := max b.inval j })

/-! ## The map -/

/-- A map entry. -/
def mapAt (s : State) (c : Ch) (lu : Nat) : MapEntry := smGet MapEntry.none (s.marl c).map lu

/-- Writes a map entry. -/
def setMap (s : State) (c : Ch) (lu : Nat) (e : MapEntry) : State :=
  modMarl s c (fun m => { m with map := smSet MapEntry.none m.map lu e })

/-- Slots of a unit that a frame of a class at LOC covers (R60, R69). -/
def slotMask (cls : Nat) (loc : BitVec 45) : Nat :=
  if 3 ≤ cls then 0xFF else ((2 ^ 2 ^ cls - 1) <<< fld loc.toNat 34 32) % 256

/-- Units that a frame of a class at LOC covers. -/
def unitsOf (cls : Nat) (loc : BitVec 45) : List Nat :=
  (List.range (if 3 ≤ cls then 2 ^ (cls - 3) else 1)).map (fun i => fld loc.toNat 31 0 + i)

/-- Leaves read-only when POOL_SB has reached SPARE_RES + 16; journals and raises what changes (R297). -/
def mediaCheck (s : State) (c : Ch) : State :=
  let m := s.marl c
  if !m.flash.formatted then s
  else if m.readonly then
    let n := mappedUnits m
    let s1 := if n < m.capCeil then
        let s := modMarl s c (fun m => { m with capCeil := n })
        jAppend s c (.media true m.flash.opFmt n n)
      else s
    let m1 := s1.marl c
    if poolSb m1 ≥ (m1.flash.spareRes : Int) + 16 then
      let s2 := modMarl s1 c (fun m => { m with readonly := false })
      let m2 := s2.marl c
      let s3 := jAppend s2 c (.media false m2.flash.opFmt (capNow m2) m2.capCeil)
      raiseC s3 c 0x0501 sevInfo (natLe (capNow m2) 4 ++ natLe (poolSb m2).toNat 3)
    else s1
  else if poolSb m < (m.flash.spareRes : Int) then
    let n := mappedUnits m
    let ceil := min n m.capCeil
    let s1 := modMarl s c (fun m => { m with readonly := true, capCeil := ceil })
    let m1 := s1.marl c
    let s2 := jAppend s1 c (.media true m1.flash.opFmt (capNow m1) m1.capCeil)
    let s3 := raiseC s2 c 0x0500 sevErr (natLe (capNow m1) 4 ++ natLe (poolSb m1).toNat 3)
    if poolSb m1 ≥ (m1.flash.spareRes : Int) + 16 then
      let s4 := modMarl s3 c (fun m => { m with readonly := false })
      let m4 := s4.marl c
      let s5 := jAppend s4 c (.media false m4.flash.opFmt (capNow m4) m4.capCeil)
      raiseC s5 c 0x0501 sevInfo (natLe (capNow m4) 4 ++ natLe (poolSb m4).toNat 3)
    else s3
  else s

/-- Unmaps a unit whose last slot goes (R272): MAPPED is cleared, an UNMAP record appended, and an accepted program of the unit becomes a no-op
(R280). -/
def unmapUnit (s : State) (c : Ch) (lu : Nat) (secure : Bool) : State :=
  let e := mapAt s c lu
  let s := modMarl s c (fun m => { m with buffer := m.buffer.map (fun u => if u.page.lu = lu ∧ !u.page.gc then { u with stale := true } else u) })
  let s := setMap s c lu { e with mapped := false, slots := 0, pua := puaNone }
  jAppend (invalidate s c e.pua) c (.unmap secure 0 lu)

/-- Clears slots of one unit (R272), and the media's capacity follows MAPPED while it is read-only (R297). -/
def clearSlots (s : State) (c : Ch) (lu mask : Nat) (secure : Bool) : State :=
  let e := mapAt s c lu
  let left := e.slots.toNat &&& (0xFF - mask % 256)
  if left ≠ 0 then setMap s c lu { e with slots := BitVec.ofNat 8 left }
  else if e.slots = 0 ∧ !e.mapped then s
  else mediaCheck (unmapUnit s c lu secure) c

/-- Releases a T2 location's slots; a sealed unit holds the release back (R272). Gives whether any unit held it. -/
def releaseT2 (s : State) (c : Ch) (cls : Nat) (loc : BitVec 45) : State × Bool :=
  let us := unitsOf cls loc
  if us.any (fun u => (mapAt s c u).sealed) then (s, true)
  else (us.foldl (fun t u => clearSlots t c u (slotMask cls loc) false) s, false)

/-- Releases a page's location (R237): T2 slots through Marl, and a record for the log. -/
def releaseLoc (s : State) (c : Ch) (tier : BitVec 2) (cls : BitVec 3) (loc : BitVec 45) : State :=
  if tier = 0 then s
  else if tier = 2 then
    let r := releaseT2 s c cls.toNat loc
    if r.2 then r.1 else release r.1 c tier cls loc
  else release s c tier cls loc

/-! ## Out-of-band records and parity (R266, R275) -/

/-- An out-of-band record without CHECK, in bits [255:32]. -/
def oobFields (p : FlashPage) : Nat :=
  at_ 252 4 p.kind + at_ 250 2 p.stream.toNat + at_ 249 1 (b2n p.gc) + at_ 236 12 p.owner.toNat + at_ 228 8 p.slots.toNat + at_ 192 32 p.lu
    + at_ 144 48 p.wseq + at_ 111 33 p.prev.toNat + at_ 103 8 p.lost.toNat

/-- The out-of-band record of a page (R275): CHECK is the CRC-32C over the stored bytes and bits 255:32. -/
def oobBits (p : FlashPage) : BitVec 256 :=
  BitVec.ofNat 256 (oobFields p + (crc32c (smRead p.data 0 16384 ++ natLe (oobFields p / 2 ^ 32) 28)).toNat)

/-- A map entry (R270). -/
def mapBits (e : MapEntry) : Nat :=
  at_ 63 1 (b2n e.mapped) + at_ 62 1 (b2n e.sealed) + at_ 60 2 e.stream.toNat + at_ 52 8 e.slots.toNat + at_ 51 1 (b2n e.region)
    + at_ 36 12 e.owner.toNat + e.pua.toNat

/-- The out-of-band record of a page that is no data unit (R275): its KIND, a number of its own in LU, and CHECK; the other fields are 0 (log 147). -/
def oobOf (kind lu : Nat) (bytes : List Byte) : BitVec 256 :=
  let f := at_ 252 4 kind + at_ 192 32 lu
  BitVec.ofNat 256 (f + (crc32c (bytes ++ natLe (f / 2 ^ 32) 28)).toNat)

/-- The out-of-band record of both copies of a journal page: KIND 3. -/
def journalOob (m : Marl) (p : JPage) : BitVec 256 := oobOf 3 0 (jPageBytes m p)

/-- Entries of a map segment (R291). -/
def segEntries : Nat := 2048

/-- Segments of a channel's map. -/
def segCount (m : Marl) : Nat := ceilDiv m.flash.capFmt segEntries

/-- A page of a checkpoint, as flash holds it: KIND 4, its number in LU (log 147). -/
def segPage (lu : Nat) (bytes : List Byte) : FlashPage :=
  { kind := 4, stream := 0, gc := false, owner := 0, slots := 0, lu, wseq := 0, prev := 0, lost := 0, xor := 0, data := smBytes [] 0 bytes }

/-- The bytes of map segment `k`: its 2,048 entries of 8 bytes. -/
def segBytes (map : SMap MapEntry) (k : Nat) : List Byte :=
  (List.range segEntries).flatMap (fun i => natLe (mapBits (smGet MapEntry.none map (segEntries * k + i))) 8)

/-- The bytes of page `i` of a segment directory: 2,048 addresses of 8 bytes, all ones for a segment that has never been written. -/
def dirBytes (dir : SMap (BitVec 33)) (n i : Nat) : List Byte :=
  ((List.range segEntries).filter (fun j => decide (segEntries * i + j < n))).flatMap (fun j => natLe (smGet 0x1FFFFFFFF dir (segEntries * i + j)).toNat 8)

/-- The bytes of the anchor page in force (R291): the anchor sequence, the directory's address, REPLAY_JSEQ, the address of the journal page that holds it,
the format parameters, and their CRC-32C. The rule gives the fields and no layout (DESIGN CHOICE, log 173). -/
def anchorBytes (m : Marl) : List Byte :=
  let a := m.flash.anchor
  let body := natLe a.seq 8 ++ natLe a.dirPua.toNat 8 ++ natLe a.replay 8 ++ natLe ((jPuas m a.jpage).headD 0) 8 ++ natLe m.flash.opFmt.toNat 1
    ++ natLe m.flash.spareRes 2 ++ natLe m.flash.capFmt 8
  body ++ natLe (crc32c body).toNat 4

/-- The out-of-band record of an anchor page: KIND 6. -/
def anchorOob (m : Marl) : BitVec 256 := oobOf 6 0 (anchorBytes m)

/-- XOR of stored bytes. -/
def xorBytes (a b : SMap Byte) : SMap Byte := b.foldl (fun x e => smSet 0 x e.1 (smGet 0 x e.1 ^^^ e.2)) a

/-- A pad unit of a stream (R279); its fields but KIND and STREAM are 0 (log 147). -/
def padPage (stream : BitVec 2) : FlashPage :=
  { kind := 2, stream, gc := false, owner := 0, slots := 0, lu := 0, wseq := 0, prev := 0, lost := 0, xor := 0, data := [] }

/-- The parity page of a stripe: the XOR of its fifteen data pages and of their out-of-band records (R266). -/
def parityPage (stream : BitVec 2) (ps : List FlashPage) : FlashPage :=
  { padPage stream with
    kind := 1, xor := ps.foldl (fun x p => x ^^^ oobBits p) 0, data := ps.foldl (fun x p => xorBytes x p.data) [] }

/-- The sixteen pages of stripe `k` (a physical address over 16) that holds the given units: data or pads, and the parity page. -/
def stripePages (stream : BitVec 2) (k : Nat) (us : List BufUnit) : List (Nat × FlashPage) :=
  let par := k % 4096 % 16
  let ds := ((List.range 16).filter (fun m => m != par)).map (fun m =>
    (16 * k + m, ((us.find? (fun u => u.pua.toNat == 16 * k + m)).map (fun u => u.page)).getD (padPage stream)))
  ds ++ [(16 * k + par, parityPage stream (ds.map (fun d => d.2)))]

/-- Puts the pages of a stripe on flash. In a group with two failed dies or more, what goes to a failed one is lost (R284). -/
def landStripe (m : Marl) (stream : BitVec 2) (k : Nat) (us : List BufUnit) : Marl :=
  let ps := stripePages stream k us
  let bad := m.table.failed.filter (fun d => d / 16 == fld (16 * k) 32 30)
  let gone := if bad.length < 2 then [] else (ps.map (fun p => p.1)).filter (fun a => bad.contains (puaDie (BitVec.ofNat 33 a)))
  { m with
    buffer := m.buffer.filter (fun v => stripeOf v.pua != k), work := m.work + 16
    flash := { m.flash with pages := ps.foldl (fun x p => smPut x p.1 p.2) m.flash.pages, lostPuas := m.flash.lostPuas ++ gone } }

/-- The journal pages of up to `n` records become part of flash (R289): none while the buffers are empty. -/
def landJournal (m : Marl) (n : Nat) : Marl :=
  let rs := m.jbuf.take n
  if rs.isEmpty then m
  else { m with
    jbuf := m.jbuf.drop n, work := m.work + 2
    flash := { m.flash with journal := m.flash.journal ++ [{ seq := m.flash.jcount, first := m.flash.jnext, recs := rs }],
                            jnext := m.flash.jnext + rs.length, jcount := m.flash.jcount + 1 } }

/-- The mailboxes. -/
def allMbs : List Mbox := (List.range 33).filterMap (fun n => if h : n < 33 then some ⟨n, h⟩ else none)

/-- Whether a background command waits for the journal of a channel: a flush in its second phase. -/
def taskWaits (s : State) (c : Ch) : Bool :=
  allMbs.any (fun mb => match (s.mb mb).bg with
    | some (.mediaFlush d _ p _ _) => d == c.val && p == 1
    | some (.shutdown _ fl) => fl.any (fun x => x.1 == c.val && x.2.1 == 1)
    | _ => false)

/-- Whether a waiter of Marl needs a record durable (R289): an image, a checkpoint's CKPT, or a collected stripe block before its erase. -/
def jWaits (m : Marl) : Bool :=
  m.pendImgs.any (fun p => p.jseq.isSome) || (m.ckptStep != 0 && decide (durableJseq m ≤ m.ckptStep))
    || m.due.any (fun k => decide (durableJseq m ≤ (sbAt m k).inval))

/-- Whether a waiter needs a record durable (R289): one of Marl's, or a flush. -/
def jWaiter (s : State) (c : Ch) : Bool := jWaits (s.marl c) || taskWaits s c

/-- Requests launched on the NAND buses complete there and their results are discarded when the channel is isolated (R22): issued stripes are on
flash, and so are the journal pages under program: full ones, and one that is not full where a waiter needs it (R289) or the power-fail flush runs
(R292); blocks under erase are erased. -/
def nandFinish (s : State) (c : Ch) : State :=
  modMarl s c (fun m =>
    let ks := dedup ((m.buffer.filter (fun u => u.issued && u.pua != puaNone)).map (fun u => stripeOf u.pua))
    let m := ks.foldl (fun m k =>
      let us := m.buffer.filter (fun u => stripeOf u.pua == k)
      landStripe m ((us.map (fun u => u.page.stream)).headD 0) k us) m
    let m := if jPageRecords ≤ m.jbuf.length then landJournal m jPageRecords else m
    let m := if jPageRecords ≤ m.jbuf.length then landJournal m jPageRecords else m
    let m := if m.flushing ∨ (!m.hold ∧ (jWaits m || taskWaits s c)) then landJournal m jPageRecords else m
    let gone := (m.table.sbs.filter (fun e => e.2.erasing)).map (fun e => e.1)
    { m with flash := { m.flash with pages := m.flash.pages.filter (fun p => !gone.contains (puaSb (BitVec.ofNat 33 p.1))) } })

/-! ## Reads (R270, R274, R281) -/

/-- The page that holds a unit: the latest accepted program, else the mapped page; none when it is unmapped or lost. -/
def unitPage (m : Marl) (lu : Nat) : Option FlashPage :=
  match (m.buffer.reverse.find? (fun u => u.page.lu == lu && !u.page.gc && !u.stale)) with
  | some u => some u.page
  | none =>
    let e := smGet MapEntry.none m.map lu
    if !e.mapped || m.flash.lostPuas.contains e.pua.toNat then none
    else
      match smGet? m.flash.pages e.pua.toNat with
      | some p => some p
      | none => (m.buffer.find? (fun u => u.pua == e.pua)).map (fun u => u.page)

/-- Stored bytes of 2 KiB slots of a unit: none when a slot is not set, is lost, or the unit cannot be read (R271, R274). -/
def slotBytes (m : Marl) (lu lo n : Nat) : Option (List Byte) :=
  match unitPage m lu with
  | none => none
  | some p =>
    let mask := (2 ^ n - 1) <<< lo
    if (smGet MapEntry.none m.map lu).slots.toNat &&& mask ≠ mask ∨ p.lost.toNat &&& mask ≠ 0 then none
    else some (smRead p.data (2048 * lo) (2048 * n))

/-- Decrypts stored bytes of a unit from a line on (R453). -/
def t2Decrypt (s : State) (c : Ch) (owner lu : Nat) : Nat → List (List Byte) → List Byte
  | _, [] => []
  | line, x :: xs =>
    let k := keySlot s owner
    xtsDec k.key1 k.key2 (tweakT2 c lu line) x ++ t2Decrypt s c owner lu (line + 1) xs

/-- Encrypts plaintext of a unit from a line on. -/
def t2Encrypt (s : State) (c : Ch) (owner lu : Nat) : Nat → List (List Byte) → List Byte
  | _, [] => []
  | line, x :: xs =>
    let k := keySlot s owner
    xtsEnc k.key1 k.key2 (tweakT2 c lu line) x ++ t2Encrypt s c owner lu (line + 1) xs

/-- Plaintext of a frame in T2: every unit it covers; none when any of it is uncorrectable. -/
def t2Plain (s : State) (c : Ch) (owner cls : Nat) (loc : BitVec 45) : Option (List Byte) :=
  let lo := if 3 ≤ cls then 0 else fld loc.toNat 34 32
  let n := if 3 ≤ cls then 8 else 2 ^ cls
  (unitsOf cls loc).foldl (fun a u =>
    match a, slotBytes (s.marl c) u lo n with
    | some x, some y => some (x ++ t2Decrypt s c owner u (32 * lo) (chunks 64 y))
    | _, _ => none) (some [])

/-- Plaintext of `n` bytes from byte `o` (a multiple of 2 KiB) of a frame in T2, within one of its units; none when that part is uncorrectable. -/
def t2Part (s : State) (c : Ch) (owner cls : Nat) (loc : BitVec 45) (o n : Nat) : Option (List Byte) :=
  let u := fld loc.toNat 31 0 + o / 16384
  let lo := (if 3 ≤ cls then 0 else fld loc.toNat 34 32) + o % 16384 / 2048
  (slotBytes (s.marl c) u lo (ceilDiv n 2048)).map (fun y => bsub (t2Decrypt s c owner u (32 * lo) (chunks 64 y)) 0 n)

/-! ## Acceptance (R277 to R280) -/

/-- The data member that takes the `i`-th data unit of stripe `st`: the members but the parity member st mod 16 (R266). -/
def dataMember (st i : Nat) : Nat := if i < st % 16 then i else i + 1

/-- Whether a group may take a new open stripe block: no failed die in it (R284). -/
def groupOk (m : Marl) (g : Nat) : Bool := !m.table.failed.any (fun d => d / 16 == g)

/-- The free stripe block of a group with the lowest erase count, then the lowest index (R277). -/
def bestFree (m : Marl) (g : Nat) : Option Nat :=
  (sbsOf m g).foldl (fun best k =>
    let b := sbAt m k
    if b.state != .free then best
    else match best with
      | none => some k
      | some j => if b.erases < (sbAt m j).erases then some k else best) none

/-- The open stripe block of a stream in a group. -/
def openOf (m : Marl) (stream g : Nat) : Option OpenSb := m.opens.find? (fun o => o.stream == stream && o.group == g)

/-- Groups from a starting one, in ascending turn. -/
def groupTurn (m : Marl) (from_ : Nat) : List Nat := (List.range (groups m)).map (fun i => (from_ + i) % groups m)

/-- The group that takes the stream's next unit. -/
def pickGroup (m : Marl) (stream : Nat) (from_ : Nat) : Option Nat :=
  (groupTurn m from_).find? (fun g => (openOf m stream g).isSome || (groupOk m g && (bestFree m g).isSome))

/-- Opens a stripe block for a stream in a group, with its SB_OPEN record. -/
def openSb (s : State) (c : Ch) (stream g k : Nat) : State :=
  let s := jAppend s c (.sbOpen g (k % 16384) stream (s.marl c).flash.wseq)
  let s := modSb s c k (fun b => { b with state := .opened })
  modMarl s c (fun m => { m with opens := m.opens ++ [{ stream, group := g, sb := k % 16384, stripe := 0, filled := 0 }] })

/-- Closes the open stripe block of a stream in a group, with its SB_CLOSE record. -/
def closeSb (s : State) (c : Ch) (o : OpenSb) : State :=
  let s := jAppend s c (.sbClose o.group o.sb (s.marl c).flash.wseq)
  let s := modSb s c (sbKey o.group o.sb) (fun b => { b with state := .closed })
  modMarl s c (fun m => { m with opens := m.opens.filter (fun x => !(sbKey x.group x.sb == sbKey o.group o.sb)) })

/-- Closes a stripe block that takes no more units, once none of its units is in the buffer: SB_CLOSE follows the MAP records of its last stripe, so that a
recovery finds every program of a stripe block that is not closed (R293, R294). -/
def closeIfDone (s : State) (c : Ch) (key : Nat) : State :=
  let m := s.marl c
  if (sbAt m key).state = .opened ∧ !m.opens.any (fun o => sbKey o.group o.sb == key) ∧ !m.buffer.any (fun u => puaSb u.pua == key) then
    closeSb s c { stream := 0, group := key / 16384, sb := key % 16384, stripe := 0, filled := 0 }
  else s

/-- An open stripe block takes no more units; it closes when its programs are done. -/
def shutSb (s : State) (c : Ch) (o : OpenSb) : State :=
  closeIfDone (modMarl s c (fun m => { m with opens := m.opens.filter (fun x => !(x.stream == o.stream && x.group == o.group)) })) c (sbKey o.group o.sb)

/-- Moves an open stripe block past the stripe that has been filled (or padded): its programs are issued unless a supply warning holds them (R292), the stream
goes to the next group, and after its last stripe the stripe block takes no more. -/
def endStripe (s : State) (c : Ch) (o : OpenSb) : State :=
  let o' := { o with stripe := o.stripe + 1, filled := 0 }
  let k := stripeOf (puaOf o.group o.sb o.stripe 0)
  let s := modMarl s c (fun m => { m with
    buffer := m.buffer.map (fun u => if stripeOf u.pua = k then { u with issued := !m.hold } else u)
    opens := m.opens.map (fun x => if x.stream = o.stream ∧ x.group = o.group then o' else x),
    nextGroup := if h : o.stream < 4 then m.nextGroup.set o.stream ((o.group + 1) % max 1 (groups m)) else m.nextGroup })
  if o'.stripe ≥ (s.marl c).pagesPerBlock then shutSb s c o' else s

/-- The start group of a stream's turn. -/
def turnOf (m : Marl) (stream : Nat) : Nat := if h : stream < 4 then m.nextGroup[stream] else 0

/-- Gives the next physical page of a stream; none when no stripe block can be had. -/
def takePage (s : State) (c : Ch) (stream : Nat) : Option (BitVec 33 × State) :=
  match pickGroup (s.marl c) stream (turnOf (s.marl c) stream) with
  | none => none
  | some g =>
    let s := match openOf (s.marl c) stream g, bestFree (s.marl c) g with
      | none, some k => openSb s c stream g k
      | _, _ => s
    match openOf (s.marl c) stream g with
    | none => none
    | some o =>
      let p := puaOf g o.sb o.stripe (dataMember o.stripe o.filled)
      some (p, modMarl s c (fun m => { m with opens := m.opens.map (fun x => if x.stream = stream ∧ x.group = g then { x with filled := x.filled + 1 } else x) }))

/-- A stream's stripe is done once its fifteen data units are accepted. -/
def stripeFull (s : State) (c : Ch) (stream : Nat) : State :=
  match (s.marl c).opens.find? (fun o => o.stream == stream && o.filled == 15) with
  | some o => endStripe s c o
  | none => s

/-- Puts a page into the program buffer for the physical page `p` of its stream. -/
def bufPush (s : State) (c : Ch) (p : BitVec 33) (pg : FlashPage) : State :=
  stripeFull (modMarl s c (fun m => { m with
    buffer := m.buffer ++ [{ pua := p, issued := false, page := pg, stale := false }]
    flash := { m.flash with wseq := m.flash.wseq + 1 } })) c pg.stream.toNat

/-- Units that the program buffer holds (128 MiB, R278). -/
def bufferUnits : Nat := 8192

/-- Whether acceptance waits: the buffer is full, the free stripe blocks number no more than the groups (R285) for a program that is no collection copy,
or both journal page buffers are full (R289). -/
def acceptWaits (m : Marl) (gc : Bool) : Bool :=
  decide (bufferUnits ≤ m.buffer.length) || jFull m || (!gc && decide (sbFree m ≤ groups m))

/-- Accepts one unit into the program buffer (R278): live slots of the unit are merged in, an unreadable live slot as zeros with its LOST
bit (R271); SLOTS, OWNER and REGION of the entry change at acceptance (log 24). None when acceptance waits. -/
def acceptUnit (s : State) (c : Ch) (stream owner lu mask : Nat) (region : Bool) (off : Nat) (bytes : List Byte) : Option State :=
  let m := s.marl c
  if acceptWaits m false then none
  else
    let e := smGet MapEntry.none m.map lu
    let keep := e.slots.toNat &&& (0xFF - mask % 256)
    let old := unitPage m lu
    let lost := match old with
      | some p => p.lost.toNat &&& keep
      | none => keep
    match takePage s c stream with
    | none => none
    | some (p, s) =>
      let base := match old with | some x => x.data | none => []
      let base := smFilter (fun a => decide (keep.testBit (a / 2048)) && !decide (lost.testBit (a / 2048))) base
      let slots := BitVec.ofNat 8 (keep ||| mask)
      let pg : FlashPage := { kind := 0, stream := BitVec.ofNat 2 stream, gc := false, owner := BitVec.ofNat 12 owner, slots, lu,
                              wseq := m.flash.wseq, prev := e.pua, lost := BitVec.ofNat 8 lost, xor := 0, data := smBytes base off bytes }
      let s := modMarl s c (fun m => { m with health := { m.health with unitsHost := m.health.unitsHost + 1 } })
      some (setMap (bufPush s c p pg) c lu { e with slots, owner := BitVec.ofNat 12 owner, region := region || e.region })

/-- Accepts a frame of plaintext at a T2 location, encrypted under its owner. None when acceptance waits. -/
def acceptFrame (s : State) (c : Ch) (stream owner cls : Nat) (loc : BitVec 45) (region : Bool) (plain : List Byte) : Option State :=
  let lo := if 3 ≤ cls then 0 else fld loc.toNat 34 32
  let sz := if 3 ≤ cls then 16384 else classBytes cls
  ((unitsOf cls loc).zipIdx).foldl (fun a (u, i) =>
    match a with
    | none => none
    | some t => acceptUnit t c stream owner u (slotMask cls loc) region (2048 * lo)
        (t2Encrypt t c owner u (32 * lo) (chunks 64 (bsub plain (16384 * i) sz)))) (some s)

/-- Accepts `n` units of the metadata store, from unit `lu` on, into stream 2 (R276), as far as acceptance takes them (R278); gives the units left. Their
layout is not given, so they carry no bytes here (log 147). They are programs accepted from a descriptor (R301). -/
def acceptMeta (c : Ch) (owner : BitVec 12) : Nat → Nat → State → Nat × State
  | 0, _, s => (0, s)
  | n + 1, lu, s =>
    if acceptWaits (s.marl c) false then (n + 1, s)
    else match takePage s c 2 with
      | none => (n + 1, s)
      | some (p, t) =>
        let t := modMarl t c (fun m => { m with health := { m.health with unitsHost := m.health.unitsHost + 1 } })
        let e := mapAt s c lu
        let pg : FlashPage := { kind := 5, stream := 2, gc := false, owner, slots := 0xFF, lu, wseq := (s.marl c).flash.wseq, prev := e.pua, lost := 0,
                                xor := 0, data := [] }
        acceptMeta c owner n (lu + 1) (setMap (bufPush t c p pg) c lu { e with slots := 0xFF, owner })

/-- Frees the units of a run of the metadata store. -/
def freeMeta (s : State) (c : Ch) (r : Nat × Nat) : State :=
  (List.range r.2).foldl (fun t i => clearSlots t c (r.1 + i) 0xFF false) s

/-- Units of a frame that have no mapped or accepted copy yet: the room that a program needs (R296). -/
def newUnits (m : Marl) (cls : Nat) (loc : BitVec 45) : Nat :=
  ((unitsOf cls loc).filter (fun u => !(smGet MapEntry.none m.map u).mapped && (smGet MapEntry.none m.map u).slots == 0)).length

/-! ## Images and seals (R273) -/

/-- Unseals units and releases their slots (R273, R237); one release record for each unit. -/
def unsealRelease (s : State) (c : Ch) (us : List Nat) : State :=
  us.foldl (fun t u =>
    let e := mapAt t c u
    if e.sealed then
      let t := setMap t c u { e with sealed := false }
      let t := clearSlots t c u 0xFF false
      release t c 2 3 (BitVec.ofNat 45 u)
    else t) s

/-- The image of an object. -/
def imageOf (m : Marl) (kind : Nat) (obj : BitVec 48) : Option Image := m.images.find? (fun x => x.kind == kind && x.obj == obj)

/-- Unseals units (R273). -/
def unsealUnits (s : State) (c : Ch) (us : List Nat) : State :=
  us.foldl (fun t u => let e := mapAt t c u; if e.sealed then setMap t c u { e with sealed := false } else t) s

/-- The object is closed or freed: its image is freed, its units unsealed and released, with IMAGE_FREE (R273). A region's units (KIND 2) are those of its
runs, which its release releases once, in the step that follows (R353). -/
def freeImage (s : State) (c : Ch) (kind : Nat) (obj : BitVec 48) : State :=
  match imageOf (s.marl c) kind obj with
  | none => s
  | some x =>
    let s := modMarl s c (fun m => { m with images := m.images.filter (fun y => !(y.kind == kind && y.obj == obj)) })
    let s := jAppend s c (.imageFree kind obj x.first)
    let s := if kind = 2 then unsealUnits s c x.units else unsealRelease s c x.units
    mediaCheck (freeMeta s c (x.first, imageUnits x)) c

/-- Whether collection has reason to run (R285). -/
def gcRun (s : State) (c : Ch) : Bool :=
  let m := s.marl c
  hasT2 m && (decide (sbFree m < fld (s.ch c).cfg.marlCfg.toNat 19 12) || !m.marked.isEmpty)

/-- Whether collection runs beyond BG_SHARE (R285). -/
def gcUrgent (s : State) (c : Ch) : Bool :=
  hasT2 (s.marl c) && decide (sbFree (s.marl c) < fld (s.ch c).cfg.marlCfg.toNat 11 4)

/-- Valid units of a stripe block: mapped entries whose page lies in it. -/
def validUnits (m : Marl) (key : Nat) : List (Nat × MapEntry) := m.map.filter (fun e => e.2.mapped && puaSb e.2.pua == key)

/-- The owners of a stripe block (R286): those that have had a unit programmed into it since its last erase. -/
def sbOwners (m : Marl) (key : Nat) : List Nat :=
  dedup ((m.flash.pages.filter (fun p => puaSb (BitVec.ofNat 33 p.1) == key && (p.2.kind == 0 || p.2.kind == 5))).map (fun p => p.2.owner.toNat))

/-- Marks a stripe block for relocation (R282), once. -/
def markSb (s : State) (c : Ch) (key : Nat) : State :=
  modMarl s c (fun m => { m with marked := if m.marked.contains key then m.marked else m.marked ++ [key] })

/-- The stripe that an open stripe block is filling holds an accepted unit that satisfies a test. -/
def fillingHas (m : Marl) (o : OpenSb) (p : BufUnit → Bool) : Bool :=
  m.buffer.any (fun u => decide (u.pua.toNat / 16 = (puaOf o.group o.sb o.stripe 0).toNat / 16) && p u)

/-- Pads the stripes being filled that hold a unit of a kind (R279). -/
def padOpens (s : State) (c : Ch) (p : BufUnit → Bool) : State :=
  (s.marl c).opens.foldl (fun t o => if 0 < o.filled ∧ fillingHas (t.marl c) o p then endStripe t c o else t) s

end Sys2Proof.Machine
end

