-- ==== Sys2Proof/Machine/ObjOps.lean ====
section
/-! DEFINITION. Operations of the object unit: the tilth score (R221, R222), the reference port (R205 to R209), the release of pages,
blocks and sequences (R52, R208), page maps (R67), page reads with recovery, and the response to a loss (R229 to R231). -/

namespace Sys2Proof.Machine
open Sys2Proof

/-! ## The tilth score -/

/-- T[j] = ⌊16 log2(1 + j/16)⌋ (R222). -/
def tilthT (j : Nat) : Nat := [0, 1, 2, 3, 5, 6, 7, 8, 9, 10, 11, 12, 12, 13, 14, 15].getD j 0

/-- L of an integer n ≥ 1 (R222). -/
def tilthLn (n : Nat) : Nat :=
  let e := Nat.log2 n
  let j := if 4 ≤ e then (n >>> (e - 4)) % 16 else (n <<< (4 - e)) % 16
  16 * e + tilthT j

/-- Lm of the MASS word: 0 when MASS is 0, negative, subnormal or NaN; an infinite MASS reads as a normal of its exponent field (log 31). -/
def tilthLm (mass : Word32) : Nat :=
  let w := mass.toNat
  let e := fld w 30 23
  let m := fld w 22 0
  if bit w 31 ∨ e = 0 ∨ (e = 255 ∧ m ≠ 0) then 0
  else
    let l : Int := 16 * ((e : Int) - 127) + tilthT (m >>> 19) + 512
    min 1023 l.toNat

/-- The class bits of a score (R221). -/
def protectClass (p : BitVec 2) : Nat :=
  match p.toNat with
  | 0 => 0
  | 2 => 1
  | 1 => 2
  | _ => 3

/-- The tilth score of a summary at an age, under TILTH_CFG (R221). -/
def tilthScore (cfg mass : Word32) (protect : BitVec 2) (age : Nat) : BitVec 16 :=
  let wm : Int := fld cfg.toNat 31 28
  let wa : Int := fld cfg.toNat 27 24
  let la : Int := min 1023 (tilthLn (age + 1))
  let v : Int := 8192 + wm * tilthLm mass - wa * la
  BitVec.ofNat 16 (protectClass protect * 16384 + (if v < 0 then 0 else min 16383 v.toNat))

/-- The current score of a summary (R223). -/
def currentScore (s : State) (c : Ch) (touch : BitVec 40) (m : Summ) : BitVec 16 :=
  tilthScore (s.ch c).cfg.tilthCfg m.mass m.protect (touch - m.touch).toNat

/-- A summary with its TILTH recomputed at age 0 (R223). -/
def rescore (s : State) (c : Ch) (m : Summ) : Summ := { m with tilth := tilthScore (s.ch c).cfg.tilthCfg m.mass m.protect 0 }

/-! ## Prefix-block indices (R73, R75) -/

/-- The fields of a prefix-block descriptor index. -/
structure PbIndex where
  home : Nat
  gen  : Nat
  slot : Nat
  deriving DecidableEq, Repr

/-- The fields of an index. -/
def pbIndexOf (v : Nat) : PbIndex := { home := fld v 39 36, gen := fld v 35 24, slot := fld v 23 0 }

/-- The bits of an index. -/
def pbIndexBits (home gen slot : Nat) : Nat := at_ 36 4 home + at_ 24 12 gen + at_ 0 24 slot

/-- No block. -/
def pbNone : BitVec 40 := 0xFFFFFFFFFF

/-- Whether an index names a USED slot of its generation in channel `c`. -/
def pbNames (s : State) (c : Ch) (v : Nat) : Bool :=
  let i := pbIndexOf v
  i.home == c.val && (pbAt s c i.slot).used && (pbAt s c i.slot).pbGen.toNat == i.gen

/-- Whether an index passes R75 in its home channel: USED, its generation, Live. -/
def pbLive (s : State) (v : Nat) : Bool :=
  match chOf (pbIndexOf v).home with
  | some c => pbNames s c v && (pbAt s c (pbIndexOf v).slot).state == .live
  | none => false

/-- The index of the block in a slot. -/
def pbIndexAt (s : State) (c : Ch) (slot : Nat) : Nat := pbIndexBits c.val (pbAt s c slot).pbGen.toNat slot

/-- Layers of a block. -/
def pbLayers (p : PbSlot) : Nat := p.layersM1.toNat + 1
/-- KV heads of a block. -/
def pbHeads (p : PbSlot) : Nat := p.headsM1.toNat + 1

/-- Layer-head pairs in layer-major order. -/
def pairsOf (layers heads : Nat) : List (Nat × Nat) :=
  (List.range layers).flatMap (fun l => (List.range heads).map (fun h => (l, h)))

/-- The record keys of a block. -/
def pbRecKeys (s : State) (c : Ch) (slot : Nat) : List Nat :=
  (pairsOf (pbLayers (pbAt s c slot)) (pbHeads (pbAt s c slot))).map (fun p => recKey slot p.1 p.2)

/-! ## The release of pages -/

/-- First byte in T1 of a LOC. -/
def frameAddr (loc : BitVec 45) : Nat := fld loc.toNat 25 0 * 2048

/-- A home table entry. -/
def homeAt (s : State) (c : Ch) (i : Nat) : HomeEntry := smGet HomeEntry.none (s.ch c).obj.homes i

/-- Writes a home table entry. -/
def setHome (s : State) (c : Ch) (i : Nat) (h : HomeEntry) : State :=
  modObj s c (fun o => { o with homes := smSet HomeEntry.none o.homes i h })

/-- The T2 location of a home as LOC bits. -/
def homeLoc (h : HomeEntry) : BitVec 45 := h.home.setWidth 45

/-- Releases a page's home and clears HOMED (R242). -/
def dropHome (s : State) (c : Ch) (i : Nat) : State :=
  let h := homeAt s c i
  if h.homed then setHome (releaseLoc s c 2 h.cls (homeLoc h)) c i HomeEntry.none else s

/-- Releases a page's location and any home. -/
def releasePage (s : State) (c : Ch) (e : Pte) : State :=
  let s := releaseLoc s c e.tier e.cls e.loc
  if isPooled s c then dropHome s c e.summIdx.toNat else s

/-! ## The reference port (R205 to R209) -/

/-- Whether a running sweep holds changes to a block (R228). -/
def portHolds (s : State) (c : Ch) (slot : Nat) : Bool :=
  match (s.ch c).obj.port.sweep with
  | some x => x.blocks.contains slot
  | none => false

/-- Whether changes that a sweep has held are still to be applied before a new one to a block of its scope (R228: arrival order); the ring whose change
is the oldest may make it. -/
def heldAhead (s : State) (c : Ch) (r : Option Ring) (slot : Nat) : Bool :=
  (s.ch c).obj.port.scope.contains slot &&
  match (s.ch c).obj.port.held with
  | [] => false
  | .ring q :: _ => r.map (fun x => x.val) != some q
  | _ => true

/-- Whether a change to a block must wait for a sweep or for changes that one has held (R228). -/
def changeWaits (s : State) (c : Ch) (r : Option Ring) (slot : Nat) : Bool := portHolds s c slot || heldAhead s c r slot

/-- A ring's change takes its place behind the sweep (R228). -/
def queueRing (s : State) (c : Ch) (r : Ring) : State :=
  modRefPort s c (fun p => { p with held := if p.held.contains (.ring r.val) then p.held else p.held ++ [.ring r.val] })

/-- A ring's change waits for the sweep (R228). -/
def holdRing (s : State) (c : Ch) (r : Ring) : State := setWait (queueRing s c r) c r .held

/-- The layer and head of a record key. -/
def recLH (key : Nat) : Nat × Nat := (key % 2 ^ 14 / 64, key % 64)

/-- The detail of an event about a record. -/
def recDetail (s : State) (c : Ch) (key : Nat) : List Byte :=
  natLe (pbIndexAt s c (key / 2 ^ 14)) 5 ++ natLe (recLH key).1 1 ++ natLe (recLH key).2 1

/-- Raises a record's REFCNT by one; 65,535 sticks, with an event the first time (R207). -/
def incRec (s : State) (c : Ch) (key : Nat) : State :=
  let e := recAt s c key
  if e.refcnt = 0xFFFF then s
  else
    let s := setRec s c key { e with refcnt := e.refcnt + 1 }
    if e.refcnt = 0xFFFE then raiseC s c 0x0303 sevWarn (recDetail s c key) else s

/-- Lowers a record's REFCNT by one; a stuck one stays, and 0 stays with an event (R207). -/
def decRec (s : State) (c : Ch) (key : Nat) : State :=
  let e := recAt s c key
  if e.refcnt = 0xFFFF then s
  else if e.refcnt = 0 then raiseC s c 0x0304 sevErr (recDetail s c key)
  else setRec s c key { e with refcnt := e.refcnt - 1 }

/-- The home channel asks every present channel's Sieve to remove the rows that name a block (R193, R229). -/
def askRemoval (s : State) (c : Ch) (idx : BitVec 40) : State :=
  forCh s (presentChs s) (fun t x => modRefPort t x (fun p => { p with removals := p.removals ++ [(c.val, idx)] }))

/-- Frees a block: frames, units, summaries, nodes and slot, with PB_GEN advanced (R208, R76), and its image (R273): one change, for which the log must
have room when it begins (DESIGN CHOICE, log 170). -/
def freeBlock (s : State) (c : Ch) (slot : Nat) : State :=
  let p := pbAt s c slot
  let idx := pbIndexAt s c slot
  let s := (pbRecKeys s c slot).foldl (fun t k =>
    let e := recAt t c k
    setRec (freeSumm (releasePage t c e) c e.summIdx.toNat) c k Pte.empty) s
  let s := freeNodes s c (fun n => match n with | .pb x _ => x == slot | _ => false)
  let s := setPb s c slot { PbSlot.free with pbGen := p.pbGen + 1 }
  let s := modRefPort s c (fun p => { p with scope := p.scope.filter (fun x => x != slot) })
  askRemoval (freeImage s c 1 (BitVec.ofNat 48 idx)) c (BitVec.ofNat 40 idx)

/-- Frees a Live or Poisoned block whose records all stand at 0 (R208). -/
def freeIfUnheld (s : State) (c : Ch) (slot : Nat) : State :=
  let p := pbAt s c slot
  if (p.state = .live ∨ p.state = .poisoned) ∧ (pbRecKeys s c slot).all (fun k => (recAt s c k).refcnt == 0) then freeBlock s c slot else s

/-- A block-wide increment. -/
def incBlock (s : State) (c : Ch) (slot : Nat) : State := (pbRecKeys s c slot).foldl (fun t k => incRec t c k) s

/-- A block-wide decrement, and the free that it may bring. -/
def decBlock (s : State) (c : Ch) (slot : Nat) : State :=
  freeIfUnheld ((pbRecKeys s c slot).foldl (fun t k => decRec t c k) s) c slot

/-- A change of several records of one block: each loses one (R52, R206). -/
def decRecs (s : State) (c : Ch) (slot : Nat) (ks : List Nat) : State :=
  freeIfUnheld (ks.foldl (fun t k => decRec t c k) s) c slot

/-! ## Page maps (R67) -/

/-- A directory entry. -/
def dirAt (s : State) (c : Ch) (slot layer head : Nat) : DirEntry :=
  smGet { present := false, depth := 0, rootNode := 0 } (s.ch c).obj.dirs (lhKey slot layer head)

/-- The DEPTH that a page-map entry index needs. -/
def depthFor (e : Nat) : Nat := if e < 256 then 0 else if e < 262144 then 1 else 2

/-- The nodes that a page map of a DEPTH needs for an entry: the leaf, the mid nodes above it. Mid node 1,000 is the root of a map of
DEPTH 2. -/
def mapNodes (slot layer head e depth : Nat) : List NodeKey :=
  [.leaf slot layer head (e / 256)] ++ (if 1 ≤ depth then [.mid slot layer head (if depth = 1 then 0 else e / 262144)] else []) ++
  (if 2 ≤ depth then [.mid slot layer head 1000] else [])

/-- The root node of a page map of a DEPTH. -/
def rootKey (slot layer head depth : Nat) : NodeKey :=
  if depth = 0 then .leaf slot layer head 0 else if depth = 1 then .mid slot layer head 0 else .mid slot layer head 1000

/-- Creates or deepens the page map of a layer and head so that it reaches an entry, an old root staying below the new one; none when nodes run
out (R67, R80). -/
def growMap (s : State) (c : Ch) (slot layer head e : Nat) : Option State :=
  let d := dirAt s c slot layer head
  let depth := if d.present then max d.depth.toNat (depthFor e) else depthFor e
  let old := if d.present ∧ d.depth.toNat < 2 ∧ depth = 2 then [NodeKey.mid slot layer head 0] else []
  match allocNodes s c (mapNodes slot layer head e depth ++ old) with
  | none => none
  | some s1 =>
    if d.present ∧ d.depth.toNat = depth then some s1
    else
      let e : DirEntry := { present := true, depth := BitVec.ofNat 2 depth, rootNode := BitVec.ofNat 24 (nodeOf s1 c (rootKey slot layer head depth)) }
      some (modObj s1 c (fun o => { o with dirs := smPut o.dirs (lhKey slot layer head) e }))

/-- Grows several page maps; none when nodes run out. -/
def growMaps (s : State) (c : Ch) (slot : Nat) (ps : List (Nat × Nat × Nat)) : Option State :=
  ps.foldl (fun a p => match a with | none => none | some t => growMap t c slot p.1 p.2.1 p.2.2) (some s)

/-- The walk (R67): an entry beyond the reach of its map's DEPTH reads Empty. -/
def walkPte (s : State) (c : Ch) (slot layer head e : Nat) : Pte :=
  let d := dirAt s c slot layer head
  if !d.present ∨ (d.depth = 0 ∧ 256 ≤ e) ∨ (d.depth = 1 ∧ 262144 ≤ e) then Pte.empty else pteAt s c (pteKey slot layer head e)

/-! ## Dirty pieces and the write-back queue (R243 to R246) -/

/-- Entries that the write-back queue holds at most (R241). -/
def wbCap (s : State) (c : Ch) : Nat := 2 ^ (16 + fld (s.ch c).cfg.tierCfg.toNat 23 20)

/-- Appends an entry to the write-back queue, with its stamp; the backlog event when it first passes seven eighths (R246). -/
def wbPush (s : State) (c : Ch) (region : Bool) (piece ref : Nat) : State :=
  let e : WbEntry := { region, piece := BitVec.ofNat 4 piece, ref, stamp := (s.ch c).obj.touch.setWidth 32 }
  let s := modObj s c (fun o => { o with wbq := o.wbq ++ [e] })
  let n := (s.ch c).obj.wbq.length
  if !(s.ch c).obj.backlog ∧ wbCap s c * 7 < n * 8 then
    raiseC (modObj s c (fun o => { o with backlog := true })) c 0x0204 sevWarn (natLe n 4)
  else s

/-- Pieces of a frame that a write of `n` bytes at byte `o` of the frame falls in. -/
def piecesHit (o n : Nat) : List Nat := if n = 0 then [] else (List.range ((o + n - 1) / 4096 + 1 - o / 4096)).map (fun i => o / 4096 + i)

/-- The dirty bits of pieces. -/
def dirtyMask (ps : List Nat) : BitVec 16 := BitVec.ofNat 16 ((dedup ps).map (fun i => 2 ^ i)).sum

/-- Sets DIRTY bits of a page in T1 in pooled mode; a bit of a homed page that goes from 0 to 1 queues an entry (R243). -/
def markDirty (s : State) (c : Ch) (isPb : Bool) (key : Nat) (ps : List Nat) : State :=
  if !isPooled s c then s
  else
    let e := pageAt s c isPb key
    let s1 := setPage s c isPb key { e with dirty := e.dirty ||| dirtyMask ps }
    if (homeAt s c e.summIdx.toNat).homed then
      (ps.filter (fun i => !e.dirty.getLsbD i)).foldl (fun t i => wbPush t c false i e.summIdx.toNat) s1
    else s1

/-- Whether the queue has no room for `n` entries: a write that would queue one waits (R246). -/
def wbNoRoom (s : State) (c : Ch) (n : Nat) : Bool := decide (wbCap s c < (s.ch c).obj.wbq.length + n)

/-! ## Reading a page -/

/-- A page as a reader resolves it: the entry that holds it, whether that is a block's record, its key, and the block's index. -/
structure PageRef where
  isPb  : Bool
  key   : Nat
  pte   : Pte
  owner : Nat
  kFmt  : Nat
  vFmt  : Nat
  pbIdx : BitVec 40
  deriving DecidableEq, Repr

/-- Resolves a page-table entry of a sequence: a Shared entry leads to the record of its block (R69); none when that block's index
fails R75's slot test. -/
def resolvePage (s : State) (c : Ch) (e : SeqEntry) (layer head key : Nat) (p : Pte) : Option PageRef :=
  match p.kind with
  | .shared =>
    let v := fld p.loc.toNat 39 0
    if pbNames s c v then
      let slot := (pbIndexOf v).slot
      let b := pbAt s c slot
      let k := recKey slot layer head
      some { isPb := true, key := k, pte := recAt s c k, owner := b.owner.toNat, kFmt := b.kFmt.toNat, vFmt := b.vFmt.toNat, pbIdx := BitVec.ofNat 40 v }
    else none
  | _ => some { isPb := false, key, pte := p, owner := e.owner.toNat, kFmt := e.kFmt.toNat, vFmt := e.vFmt.toNat, pbIdx := pbNone }

/-- 4 KiB pieces of a page of `size` bytes. -/
def piecesOf (size : Nat) : List Nat := List.range (ceilDiv size 4096)

/-- Whether piece `i` of a page in T1 counts as dirty for R229 step 2: its bit, or a write-back of its unit in flight (R245). -/
def pieceDirty (s : State) (c : Ch) (p : PageRef) (i : Nat) : Bool :=
  p.pte.dirty.getLsbD i ||
  (match (s.ch c).obj.wbRun with
    | some x => !x.region && x.ref == p.pte.summIdx.toNat && x.unit == i / 4
    | none => false)

/-- Bytes of piece `i` of a page. -/
def pieceLen (size i : Nat) : Nat := min 4096 (size - 4096 * i)

/-- Whether a range holds a line that is lost: one to which R229 applies. An orphaned line is none (R334). -/
def rangeLost (s : State) (c : Ch) (a n : Nat) : Bool :=
  (linesOf a n).any (fun l => (s.ch c).t1Lost.contains l && !(s.ch c).t1Orphan.contains l)

/-- Whether a range holds an orphaned line, which every device-side reader takes as uncorrectable (R334). -/
def rangeOrphan (s : State) (c : Ch) (a n : Nat) : Bool := (linesOf a n).any ((s.ch c).t1Orphan.contains ·)

/-- Pieces of a list that T1 has lost. -/
def lostPieces (s : State) (c : Ch) (p : PageRef) (size : Nat) (ps : List Nat) : List Nat :=
  ps.filter (fun i => decide (4096 * i < size) && rangeLost s c (frameAddr p.pte.loc + 4096 * i) (pieceLen size i))

/-- Whether pieces of a page in T1 hold an orphaned line. -/
def orphanPieces (s : State) (c : Ch) (p : PageRef) (size : Nat) (ps : List Nat) : Bool :=
  ps.any (fun i => decide (4096 * i < size) && rangeOrphan s c (frameAddr p.pte.loc + 4096 * i) (pieceLen size i))

/-- Rewrites recovered plaintext into T1; an orphaned line keeps its data, for it is never read again from a home (R334). -/
def mendWrite (s : State) (c : Ch) (owner a : Nat) (bs : List Byte) : State :=
  (linesOf a bs.length).foldl (fun t l =>
    if (t.ch c).t1Orphan.contains l then t
    else
      let lo := max a (64 * l)
      t1Write t c owner lo (bsub bs (lo - a) (min (a + bs.length) (64 * l + 64) - lo))) s

/-- Recovers the lost pieces among those that a reader needs of a homed page in T1, each from its own home, when all of them are clean (R229 step
2, R247). -/
def recoverPieces (s : State) (c : Ch) (p : PageRef) (size : Nat) (ps : List Nat) : Option State :=
  let h := homeAt s c p.pte.summIdx.toNat
  match lostPieces s c p size ps with
  | [] => some s
  | bad =>
    if !isPooled s c || !h.homed || !keyHere s c p.owner || bad.any (pieceDirty s c p) then none
    else bad.foldl (fun a i => match a with
      | none => none
      | some t => (t2Part t c p.owner h.cls.toNat (homeLoc h) (4096 * i) (pieceLen size i)).map
          (fun bs => mendWrite t c p.owner (frameAddr p.pte.loc + 4096 * i) bs)) (some s)

/-- Reads a page's plaintext, with the key that the reader has taken: from T1 (recovering lost pieces where it can) or T2; none when its data is lost or a line
of it is orphaned. -/
def readPage (s : State) (c : Ch) (p : PageRef) (size : Nat) : Option (List Byte) × State :=
  if p.pte.tier = 1 then
    let a := frameAddr p.pte.loc
    match recoverPieces s c p size (piecesOf size) with
    | some t => if rangeOrphan t c a size then (none, t) else (some (t1Plain t c p.owner a size), t)
    | none => (none, s)
  else if p.pte.tier = 2 then ((t2Plain s c p.owner p.pte.cls.toNat p.pte.loc).map (fun bs => bsub bs 0 size), s)
  else (none, s)

/-! ## Losses (R229 to R231) -/

/-- The page number of an entry, from its summary's back-reference (R72). -/
def pageNumOf (s : State) (c : Ch) (p : Pte) (e : Nat) : Nat :=
  match smGet? (s.ch c).obj.summs p.summIdx.toNat with
  | some m => m.pn.toNat
  | none => e

/-- POISON on a Private page, with its event (R231). -/
def poisonPrivate (s : State) (c : Ch) (key : Nat) : State :=
  let e := pteAt s c key
  let slot := pteSlot key
  let s := setPte s c key { e with poison := true }
  raiseC s c 0x0302 sevErr (natLe (handleBits (seqAt s c slot).gen.toNat c.val slot) 6 ++ natLe pbNone.toNat 5 ++ natLe (pteLayer key) 1 ++ natLe (pteHead key) 1 ++ natLe (pageNumOf s c e (pteEntry key)) 3)

/-- The poisoning of a shared page (R229 step 3): POISON on the record and STATE Poisoned in one change, removal requests to the Sieves of
the present channels, and the scan of sharers due. -/
def applyPoison (s : State) (c : Ch) (key : Nat) : State :=
  let slot := key / 2 ^ 14
  let idx := BitVec.ofNat 40 (pbIndexAt s c slot)
  let s := setPb (setRec s c key { recAt s c key with poison := true }) c slot { pbAt s c slot with state := .poisoned }
  let s := askRemoval s c idx
  modRefPort s c (fun p => { p with scans := p.scans ++ [{ pb := idx, layer := (recLH key).1, head := (recLH key).2 }] })

/-- A shared page is to be poisoned: at once, or held by a running sweep and in arrival order behind what one has held (R228). -/
def poisonShared (s : State) (c : Ch) (key : Nat) : State :=
  let slot := key / 2 ^ 14
  let idx := BitVec.ofNat 40 (pbIndexAt s c slot)
  let e := recAt s c key
  if e.poison then s
  else if changeWaits s c none slot then
    modRefPort s c (fun p => { p with held := if p.held.contains (.poison key idx) then p.held else p.held ++ [.poison key idx] })
  else applyPoison s c key

/-- The loss response for a page: by R229 for a block's record, by R231 for a Private page. -/
def losePage (s : State) (c : Ch) (p : PageRef) : State := if p.isPb then poisonShared s c p.key else poisonPrivate s c p.key

/-- The loss response to a reader's failed read of a page: none where only orphaned lines of T1 made it fail (R334). -/
def loseRead (s : State) (c : Ch) (p : PageRef) (size : Nat) : State :=
  if p.pte.tier = 1 ∧ !rangeLost s c (frameAddr p.pte.loc) size then s else losePage s c p

/-! ## Sequences -/

/-- The page-table entries of a slot. -/
def seqPtes (s : State) (c : Ch) (slot : Nat) : List (Nat × Pte) := (s.ch c).obj.ptes.filter (fun e => pteSlot e.1 == slot)

/-- The blocks that a sequence's Shared entries name and still hold, with the records (R52). -/
def sharedHolds (s : State) (c : Ch) (slot : Nat) : List (Nat × List Nat) :=
  let hs := (seqPtes s c slot).filterMap (fun (k, e) =>
    if e.kind = .shared ∧ pbNames s c (fld e.loc.toNat 39 0) then
      some ((pbIndexOf (fld e.loc.toNat 39 0)).slot, recKey (pbIndexOf (fld e.loc.toNat 39 0)).slot (pteLayer k) (pteHead k)) else none)
  (dedup (hs.map (fun x => x.1))).map (fun b => (b, (hs.filter (fun x => x.1 == b)).map (fun x => x.2)))

/-- Whether the summary of an entry lies in Marl's metadata store: its sequence was frozen, and its SUMM_IDX names no pool entry and no home until
the whole `Promote` rewrites it (R71, R255, R256). -/
def summFrozen (s : State) (c : Ch) (key : Nat) : Bool := (smGet? (s.marl c).frozen key).isSome

/-- The summaries of a Frozen sequence leave Marl's metadata store, and the units that they took are free. -/
def dropFrozen (s : State) (c : Ch) (slot : Nat) : State :=
  let run := smGet? (s.marl c).frozenAt slot
  let s := modMarl s c (fun m => { m with frozen := smFilter (fun k => pteSlot k != slot) m.frozen, frozenAt := smDel m.frozenAt slot })
  match run with
  | some r => mediaCheck (freeMeta s c r) c
  | none => s

/-- Releases what one entry of a closing sequence holds, and makes it Empty (R52): a page and its summary; of a block that it names, the records of all
the sequence's entries that still name it. -/
def releaseEntry (s : State) (c : Ch) (slot key : Nat) : State :=
  let p := pteAt s c key
  let frozen := summFrozen s c key
  match p.kind with
  | .priv => setPte (if frozen then releaseLoc s c p.tier p.cls p.loc else freeSumm (releasePage s c p) c p.summIdx.toNat) c key Pte.empty
  | .pruned => setPte (if frozen then s else freeSumm s c p.summIdx.toNat) c key Pte.empty
  | .shared =>
    let v := fld p.loc.toNat 39 0
    let hold := (sharedHolds s c slot).find? (fun x => x.1 == (pbIndexOf v).slot)
    let ks := (seqPtes s c slot).filter (fun k => k.2.kind == .shared && fld k.2.loc.toNat 39 0 == v)
    let s := ks.foldl (fun t k => setPte t c k.1 Pte.empty) s
    (match hold with
      | some x => if pbNames s c v then decRecs s c x.1 x.2 else s
      | none => s)
  | .empty => s

/-- The rest that a closing sequence holds (R52), and its image (R273): one change (DESIGN CHOICE, log 170). -/
def releaseRest (s : State) (c : Ch) (slot : Nat) : State :=
  let e := seqAt s c slot
  let s := modObj s c (fun o => { o with ptes := smFilter (fun k => pteSlot k != slot) o.ptes,
                                         dirs := smFilter (fun k => k / 64 / 256 != slot) o.dirs })
  let s := freeNodes s c (fun n => match n with
    | .dir x _ => x == slot
    | .leaf x _ _ _ => x == slot
    | .mid x _ _ _ => x == slot
    | _ => false)
  let s := dropFrozen s c slot
  freeImage s c 0 (BitVec.ofNat 48 (handleBits e.gen.toNat c.val slot))

/-- Releases everything that a closing sequence holds. -/
def releaseSeq (s : State) (c : Ch) (slot : Nat) : State :=
  releaseRest ((seqPtes s c slot).foldl (fun t k => releaseEntry t c slot k.1) s) c slot

/-- The last step of a close (R52): GEN advances and the slot is Free, or Retired when GEN would wrap. -/
def closeEnd (s : State) (c : Ch) (slot : Nat) : State :=
  let e := seqAt s c slot
  if e.gen = 0xFFFF then
    let s := jSlot (setSeq s c slot { SeqEntry.free with gen := 0xFFFF, state := .retired }) c slot
    raiseC s c 0x0300 sevInfo (natLe slot 4)
  else jSlot (setSeq s c slot { SeqEntry.free with gen := e.gen + 1 }) c slot

/-- A close: everything released, then the last step. -/
def closeSeq (s : State) (c : Ch) (slot : Nat) : State := closeEnd (releaseSeq s c slot) c slot

/-- The block that an entry's release lowers, when it names one. -/
def entryBlock (s : State) (c : Ch) (key : Nat) : Option Nat :=
  let p := pteAt s c key
  if p.kind = .shared ∧ pbNames s c (fld p.loc.toNat 39 0) then some (pbIndexOf (fld p.loc.toNat 39 0)).slot else none

/-- A `SeqClose` releases its entries in order, then the rest, and its slot ends: it waits at a release while the release log is full (R237), and at a
block for a sweep (R228). -/
def closeGo (c : Ch) (r : Ring) (slot : Nat) : List Nat → State → State
  | [], s =>
    let t := releaseRest s c slot
    if logFullFor t c r then setWait (noteFull t c) c r (.dropping [] 0 0) else retireSt (closeEnd t c slot) c r .ok
  | k :: ks, s =>
    if logFullFor s c r then setWait (noteFull s c) c r (.dropping (k :: ks) 0 0)
    else if ((entryBlock s c k).map (changeWaits s c (some r))).getD false then setWait (queueRing s c r) c r (.dropping (k :: ks) 0 0)
    else closeGo c r slot ks (releaseEntry s c slot k)

/-- A `SeqClose` whose slot no admitted descriptor names begins to release. -/
def closeRetire (s : State) (c : Ch) (r : Ring) (slot : Nat) : State := closeGo c r slot ((seqPtes s c slot).map (fun k => k.1)) s

/-- The entries that an admitted `Append` holds while it waits for anything but a page's move (R252): slot, layer, first and last page. -/
def appendHold (s : State) (c : Ch) (r : Ring) : Option (Nat × Nat × Nat × Nat) :=
  if r.val < 4 ∧ !(s.ring c r).inUse.isEmpty ∧ !(match (s.ring c r).wait with | .pageMove _ => true | _ => false) then
    let d := headDesc s c r
    if fld d 127 120 = 0x04 then
      some ((handleOf (fld d 1023 976)).slot, fld d 975 968, fld d 967 940 / 64, (fld d 967 940 + fld d 939 932) / 64)
    else none
  else none

/-- Whether an admitted `Append` holds the page-table entry of a key (R252). -/
def appendHolds (s : State) (c : Ch) (key : Nat) : Bool :=
  allRings.any (fun r => match appendHold s c r with
    | some (slot, layer, lo, hi) =>
      slot == pteSlot key && layer == pteLayer key && ((List.range (hi + 1 - lo)).any (fun i => pageEntry (seqAt s c slot) (lo + i) == pteEntry key))
    | none => false)

/-- A descriptor that is executing and cannot go on yet stays at its ring's head; its row runs it again. -/
def stay (s : State) (c : Ch) (r : Ring) : State := setWait s c r .resumed

/-- Nodes of a layer-head directory: 8 bytes for each pair in 4 KiB nodes. -/
def dirNodes (layers heads slot : Nat) : List NodeKey := (List.range (ceilDiv (8 * layers * heads) 4096)).map (fun i => .dir slot i)

/-- Nodes of a block's descriptor: a 64-byte header and 16 bytes for each record. -/
def pbNodes (layers heads slot : Nat) : List NodeKey := (List.range (ceilDiv (64 + 16 * layers * heads) 4096)).map (fun i => .pb slot i)

/-- Whether an owner's key is in force for a descriptor that touches cache content (R449). -/
def ownerReady (s : State) (owner : Nat) : Bool := keyLoaded s owner

end Sys2Proof.Machine
end

