-- ==== Sys2Proof/Machine/AttnOps.lean ====
section
/-! DEFINITION. The arithmetic of attention: tile layouts (R110, R129), query rows (R92), the one pass (R95 to R98, R111 to R113),
outputs and row status (R129 to R133), log-mass (R134), selection scores (R121, R122), page summaries (R120), and the merge (R131). -/

namespace Sys2Proof.Machine
open Sys2Proof

/-! ## Tiles -/

/-- The areas of a query or output tile (R110, R129): bytes of a row, offset of the scales, bytes of a row's scales, offsets of the
log-sum-exp and status words, size of an output tile and of a query tile. -/
structure TileLayout where
  rowB   : Nat
  scales : Nat
  scaleB : Nat
  lse    : Nat
  status : Nat
  size   : Nat
  qSize  : Nat
  deriving DecidableEq, Repr

/-- The layout of a tile of `n` rows. -/
def tileLayout (n dim : Nat) (f : Fmt) : TileLayout :=
  let rb := roundUp (vecBytes f dim) 64
  let sb := roundUp (vecScaleBytes f dim) 64
  let lse := n * rb + n * sb
  let st := lse + roundUp (4 * n) 64
  { rowB := rb, scales := n * rb, scaleB := sb, lse, status := st, size := st + roundUp (4 * n) 64, qSize := lse }

/-- The bytes of a row of a tile of T0 at `base`: elements and scales. -/
def tileBytes (s : State) (c : Ch) (base n dim : Nat) (f : Fmt) (i : Nat) : List Byte × List Byte :=
  let t := tileLayout n dim f
  (t0Read s c (base + i * t.rowB) (vecBytes f dim), t0Read s c (base + t.scales + i * t.scaleB) (vecScaleBytes f dim))

/-- A row of a tile of T0 at `base`, decoded. -/
def tileRow (s : State) (c : Ch) (base n dim : Nat) (f : Fmt) (i : Nat) : Vec :=
  let b := tileBytes s c base n dim f i
  decodeVec f dim b.1 b.2

/-- The FP32 value at an offset of T0. -/
def t0F32 (s : State) (c : Ch) (off : Nat) : Num := f32Of (t0Num s c off 4)

/-- The largest finite FP32 value. -/
def maxF32 (neg : Bool) : Num := .fin neg (2 ^ 24 - 1) 104

/-! ## Query rows (R92, R121) -/

/-- A query row: its operand parts, its values with block scales applied, the norm of the unrotated row, the sum of its values over
each group of 64 (for Tilth offsets), and whether it holds a NaN or an infinity. -/
structure QRow where
  vec  : Vec
  vals : List Num
  norm : Num
  gsum : List Num
  nan  : Bool
  inf  : Bool
  deriving DecidableEq, Repr

/-- The FP32 norm of a vector. -/
def normOf (xs : List Num) : Num := sqrtR (sumR (xs.map (fun x => mulExact x x)))

/-- A query row as the engine uses it: rotated and rounded into its own format again when the keys are Tilth (R92). A NaN of the row goes through
the rotation into every value, also where the format has no NaN of its own for the rounded elements (R101). -/
def qRowOf (kf qf : Fmt) (dim : Nat) (v : Vec) : QRow :=
  let xs := vecValues v
  let nan := vecNan v
  let inf := vecInf v
  if kf.elem = .tilth then
    let e := encodeVec qf false 0 (rotateHD 3 xs)
    let w := decodeVec qf dim e.elems e.scales
    let w := if nan then { w with elems := w.elems.map (fun _ => .nan) } else w
    { vec := w, vals := vecValues w, norm := normOf xs, gsum := (chunks 64 (vecValues w)).map sumR, nan, inf }
  else { vec := v, vals := xs, norm := normOf xs, gsum := [], nan, inf }

/-- The query-key product (R95, R96): each run that shares a query scale and a key scale is summed, scaled in FP32, and added; the offset
term of a Tilth group follows the group's last run. -/
def dotOf (kf : Fmt) (dim : Nat) (q : QRow) (k : Vec) : Num :=
  let run := min q.vec.block k.block
  (List.range (dim / run)).foldl (fun tot b =>
    let o := b * run
    let part := sumR (List.zipWith mulExact ((q.vec.elems.drop o).take run) ((k.elems.drop o).take run))
    let part := if q.vec.scales.isEmpty ∧ k.scales.isEmpty then part
                else mulR part (mulR (q.vec.scales.getD (o / q.vec.block) (.one, .zero)).1 (k.scales.getD (o / k.block) (.one, .zero)).1)
    let tot := addR tot part
    if kf.elem = .tilth ∧ (o + run) % 64 = 0 then addR tot (mulR (k.scales.getD (o / 64) (.one, .zero)).2 (q.gsum.getD (o / 64) .zero)) else tot)
    .zero

/-! ## The one pass -/

/-- The start of a row. -/
def rowStart (dim : Nat) : RowAcc :=
  { m := .negInf, l := .zero, acc := List.replicate dim .zero, off := List.replicate (dim / 64) .zero, eligible := 0, attended := 0, nan := false,
    skipped := false, poisoned := false, overrun := false, clamp := false }

/-- A score (R113): SM_SCALE times the product; one that leaves FP32 with finite operands is clamped. The flag says that it was. -/
def scoreOf (kf : Fmt) (dim : Nat) (sm : Num) (q : QRow) (slot : Nat) (k : Vec) : Num × Bool :=
  let x := mulR sm (dotOf kf dim q k)
  let fine := !(q.nan || q.inf || vecNan k || vecInf k) && isFin sm
  if fine && isInf x then (maxF32 (isNeg x), true)
  else if fine && isNan x then (maxF32 (Config.clampNeg slot), true)
  else (x, false)

/-- The columns of a list of rows. -/
def columns : Nat → List (List Num) → List (List Num)
  | 0, _ => []
  | n + 1, rows => rows.map (fun r => r.headD .zero) :: columns n (rows.map List.tail)

/-- The probability operands of a weight for each element of a value vector (R97). -/
def probOf (vf : Fmt) (w : Num) (v : Vec) : List Num :=
  if v.scales.isEmpty then v.elems.map (fun _ => probForm vf.cls w)
  else
    let ps := v.scales.map (fun x => probForm vf.cls (mulR w x.1))
    v.elems.zipIdx.map (fun (_, j) => ps.getD (j / v.block) .zero)

/-- Folds the admitted and written slots of a page into a row: the row and its scores. -/
def foldRow (kf vf : Fmt) (dim : Nat) (sm : Num) (q : QRow) (row : RowAcc) (slots : List (Nat × Vec × Vec)) : RowAcc × List Num :=
  if slots.isEmpty then (row, [])
  else
    let sc := slots.map (fun x => scoreOf kf dim sm q x.1 x.2.1)
    let ss := sc.map (fun x => x.1)
    let mNew := ss.foldl numMax row.m
    let a := if row.m = .negInf then Num.zero else expR (subR row.m mNew)
    let ws := ss.map (fun x => expR (subR x mNew))
    let prods := List.zipWith (fun w x => List.zipWith mulExact (probOf vf w x.2.2) x.2.2.elems) ws slots
    let acc := List.zipWith (fun y col => addR (mulR y a) (sumR col)) row.acc (columns dim prods)
    let off := if vf.elem = .tilth then
        row.off.zipIdx.map (fun (y, g) => addR (mulR y a) (sumR (List.zipWith (fun w x => mulR w (x.2.2.scales.getD g (.zero, .zero)).2) ws slots)))
      else row.off
    ({ row with m := mNew, l := addR (mulR row.l a) (sumR ws), acc, off, attended := row.attended + slots.length,
                clamp := row.clamp || sc.any (fun x => x.2) }, ss)

/-- The end of a row (R112, R131, R133): the output, the log-sum-exp, and the row with its NAN flag. A NaN anywhere in it makes the whole output row
and its log-sum-exp NaN (R101, R113). -/
def finishRow (vf : Fmt) (row : RowAcc) : List Num × Num × RowAcc :=
  if isZero row.l then (row.acc.map (fun _ => .zero), .negInf, row)
  else
    let acc := if vf.elem = .tilth then row.acc.zipIdx.map (fun (x, j) => addR x (row.off.getD (j / 64) .zero)) else row.acc
    let o := acc.map (fun x => divR x row.l)
    let o := if vf.elem = .tilth then restoreDH o else o
    let lse := addR row.m (lnR row.l)
    if isNan lse || o.any isNan then (o.map (fun _ => .nan), .nan, { row with nan := true }) else (o, lse, row)

/-- COVERAGE (R129). -/
def coverage (row : RowAcc) : Nat := if row.eligible = 0 then 65535 else min 65535 (row.attended * 65535 / row.eligible)

/-- EMPTY: no position was attended. -/
def rowEmpty (row : RowAcc) : Bool := isZero row.l

/-- The flags of a row as bits 15 to 10 of FLAGS (R151). -/
def rowFlags (row : RowAcc) : BitVec 16 :=
  flIf (rowEmpty row) flEmpty ||| flIf row.nan flNan ||| flIf row.skipped flSkipped ||| flIf row.poisoned flPoisoned ||| flIf row.overrun flOverrun |||
  flIf row.clamp flClamp

/-- The row status word (R129). -/
def rowStatus (row : RowAcc) : Nat := (rowFlags row).toNat * 65536 + coverage row

/-- Log-add of a score to a record (R134). -/
def logAdd (a b : Num) : Num :=
  if a = .negInf then b
  else
    let m := numMax a b
    let n := numMin a b
    addR m (lnR (addR .one (expR (subR n m))))

/-! ## Output rows -/

/-- Writes a row of an output tile; the flags of what is stored (R101). R129 pads each area to 64 bytes and does not say with what: the padding is
written as zeros (DESIGN CHOICE, log 162). -/
def putRow (s : State) (c : Ch) (base n dim : Nat) (f : Fmt) (i : Nat) (o : List Num) (lse : Num) (word : Nat) : State × BitVec 16 :=
  let t := tileLayout n dim f
  let e := encodeVec f false 0 o
  let s := t0Write s c (base + i * t.rowB) (e.elems ++ zeros (t.rowB - e.elems.length))
  let s := if t.scaleB = 0 then s else t0Write s c (base + t.scales + i * t.scaleB) (e.scales ++ zeros (t.scaleB - e.scales.length))
  let s := t0Write s c (base + t.lse + 4 * i) (natLe (f32Bits lse) 4)
  (t0Write s c (base + t.status + 4 * i) (natLe word 4), flIf (e.nan || isNan lse) flNanIn)

/-- Pads the log-sum-exp and status areas of a tile with zeros (DESIGN CHOICE, log 162). -/
def padTile (s : State) (c : Ch) (base n dim : Nat) (f : Fmt) : State :=
  let t := tileLayout n dim f
  let pad := roundUp (4 * n) 64 - 4 * n
  t0Write (t0Write s c (base + t.lse + 4 * n) (zeros pad)) c (base + t.status + 4 * n) (zeros pad)

/-! ## Selection (R121, R122) -/

/-- The mean key of a summary: BF16, or E4M3 times KEY_SCALE at HEAD_DIM 256 (R72). -/
def meanOf (dim : Nat) (m : Summ) : List Num :=
  if dim = 256 then
    let k := bf16Of m.keyScale.toNat
    (List.range dim).map (fun i => mulR (e4m3Of (bnum m.mean i 1)) k)
  else (List.range dim).map (fun i => bf16Of (bnum m.mean (2 * i) 2))

/-- Whether a summary holds an infinity where a score reads it. -/
def summInf (dim : Nat) (m : Summ) : Bool := isInf (f32Of m.knorm.toNat) || (meanOf dim m).any isInf

/-- Whether a summary holds a NaN where a score reads it. -/
def summNan (dim : Nat) (m : Summ) : Bool := isNan (f32Of m.mass.toNat) || isNan (f32Of m.knorm.toNat) || (meanOf dim m).any isNan

/-- A candidate's score, and whether a NaN was met. -/
def summScore (dim : Nat) (qs : List QRow) (sm beta : Num) (m : Summ) : Num × Bool :=
  if summNan dim m then (.negInf, true)
  else
    let mean := meanOf dim m
    let kn := f32Of m.knorm.toNat
    qs.foldl (fun a q =>
      let t := mulR sm (addR (sumR (List.zipWith mulExact q.vals mean)) (mulR (mulR beta q.norm) kn))
      if isNan t then (a.1, true) else (numMax a.1 t, a.2)) (.negInf, false)

/-! ## Page summaries (R120) -/

/-- The square root of an exact number, rounded up to FP32. -/
def sqrtUp (x : Num) : Num :=
  let r := sqrtR x
  if numLt (mulExact r r) x then ulpStep r 1 else r

/-- The exact sum of squares. -/
def sumSquares (xs : List Num) : Num :=
  xs.foldl (fun a x => match a, mulExact x x with
    | .fin s m e, .fin t n f => addExact s m e t n f
    | .nan, _ => .nan
    | _, .nan => .nan
    | _, _ => .inf false) .zero

/-- KEY_SCALE of a mean key (HEAD_DIM 256). -/
def keyScaleOf (mean : List Num) : Num :=
  match amaxOf mean with
  | none => .zero
  | some a => upQuot bf16F (maxFinite bf16F) 448 a

/-- A summary with the mean key and KNORM of a page's decoded keys. -/
def summKeys (kf : Fmt) (dim : Nat) (keys : List (List Num)) (m : Summ) : Summ :=
  let n := keys.length
  let mean := if n = 0 then List.replicate dim Num.zero else (columns dim keys).map (fun col => divR (sumR col) (numOfNat n))
  let orig := if kf.elem = .tilth then keys.map restoreDH else keys
  let kn := orig.foldl (fun a k => numMax a (sqrtUp (sumSquares k))) .zero
  if dim = 256 then
    let ks := keyScaleOf mean
    { m with knorm := f32W kn, keyScale := BitVec.ofNat 16 (bf16Bits ks),
             mean := mean.map (fun x => BitVec.ofNat 8 (if isZero ks then 0 else e4m3Bits (divR x ks))) }
  else { m with knorm := f32W kn, keyScale := 0, mean := mean.flatMap (fun x => natLe (bf16Bits x) 2) }

/-! ## The merge (R131, R369) -/

/-- The sum of a list of numbers in list order (FP32). -/
def sumInOrder (xs : List Num) : Num := xs.foldl addR .zero

/-- The merge of a row's partials (output and log-sum-exp), in list order. -/
def mergeRow (dim : Nat) (ps : List (List Num × Num)) : List Num × Num :=
  if ps.any (fun p => isNan p.2) then (List.replicate dim .nan, .nan)
  else
    let live := ps.filter (fun p => p.2 != .negInf)
    match live with
    | [] => (List.replicate dim .zero, .negInf)
    | p :: rest =>
      let m := rest.foldl (fun a x => numMax a x.2) p.2
      let l := addR m (lnR (sumInOrder (live.map (fun x => expR (subR x.2 m)))))
      (live.foldl (fun acc x =>
        let w := expR (subR x.2 l)
        List.zipWith (fun a o => addR a (mulR w o)) acc x.1) (List.replicate dim .zero), l)

/-! ## Engine faults (R128, R469) -/

/-- An engine fault on a ring's slot: counted, raised, and at the threshold the slot is marked failed and its ring waits for the commit of
the new engine map. -/
def engineFault (s : State) (c : Ch) (r : Ring) : State :=
  match (if h : r.val < 4 then (s.ch c).eng.slotOf[r.val] else none) with
  | none => s
  | some x =>
    let n := (s.ch c).health.engErr[x] + 1
    let s := modHealth s c (fun h => { h with engErr := h.engErr.set x n })
    let s := raiseC s c 0x0203 sevWarn (natLe x.val 1 ++ natLe n 4)
    if 2 ^ fld s.island.stCfg.toNat 28 25 ≤ n ∧ !(s.ch c).eng.failed.getLsbD x.val then
      modCh s c (fun ch => { ch with eng := { ch.eng with failed := ch.eng.failed ||| (1 <<< x.val), marks := ch.eng.marks ||| (1 <<< x.val), mapDue := ch.eng.mapDue ++ [x] } })
    else s

end Sys2Proof.Machine
end

