-- ==== Sys2Proof/Machine/AttnCmds.lean ====
section
/-! DEFINITION. The attention descriptors: `Attend`, `AttendGrist`, `AttendRagged`, and the release of an engine that waits for a page
(R109 to R135, R153, R156 to R165). -/

namespace Sys2Proof.Machine
open Sys2Proof

/-! ## Masks (R114, R118) -/

/-- Spans [lo, hi) of positions that a row's KIND admits, before the range of the descriptor. -/
def kindSpans (p : AttnParams) (qp i : Nat) : List (Nat × Nat) :=
  match p.kind with
  | 0 => [(0, qp + 1)]
  | 1 => [(0, p.heldEnd)]
  | 2 => [(qp + 1 - p.window, qp + 1)]
  | 3 => if qp + 1 - p.window ≤ p.sink then [(0, max p.sink (qp + 1))] else [(0, p.sink), (qp + 1 - p.window, qp + 1)]
  | _ => (0, p.qpos0) :: ((List.range 16).filter (fun j => p.tree.getLsbD (16 * i + j))).map (fun j => (p.qpos0 + j, p.qpos0 + j + 1))

/-- Spans of admitted positions of a row, clipped to the held range and to PAGE_LO and PAGE_HI. -/
def rowSpans (p : AttnParams) (posBase row : Nat) : List (Nat × Nat) :=
  let i := row / p.g
  let lo := max posBase (64 * p.pageLo)
  let hi := min p.heldEnd (64 * p.pageHi + 64)
  ((kindSpans p (p.qpos0 + i) i).map (fun x => (max x.1 lo, min x.2 hi))).filter (fun x => decide (x.1 < x.2))

/-- Whether spans meet a page. -/
def spansHit (sp : List (Nat × Nat)) (page : Nat) : Bool := sp.any (fun x => decide (x.1 < 64 * page + 64 ∧ 64 * page < x.2))

/-- The slots of a page that spans admit, in order. -/
def spanSlots (sp : List (Nat × Nat)) (page : Nat) : List Nat :=
  (List.range 64).filter (fun i => sp.any (fun x => decide (x.1 ≤ 64 * page + i ∧ 64 * page + i < x.2)))

/-- Rows of a descriptor. -/
def attnRows (p : AttnParams) : Nat := p.g * p.qn

/-- The last page of a sequence's LENGTH snapshot (R57, R118). -/
def lastOf (e : SeqEntry) : Nat := (e.length.toNat - 1) / 64

/-- The last page of a ring sequence's snapshot. -/
def lastPage (p : AttnParams) : Nat := p.last

/-- The first page of a ring's live set above the sinks (R118). -/
def liveFirst (e : SeqEntry) (p : AttnParams) : Nat := max e.sinkPages.toNat (lastPage p + 1 - e.ringPages.toNat)

/-- The page number that an entry of a page map holds for the reader, if it is one that it reads: in a ring, the live page of the
entry. -/
def livePage (e : SeqEntry) (p : AttnParams) (x : Nat) : Option Nat :=
  if !e.ring ∨ x < e.sinkPages.toNat then some x
  else
    let n := max 1 e.ringPages.toNat
    let back := (lastPage p + n - (x - e.sinkPages.toNat)) % n
    if back ≤ lastPage p ∧ liveFirst e p ≤ lastPage p - back then some (lastPage p - back) else none

/-- Pages that a reader finds: those of the page map with KIND Private or Shared, in PAGE_LO to PAGE_HI, that hold an admitted position
of some row, in ascending order. -/
def attnPages (s : State) (c : Ch) (p : AttnParams) (rows : List Nat) : List Nat :=
  let e := seqAt s c p.slot
  let sps := rows.map (rowSpans p e.posBase.toNat)
  let es := (s.ch c).obj.ptes.filter (fun k => k.1 / 2 ^ 22 == lhKey p.slot p.layer p.head && (k.2.kind == .priv || k.2.kind == .shared))
  sortBy (fun a b => decide (a ≤ b)) ((es.filterMap (fun k => livePage e p (pteEntry k.1))).filter
    (fun x => decide (p.pageLo ≤ x ∧ x ≤ p.pageHi) && sps.any (fun sp => spansHit sp x)))

/-- Positions that a row admits in pages of a ring outside the live set (R118). -/
def overrunOf (e : SeqEntry) (p : AttnParams) (sp : List (Nat × Nat)) : Nat :=
  if !e.ring then 0
  else
    let a := 64 * e.sinkPages.toNat
    let b := 64 * liveFirst e p
    (sp.map (fun x => min x.2 b - max x.1 a)).sum

/-! ## One page -/

/-- How a step of an attention descriptor goes on. -/
inductive AttnStop
  | go
  | wait (gate : Nat)
  | stop (e : St) (detail : Nat)
  deriving DecidableEq, Repr

/-- The tile's first row. -/
def tileFirst (x : AttnCtx) : Nat := 64 * x.tile

/-- The rows of the tile. -/
def tileRows (x : AttnCtx) : List Nat := (List.range (min 64 (attnRows x.cur - tileFirst x))).map (fun i => tileFirst x + i)

/-- The rows of the tile that admit positions of a page get a change. -/
def dropRows (x : AttnCtx) (elig : List (List Nat)) (f : RowAcc → RowAcc) : AttnCtx :=
  { x with rows := List.zipWith (fun row sl => if sl.isEmpty then row else f row) x.rows elig }

/-- Whether a page is present (R162). -/
def pagePresent (p : AttnParams) (e : Pte) : Bool :=
  (e.kind == .priv || e.kind == .shared) && e.pgate == 0xFFF && (e.tier == 1 || (e.tier == 2 && p.stream && p.select))

/-- The decoded key and value of a slot of a page (R59, R89, R90). -/
def pageSlot (kf vf : Fmt) (dim : Nat) (bytes : List Byte) (i : Nat) : Vec × Vec :=
  let l := pageLayout kf vf dim
  let kb := vecBytes kf dim
  let ks := vecScaleBytes kf dim
  let vb := vecBytes vf dim
  let vs := vecScaleBytes vf dim
  (decodeVec kf dim (bsub bytes (l.keys + i * kb) kb) (bsub bytes (l.kScales + i * ks) ks),
   decodeVec vf dim (bsub bytes (l.vals + i * vb) vb) (bsub bytes (l.vScales + i * vs) vs))

/-- Folds a page that has been read into the rows of the tile (R111, R134, R156). A page none of whose admitted slots is written counts as attended:
its summary is updated, with no mass (DESIGN CHOICE, log 131). -/
def foldPage (s : State) (c : Ch) (x : AttnCtx) (page : Nat) (ref : PageRef) (elig : List (List Nat)) (bytes : List Byte) : AttnCtx :=
  let e := seqAt s c x.cur.slot
  let kf := fmtD ref.kFmt
  let vf := fmtD ref.vFmt
  let dim := headDimOf e.headDim.toNat
  let qf := fmtD x.cur.qFmt.toNat
  let sm := f32Of x.cur.scale.toNat
  let fill := ref.pte.fill.toNat
  let used := (List.range 64).filter (fun i => decide (i < fill) && elig.any (fun sl => sl.contains i))
  let vecs : List (Nat × Vec × Vec) := used.map (fun i => (i, pageSlot kf vf dim bytes i))
  let res : List (RowAcc × List Num × BitVec 16) := (x.qrows.zip (x.rows.zip elig)).map (fun (b, row, sl) =>
    let got := sl.filter (fun i => decide (i < fill))
    let row := if got.length < sl.length then { row with skipped := true } else row
    if got.isEmpty then (row, [], (0 : BitVec 16))
    else
      let q := qRowOf kf qf dim (decodeVec qf dim b.1 b.2)
      let slots := vecs.filter (fun v => got.contains v.1)
      let f := foldRow kf vf dim sm q row slots
      (f.1, f.2, flIf (q.nan || isNan sm || slots.any (fun v => vecNan v.2.1 || vecNan v.2.2)) flNanIn |||
                 flIf (q.inf || isInf sm || slots.any (fun v => vecInf v.2.1 || vecInf v.2.2)) flInfIn))
  let terms := res.flatMap (fun y => y.2.1)
  let log := if terms.isEmpty then x.massLog
    else if x.massLog.any (fun y => y.1 == page) then x.massLog.map (fun y => if y.1 = page then (page, terms.foldl logAdd y.2) else y)
    else x.massLog ++ [(page, terms.foldl logAdd .negInf)]
  { x with rows := res.map (fun y => y.1), massLog := log, flags := res.foldl (fun a y => a ||| y.2.2) x.flags,
           attended := if x.attended.any (fun y => y.1 == page) then x.attended else x.attended ++ [(page, ref.pte.summIdx.toNat)] }

/-- The private area of the engine that serves ring `r` (R234). -/
def privArea (r : Ring) : Nat := t0General + r.val * 0x80000

/-- A page read is staged in a page buffer of the engine (R28, R107, R260): each page takes the buffer after the last one's (DESIGN CHOICE,
log 128). -/
def stagePage (s : State) (c : Ch) (r : Ring) (x : AttnCtx) (bytes : List Byte) : State × AttnCtx :=
  (t0Write s c (privArea r + 0x10000 * (x.staged % 4)) bytes, { x with staged := x.staged + 1 })

/-- Writes a page's record to the engine's feedback log (R134, R234): the record of the n-th page recorded is the n-th FP32 word (DESIGN CHOICE, log 128). -/
def logRecord (s : State) (c : Ch) (r : Ring) (x : AttnCtx) (page : Nat) : State :=
  match x.massLog.zipIdx.find? (fun y => y.1.1 == page) with
  | some (y, i) => if i < 65536 then t0Write s c (privArea r + 0x40000 + 4 * i) (natLe (f32Bits y.2) 4) else s
  | none => s

/-- The size of a page that a reader resolved, in a sequence's head dimension. -/
def refSize (p : PageRef) (e : SeqEntry) : Nat := (pageLayout (fmtD p.kFmt) (fmtD p.vFmt) (headDimOf e.headDim.toNat)).size

/-- The visit of a page by a row tile: presence (R162, R164, R165), the PN of a ring page (R119), poison (R125), the read into a page buffer,
the fold and its record. -/
def visitPage (s : State) (c : Ch) (r : Ring) (x : AttnCtx) (page : Nat) : State × AttnCtx × AttnStop :=
  let p := x.cur
  let e := seqAt s c p.slot
  let key := pteKey p.slot p.layer p.head (pageEntry e page)
  let pt := pteAt s c key
  let elig := (tileRows x).map (fun r => spanSlots (rowSpans p e.posBase.toNat r) page)
  if pt.kind ≠ .priv ∧ pt.kind ≠ .shared then (s, x, .go)
  else
    let y := { x with rows := List.zipWith (fun row sl => { row with eligible := row.eligible + sl.length }) x.rows elig }
    match resolvePage s c e p.layer p.head key pt with
    | none => if p.absent then (s, dropRows y elig (fun r => { r with skipped := true }), .go) else (s, x, .stop .pageAbsent page)
    | some ref =>
      if ref.pte.pgate ≠ 0xFFF ∧ !p.absent then (s, x, .wait ref.pte.pgate.toNat)
      else if !pagePresent p ref.pte then
        if p.absent then (s, dropRows y elig (fun r => { r with skipped := true }), .go) else (s, x, .stop .pageAbsent page)
      else if e.ring ∧ pageNumOf s c ref.pte page ≠ page then (s, dropRows y elig (fun r => { r with overrun := true }), .go)
      else if ref.pte.poison then (s, dropRows y elig (fun r => { r with poisoned := true }), .go)
      else
      let s := useKey s c ref.owner
      if !keyHere s c ref.owner then (s, dropRows y elig (fun r => { r with poisoned := true }), .go)
      else match readPage s c ref (refSize ref e) with
        | (none, t) => (loseRead t c ref (refSize ref e), dropRows y elig (fun r => { r with poisoned := true }), .go)
        | (some bytes, t) =>
          let u := stagePage t c r y bytes
          let z := foldPage u.1 c u.2 page ref elig bytes
          (logRecord u.1 c r z page, z, .go)

/-- Visits pages in order; one that must wait stays first. -/
def visitPages : List Nat → State → Ch → Ring → AttnCtx → State × AttnCtx × AttnStop
  | [], s, _, _, x => (s, { x with todo := [] }, .go)
  | p :: ps, s, c, r, x =>
    match visitPage s c r x p with
    | (s, x, .go) => visitPages ps s c r x
    | (s, x, st) => (s, { x with todo := p :: ps }, st)

/-! ## Tiles -/

/-- The selection of a descriptor (R121, R122): the pages attended, and NAN_IN and INF_IN (R113) of what the scores read. -/
def selectPages (s : State) (c : Ch) (p : AttnParams) : List Nat × BitVec 16 :=
  let e := seqAt s c p.slot
  let dim := headDimOf e.headDim.toNat
  let n := attnRows p
  let pages := attnPages s c p (List.range n)
  let summ := fun (page : Nat) =>
    let key := pteKey p.slot p.layer p.head (pageEntry e page)
    match resolvePage s c e p.layer p.head key (pteAt s c key) with
    | some r => smGet? (s.ch c).obj.summs r.pte.summIdx.toNat
    | none => none
  let recent := pages.drop (pages.length - p.recent)
  let isProt := fun (page : Nat) => recent.contains page || (match summ page with | some m => m.protect != 0 | none => false)
  let cands := pages.filter (fun x => !isProt x)
  let qf := fmtD p.qFmt.toNat
  let qs := if cands.isEmpty then [] else (List.range n).map (fun r => qRowOf (fmtD e.kFmt.toNat) qf dim (tileRow s c p.qAddr n dim qf r))
  let scored := cands.map (fun x => match summ x with
    | some m => (x, summScore dim qs (f32Of p.scale.toNat) (fp16Of p.beta.toNat) m)
    | none => (x, .negInf, false))
  let order := sortBy (fun a b => numLt b.2.1 a.2.1 || (!numLt a.2.1 b.2.1 && decide (a.1 ≤ b.1))) scored
  let sel := (order.take p.topk).map (fun x => x.1)
  let infs := !cands.isEmpty && (qs.any (fun q => q.inf) || isInf (f32Of p.scale.toNat) || isInf (fp16Of p.beta.toNat) ||
    cands.any (fun x => match summ x with | some m => summInf dim m | none => false))
  (pages.filter (fun x => isProt x || sel.contains x),
   flIf (scored.any (fun x => x.2.2) || qs.any (fun q => q.nan)) flNanIn ||| flIf infs flInfIn)

/-- The start of a row tile: its query rows (R110), its rows, with the positions that a ring has lost (R118), and its pages (R115). -/
def tileBegin (s : State) (c : Ch) (x : AttnCtx) : AttnCtx :=
  let e := seqAt s c x.cur.slot
  let rs := tileRows x
  let rows := rs.map (fun r =>
    let n := overrunOf e x.cur (rowSpans x.cur e.posBase.toNat r)
    { rowStart (headDimOf e.headDim.toNat) with eligible := if x.cur.select then 0 else n, overrun := decide (0 < n) })
  let pages := attnPages s c x.cur rs
  let qf := fmtD x.cur.qFmt.toNat
  let qrows := rs.map (tileBytes s c x.cur.qAddr (attnRows x.cur) (headDimOf e.headDim.toNat) qf)
  { x with begun := true, qrows, rows, todo := match x.chosen with | some ch => pages.filter (fun p => ch.contains p) | none => pages }

/-- The end of a row tile: its outputs (R129 to R133). -/
def tileEnd (s : State) (c : Ch) (x : AttnCtx) : State × AttnCtx :=
  let e := seqAt s c x.cur.slot
  let dim := headDimOf e.headDim.toNat
  let n := attnRows x.cur
  let f := fmtD x.cur.oFmt.toNat
  let r := ((tileRows x).zip x.rows).foldl (fun (a : State × AttnCtx) (i, row) =>
    let o := finishRow (fmtD e.vFmt.toNat) row
    let p := putRow a.1 c x.cur.oAddr n dim f i o.1 o.2.1 (rowStatus o.2.2)
    (p.1, { a.2 with flags := a.2.flags ||| p.2 ||| rowFlags o.2.2,
                     minCov := if coverage o.2.2 < a.2.minCov.toNat then BitVec.ofNat 16 (coverage o.2.2) else a.2.minCov })) (s, x)
  let last := n ≤ tileFirst x + 64
  (if last then padTile r.1 c x.cur.oAddr n dim f else r.1, { r.2 with tile := x.tile + 1, begun := false, qrows := [], rows := [], todo := [] })

/-- Row tiles of a sequence. -/
def tilesOf (p : AttnParams) : Nat := ceilDiv (attnRows p) 64

/-- The number of the point that a descriptor is at, for an engine fault there (R128): for each sequence, one point before the output of each
row tile and one before the summary updates; every sequence of a batch has one row tile. -/
def faultPoint (x : AttnCtx) : Nat := 2 * (x.slots.length - 1 - x.subs.length) + x.tile

/-- Runs `n` row tiles; an engine fault ends the descriptor before a tile's output (R128). -/
def runTiles : Nat → State → Ch → Ring → Env → AttnCtx → State × AttnCtx × AttnStop
  | 0, s, _, _, _, x => (s, x, .go)
  | n + 1, s, c, r, env, x =>
    if env.fault = some (faultPoint x) then (engineFault s c r, x, .stop .engineFault 0)
    else
      let x := if x.begun then x else tileBegin s c x
      match visitPages x.todo s c r x with
      | (s, x, .go) => let t := tileEnd s c x; runTiles n t.1 c r env t.2
      | y => y

/-- Whether a summary is that of a page of a layer and KV head (R72). -/
def summIs (m : Summ) (p : AttnParams) (page : Nat) : Bool := m.layer.toNat == p.layer && m.head.toNat == p.head && m.pn.toNat == page

/-- Updates of the attended pages' summaries, in ascending page number (R134, R135), and NAN_IN of a MASS that is read or stored as a NaN
(R101). -/
def feedBack (s : State) (c : Ch) (x : AttnCtx) : State × BitVec 16 :=
  let pages := sortBy (fun a b => decide (a.1 ≤ b.1)) x.attended
  let logs := sortBy (fun a b => decide (a.1 ≤ b.1)) x.massLog
  let total := logs.foldl (fun a y => logAdd a y.2) .negInf
  pages.foldl (fun (a : State × BitVec 16) y =>
    let t := a.1
    match smGet? (t.ch c).obj.summs y.2 with
    | none => a
    | some m =>
      if !summIs m x.cur y.1 then a
      else
        let tn := touchNext t c
        let share := match x.massLog.find? (fun z => z.1 == y.1) with
          | some z => expR (subR z.2 total)
          | none => Num.zero
        let mass := addR (f32Of m.mass.toNat) share
        (modSumm tn.2 c y.2 (fun m =>
          let m := { m with touch := tn.1 }
          rescore tn.2 c (if x.cur.massFb then { m with mass := f32W mass, massN := m.massN + 1 } else m)),
         a.2 ||| flIf (x.cur.massFb && isNan mass) flNanIn)) (s, 0)

/-- Runs the current sequence from where it stands. -/
def runSeq (s : State) (c : Ch) (r : Ring) (env : Env) (x : AttnCtx) : State × AttnCtx × AttnStop :=
  let x := if x.cur.select ∧ x.chosen.isNone then
      let y := selectPages s c x.cur
      { x with chosen := some y.1, flags := x.flags ||| y.2 }
    else x
  match runTiles (tilesOf x.cur - x.tile) s c r env x with
  | (s, x, .go) =>
    if env.fault = some (faultPoint x) then (engineFault s c r, x, .stop .engineFault 0)
    else
      let f := feedBack s c x
      (f.1, { x with flags := x.flags ||| f.2 }, .go)
  | y => y

/-- Runs the sequences of a batch that are left. -/
def runSubs : List AttnParams → State → Ch → Ring → Env → AttnCtx → State × AttnCtx × AttnStop
  | [], s, _, _, _, x => (s, x, .go)
  | p :: ps, s, c, r, env, x =>
    match runSeq s c r env { x with cur := p, subs := ps, tile := 0, begun := false, qrows := [], todo := [], chosen := none, rows := [], massLog := [], attended := [], staged := x.staged } with
    | (s, x, .go) => runSubs ps s c r env x
    | y => y

/-- Runs an attention descriptor from where it stands to its retire, or to a wait for a page (R164). -/
def runAttn (s : State) (c : Ch) (r : Ring) (env : Env) (x : AttnCtx) : State :=
  let y := match runSeq s c r env x with
    | (s, x, .go) => runSubs x.subs s c r env x
    | z => z
  let cpl : Cpl := { status := 0, flags := y.2.1.flags, minCov := y.2.1.minCov, detail := 0, result := 0 }
  match y.2.2 with
  | .go => retire y.1 c r cpl
  | .wait g => setWait y.1 c r (.presence g false y.2.1)
  | .stop e d => retire y.1 c r { cpl with status := stBits e, detail := BitVec.ofNat 32 d }

/-! ## The checks of R111 -/

/-- Whether TREE_MASK breaks check 1. -/
def treeBad (p : AttnParams) : Bool :=
  (List.range 16).any (fun i =>
    let w := (p.tree.toNat >>> (16 * i)) % 65536
    if i < p.qn then !bit w i || decide (2 ^ (i + 1) ≤ w) else w != 0)

/-- Whether a T0 tile leaves the area that it may lie in. -/
def tileOut (a n : Nat) : Bool := decide (a % 64 ≠ 0) || !inT0 a n || touchesPriv a n

/-- The checks of R111; `qCheck` is false for an entry of LEN 0 (R161), which has no query position. -/
def attnBad (s : State) (c : Ch) (p : AttnParams) (qCheck : Bool) : Option St :=
  let e := seqAt s c p.slot
  let dim := headDimOf e.headDim.toNat
  let qf := fmtD p.qFmt.toNat
  let f := fmtD p.oFmt.toNat
  let q := (p.qAddr, (tileLayout (attnRows p) dim qf).qSize)
  let o := (p.oAddr, (tileLayout (attnRows p) dim f).size)
  if 5 ≤ p.kind ∨ ((p.kind = 2 ∨ p.kind = 3) ∧ p.window = 0) ∨ p.pageHi < p.pageLo ∨ (p.kind = 4 ∧ (16 < p.qn ∨ treeBad p)) then some .badField
  else if (match fmtOf p.qFmt.toNat with | some x => !x.q | none => true) || (match fmtOf p.oFmt.toNat with | some x => !x.o | none => true) then some .badFormat
  else if qCheck ∧ (p.qpos0 < e.posBase.toNat ∨ p.heldEnd < p.qpos0 + p.qn) then some .outOfRange
  else if tileOut q.1 q.2 ∨ tileOut o.1 o.2 ∨ (q.1 < o.1 + o.2 ∧ o.1 < q.1 + q.2) then some .badField
  else if p.massFb ∧ 65536 < (attnPages s c p (List.range (attnRows p))).length then some .outOfRange
  else if e.ring ∧ p.kind = 3 ∧ 64 * e.sinkPages.toNat < p.sink then some .badField
  else none

/-- Check 6 of R54: layer and KV head. -/
def lhBad (s : State) (c : Ch) (slot layer head : Nat) : Bool :=
  decide (layersOf (seqAt s c slot) ≤ layer) || decide (headsOf (seqAt s c slot) ≤ head)

/-- The parameters of an `Attend` (R153), with the LENGTH snapshot (R57). -/
def attendParams (s : State) (c : Ch) (d : Nat) : AttnParams :=
  let slot := (handleOf (fld d 1023 976)).slot
  { slot, layer := fld d 975 968, head := fld d 967 962, kind := fld d 961 959, qpos0 := fld d 958 931, qn := fld d 930 923 + 1, g := fld d 922 917 + 1,
    window := fld d 916 889, sink := fld d 888 873, tree := BitVec.ofNat 256 (fld d 383 128), pageLo := fld d 872 851, pageHi := fld d 850 829,
    scale := BitVec.ofNat 32 (fld d 828 797), qFmt := BitVec.ofNat 5 (fld d 796 792), oFmt := BitVec.ofNat 5 (fld d 791 787),
    qAddr := fld d 786 763, oAddr := fld d 762 739, select := bit d 738, topk := fld d 737 726 + 1, recent := fld d 725 720,
    beta := BitVec.ofNat 16 (fld d 719 704), stream := bit d 703, massFb := bit d 702, absent := bit d 701, heldEnd := (seqAt s c slot).length.toNat,
    last := lastOf (seqAt s c slot) }

/-- The start of an attention descriptor. -/
def attnStart (p : AttnParams) (subs : List AttnParams) (slots : List Nat) (tag : Nat) : AttnCtx :=
  { cur := p, subs, slots, tile := 0, begun := false, qrows := [], todo := [], chosen := none, rows := [], massLog := [], attended := [], staged := 0, flags := 0,
    minCov := 0xFFFF, tag := BitVec.ofNat 16 tag }

/-- ATTEND (R109 to R135, R153). Reserved bits of the body (R8) are checked between R54 and the first check of R111 (DESIGN CHOICE, log 132). -/
def execAttend (c : Ch) (r : Ring) (env : Env) (s : State) : Host.Outcome State Fault Refusal :=
  .next (runHead s c r 0x01 (fun d s =>
    let s := takeEnv s c env
    let h := handleOf (fld d 1023 976)
    match admitCheck s c r h false with
    | some e => retireSt s c r e
    | none =>
      if lhBad s c h.slot (fld d 975 968) (fld d 967 962) then retireSt s c r .outOfRange
      else if resv d 700 384 ∨ (fld d 961 959 ≠ 4 ∧ resv d 383 128) then retireSt s c r .badField
      else admitUse s c r [h.slot] (fun s =>
        let p := attendParams s c d
        match attnBad s c p true with
        | some e => retireSt s c r e
        | none =>
          if !keyLoaded s (seqAt s c h.slot).owner.toNat then retireSt s c r .keyEmpty
          else runAttn s c r env (attnStart p [] [h.slot] (hdrOf d).tag))))

/-! ## Batches (R157 to R161) -/

/-- P_k: the pages of bucket k. -/
def bucketPages (k : Nat) : Nat :=
  let n := 2 ^ k
  let r := isqrt (k / 2 + 1) n
  if r * r = n then r else r + 1

/-- Bytes of a list entry. -/
def listWidth (grist : Bool) : Nat := if grist then 8 else 16

/-- Entry `i` of the sequence list or the length table. -/
def listEntry (s : State) (c : Ch) (grist : Bool) (d i : Nat) : Nat := t0Num s c (fld d 1012 989 + listWidth grist * i) (listWidth grist)

/-- The parameters of sequence `i` of a batch, its tiles at given offsets. -/
def batchParams (s : State) (c : Ch) (grist : Bool) (d v qa oa : Nat) : AttnParams :=
  let slot := (handleOf (fld v 47 0)).slot
  let e := seqAt s c slot
  let base := e.posBase.toNat
  let held := if grist then e.length.toNat else base + fld v 79 52
  let lo := base / 64
  { slot, layer := fld d 988 981, head := fld d 980 975, kind := fld d 974 972, qpos0 := max base (held - 1), qn := 1, g := fld d 971 966 + 1,
    window := fld d 965 938, sink := fld d 937 922, tree := 0, pageLo := lo,
    pageHi := if grist then lo + bucketPages (fld d 1017 1013) - 1 else max lo ((held - 1) / 64),
    scale := BitVec.ofNat 32 (fld d 921 890), qFmt := BitVec.ofNat 5 (fld d 889 885), oFmt := BitVec.ofNat 5 (fld d 884 880),
    qAddr := qa, oAddr := oa, select := false, topk := 1, recent := 0, beta := 0, stream := false, massFb := bit d 831, absent := bit d 830,
    heldEnd := held, last := lastOf e }

/-- The check of R160 or R161 on a held length. -/
def heldBad (s : State) (c : Ch) (grist : Bool) (d v : Nat) : Bool :=
  let e := seqAt s c (handleOf (fld v 47 0)).slot
  let l := e.length.toNat - e.posBase.toNat
  if grist then l == 0 || decide (64 * bucketPages (fld d 1017 1013) < l) else decide (l < fld v 79 52)

/-- Whether an entry sets reserved bits. -/
def entryResv (grist : Bool) (v : Nat) : Bool := if grist then resv v 63 48 else resv v 51 48 || resv v 127 80

/-- R54 for an entry of a batch. -/
def batchSeqBad (s : State) (c : Ch) (d v : Nat) : Option St :=
  let h := handleOf (fld v 47 0)
  match seqCheck s c h false with
  | some e => some e
  | none => if lhBad s c h.slot (fld d 988 981) (fld d 980 975) then some .outOfRange else none

/-- Checks and parameters of the sequences of a batch from entry `i`: the first that fails with its status, or the parameters of all. -/
def batchPlan (s : State) (c : Ch) (grist : Bool) (d : Nat) : List Nat → Nat → Nat → Except (Nat × St) (List AttnParams)
  | [], _, _ => .ok []
  | i :: is, qa, oa =>
    let v := listEntry s c grist d i
    match batchSeqBad s c d v with
    | some e => .error (i, e)
    | none =>
      let p := batchParams s c grist d v qa oa
      let dim := headDimOf (seqAt s c p.slot).headDim.toNat
      if entryResv grist v then .error (i, .badField)
      else match attnBad s c p (grist || fld v 79 52 != 0) with
        | some e => .error (i, e)
        | none =>
          if heldBad s c grist d v then .error (i, .outOfRange)
          else
            match batchPlan s c grist d is (qa + (tileLayout p.g dim (fmtD p.qFmt.toNat)).qSize) (oa + (tileLayout p.g dim (fmtD p.oFmt.toNat)).size) with
            | .error x => .error x
            | .ok ps => .ok (p :: ps)

/-- The first sequence of a batch whose owner has no key (R449): looked for after the checks of every sequence. -/
def batchKeyless (s : State) (c : Ch) (ps : List AttnParams) : Option Nat :=
  ps.findIdx? (fun p => !keyLoaded s (seqAt s c p.slot).owner.toNat)

/-- Whether a batch body is not allowed: reserved bits, BUCKET or KIND (R158). -/
def batchBad (grist : Bool) (d : Nat) : Bool :=
  resv d 829 128 || (if grist then decide (23 < fld d 1017 1013) else resv d 1017 1013) || !(fld d 974 972 == 0 || fld d 974 972 == 2 || fld d 974 972 == 3)

/-- `AttendGrist` and `AttendRagged` at the ring's head. -/
def batchBody (grist : Bool) (s : State) (c : Ch) (r : Ring) (env : Env) (d : Nat) : State :=
  let is := List.range (fld d 1023 1018 + 1)
  let n := listWidth grist * is.length
  if !inT0 (fld d 1012 989) n ∨ touchesPriv (fld d 1012 989) n then retireSt s c r .badField
  else if batchBad grist d then
    match is.findSome? (fun i => (batchSeqBad s c d (listEntry s c grist d i)).map (fun e => (i, e))) with
    | some (i, e) => retire s c r (cplDet e i)
    | none => retireSt s c r .badField
  else match batchPlan s c grist d is (fld d 879 856) (fld d 855 832) with
    | .error (i, e) => retire s c r (cplDet e i)
    | .ok [] => retireSt s c r .badField
    | .ok (p :: ps) =>
      match batchKeyless s c (p :: ps) with
      | some i => retire s c r (cplDet .keyEmpty i)
      | none =>
        admitUse s c r (dedup ((p :: ps).map (fun x => x.slot))) (fun s =>
          runAttn s c r env (attnStart p ps ((p :: ps).map (fun x => x.slot)) (hdrOf d).tag))

/-- ATTEND_GRIST (R158 to R160). -/
def execAttendGrist (c : Ch) (r : Ring) (env : Env) (s : State) : Host.Outcome State Fault Refusal :=
  .next (runHead s c r 0x02 (fun d s => batchBody true (takeEnv s c env) c r env d))

/-- ATTEND_RAGGED (R158, R159, R161). -/
def execAttendRagged (c : Ch) (r : Ring) (env : Env) (s : State) : Host.Outcome State Fault Refusal :=
  .next (runHead s c r 0x03 (fun d s => batchBody false (takeEnv s c env) c r env d))

/-- PRESENCE_GATE_RELEASE (R164): the gate of a page that an engine waits for has changed; it reads the entry again and goes on from it. -/
def execPresenceGateRelease (c : Ch) (r : Ring) (env : Env) (s : State) : Host.Outcome State Fault Refusal :=
  .next (match (s.ring c r).wait with
    | .presence _ true x => if isUp s c then underOwn s c r (fun s => runAttn (takeEnv s c env) c r env x) else s
    | _ => s)

end Sys2Proof.Machine
end

