-- ==== Sys2Proof/Machine/RegionOps.lean ====
section
/-! DEFINITION. Operations of the shared regions: the checks of a region identity (R348), admission at the region record (R358, R359),
extents and home runs (R226, R350), and the publish (R355). -/

namespace Sys2Proof.Machine
open Sys2Proof

/-- REGION_INDEX of an identity (R77). -/
def regIdx (id : Nat) : Nat := fld id 15 0

/-- Checks 1 to 4 of R348. -/
def regionCheck (s : State) (id : Nat) : Option St :=
  let g := regionAt s (regIdx id)
  if g.state = .retired then some .regionRetired
  else if g.state = .free ∨ g.gen.toNat ≠ fld id 31 16 then some .staleRegion
  else if g.state = .releasing then some .regionRevoked
  else match chOf g.homeCh with
    | some h => if isUp s h then none else some .channelDown
    | none => some .channelDown

/-- What an admission at a region record gives (R359). -/
inductive Admit
  | refuse (e : St)
  | wait (par : Nat)
  | ok (par : Nat)
  deriving DecidableEq, Repr

/-- Rights of a registration (R347). -/
def rightRead : Nat := 0
/-- Write. -/
def rightWrite : Nat := 1
/-- Atomic. -/
def rightAtomic : Nat := 2
/-- Publish. -/
def rightPublish : Nat := 3

/-- The valid registration of a KIND, UNIT and CONN. -/
def findReg (g : Region) (kind unit conn : Nat) : Option Reg :=
  (g.regs.find? (fun e => e.2.valid && e.2.kind == BitVec.ofNat 2 kind && e.2.unit == BitVec.ofNat 4 unit && e.2.conn == BitVec.ofNat 16 conn)).map (fun e => e.2)

/-- The DRAIN count of a parity. -/
def drainOf (g : Region) (par : Nat) : BitVec 24 := if par = 0 then g.drain0 else g.drain1

/-- The admission test of R359, without the count. -/
def admitTest (g : Region) (kind unit conn right : Nat) : Admit :=
  match findReg g kind unit conn with
  | none => .refuse .accessDenied
  | some x =>
    if x.revoked then .refuse .regionRevoked
    else if !x.rights.getLsbD right then .refuse .accessDenied
    else
      let par := g.epoch.toNat % 2
      if drainOf g par = 0xFFFFFF then .wait par else .ok par

/-- Counts an admitted operation in a region's DRAIN. -/
def regionCount (s : State) (idx par : Nat) : State :=
  modRegion s idx (fun g => if par = 0 then { g with drain0 := g.drain0 + 1 } else { g with drain1 := g.drain1 + 1 })

/-- Counts a ring's descriptor in a region's DRAIN until it retires. -/
def ringCount (s : State) (c : Ch) (r : Ring) (idx par : Nat) : State :=
  modRing (regionCount s idx par) c r (fun g => { g with regs := (idx, par) :: g.regs })

/-- The T1 ranges of a region's extents backed on a channel: first byte and length. -/
def extentsOf (s : State) (id : Nat) (c : Ch) : List (Nat × Nat) :=
  (s.island.grants.filter (fun g => g.live && g.region == BitVec.ofNat 32 id && g.ch == c.val)).map (fun g => (g.t1, g.len))

/-- Whether a byte lies within ranges. -/
def inRanges (rs : List (Nat × Nat)) (a : Nat) : Bool := rs.any (fun r => decide (r.1 ≤ a ∧ a < r.1 + r.2))

/-- Whether every 64-byte line of a range lies within ranges. -/
def coveredBy (rs : List (Nat × Nat)) (a n : Nat) : Bool := (linesOf a n).all (fun l => inRanges rs (64 * l))

/-- The home run of any region that holds a T1 byte of a channel (R350), with its region's index. -/
def runAt (s : State) (c : Nat) (a : Nat) : Option (Nat × HomeRun) :=
  s.island.regions.findSome? (fun e =>
    (e.2.runs.find? (fun x => x.ch == c && decide (x.t1Base ≤ a ∧ a < x.t1Base + x.len))).map (fun x => (e.1, x)))

/-- The unit and 4 KiB piece of the unit that a T1 byte of a home run is homed in (R350). -/
def runUnit (x : HomeRun) (a : Nat) : Nat × Nat := (x.lu + (a - x.t1Base) / 16384, (a - x.t1Base) / 4096 % 4)

/-- A publish (R355): whether it won, and the word found. -/
def publish (s : State) (idx : Nat) (expect newRoot : Word64) : Bool × Word64 × Word64 × State :=
  let g := regionAt s idx
  if g.version = expect then (true, g.version, g.root, modRegion s idx (fun g => { g with version := expect + 1, root := newRoot }))
  else (false, g.version, g.root, s)

end Sys2Proof.Machine
end

