-- ==== Sys2Proof/Machine/LinkOps.lean ====
section
/-! DEFINITION. The link port's own operations: connections, packets (R379, R380), the transmitter with its credits (R375), the start of
an operation (R388, R389), and remote windows (R392). -/

namespace Sys2Proof.Machine
open Sys2Proof

/-- A connection. -/
def connAt (s : State) (c : Ch) (k : Nat) : Conn := smGet Conn.closed (s.ch c).link.conns k

/-- Changes a connection. -/
def modConn (s : State) (c : Ch) (k : Nat) (f : Conn → Conn) : State :=
  modLink s c (fun p => { p with conns := smSet Conn.closed p.conns k (f (smGet Conn.closed p.conns k)) })

/-- Connections of a port (R376). -/
def connCount (s : State) (c : Ch) : Nat := 2 ^ fld (s.ch c).cfg.linkCfg.toNat 30 27

/-- Operation codes (R380). -/
def opcWrite : Nat := 0x01
/-- READ_REQ. -/
def opcRead : Nat := 0x02

/-- The fields of a native packet header (R379). -/
structure PktHdr where
  ver   : Nat
  opc   : Nat
  resp  : Bool
  first : Bool
  last  : Bool
  retry : Bool
  dst   : Nat
  src   : Nat
  psn   : Nat
  kind  : Nat
  id    : Nat
  addr  : Nat
  plen  : Nat
  lstat : Nat
  prior : Nat
  rlen  : Nat
  zero  : Nat
  deriving DecidableEq, Repr

/-- Reads a header. -/
def pktHdr (h : BitVec 256) : PktHdr :=
  let w := h.toNat
  { ver := fld w 255 252, opc := fld w 251 244, resp := bit w 243, first := bit w 242, last := bit w 241, retry := bit w 240,
    dst := fld w 239 224, src := fld w 223 208, psn := fld w 207 176, kind := fld w 175 174, id := fld w 173 142, addr := fld w 141 102,
    plen := fld w 101 89, lstat := fld w 88 81, prior := fld w 80 79, rlen := fld w 78 65, zero := fld w 64 0 }

/-- Builds a header. -/
def pktBits (h : PktHdr) : BitVec 256 :=
  BitVec.ofNat 256 (at_ 252 4 1 + at_ 244 8 h.opc + at_ 243 1 (b2n h.resp) + at_ 242 1 (b2n h.first) + at_ 241 1 (b2n h.last)
    + at_ 240 1 (b2n h.retry) + at_ 224 16 h.dst + at_ 208 16 h.src + at_ 176 32 h.psn + at_ 174 2 h.kind + at_ 142 32 h.id
    + at_ 102 40 h.addr + at_ 89 13 h.plen + at_ 81 8 h.lstat + at_ 79 2 h.prior + at_ 65 14 h.rlen)

/-- A packet's header and payload as bytes: the header most significant byte first (R6, R379). -/
def packetBytes (p : Packet) : List Byte := (natLe p.hdr.toNat 32).reverse ++ p.payload

/-- The CRC of a packet: CRC-32C over the header and payload (R379). -/
def packetCrc (p : Packet) : Word32 := crc32c (packetBytes p)

/-- A packet as it is sent. -/
def wireBytes (p : Packet) : List Byte := packetBytes p ++ natLe (packetCrc p).toNat 4

/-- The retransmission of a packet: RETRY set. -/
def asRetry (p : Packet) : Packet := { p with hdr := p.hdr ||| (1#256 <<< 240) }

/-- Starts packets in order while the port is up and the peer has advertised buffers (R375). -/
def pumpSteps : Nat → State → Ch → State
  | 0, s, _ => s
  | n + 1, s, c =>
    let p := (s.ch c).link
    match p.txq with
    | [] => s
    | x :: rest =>
      if p.state = .up ∧ 0 < p.credits then
        pumpSteps n (emit (modLink s c (fun p => { p with txq := rest, credits := p.credits - 1 })) (.packet c.val (wireBytes x))) c
      else s

/-- Starts what can be started. -/
def pump (s : State) (c : Ch) : State := pumpSteps (s.ch c).link.txq.length s c

/-- Hands packets to the transmitter. -/
def sendPkts (s : State) (c : Ch) (ps : List Packet) : State := pump (modLink s c (fun p => { p with txq := p.txq ++ ps })) c

/-- Whether PSN `a` lies ahead of `b`, of `w` bits (R378). -/
def psnAhead (w a b : Nat) : Bool :=
  let d := (a + 2 ^ w - b % 2 ^ w) % 2 ^ w
  d != 0 && decide (d < 2 ^ (w - 1))

/-- (a − b) modulo 2^w. -/
def psnDiff (w a b : Nat) : Nat := (a % 2 ^ w + 2 ^ w - b % 2 ^ w) % 2 ^ w

/-- SND_UNA (R389). -/
def sndUna (k : Conn) : Nat := match k.outs with | [] => k.sndNext | o :: _ => o.first

/-- Operations outstanding on a port. -/
def portOuts (s : State) (c : Ch) : Nat := ((s.ch c).link.conns.map (fun e => e.2.outs.length)).sum

/-- Whether an operation must wait at issue: 1,024 outstanding on the port, or 256 on the connection (R388). -/
def issueWaits (s : State) (c : Ch) (k : Conn) : Bool := decide (1024 ≤ portOuts s c ∨ 256 ≤ k.outs.length)

/-- Packets of a request with a payload. -/
def packetsFor (len : Nat) : Nat := max 1 (ceilDiv len 4096)

/-- Whether an operation of `n` packets would leave the duplicate window (R389). -/
def windowFull (k : Conn) (n : Nat) : Bool := decide (4096 ≤ psnDiff 32 (k.sndNext + n - 1) (sndUna k))

/-- The request packets of an operation (R379): one for each 4,096 bytes of a WRITE, else one. -/
def requestPkts (conn : Nat) (k : Conn) (opc kind id addr rlen : Nat) (payload : List Byte) : List Packet :=
  let cs := if opc = opcWrite then chunks 4096 payload else [payload]
  cs.zipIdx.map (fun (x, i) =>
    let h : PktHdr :=
      { ver := 1, opc, resp := false, first := i == 0, last := i + 1 == cs.length, retry := false, dst := k.params.peerConn.toNat, src := conn,
        psn := (k.sndNext + i) % 2 ^ 32, kind, id, addr := addr + 4096 * i, plen := x.length, lstat := 0, prior := 0, rlen, zero := 0 }
    { hdr := pktBits h, payload := x })

/-- Starts an operation on a connection: consecutive PSNs from SND_NEXT, and the packets to the transmitter (R388). -/
def startOp (s : State) (c : Ch) (conn : Nat) (src : OpSource) (opc kind id addr rlen : Nat) (payload : List Byte) : State :=
  let k := connAt s c conn
  let ps := requestPkts conn k opc kind id addr rlen payload
  let o : OutOp := { first := k.sndNext, last := (k.sndNext + ps.length - 1) % 2 ^ 32, src, packets := ps, retries := 0, waiting := false, read := [] }
  sendPkts (modConn s c conn (fun k => { k with sndNext := (k.sndNext + ps.length) % 2 ^ 32, outs := k.outs ++ [o] })) c ps

/-! ## Remote windows (R392) -/

/-- A remote window. -/
structure Window where
  valid  : Bool
  host   : Bool
  conn   : Nat
  region : Nat
  len    : Nat
  base   : Nat
  deriving DecidableEq, Repr

/-- The fields of a remote window. -/
def windowOf (w : BitVec 128) : Window :=
  let n := w.toNat
  { valid := bit n 127, host := bit n 126, conn := fld n 125 110, region := fld n 109 78, len := fld n 77 45, base := fld n 44 0 }

/-- A remote window of a channel. -/
def windowAt (s : State) (c : Ch) (i : Nat) : Window := windowOf (smGet 0 (s.ch c).link.windows i)

/-- Window index and offset of a T3 LOC (R69). -/
def t3Window (loc : BitVec 45) : Nat := fld loc.toNat 44 33
/-- The offset in 2 KiB units. -/
def t3Offset (loc : BitVec 45) : Nat := fld loc.toNat 32 0

/-- The tweaks of a page's lines at a T3 location (R453). -/
def t3Tweak (c : Ch) (loc : BitVec 45) (i : Nat) : BitVec 128 := tweakT3 c (t3Window loc) (t3Offset loc + i / 32) (i % 32)

/-- Ciphertext of a page for a T3 location (R393). -/
def t3Encrypt (s : State) (c : Ch) (owner : Nat) (loc : BitVec 45) (plain : List Byte) : List Byte :=
  let k := keySlot s owner
  (chunks 64 plain).zipIdx.flatMap (fun (x, i) => xtsEnc k.key1 k.key2 (t3Tweak c loc i) (bsub x 0 64))

/-- Plaintext of a page read from a T3 location. -/
def t3Decrypt (s : State) (c : Ch) (owner : Nat) (loc : BitVec 45) (data : List Byte) : List Byte :=
  let k := keySlot s owner
  (chunks 64 data).zipIdx.flatMap (fun (x, i) => xtsDec k.key1 k.key2 (t3Tweak c loc i) (bsub x 0 64))

/-- The status at the initiator of an LSTAT (R383), by the kind of target. -/
def lstatSt (kind n : Nat) : St :=
  match n with
  | 0x00 => .ok
  | 0x01 => if kind = 1 then .staleAperture else .staleRegion
  | 0x02 => .regionRevoked
  | 0x03 => .accessDenied
  | 0x04 => .outOfRange
  | 0x05 => .regionRetired
  | 0x06 => .badField
  | 0x07 => .dataPoison
  | 0x08 => .channelDown
  | 0x09 => .linkWindowFull
  | 0x0A => .keyEmpty
  | 0x0B => .versionConflict
  | _ => .badField

end Sys2Proof.Machine
end

