-- ==== Sys2Proof/Machine/SieveOps.lean ====
section
/-! DEFINITION. Operations of the prefix Sieve: rows and their images (R178, R194), the search (R182, R188), holes and the plan of an insert
(R187), the landing (R189), removal and its reports (R180, R192), and spare rows (R196, R197). -/

namespace Sys2Proof.Machine
open Sys2Proof

/-- Logical rows of a Sieve (R179). -/
def sieveRows : Nat := 131072

/-! ## Rows -/

/-- The row at a logical index of the array. -/
def rowAt (x : Sieve) (i : Nat) : SieveRow := smGet SieveRow.none x.rows i

/-- Whether an index is usable (R179). -/
def rowUsable (x : Sieve) (i : Nat) : Bool := !x.unusable.contains i

/-- The row image (R178). -/
def rowBits (w : SieveRow) : Nat :=
  at_ 64 128 w.key.toNat + at_ 48 16 w.tag.toNat + at_ 44 4 w.band.toNat + at_ 43 1 (b2n w.valid) + at_ 42 1 (b2n w.transit)
    + at_ 41 1 (b2n w.pinned) + at_ 40 1 (b2n w.user) + w.pb.toNat

/-- The mirror record of an index (R194). -/
def mirrorRecord (i : Nat) (w : SieveRow) : List Byte :=
  let body := natLe (at_ 192 17 i + rowBits { w with transit := false }) 28
  body ++ natLe (crc32c body).toNat 4

/-- The three steps of R185 on an index: the row and its mirror record, which holds TRANSIT 0 (R194). -/
def setRow (x : Sieve) (i : Nat) (w : SieveRow) : Sieve :=
  { x with rows := smSet SieveRow.none x.rows i w, mirror := smSet SieveRow.none x.mirror i { w with transit := false } }

/-- Clears TRANSIT of an index. -/
def clearTransit (x : Sieve) (p : Option Nat) : Sieve :=
  match p with
  | some i => { x with rows := smSet SieveRow.none x.rows i { rowAt x i with transit := false } }
  | none => x

/-- Valid rows that stand in the array or in the pending bring-in: a copy in transit counts once. -/
def validRows (x : Sieve) : List (Nat × SieveRow) := x.rows.filter (fun e => e.2.valid && !e.2.transit)

/-- ROWS_VALID of SIEVE_STATUS (R198). -/
def rowsValid (x : Sieve) : Nat := (validRows x).length + (match x.pend with | some p => b2n p.row.valid | none => 0)

/-! ## The search (R182, R188) -/

/-- Whether a pending row at `t` wins over the lowest matching array index. -/
def pendWins (p : PendRow) (a : Option Nat) : Bool :=
  match a with
  | none => true
  | some i => if p.down then decide (p.target ≤ i) else decide (p.target < i)

/-- The winner at or above index `lo` among the rows that satisfy a test: its index and row. -/
def searchFrom (x : Sieve) (lo : Nat) (m : SieveRow → Bool) : Option (Nat × SieveRow) :=
  let a := x.rows.find? (fun e => decide (lo ≤ e.1) && e.2.valid && rowUsable x e.1 && m e.2)
  match x.pend with
  | some p => if p.row.valid ∧ m p.row ∧ lo ≤ p.target ∧ pendWins p (a.map (fun e => e.1)) then some (p.target, p.row) else a
  | none => a

/-- The masked test of a probe (R182). -/
def probeTest (s : State) (c : Ch) (key : BitVec 128) (tag : Nat) (m : Nat) (w : SieveRow) : Bool :=
  let k := ((s.ch c).cfg.sieveMask.toList.getD (m % 4) 0).toNat
  w.key == key && (w.tag.toNat ^^^ tag) &&& fld k 31 16 == 0 && bit k w.band.toNat

/-- The unmasked test of the duplicate check (R187 step 3). -/
def dupTest (key : BitVec 128) (tag : Nat) (w : SieveRow) : Bool := w.key == key && w.tag.toNat == tag

/-- The locator of R192. -/
def locates (sel : Nat) (key : BitVec 128) (tag pb : Nat) (w : SieveRow) : Bool :=
  match sel with
  | 0 => w.key == key && w.tag.toNat == tag && w.pb.toNat == pb
  | 1 => w.pb.toNat == pb
  | _ => w.key == key && w.tag.toNat == tag

/-! ## Holes and the plan of an insert (R187) -/

/-- Inserts a number into an ascending list. -/
def insNat (l : List Nat) (n : Nat) : List Nat :=
  match l with
  | [] => [n]
  | a :: t => if n < a then n :: a :: t else if n = a then a :: t else a :: insNat t n

/-- Indices that are no holes: valid or unusable, ascending. -/
def noHoles (x : Sieve) : List Nat := x.unusable.foldl insNat ((x.rows.filter (fun e => e.2.valid)).map (fun e => e.1))

/-- The lowest number at or above `i` that an ascending list of numbers at or above `i` leaves out. -/
def gapUp : List Nat → Nat → Nat
  | [], i => i
  | a :: t, i => if a = i then gapUp t (i + 1) else i

/-- The highest number below `i` that a descending list of numbers below `i` leaves out. -/
def gapDown : List Nat → Nat → Option Nat
  | _, 0 => none
  | [], i + 1 => some i
  | a :: t, i + 1 => if a = i then gapDown t i else some i

/-- The lowest hole at or above `i`. -/
def holeAbove (x : Sieve) (i : Nat) : Option Nat :=
  let h := gapUp ((noHoles x).filter (fun a => decide (i ≤ a))) i
  if h < sieveRows then some h else none

/-- The highest hole below `i`. -/
def holeBelow (x : Sieve) (i : Nat) : Option Nat := gapDown ((noHoles x).filter (fun a => decide (a < i))).reverse i

/-- The lowest usable index at or above `i`. -/
def usableUp (x : Sieve) (i : Nat) : Nat := gapUp ((x.unusable.foldl insNat []).filter (fun a => decide (i ≤ a))) i

/-- The highest usable index below `i`. -/
def usableDown (x : Sieve) (i : Nat) : Option Nat := gapDown ((x.unusable.foldl insNat []).filter (fun a => decide (a < i))).reverse i

/-- Usable indices of [lo, hi). -/
def usableIn (x : Sieve) (lo hi : Nat) : Nat := (hi - lo) - (x.unusable.filter (fun a => decide (lo ≤ a ∧ a < hi))).length

/-- BSTART of a band; BSTART[16] is 131,072 (R181). -/
def bstartOf (x : Sieve) (b : Nat) : Nat := x.bstart.toList.getD b sieveRows

/-- Whether an index is a hole. -/
def isHole (x : Sieve) (i : Nat) : Bool := rowUsable x i && !(rowAt x i).valid

/-- The insert index (R187 step 4). -/
def insertIdx (x : Sieve) (b : Nat) (head : Bool) : Nat := if head then bstartOf x b else bstartOf x (b + 1)

/-- The hole at the edge of a band, if one stands there (R187 step 4). -/
def edgeHole (x : Sieve) (b : Nat) (head : Bool) : Option Nat :=
  let i := insertIdx x b head
  if head then (if i < bstartOf x (b + 1) ∧ isHole x i then some i else none)
  else if bstartOf x b + 1 ≤ i ∧ isHole x (i - 1) then some (i - 1) else none

/-- A row for an edge hole. -/
def directRow (w : SieveRow) (i t : Nat) : PendRow :=
  { row := w, target := t, down := false, edge := i, hole := t, total := 0, direct := true, moved := 0, cur := t, prev := none }

/-- A downward shift to hole `j` (log 33: unusable indices are passed over, so the target is the lowest usable index at or above i). -/
def downRow (x : Sieve) (w : SieveRow) (i j : Nat) : PendRow :=
  let t := usableUp x i
  { row := w, target := t, down := true, edge := i, hole := j, total := usableIn x t j, direct := false, moved := 0, cur := j, prev := none }

/-- An upward shift to hole `k`. -/
def upRow (x : Sieve) (w : SieveRow) (i k : Nat) : PendRow :=
  let t := (usableDown x i).getD k
  { row := w, target := t, down := false, edge := i, hole := k, total := usableIn x (k + 1) (t + 1), direct := false, moved := 0, cur := k, prev := none }

/-- The plan of an insert of band `b` (R187 steps 4 to 6); none when there is no hole. -/
def planInsert (x : Sieve) (w : SieveRow) (b : Nat) (head : Bool) : Option PendRow :=
  let i := insertIdx x b head
  match edgeHole x b head with
  | some t => some (directRow w i t)
  | none =>
    match holeAbove x i, holeBelow x i with
    | some j, none => some (downRow x w i j)
    | some j, some k => if j - i ≤ i - 1 - k then some (downRow x w i j) else some (upRow x w i k)
    | none, some k => some (upRow x w i k)
    | none, none => none

/-- RESULT of an insert: t and the shift length. -/
def planResult (p : PendRow) : Cpl := cplRes .ok (at_ 0 17 p.target + at_ 32 17 p.total)

/-- The row of ring 7's insert enters its place once its report is accepted: into the hole at the edge of its band, or as the pending row. -/
def rowEnters (s : State) (c : Ch) (p : PendRow) : State :=
  modSieve s c (fun x => if p.direct then setRow x p.target p.row else { x with pend := some p })

/-! ## The shift (R187 to R191) -/

/-- The index that the next copy of a shift reads: the next usable one from the place it writes towards the target. -/
def shiftSrc (x : Sieve) (p : PendRow) : Nat :=
  if p.down then (usableDown x p.cur).getD p.cur else usableUp x (p.cur + 1)

/-- One copy: the row one place nearer the target goes to the open place, with TRANSIT set; the copy before it is past its shift. -/
def shiftCopy (x : Sieve) (p : PendRow) : Sieve :=
  let src := shiftSrc x p
  let x := setRow (clearTransit x p.prev) p.cur { rowAt x src with transit := true }
  { x with pend := some { p with moved := p.moved + 1, cur := src, prev := some p.cur } }

/-- BSTART after a landing (R189). Where indices next to a band's edge are unusable the edge passes over them as the rows do (log 33). -/
def landBstart (x : Sieve) (p : PendRow) (b : Nat) : Vector Nat 16 :=
  Vector.ofFn (fun (n : Fin 16) =>
    let v := x.bstart[n]
    if p.down then (if b < n.val ∧ p.edge ≤ v ∧ v ≤ p.hole then usableUp x v + 1 else v)
    else if n.val ≤ b ∧ n.val ≠ 0 ∧ p.hole < v ∧ v ≤ p.edge then (usableDown x v).getD p.hole else v)

/-- The landing of the pending row. -/
def shiftLand (x : Sieve) (p : PendRow) : Sieve :=
  let x := setRow (clearTransit x p.prev) p.target p.row
  { x with pend := none, bstart := landBstart x p p.row.band.toNat }

/-- Whether an index lies in the range of a shift: from its target to its hole. -/
def inPlan (p : PendRow) (i : Nat) : Bool :=
  if p.down then decide (p.target ≤ i ∧ i ≤ p.hole) else decide (p.hole ≤ i ∧ i ≤ p.target)

/-- Whether an index lies in the range of the running shift. -/
def inShift (x : Sieve) (i : Nat) : Bool :=
  match x.pend with
  | some p => inPlan p i
  | none => false

/-! ## Reports (R180) -/

/-- A Sieve reports a change of a row to the home channel of its block. -/
def reportRow (s : State) (c : Ch) (answer insert : Bool) (pb : BitVec 40) : State :=
  match chOf (pbIndexOf pb.toNat).home with
  | some h => modRefPort s h (fun p => { p with reports := p.reports ++ [{ from_ := c.val, answer, insert, pb }] })
  | none => s

/-- Reports of removed rows. -/
def reportAll (s : State) (c : Ch) (answer : Bool) (pbs : List (BitVec 40)) : State :=
  pbs.foldl (fun t v => reportRow t c answer false v) s

/-! ## Paired frames (R202) -/

/-- A paired-mode frame: TYPE, A, B and even parity. -/
def pairFrame (type a b : Nat) : BitVec 40 :=
  let v := at_ 37 3 type + at_ 19 18 a + at_ 1 18 b
  BitVec.ofNat 40 (v + popcount v 40 % 2)

/-- No index in a paired frame. -/
def pairNone : Nat := 0x3FFFF

/-- PAIR_ROLE of a channel. -/
def pairRole (s : State) (c : Ch) : Nat := fld (s.ch c).cfg.sieveCfg.toNat 6 5

/-- Sends a paired-mode frame. -/
def sendPair (s : State) (c : Ch) (type a b : Nat) : State := emit s (.pair c.val (pairFrame type a b))

/-- A paired device that loses or spares an index, or that locates rows alone as the leader, sends its partner a DROP frame for each (R203). -/
def sendDrops (s : State) (c : Ch) (idx : List Nat) : State :=
  if pairRole s c = 0 then s else idx.foldl (fun t i => sendPair t c 3 i 0) s

/-! ## Removal (R192) -/

/-- What a removal takes: the array rows that a test picks (usable, or in the pending bring-in), and whether it takes the pending row. -/
structure Taken where
  idx  : List Nat
  pend : Bool
  pbs  : List (BitVec 40)
  deriving DecidableEq, Repr

/-- Whether a removal acts on a row. -/
def removable (force : Bool) (m : SieveRow → Bool) (w : SieveRow) : Bool := w.valid && m w && (force || !w.pinned)

/-- The rows that a removal takes; a copy in transit counts once. -/
def takeRows (x : Sieve) (force : Bool) (m : SieveRow → Bool) : Taken :=
  let rs := x.rows.filter (fun e => (rowUsable x e.1 || x.sparing.contains e.1) && removable force m e.2)
  let p := match x.pend with | some p => removable force m p.row | none => false
  { idx := rs.map (fun e => e.1), pend := p,
    pbs := (rs.filter (fun e => !e.2.transit)).map (fun e => e.2.pb) ++ (match x.pend with | some q => if p then [q.row.pb] else [] | none => []) }

/-- Invalidates an index: its other fields stay, its mirror record is rewritten invalid (R185, R192). -/
def dropRow (x : Sieve) (i : Nat) : Sieve := setRow x i { rowAt x i with valid := false, transit := false }

/-- The one array handshake of a removal. -/
def removeTaken (x : Sieve) (t : Taken) : Sieve :=
  let x := t.idx.foldl dropRow x
  if t.pend then { x with pend := x.pend.map (fun p => { p with row := { p.row with valid := false } }) } else x

/-- The indices of a removal, the pending row under its target. -/
def takenIdx (x : Sieve) (t : Taken) : List Nat := t.idx ++ (match x.pend with | some p => if t.pend then [p.target] else [] | none => [])

/-- The removal that a home channel asks for (R193): MATCH_SEL 1 and FORCE 1; its reports wait for no answer. -/
def removeBlock (s : State) (c : Ch) (v : BitVec 40) : State :=
  let x := (s.ch c).sieve
  let t := takeRows x true (fun w => w.pb == v)
  sendDrops (reportAll (modSieve s c (fun x => removeTaken x t)) c false t.pbs) c (takenIdx x t)

/-! ## Spare rows (R196, R197) -/

/-- The detail of an event about an index. -/
def idxDetail (i : Nat) : List Byte := natLe i 3

/-- The physical row that serves a logical index (R179). -/
def physOf (x : Sieve) (i : Nat) : Nat := smGet i x.phys i

/-- The lowest spare physical row that neither serves an index nor has failed (log 19). -/
def nextSpare (x : Sieve) : Option Nat :=
  ((List.range 4096).map (fun k => sieveRows + k)).find? (fun p => !x.bad.contains p && !x.phys.any (fun e => e.2 == p))

/-- A physical row has failed: its index is unusable at once; a spare waits for it, or with none left the row is lost and ROWS_USABLE
falls. A paired device tells its partner of the index, whether or not a valid row stood there (R203): at the failure, where the index stops
matching, also where a spare comes in later (DESIGN CHOICE, log 156: R203 does not say at which of the two a spared index is told). -/
def rowFails (s : State) (c : Ch) (i : Nat) : State :=
  let x := (s.ch c).sieve
  let s := if x.unusable.contains i then s else modSieve s c (fun x => { x with bad := x.bad ++ [physOf x i], phys := smDel x.phys i })
  if x.unusable.contains i then s
  else if x.sparing.length < x.spares then
    sendDrops (modSieve s c (fun x => { x with unusable := x.unusable ++ [i], sparing := x.sparing ++ [i] })) c [i]
  else
    let w := rowAt x i
    let s := modSieve s c (fun x => { dropRow x i with unusable := x.unusable ++ [i], usable := x.usable - 1 })
    let s := sendDrops (if w.valid then reportRow s c false false w.pb else s) c [i]
    raiseC s c 0x0402 sevWarn (natLe (s.ch c).sieve.usable 3)

/-- A spare is remapped to an index and the row is written into it from the mirror (R196). -/
def spareIn (s : State) (c : Ch) (i : Nat) : State :=
  if !(s.ch c).sieve.sparing.contains i then s
  else
    let s := modSieve s c (fun x =>
      let w := smGet SieveRow.none x.mirror i
      { setRow x i w with unusable := x.unusable.filter (fun a => a != i), sparing := x.sparing.filter (fun a => a != i),
                          rewrites := smDel x.rewrites i, spares := x.spares - 1,
                          phys := match nextSpare x with | some p => smPut x.phys i p | none => x.phys })
    raiseSpare (raiseC s c 0x0401 sevInfo (idxDetail i)) c 1 i

/-- Every waiting spare comes in: at a start, where no descriptor stands. -/
def spareAll (s : State) (c : Ch) : State := (s.ch c).sieve.sparing.foldl (fun t i => spareIn t c i) s

/-- The waiting spares whose logical index holds no row come in, within an insert (R44, R197). R187 speaks of any unusable index whose spare
waits; an index that gets a valid row back makes no hole and would change what the insert's own duplicate search has seen, so R44's words
bound it (DEDUCED, log 157). -/
def spareHoles (s : State) (c : Ch) : State :=
  let x := (s.ch c).sieve
  (x.sparing.filter (fun i => !(smGet SieveRow.none x.mirror i).valid)).foldl (fun t i => spareIn t c i) s

end Sys2Proof.Machine
end

