-- ==== Sys2Proof/Machine/ObjCmds.lean ====
section
/-! DEFINITION. The object commands of ring 8 and their events: `SeqOpen`, `SeqClose`, `Attach`, `BlockCreate`, `Prune`, `SetProtect`,
`TilthScan`, `Sweep` (R51 to R57, R169, R170, R205 to R231). -/

namespace Sys2Proof.Machine
open Sys2Proof

/-! ## SeqOpen and SeqClose -/

/-- Whether key and value formats fit a sequence (R56, R83): allowed in their roles, and Tilth formats only at HEAD_DIM 128 or 256. -/
def formatsOk (hd kf vf : Nat) : Bool :=
  match fmtOf kf, fmtOf vf with
  | some k, some v => k.k && v.v && (!(k.elem == .tilth || v.elem == .tilth) || hd == 2 || hd == 4)
  | _, _ => false

/-- The sequence that a `SeqOpen` opens (R169). -/
def openEntry (d : Nat) (gen : BitVec 16) : SeqEntry :=
  { SeqEntry.free with
    gen, state := .active, modelTag := BitVec.ofNat 16 (fld d 975 960), layersM1 := BitVec.ofNat 8 (fld d 959 952),
    headsM1 := BitVec.ofNat 6 (fld d 951 946), headDim := BitVec.ofNat 3 (fld d 945 943), posBase := BitVec.ofNat 28 (fld d 942 915),
    owner := BitVec.ofNat 12 (fld d 914 903), kFmt := BitVec.ofNat 5 (fld d 902 898), vFmt := BitVec.ofNat 5 (fld d 897 893),
    lossOk := bit d 892, ring := bit d 891, sinkPages := BitVec.ofNat 4 (fld d 890 887), ringPages := BitVec.ofNat 22 (fld d 886 865) }

/-- The checks of R170 but the last; none when they pass. -/
def openBad (s : State) (c : Ch) (d : Nat) : Option St :=
  let h := handleOf (fld d 1023 976)
  let hd := fld d 945 943
  let ring := bit d 891
  let sink := fld d 890 887
  let span := fld d 886 865
  let pos := fld d 942 915
  if 12 ≤ h.home ∨ seqSlots s c ≤ h.slot then some .outOfRange
  else if h.home ≠ c.val then some .wrongChannel
  else if resv d 864 128 ∨ h.gen ≠ 0 ∨ pos % 64 ≠ 0 ∨ (ring ∧ (pos ≠ 0 ∨ span < 2)) ∨ (!ring ∧ (sink ≠ 0 ∨ span ≠ 0)) then some .badField
  else if 5 ≤ hd then some .badShape
  else if !formatsOk hd (fld d 902 898) (fld d 897 893) then some .badFormat
  else if !keyInCh s c (fld d 914 903) then some .accessDenied
  else match (seqAt s c h.slot).state with
    | .free => none
    | .retired => some .slotRetired
    | _ => some .slotBusy

/-- The effect of a `SeqOpen` that passes: directory nodes, entry, SLOT record, and the handle in RESULT. -/
def openRun (s : State) (c : Ch) (r : Ring) (d : Nat) : State :=
  let slot := (handleOf (fld d 1023 976)).slot
  let gen := (seqAt s c slot).gen
  match allocRun s c (dirNodes (fld d 959 952 + 1) (fld d 951 946 + 1) slot) with
  | none => retireSt s c r .nodesFull
  | some s =>
    let s := setSeq s c slot { openEntry d gen with dirNode := BitVec.ofNat 24 (nodeOf s c (.dir slot 0)) }
    retire (jSlot s c slot) c r (cplRes .ok (handleBits gen.toNat c.val slot))

/-- SEQ_OPEN (R169, R170). -/
def execSeqOpen (c : Ch) (r : Ring) (s : State) : Host.Outcome State Fault Refusal :=
  .next (runHead s c r 0x40 (fun d s => match openBad s c d with
    | some e => retireSt s c r e
    | none => openRun s c r d))

/-- The entries that the ring's `Drop`, `Prune` or `SeqClose` has still to act on, with the pages acted on and skipped, when it waits between two and is
of an opcode. -/
def droppingOf (s : State) (c : Ch) (r : Ring) (op : Nat) : Option (List Nat × Nat × Nat) :=
  match (s.ring c r).wait with
  | .dropping ks a b => if isUp s c && fld (headDesc s c r) 127 120 == op then some (ks, a, b) else none
  | _ => none

/-- SEQ_CLOSE (R52, R53): the slot becomes Closing; the close goes on when USE_COUNT is 0. -/
def execSeqClose (c : Ch) (r : Ring) (s : State) : Host.Outcome State Fault Refusal :=
  .next (match droppingOf s c r 0x41 with
    | some (ks, _, _) => underOwn s c r (closeGo c r (handleOf (fld (headDesc s c r) 1023 976)).slot ks)
    | none => runHead s c r 0x41 (fun d s =>
      let h := handleOf (fld d 1023 976)
      match seqCheck s c h true with
      | some e => retireSt s c r e
      | none =>
        if resv d 975 128 then retireSt s c r .badField
        else
          let s := jSlot (modSeq s c h.slot (fun e => { e with state := .closing })) c h.slot
          if (seqAt s c h.slot).useCount = 0 then closeRetire s c r h.slot else setWait s c r (.closeDrain h.slot)))

/-- SEQ_CLOSE_RELEASE (R53): USE_COUNT of the Closing slot has reached 0. -/
def execSeqCloseRelease (c : Ch) (s : State) : Host.Outcome State Fault Refusal :=
  .next (allRings.foldl (fun t r => match (t.ring c r).wait with
    | .closeDrain slot => if isUp t c && (seqAt t c slot).useCount == 0 then closeRetire t c r slot else t
    | _ => t) s)

/-! ## BlockCreate (R210, R211) -/

/-- Check 3 of `BlockCreate`: its PARENT. A home channel that is down refuses by R21. -/
def parentBad (s : State) (c : Ch) (parent p : Nat) : Option St :=
  if parent = pbNone.toNat then (if p = 0 then none else some .stalePrefix)
  else match chOf (pbIndexOf parent).home with
    | none => some .stalePrefix
    | some h =>
      if h ≠ c ∧ !isUp s h then some .channelDown
      else if pbLive s parent ∧ (pbAt s h (pbIndexOf parent).slot).blockNo.toNat + 1 = p then none
      else some .stalePrefix

/-- Whether an entry may go into a block: check 4 of `BlockCreate`. -/
def blockPageOk (e : Pte) : Bool := e.kind == .priv && decide (64 ≤ e.fill.toNat) && !e.poison && e.tier != 3 && e.pgate == 0xFFF

/-- The checks of `BlockCreate` after R54, but the last. -/
def createBad (s : State) (c : Ch) (d slot : Nat) : Option Cpl :=
  let e := seqAt s c slot
  let p := fld d 975 954
  let pb := fld d 953 930
  if pbSlots s c ≤ pb then some (cplSt .outOfRange)
  else if (pbAt s c pb).used then some (cplSt .slotBusy)
  else if e.ring then some (cplSt .badShape)
  else match parentBad s c (fld d 801 762) p with
    | some x => some (cplSt x)
    | none =>
      match (pairsOf (layersOf e) (headsOf e)).find? (fun q => !blockPageOk (pteAt s c (pteKey slot q.1 q.2 p))) with
      | some q => some (cplDet .pageState (q.1 * headsOf e + q.2))
      | none => none

/-- Whether PREFIX_PB moves to a new block of page `p` (effect 5). -/
def prefixMoves (s : State) (c : Ch) (e : SeqEntry) (p : Nat) : Bool :=
  let v := e.prefixPb.toNat
  e.prefixPb == pbNone || !pbNames s c v || decide ((pbAt s c (pbIndexOf v).slot).blockNo.toNat < p)

/-- One page's conversion: its record, its Shared entry, and its summary's owner. -/
def convertPage (s : State) (c : Ch) (slot pb p idx : Nat) (q : Nat × Nat) : State :=
  let key := pteKey slot q.1 q.2 p
  let e := pteAt s c key
  let s := setRec s c (recKey pb q.1 q.2) { e with kind := .shared, refcnt := 1 }
  let s := setPte s c key { Pte.empty with kind := .shared, loc := BitVec.ofNat 45 idx }
  modSumm s c e.summIdx.toNat (fun m => { m with ownerKind := true, ownerRef := BitVec.ofNat 40 idx })

/-- The effect of a `BlockCreate` that passes. -/
def createRun (s : State) (c : Ch) (r : Ring) (d slot : Nat) : State :=
  let e := seqAt s c slot
  let p := fld d 975 954
  let pb := fld d 953 930
  match allocRun s c (pbNodes (layersOf e) (headsOf e) pb) with
  | none => retireSt s c r .nodesFull
  | some s =>
    let gen := (pbAt s c pb).pbGen
    let idx := pbIndexBits c.val gen.toNat pb
    let b : PbSlot := { used := true, pbGen := gen, firstNode := BitVec.ofNat 24 (nodeOf s c (.pb pb 0)), key := BitVec.ofNat 128 (fld d 929 802),
                        modelTag := e.modelTag, state := .live, layersM1 := e.layersM1, headsM1 := e.headsM1, headDim := e.headDim,
                        kFmt := e.kFmt, vFmt := e.vFmt, blockNo := BitVec.ofNat 22 p, parent := BitVec.ofNat 40 (fld d 801 762), owner := e.owner }
    let s := setPb s c pb b
    let s := (pairsOf (layersOf e) (headsOf e)).foldl (fun t q => convertPage t c slot pb p idx q) s
    let s := if prefixMoves s c e p then modSeq s c slot (fun x => { x with prefixPb := BitVec.ofNat 40 idx }) else s
    retire s c r (cplRes .ok idx)

/-- BLOCK_CREATE (R210, R211). The positions of check 6 of R54 are those of page PAGE. -/
def execBlockCreate (c : Ch) (r : Ring) (s : State) : Host.Outcome State Fault Refusal :=
  .next (runHead s c r 0x44 (fun d s =>
    let h := handleOf (fld d 1023 976)
    let p := fld d 975 954
    match admitCheck s c r h false with
    | some e => retireSt s c r e
    | none =>
      let q := seqAt s c h.slot
      if 64 * p < q.posBase.toNat ∨ q.length.toNat < 64 * p + 64 then retireSt s c r .outOfRange
      else if resv d 761 128 then retireSt s c r .badField
      else admitUse s c r [h.slot] (fun s =>
        if (pairsOf (layersOf q) (headsOf q)).any (fun x => appendHolds s c (pteKey h.slot x.1 x.2 p)) then stay s c r
        else match createBad s c d h.slot with
        | some x => retire s c r x
        | none => createRun s c r d h.slot)))

/-! ## Attach (R212, R213) -/

/-- Whether a block's shape is that of a sequence (R75). -/
def sameShape (e : SeqEntry) (b : PbSlot) : Bool :=
  e.modelTag == b.modelTag && e.layersM1 == b.layersM1 && e.headsM1 == b.headsM1 && e.headDim == b.headDim && e.kFmt == b.kFmt && e.vFmt == b.vFmt

/-- The checks of `Attach` after R54, but the last. -/
def attachBad (s : State) (c : Ch) (slot v : Nat) : Option St :=
  let e := seqAt s c slot
  if (pbIndexOf v).home ≠ c.val then some .wrongChannel
  else if !pbLive s v then some .stalePrefix
  else
    let b := pbAt s c (pbIndexOf v).slot
    let p := b.blockNo.toNat
    let q := pteAt s c (pteKey slot 0 0 (p - 1))
    if e.ring ∨ !sameShape e b ∨ 64 * p ≠ max e.length.toNat e.posBase.toNat then some .badShape
    else if b.owner ≠ e.owner then some .ownerMismatch
    else if e.posBase.toNat / 64 < p ∧ !(q.kind == .shared && fld q.loc.toNat 39 0 == b.parent.toNat) then some .chainBreak
    else if (pairsOf (layersOf e) (headsOf e)).any (fun x => (walkPte s c slot x.1 x.2 p).kind != .empty) then some .pageState
    else none

/-- The effect of an `Attach` that passes. -/
def attachRun (s : State) (c : Ch) (r : Ring) (slot v : Nat) : State :=
  let e := seqAt s c slot
  let pb := (pbIndexOf v).slot
  let p := (pbAt s c pb).blockNo.toNat
  let ps := pairsOf (layersOf e) (headsOf e)
  match growMaps s c slot (ps.map (fun q => (q.1, q.2, p))) with
  | none => retireSt s c r .nodesFull
  | some s =>
    let s := incBlock s c pb
    let x : Pte := { Pte.empty with kind := .shared, loc := BitVec.ofNat 45 v }
    let s := ps.foldl (fun t q => setPte t c (pteKey slot q.1 q.2 p) x) s
    retireSt (modSeq s c slot (fun e => { e with length := BitVec.ofNat 29 (64 * p + 64), prefixPb := BitVec.ofNat 40 v, written := true })) c r .ok

/-- ATTACH (R212, R213). -/
def execAttach (c : Ch) (r : Ring) (s : State) : Host.Outcome State Fault Refusal :=
  .next (runHead s c r 0x42 (fun d s =>
    let h := handleOf (fld d 1023 976)
    let v := fld d 975 936
    match admitCheck s c r h false with
    | some e => retireSt s c r e
    | none =>
      if resv d 935 128 then retireSt s c r .badField
      else admitUse s c r [h.slot] (fun s =>
        let e := seqAt s c h.slot
        let p := (pbAt s c (pbIndexOf v).slot).blockNo.toNat
        if (pairsOf (layersOf e) (headsOf e)).any (fun x => appendHolds s c (pteKey h.slot x.1 x.2 p)) then stay s c r
        else match attachBad s c h.slot v with
        | some e => retireSt s c r e
        | none => if changeWaits s c (some r) (pbIndexOf v).slot then holdRing s c r else attachRun s c r h.slot v)))

/-! ## Ranges of pages (R167, R219, R224) -/

/-- A range of layers, KV heads and pages. -/
structure PageRange where
  layerLo : Nat
  layerHi : Nat
  headLo  : Nat
  headHi  : Nat
  pageLo  : Nat
  pageHi  : Nat
  deriving DecidableEq, Repr

/-- The page number that a key's entry stands for: its entry number, or in a ring the page that its summary names (R62). -/
def keyPage (s : State) (c : Ch) (e : SeqEntry) (key : Nat) (p : Pte) : Nat :=
  if e.ring ∧ e.sinkPages.toNat ≤ pteEntry key then
    (match smGet? (s.marl c).frozen key with | some m => m.pn.toNat | none => pageNumOf s c p (pteEntry key))
  else pteEntry key

/-- Whether a page number lies within a range. -/
def inPages (x : PageRange) (p : Nat) : Bool := decide (x.pageLo ≤ p ∧ p ≤ x.pageHi)

/-- Insertion of a key by layer, KV head, page number. -/
def pageOrder (a b : Nat × Nat × Pte) : Bool := decide (a.1 / 2 ^ 22 < b.1 / 2 ^ 22 ∨ (a.1 / 2 ^ 22 = b.1 / 2 ^ 22 ∧ a.2.1 ≤ b.2.1))

/-- The entries of a sequence within a range that are not Empty, with their page numbers, in layer, KV head, page order (R250). -/
def entriesIn (s : State) (c : Ch) (slot : Nat) (x : PageRange) : List (Nat × Nat × Pte) :=
  let e := seqAt s c slot
  let ks := (seqPtes s c slot).filter (fun k => decide (x.layerLo ≤ pteLayer k.1 ∧ pteLayer k.1 ≤ x.layerHi ∧ x.headLo ≤ pteHead k.1 ∧ pteHead k.1 ≤ x.headHi))
  let ps := (ks.map (fun k => (k.1, keyPage s c e k.1 k.2, k.2))).filter (fun k => inPages x k.2.1)
  if e.ring then sortBy pageOrder ps else ps

/-- Whether the layers and KV heads of a range leave a shape. -/
def rangeOut (x : PageRange) (layers heads : Nat) : Bool :=
  decide (layers ≤ x.layerLo ∨ layers ≤ x.layerHi ∨ heads ≤ x.headLo ∨ heads ≤ x.headHi)

/-! ## Prune (R219) -/

/-- What `Prune` makes of one entry: it leaves it, skips it, prunes it, waits for a sweep, or ends for want of a summary. -/
inductive PruneStep
  | left
  | skip
  | done (s : State)
  | hold
  | full

/-- The Pruned entry that a page leaves (R69). -/
def prunedPte (fill : BitVec 7) (summ : BitVec 24) : Pte := { Pte.empty with kind := .pruned, fill, pgate := 0xFFF, summIdx := summ }

/-- The action on a Private page that is not skipped: released and made Pruned (R219). -/
def prunePrivate (s : State) (c : Ch) (key : Nat) : State :=
  let p := pteAt s c key
  setPte (releasePage s c p) c key (prunedPte p.fill p.summIdx)

/-- Whether a page is skipped for its gate or its protection. -/
def pruneSkips (s : State) (c : Ch) (p : Pte) (force : Bool) : Bool :=
  p.pgate != 0xFFF || (!force && (match smGet? (s.ch c).obj.summs p.summIdx.toNat with | some m => m.protect != 0 | none => false))

/-- The action on one entry. A Shared entry whose block fails R75's slot test names no page and is left. -/
def pruneOne (s : State) (c : Ch) (r : Ring) (slot : Nat) (force : Bool) (key : Nat) : PruneStep :=
  let p := pteAt s c key
  match p.kind with
  | .empty => .left
  | .pruned => .left
  | .priv => if pruneSkips s c p force then .skip else .done (prunePrivate s c key)
  | .shared =>
    let v := fld p.loc.toNat 39 0
    if !pbNames s c v then .left
    else
      let pb := (pbIndexOf v).slot
      let k := recKey pb (pteLayer key) (pteHead key)
      let q := recAt s c k
      if pruneSkips s c q force then .skip
      else if changeWaits s c (some r) pb then .hold
      else
        let own : BitVec 40 := BitVec.ofNat 40 (at_ 28 4 c.val + slot)
        match (smGet? (s.ch c).obj.summs q.summIdx.toNat).bind (fun m => allocSumm s c { m with ownerKind := false, ownerRef := own }) with
        | none => .full
        | some (i, t) => .done (decRecs (setPte t c key (prunedPte q.fill (BitVec.ofNat 24 i))) c pb [k])

/-- Whether a page's T3 request is outstanding. -/
def movingT3 (s : State) (c : Ch) (key : Nat) : Bool :=
  allRings.any (fun q => match (s.ring c q).wait with
    | .moves x => x.moves.any (fun m => !m.isPb && m.key == key && m.wait3 && !m.ended)
    | _ => false)

/-- RESULT of a `Prune`. -/
def pruneCpl (e : St) (pruned skipped : Nat) : Cpl := cplRes e (at_ 0 24 pruned + at_ 24 24 skipped)

/-- Prunes the entries that are left, in order: the unit waits at a release while the release log is full (R237), for an `Append` that holds the entry
(R252), for a page whose T3 request is outstanding (DESIGN CHOICE, log 171), and for a sweep (R228). -/
def pruneGo (c : Ch) (r : Ring) (slot : Nat) (force : Bool) : List Nat → Nat → Nat → State → State
  | [], n, m, s => retire s c r (pruneCpl .ok n m)
  | k :: ks, n, m, s =>
    if logFullFor s c r then setWait (noteFull s c) c r (.dropping (k :: ks) n m)
    else if appendHolds s c k ∨ movingT3 s c k then setWait s c r (.dropping (k :: ks) n m)
    else match pruneOne s c r slot force k with
      | .left => pruneGo c r slot force ks n m s
      | .skip => pruneGo c r slot force ks n (m + 1) s
      | .done t => pruneGo c r slot force ks (n + 1) m t
      | .hold => setWait (queueRing s c r) c r (.dropping (k :: ks) n m)
      | .full => retire s c r (pruneCpl .summaryFull n m)

/-- The range of `Prune`. -/
def pruneRange (d : Nat) : PageRange :=
  { layerLo := fld d 975 968, layerHi := fld d 967 960, headLo := fld d 959 954, headHi := fld d 953 948, pageLo := fld d 947 926, pageHi := fld d 925 904 }

/-- PRUNE (R219, R220). -/
def execPrune (c : Ch) (r : Ring) (s : State) : Host.Outcome State Fault Refusal :=
  .next (match droppingOf s c r 0x45 with
    | some (ks, n, m) =>
      let d := headDesc s c r
      underOwn s c r (pruneGo c r (handleOf (fld d 1023 976)).slot (bit d 903) ks n m)
    | none => runHead s c r 0x45 (fun d s =>
      let h := handleOf (fld d 1023 976)
      match admitCheck s c r h false with
      | some e => retireSt s c r e
      | none =>
        let e := seqAt s c h.slot
        let x := pruneRange d
        if rangeOut x (layersOf e) (headsOf e) then retireSt s c r .outOfRange
        else if resv d 902 128 then retireSt s c r .badField
        else if !e.lossOk then retireSt s c r .lossDenied
        else admitUse s c r [h.slot] (fun s => pruneGo c r h.slot (bit d 903) ((entriesIn s c h.slot x).map (fun k => k.1)) 0 0 s)))

/-! ## SetProtect and TilthScan -/

/-- Writes PROTECT in the summaries of entries. -/
def protectAll (s : State) (c : Ch) (v : BitVec 2) (summs : List Nat) : State :=
  summs.foldl (fun t i => modSumm t c i (fun m => rescore t c { m with protect := v })) s

/-- The range of `SetProtect`. -/
def protectRange (d : Nat) : PageRange :=
  { layerLo := fld d 973 966, layerHi := fld d 965 958, headLo := fld d 957 952, headHi := fld d 951 946, pageLo := fld d 945 924, pageHi := fld d 923 902 }

/-- `SetProtect` on a block of this channel. -/
def protectBlock (s : State) (c : Ch) (r : Ring) (d : Nat) : State :=
  let v := fld d 1023 976
  let x := protectRange d
  let i := pbIndexOf v
  if resv v 47 40 ∨ x.pageLo ≠ 0 ∨ x.pageHi ≠ 0 ∨ resv d 899 128 then retireSt s c r .badField
  else if i.home ≠ c.val then retireSt s c r .wrongChannel
  else if !pbLive s v then retireSt s c r .stalePrefix
  else
    let b := pbAt s c i.slot
    if rangeOut x (pbLayers b) (pbHeads b) then retireSt s c r .outOfRange
    else
      let ks := (pairsOf (pbLayers b) (pbHeads b)).filter (fun q => decide (x.layerLo ≤ q.1 ∧ q.1 ≤ x.layerHi ∧ x.headLo ≤ q.2 ∧ q.2 ≤ x.headHi))
      let summs := ks.map (fun q => (recAt s c (recKey i.slot q.1 q.2)).summIdx.toNat)
      retire (protectAll s c (BitVec.ofNat 2 (fld d 901 900)) summs) c r (cplRes .ok (at_ 0 24 summs.length))

/-- SET_PROTECT (R224). -/
def execSetProtect (c : Ch) (r : Ring) (s : State) : Host.Outcome State Fault Refusal :=
  .next (runHead s c r 0x46 (fun d s =>
    if 2 ≤ fld d 975 974 then retireSt s c r .badField
    else if fld d 975 974 = 1 then protectBlock s c r d
    else
      let h := handleOf (fld d 1023 976)
      match admitCheck s c r h false with
      | some e => retireSt s c r e
      | none =>
        let e := seqAt s c h.slot
        let x := protectRange d
        if rangeOut x (layersOf e) (headsOf e) then retireSt s c r .outOfRange
        else if resv d 899 128 then retireSt s c r .badField
        else admitUse s c r [h.slot] (fun s =>
          let summs := ((entriesIn s c h.slot x).filter (fun k => k.2.2.kind == .priv)).map (fun k => k.2.2.summIdx.toNat)
          retire (protectAll s c (BitVec.ofNat 2 (fld d 901 900)) summs) c r (cplRes .ok (at_ 0 24 summs.length)))))

/-- The order of a scan's report. -/
def scanLe (a b : Nat × Nat) : Bool := decide (a.1 < b.1 ∨ (a.1 = b.1 ∧ a.2 ≤ b.2))

/-- TILTH_SCAN (R225). -/
def execTilthScan (c : Ch) (r : Ring) (s : State) : Host.Outcome State Fault Refusal :=
  .next (runHead s c r 0x47 (fun d s =>
    let first := fld d 1023 1000
    let count := fld d 999 976 + 1
    let mx := fld d 975 964 + 1
    let dest := fld d 963 940
    if resv d 937 128 then retireSt s c r .badField
    else if summSlots s c < first + count then retireSt s c r .outOfRange
    else if dest % 64 ≠ 0 ∨ !inT0 dest (8 * mx) ∨ touchesPriv dest (8 * mx) then retireSt s c r .badField
    else
      let touch := (s.ch c).obj.touch
      let ms := (s.ch c).obj.summs.filter (fun e => decide (first ≤ e.1 ∧ e.1 < first + count))
      let sc := (ms.map (fun e => ((currentScore s c touch e.2).toNat, e.1))).filter (fun e => decide (e.1 / 16384 ≤ fld d 939 938))
      let rep := (sortBy scanLe sc).take mx
      let s := t0Write s c dest (rep.flatMap (fun e => natLe (at_ 40 24 e.2 + at_ 24 16 e.1) 8))
      retire s c r (cplRes .ok (at_ 0 16 rep.length + at_ 24 24 ms.length))))

/-! ## Sweep (R226 to R228) -/

/-- Whether a block lies in a region (R226). -/
def blockInRegion (s : State) (c : Ch) (slot id : Nat) : Bool :=
  (pbRecKeys s c slot).any (fun k =>
    let e := recAt s c k
    e.tier == 1 && (linesOf (frameAddr e.loc) (classBytes e.cls.toNat)).any (fun l => inRanges (extentsOf s id c) (64 * l)))

/-- The blocks in a sweep's scope: Live or Poisoned, of this channel. -/
def sweepBlocks (s : State) (c : Ch) (scope : Bool) (id : Nat) : List Nat :=
  (((s.ch c).obj.pbs.filter (fun e => e.2.used && (e.2.state == .live || e.2.state == .poisoned))).map (fun e => e.1)).filter
    (fun slot => scope || blockInRegion s c slot id)

/-- S of a record: sequences whose entry for its layer, KV head and BLOCK_NO is Shared and names its block (R205). -/
def sharers (s : State) (c : Ch) (slot layer head : Nat) : Nat :=
  let b := pbAt s c slot
  let v := pbIndexAt s c slot
  ((s.ch c).obj.seqs.filter (fun e => (e.2.state == .active || e.2.state == .frozen || e.2.state == .closing) &&
    (let p := pteAt s c (pteKey e.1 layer head b.blockNo.toNat); p.kind == .shared && fld p.loc.toNat 39 0 == v))).length

/-- Recounts one block under the counts Q, and frees it when nothing holds it (R227 steps 4, 5); gives the records stuck. -/
def recount (s : State) (c : Ch) (q : SMap Nat) (slot : Nat) : Nat × State :=
  let n := smGet 0 q slot
  let ks := pbRecKeys s c slot
  let s := ks.foldl (fun t k => setRec t c k { recAt t c k with refcnt := BitVec.ofNat 16 (min 65535 (sharers s c slot (recLH k).1 (recLH k).2 + n)) }) s
  ((ks.filter (fun k => (recAt s c k).refcnt == 0xFFFF)).length, freeIfUnheld s c slot)

/-- The end of a sweep: counts, frees and the retire. -/
def sweepEnd (s : State) (c : Ch) (x : SweepCtx) : State :=
  let a := x.blocks.foldl (fun a slot =>
    let y := recount a.2.2 c x.q slot
    (a.1 + (if (pbAt y.2 c slot).used then 0 else 1), a.2.1 + y.1, y.2)) (0, 0, s)
  let s := modRefPort a.2.2 c (fun p => { p with sweep := none })
  match allRings.find? (fun r => (s.ring c r).wait == .sweep) with
  | some r => retire s c r (cplRes .ok (at_ 0 24 x.blocks.length + at_ 24 24 a.1 + at_ 48 16 (min 65535 a.2.1)))
  | none => s

/-- SWEEP (R227): admission and the count requests to the Sieves of the channels that are up. -/
def execSweep (c : Ch) (r : Ring) (s : State) : Host.Outcome State Fault Refusal :=
  .next (runHead s c r 0x43 (fun d s =>
    let id := fld d 1023 992
    let all := bit d 991
    match (if all then none else regionCheck s id) with
    | some e => retireSt s c r e
    | none =>
      if resv d 990 128 ∨ (all ∧ id ≠ 0) then retireSt s c r .badField
      else
        let x : SweepCtx := { blocks := sweepBlocks s c all id, q := [], waiting := (allCh.filter (isUp s)).map (fun t => t.val) }
        setWait (modRefPort s c (fun p => { p with sweep := some x, scope := (if p.held.isEmpty then [] else p.scope) ++ x.blocks })) c r .sweep))

/-- Removal reports of a Sieve that the home channel has not accepted yet: their rows still count (R205). -/
def reportsOut (s : State) (c tgt : Ch) (v : BitVec 40) : Nat :=
  let p := (s.ch c).obj.port
  (p.reports.filter (fun x => !x.insert && x.from_ == tgt.val && x.pb == v)).length +
  (p.held.filter (fun h => match h with | .report x => !x.insert && x.from_ == tgt.val && x.pb == v | _ => false)).length

/-- Rows of a Sieve that name a block: valid rows, the pending row, and rows whose removal is not accepted yet (R227 step 3). -/
def sieveCount (s : State) (c tgt : Ch) (v : BitVec 40) : Nat :=
  let x := (s.ch tgt).sieve
  ((validRows x).filter (fun e => e.2.pb == v)).length + (match x.pend with | some p => b2n (p.row.valid && p.row.pb == v) | none => 0) + reportsOut s c tgt v

/-- SIEVE_COUNT_REQUEST (R227 step 3): the sweep of channel `c` asks the Sieve of `tgt`; a channel that is down counts 0. -/
def execSieveCountRequest (c tgt : Ch) (s : State) : Host.Outcome State Fault Refusal :=
  .next (match (s.ch c).obj.port.sweep with
    | none => s
    | some x =>
      if !x.waiting.contains tgt.val then s
      else
        let q := if isUp s tgt then x.blocks.foldl (fun m b => smSet 0 m b (smGet 0 m b + sieveCount s c tgt (BitVec.ofNat 40 (pbIndexAt s c b)))) x.q else x.q
        let x := { x with q, waiting := x.waiting.filter (fun t => t != tgt.val) }
        if x.waiting.isEmpty then sweepEnd s c x else modRefPort s c (fun p => { p with sweep := some x }))

/-! ## Reports and held changes (R180, R209, R228) -/

/-- The answer to a report that a ring 7 descriptor waits for. `ok` is its status. -/
def reportAnswer (s : State) (x : Report) (st : St) : State :=
  match chOf x.from_ with
  | none => s
  | some c =>
    match (s.ring c 7).wait with
    | .reports left row cpl =>
      let cpl := if st = .ok then cpl else { cpl with status := stBits st }
      if 1 < left then setWait s c 7 (.reports (left - 1) row cpl)
      else
        let s := setWait s c 7 .idle
        let s := if st = .ok then (match row with | some p => rowEnters s c p | none => s) else s
        retire s c 7 cpl
    | _ => s

/-- A report reaches the reference port (R207, R209): whether it is accepted. -/
def portReport (s : State) (c : Ch) (x : Report) : St × State :=
  let v := x.pb.toNat
  let slot := (pbIndexOf v).slot
  if x.insert then (if pbLive s v then (.ok, incBlock s c slot) else (.stalePrefix, s))
  else if pbNames s c v then (.ok, decBlock s c slot) else (.ok, s)

/-- Applies a report and answers it. -/
def applyReport (s : State) (c : Ch) (x : Report) : State :=
  let y := portReport s c x
  if x.answer then reportAnswer y.2 x y.1 else y.2

/-- SIEVE_REPORT (R209): the oldest report at channel `c`'s reference port; a running sweep holds one that names a block in its
scope, and changes already held go first (R228). A channel that is down refuses it (R21). While the frees of an earlier change wait at the release log,
the port waits with them (R237). -/
def execSieveReport (c : Ch) (s : State) : Host.Outcome State Fault Refusal :=
  .next (match (s.ch c).obj.port.reports with
    | [] => s
    | x :: rest =>
      let s := modRefPort s c (fun p => { p with reports := rest })
      if !isUp s c then (if x.answer then reportAnswer s x .channelDown else s)
      else if logFull s c then modRefPort (noteFull s c) c (fun p => { p with reports := x :: rest })
      else if changeWaits s c none (pbIndexOf x.pb.toNat).slot then modRefPort s c (fun p => { p with held := p.held ++ [.report x] })
      else applyReport s c x)

/-- HELD_REFERENCE_CHANGE (R228): after the sweep, the oldest held change is applied; a descriptor's keeps its place until it retires. -/
def execHeldReferenceChange (c : Ch) (s : State) : Host.Outcome State Fault Refusal :=
  .next (if (s.ch c).obj.port.sweep.isSome then s
    else if logFull s c then noteFull s c
    else match (s.ch c).obj.port.held with
      | [] => s
      | h :: rest =>
        let t := modRefPort s c (fun p => { p with held := rest })
        match h with
        | .report x => if isUp t c then applyReport t c x else if x.answer then reportAnswer t x .channelDown else t
        | .ring r => match ringOf r with
          | some q => if (s.ring c q).wait = .held then setWait s c q .resumed else s
          | none => t
        | .poison k v => if pbNames t c v.toNat && !(recAt t c k).poison then applyPoison t c k else t)

/-- POISON_SCAN (R229 step 3.3): every sharer of the poisoned page gets its event. Attaches are whole, so all that the port accepted
before have retired. -/
def execPoisonScan (c : Ch) (s : State) : Host.Outcome State Fault Refusal :=
  .next (match (s.ch c).obj.port.scans with
    | [] => s
    | x :: rest =>
      let s := modRefPort s c (fun p => { p with scans := rest })
      let v := x.pb.toNat
      let p := (pbAt s c (pbIndexOf v).slot).blockNo.toNat
      let hit (e : Nat × SeqEntry) : Bool :=
        (e.2.state == .active || e.2.state == .frozen || e.2.state == .closing) &&
        (let q := pteAt s c (pteKey e.1 x.layer x.head p); q.kind == .shared && fld q.loc.toNat 39 0 == v)
      ((s.ch c).obj.seqs.filter hit).foldl (fun t e =>
        raiseC t c 0x0302 sevErr (natLe (handleBits e.2.gen.toNat c.val e.1) 6 ++ natLe v 5 ++ natLe x.layer 1 ++ natLe x.head 1 ++ natLe p 3)) s)

end Sys2Proof.Machine
end

