-- ==== Sys2Proof/Machine/TierOps.lean ====
section
/-! DEFINITION. Operations of the Sparge mover: destination checks (R61, R236, R271), programs with their room (R296), the end of a page
move (R163, R253), moves to and from T3 (R389, R393), and write-back (R245, R273). -/

namespace Sys2Proof.Machine
open Sys2Proof

/-! ## Destinations -/

/-- Whether a T1 frame leaves the room below the pooled and metadata areas (R236). -/
def frameBad (s : State) (c : Ch) (fr cls : Nat) : Bool := decide (poolBase s c < (fr + 2 ^ cls) * 2048)

/-- Whether a T2 location is under the guard of R126: slots that a release still waits for. -/
def guardedT2 (s : State) (c : Ch) (cls : Nat) (loc : BitVec 45) : Bool :=
  (s.ch c).rel.queue.any (fun x => x.tier == 2 && !x.rings.isEmpty &&
    (unitsOf x.cls.toNat x.loc).any (fun u => (unitsOf cls loc).contains u) && (slotMask x.cls.toNat x.loc &&& slotMask cls loc) != 0)

/-- The checks of R271 for a T2 location. -/
def t2Bad (s : State) (c : Ch) (owner cls : Nat) (loc : BitVec 45) : Option St :=
  let m := s.marl c
  let us := unitsOf cls loc
  if us.any (fun u => decide (luExport m ≤ u)) then some .outOfRange
  else if us.any (fun u => (mapAt s c u).sealed || ((mapAt s c u).slots.toNat &&& slotMask cls loc) != 0) then some .locBusy
  else if us.any (fun u => (mapAt s c u).slots != 0 && (mapAt s c u).owner.toNat != owner) then some .ownerMismatch
  else none

/-- The check of one destination list entry (R168, R61, R236, R271). -/
def destBad (s : State) (c : Ch) (dst cls size owner v : Nat) : Option St :=
  let loc : BitVec 45 := BitVec.ofNat 45 v
  if resv v 63 45 ∨ (dst = 1 ∧ resv v 44 26) ∨ (dst = 2 ∧ resv v 44 35) then some .badField
  else if classBytes cls < size then some .frameSmall
  else if dst = 1 then
    if v % 2 ^ cls ≠ 0 then some .frameSmall else if frameBad s c v cls then some .badField else none
  else if dst = 2 then
    if (if 3 ≤ cls then fld v 34 32 ≠ 0 else 8 < fld v 34 32 + 2 ^ cls) then some .frameSmall else t2Bad s c owner cls loc
  else none

/-! ## Programs (R277, R278, R296, R297) -/

/-- The candidates of R296 for a program of an owner, lowest score first: keys of their entries. -/
def evictKeys (s : State) (c : Ch) (owner : Nat) (exclude : List Nat) : List Nat :=
  let touch := (s.ch c).obj.touch
  let ok (e : Nat × Summ) : Option ((Nat × Nat) × Nat) :=
    let m := e.2
    let slot := fld m.ownerRef.toNat 27 0
    let q := seqAt s c slot
    let key := pteKey slot m.layer.toNat m.head.toNat (pageEntry q m.pn.toNat)
    let p := pteAt s c key
    if !m.ownerKind && m.protect != 3 && !exclude.contains key && q.state == .active && q.lossOk && q.owner.toNat == owner
      && p.kind == .priv && p.tier == 2 && p.pgate == 0xFFF && p.summIdx.toNat == e.1
      && !(unitsOf p.cls.toNat p.loc).any (fun u => (mapAt s c u).sealed)
    then some (((currentScore s c touch m).toNat, e.1), key) else none
  (sortBy (fun a b => scanLe a.1 b.1) ((s.ch c).obj.summs.filterMap ok)).map (fun x => x.2)

/-- What making room for a program comes to: there is room, there is none, or an eviction waits at the release log (R237). -/
inductive Room
  | yes
  | no
  | wait
  deriving DecidableEq, Repr

/-- Whether `need` units more may be mapped. -/
def roomOk (s : State) (c : Ch) (need : Nat) : Bool := decide (mappedUnits (s.marl c) + need ≤ capNow (s.marl c))

/-- Evicts candidates until `need` units more may be mapped: what comes of it, the state, and the pages evicted. -/
def makeRoom (c : Ch) (need : Nat) : List Nat → State → Nat → Room × State × Nat
  | [], s, n => (if roomOk s c need then .yes else .no, s, n)
  | k :: rest, s, n =>
    if roomOk s c need then (.yes, s, n)
    else if logFull s c then (.wait, noteFull s c, n)
    else makeRoom c need rest (modMarl (prunePrivate s c k) c (fun m => { m with health := { m.health with evicted := m.health.evicted + 1 } })) (n + 1)

/-- Room for a program of `need` units not yet mapped, by evictions where it takes them (R296). -/
def roomFor (s : State) (c : Ch) (owner need : Nat) (exclude : List Nat) : Room × State × Nat :=
  if need = 0 then (.yes, s, 0) else makeRoom c need (if roomOk s c need then [] else evictKeys s c owner exclude) s 0

/-- What a program comes to: it waits (for acceptance, a guard, or at the release log), it is refused, or it is accepted; with the pages evicted for
it. -/
inductive Prog
  | wait (s : State) (n : Nat)
  | refuse (e : St) (s : State) (n : Nat)
  | ok (s : State) (n : Nat)

/-- A program of a frame's plaintext by a descriptor (R278, R296, R297); it waits while its location is under a guard (R126). -/
def programFrame (s : State) (c : Ch) (stream owner cls : Nat) (loc : BitVec 45) (plain : List Byte) (exclude : List Nat) : Prog :=
  if !hasT2 (s.marl c) then .refuse .mediaAbsent s 0
  else if (s.marl c).readonly then .refuse .mediaReadonly s 0
  else if guardedT2 s c cls loc then .wait s 0
  else match roomFor s c owner (newUnits (s.marl c) cls loc) exclude with
    | (.no, t, n) => .refuse .mediaFull t n
    | (.wait, t, n) => .wait t n
    | (.yes, t, n) => match acceptFrame t c stream owner cls loc false plain with
      | some u => .ok u n
      | none => .wait t n

/-! ## Write-back (R245, R273) -/

/-- Units of a homed page that hold a dirty piece: the unit's index within the home. -/
def dirtyUnits (e : Pte) (size : Nat) : List Nat :=
  (List.range (ceilDiv size 16384)).filter (fun i => (List.range 4).any (fun j => e.dirty.getLsbD (4 * i + j)))

/-- The pieces of unit `i` of a home. -/
def unitPieces (i : Nat) : List Nat := [4 * i, 4 * i + 1, 4 * i + 2, 4 * i + 3]

/-- The bytes that unit `i` of a home takes: the page's pieces as T1 holds them. -/
def homeBytes (s : State) (c : Ch) (owner : Nat) (e : Pte) (size i : Nat) : List Byte :=
  t1Plain s c owner (frameAddr e.loc + 16384 * i) (min 16384 (size - 16384 * i))

/-- The unit of T2, its slots and the first byte that unit `i` of a home takes. -/
def homePlace (h : HomeEntry) (i n : Nat) : Nat × Nat × Nat :=
  let lo := if 3 ≤ h.cls.toNat then 0 else fld h.home.toNat 34 32
  (fld h.home.toNat 31 0 + i, ((2 ^ ceilDiv n 2048 - 1) <<< lo) % 256, 2048 * lo)

/-- Hands Marl the plaintext of a unit of a home (R245 step 4); none when acceptance waits. -/
def handUnit (s : State) (c : Ch) (stream owner lu mask off : Nat) (region : Bool) (bs : List Byte) : Option State :=
  acceptUnit s c stream owner lu mask region off (t2Encrypt s c owner lu (off / 64) (chunks 64 bs))

/-- The reference of a page of an object, for its reads and its loss. -/
def pageRefOf (s : State) (c : Ch) (isPb : Bool) (key owner : Nat) : PageRef :=
  { isPb, key, pte := pageAt s c isPb key, owner, kFmt := 0, vFmt := 0,
    pbIdx := if isPb then BitVec.ofNat 40 (pbIndexAt s c (key / 2 ^ 14)) else pbNone }

/-- Writes units of a homed page back to its home; none when acceptance waits. -/
def writeHome (s : State) (c : Ch) (stream owner : Nat) (e : Pte) (h : HomeEntry) (size : Nat) (us : List Nat) : Option State :=
  us.foldl (fun a i => match a with
    | none => none
    | some t =>
      let bs := homeBytes t c owner e size i
      let p := homePlace h i bs.length
      handUnit t c stream owner p.1 p.2.1 p.2.2 false bs) (some s)

/-- Whether a home lies in a SEALED unit. -/
def homeSealed (s : State) (c : Ch) (h : HomeEntry) : Bool := (unitsOf h.cls.toNat (homeLoc h)).any (fun u => (mapAt s c u).sealed)

/-! ## The objects of a placement descriptor -/

/-- The page size of a placement descriptor's object (R59). -/
def moveSize (s : State) (c : Ch) (x : MoveCtx) : Nat :=
  if x.kind = 0 then
    let e := seqAt s c (handleOf x.obj.toNat).slot
    (pageLayout (fmtD e.kFmt.toNat) (fmtD e.vFmt.toNat) (headDimOf e.headDim.toNat)).size
  else
    let b := pbAt s c (pbIndexOf x.obj.toNat).slot
    (pageLayout (fmtD b.kFmt.toNat) (fmtD b.vFmt.toNat) (headDimOf b.headDim.toNat)).size

/-- Opcodes of the placement descriptors. -/
def opPlace : Nat := 0x11
/-- `Promote`. -/
def opPromote : Nat := 0x12
/-- `Demote`. -/
def opDemote : Nat := 0x13
/-- `Drop`. -/
def opDrop : Nat := 0x14

/-- Whether a placement descriptor skips a page as it stands (R250, R254, R218, R392). -/
def moveSkips (s : State) (c : Ch) (op dst : Nat) (isPb : Bool) (e : Pte) : Bool :=
  e.kind == .empty || e.kind == .pruned || e.poison || (!isPb && e.kind == .shared) || e.tier.toNat == dst ||
  (op == opPromote && decide (e.tier.toNat ≤ dst)) || (op == opDemote && decide (dst ≤ e.tier.toNat)) ||
  (e.tier == 3 && !(windowAt s c (t3Window e.loc)).valid)

/-- The page that a move names. -/
def moveRef (s : State) (c : Ch) (x : MoveCtx) (m : Move) : PageRef :=
  { isPb := m.isPb, key := m.key, pte := pageAt s c m.isPb m.key, owner := x.owner.toNat, kFmt := 0, vFmt := 0,
    pbIdx := if m.isPb then BitVec.ofNat 40 x.obj.toNat else pbNone }

/-! ## The end of a move (R163, R253) -/

/-- How a move ends. -/
inductive MoveEnd
  | done
  | skipped
  | poisoned
  | failed (e : St)
  deriving DecidableEq, Repr

/-- The moves that a ring's descriptor has under way. -/
def ringMoves (s : State) (c : Ch) (r : Ring) : Option MoveCtx :=
  match (s.ring c r).wait with
  | .moves x => some x
  | _ => none

/-- Whether move `k` of a descriptor is in the mover's in-flight table: at most 256 pages of a ring, started in list order (R251, R261). -/
def inTable (x : MoveCtx) (k : Nat) : Bool := decide (((x.moves.take k).filter (fun m => !m.ended)).length < 256)

/-- Whether a move of a page is in flight on a ring. -/
def pageInFlight (s : State) (c : Ch) (r : Ring) (isPb : Bool) (key : Nat) : Bool :=
  match ringMoves s c r with
  | some x => x.moves.zipIdx.any (fun (m, k) => !m.ended && m.isPb == isPb && m.key == key && inTable x k)
  | none => false

/-- A page's move has ended: an `Append` that waited for it goes on, and the other ring's move of the page may run (R252). -/
def noteMoved (s : State) (c : Ch) (isPb : Bool) (key : Nat) : State :=
  allRings.foldl (fun t r => match (t.ring c r).wait with
    | .pageMove k => if k = key ∧ !isPb then setWait t c r .resumed else t
    | .moves x => setWait t c r (.moves { x with moves := x.moves.map (fun m => if m.isPb = isPb ∧ m.key = key then { m with later := false } else m) })
    | _ => t) s

/-- PGATE cleared, whatever gate it holds, and 1 added to the gate of a descriptor with PGATE_SET (R163). -/
def gateEnd (s : State) (c : Ch) (x : MoveCtx) (m : Move) : State :=
  if x.pgate = 0xFFF then s
  else
    let e := pageAt s c m.isPb m.key
    let s := if e.kind = .empty then s else setPage s c m.isPb m.key { e with pgate := 0xFFF }
    gateAdd s c x.pgate.toNat 1

/-- The context after move `k` has ended. -/
def moveNoted (x : MoveCtx) (k : Nat) (how : MoveEnd) : MoveCtx :=
  let ms := x.moves.zipIdx.map (fun (m, i) => if i = k then { m with ended := true, wait3 := false } else m)
  match how with
  | .done => { x with moves := ms, acted := x.acted + 1 }
  | .skipped => { x with moves := ms, skipped := x.skipped + 1 }
  | .poisoned => if x.status = 0 then { x with moves := ms, status := stBits .pagePoisoned, detail := BitVec.ofNat 32 k } else { x with moves := ms }
  | .failed e => if x.stopped then { x with moves := ms } else { x with moves := ms, stopped := true, status := stBits e, detail := 0 }

/-- After a stop every later move that is not outstanding ends failed (R253), and what waited for it goes on (R252). -/
def endLater (s : State) (c : Ch) (x : MoveCtx) (k : Nat) : State × MoveCtx :=
  let s := x.moves.zipIdx.foldl (fun t (m, i) => if k < i ∧ !m.ended ∧ !m.wait3 then noteMoved (gateEnd t c x m) c m.isPb m.key else t) s
  (s, { x with moves := x.moves.zipIdx.map (fun (m, i) => if k < i ∧ !m.wait3 then { m with ended := true } else m) })

/-- Summaries of the pages of a sequence that it keeps (R71), by entry. -/
def heldSumms (s : State) (c : Ch) (slot : Nat) : List (Nat × Nat × Summ) :=
  (seqPtes s c slot).filterMap (fun (k, p) =>
    if p.kind = .priv ∨ p.kind = .pruned then (smGet? (s.ch c).obj.summs p.summIdx.toNat).map (fun m => (k, p.summIdx.toNat, m)) else none)

/-- The end of a freeze (R255 step 5): the summaries are in Marl's metadata store, pool and home-table entries freed. -/
def freezeEnd (s : State) (c : Ch) (slot : Nat) : State :=
  let hs := heldSumms s c slot
  let s := modMarl s c (fun m => { m with frozen := hs.foldl (fun f x => smPut f x.1 x.2.2) m.frozen })
  hs.foldl (fun t x => freeSumm (dropHome t c x.2.1) c x.2.1) s

/-- Whether a placement descriptor freezes its sequence (R255). -/
def freezes (x : MoveCtx) : Bool := x.opcode.toNat == opDemote && x.whole && x.toTier == 2 && x.kind == 0

/-- Keys of the pages that a descriptor moves (R296). -/
def movedKeys (x : MoveCtx) : List Nat := x.moves.map (fun m => m.key)

/-- RESULT of a placement descriptor (R250). -/
def placeResult (x : MoveCtx) : Nat := at_ 0 24 x.acted + at_ 24 24 x.skipped

/-- The event of a descriptor that has evicted pages (R296). -/
def evictEvent (s : State) (c : Ch) (opcode tag n : Nat) : State :=
  if n = 0 then s else raiseC s c 0x0503 sevWarn (natLe opcode 1 ++ natLe tag 2 ++ natLe n 4)

/-- The retire of a placement descriptor. -/
def moveRetire (s : State) (c : Ch) (r : Ring) (x : MoveCtx) : State :=
  let s := evictEvent (setWait s c r .resumed) c x.opcode.toNat x.tag.toNat x.evicted
  retire s c r { status := x.status, flags := 0, minCov := 0xFFFF, detail := x.detail, result := BitVec.ofNat 64 (placeResult x) }

/-- Hands the summaries of a sequence that a `Demote` freezes to Marl, unit by unit as acceptance takes them (R255 step 4, R278), in the frozen stream
(R276). -/
def freezeGo (s : State) (c : Ch) (r : Ring) (x : MoveCtx) (next left : Nat) : State :=
  let slot := (handleOf x.obj.toNat).slot
  let y := acceptMeta c (seqAt s c slot).owner left next s
  if y.1 = 0 then moveRetire (freezeEnd y.2 c slot) c r x else setWait y.2 c r (.freezeOut x (next + left - y.1) y.1)

/-- A whole `Demote` that freezes its sequence begins to write the summaries (R255 step 4): the units that they take need room as a program does, and it
may evict for them (R296). Refused room, or by media that has become read-only (R297), the summaries and homes stay in the pool and the status says so
(DESIGN CHOICE, log 166). -/
def freezeBegin (s : State) (c : Ch) (r : Ring) (x : MoveCtx) : State :=
  let slot := (handleOf x.obj.toNat).slot
  let n := ceilDiv (512 * (heldSumms s c slot).length) 16384
  let fail (t : State) (m : Nat) (e : St) : State :=
    moveRetire t c r { x with evicted := x.evicted + m, status := if x.status = 0 then stBits e else x.status }
  if n ≠ 0 ∧ (s.marl c).readonly then fail s 0 .mediaReadonly
  else match roomFor s c (seqAt s c slot).owner.toNat n (movedKeys x) with
    | (.no, t, m) => fail t m .mediaFull
    | (.wait, t, m) => setWait t c r (.moves { x with evicted := x.evicted + m })
    | (.yes, t, m) =>
      let first := metaFirst (t.marl c) n
      if n ≠ 0 ∧ (t.marl c).flash.capFmt < first + n then fail t m .mediaFull
      else
        let t := modMarl t c (fun p => { p with frozenAt := if n = 0 then p.frozenAt else smPut p.frozenAt slot (first, n) })
        freezeGo t c r { x with evicted := x.evicted + m } first n

/-- A placement descriptor whose moves have all ended. -/
def movesFinish (s : State) (c : Ch) (r : Ring) (x : MoveCtx) : State := if freezes x then freezeBegin s c r x else moveRetire s c r x

/-- Moves that enter the in-flight table as others of their descriptor end: one whose page the other ring has in flight waits for that move (R252). -/
def markLater (s : State) (c : Ch) (r : Ring) (x z : MoveCtx) : MoveCtx :=
  { z with moves := z.moves.zipIdx.map (fun (m, i) =>
      if !m.ended ∧ inTable z i ∧ !inTable x i ∧ allRings.any (fun q => q != r && pageInFlight s c q m.isPb m.key) then { m with later := true } else m) }

/-- Move `k` of ring `r` has ended; the last one retires the descriptor. -/
def moveEnds (s : State) (c : Ch) (r : Ring) (x : MoveCtx) (k : Nat) (m : Move) (how : MoveEnd) : State :=
  let s := noteMoved (gateEnd s c x m) c m.isPb m.key
  let x := (ringMoves s c r).getD x
  let y := moveNoted x k how
  let z := if y.stopped then endLater s c y k else (s, y)
  if z.2.moves.all (fun m => m.ended) then movesFinish z.1 c r z.2 else setWait z.1 c r (.moves (markLater z.1 c r x z.2))

/-- The record update of a move that succeeds: new tier, class and location; the source and any home are then released (R240, R242,
R254). A pooled `Promote` from T2 to T1 keeps the T2 location as the home. -/
def moveDone (s : State) (c : Ch) (x : MoveCtx) (m : Move) : State :=
  let e := pageAt s c m.isPb m.key
  let s1 := setPage s c m.isPb m.key { e with tier := x.toTier, cls := x.cls, loc := m.dest, dirty := 0 }
  if isPooled s c ∧ x.opcode.toNat = opPromote ∧ e.tier = 2 ∧ x.toTier = 1 then
    setHome s1 c e.summIdx.toNat { homed := true, wbBusy := false, home := e.loc.setWidth 35, cls := e.cls }
  else releasePage s1 c e

/-- Adds evicted pages to a descriptor's count. -/
def noteEvicted (s : State) (c : Ch) (r : Ring) (n : Nat) : State :=
  match ringMoves s c r with
  | some x => setWait s c r (.moves { x with evicted := x.evicted + n })
  | none => s

/-- The stream of a placement program (R276). -/
def placeStream (x : MoveCtx) : Nat := if x.opcode.toNat = opDemote ∧ x.whole then 2 else 1

/-- Writes a page's plaintext to the destination of move `k` and ends the move; false while it must wait (guard, acceptance, the release log). -/
def moveStore (s : State) (c : Ch) (r : Ring) (x : MoveCtx) (k : Nat) (m : Move) (plain : List Byte) : Bool × State :=
  if x.toTier = 1 then
    let f := fld m.dest.toNat 25 0
    if guarded s c f (f + 2 ^ x.cls.toNat) then (false, s)
    else (true, moveEnds (moveDone (t1Write s c x.owner.toNat (frameAddr m.dest) plain) c x m) c r x k m .done)
  else match programFrame s c (placeStream x) x.owner.toNat x.cls.toNat m.dest plain (movedKeys x) with
    | .wait t n => (false, noteEvicted t c r n)
    | .refuse e t n => (true, moveEnds (noteEvicted t c r n) c r x k m (.failed e))
    | .ok t n => (true, moveEnds (moveDone (noteEvicted t c r n) c x m) c r x k m .done)

/-- A pooled `Demote` of a homed page: its dirty pieces written, its frame released, the home its location (R252, R254). A SEALED home
refuses the write, and the page is then unhomed (R273). -/
def moveHome (s0 s : State) (c : Ch) (r : Ring) (x : MoveCtx) (k : Nat) (m : Move) (size : Nat) : State :=
  let e := pageAt s c m.isPb m.key
  let h := homeAt s c e.summIdx.toNat
  let us := dirtyUnits e size
  if h.wbBusy then s0
  else if !us.isEmpty ∧ homeSealed s c h then moveEnds (setHome s c e.summIdx.toNat HomeEntry.none) c r x k m (.failed .locBusy)
  else if !us.isEmpty ∧ (s.marl c).readonly then moveEnds s c r x k m (.failed .mediaReadonly)
  else match writeHome s c (placeStream x) x.owner.toNat e h size us with
    | none => s0
    | some t =>
      let t := setPage t c m.isPb m.key { e with tier := 2, cls := h.cls, loc := homeLoc h, dirty := 0 }
      let t := setHome t c e.summIdx.toNat HomeEntry.none
      moveEnds (releaseLoc t c e.tier e.cls e.loc) c r x k m .done

/-- Whether a page move may not run yet (R252): the other ring named the page first, or an admitted `Append` holds the entry. -/
def moveBlocked (s : State) (c : Ch) (r : Ring) (m : Move) : Bool :=
  (m.later && allRings.any (fun q => q != r && pageInFlight s c q m.isPb m.key)) || (!m.isPb && appendHolds s c m.key)

/-- The run of a move between T1 and T2 (R253). A page that was to go to its home, and took no list entry (R168), but has lost the home since, ends
failed as at a SEALED home (DESIGN CHOICE, log 139). -/
def moveRun (s0 : State) (c : Ch) (r : Ring) (x : MoveCtx) (k : Nat) (m : Move) (env : Env) : State :=
  let s := takeEnv s0 c env
  let p := moveRef s c x m
  let size := moveSize s c x
  if moveBlocked s c r m then s0
  else if moveSkips s c x.opcode.toNat x.toTier.toNat m.isPb p.pte then moveEnds s c r x k m .skipped
  else
  let s := useKey s c x.owner.toNat
  if !keyHere s c x.owner.toNat then moveEnds s c r x k m (.failed .keyEmpty)
  else if m.homed ∧ p.pte.tier = 1 then
    if !(homeAt s c p.pte.summIdx.toNat).homed then moveEnds s c r x k m (.failed .locBusy)
    else if orphanPieces s c p size ((dirtyUnits p.pte size).flatMap unitPieces) then moveEnds s c r x k m .poisoned
    else match recoverPieces s c p size ((dirtyUnits p.pte size).flatMap unitPieces) with
      | none => moveEnds (losePage s c p) c r x k m .poisoned
      | some t => moveHome s0 t c r x k m size
  else match readPage s c p size with
    | (none, t) => moveEnds (loseRead t c p size) c r x k m .poisoned
    | (some bs, t) => (moveStore t c r x k m bs).2

/-! ## Moves to and from T3 (R389, R392, R393) -/

/-- Whether a move goes to or comes from T3. -/
def moveT3 (s : State) (c : Ch) (x : MoveCtx) (m : Move) : Bool := x.toTier == 3 || (pageAt s c m.isPb m.key).tier == 3

/-- Marks move `k` as outstanding. -/
def moveSent (s : State) (c : Ch) (r : Ring) (k : Nat) : State :=
  match ringMoves s c r with
  | some x => setWait s c r (.moves { x with moves := x.moves.zipIdx.map (fun (m, i) => if i = k then { m with wait3 := true } else m) })
  | none => s

/-- The T3 location that a move uses. -/
def moveLoc3 (s : State) (c : Ch) (x : MoveCtx) (m : Move) : BitVec 45 := if x.toTier = 3 then m.dest else (pageAt s c m.isPb m.key).loc

/-- Sends the request of a move over its window. -/
def moveSend (s : State) (c : Ch) (r : Ring) (x : MoveCtx) (k : Nat) (m : Move) (w : Window) (plain : List Byte) (size : Nat) : State :=
  let loc := moveLoc3 s c x m
  let addr := (w.base + t3Offset loc) * 2048
  let ct := if x.toTier = 3 then t3Encrypt s c x.owner.toNat loc plain else []
  if w.host then
    match ldOfCh s c with
    | some l =>
      if !(s.ld l).busMaster then moveEnds s c r x k m (.failed .accessDenied)
      else moveSent (emit s (if x.toTier = 3 then .hostWrite l.val addr ct else .hostRead l.val addr size)) c r k
    | none => moveEnds s c r x k m (.failed .accessDenied)
  else if x.toTier = 3 then startOp (moveSent s c r k) c w.conn (.move r.val k) opcWrite 0 w.region addr 0 ct
  else startOp (moveSent s c r k) c w.conn (.move r.val k) opcRead 0 w.region addr (size / 64 - 1) []

/-- Whether the request of a T3 move must wait at issue on its connection: the duplicate window, or room (R389). -/
def issueHeld (s : State) (c : Ch) (x : MoveCtx) (w : Window) (size : Nat) : Bool :=
  !w.host && (issueWaits s c (connAt s c w.conn) || windowFull (connAt s c w.conn) (if x.toTier = 3 then packetsFor size else 1))

/-- Starts a T3 move, or ends it, or leaves it to wait: for its frame's guard, at the release log (R237), for the duplicate window, for room at
issue (R389). -/
def moveStart3 (s : State) (c : Ch) (r : Ring) (x : MoveCtx) (k : Nat) (m : Move) : State :=
  let p := moveRef s c x m
  let size := moveSize s c x
  let w := windowAt s c (t3Window (moveLoc3 s c x m))
  let f := fld m.dest.toNat 25 0
  if moveBlocked s c r m then s
  else if moveSkips s c x.opcode.toNat x.toTier.toNat m.isPb p.pte ∨ !w.valid then moveEnds s c r x k m .skipped
  else
  let s := useKey s c x.owner.toNat
  if !keyHere s c x.owner.toNat then moveEnds s c r x k m (.failed .keyEmpty)
  else if w.len < t3Offset (moveLoc3 s c x m) + ceilDiv size 2048 then moveEnds s c r x k m (.failed .outOfRange)
  else if (x.toTier = 1 ∧ guarded s c f (f + 2 ^ x.cls.toNat)) ∨ logFull s c then s
  else if !w.host ∧ isEthernet s c then moveEnds s c r x k m (.failed .modeDenied)
  else if !w.host ∧ (connAt s c w.conn).state ≠ .ready then
    moveEnds s c r x k m (.failed (if (connAt s c w.conn).state = .error then .linkTimeout else .linkConnError))
  else if issueHeld s c x w size then s
  else if x.toTier = 3 then
    match readPage s c p size with
    | (none, t) => moveEnds (loseRead t c p size) c r x k m .poisoned
    | (some bs, t) => moveSend t c r x k m w bs size
  else moveSend s c r x k m w [] size

/-- A ring's T3 moves that have not started and are in the in-flight table, in list order. -/
def idleMoves3 (s : State) (c : Ch) (r : Ring) : List Nat :=
  match ringMoves s c r with
  | some x => (x.moves.zipIdx.filter (fun (m, k) => !m.ended && !m.wait3 && inTable x k && moveT3 s c x m)).map (fun p => p.2)
  | none => []

/-- Move `k` of a ring's descriptor while it has not started. -/
def idleMove (s : State) (c : Ch) (r : Ring) (k : Nat) : Option (MoveCtx × Move) :=
  (ringMoves s c r).bind (fun x => (x.moves[k]?).bind (fun m => if m.ended ∨ m.wait3 then none else some (x, m)))

/-- Tries to start T3 move `k` of a ring: the state, whether it has started or ended, and the connections on which nothing more starts. One that must wait
at issue holds its connection (R389). -/
def tryMove3 (s : State) (c : Ch) (r : Ring) (k : Nat) (held : List Nat) : State × Bool × List Nat :=
  match idleMove s c r k with
  | none => (s, false, held)
  | some (x, m) =>
    let w := windowAt s c (t3Window (moveLoc3 s c x m))
    if !w.host ∧ held.contains w.conn then (s, false, held)
    else
      let t := underOwn s c r (fun s => moveStart3 s c r x k m)
      let waits := (idleMove t c r k).isSome
      (t, !waits, if waits && issueHeld t c x w (moveSize t c x) then held ++ [w.conn] else held)

/-- Starts the T3 moves of rings 4 and 5: page starts alternate between the two (R261), each ring's in list order; `turn` says that ring 5 is next. -/
def startMoves3 (c : Ch) : Nat → List Nat → List Nat → Bool → State → List Nat → State
  | 0, _, _, _, s, _ => s
  | n + 1, ks, js, turn, s, held =>
    match ks, js with
    | [], [] => s
    | k :: ks, [] => let t := tryMove3 s c 4 k held; startMoves3 c n ks [] turn t.1 t.2.2
    | [], j :: js => let t := tryMove3 s c 5 j held; startMoves3 c n [] js turn t.1 t.2.2
    | k :: ks, j :: js =>
      if turn then let t := tryMove3 s c 5 j held; startMoves3 c n (k :: ks) js (!t.2.1) t.1 t.2.2
      else let t := tryMove3 s c 4 k held; startMoves3 c n ks (j :: js) t.2.1 t.1 t.2.2

/-- Starts what can be started of the channel's T3 moves. R261 does not say which ring begins: ring 4 (DESIGN CHOICE, log 165). -/
def startAll3 (s : State) (c : Ch) : State :=
  let ks := idleMoves3 s c 4
  let js := idleMoves3 s c 5
  startMoves3 c (ks.length + js.length) ks js false s []

/-- The answer to the T3 request of a move: its status, and the data that a read brought. False while the page's store must wait, or the move's release at
the release log (R237). A page whose owner's key has gone meanwhile cannot be stored (R449). -/
def move3Done (s : State) (c : Ch) (r : Ring) (k : Nat) (st : St) (data : List Byte) : Bool × State :=
  match (ringMoves s c r).bind (fun x => (x.moves[k]?).map (fun m => (x, m))) with
  | none => (true, s)
  | some (x, m) =>
    if m.ended ∨ !m.wait3 then (true, s)
    else underOwnP s c r (fun s =>
      if st ≠ .ok then (true, moveEnds s c r x k m (.failed st))
      else if x.stopped then (true, moveEnds s c r x k m (.failed .ok))
      else if logFull s c then (false, noteFull s c)
      else if x.toTier = 3 then (true, moveEnds (moveDone s c x m) c r x k m .done)
      else
      let s := useKey s c x.owner.toNat
      if !keyHere s c x.owner.toNat then (true, moveEnds s c r x k m (.failed .keyEmpty))
      else moveStore s c r x k m (t3Decrypt s c x.owner.toNat (moveLoc3 s c x m) (bsub data 0 (moveSize s c x))))

/-! ## Windows that become invalid (R392) -/

/-- Whether a mover operation uses a window. -/
def windowBusy (s : State) (c : Ch) (i : Nat) : Bool :=
  allRings.any (fun r => match ringMoves s c r with
    | some x => x.moves.any (fun m => m.wait3 && t3Window (moveLoc3 s c x m) == i)
    | none => false)

/-- Writes a window. -/
def setWindow (s : State) (c : Ch) (i : Nat) (w : BitVec 128) : State := modLink s c (fun p => { p with windows := smSet 0 p.windows i w })

/-- Windows whose invalidation waits become invalid once no move uses them, and the mailbox command that waited ends. -/
def windowsStep (s : State) (c : Ch) : State :=
  let ready := (s.ch c).link.winDue.filter (fun d => !windowBusy s c d.1)
  let s := modLink s c (fun p => { p with winDue := p.winDue.filter (fun d => windowBusy s c d.1) })
  ready.foldl (fun t d =>
    let t := setWindow t c d.1 d.2.2
    if h : d.2.1 < 33 then mbResult t ⟨d.2.1, h⟩ 0xC064 (fun m => { m with opcode := 0xC064, status := 0, rc := .success, out := [], reply := .done }) else t) s

end Sys2Proof.Machine
end

