-- ==== Sys2Proof/Machine/AppendCmds.lean ====
section
/-! DEFINITION. `Append` (R57, R119, R120, R154, R155) with its copies on write (R214 to R216), its waits (R238, R246, R252) and the dirty
pieces of pooled mode (R243). -/

namespace Sys2Proof.Machine
open Sys2Proof

/-- What an append finds at a page that it writes. -/
inductive PageUse
  | fresh | ring | copy | pruned | cont
  deriving DecidableEq, Repr

/-- A page that an append writes: KV head, page number, its entry's key, what stands there, whether it takes a frame of the list, its frame
and class, and the slots written. -/
structure AppendPage where
  head  : Nat
  page  : Nat
  key   : Nat
  use   : PageUse
  needs : Bool
  frame : Nat
  cls   : Nat
  slot0 : Nat
  count : Nat
  deriving DecidableEq, Repr

/-- POS0. -/
def apPos0 (d : Nat) : Nat := fld d 967 940
/-- N. -/
def apN (d : Nat) : Nat := fld d 939 932 + 1
/-- LAYER. -/
def apLayer (d : Nat) : Nat := fld d 975 968
/-- A page replacement (R215): the whole page, from its boundary. -/
def apWhole (d : Nat) : Bool := apPos0 d % 64 == 0 && apN d == 64

/-- What stands at a page. -/
def pageUse (s : State) (c : Ch) (e : SeqEntry) (key page : Nat) : PageUse :=
  let p := pteAt s c key
  match p.kind with
  | .empty => .fresh
  | .shared => .copy
  | .priv => if e.ring ∧ e.sinkPages.toNat ≤ page ∧ pageNumOf s c p page ≠ page then .ring else .cont
  | .pruned => if e.ring ∧ e.sinkPages.toNat ≤ page ∧ pageNumOf s c p page ≠ page then .ring else .pruned

/-- The pages that an append writes, in KV-head order, then page order. -/
def appendPages (s : State) (c : Ch) (d slot : Nat) : List AppendPage :=
  let e := seqAt s c slot
  let a := apPos0 d
  let b := apPos0 d + apN d
  (List.range (headsOf e)).flatMap (fun h => (List.range ((b - 1) / 64 + 1 - a / 64)).map (fun i =>
    let page := a / 64 + i
    let key := pteKey slot (apLayer d) h (pageEntry e page)
    let p := pteAt s c key
    let use := pageUse s c e key page
    let keeps := use == .cont || (use == .ring && p.kind == .priv && p.tier == 1)
    let lo := max a (64 * page)
    { head := h, page, key, use, needs := !keeps, frame := if keeps then fld p.loc.toNat 25 0 else 0, cls := p.cls.toNat,
      slot0 := lo - 64 * page, count := min b (64 * page + 64) - lo }))

/-- Check 2 of R155 for a page (R214, R215, R220, R252). -/
def appendPageBad (s : State) (c : Ch) (d : Nat) (e : SeqEntry) (x : AppendPage) : Option Cpl :=
  let p := pteAt s c x.key
  match x.use with
  | .copy =>
    let v := fld p.loc.toNat 39 0
    if !pbNames s c v then some (cplDet .stalePrefix x.page)
    else if !apWhole d ∧ apPos0 d / 64 ≠ (e.length.toNat - 1) / 64 then some (cplSt .outOfRange)
    else if (recAt s c (recKey (pbIndexOf v).slot (apLayer d) x.head)).tier = 3 then some (cplDet .pageState x.page)
    else none
  | .pruned => some (cplDet .pageState x.page)
  | .cont => if p.tier ≠ 1 then some (cplDet .pageState x.page) else none
  | _ => none

/-- Check 3 of R155: FILL of the page of POS0 for some KV head, and the start of a sequence's first append (R57). -/
def appendFillBad (s : State) (c : Ch) (d : Nat) (e : SeqEntry) (xs : List AppendPage) : Bool :=
  (!e.written && apPos0 d != e.posBase.toNat) ||
  xs.any (fun x => x.page == apPos0 d / 64 && x.use != .copy &&
    (if x.use == .cont then (pteAt s c x.key).fill.toNat else 0) != apPos0 d % 64)

/-- Gives the list's frames to the pages that take one. -/
def giveFrames (cls : Nat) : List AppendPage → List Nat → List AppendPage
  | [], _ => []
  | x :: xs, vs =>
    if x.needs then { x with frame := fld (vs.headD 0) 25 0, cls } :: giveFrames cls xs vs.tail else x :: giveFrames cls xs vs

/-- The size of a sequence's pages. -/
def pageSizeOf (e : SeqEntry) : Nat := (pageLayout (fmtD e.kFmt.toNat) (fmtD e.vFmt.toNat) (headDimOf e.headDim.toNat)).size

/-- Check 4 of R155: the frame list. -/
def appendFrames (s : State) (c : Ch) (d : Nat) (e : SeqEntry) (xs : List AppendPage) : Except Cpl (List AppendPage) :=
  let cls := fld d 878 876
  let n := (xs.filter (fun x => x.needs)).length
  if !inT0 (fld d 902 879) (8 * n) then .error (cplSt .badField)
  else
    let vs := (List.range n).map (fun i => t0Num s c (fld d 902 879 + 8 * i) 8)
    match vs.zipIdx.findSome? (fun (v, i) => (destBad s c 1 cls (pageSizeOf e) e.owner.toNat v).map (fun x => (x, i))) with
    | some (x, i) => .error (cplDet x i)
    | none => .ok (giveFrames cls xs vs)

/-- The byte ranges of slots of a page (R59): keys, values and their scales. -/
def slotRanges (e : SeqEntry) (slot0 n : Nat) : List (Nat × Nat) :=
  let kf := fmtD e.kFmt.toNat
  let vf := fmtD e.vFmt.toNat
  let dim := headDimOf e.headDim.toNat
  let l := pageLayout kf vf dim
  [(l.keys + slot0 * vecBytes kf dim, n * vecBytes kf dim), (l.vals + slot0 * vecBytes vf dim, n * vecBytes vf dim),
   (l.kScales + slot0 * vecScaleBytes kf dim, n * vecScaleBytes kf dim), (l.vScales + slot0 * vecScaleBytes vf dim, n * vecScaleBytes vf dim)]

/-- The pieces of a frame that slots fall in (R243). -/
def slotPieces (e : SeqEntry) (slot0 n : Nat) : List Nat := dedup ((slotRanges e slot0 n).flatMap (fun x => piecesHit x.1 x.2))

/-- Write-back entries that the writes of a page would queue (R243, R246). -/
def pageQueues (s : State) (c : Ch) (h : HeldPage) : Nat :=
  let p := pteAt s c h.key
  if isPooled s c ∧ (homeAt s c p.summIdx.toNat).homed then (h.pieces.filter (fun i => !p.dirty.getLsbD i)).length else 0

/-- Whether the writes of a page wait for room in the write-back queue (R246). -/
def pageNoRoom (s : State) (c : Ch) (h : HeldPage) : Bool := decide (0 < pageQueues s c h) && wbNoRoom s c (pageQueues s c h)

/-- The block record that a copy reads. -/
def copyRef (s : State) (c : Ch) (d : Nat) (e : SeqEntry) (x : AppendPage) : Option PageRef :=
  resolvePage s c e (apLayer d) x.head x.key (pteAt s c x.key)

/-- Slots that a copy keeps: 0 to POS0 mod 64 − 1 of the page of POS0. -/
def copyKeep (d : Nat) (x : AppendPage) : Nat := if x.use = .copy ∧ x.page = apPos0 d / 64 then apPos0 d % 64 else 0

/-- Reads the sources of the copies (R214 to R216): the bytes of each page that keeps slots; the loss of a source ends the reads. -/
def readCopies (c : Ch) (d : Nat) (e : SeqEntry) : List AppendPage → State → Option (List (Nat × List Byte)) × State
  | [], s => (some [], s)
  | x :: xs, s =>
    if copyKeep d x = 0 then readCopies c d e xs s
    else match copyRef s c d e x with
      | none => (none, s)
      | some p =>
        if p.pte.poison then (none, s)
        else match readPage s c p (pageSizeOf e) with
          | (none, t) => (none, loseRead t c p (pageSizeOf e))
          | (some bs, t) =>
            match readCopies c d e xs t with
            | (some ys, u) => (some ((x.key, bs) :: ys), u)
            | (none, u) => (none, u)

/-- The summary of a page begun (R72, R119, R120). -/
def newSumm (slot gen home dim layer head page : Nat) (protect : BitVec 2) (touch : BitVec 40) : Summ :=
  { mass := 0, knorm := 0, touch, tilth := 0, protect, ownerKind := false, ownerRef := BitVec.ofNat 40 (fld (handleBits gen home slot) 31 0),
    layer := BitVec.ofNat 8 layer, head := BitVec.ofNat 6 head, pn := BitVec.ofNat 22 page, keyScale := 0, massN := 0,
    mean := zeros (if dim = 256 then 256 else 2 * dim) }

/-- The byte ranges of a frame that hold the keys of a page's first slots, and their scales. -/
def keyRanges (e : SeqEntry) (fill : Nat) : List (Nat × Nat) := (slotRanges e 0 fill).zipIdx.filterMap (fun x => if x.2 % 2 = 0 then some x.1 else none)

/-- The decoded keys of a page's first slots. -/
def pageKeys (s : State) (c : Ch) (e : SeqEntry) (frame fill : Nat) : List (List Num) :=
  let kf := fmtD e.kFmt.toNat
  let dim := headDimOf e.headDim.toNat
  let l := pageLayout kf (fmtD e.vFmt.toNat) dim
  let kb := vecBytes kf dim
  let sb := vecScaleBytes kf dim
  let ks := t1Plain s c e.owner.toNat (frame * 2048 + l.keys) (fill * kb)
  let ss := t1Plain s c e.owner.toNat (frame * 2048 + l.kScales) (fill * sb)
  (List.range fill).map (fun i => vecValues (decodeVec kf dim (bsub ks (i * kb) kb) (bsub ss (i * sb) sb)))

/-- A summary takes the mean key and KNORM of its page's keys (R120). -/
def summarise (s : State) (c : Ch) (e : SeqEntry) (summ : Nat) (keys : List (List Num)) : State :=
  modSumm s c summ (summKeys (fmtD e.kFmt.toNat) (headDimOf e.headDim.toNat) keys)

/-- Allocates the summary of a page begun; TOUCH takes the touch counter. -/
def beginSumm (s : State) (c : Ch) (d slot : Nat) (x : AppendPage) (protect : BitVec 2) : Option (Nat × State) :=
  let e := seqAt s c slot
  let tn := touchNext s c
  let m := newSumm slot e.gen.toNat c.val (headDimOf e.headDim.toNat) (apLayer d) x.head x.page protect tn.1
  allocSumm tn.2 c (rescore tn.2 c m)

/-- The entry of a page begun. -/
def beginEntry (x : AppendPage) (summ : Nat) : Pte :=
  { kind := .priv, tier := 1, cls := BitVec.ofNat 3 x.cls, fill := 0, poison := false, dirty := 0, pgate := 0xFFF, refcnt := 0,
    summIdx := BitVec.ofNat 24 summ, loc := BitVec.ofNat 45 x.frame }

/-- The start of a page that had none (R71, R80). -/
def beginFresh (s : State) (c : Ch) (d slot : Nat) (x : AppendPage) : Except St State :=
  match beginSumm s c d slot x (BitVec.ofNat 2 (fld d 873 872)) with
  | none => .error .summaryFull
  | some (i, s) =>
    match growMap s c slot (apLayer d) x.head (pteEntry x.key) with
    | none => .error .nodesFull
    | some s => .ok (setPte s c x.key (beginEntry x i))

/-- The start of a copy on write (R214): fresh summary, entry. -/
def beginCopy (s : State) (c : Ch) (d slot : Nat) (x : AppendPage) : Except St State :=
  let e := seqAt s c slot
  let prot := match copyRef s c d e x with
    | some p => (match smGet? (s.ch c).obj.summs p.pte.summIdx.toNat with | some m => m.protect | none => 0)
    | none => 0
  match beginSumm s c d slot x prot with
  | none => .error .summaryFull
  | some (i, s) => .ok (setPte s c x.key (beginEntry x i))

/-- The reuse of a ring entry (R119, R154): PN and the summary restart, the older page's location and home are released. -/
def beginRing (s : State) (c : Ch) (d slot : Nat) (x : AppendPage) : State :=
  let e := seqAt s c slot
  let p := pteAt s c x.key
  let tn := touchNext s c
  let s := modSumm tn.2 c p.summIdx.toNat (fun _ =>
    rescore tn.2 c (newSumm slot e.gen.toNat c.val (headDimOf e.headDim.toNat) (apLayer d) x.head x.page (BitVec.ofNat 2 (fld d 873 872)) tn.1))
  let s := if p.kind = .priv ∧ p.tier ≠ 1 then releasePage s c p
           else if p.kind = .priv ∧ isPooled s c then dropHome s c p.summIdx.toNat else s
  setPte s c x.key (beginEntry x p.summIdx.toNat)

/-- The pages that an append begins or copies; none of it happens when a summary or a node is missing. -/
def beginPages (c : Ch) (d slot : Nat) : List AppendPage → State → Except St State
  | [], s => .ok s
  | x :: xs, s =>
    let r : Except St State := match x.use with
      | .fresh => beginFresh s c d slot x
      | .copy => beginCopy s c d slot x
      | .ring => .ok (beginRing s c d slot x)
      | _ => .ok s
    match r with
    | .error e => .error e
    | .ok s => beginPages c d slot xs s

/-- The stored form of the positions of one KV head: key and value of each, and the generator (R99 to R104). Draws go by KV head, then position, the
key before the value, elements ascending (DESIGN CHOICE, log 130). -/
def encodeHead (s : State) (c : Ch) (d head : Nat) (e : SeqEntry) : List Nat → BitVec 31 → List (EncVec × EncVec) × BitVec 31
  | [], g => ([], g)
  | i :: is, g =>
    let af := fmtD (fld d 931 927)
    let dim := headDimOf e.headDim.toNat
    let n := vecBytes af dim
    let base := fld d 926 903 + (head * apN d + i) * 2 * roundUp n 64
    let sr := bit d 875
    let src := fun (o : Nat) => (decodeVec af dim (t0Read s c o n) []).elems
    let k := encodeVec (fmtD e.kFmt.toNat) sr g (src base)
    let v := encodeVec (fmtD e.vFmt.toNat) sr k.gen (src (base + roundUp n 64))
    let rest := encodeHead s c d head e is v.gen
    ((k, v) :: rest.1, rest.2)

/-- What a copy writes of its page: the kept slots (R214). -/
def copyWrites (d : Nat) (e : SeqEntry) (x : AppendPage) (kept : List Byte) : HeldPage :=
  let k := copyKeep d x
  { key := x.key, frame := x.frame, cls := x.cls, fill := k, pieces := dedup (slotPieces e 0 k),
    writes := (slotRanges e 0 k).map (fun r => (x.frame * 2048 + r.1, bsub kept r.1 r.2)) }

/-- What an append writes of one page (R59). -/
def pageWrites (d : Nat) (e : SeqEntry) (x : AppendPage) (encs : List (EncVec × EncVec)) : HeldPage :=
  let part := (encs.drop (64 * x.page + x.slot0 - apPos0 d)).take x.count
  let datas := [part.flatMap (fun y => y.1.elems), part.flatMap (fun y => y.2.elems), part.flatMap (fun y => y.1.scales), part.flatMap (fun y => y.2.scales)]
  { key := x.key, frame := x.frame, cls := x.cls, fill := x.slot0 + x.count, pieces := dedup (slotPieces e x.slot0 x.count),
    writes := ((slotRanges e x.slot0 x.count).zip datas).map (fun (r, bs) => (x.frame * 2048 + r.1, bs)) }

/-- The bytes of a page that the writes of slots need as T1 holds them: the keys that the summary reads (R120). A lost piece of them is read again from a
clean home first (R229, R231). -/
def mendKeys (s : State) (c : Ch) (e : SeqEntry) (h : HeldPage) (fill : Nat) : State :=
  let ps := dedup ((keyRanges e fill).flatMap (fun r => piecesHit r.1 r.2))
  (recoverPieces s c (pageRefOf s c false h.key e.owner.toNat) (pageSizeOf e) ps).getD s

/-- The writes of one page: bytes, DIRTY, FILL, summary. Gives NAN_IN, which the keys that the summary reads, and the mean key and KNORM that it
stores, may set (R101). When a line of the keys that it reads is uncorrectable the summary keeps its mean key and KNORM (DESIGN CHOICE, log 163), and a
lost line poisons the page (R231). -/
def putPage (s : State) (c : Ch) (e : SeqEntry) (h : HeldPage) : State × BitVec 16 :=
  let fill := max (pteAt s c h.key).fill.toNat h.fill
  let s := h.writes.foldl (fun t w => t1Write t c e.owner.toNat w.1 w.2) (mendKeys s c e h fill)
  let s := markDirty s c false h.key h.pieces
  let p := pteAt s c h.key
  let s := setPte s c h.key { p with fill := BitVec.ofNat 7 fill }
  let ranges := (keyRanges e fill).map (fun r => (h.frame * 2048 + r.1, r.2))
  if ranges.any (fun r => rangeBad s c r.1 r.2) then
    (if ranges.any (fun r => rangeLost s c r.1 r.2) ∧ !p.poison then poisonPrivate s c h.key else s, 0)
  else
    let keys := pageKeys s c e h.frame fill
    let s := summarise s c e p.summIdx.toNat keys
    let stored := match smGet? (s.ch c).obj.summs p.summIdx.toNat with
      | some m => isNan (f32Of m.knorm.toNat) || (meanOf (headDimOf e.headDim.toNat) m).any isNan
      | none => false
    (s, flIf (keys.any (fun k => k.any isNan) || stored) flNanIn)

/-- Whether the frame of a page is under the guard of R126. -/
def pageGuarded (s : State) (c : Ch) (h : HeldPage) : Bool := guarded s c h.frame (h.frame + 2 ^ h.cls)

/-- Makes the writes of pages in order: the pages left, the state, and the flags. A page whose frame is under a guard is held (R238) and the others go on;
one that finds the write-back queue full waits, and all behind it (R246). -/
def putPages (c : Ch) (e : SeqEntry) : List HeldPage → State → BitVec 16 → List HeldPage × State × BitVec 16
  | [], s, f => ([], s, f)
  | h :: hs, s, f =>
    if pageGuarded s c h then
      let y := putPages c e hs s f
      (h :: y.1, y.2)
    else if pageNoRoom s c h then (h :: hs, s, f)
    else
      let y := putPage s c e h
      putPages c e hs y.1 (f ||| y.2)

/-- An append between KV heads: the state, the writes to make, and the flags. -/
structure AppendRun where
  st    : State
  pages : List HeldPage
  flags : BitVec 16

/-- The stored form of one KV head, and the writes of its pages. -/
def writeHead (c : Ch) (d : Nat) (e : SeqEntry) (xs : List AppendPage) (a : AppendRun) (h : Nat) : AppendRun :=
  let r := encodeHead a.st c d h e (List.range (apN d)) (a.st.ch c).srGen
  let s : State := if bit d 875 then modCh a.st c (fun ch => { ch with srGen := r.2 }) else a.st
  { st := s, pages := a.pages ++ (xs.filter (fun x => x.head == h)).map (fun x => pageWrites d e x r.1),
    flags := a.flags ||| flIf (r.1.any (fun (y : EncVec × EncVec) => y.1.nan || y.2.nan)) flNanIn }

/-- LENGTH and RING_HEAD at the retire of an append with ADVANCE (R62, R155, R215). -/
def advanceLength (s : State) (c : Ch) (d slot : Nat) (rewrites : Bool) : State :=
  let stop := apPos0 d + apN d
  modSeq s c slot (fun e =>
    let len := if rewrites ∧ !apWhole d then stop else max e.length.toNat stop
    { e with length := BitVec.ofNat 29 len, ringHead := if e.ring then BitVec.ofNat 22 (pageEntry e ((len - 1) / 64)) else e.ringHead })

/-- The end of an append whose writes are all done. -/
def appendFinish (s : State) (c : Ch) (r : Ring) (x : AppendCtx) : State :=
  let d := headDesc s c r
  let t := modSeq s c x.slot (fun e => { e with written := true })
  retire (if bit d 874 then advanceLength t c d x.slot x.rewrites else t) c r { cplSt .ok with flags := x.flags }

/-- Makes the writes that are left as far as they go (R238, R246); the append ends when none is left, or when the channel no longer has the key: the writes
that it has made stand (R449). -/
def appendGo (s : State) (c : Ch) (r : Ring) (x : AppendCtx) : State :=
  let owner := (seqAt s c x.slot).owner.toNat
  let s := useKey s c owner
  if !keyHere s c owner then retire s c r { cplSt .keyEmpty with flags := x.flags }
  else
  let y := putPages c (seqAt s c x.slot) x.pages s x.flags
  let z := { x with pages := y.1, flags := y.2.2 }
  if y.1.isEmpty then appendFinish y.2.1 c r z else setWait y.2.1 c r (.guardPages z)

/-- The copies on write of an append, each with the slots that it keeps (R214). -/
def copyPages (d : Nat) (e : SeqEntry) (xs : List AppendPage) (copies : List (Nat × List Byte)) : List HeldPage :=
  (xs.filter (fun x => x.use == .copy && copyKeep d x != 0)).map (fun x =>
    copyWrites d e x (((copies.find? (fun y => y.1 == x.key)).map (fun y => y.2)).getD []))

/-- The effect of an append that passes its checks: the pages begun and every copy made, before any slot is written (R214). An engine fault at point k ends
it before the writes of KV head k (R128, DESIGN CHOICE, log 138). -/
def appendEffect (s : State) (c : Ch) (r : Ring) (env : Env) (d slot : Nat) (xs : List AppendPage) (copies : List (Nat × List Byte)) : State :=
  let held := (xs.filter (fun x => x.use == .copy)).map (fun x =>
    let v := (pbIndexOf (fld (pteAt s c x.key).loc.toNat 39 0)).slot
    (v, recKey v (apLayer d) x.head))
  match beginPages c d slot xs s with
  | .error e => retireSt s c r e
  | .ok t =>
    let t := held.foldl (fun t y => decRecs t c y.1 [y.2]) t
    let e := seqAt t c slot
    let cp := (copyPages d e xs copies).foldl (fun (a : State × BitVec 16) h =>
      let y := putPage a.1 c e h
      (y.1, a.2 ||| y.2)) (t, 0)
    let hs := List.range (headsOf e)
    let w := (hs.take (env.fault.getD hs.length)).foldl (writeHead c d e xs) { st := cp.1, pages := [], flags := cp.2 }
    if env.fault.getD hs.length < hs.length then
      let y := putPages c e w.pages w.st w.flags
      retire (engineFault y.2.1 c r) c r { cplSt .engineFault with flags := y.2.2 }
    else appendGo w.st c r { slot, pages := w.pages, rewrites := !held.isEmpty, flags := w.flags }

/-- Whether a page that an append writes or copies is in flight (R252): the entry's key of a Private page; none for a block's record. -/
def appendInFlight (s : State) (c : Ch) (d : Nat) (xs : List AppendPage) : Option (Option Nat) :=
  xs.findSome? (fun x =>
    if allRings.any (fun q => pageInFlight s c q false x.key) then some (some x.key)
    else
      let p := pteAt s c x.key
      let v := (pbIndexOf (fld p.loc.toNat 39 0)).slot
      if p.kind == .shared && allRings.any (fun q => pageInFlight s c q true (recKey v (apLayer d) x.head)) then some none else none)

/-- Whether a copy that keeps slots takes a frame under a guard: its first write waits (R238), and no slot is written before it (R214). -/
def copyGuarded (s : State) (c : Ch) (d : Nat) (x : AppendPage) : Bool := copyKeep d x != 0 && guarded s c x.frame (x.frame + 2 ^ x.cls)

/-- An admitted append (R155). -/
def appendRun (s : State) (c : Ch) (r : Ring) (env : Env) (d slot : Nat) : State :=
  let e := seqAt s c slot
  let xs := appendPages s c d slot
  if 268435456 < apPos0 d + apN d ∨ 268435456 ≤ e.length.toNat then retireSt s c r .posLimit
  else match appendInFlight s c d xs with
    | some (some k) => setWait s c r (.pageMove k)
    | some none => stay s c r
    | none =>
      match xs.findSome? (appendPageBad s c d e) with
      | some x => retire s c r x
      | none =>
        if appendFillBad s c d e xs then retireSt s c r .outOfRange
        else match appendFrames s c d e xs with
          | .error x => retire s c r x
          | .ok xs =>
            let s := useKey s c e.owner.toNat
            if !keyHere s c e.owner.toNat then retireSt s c r .keyEmpty
            else if xs.any (fun x => x.use == .copy && changeWaits s c (some r) (pbIndexOf (fld (pteAt s c x.key).loc.toNat 39 0)).slot) then holdRing s c r
            else if xs.any (copyGuarded s c d) then stay s c r
            else match readCopies c d e xs s with
              | (none, t) => retireSt t c r .pagePoisoned
              | (some ys, t) => appendEffect t c r env d slot xs ys

/-- APPEND (R154, R155). R155 does not say where its reserved bits, FRAME_CLASS and its source area stand among its checks: the model tests them after
the format and before check 1 (DESIGN CHOICE, log 164). The row goes on with the writes that waited (R238, R246). -/
def execAppend (c : Ch) (r : Ring) (env : Env) (s : State) : Host.Outcome State Fault Refusal :=
  .next (match (s.ring c r).wait with
    | .guardPages x => if isUp s c then underOwn s c r (fun s => appendGo s c r x) else s
    | _ => runHead s c r 0x04 (fun d s =>
      let s := takeEnv s c env
      let h := handleOf (fld d 1023 976)
      match admitCheck s c r h false with
      | some e => retireSt s c r e
      | none =>
        let e := seqAt s c h.slot
        let dim := headDimOf e.headDim.toNat
        let af := fmtOf (fld d 931 927)
        if layersOf e ≤ apLayer d ∨ apPos0 d < e.posBase.toNat then retireSt s c r .outOfRange
        else if (match af with | some x => !x.a | none => true) then retireSt s c r .badFormat
        else if resv d 871 128 ∨ 6 ≤ fld d 878 876 ∨
            !inT0 (fld d 926 903) (headsOf e * apN d * 2 * roundUp (vecBytes (fmtD (fld d 931 927)) dim) 64) then retireSt s c r .badField
        else admitUse s c r [h.slot] (fun s => appendRun s c r env d h.slot)))

end Sys2Proof.Machine
end

