-- ==== Sys2Proof/Machine/TierCmds.lean ====
section
/-! DEFINITION. The Sparge mover's commands: `Place`, `Promote`, `Demote`, `Drop`, `Persist`, `Prefetch`, the ends of page moves, and the
write-back of dirty pieces (R163, R166 to R168, R236 to R262). -/

namespace Sys2Proof.Machine
open Sys2Proof

/-! ## The placement body (R167, R249) -/

/-- The range of a placement body. -/
def placeRange (d : Nat) : PageRange :=
  { layerLo := fld d 972 965, layerHi := fld d 964 957, headLo := fld d 956 951, headHi := fld d 950 945, pageLo := fld d 944 923, pageHi := fld d 922 901 }

/-- WHOLE. -/
def placeWhole (d : Nat) : Bool := bit d 973
/-- TO_TIER. -/
def placeTo (d : Nat) : Nat := fld d 900 899
/-- FRAME_CLASS. -/
def placeCls (d : Nat) : Nat := fld d 898 896
/-- PGATE_SET. -/
def placeGate (d : Nat) : Nat := fld d 871 860

/-- Whether TO_TIER is allowed for an opcode (R254). -/
def toTierOk (op dst : Nat) : Bool :=
  if op = opPlace then decide (1 ≤ dst) else if op = opPromote then dst == 1 || dst == 2 else if op = opDemote then dst == 2 || dst == 3
  else if op = opDrop then dst == 0 else dst == 0 || dst == 2

/-- Check 1 of R249, but for the cases of OBJ_KIND. -/
def placeBad1 (op d : Nat) (isSeq : Bool) : Bool :=
  !toTierOk op (placeTo d) || (placeWhole d && resv d 972 901) || decide (6 ≤ placeCls d) ||
  ((op == opDrop || op == 0x15) && placeGate d != 0xFFF) || (!isSeq && resv d 944 901)

/-- The range that a descriptor names in an object of a shape (WHOLE: all of it). -/
def placeSpan (d layers heads : Nat) (isSeq : Bool) : PageRange :=
  if placeWhole d then { layerLo := 0, layerHi := layers - 1, headLo := 0, headHi := heads - 1, pageLo := 0, pageHi := 4194303 }
  else { placeRange d with pageHi := if isSeq then (placeRange d).pageHi else 4194303 }

/-- Check 2 of R249. -/
def spanBad (x : PageRange) (layers heads : Nat) : Bool :=
  decide (x.layerHi < x.layerLo ∨ x.headHi < x.headLo ∨ x.pageHi < x.pageLo) || rangeOut x layers heads

/-- The object of a placement descriptor, as its checks need it. -/
structure PlaceObj where
  isSeq  : Bool
  slot   : Nat
  layers : Nat
  heads  : Nat
  owner  : Nat
  size   : Nat
  deriving DecidableEq, Repr

/-- A sequence as an object. -/
def seqObj (s : State) (c : Ch) (slot : Nat) : PlaceObj :=
  let e := seqAt s c slot
  { isSeq := true, slot, layers := layersOf e, heads := headsOf e, owner := e.owner.toNat,
    size := (pageLayout (fmtD e.kFmt.toNat) (fmtD e.vFmt.toNat) (headDimOf e.headDim.toNat)).size }

/-- A block as an object. -/
def pbObj (s : State) (c : Ch) (slot : Nat) : PlaceObj :=
  let b := pbAt s c slot
  { isSeq := false, slot, layers := pbLayers b, heads := pbHeads b, owner := b.owner.toNat,
    size := (pageLayout (fmtD b.kFmt.toNat) (fmtD b.vFmt.toNat) (headDimOf b.headDim.toNat)).size }

/-- The pages of an object within a range that are not Empty: key, page number, page; in layer, KV head, page order (R250). -/
def objPages (s : State) (c : Ch) (o : PlaceObj) (x : PageRange) : List (Nat × Nat × Pte) :=
  if o.isSeq then entriesIn s c o.slot x
  else
    let ks := (pairsOf o.layers o.heads).filter (fun q => decide (x.layerLo ≤ q.1 ∧ q.1 ≤ x.layerHi ∧ x.headLo ≤ q.2 ∧ q.2 ≤ x.headHi))
    (ks.map (fun q => (recKey o.slot q.1 q.2, (pbAt s c o.slot).blockNo.toNat, recAt s c (recKey o.slot q.1 q.2)))).filter (fun k => k.2.2.kind != .empty)

/-- Page numbers of a range that an object has: of WHOLE, the pages up to the sequence's last held one (DESIGN CHOICE, log 140); a block has one. -/
def rangePages (s : State) (c : Ch) (d : Nat) (o : PlaceObj) (x : PageRange) : Nat :=
  if !o.isSeq then 1
  else if placeWhole d then ((seqAt s c o.slot).length.toNat + 63) / 64
  else x.pageHi + 1 - x.pageLo

/-- The pages of a range that are Empty: those that no entry holds (R250 counts them among the pages skipped). -/
def emptyPages (s : State) (c : Ch) (d : Nat) (o : PlaceObj) (x : PageRange) (ps : List (Nat × Nat × Pte)) : Nat :=
  (x.layerHi + 1 - x.layerLo) * (x.headHi + 1 - x.headLo) * rangePages s c d o x - ps.length

/-- Whether a page demoted to T2 goes to its home and takes no list entry (R168). -/
def goesHome (s : State) (c : Ch) (op dst : Nat) (e : Pte) : Bool :=
  isPooled s c && op == opDemote && dst == 2 && e.tier == 1 && (homeAt s c e.summIdx.toNat).homed

/-- The opcode's own conditions (check 3 of R249). -/
def placeBad3 (s : State) (c : Ch) (op d : Nat) (o : PlaceObj) : Option St :=
  let e := seqAt s c o.slot
  let frozen := o.isSeq && e.state == .frozen
  if op = opPromote ∧ frozen ∧ !(placeWhole d ∧ placeTo d = 1) then some .seqFrozen
  else if op = opPromote ∧ frozen ∧ summSlots s c < (s.ch c).obj.summs.length + ((s.marl c).frozen.filter (fun k => pteSlot k.1 == o.slot)).length then some .summaryFull
  else if op = opDrop ∧ !e.lossOk then some .lossDenied
  else if placeTo d = 2 ∧ !hasT2 (s.marl c) then some .mediaAbsent
  else if op = opDemote ∧ placeWhole d ∧ placeTo d = 2 ∧ (s.marl c).readonly then some .mediaReadonly
  else none

/-- The entries of the destination list. -/
def placeList (s : State) (c : Ch) (d n : Nat) : List Nat :=
  (List.range n).map (fun i => t0Num s c (fld d 895 872 + 8 * i) 8)

/-- The first list entry that fails its check, with its index and status. -/
def listBad (s : State) (c : Ch) (d : Nat) (o : PlaceObj) (vs : List Nat) : Option (Nat × St) :=
  vs.zipIdx.findSome? (fun (v, i) => (destBad s c (placeTo d) (placeCls d) o.size o.owner v).map (fun e => (i, e)))

/-- The moves of a descriptor: the pages that it acts on, each with its list entry where it takes one. -/
def planMoves (s : State) (c : Ch) (r : Ring) (op d : Nat) (o : PlaceObj) : List (Nat × Nat × Pte) → List Nat → List Move
  | [], _ => []
  | p :: ps, vs =>
    let later := allRings.any (fun q => q != r && pageInFlight s c q (!o.isSeq) p.1)
    if goesHome s c op (placeTo d) p.2.2 then
      { key := p.1, isPb := !o.isSeq, dest := 0, homed := true, ended := false, wait3 := false, later } :: planMoves s c r op d o ps vs
    else match vs with
      | [] => { key := p.1, isPb := !o.isSeq, dest := 0, homed := false, ended := false, wait3 := false, later } :: planMoves s c r op d o ps []
      | v :: vs => { key := p.1, isPb := !o.isSeq, dest := BitVec.ofNat 45 v, homed := false, ended := false, wait3 := false, later } :: planMoves s c r op d o ps vs

/-- The summaries of a Frozen sequence return to the pool, and it becomes Active (R256 steps 1 to 3). -/
def unfreeze (s : State) (c : Ch) (slot : Nat) : State :=
  let fs := (s.marl c).frozen.filter (fun k => pteSlot k.1 == slot)
  let s := fs.foldl (fun t k => match allocSumm t c k.2 with
    | none => t
    | some (i, t) => setPte t c k.1 { pteAt t c k.1 with summIdx := BitVec.ofNat 24 i }) s
  let s := dropFrozen s c slot
  jSlot (modSeq s c slot (fun e => { e with state := .active })) c slot

/-- Marks the pages with the gate (R251). -/
def markPages (s : State) (c : Ch) (x : MoveCtx) : State :=
  if x.pgate = 0xFFF then s
  else x.moves.foldl (fun t m => setPage t c m.isPb m.key { pageAt t c m.isPb m.key with pgate := x.pgate }) s

/-- The moves begin: marks, the return of a Frozen sequence, and the requests to T3. -/
def beginMoves (s : State) (c : Ch) (r : Ring) (x : MoveCtx) : State :=
  let s := markPages s c x
  let slot := (handleOf x.obj.toNat).slot
  let s := if x.kind = 0 ∧ x.opcode.toNat = opPromote ∧ (seqAt s c slot).state = .frozen then unfreeze s c slot else s
  if x.moves.isEmpty then movesFinish s c r x else startAll3 (setWait s c r (.moves x)) c

/-- The context of a descriptor that passes its checks. -/
def placeCtx (op d kind : Nat) (o : PlaceObj) (skipped : Nat) (ms : List Move) : MoveCtx :=
  { opcode := BitVec.ofNat 8 op, kind, obj := BitVec.ofNat 48 (fld d 1023 976), whole := placeWhole d, toTier := BitVec.ofNat 2 (placeTo d),
    cls := BitVec.ofNat 3 (placeCls d), pgate := BitVec.ofNat 12 (placeGate d), owner := BitVec.ofNat 12 o.owner, tag := BitVec.ofNat 16 (hdrOf d).tag,
    useSlot := if o.isSeq then some o.slot else none, moves := ms, acted := 0, skipped, evicted := 0, status := 0, detail := 0, stopped := false }

/-- The rest of the checks and the begin of `Place`, `Promote` or `Demote` (R249). -/
def placeRun (s : State) (c : Ch) (r : Ring) (op d kind : Nat) (o : PlaceObj) : State :=
  let x := placeSpan d o.layers o.heads o.isSeq
  if placeBad1 op d o.isSeq then retireSt s c r .badField
  else if spanBad x o.layers o.heads then retireSt s c r .outOfRange
  else match placeBad3 s c op d o with
    | some e => retireSt s c r e
    | none =>
      let ps := objPages s c o x
      let acts := ps.filter (fun p => !moveSkips s c op (placeTo d) (!o.isSeq) p.2.2)
      let n := (acts.filter (fun p => !goesHome s c op (placeTo d) p.2.2)).length
      if !inT0 (fld d 895 872) (8 * n) then retireSt s c r .badField
      else
        let vs := placeList s c d n
        match listBad s c d o vs with
        | some (i, e) => retire s c r (cplDet e i)
        | none =>
          if !keyLoaded s o.owner then retireSt s c r .keyEmpty
          else
            let y := placeCtx op d kind o (ps.length - acts.length + emptyPages s c d o x ps) (planMoves s c r op d o acts vs)
            if freezes y then
              let s := jSlot (modSeq s c o.slot (fun e => { e with state := .frozen })) c o.slot
              if (seqAt s c o.slot).useCount.toNat ≤ 1 then beginMoves s c r y else setWait s c r (.freeze o.slot y)
            else beginMoves s c r y

/-- Whether a whole `Demote` of a sequence that freezes it is under way on another ring (R255 step 2). -/
def freezing (s : State) (c : Ch) (slot : Nat) : Bool :=
  allRings.any (fun r => match (s.ring c r).wait with
    | .freeze x _ => x == slot
    | .freezeOut x _ _ => x.useSlot == some slot
    | .moves x => freezes x && x.useSlot == some slot
    | _ => false)

/-- The admission of a placement descriptor on a block of this channel: R75 first (R249), then reserved bits, then `k`. -/
def onBlock (s : State) (c : Ch) (r : Ring) (d : Nat) (k : State → Nat → State) : State :=
  let v := fld d 1023 976
  if wasAdmitted s c r then k s (pbIndexOf v).slot
  else if (pbIndexOf v).home ≠ c.val then retireSt s c r .wrongChannel
  else if !pbLive s v then retireSt s c r .stalePrefix
  else if resv v 47 40 ∨ resv d 859 128 then retireSt s c r .badField
  else k s (pbIndexOf v).slot

/-- A placement of a region by an opcode that does not accept one: R348 first, then check 1 of R249. -/
def placeRegion (s : State) (c : Ch) (r : Ring) (d : Nat) : State :=
  match regionCheck s (fld d 1007 976) with
  | some e => retireSt s c r e
  | none => retireSt s c r .badField

/-- Check 6 of R54 for a placement descriptor: a layer or KV head outside the sequence's shape. -/
def placeShape (s : State) (c : Ch) (r : Ring) (d slot : Nat) : Bool :=
  !wasAdmitted s c r && !placeWhole d && rangeOut (placeRange d) (layersOf (seqAt s c slot)) (headsOf (seqAt s c slot))

/-- `Place`, `Promote` and `Demote` at the ring's head. -/
def placeBody (op : Nat) (s : State) (c : Ch) (r : Ring) (d : Nat) : State :=
  let kind := fld d 975 974
  if kind = 3 then retireSt s c r .badField
  else if kind = 2 then placeRegion s c r d
  else if kind = 1 then onBlock s c r d (fun s slot => placeRun s c r op d 1 (pbObj s c slot))
  else
    let h := handleOf (fld d 1023 976)
    if op = opPromote ∧ freezing s c h.slot ∧ seqCheck s c h true = none then setWait s c r .useFull
    else match admitCheck s c r h (op == opPromote) with
      | some e => retireSt s c r e
      | none =>
        if placeShape s c r d h.slot then retireSt s c r .outOfRange
        else if resv d 859 128 then retireSt s c r .badField
        else admitUse s c r [h.slot] (fun s => placeRun s c r op d 0 (seqObj s c h.slot))

/-- PLACE (R249 to R254). -/
def execPlace (c : Ch) (r : Ring) (s : State) : Host.Outcome State Fault Refusal :=
  .next (runHead s c r 0x11 (fun d s => placeBody 0x11 s c r d))

/-- PROMOTE (R254, R256). -/
def execPromote (c : Ch) (r : Ring) (s : State) : Host.Outcome State Fault Refusal :=
  .next (runHead s c r 0x12 (fun d s => placeBody 0x12 s c r d))

/-- DEMOTE (R254, R255). A freeze whose summaries wait for acceptance, or at the release log, goes on. -/
def execDemote (c : Ch) (r : Ring) (s : State) : Host.Outcome State Fault Refusal :=
  .next (match (s.ring c r).wait with
    | .freezeOut x next left => if isUp s c then underOwn s c r (fun s => freezeGo s c r x next left) else s
    | .moves x => if isUp s c ∧ freezes x ∧ x.moves.all (fun m => m.ended) ∧ !logFull s c then underOwn s c r (fun s => freezeBegin s c r x) else s
    | _ => runHead s c r 0x13 (fun d s => placeBody 0x13 s c r d))

/-- USE_COUNT_ADMIT (R53): a descriptor that waited at a full USE_COUNT (or a `Promote` behind a freeze) goes to its admission; the
freeze of a whole `Demote` goes on once its slot counts the descriptor alone (R255). -/
def execUseCountAdmit (c : Ch) (r : Ring) (s : State) : Host.Outcome State Fault Refusal :=
  .next (match (s.ring c r).wait with
    | .useFull => setWait s c r .released
    | .freeze slot x => if (seqAt s c slot).useCount.toNat ≤ 1 then beginMoves s c r x else s
    | _ => s)

/-- PAGE_MOVE_END (R163, R251 to R253): move `k` of the ring's placement descriptor runs and ends; a move of T3 ends with the answer to
its request. While releases wait for room in the log, the mover waits with them (R237). -/
def execPageMoveEnd (c : Ch) (r : Ring) (k : Nat) (env : Env) (s : State) : Host.Outcome State Fault Refusal :=
  .next (match ringMoves s c r with
    | none => s
    | some x => match x.moves[k]? with
      | none => s
      | some m =>
        if m.ended ∨ m.wait3 ∨ !inTable x k ∨ moveT3 s c x m then s
        else if logFull s c then noteFull s c
        else if journalOver s c then s
        else underOwn s c r (fun s => moveRun s c r x k m env))

/-- T3_MOVE_RESUME (R389): a T3 move that was held may start; with it whatever else the one mover of the channel can start (R261). -/
def execT3MoveResume (c : Ch) (r : Ring) (s : State) : Host.Outcome State Fault Refusal :=
  .next (if (ringMoves s c r).isSome then startAll3 s c else s)

/-- HOST_MEMORY_REQUEST_DONE (R393): the request to host memory of move `k` is answered, with the data of a read, or times out. -/
def execHostMemoryRequestDone (c : Ch) (r : Ring) (k : Nat) (timeout : Bool) (data : List Byte) (s : State) : Host.Outcome State Fault Refusal :=
  .next (match ringMoves s c r with
    | none => s
    | some x => match x.moves[k]? with
      | none => s
      | some m => if (windowAt s c (t3Window (moveLoc3 s c x m))).host then windowsStep (move3Done s c r k (if timeout then .linkTimeout else .ok) data).2 c else s)

/-! ## Drop (R254, R257) -/

/-- Whether `Drop` skips an entry. -/
def dropSkips (p : Pte) : Bool := p.kind != .priv || p.poison || p.pgate != 0xFFF

/-- Drops one entry: released, Empty, its summary freed (or, of a Frozen sequence, taken out of the metadata store). -/
def dropOne (s : State) (c : Ch) (key : Nat) : State :=
  let p := pteAt s c key
  if summFrozen s c key then
    modMarl (setPte (releaseLoc s c p.tier p.cls p.loc) c key Pte.empty) c (fun m => { m with frozen := smDel m.frozen key })
  else freeSumm (setPte (releasePage s c p) c key Pte.empty) c p.summIdx.toNat

/-- Whether a `Drop` waits at an entry (R252): the other ring has the page in flight, or an admitted `Append` holds it. -/
def dropWaits (s : State) (c : Ch) (r : Ring) (key : Nat) : Bool :=
  allRings.any (fun q => q != r && pageInFlight s c q false key) || appendHolds s c key

/-- Drops the entries that are left, in order; the unit waits at a release while the release log is full (R237), and at an entry that another agent
holds (R252). -/
def dropGo (c : Ch) (r : Ring) : List Nat → Nat → Nat → State → State
  | [], acted, skipped, s => retire s c r (cplRes .ok (at_ 0 24 acted + at_ 24 24 skipped))
  | k :: ks, acted, skipped, s =>
    if logFullFor s c r then setWait (noteFull s c) c r (.dropping (k :: ks) acted skipped)
    else if dropWaits s c r k then setWait s c r (.dropping (k :: ks) acted skipped)
    else if dropSkips (pteAt s c k) then dropGo c r ks acted (skipped + 1) s
    else dropGo c r ks (acted + 1) skipped (dropOne s c k)

/-- The effect of a `Drop` that passes. -/
def dropRun (s : State) (c : Ch) (r : Ring) (d slot : Nat) : State :=
  let o := seqObj s c slot
  let x := placeSpan d o.layers o.heads true
  if placeBad1 opDrop d true then retireSt s c r .badField
  else if spanBad x o.layers o.heads then retireSt s c r .outOfRange
  else if !(seqAt s c slot).lossOk then retireSt s c r .lossDenied
  else
    let ps := entriesIn s c slot x
    let acts := ps.filter (fun p => !dropSkips p.2.2)
    dropGo c r (acts.map (fun p => p.1)) 0 (ps.length - acts.length + emptyPages s c d o x ps) s

/-- DROP (R257). -/
def execDrop (c : Ch) (r : Ring) (s : State) : Host.Outcome State Fault Refusal :=
  .next (match droppingOf s c r opDrop with
    | some (ks, acted, skipped) => underOwn s c r (dropGo c r ks acted skipped)
    | none => runHead s c r 0x14 (fun d s =>
      match fld d 975 974 with
      | 0 =>
        let h := handleOf (fld d 1023 976)
        match admitCheck s c r h true with
        | some e => retireSt s c r e
        | none =>
          if placeShape s c r d h.slot then retireSt s c r .outOfRange
          else if resv d 859 128 then retireSt s c r .badField
          else admitUse s c r [h.slot] (fun s => dropRun s c r d h.slot)
      | 1 => onBlock s c r d (fun s _ => retireSt s c r .badField)
      | 2 => placeRegion s c r d
      | _ => retireSt s c r .badField))

/-! ## Persist (R258) -/

/-- Whether a unit holds frames of the pages of a list only (R273): every set slot is covered by one of them. -/
def unitOwn (s : State) (c : Ch) (locs : List (Nat × BitVec 45)) (u : Nat) : Bool :=
  let mask := locs.foldl (fun a x => if (unitsOf x.1 x.2).contains u then a ||| slotMask x.1 x.2 else a) 0
  ((mapAt s c u).slots.toNat &&& (0xFF - mask % 256)) == 0

/-- The T2 location that an image names for a page: its location, or its home. -/
def imageLoc (s : State) (c : Ch) (p : Pte) : List (Nat × BitVec 45) :=
  if p.tier = 2 then [(p.cls.toNat, p.loc)]
  else if p.tier = 1 ∧ (homeAt s c p.summIdx.toNat).homed then
    let h := homeAt s c p.summIdx.toNat
    [(h.cls.toNat, homeLoc h)]
  else []

/-- The pages of an object that its image names: Private pages of a sequence, records of a block. -/
def imagePages (ps : List (Nat × Nat × Pte)) (isSeq : Bool) : List (Nat × Nat × Pte) :=
  ps.filter (fun p => if isSeq then p.2.2.kind == .priv else true)

/-- The first page that fails a condition: its page number. -/
def firstPage (ps : List (Nat × Nat × Pte)) (f : Nat × Nat × Pte → Bool) : Option Nat := (ps.find? f).map (fun p => p.2.1)

/-- Whether a T1 page lacks a home and takes one under TO_TIER 2. A poisoned page takes none, as no mover path takes it (R250; DESIGN CHOICE, log 167). -/
def needsHome (s : State) (c : Ch) (p : Pte) : Bool := p.tier == 1 && !p.poison && !(homeAt s c p.summIdx.toNat).homed

/-- The page conditions of `Persist`: the page at fault. -/
def persistBad (s : State) (c : Ch) (dst : Nat) (o : PlaceObj) (ps : List (Nat × Nat × Pte)) : Option Nat :=
  let own := imagePages ps o.isSeq
  match firstPage own (fun p => p.2.2.tier == 3) with
  | some p => some p
  | none => match firstPage own (fun p => p.2.2.tier == 1 && (!isPooled s c || (dst == 0 && !(homeAt s c p.2.2.summIdx.toNat).homed))) with
    | some p => some p
    | none => match firstPage ps (fun p => o.isSeq && p.2.2.kind == .shared &&
          (imageOf (s.marl c) 1 (BitVec.ofNat 48 (fld p.2.2.loc.toNat 39 0))).isNone) with
      | some p => some p
      | none =>
        let locs := own.flatMap (fun p => imageLoc s c p.2.2)
        firstPage own (fun p => (imageLoc s c p.2.2).any (fun x => (unitsOf x.1 x.2).any (fun u => !unitOwn s c locs u)))

/-- The page whose new home would lie in a unit that holds another object's frames (R273), the first of them. -/
def homesOwn (s : State) (c : Ch) (cls : Nat) (own : List (Nat × Nat × Pte)) (homes : List ((Nat × Nat × Pte) × Nat)) : Option Nat :=
  let new := homes.map (fun h => (h.1.2.1, cls, BitVec.ofNat 45 h.2))
  let locs := own.flatMap (fun p => imageLoc s c p.2.2) ++ new.map (fun h => h.2)
  (new.find? (fun h => (unitsOf h.2.1 h.2.2).any (fun u => !unitOwn s c locs u))).map (fun h => h.1)

/-- Homes for the unhomed T1 pages (step 1): the pages left, the first refusal, the state and the pages evicted. Pages left without a refusal wait, for
acceptance or at the release log. -/
def giveHomes (c : Ch) (cls owner size : Nat) (exclude : List Nat) : List ((Nat × Bool) × Nat) → State → Nat → List ((Nat × Bool) × Nat) × Option St × State × Nat
  | [], s, n => ([], none, s, n)
  | (p, v) :: rest, s, n =>
    let e := pageAt s c p.2 p.1
    let loc : BitVec 45 := BitVec.ofNat 45 v
    if !needsHome s c e then giveHomes c cls owner size exclude rest s n
    else if rangeBad s c (frameAddr e.loc) size then ((p, v) :: rest, some .pagePoisoned, loseRead s c (pageRefOf s c p.2 p.1 owner) size, n)
    else match programFrame s c 2 owner cls loc (t1Plain s c owner (frameAddr e.loc) size) exclude with
      | .wait t m => ((p, v) :: rest, none, t, n + m)
      | .refuse x t m => ((p, v) :: rest, some x, t, n + m)
      | .ok t m =>
        let t := setHome t c e.summIdx.toNat { homed := true, wbBusy := false, home := loc.setWidth 35, cls := BitVec.ofNat 3 cls }
        giveHomes c cls owner size exclude rest (setPage t c p.2 p.1 { pageAt t c p.2 p.1 with dirty := 0 }) (n + m)

/-- How the write-back of an object's dirty pieces stands. -/
inductive Flush
  | wait (s : State)
  | stop (x : Cpl) (s : State)
  | done (s : State)

/-- Dirty pieces written back (step 2): they wait for acceptance or for a write-back of the page in flight; they end at a page whose data is lost (R229) or
whose SEALED home refused (R273). -/
def persistDirty (c : Ch) (owner size : Nat) : List (Nat × Bool × Nat) → State → Flush
  | [], s => .done s
  | (k, isPb, pn) :: rest, s =>
    let e := pageAt s c isPb k
    let h := homeAt s c e.summIdx.toNat
    let us := dirtyUnits e size
    if e.tier = 1 ∧ h.wbBusy then .wait s
    else if e.tier ≠ 1 ∨ us.isEmpty ∨ e.poison then persistDirty c owner size rest s
    else if (s.marl c).readonly then .stop (cplSt .mediaReadonly) s
    else if homeSealed s c h then .stop (cplDet .pageState pn) (setHome s c e.summIdx.toNat HomeEntry.none)
    else if orphanPieces s c (pageRefOf s c isPb k owner) size (us.flatMap unitPieces) then .stop (cplSt .pagePoisoned) s
    else match recoverPieces s c (pageRefOf s c isPb k owner) size (us.flatMap unitPieces) with
      | none => .stop (cplSt .pagePoisoned) (losePage s c (pageRefOf s c isPb k owner))
      | some t => match writeHome t c 0 owner e h size us with
        | none => .wait t
        | some t => persistDirty c owner size rest (setPage t c isPb k { e with dirty := 0 })

/-- The summaries of pages. -/
def summsOf (s : State) (c : Ch) (ps : List Pte) : SMap Summ :=
  ps.foldl (fun m p => match smGet? (s.ch c).obj.summs p.summIdx.toNat with | some x => smPut m p.summIdx.toNat x | none => m) []

/-- A page as an image holds it: in T2, at its location or home (R259); a poisoned page without a home stays as it is (DESIGN CHOICE, log 167). -/
def imagePte (s : State) (c : Ch) (p : Pte) : Pte :=
  match imageLoc s c p with
  | (cls, loc) :: _ => { p with tier := 2, cls := BitVec.ofNat 3 cls, loc, dirty := 0, pgate := 0xFFF }
  | [] => { p with pgate := if p.kind = .shared then p.pgate else 0xFFF }

/-- The image of an object (step 3). -/
def imageBody (s : State) (c : Ch) (o : PlaceObj) : ImageBody :=
  if o.isSeq then
    let ps := (seqPtes s c o.slot).map (fun k => (k.1, imagePte s c k.2))
    .seq (seqAt s c o.slot) ((s.ch c).obj.dirs.filter (fun k => k.1 / 64 / 256 == o.slot)) ps
      (summsOf s c (ps.map (fun k => k.2)))
  else
    let ks := pbRecKeys s c o.slot
    let rs := ks.map (fun k => (k, imagePte s c (recAt s c k)))
    .block (pbAt s c o.slot) rs (summsOf s c (rs.map (fun k => k.2)))

/-- Units named by an image whose programs are still in the buffer. -/
def unitsPending (m : Marl) (us : List Nat) : Bool := m.buffer.any (fun u => !u.page.gc && us.contains u.page.lu)

/-- The units of the metadata store that an image takes. -/
def storeUnits (x : Image) : List Nat := (List.range (imageUnits x)).map (fun i => x.first + i)

/-- The metadata store with an image: images whose units it takes are gone. -/
def storeImage (xs : List Image) (x : Image) : List Image :=
  xs.filter (fun y => decide (y.first + imageUnits y ≤ x.first ∨ x.first + imageUnits x ≤ y.first)) ++ [x]

/-- The place of the next image that completes among those of the device (R354). -/
def nextStamp (s : State) : Nat := 1 + ((allCh.flatMap (fun c => (s.marl c).flash.store)).map (fun x => x.stamp)).foldl max 0

/-- Appends the IMAGE records of the images whose units, and whose homes, are all programmed (R279, R290): the image then lies in the metadata
store. -/
def imageRecords (s : State) (c : Ch) : State :=
  (s.marl c).pendImgs.zipIdx.foldl (fun t (p, i) =>
    if p.jseq.isSome ∨ p.left ≠ 0 ∨ unitsPending (t.marl c) (p.image.units ++ storeUnits p.image) then t
    else
      let j := nextJseq (t.marl c)
      let prev := match imageOf (t.marl c) p.image.kind p.image.obj with | some x => x.first | none => 0xFFFFFFFF
      let t := jAppend t c (.image p.image.kind p.image.obj p.image.first (imageUnits p.image) prev)
      modMarl t c (fun m => { m with
        pendImgs := m.pendImgs.zipIdx.map (fun (q, k) => if k = i then { q with jseq := some j } else q)
        flash := { m.flash with store := storeImage m.flash.store { p.image with jseq := j, stamp := nextStamp t } } })) s

/-- Adds pages that a ring's `Persist` has evicted (R296). -/
def addEvicted (s : State) (c : Ch) (r : Ring) (n : Nat) : State := if n = 0 then s else modRing s c r (fun g => { g with evicted := g.evicted + n })

/-- The end of a `Persist`, with the event of the pages that it has evicted (R296). -/
def persistEnd (s : State) (c : Ch) (r : Ring) (tag : Nat) (x : Cpl) : State := retire (evictEvent s c 0x15 tag (s.ring c r).evicted) c r x

/-- The image that a ring's `Persist` is handing to Marl. -/
def handing (s : State) (c : Ch) (r : Ring) : Option PendImage := (s.marl c).pendImgs.find? (fun p => p.ring == r.val && p.left != 0)

/-- Hands the units of an image to Marl as far as acceptance takes them (R278), through its frozen stream (R276); when all are accepted, the stripes that it
needs are padded (R279) and the ring waits for its record to be durable. -/
def handImage (s : State) (c : Ch) (r : Ring) (owner : Nat) (x : Image) (left tag : Nat) : State :=
  let y := acceptMeta c (BitVec.ofNat 12 owner) left (x.first + imageUnits x - left) s
  let t := modMarl y.2 c (fun m => { m with pendImgs := m.pendImgs.map (fun p => if p.ring = r.val ∧ p.left ≠ 0 then { p with left := y.1 } else p) })
  if y.1 ≠ 0 then stay t c r
  else
    let t := setWait t c r (.persist (cplRes .ok 0) tag (t.ring c r).evicted)
    imageRecords (padOpens t c (fun u => !u.page.gc && (x.units ++ storeUnits x).contains u.page.lu)) c

/-- The image is built and handed to Marl, which refuses it as a program where it has no room (R258 step 3, R296). -/
def writeImage (s : State) (c : Ch) (r : Ring) (kind : Nat) (obj : BitVec 48) (units : List Nat) (body : ImageBody) (owner : Nat) (exclude : List Nat) (tag : Nat) : State :=
  let x : Image := { kind, obj, first := 0, units := dedup units, body, jseq := 0, stamp := 0 }
  let need := imageUnits x
  if (s.marl c).readonly then persistEnd s c r tag (cplSt .mediaReadonly)
  else match roomFor s c owner need exclude with
  | (.wait, t, n) => stay (addEvicted t c r n) c r
  | (.no, t, n) => persistEnd (addEvicted t c r n) c r tag (cplSt .mediaFull)
  | (.yes, t, n) =>
    let t := addEvicted t c r n
    let x := { x with first := metaFirst (t.marl c) need }
    if (t.marl c).flash.capFmt < x.first + need then persistEnd t c r tag (cplSt .mediaFull)
    else handImage (modMarl t c (fun m => { m with pendImgs := m.pendImgs ++ [{ ring := r.val, image := x, left := need, jseq := none }] })) c r owner x need tag

/-- Steps 1 to 3 of a `Persist` of a sequence or a block, from the pages that still take homes (R258). It ends when the channel no longer has the key
(R449, log 180). -/
def persistGo (s : State) (c : Ch) (r : Ring) (d kind : Nat) (o : PlaceObj) (homes : List ((Nat × Bool) × Nat)) : State :=
  let tag := (hdrOf d).tag
  match handing s c r with
  | some p => handImage s c r o.owner p.image p.left tag
  | none =>
    let s := useKey s c o.owner
    if !keyHere s c o.owner then persistEnd s c r tag (cplSt .keyEmpty)
    else
    let own := imagePages (objPages s c o (placeSpan d o.layers o.heads o.isSeq)) o.isSeq
    let exclude := own.map (fun p => p.1)
    let y := giveHomes c (placeCls d) o.owner o.size exclude homes s 0
    let t := addEvicted y.2.2.1 c r y.2.2.2
    match y.2.1 with
    | some e => persistEnd t c r tag (cplSt e)
    | none =>
      if !y.1.isEmpty then setWait t c r (.persistGo y.1)
      else match persistDirty c o.owner o.size (own.map (fun p => (p.1, !o.isSeq, p.2.1))) t with
        | .wait t => setWait t c r (.persistGo [])
        | .stop x t => persistEnd t c r tag x
        | .done t =>
          let units := (own.map (fun p => pageAt t c (!o.isSeq) p.1)).flatMap (fun p => (imageLoc t c p).flatMap (fun y => unitsOf y.1 y.2))
          writeImage t c r kind (BitVec.ofNat 48 (fld d 1023 976)) units (imageBody t c o) o.owner exclude tag

/-- `Persist` of a sequence or a block, after its admission. Once it has begun, it goes on from where it waits. -/
def persistRun (s : State) (c : Ch) (r : Ring) (d kind : Nat) (o : PlaceObj) : State :=
  let dst := placeTo d
  let ps := objPages s c o (placeSpan d o.layers o.heads o.isSeq)
  let own := imagePages ps o.isSeq
  let homes := if dst = 2 ∧ isPooled s c then own.filter (fun p => needsHome s c p.2.2) else []
  let vs := placeList s c d homes.length
  if (s.ring c r).wait = .resumed then persistGo s c r d kind o []
  else if placeBad1 0x15 d o.isSeq ∨ !placeWhole d then retireSt s c r .badField
  else if !hasT2 (s.marl c) then retireSt s c r .mediaAbsent
  else if (s.marl c).readonly then retireSt s c r .mediaReadonly
  else match persistBad s c dst o ps with
    | some p => retire s c r (cplDet .pageState p)
    | none =>
      if !inT0 (fld d 895 872) (8 * homes.length) then retireSt s c r .badField
      else match listBad s c d o vs with
      | some (i, e) => retire s c r (cplDet e i)
      | none =>
      match homesOwn s c (placeCls d) own (homes.zip vs) with
      | some p => retire s c r (cplDet .pageState p)
      | none =>
        if !keyLoaded s o.owner then retireSt s c r .keyEmpty
        else persistGo s c r d kind o ((homes.map (fun p => (p.1, !o.isSeq))).zip vs)

/-- A `Persist` that waits with pages still to take homes goes on. -/
def persistWaited (s : State) (c : Ch) (r : Ring) (homes : List ((Nat × Bool) × Nat)) : State :=
  let d := headDesc s c r
  if fld d 975 974 = 1 then persistGo s c r d 1 (pbObj s c (pbIndexOf (fld d 1023 976)).slot) homes
  else persistGo s c r d 0 (seqObj s c (handleOf (fld d 1023 976)).slot) homes

/-- Dirty region pieces of the runs of a region on a channel. -/
def dirtyPieces (s : State) (c : Ch) (g : Region) : List (Nat × HomeRun) :=
  (s.ch c).obj.dirtyMap.filterMap (fun p => (g.runs.find? (fun x => x.ch == c.val && decide (x.t1Base ≤ 4096 * p ∧ 4096 * p < x.t1Base + x.len))).map (fun x => (p, x)))

/-- Whether a piece holds a line that may not be written back: orphaned (R336) or lost. -/
def pieceBad (s : State) (c : Ch) (piece : Nat) : Bool := rangeBad s c (4096 * piece) 4096

/-- Writes a region piece back to its home unit (R248, R245); a unit not yet mapped needs room (R296). The piece's bit clears. A SEALED unit refuses it
(R273): the piece stays dirty, and the `Persist` ends as it does at a page whose home is SEALED (DESIGN CHOICE, log 172). -/
def programPiece (s : State) (c : Ch) (owner piece : Nat) (x : HomeRun) : Prog :=
  let u := runUnit x (4096 * piece)
  let plain := t1Plain s c owner (4096 * piece) 4096
  let mask := (3 <<< (2 * u.2)) % 256
  let need := if (mapAt s c u.1).mapped || (mapAt s c u.1).slots != 0 then 0 else 1
  if (mapAt s c u.1).sealed then .refuse .pageState s 0
  else match roomFor s c owner need [] with
    | (.no, t, n) => .refuse .mediaFull t n
    | (.wait, t, n) => .wait t n
    | (.yes, t, n) => match acceptUnit t c 0 owner u.1 mask true (4096 * u.2) (t2Encrypt t c owner u.1 (64 * u.2) (chunks 64 plain)) with
      | some v => .ok (modObj v c (fun o => { o with dirtyMap := o.dirtyMap.filter (fun y => y != piece) })) n
      | none => .wait t n

/-- Writes the dirty pieces of a region back as far as they go, with the pages evicted for them. -/
def persistPieces (c : Ch) (owner : Nat) : List (Nat × HomeRun) → State → Nat → Prog
  | [], s, n => .ok s n
  | (p, x) :: rest, s, n =>
    if pieceBad s c p then persistPieces c owner rest s n
    else match programPiece s c owner p x with
      | .wait t m => .wait t (n + m)
      | .refuse e t m => .refuse e t (n + m)
      | .ok t m => persistPieces c owner rest t (n + m)

/-- Units of a region's runs on a channel that hold data. -/
def regionUnits (s : State) (c : Ch) (g : Region) : List Nat :=
  ((g.runs.filter (fun x => x.ch == c.val)).flatMap (fun x =>
    ((s.marl c).map.filter (fun e => decide (x.lu ≤ e.1 ∧ e.1 < x.lu + x.len / 16384))).map (fun e => e.1)))

/-- The page number of the first page, of a sequence or a block, that lies or has its home in one of some units: a unit that a region's image names must hold
the region's data only (R273). -/
def pageWithin (s : State) (c : Ch) (us : List Nat) : Option Nat :=
  let hit (p : Pte) : Bool := (imageLoc s c p).any (fun x => (unitsOf x.1 x.2).any us.contains)
  match (s.ch c).obj.ptes.find? (fun e => e.2.kind == .priv && hit e.2) with
  | some e => some (pageNumOf s c e.2 (pteEntry e.1))
  | none => ((s.ch c).obj.pbRecs.find? (fun e => e.2.kind == .shared && hit e.2)).map (fun e => (pbAt s c (e.1 / 2 ^ 14)).blockNo.toNat)

end Sys2Proof.Machine
end

