-- ==== Sys2Proof/Machine/MemOps.lean ====
section
/-! DEFINITION. T1 as the Slip unit, the links and the host port reach it: dirty pieces of pages and regions (R243, R248), orphan marks (R334,
R336), recovery of lost lines (R247, R248, R366), and reads and writes of plaintext. -/

namespace Sys2Proof.Machine
open Sys2Proof

/-! ## Pages and region pieces at an address -/

/-- The pages in T1 whose frames meet a range: whether a block's record, key, and entry. -/
def pagesAt (s : State) (c : Ch) (a n : Nat) : List (Bool × Nat × Pte) :=
  let hit (e : Nat × Pte) : Bool :=
    (e.2.kind == .priv || e.2.kind == .shared) && e.2.tier == 1 && decide (frameAddr e.2.loc < a + n ∧ a < frameAddr e.2.loc + classBytes e.2.cls.toNat)
  (((s.ch c).obj.ptes.filter (fun e => e.2.kind == .priv && hit e)).map (fun e => (false, e.1, e.2))) ++
  (((s.ch c).obj.pbRecs.filter hit).map (fun e => (true, e.1, e.2)))

/-- The pieces of a frame that a range meets. -/
def frameHit (p : Pte) (a n : Nat) : List Nat :=
  let f := frameAddr p.loc
  piecesHit (max a f - f) (min (a + n) (f + classBytes p.cls.toNat) - max a f)

/-- Whether a T1 byte of a channel lies in a region extent that is granted. -/
def inExtent (s : State) (c : Ch) (a : Nat) : Bool :=
  s.island.grants.any (fun g => g.live && g.ch == c.val && decide (g.t1 ≤ a ∧ a < g.t1 + g.len))

/-- Region pieces of a range: 4 KiB units of T1. -/
def regionPieces (s : State) (c : Ch) (a n : Nat) : List Nat := (piecesHit a n).filter (fun p => inExtent s c (max a (4096 * p)))

/-- Sets a region piece's bit in the region dirty map; one that goes from 0 to 1 queues a KIND 1 entry (R248). -/
def markPiece (s : State) (c : Ch) (p : Nat) : State :=
  if (s.ch c).obj.dirtyMap.contains p then s
  else wbPush (modObj s c (fun o => { o with dirtyMap := insSorted o.dirtyMap p })) c true 0 p
where
  /-- Inserts into an ascending list. -/
  insSorted : List Nat → Nat → List Nat
  | [], n => [n]
  | x :: xs, n => if n < x then n :: x :: xs else if n = x then x :: xs else x :: insSorted xs n

/-- The lines of a range that a write covers whole. -/
def wholeLines (a n : Nat) : List Nat := (linesOf a n).filter (fun l => decide (a ≤ 64 * l ∧ 64 * l + 64 ≤ a + n))

/-- Whether a write of a range clears the last orphaned line of a region piece, which queues an entry whatever the piece's bit (R336). -/
def clearsLast (s : State) (c : Ch) (a n p : Nat) : Bool :=
  let ls := (s.ch c).t1Orphan.filter (fun x => x / 64 == p)
  (runAt s c.val (4096 * p)).isSome && !ls.isEmpty && ls.all (fun x => (wholeLines a n).contains x)

/-- Entries that a write of a range would queue (R246). -/
def wbNeed (s : State) (c : Ch) (pages : Bool) (a n : Nat) : Nat :=
  if !isPooled s c then 0
  else ((piecesHit a n).filter (fun p => clearsLast s c a n p || (inExtent s c (max a (4096 * p)) && !(s.ch c).obj.dirtyMap.contains p))).length +
    (if pages then ((pagesAt s c a n).map (fun x => if (homeAt s c x.2.2.summIdx.toNat).homed then ((frameHit x.2.2 a n).filter (fun i => !x.2.2.dirty.getLsbD i)).length else 0)).sum else 0)

/-- Whether a write of a range waits for room in the write-back queue (R246). -/
def wbHolds (s : State) (c : Ch) (pages : Bool) (a n : Nat) : Bool := decide (0 < wbNeed s c pages a n) && wbNoRoom s c (wbNeed s c pages a n)

/-- A write into T1 by the host port, a link or the Slip unit marks region pieces dirty; one by the Slip unit marks page pieces too (R243,
R248). -/
def touchWrite (s : State) (c : Ch) (pages : Bool) (a n : Nat) : State :=
  if !isPooled s c then s
  else
    let s := (regionPieces s c a n).foldl (fun t p => markPiece t c p) s
    if pages then (pagesAt s c a n).foldl (fun t x => markDirty t c x.1 x.2.1 (frameHit x.2.2 a n)) s else s

/-! ## Orphaned lines (R334 to R336) -/

/-- Clears the orphan mark of a line. With the last of a region piece in pooled mode, a KIND 1 entry is queued whatever the piece's bit. -/
def clearOrphan (s : State) (c : Ch) (line : Nat) : State :=
  if !(s.ch c).t1Orphan.contains line then s
  else
    let s := modCh s c (fun ch => { ch with t1Orphan := ch.t1Orphan.filter (fun x => x != line) })
    let p := line / 64
    if isPooled s c && (runAt s c.val (4096 * p)).isSome && !(s.ch c).t1Orphan.any (fun x => x / 64 == p) then
      wbPush (modObj s c (fun o => { o with dirtyMap := if o.dirtyMap.contains p then o.dirtyMap else markPiece.insSorted o.dirtyMap p })) c true 0 p
    else s

/-- A write of plaintext into T1 under an owner's key, with its marks. Nothing is written when the channel no longer has the key (R449, log 180). -/
def memWrite (s : State) (c : Ch) (pages : Bool) (owner a : Nat) (bs : List Byte) : State :=
  let s := useKey s c owner
  if !keyHere s c owner then s
  else
    let s := (wholeLines a bs.length).foldl (fun t l => clearOrphan t c l) s
    touchWrite (t1Write s c owner a bs) c pages a bs.length

/-! ## Reads with recovery (R247, R248, R366) -/

/-- Recovers the clean piece of a homed page that holds a lost line, if one does. -/
def recoverPage (s : State) (c : Ch) (a : Nat) : State :=
  match (pagesAt s c a 1).find? (fun x => (homeAt s c x.2.2.summIdx.toNat).homed) with
  | none => s
  | some (isPb, key, p) =>
    let owner := if isPb then (pbAt s c (key / 2 ^ 14)).owner.toNat else (seqAt s c (pteSlot key)).owner.toNat
    let size := if isPb then (pbObj s c (key / 2 ^ 14)).size else (seqObj s c (pteSlot key)).size
    let s := useKey s c owner
    (recoverPieces s c { isPb, key, pte := p, owner, kFmt := 0, vFmt := 0, pbIdx := pbNone } size [(a - frameAddr p.loc) / 4096]).getD s

/-- Recovers a lost clean region piece from its home (R248). -/
def recoverRegion (s : State) (c : Ch) (a : Nat) : State :=
  match runAt s c.val a with
  | none => s
  | some (idx, x) =>
    let u := runUnit x a
    let owner := (regionAt s idx).owner.toNat
    let busy : Bool := match (s.ch c).obj.wbRun with | some w => w.region && w.ref == a / 4096 | none => false
    let s := useKey s c owner
    if (s.ch c).obj.dirtyMap.contains (a / 4096) ∨ busy ∨ !keyHere s c owner then s
    else match t2Plain s c owner 1 (BitVec.ofNat 45 (at_ 32 3 (2 * u.2) + u.1)) with
      | some bs => mendWrite s c owner (4096 * (a / 4096)) bs
      | none => s

/-- A line that reads lost is recovered where R247 or R248 applies; an orphaned one is not (R334). -/
def recoverLine (s : State) (c : Ch) (line : Nat) : State :=
  if !isPooled s c ∨ !(s.ch c).t1Lost.contains line ∨ (s.ch c).t1Orphan.contains line then s
  else
    let t := recoverPage s c (64 * line)
    if (t.ch c).t1Lost.contains line then recoverRegion t c (64 * line) else t

/-- The loss response for the pages whose frames hold a lost line (R229, R231); a page that is poisoned already has had it. -/
def loseLine (s : State) (c : Ch) (line : Nat) : State :=
  if (s.ch c).t1Lost.contains line then
    ((pagesAt s c (64 * line) 64).filter (fun x => !x.2.2.poison)).foldl (fun t x => losePage t c (pageRefOf t c x.1 x.2.1 0)) s
  else s

/-- Recovers the lost lines of a range where it can (R247, R248), and makes the loss response for the pages of those that it cannot. -/
def mendRange (s : State) (c : Ch) (a n : Nat) : State :=
  let s := (linesOf a n).foldl (fun t l => recoverLine t c l) s
  (linesOf a n).foldl (fun t l => loseLine t c l) s

/-- Reads plaintext of T1: none when a line stays uncorrectable after recovery, or when the channel no longer has the key (R449, log 180). -/
def memRead (s : State) (c : Ch) (owner a n : Nat) : Option (List Byte) × State :=
  let s := useKey s c owner
  if !keyHere s c owner then (none, s)
  else
    let s := mendRange s c a n
    if rangeBad s c a n then (none, s) else (some (t1Plain s c owner a n), s)

end Sys2Proof.Machine
end

