-- ==== Sys2Proof/Machine/CoherOps.lean ====
section
/-! DEFINITION. A channel's coherence point: the memory that a host port reaches (R313, R317 to R322, R333, R334, R358), the holder table, snoops, and
the order in which requests to a line are served (R246, R329, R330, R359). -/

namespace Sys2Proof.Machine
open Sys2Proof

/-! ## Metadata as a window reads it (R64, R321) -/

/-- A sequence table entry (R63). -/
def seqBits (e : SeqEntry) : Nat :=
  at_ 496 16 e.gen.toNat + at_ 493 3 (slotStateCode e.state) + at_ 477 16 e.modelTag.toNat + at_ 469 8 e.layersM1.toNat
    + at_ 463 6 e.headsM1.toNat + at_ 460 3 e.headDim.toNat + at_ 431 29 e.length.toNat + at_ 403 28 e.posBase.toNat
    + at_ 391 12 e.owner.toNat + at_ 386 5 e.kFmt.toNat + at_ 381 5 e.vFmt.toNat + at_ 380 1 (b2n e.lossOk) + at_ 379 1 (b2n e.ring)
    + at_ 375 4 e.sinkPages.toNat + at_ 353 22 e.ringPages.toNat + at_ 331 22 e.ringHead.toNat + at_ 315 16 e.useCount.toNat
    + at_ 291 24 e.dirNode.toNat + at_ 251 40 e.prefixPb.toNat

/-- A prefix-block slot table entry (R73). -/
def pbSlotBits (p : PbSlot) : Nat := at_ 63 1 (b2n p.used) + at_ 51 12 p.pbGen.toNat + p.firstNode.toNat

/-- A summary header (R72) as a window reads it: KNORM and KEY_SCALE as zero (R321). -/
def summBits (m : Summ) : Nat :=
  at_ 480 32 m.mass.toNat + at_ 408 40 m.touch.toNat + at_ 392 16 m.tilth.toNat + at_ 390 2 m.protect.toNat + at_ 389 1 (b2n m.ownerKind)
    + at_ 349 40 m.ownerRef.toNat + at_ 341 8 m.layer.toNat + at_ 335 6 m.head.toNat + at_ 313 22 m.pn.toNat + at_ 265 32 m.massN.toNat

/-- KIND of a page-table entry (R68). -/
def pkindCode : PKind → Nat
  | .empty => 0
  | .priv => 1
  | .shared => 2
  | .pruned => 3

/-- A page-table entry or page record (R68). -/
def pteBits (e : Pte) : Nat :=
  at_ 126 2 (pkindCode e.kind) + at_ 124 2 e.tier.toNat + at_ 121 3 e.cls.toNat + at_ 114 7 e.fill.toNat + at_ 113 1 (b2n e.poison)
    + at_ 97 16 e.dirty.toNat + at_ 85 12 e.pgate.toNat + at_ 69 16 e.refcnt.toNat + at_ 45 24 e.summIdx.toNat + e.loc.toNat

/-- A directory entry (R67). -/
def dirBits (d : DirEntry) : Nat := at_ 63 1 (b2n d.present) + at_ 61 2 d.depth.toNat + d.rootNode.toNat

/-- STATE of a prefix-block descriptor (R74). -/
def pbStateCode : PbState → Nat
  | .free => 0
  | .building => 1
  | .live => 2
  | .poisoned => 3

/-- The header of a prefix-block descriptor (R74). -/
def pbHeadBits (p : PbSlot) : Nat :=
  at_ 384 128 p.key.toNat + at_ 368 16 p.modelTag.toNat + at_ 356 12 p.pbGen.toNat + at_ 354 2 (pbStateCode p.state) + at_ 346 8 p.layersM1.toNat
    + at_ 340 6 p.headsM1.toNat + at_ 337 3 p.headDim.toNat + at_ 332 5 p.kFmt.toNat + at_ 327 5 p.vFmt.toNat + at_ 305 22 p.blockNo.toNat
    + at_ 265 40 p.parent.toNat + at_ 253 12 p.owner.toNat

/-- A home run of a region record (R347). -/
def homeRunBits (x : HomeRun) : Nat :=
  at_ 127 1 1 + at_ 120 4 x.ch + at_ 104 16 (x.t1Base / 0x200000) + at_ 88 16 (x.len / 0x200000) + at_ 32 32 x.lu

/-- A registration of a region record (R347). -/
def regBits (x : Reg) : Nat :=
  at_ 127 1 (b2n x.valid) + at_ 126 1 (b2n x.revoked) + at_ 124 2 x.kind.toNat + at_ 120 4 x.rights.toNat + at_ 116 4 x.unit.toNat
    + at_ 100 16 x.conn.toNat + at_ 64 32 x.regEp.toNat + at_ 32 32 x.revEp.toNat

/-- A region record (R347): its first 0xC40 bytes; the rest is reserved. Home runs stand in the order in which `RegionExtent` made them
(log 12). -/
def regionRecBytes (g : Region) : List Byte :=
  natLe g.root.toNat 8 ++ natLe g.version.toNat 8 ++ natLe g.epoch.toNat 4 ++ natLe g.drain0.toNat 4 ++ natLe g.drain1.toNat 4
    ++ natLe (g.regs.filter (fun e => e.2.valid)).length 2 ++ natLe g.runs.length 2 ++ zeros 32
    ++ (List.range 64).flatMap (fun i => natLe ((g.runs[i]?).elim 0 homeRunBits) 16)
    ++ (List.range 128).flatMap (fun i => natLe ((smGet? g.regs i).elim 0 regBits) 16)

/-- A word of a mid node (R67): the number of the node below. What a word that leads to no node holds is a free value in its bits [23:0] (log
12). -/
def midWord (s : State) (c : Ch) (free : Nat) (k : NodeKey) : List Byte := natLe (if nodeTaken s c k then nodeOf s c k else fld free 23 0) 4

/-- Bytes [o, o + 64) of a node in use (R67, R68, R74, R347, R392). What the spec lays out in no way (a connection's context, bytes past a
directory or a descriptor) reads as the free bytes `free`. -/
def nodeLine (s : State) (c : Ch) (free : List Byte) (k : NodeKey) (o : Nat) : List Byte :=
  let part := fun (i n : Nat) => bsub free (i * n) n
  match k with
  | .dir slot i =>
    let e := seqAt s c slot
    (List.range 8).flatMap (fun j =>
      let x := i * 512 + o / 8 + j
      if x < layersOf e * headsOf e then natLe (dirBits (dirAt s c slot (x / headsOf e) (x % headsOf e))) 8 else part j 8)
  | .leaf slot l h i => (List.range 4).flatMap (fun j => natLe (pteBits (pteAt s c (pteKey slot l h (i * 256 + o / 16 + j)))) 16)
  | .mid slot l h i => (List.range 16).flatMap (fun j =>
      let x := o / 4 + j
      midWord s c (leNat (part j 4)) (if i = 1000 then .mid slot l h x else .leaf slot l h (i * 1024 + x)))
  | .pb slot i =>
    let p := pbAt s c slot
    let b := i * 4096 + o
    if b = 0 then natLe (pbHeadBits p) 64
    else (List.range 4).flatMap (fun j =>
      let x := (b - 64) / 16 + j
      if x < pbLayers p * pbHeads p then natLe (pteBits (recAt s c (recKey slot (x / pbHeads p) (x % pbHeads p)))) 16 else part j 16)
  | .region idx => bsub (regionRecBytes (regionAt s idx) ++ zeros 960) o 64
  | .conn _ _ => free
  | .window i => (List.range 4).flatMap (fun j => natLe (smGet 0 (s.ch c).link.windows (i * 256 + o / 16 + j)).toNat 16)

/-- Where the parts of the metadata area begin, in R64's order: prefix-block slots, summaries, nodes, mirror, map, and the map's end. -/
def mdParts (s : State) (c : Ch) : List Nat :=
  let m := s.marl c
  let a := 64 * seqSlots s c
  let b := a + 8 * pbSlots s c
  let d := b + 512 * summSlots s c
  let e := d + 4096 * nodeSlots s c
  let f := e + 0x400000
  [a, b, d, e, f, f + (if 16 ≤ m.dies then 8 * 14 * m.pagesPerBlock * m.blocks * groups m else 0)]

/-- One 64-byte line of the metadata area at byte `o` from its beginning. A node in use reads as what it serves
(`nodeLine`); a free node and Marl's buffers, whose layout the spec does not give, read free bytes (log 12). -/
def mdLine (s : State) (c : Ch) (o : Nat) : List Byte :=
  let p := mdParts s c
  let at' := fun i => p.getD i 0
  if o < at' 0 then natLe (seqBits (seqAt s c (o / 64))) 64
  else if o < at' 1 then (List.range 8).flatMap (fun i => natLe (pbSlotBits (pbAt s c ((o - at' 0) / 8 + i))) 8)
  else if o < at' 2 then
    (if (o - at' 1) % 512 = 0 then natLe (match smGet? (s.ch c).obj.summs ((o - at' 1) / 512) with | some m => summBits m | none => 0) 64 else zeros 64)
  else if o < at' 3 then
    (let free := (List.range 64).map (fun i => Config.metaByte c (mdBase s c + o + i))
     match smGet? (s.ch c).obj.nodes ((o - at' 2) / 4096) with
     | some k => nodeLine s c free k ((o - at' 2) % 4096)
     | none => free)
  else if o < at' 4 then
    (List.range 2).flatMap (fun i => mirrorRecord ((o - at' 3) / 32 + i) (smGet SieveRow.none (s.ch c).sieve.mirror ((o - at' 3) / 32 + i)))
  else if o < at' 5 then (List.range 8).flatMap (fun i => natLe (mapBits (mapAt s c ((o - at' 4) / 8 + i))) 8)
  else (List.range 64).map (fun i => Config.metaByte c (mdBase s c + o + i))

/-- What T1 holds of a line of the metadata area at byte `o` from its beginning: ciphertext under the channel metadata key with the T1 tweak (R454). Nothing reads
it but through `mdLine`. -/
def mdStored (s : State) (c : Ch) (o : Nat) : List Byte :=
  xtsEnc (s.ch c).mdKey1 (s.ch c).mdKey2 (tweakT1 c ((mdBase s c + o) / 64)) (mdLine s c o)

/-! ## Windows and extents (R318 to R322, R326) -/

/-- The fields of WIN[n] (R319). -/
structure Win where
  valid : Bool
  kind  : Nat
  ch    : Nat
  owner : Nat
  dpa   : Nat
  t1    : Nat
  len   : Nat
  deriving DecidableEq, Repr

/-- Reads WIN[n]; addresses and length in bytes. -/
def winOf (w : BitVec 128) : Win :=
  let n := w.toNat
  { valid := bit n 127, kind := fld n 126 125, ch := fld n 124 121, owner := fld n 120 109, dpa := 0x200000 * fld n 95 76,
    t1 := 0x200000 * fld n 63 48, len := 0x200000 * fld n 47 32 }

/-- The windows of a logical device. -/
def winsOf (s : State) (l : Ld) : List Win := (s.ld l).win.toList.map winOf

/-- Length of the static partition (R318). -/
def staticLen (s : State) (l : Ld) : Nat := 2 ^ 30 * fld (s.ld l).cfg.toNat 22 12

/-- The partition of a DPA at or above the static partition. -/
def partOf (s : State) (l : Ld) (dpa : Nat) : Nat := (dpa - staticLen s l) / 2 ^ 40

/-- What a DPA names. -/
inductive Target
  | frame (c : Ch) (owner t1 : Nat)
  | meta_ (c : Ch) (t1 : Nat)
  | extent (c : Ch) (g : Grant) (t1 : Nat)
  | unmapped
  deriving DecidableEq, Repr

/-- Resolves a DPA of a logical device; HDM-DB partitions are there in 256-byte flit mode only (R305). -/
def targetOf (s : State) (l : Ld) (dpa : Nat) : Target :=
  if dpa < staticLen s l then
    match (winsOf s l).find? (fun w => w.valid && decide (w.dpa ≤ dpa ∧ dpa < w.dpa + w.len)) with
    | some w => match chOf w.ch with
      | some c => if w.kind = 0 then .frame c w.owner (w.t1 + (dpa - w.dpa)) else .meta_ c (w.t1 + (dpa - w.dpa))
      | none => .unmapped
    | none => .unmapped
  else
    match s.island.grants.find? (fun g => g.live && g.ld == l.val && (g.part < 2 || s.host.flit256) && decide (g.dpa ≤ dpa ∧ dpa < g.dpa + g.len)) with
    | some g => match chOf g.ch with
      | some c => .extent c g (g.t1 + (dpa - g.dpa))
      | none => .unmapped
    | none => .unmapped

/-- LAPSED_ACCESS of ACCESS_ERR. -/
def aeLapsed : BitVec 5 := 16
/-- UNMAPPED_DPA. -/
def aeUnmapped : BitVec 5 := 8
/-- RO_WRITE. -/
def aeRoWrite : BitVec 5 := 2
/-- BAD_SIZE. -/
def aeBadSize : BitVec 5 := 1

/-- All ones with poison. -/
def poisonOnes (s : State) (l : Ld) : State := emit s (.readPoison l.val (some (List.replicate 64 0xFF)))

/-! ## Access to T1 by a host -/

/-- A host's read of a line under an owner's key: an orphaned line gives its data with poison (R334), a lost one or a key that is absent gives
poison. -/
def hostReadLine (s : State) (l : Ld) (c : Ch) (owner t1 : Nat) : State :=
  let s := useKey s c owner
  if !keyHere s c owner then emit s (.readPoison l.val none)
  else if (s.ch c).t1Orphan.contains (t1 / 64) then emit s (.readPoison l.val (some (t1Plain s c owner t1 64)))
  else match memRead s c owner t1 64 with
    | (some bs, t) => emit t (.readData l.val bs)
    | (none, t) => emit t (.readPoison l.val none)

/-- Bytes of a line after a write under byte enables. -/
def mergeBytes (old new : List Byte) (be : BitVec 64) : List Byte := (List.range 64).map (fun i => if be.getLsbD i then new.getD i 0 else old.getD i 0)

/-- A host's write of a line under an owner's key; a partial write leaves a loss or orphan mark (R334). -/
def hostWriteLine (s : State) (c : Ch) (owner t1 : Nat) (data : List Byte) (be : BitVec 64) : State :=
  let s := useKey s c owner
  if !keyHere s c owner then s
  else if be = BitVec.allOnes 64 then memWrite s c false owner t1 (bsub data 0 64)
  else if be = 0 then s
  else
    let lost := (s.ch c).t1Lost.contains (t1 / 64)
    let s := t1EncLine s c owner (t1 / 64) (mergeBytes (t1Line s c owner (t1 / 64)) data be)
    touchWrite (if lost then addLost s c [t1 / 64] else s) c false t1 64

/-! ## The holder table (R329, R330) -/

/-- Sets of the holder table. -/
def holderSets : Nat := 65536
/-- Ways of a set. -/
def holderWays : Nat := 16

/-- The entry of a line. -/
def holderAt (s : State) (c : Ch) (line : Nat) : Option Holder := (s.ch c).holders.find? (fun h => h.line == line)

/-- Entries of a line's set, oldest first (log 36: the set is the line address modulo the number of sets). -/
def holderSet (s : State) (c : Ch) (line : Nat) : List Holder := (s.ch c).holders.filter (fun h => h.line % holderSets == line % holderSets)

/-- Records that a logical device holds a line. -/
def grantHold (s : State) (c : Ch) (l : Ld) (line : Nat) (own : Bool) : State :=
  modCh s c (fun ch => { ch with
    holders := if ch.holders.any (fun h => h.line == line) then
        ch.holders.map (fun h => if h.line = line then { h with excl := own, lds := if own then [l.val] else if h.lds.contains l.val then h.lds else h.lds ++ [l.val] } else h)
      else ch.holders ++ [{ line, excl := own, lds := [l.val] }] })

/-! ## Lines at which requests wait (R329) -/

/-- The entry of a line at which requests wait. -/
def entryAt (s : State) (c : Ch) (line : Nat) : Option Snoop := (s.ch c).snoops.find? (fun x => x.line == line)

/-- Changes the entry of a line. -/
def modEntry (s : State) (c : Ch) (line : Nat) (f : Snoop → Snoop) : State :=
  modCh s c (fun ch => { ch with snoops := ch.snoops.map (fun x => if x.line = line then f x else x) })

/-- A request joins those that wait at a line. -/
def joinLine (s : State) (c : Ch) (line : Nat) (f : SnoopFor) : State :=
  if (entryAt s c line).isSome then modEntry s c line (fun x => { x with next := x.next ++ [f] })
  else modCh s c (fun ch => { ch with snoops := ch.snoops ++ [{ line, lds := [], data := false, done := false, next := [f] }] })

/-- The first request of a line has been served. -/
def dropHead (s : State) (c : Ch) (line : Nat) : State := modEntry s c line (fun x => { x with next := x.next.drop 1, done := false })

/-- The snoops of a channel that are not answered, in order of issue: each goes to one logical device for one line (R330). -/
def snoopList (s : State) (c : Ch) : List (Nat × Nat × Bool) := (s.ch c).snoops.flatMap (fun x => x.lds.map (fun l => (x.line, l, x.data)))

/-- The snoops that are outstanding: the first 64; further ones wait (R330). -/
def snoopsOut (s : State) (c : Ch) : List (Nat × Nat × Bool) := (snoopList s c).take 64

/-- Sends a back-invalidate snoop. -/
def sendSnoop (s : State) (c : Ch) (x : Nat × Nat × Bool) : State := emit s (.snoop c.val x.2.1 x.1 x.2.2)

/-- The snoops of a line for its first request; each is sent at once while fewer than 64 are outstanding (R330). -/
def snoopLine (s : State) (c : Ch) (line : Nat) (lds : List Nat) (data : Bool) : State :=
  let x : Snoop := { line, lds, data, done := false, next := match entryAt s c line with | some x => x.next | none => [] }
  let s := modCh s c (fun ch => { ch with snoops := ch.snoops.filter (fun y => y.line != line) ++ [x] })
  ((snoopsOut s c).filter (fun y => y.1 == line)).foldl (fun t y => sendSnoop t c y) s

/-! ## CXL.mem requests (R320 to R322, R329, R330, R333, R358, R360) -/

/-- Whether CXL.mem requests of a logical device reach the device. -/
def memEnabled (s : State) (l : Ld) : Bool := s.host.up && s.host.cxl && (if s.build.mld then (s.ld l).bound else l == 0)

/-- Whether a DPA lies in an HDM-DB partition. -/
def inDb (s : State) (l : Ld) (dpa : Nat) : Bool := decide (staticLen s l + 2 * 2 ^ 40 ≤ dpa ∧ dpa < staticLen s l + 4 * 2 ^ 40)

/-- A read refused: all ones with poison, and a bit of ACCESS_ERR. -/
def refuseRead (s : State) (l : Ld) (b : BitVec 5) : State := poisonOnes (accessErr s l b) l

/-- A write refused: dropped, and a bit of ACCESS_ERR. -/
def refuseWrite (s : State) (l : Ld) (b : BitVec 5) : State := emit (accessErr s l b) (.writeDone l.val)

/-- A host write dropped for a channel that is down (R21). -/
def downWrite (s : State) (l : Ld) (c : Ch) (off : Nat) : State := emit (raiseC s c 0x0201 sevWarn (natLe l.val 1 ++ natLe off 8)) (.writeDone l.val)

/-- Whether a partition is HDM-DB. -/
def isDb (part : Nat) : Bool := decide (2 ≤ part)

/-- What a host's request to an HDM-DB line needs before it is granted: nothing, a snoop of logical devices (for data only or not), or the way
that a line holds in a full set. -/
inductive Need
  | go
  | snoop (lds : List Nat) (data : Bool)
  | way (h : Holder)
  deriving DecidableEq, Repr

/-- What a read needs. -/
def readNeed (s : State) (c : Ch) (l : Ld) (line : Nat) (own : Bool) : Need :=
  match holderAt s c line with
  | some h =>
    let others := h.lds.filter (fun x => x != l.val)
    if !others.isEmpty ∧ (own ∨ h.excl) then .snoop others (!own) else .go
  | none =>
    match holderSet s c line with
    | h :: rest => if holderWays ≤ rest.length + 1 then .way h else .go
    | [] => .go

/-- What a write needs. One from a logical device that is being snooped is its write-back and goes ahead. -/
def writeNeed (s : State) (c : Ch) (l : Ld) (line : Nat) : Need :=
  if (entryAt s c line).any (fun x => x.lds.contains l.val) then .go
  else match holderAt s c line with
    | some h =>
      let others := h.lds.filter (fun x => x != l.val)
      if others.isEmpty then .go else .snoop others false
    | none => .go

/-- A request to `line` asks for the way that another line holds: that line is evicted (R330). -/
def wantWay (s : State) (c : Ch) (h : Holder) (line : Nat) : State :=
  match entryAt s c h.line with
  | some x => if x.next.contains (.way line) then s else joinLine s c h.line (.way line)
  | none => joinLine (snoopLine s c h.line h.lds false) c h.line (.way line)

/-- The admission of a host's access to a region (R349, R358, R359): one admitted before brings the parity that counts it. -/
def lineAdmit (s : State) (idx : Nat) (l : Ld) (right : Nat) : Option (Nat × Nat) → Admit
  | some x => .ok x.2
  | none => admitTest (regionAt s idx) 0 l.val 0 right

/-- Counts an access in its region unless it was counted before. -/
def lineCount (s : State) (idx par : Nat) (adm : Option (Nat × Nat)) : State := if adm.isSome then s else regionCount s idx par

/-- A read of an extent's line that is admitted; `turn`: no request of the line comes before it. The state, and the request where it waits. -/
def readLine (s : State) (l : Ld) (c : Ch) (g : Grant) (t1 dpa : Nat) (own turn : Bool) (adm : Nat × Nat) : State × Option SnoopFor :=
  let me := SnoopFor.hostRead l.val dpa own (some adm)
  if !turn then (s, some me)
  else match (if isDb g.part then readNeed s c l (t1 / 64) own else .go) with
    | .go => (endAdm (hostReadLine (if isDb g.part then grantHold s c l (t1 / 64) own else s) l c g.owner.toNat t1) (some adm), none)
    | .snoop x data => (snoopLine s c (t1 / 64) x data, some me)
    | .way h => (wantWay s c h (t1 / 64), some me)

/-- A write of an extent's line that is admitted. One that would queue a write-back waits while the queue is full (R246). -/
def writeLine (s : State) (l : Ld) (c : Ch) (g : Grant) (t1 dpa : Nat) (data : List Byte) (be : BitVec 64) (turn : Bool) (adm : Nat × Nat) :
    State × Option SnoopFor :=
  let me := SnoopFor.hostWrite l.val dpa data be (some adm)
  if !turn then (s, some me)
  else match (if isDb g.part then writeNeed s c l (t1 / 64) else .go) with
    | .go =>
      if be ≠ 0 ∧ wbHolds s c false t1 (if be = BitVec.allOnes 64 then 64 else 63) then (s, some me)
      else (endAdm (emit (hostWriteLine s c g.owner.toNat t1 data be) (.writeDone l.val)) (some adm), none)
    | .snoop x d => (snoopLine s c (t1 / 64) x d, some me)
    | .way h => (wantWay s c h (t1 / 64), some me)

/-- A read of an extent's line: its admission, which waits at a saturated count (R359), then `readLine`. -/
def readExtent (s : State) (l : Ld) (c : Ch) (g : Grant) (t1 dpa : Nat) (own turn : Bool) (adm : Option (Nat × Nat)) : State × Option SnoopFor :=
  let idx := regIdx g.region.toNat
  if !isUp s c then (emit (endAdm s adm) (.readPoison l.val none), none)
  else match lineAdmit s idx l rightRead adm with
    | .refuse _ => (refuseRead s l aeUnmapped, none)
    | .wait _ => (s, some (.hostRead l.val dpa own none))
    | .ok par => readLine (lineCount s idx par adm) l c g t1 dpa own turn (idx, par)

/-- A write of an extent's line. -/
def writeExtent (s : State) (l : Ld) (c : Ch) (g : Grant) (t1 dpa : Nat) (data : List Byte) (be : BitVec 64) (turn : Bool) (adm : Option (Nat × Nat)) :
    State × Option SnoopFor :=
  let idx := regIdx g.region.toNat
  if !isUp s c then (downWrite (endAdm s adm) l c dpa, none)
  else match lineAdmit s idx l rightWrite adm with
    | .refuse _ => (refuseWrite s l aeUnmapped, none)
    | .wait _ => (s, some (.hostWrite l.val dpa data be none))
    | .ok par => writeLine (lineCount s idx par adm) l c g t1 dpa data be turn (idx, par)

/-- A read that no extent's line takes. -/
def readTarget (s : State) (l : Ld) : Target → State
  | .frame c owner t1 => if isUp s c then hostReadLine s l c owner t1 else emit s (.readPoison l.val none)
  | .meta_ c t1 => if isUp s c then emit s (.readData l.val (mdLine s c (t1 - mdBase s c))) else emit s (.readPoison l.val none)
  | _ => refuseRead s l aeUnmapped

/-- A write that no extent's line takes. -/
def writeTarget (s : State) (l : Ld) (dpa : Nat) (data : List Byte) (be : BitVec 64) : Target → State
  | .frame c owner t1 => if isUp s c then emit (hostWriteLine s c owner t1 data be) (.writeDone l.val) else downWrite s l c dpa
  | .meta_ _ _ => refuseWrite s l aeRoWrite
  | _ => refuseWrite s l aeUnmapped

/-- A host's request, served as far as it goes: the state, and the request where it waits. HDM-DB partitions refuse it while the lease has lapsed
(R333). -/
def hostServe (s : State) (turn : Bool) : SnoopFor → State × Option SnoopFor
  | .hostRead l dpa own adm =>
    match ldOf l with
    | none => (s, none)
    | some x =>
      if inDb s x dpa ∧ (s.ld x).lapsed then (refuseRead (endAdm s adm) x aeLapsed, none)
      else match targetOf s x dpa with
        | .extent c g t1 => readExtent s x c g t1 dpa own turn adm
        | t => (readTarget (endAdm s adm) x t, none)
  | .hostWrite l dpa data be adm =>
    match ldOf l with
    | none => (s, none)
    | some x =>
      if inDb s x dpa ∧ (s.ld x).lapsed then (refuseWrite (endAdm s adm) x aeLapsed, none)
      else match targetOf s x dpa with
        | .extent c g t1 => writeExtent s x c g t1 dpa data be turn adm
        | t => (writeTarget (endAdm s adm) x dpa data be t, none)
  | _ => (s, none)

/-- A host's request at a line of T1: it is served, or waits behind the requests that came before it. `before`: it is the write-back of a line
that is being snooped, which comes before what waits for the snoop. -/
def arriveAt (s : State) (before : Option Snoop → Bool) (c : Ch) (line : Nat) (f : SnoopFor) : State :=
  let first := before (entryAt s c line)
  let y := hostServe s ((entryAt s c line).isNone || first) f
  match y.2 with
  | none => y.1
  | some g => if first then modEntry y.1 c line (fun x => { x with next := g :: x.next }) else joinLine y.1 c line g

/-- A host's request arrives. -/
def hostArrive (s : State) (before : Option Snoop → Bool) (l : Ld) (dpa : Nat) (f : SnoopFor) : State :=
  match targetOf s l dpa with
  | .extent c _ t1 => arriveAt s before c (t1 / 64) f
  | _ => (hostServe s true f).1

/-- A read of a line arrives. -/
def memReadReq (s : State) (l : Ld) (dpa : Nat) (own : Bool) : State := hostArrive s (fun _ => false) l dpa (.hostRead l.val dpa own none)

/-- A write of a line arrives. -/
def memWriteReq (s : State) (l : Ld) (dpa : Nat) (data : List Byte) (be : BitVec 64) : State :=
  hostArrive s (fun x => x.any (fun y => y.lds.contains l.val)) l dpa (.hostWrite l.val dpa data be none)

/-! ## Device-side accesses (R329) -/

/-- The connection of a received packet. -/
def rxConn : RxPkt → Nat
  | .native _ p => (pktHdr p.hdr).dst
  | .roce _ _ p => if 0x10000 ≤ p.qpn.toNat then p.qpn.toNat - 0x10000 else 0x1000000

/-- Whether a ring's head waits at lines. -/
def ringWaits (w : RingWait) : Bool :=
  match w with
  | .snoop => true
  | .resumed => true
  | .slipRoom _ => true
  | _ => false

/-- Whether a device-side request that waits at a line is still there. -/
def devWaits (s : State) : DevReq → Bool
  | .ring c r => ringWaits (s.ring c r).wait
  | .rx c conn => (s.ch c).link.rx.any (fun x => rxConn x == conn)
  | .wb c => match (s.ch c).obj.wbq with
    | e :: _ => e.region
    | [] => false
  | .grant l => s.island.grants.any (fun g => g.leaving && g.ld == l)

/-- A device-side request's turn has come: a ring's descriptor goes on. -/
def wakeDev (s : State) : DevReq → State
  | .ring c r => if (s.ring c r).wait = .snoop then setWait s c r .resumed else s
  | _ => s

/-- A device-side access that is first at a line: a release of grants waits for its logical device alone; another access is snooped for, BISnpInv for a
write and BISnpData for a read. The state, and whether the request is done with. -/
def devServe (s : State) (c : Ch) (x : Snoop) (d : DevReq) (write : Bool) : State × Bool :=
  match d, holderAt s c x.line with
  | .grant l, some h => if h.lds.contains l then (snoopLine s c x.line [l] false, false) else (s, true)
  | .grant _, none => (s, true)
  | d, none => (wakeDev s d, false)
  | d, some h => if !write ∧ x.done then (wakeDev s d, false) else (snoopLine s c x.line h.lds (!write), false)

/-- Serves the requests that wait at a line, in order of arrival, as far as they go; `n` bounds their number. -/
def pumpLine : Nat → State → Ch → Nat → State
  | 0, s, _, _ => s
  | n + 1, s, c, line =>
    match entryAt s c line with
    | none => s
    | some x =>
      if !x.lds.isEmpty then s
      else match x.next with
        | [] => modCh s c (fun ch => { ch with snoops := ch.snoops.filter (fun y => y.line != line) })
        | .way y :: _ =>
          match holderAt s c line with
          | some h => snoopLine s c line h.lds false
          | none => pumpLine n (pumpLine n (dropHead s c line) c y) c line
        | .dev d w :: _ =>
          if !devWaits s d then pumpLine n (dropHead s c line) c line
          else match devServe s c x d w with
            | (t, true) => pumpLine n (dropHead t c line) c line
            | (t, false) => t
        | f :: _ =>
          match hostServe s true f with
          | (t, none) => pumpLine n (dropHead t c line) c line
          | (t, some g) => modEntry t c line (fun x => { x with next := g :: x.next.drop 1 })

/-- The requests that wait at a line are served as far as they go. -/
def serveLine (s : State) (c : Ch) (line : Nat) : State :=
  pumpLine (1 + ((s.ch c).snoops.map (fun x => x.next.length + 1)).sum) s c line

/-- The requests at every line of a channel. -/
def serveLines (s : State) (c : Ch) : State := ((s.ch c).snoops.map (fun x => x.line)).foldl (fun t x => serveLine t c x) s

/-- Whether a request is a device-side one of a requester. -/
def isDev (d : DevReq) : SnoopFor → Bool
  | .dev e _ => e == d
  | _ => false

/-- Whether a device-side request waits at a line. -/
def devAt (s : State) (d : DevReq) (c : Ch) (line : Nat) : Bool := (entryAt s c line).any (fun x => x.next.any (isDev d))

/-- Whether a device-side request waits at any line. -/
def devOn (s : State) (d : DevReq) : Bool := allCh.any (fun c => (s.ch c).snoops.any (fun x => x.next.any (isDev d)))

/-- Whether a line is free of holders and of requests, or it is a device-side request's turn on it. -/
def lineReady (s : State) (d : DevReq) (c : Ch) (line : Nat) : Bool :=
  match entryAt s c line with
  | none => (holderAt s c line).isNone
  | some x => x.lds.isEmpty && (match x.next with | f :: _ => isDev d f | [] => false) && (x.done || (holderAt s c line).isNone)

/-- A line of T1 that a device-side access reaches: channel, line, and whether it writes it. -/
abbrev DevLine := Ch × Nat × Bool

/-- Whether a device-side access may be made now. -/
def linesReady (s : State) (d : DevReq) (ls : List DevLine) : Bool := ls.all (fun x => lineReady s d x.1 x.2.1)

/-- A device-side request gives up its places at the lines where it waits; what stands behind it goes on. -/
def leaveLines (s : State) (d : DevReq) : State :=
  if devOn s d then
    forCh s allCh (fun t c => serveLines (modCh t c (fun ch => { ch with snoops := ch.snoops.map (fun x => { x with next := x.next.filter (fun f => !isDev d f), done := x.done && !(x.next.take 1).any (isDev d) }) })) c)
  else s

/-- A device-side access waits at its lines. It takes its places at all of them together, so that two accesses never wait for each other. -/
def awaitLines (s : State) (d : DevReq) (ls : List DevLine) : State :=
  if ls.all (fun x => devAt s d x.1 x.2.1) then s
  else
    let s := leaveLines s d
    let s := ls.foldl (fun t x => if devAt t d x.1 x.2.1 then t else joinLine t x.1 x.2.1 (.dev d x.2.2)) s
    ls.foldl (fun t x => serveLine t x.1 x.2.1) s

end Sys2Proof.Machine
end

