-- ==== Sys2Proof/Machine/LinkRx.lean ====
section
/-! DEFINITION. The link port as a target (R381 to R386, R395 to R397): requests, admission, application, duplicate records and answers, in
native and in Ethernet-compatible mode. -/

namespace Sys2Proof.Machine
open Sys2Proof

/-! ## Requests (R380, R381, R396) -/

/-- What a request does. -/
inductive ReqOp
  | write
  | read
  | atomic (wide cas : Bool)
  deriving DecidableEq, Repr

/-- A request packet in the form that both modes resolve to: connection, PSN, place in its operation, target, bytes of this packet (of a
read, of the read; of an atomic, of the word), the bytes that its FIRST packet shows, operands, whether its shape breaks R380, and the
refusal of a RoCEv2 memory key. -/
structure Req where
  eth     : Bool
  dup     : Bool
  conn    : Nat
  psn     : Nat
  first   : Bool
  last    : Bool
  op      : ReqOp
  kind    : Nat
  id      : Nat
  addr    : Nat
  len     : Nat
  total   : Nat
  payload : List Byte
  arg1    : Nat
  arg2    : Nat
  bad     : Bool
  deny    : Bool
  deriving DecidableEq, Repr

/-- The operation of a native request code (R380). -/
def reqOpOf (opc : Nat) : ReqOp :=
  match opc with
  | 1 => .write
  | 2 => .read
  | 3 => .atomic false false
  | 4 => .atomic true false
  | 5 => .atomic false true
  | _ => .atomic true true

/-- The operation code that a duplicate record keeps. -/
def opcOf : ReqOp → Nat
  | .write => 1
  | .read => 2
  | .atomic w k => 3 + b2n w + 2 * b2n k

/-- A native request. -/
def reqNative (dup : Bool) (p : Packet) : Req :=
  let h := pktHdr p.hdr
  let op := reqOpOf h.opc
  let n := p.payload.length
  let shape : Bool :=
    match op with
    | .write => n == 0 || n % 64 != 0
    | .read => n != 0 || !(h.first && h.last)
    | .atomic _ k => n != (if k then 32 else 16) || !(h.first && h.last)
  let len :=
    match op with
    | .write => n
    | .read => 64 * (h.rlen + 1)
    | .atomic w _ => if w then 16 else 8
  { eth := false, dup, conn := h.dst, psn := h.psn, first := h.first, last := h.last, op, kind := h.kind, id := h.id, addr := h.addr, len,
    total := len, payload := p.payload, arg1 := bnum p.payload 0 16, arg2 := bnum p.payload 16 16,
    bad := shape || n != h.plen || h.resp, deny := false }

/-- The fields of a RoCEv2 memory key (R396, `LinkKeySet`). -/
structure MemKey where
  valid  : Bool
  kind   : Nat
  rights : Nat
  all    : Bool
  conn   : Nat
  idx    : Nat
  deriving DecidableEq, Repr

/-- Reads a memory key. -/
def memKey (k : Word64) : MemKey :=
  let n := k.toNat
  { valid := bit n 63, kind := fld n 62 61, rights := fld n 60 58, all := bit n 57, conn := fld n 56 41, idx := fld n 15 0 }

/-- The right of a memory key that an operation needs: read, write, atomic in bits 2, 1, 0 of RIGHTS (log 38). -/
def keyRight : ReqOp → Nat
  | .read => 2
  | .write => 1
  | .atomic _ _ => 0

/-- Whether a BTH opcode is one that the port accepts (R395). -/
def roceSupported (o : Nat) : Bool := [0x06, 0x07, 0x08, 0x0A, 0x0C, 0x13, 0x14].contains o

/-- The connection of a packet's queue pair, 0x01_0000 + CONN (R395); a number that no connection has where the queue pair is none of the port's. -/
def roceConn (p : RocePkt) : Nat := if 0x10000 ≤ p.qpn.toNat then p.qpn.toNat - 0x10000 else 0x1000000

/-- A RoCEv2 request (R396). `extra`: it came while 16 reads and atomics of its queue pair were outstanding, and is refused as an invalid request (R395;
DESIGN CHOICE, log 84). -/
def reqRoce (s : State) (c : Ch) (dup extra : Bool) (p : RocePkt) : Req :=
  let o := p.opcode.toNat
  let op : ReqOp := if o = 0x0C then .read else if o = 0x13 then .atomic false true else if o = 0x14 then .atomic false false else .write
  let k := memKey (smGet 0 (s.ch c).link.keys (fld p.rkey.toNat 11 0))
  let first := o != 0x07 && o != 0x08
  let last := o != 0x06 && o != 0x07
  let len :=
    match op with
    | .write => p.payload.length
    | .read => p.len
    | .atomic _ _ => 8
  let total :=
    match op with
    | .write => if first then p.len else p.payload.length
    | _ => len
  { eth := true, dup, conn := roceConn p, psn := p.psn.toNat, first, last, op, kind := k.kind, id := fld p.rkey.toNat 31 16 * 65536 + k.idx * b2n (k.kind != 2),
    addr := fld p.va.toNat 39 0, len, total, payload := p.payload, arg1 := p.arg1.toNat, arg2 := p.swap.toNat,
    bad := extra || !roceSupported o || first && (fld p.rkey.toNat 15 12 != 0 || fld p.va.toNat 63 40 != 0 || decide (2 ^ 31 < p.len)),
    deny := first && (!k.valid || !(k.all || k.conn == roceConn p) || !bit k.rights (keyRight op)) }

/-- The request of a received packet. -/
def reqOf (s : State) (c : Ch) : RxPkt → Req
  | .native d p => reqNative d p
  | .roce d o p => reqRoce s c d o p

/-- Whether a request breaks R380 or R381 in its form (check 2 of R383). RoCEv2 writes need no line alignment (R397). -/
def reqFormBad (q : Req) : Bool :=
  q.bad ||
  match q.op with
  | .write => 2 ≤ q.kind || (!q.eth && q.addr % 64 != 0) || (q.kind == 1 && fld q.id 15 6 != 0)
  | .read => 2 ≤ q.kind || q.addr % 64 != 0 || q.len % 64 != 0 || (q.kind == 1 && fld q.id 15 6 != 0)
  | .atomic w k =>
    if q.kind = 0 then q.addr % q.len != 0
    else if q.kind = 2 then w || k || q.id != 0 || q.addr % 8 != 0 || decide (2 ^ 32 ≤ q.arg1)
    else if q.kind = 3 then !(w && k) || q.addr != 0 || q.arg2 / 2 ^ 64 != (q.arg1 / 2 ^ 64 + 1) % 2 ^ 64
    else true

/-! ## Apertures (R381, R382) -/

/-- An aperture: VALID, RD, WR, first byte of T0, generation, length in bytes. -/
structure Aperture where
  valid : Bool
  rd    : Bool
  wr    : Bool
  base  : Nat
  gen   : Nat
  len   : Nat
  deriving DecidableEq, Repr

/-- Aperture `n` of a channel. -/
def apertureAt (s : State) (c : Ch) (n : Nat) : Aperture :=
  let lo := (smGet 0 (s.ch c).link.apLo n).toNat
  let hi := (smGet 0 (s.ch c).link.apHi n).toNat
  { valid := bit lo 31, rd := bit lo 30, wr := bit lo 29, base := fld lo 23 12 * 4096, gen := fld hi 31 16, len := (fld hi 11 0 + 1) * 4096 }

/-! ## Admission (R383) -/

/-- What an admission gives: an LSTAT, a wait at a saturated DRAIN count (R359), or the region and parity to count. -/
inductive RxAdmit
  | refuse (lstat : Nat)
  | wait
  | ok (adm : Option (Nat × Nat))
  deriving DecidableEq, Repr

/-- R348 steps 1 to 3 as an LSTAT. -/
def regionLstat (s : State) (id : Nat) : Option Nat :=
  let g := regionAt s (regIdx id)
  if g.state = .retired then some 0x05
  else if g.state = .free ∨ g.gen.toNat ≠ fld id 31 16 then some 0x01
  else if g.state = .releasing then some 0x02
  else none

/-- The right of a registration that a request needs. -/
def reqRight (q : Req) : Nat :=
  if q.kind = 3 then rightPublish
  else match q.op with
    | .write => rightWrite
    | .read => rightRead
    | .atomic _ _ => rightAtomic

/-- The T1 ranges of a channel that a region's remote requests may reach: its extents and its home runs (R381). -/
def remoteRanges (s : State) (c : Ch) (id : Nat) : List (Nat × Nat) :=
  extentsOf s id c ++ ((regionAt s (regIdx id)).runs.filter (fun x => x.ch == c.val)).map (fun x => (x.t1Base, x.len))

/-- Whether `n` bytes at an address of a target lie out of range (check 6). -/
def rxOutside (s : State) (c : Ch) (kind id addr n : Nat) : Bool :=
  match kind with
  | 0 => !coveredBy (remoteRanges s c id) addr n
  | 1 =>
    let a := apertureAt s c (fld id 5 0)
    decide (a.len < addr + n) || !inT0 (a.base + addr) n || touchesPriv (a.base + addr) n
  | 2 => decide (numGates ≤ addr / 8)
  | _ => (regionAt s (regIdx id)).homeCh != c.val

/-- Check 4: the aperture and its generation. -/
def rxAperture (s : State) (c : Ch) (q : Req) : Option Nat :=
  if q.kind ≠ 1 then none
  else
    let a := apertureAt s c (fld q.id 5 0)
    if !a.valid ∨ a.gen ≠ fld q.id 31 16 then some 0x01 else none

/-- Check 5 for an aperture or a gate: the connection's rights and the aperture's. -/
def rxRights (s : State) (c : Ch) (q : Req) : Bool :=
  let k := connAt s c q.conn
  let a := apertureAt s c (fld q.id 5 0)
  match q.op with
  | .write => k.params.t0Wr && a.wr
  | .read => k.params.t0Rd && a.rd
  | .atomic _ _ => k.params.gateAdd

/-- Checks 5 to 7 for a target that needs no registration, or whose registration has been found. -/
def rxTail (s : State) (c : Ch) (q : Req) (adm : Option (Nat × Nat)) : RxAdmit :=
  if rxOutside s c q.kind q.id q.addr q.total then .refuse 0x04
  else if q.kind = 0 ∧ !keyLoaded s (regionAt s (regIdx q.id)).owner.toNat then .refuse 0x0A
  else .ok adm

/-- The admission checks of R383, in their order. -/
def rxAdmit (s : State) (c : Ch) (q : Req) : RxAdmit :=
  if !isUp s c then .refuse 0x08
  else if reqFormBad q then .refuse 0x06
  else if q.kind = 0 ∨ q.kind = 3 then
    match regionLstat s q.id with
    | some e => .refuse e
    | none =>
      if q.deny then .refuse 0x03
      else match admitTest (regionAt s (regIdx q.id)) 1 c.val q.conn (reqRight q) with
        | .refuse e => .refuse (if e = .regionRevoked then 0x02 else 0x03)
        | .wait _ => .wait
        | .ok par => rxTail s c q (some (regIdx q.id, par))
  else
    match rxAperture s c q with
    | some e => .refuse e
    | none => if q.deny ∨ !rxRights s c q then .refuse 0x03 else rxTail s c q none

/-! ## Application (R384, R386) -/

/-- What an applied packet gives: LSTAT, the word that an atomic found, and the lines that a read brought. -/
structure RxRes where
  lstat : Nat
  word  : Nat
  data  : List Byte
  deriving DecidableEq, Repr

/-- Reads lines in order up to the first that cannot be recovered. -/
def rxReadLines (c : Ch) (owner : Nat) : Nat → Nat → State → List Byte → RxRes × State
  | 0, _, s, acc => ({ lstat := 0, word := 0, data := acc }, s)
  | n + 1, a, s, acc =>
    match memRead s c owner a 64 with
    | (some bs, t) => rxReadLines c owner n (a + 64) t (acc ++ bs)
    | (none, t) => ({ lstat := 0x07, word := 0, data := acc }, t)

/-- An atomic on region data at the Slip unit (R357, R368). The word that a refused atomic's response carries is a free value (log 1). -/
def rxAtomic (s : State) (c : Ch) (owner addr w : Nat) (cas : Bool) (arg1 arg2 : Nat) : RxRes × State :=
  match memRead s c owner addr w with
  | (none, t) =>
    let f := drawFree t
    ({ lstat := 0x07, word := f.1.toNat, data := [] }, f.2)
  | (some bs, t) =>
    let old := leNat bs
    let a1 := arg1 % 2 ^ (8 * w)
    let new := if cas then (if old = a1 then arg2 % 2 ^ (8 * w) else old) else (old + a1) % 2 ^ (8 * w)
    let t := if cas ∧ old ≠ a1 then t else memWrite t c true owner addr (natLe new w)
    ({ lstat := 0, word := old, data := [] }, t)

/-- A write of bytes that may not fill their lines keeps the orphan marks of partial lines (R334, R397). -/
def rxWrite (s : State) (c : Ch) (owner addr : Nat) (bs : List Byte) : State := memWrite s c false owner addr bs

/-- Applies one packet of an admitted operation at an address. -/
def rxPerform (s : State) (c : Ch) (q : Req) (kind id addr : Nat) : RxRes × State :=
  let owner := (regionAt s (regIdx id)).owner.toNat
  let a := apertureAt s c (fld id 5 0)
  match q.op with
  | .write =>
    ({ lstat := 0, word := 0, data := [] },
      if kind = 0 then rxWrite s c owner addr q.payload else t0Write s c (a.base + addr) q.payload)
  | .read =>
    if kind = 0 then rxReadLines c owner (q.len / 64) addr s []
    else ({ lstat := 0, word := 0, data := t0Read s c (a.base + addr) q.len }, s)
  | .atomic _ cas =>
    if kind = 0 then rxAtomic s c owner addr q.len cas q.arg1 q.arg2
    else if kind = 2 then
      ({ lstat := 0, word := (gateCount s c (addr / 8)).toNat, data := [] }, gateAdd s c (addr / 8) (BitVec.ofNat 32 q.arg1))
    else
      let p := publish s (regIdx id) (BitVec.ofNat 64 (q.arg1 / 2 ^ 64)) (BitVec.ofNat 64 q.arg2)
      ({ lstat := if p.1 then 0 else 0x0B, word := p.2.1.toNat * 2 ^ 64 + p.2.2.1.toNat, data := [] }, p.2.2.2)

/-- The lines that a packet's accesses reach (R329). -/
def rxLines (c : Ch) (q : Req) (kind addr : Nat) : List DevLine :=
  if kind ≠ 0 then [] else (linesOf addr q.len).map (fun x => (c, x, q.op != .read))

/-- Whether a packet's write waits for room in the write-back queue (R246). -/
def rxHolds (s : State) (c : Ch) (q : Req) (kind addr : Nat) : Bool := kind == 0 && q.op != .read && wbHolds s c false addr q.len

/-! ## Answers (R379, R380, R383, R385, R397) -/

/-- A native response packet. -/
def respPkt (k : Conn) (conn opc psn kind id addr lstat prior : Nat) (first last : Bool) (payload : List Byte) : Packet :=
  let h : PktHdr :=
    { ver := 1, opc, resp := true, first, last, retry := false, dst := k.params.peerConn.toNat, src := conn, psn, kind, id, addr,
      plen := payload.length, lstat, prior, rlen := 0, zero := 0 }
  { hdr := pktBits h, payload }

/-- The packets of a read response: up to 4,096 bytes each, in order of offset; at a line that could not be read, a last packet with LSTAT
0x07 at its offset (R386). -/
def readResp (k : Conn) (q : Req) (prior : Nat) (x : RxRes) : List Packet :=
  if x.lstat = 0 then
    let cs := chunks 4096 x.data
    cs.zipIdx.map (fun (d, i) => respPkt k q.conn 0x82 q.psn q.kind q.id (4096 * i) 0 prior (i == 0) (i + 1 == cs.length) d)
  else
    (chunks 4096 x.data).zipIdx.map (fun (d, i) => respPkt k q.conn 0x82 q.psn q.kind q.id (4096 * i) 0 prior (i == 0) false d) ++
      [respPkt k q.conn 0x82 q.psn q.kind q.id x.data.length x.lstat prior x.data.isEmpty true []]

/-- AETH syndrome of a refusal (R397). -/
def nakSyndrome (lstat : Nat) : Byte :=
  if lstat = 0x06 then 0x61 else if lstat = 0x07 ∨ lstat = 0x08 then 0x63 else 0x62

/-- Sends a RoCEv2 answer, or holds it while the port is paused (R395). -/
def roceSend (s : State) (c : Ch) (conn : Nat) (a : RoceAns) : State :=
  if (s.ch c).link.paused then modLink s c (fun p => { p with ethq := p.ethq ++ [(conn, a)] }) else emit s (.roce c.val conn a)

/-- The path MTU of a connection: 1,024, 2,048 or 4,096 bytes. `LinkConnSet` sets none, so which is a free value (log 84). -/
def pathMtu (conn : Nat) : Nat := 1024 * 2 ^ (Config.pathMtu conn).val

/-- The packets of a read response, cut at the path MTU: First, Middle and Last, or Only, with PSNs from the request's on (R395; PRESUMED, RoCEv2, log 84).
`whole`: the response is complete. -/
def readAnswers (mtu psn : Nat) (data : List Byte) (whole : Bool) : List RoceAns :=
  let cs := if data.isEmpty ∧ whole then [[]] else chunks mtu data
  cs.zipIdx.map (fun (d, i) =>
    let last := whole && i + 1 == cs.length
    .read (if i = 0 then (if last then 0x10 else 0x0D) else if last then 0x0F else 0x0E) (BitVec.ofNat 24 (psn + i)) d)

/-- The RoCEv2 answer of an operation. The credit bits of an acknowledge's syndrome are a free value (log 1). -/
def roceAnswer (s : State) (c : Ch) (q : Req) (x : RxRes) : State :=
  let psn := BitVec.ofNat 24 q.psn
  match q.op with
  | .read =>
    let s := (readAnswers (pathMtu q.conn) q.psn x.data (x.lstat == 0)).foldl (fun t a => roceSend t c q.conn a) s
    if x.lstat = 0 then s else roceSend s c q.conn (.ack psn (nakSyndrome x.lstat))
  | .write =>
    if x.lstat = 0 then
      let f := drawFree s
      roceSend f.2 c q.conn (.ack psn ((f.1.setWidth 5).setWidth 8))
    else roceSend s c q.conn (.ack psn (nakSyndrome x.lstat))
  | .atomic _ _ =>
    if x.lstat = 0 then roceSend s c q.conn (.atomic psn (BitVec.ofNat 64 x.word)) else roceSend s c q.conn (.ack psn (nakSyndrome x.lstat))

/-- Answers an operation at its LAST packet. -/
def rxAnswer (s : State) (c : Ch) (q : Req) (prior : Nat) (x : RxRes) : State :=
  if q.eth then roceAnswer s c q x
  else
    let k := connAt s c q.conn
    match q.op with
    | .write => sendPkts s c [respPkt k q.conn 0x81 q.psn q.kind q.id 0 x.lstat prior true true []]
    | .read => sendPkts s c (readResp k q prior x)
    | .atomic _ _ => sendPkts s c [respPkt k q.conn 0x83 q.psn q.kind q.id 0 x.lstat prior true true (natLe x.word 16)]

/-- A refusal. The word that a refused atomic's response carries is a free value: none was found (log 1). -/
def rxRefused (s : State) (q : Req) (lstat : Nat) : RxRes × State :=
  match q.op with
  | .atomic _ _ =>
    let f := drawFree s
    ({ lstat, word := f.1.toNat, data := [] }, f.2)
  | _ => ({ lstat, word := 0, data := [] }, s)

/-! ## Duplicate records (R385) -/

/-- PSN bits of a port's mode (R378). -/
def psnBits (s : State) (c : Ch) : Nat := if isEthernet s c then 24 else 32

/-- Keeps the records of the last 4,096 PSNs. -/
def trimDups (s : State) (c : Ch) (k : Conn) : List DupRec := k.dups.filter (fun d => decide (psnDiff (psnBits s c) k.rcvNext d.psn ≤ 4096 ∧ psnDiff (psnBits s c) k.rcvNext d.psn ≠ 0))

/-- The generation of a target: a region's, an aperture's; gates have none. -/
def targetGen (s : State) (c : Ch) (kind id : Nat) : Nat :=
  match kind with
  | 1 => (apertureAt s c (fld id 5 0)).gen
  | 2 => 0
  | _ => (regionAt s (regIdx id)).gen.toNat

/-- A connection's registration for a target that is valid and not revoked: the epoch in which it was made. -/
def targetReg (s : State) (c : Ch) (conn kind id : Nat) : Option Word32 :=
  if kind = 1 ∨ kind = 2 then none
  else ((findReg (regionAt s (regIdx id)) 1 c.val conn).filter (fun x => !x.revoked)).map (fun x => x.regEp)

/-- Writes the record of an operation that its LAST packet ended, with what R385 compares a later state to. An applied RoCEv2 read keeps its response
(R397). -/
def addDup (s : State) (c : Ch) (q : Req) (kind id addr len : Nat) (x : RxRes) : State :=
  let d : DupRec :=
    { psn := q.psn, lstat := BitVec.ofNat 8 x.lstat, applied := x.lstat == 0, word := BitVec.ofNat 128 x.word, opc := BitVec.ofNat 8 (opcOf q.op),
      tgtKind := BitVec.ofNat 2 kind, tgtId := BitVec.ofNat 32 id, addr, len, gen := targetGen s c kind id, reg := targetReg s c q.conn kind id,
      data := if q.eth then x.data else [] }
  modConn s c q.conn (fun k => { k with dups := trimDups s c k ++ [d] })

/-- Whether the target's generation has changed since a record was written. -/
def dupStale (s : State) (c : Ch) (d : DupRec) : Bool := targetGen s c d.tgtKind.toNat d.tgtId.toNat != d.gen

/-- Whether the target's registration has been revoked since. -/
def dupRevoked (s : State) (c : Ch) (conn : Nat) (d : DupRec) : Bool := d.reg.isSome && targetReg s c conn d.tgtKind.toNat d.tgtId.toNat != d.reg

/-- The LSTAT of a duplicate's answer, other than that of a read that is served again. -/
def dupLstat (s : State) (c : Ch) (q : Req) (d : DupRec) : Nat :=
  if q.eth ∧ d.applied then d.lstat.toNat
  else if dupStale s c d then 0x01
  else if dupRevoked s c q.conn d then 0x02
  else d.lstat.toNat

/-- The target channel takes the key of a region's owner (R449). -/
def rxKey (s : State) (c : Ch) (kind id : Nat) : State := if kind = 0 then useKey s c (regionAt s (regIdx id)).owner.toNat else s

/-- Answers a duplicate LAST packet from its record, or a read from memory as it now stands; not done (false) while a snoop is due. -/
def rxDup (s : State) (c : Ch) (q : Req) : State × Bool :=
  match (connAt s c q.conn).dups.find? (fun d => d.psn == q.psn) with
  | none => (s, true)
  | some d =>
    let q := { q with op := reqOpOf d.opc.toNat, kind := d.tgtKind.toNat, id := d.tgtId.toNat }
    let prior := if d.applied then 1 else 2
    let l := dupLstat s c q d
    if q.eth ∧ d.applied then (rxAnswer s c q prior { lstat := l, word := d.word.toNat, data := d.data }, true)
    else if q.op = .read ∧ (d.lstat = 0 ∨ d.lstat = 0x07) ∧ l = d.lstat.toNat then
      let q := { q with addr := d.addr, len := d.len, total := d.len, first := true, bad := false, deny := false }
      match rxAdmit s c q with
      | .wait => (s, false)
      | .refuse e => (rxAnswer s c q prior { lstat := e, word := 0, data := [] }, true)
      | .ok _ =>
        let ls := rxLines c q q.kind q.addr
        let s := rxKey s c q.kind q.id
        if q.kind = 0 ∧ !keyHere s c (regionAt s (regIdx q.id)).owner.toNat then (rxAnswer s c q prior { lstat := 0x0A, word := 0, data := [] }, true)
        else if linesReady s (.rx c q.conn) ls then
          let x := rxPerform s c q q.kind q.id q.addr
          (rxAnswer x.2 c q prior x.1, true)
        else (awaitLines s (.rx c q.conn) ls, false)
    else (rxAnswer s c q prior { lstat := l, word := d.word.toNat, data := [] }, true)

/-! ## One packet -/

/-- Packets of one native operation (R380). -/
def maxPkts : Nat := 256

/-- The operation that a packet belongs to, admitted or refused if the packet begins it; none while its admission waits. -/
def rxOpen (s : State) (c : Ch) (q : Req) : Option (RxOp × State) :=
  let k := connAt s c q.conn
  let fresh : Option (RxOp × State) :=
    let s := endAdm s (match k.rx with | some o => o.adm | none => none)
    let o : RxOp := { refused := none, tgtKind := BitVec.ofNat 2 q.kind, tgtId := BitVec.ofNat 32 q.id, addr := q.addr, pkts := 0, left := q.total, adm := none }
    match rxAdmit s c q with
    | .wait => none
    | .refuse e => some ({ o with refused := some e }, s)
    | .ok none => some (o, s)
    | .ok (some a) => some ({ o with adm := some a }, regionCount s a.1 a.2)
  match k.rx with
  | some o => if q.first ∧ o.pkts ≠ 0 then fresh else some (o, s)
  | none =>
    if q.first then fresh
    else some ({ refused := some 0x06, tgtKind := 0, tgtId := 0, addr := 0, pkts := 0, left := 0, adm := none }, s)

/-- The refusal that a packet of an operation under way meets: the channel, its form, its range, the key. -/
def rxNext (s : State) (c : Ch) (q : Req) (o : RxOp) : Option Nat :=
  if !isUp s c then some 0x08
  else if q.bad ∨ (!q.first ∧ q.op ≠ .write) ∨ (!q.eth ∧ maxPkts ≤ o.pkts) ∨ (q.eth ∧ q.op = .write ∧ (o.left < q.len ∨ (q.last ∧ o.left ≠ q.len))) then some 0x06
  else if !q.first ∧ rxOutside s c o.tgtKind.toNat o.tgtId.toNat o.addr q.len then some 0x04
  else if o.tgtKind = 0 ∧ !keyHere s c (regionAt s (regIdx o.tgtId.toNat)).owner.toNat then some 0x0A
  else none

/-- Ends an operation at its LAST packet: its region's count falls, its record is written, and it is answered. -/
def rxClose (s : State) (c : Ch) (q : Req) (o : RxOp) (x : RxRes) : State :=
  let s := endAdm s o.adm
  let s := modConn s c q.conn (fun k => { k with rx := none })
  let q := { q with kind := o.tgtKind.toNat, id := o.tgtId.toNat }
  rxAnswer (addDup s c q q.kind q.id o.addr q.len x) c q 0 x

/-- Takes a new packet: whether it is done with. -/
def rxNew (s : State) (c : Ch) (q : Req) : State × Bool :=
  match rxOpen s c q with
  | none => (s, false)
  | some (o, s) =>
    let s := if o.refused.isSome then s else rxKey s c o.tgtKind.toNat o.tgtId.toNat
    match (match o.refused with | some e => some e | none => rxNext s c q o) with
    | some e =>
      let s := endAdm s o.adm
      let o := { o with refused := some e, adm := none, pkts := o.pkts + 1 }
      if q.last then
        let x := rxRefused s q e
        (rxClose x.2 c q o x.1, true)
      else (modConn s c q.conn (fun k => { k with rx := some o }), true)
    | none =>
      let ls := rxLines c q o.tgtKind.toNat o.addr
      let t := modConn s c q.conn (fun k => { k with rx := some o })
      if rxHolds s c q o.tgtKind.toNat o.addr then (leaveLines t (.rx c q.conn), false)
      else if linesReady s (.rx c q.conn) ls then
        let x := rxPerform s c q o.tgtKind.toNat o.tgtId.toNat o.addr
        if q.last then (rxClose x.2 c q o x.1, true)
        else (modConn x.2 c q.conn (fun k => { k with rx := some { o with addr := o.addr + q.len, pkts := o.pkts + 1, left := o.left - q.len } }), true)
      else (awaitLines t (.rx c q.conn) ls, false)

/-- Takes a received packet. -/
def rxTake (s : State) (c : Ch) (x : RxPkt) : State × Bool :=
  let q := reqOf s c x
  if q.dup then rxDup s c q else rxNew s c q

/-- Changes the received packets that wait. An Ethernet port pauses its peer by priority flow control when they have come up to a mark, and lets it send again when
they fall below (R395; the mark, the priority and the quanta are opaque, DESIGN CHOICE, log 191). -/
def modRx (s : State) (c : Ch) (f : List RxPkt → List RxPkt) : State :=
  let n := (s.ch c).link.rx.length
  let t := modLink s c (fun p => { p with rx := f p.rx })
  let m := (t.ch c).link.rx.length
  if !isEthernet s c || (s.ch c).link.state != .up then t
  else if n < Config.pfcMark ∧ Config.pfcMark ≤ m then emit t (.pfc c.val Config.pfcPrio.val Config.pfcQuanta)
  else if Config.pfcMark ≤ n ∧ m < Config.pfcMark then emit t (.pfc c.val Config.pfcPrio.val 0)
  else t

/-- Takes the oldest packet that a test picks, that no earlier packet of its connection holds back, and that does not wait itself (R382). -/
def rxScan (c : Ch) (pick : RxPkt → Bool) : List (RxPkt × Nat) → List Nat → State → State
  | [], _, s => s
  | (x, i) :: xs, seen, s =>
    if pick x && !seen.contains (rxConn x) then
      match rxTake s c x with
      | (t, true) => leaveLines (modRx t c (fun xs => xs.eraseIdx i)) (.rx c (rxConn x))
      | (t, false) => rxScan c pick xs (rxConn x :: seen) t
    else rxScan c pick xs (rxConn x :: seen) s

/-- One such packet. -/
def rxStep (s : State) (c : Ch) (env : Env) (pick : RxPkt → Bool) : State := rxScan c pick (s.ch c).link.rx.zipIdx [] (takeEnv s c env)

/-- Whether a packet is a new native request of a code. -/
def pickNative (opc : Nat) : RxPkt → Bool
  | .native false p => (pktHdr p.hdr).opc == opc
  | _ => false

/-- Whether a packet is a native duplicate. -/
def pickDup : RxPkt → Bool
  | .native d _ => d
  | _ => false

/-- Whether a packet is RoCEv2's. -/
def pickRoce : RxPkt → Bool
  | .roce _ _ _ => true
  | _ => false

/-- RoCEv2 packets are taken in order as far as they go. -/
def roceSteps : Nat → State → Ch → Env → State
  | 0, s, _, _ => s
  | n + 1, s, c, env =>
    let t := rxStep s c env pickRoce
    if (t.ch c).link.rx.length < (s.ch c).link.rx.length then roceSteps n t c env else t

/-- RoCEv2 packets that waited at a line, or for room in the write-back queue, are taken up again. -/
def roceWake (s : State) : State := forCh s allCh (fun t c => roceSteps (t.ch c).link.rx.length t c Env.clean)

/-! ## Rings and the mover at the coherence points (R246, R329) -/

/-- The end of a device-side access to `t`, which began in `s`: it gives up its places, and what waited for them goes on. -/
def endAccess (s t : State) (d : DevReq) : State := if devOn s d then roceWake (leaveLines t d) else t

/-- Runs `k` when a ring's descriptor may reach its lines; else it waits at them (R329). -/
def onLines (s : State) (c : Ch) (r : Ring) (ls : List DevLine) (k : State → State) : State :=
  if ls.isEmpty then k s
  else if linesReady s (.ring c r) ls then endAccess s (k s) (.ring c r) else awaitLines (setWait s c r .snoop) (.ring c r) ls

/-- Writes that waited for room in a channel's write-back queue are made as far as they go (R246). -/
def wbWake (s : State) (c : Ch) : State := if (s.ch c).snoops.isEmpty && (s.ch c).link.rx.isEmpty then s else roceWake (serveLines s c)

/-! ## Arrival (R382) -/

/-- How a PSN is classified against RCV_NEXT. -/
inductive PsnClass
  | new | ahead | beyond | duplicate | stale
  deriving DecidableEq, Repr

/-- The classification of R382; `beyond`: ahead by 4,096 or more, outside the receiver's window (R389). Below a RCV_PSN that has been set,
every packet is stale (R377). -/
def psnClass (w : Nat) (k : Conn) (psn : Nat) : PsnClass :=
  if psn % 2 ^ w = k.rcvNext then .new
  else if psnAhead w psn k.rcvNext then (if 4096 ≤ psnDiff w psn k.rcvNext then .beyond else .ahead)
  else if psnDiff w k.rcvNext psn ≤ k.rcvCount then .duplicate
  else .stale

/-- RCV_NEXT advances by 1. -/
def rcvAdvance (w : Nat) (k : Conn) : Conn :=
  { k with rcvNext := (k.rcvNext + 1) % 2 ^ w, rcvCount := min 4096 (k.rcvCount + 1), nakSent := false }

/-- Sets a bit of LINK_ERR. -/
def linkErr (s : State) (c : Ch) (b : BitVec 6) : State := modLink s c (fun p => { p with err := p.err ||| b })

/-- STALE_DROP. -/
def leStale : BitVec 6 := 32
/-- BAD_CONN. -/
def leBadConn : BitVec 6 := 16
/-- CRC. -/
def leCrc : BitVec 6 := 8
/-- FEC_UNCORR. -/
def leFec : BitVec 6 := 4
/-- TRAIN_FAIL. -/
def leTrain : BitVec 6 := 1

/-- BAD_CONN for a packet whose connection is not Ready. -/
def noteBadConn (s : State) (c : Ch) (conn : Nat) : State := if (connAt s c conn).state = .ready then s else linkErr s c leBadConn

/-- Classifies a request on a connection that answers, and queues it: new packets and duplicate LAST packets. -/
def rxArrive (s : State) (c : Ch) (q : Req) (mk : Bool → RxPkt) : State :=
  let w := psnBits s c
  let k := connAt s c q.conn
  match psnClass w k q.psn with
  | .new => modRx (modConn s c q.conn (rcvAdvance w)) c (fun xs => xs ++ [mk false])
  | .duplicate => if q.last then modRx s c (fun xs => xs ++ [mk true]) else s
  | .stale => linkErr s c leStale
  | .beyond =>
    let x := rxRefused s q 0x09
    rxAnswer x.2 c q 0 x.1
  | .ahead =>
    if k.nakSent then s
    else
      let s := modConn s c q.conn (fun k => { k with nakSent := true })
      if q.eth then roceSend s c q.conn (.ack (BitVec.ofNat 24 k.rcvNext) 0x60)
      else sendPkts s c [respPkt k q.conn 0x84 k.rcvNext q.kind q.id 0 0 0 true true []]

end Sys2Proof.Machine
end

