-- ==== Sys2Proof/Machine/FetchCmds.lean ====
section
/-! DEFINITION. `Prefetch`, and the write-back of dirty pieces (R166, R229, R244, R245, R248, R273). -/

namespace Sys2Proof.Machine
open Sys2Proof

/-! ## Prefetch (R166) -/

/-- A `Prefetch` under way: its flags. -/
structure FetchRun where
  st    : State
  flags : BitVec 16

/-- Copies one page of a `Prefetch`: none of the reference when the page is Empty, Pruned or in T3. -/
def fetchPage (c : Ch) (dest size : Nat) (a : FetchRun) (j : Nat) (p : Option PageRef) : FetchRun :=
  match p with
  | none => { a with flags := a.flags ||| flSkipped }
  | some p =>
    if p.pte.kind = .empty ∨ p.pte.kind = .pruned ∨ p.pte.tier = 3 ∨ p.pte.tier = 0 then { a with flags := a.flags ||| flSkipped }
    else if p.pte.poison then { a with flags := a.flags ||| flPoisoned }
    else
    let a := { a with st := useKey a.st c p.owner }
    if !keyHere a.st c p.owner then { a with flags := a.flags ||| flPoisoned }
    else match readPage a.st c p size with
      | (some bs, t) => { a with st := t0Write t c (dest + j * size) bs }
      | (none, t) => { st := loseRead t c p size, flags := a.flags ||| flPoisoned }

/-- The end of a `Prefetch`. -/
def fetchEnd (a : FetchRun) (c : Ch) (r : Ring) : State := retire a.st c r { cplSt .ok with flags := a.flags }

/-- Whether the copy would exceed DEST_LEN or leave T0, or DEST breaks its alignment. -/
def fetchBad (d n : Nat) : Bool := decide (fld d 915 892 % 64 ≠ 0 ∨ fld d 891 868 < n) || !inT0 (fld d 915 892) n

/-- `Prefetch` of a sequence's pages. -/
def fetchSeq (s : State) (c : Ch) (r : Ring) (d slot : Nat) : State :=
  let e := seqAt s c slot
  let o := seqObj s c slot
  let layer := fld d 973 966
  let head := fld d 965 960
  let lo := fld d 959 938
  let n := fld d 937 916 + 1 - lo
  if fetchBad d (n * o.size) then retireSt s c r .badField
  else if !keyLoaded s o.owner then retireSt s c r .keyEmpty
  else
    fetchEnd ((List.range n).foldl (fun a j =>
      let key := pteKey slot layer head (pageEntry e (lo + j))
      let p := pteAt a.st c key
      let q := if e.ring ∧ keyPage a.st c e key p ≠ lo + j then none else resolvePage a.st c e layer head key p
      fetchPage c (fld d 915 892) o.size a j q) { st := s, flags := 0 }) c r

/-- `Prefetch` of a block's page of a layer and KV head. -/
def fetchBlock (s : State) (c : Ch) (r : Ring) (d slot : Nat) : State :=
  let o := pbObj s c slot
  let b := pbAt s c slot
  let layer := fld d 973 966
  let head := fld d 965 960
  let k := recKey slot layer head
  let p : PageRef := { isPb := true, key := k, pte := recAt s c k, owner := o.owner, kFmt := b.kFmt.toNat, vFmt := b.vFmt.toNat, pbIdx := BitVec.ofNat 40 (fld d 1015 976) }
  if o.layers ≤ layer ∨ o.heads ≤ head then retireSt s c r .outOfRange
  else if fetchBad d o.size then retireSt s c r .badField
  else if !keyLoaded s o.owner then retireSt s c r .keyEmpty
  else fetchEnd (fetchPage c (fld d 915 892) o.size { st := s, flags := 0 } 0 (some p)) c r

/-- `Prefetch` of a raw T1 range, as stored. -/
def fetchRaw (s : State) (c : Ch) (r : Ring) (d : Nat) : State :=
  let fr := fld d 867 842
  let n := fld d 841 830 + 1
  let dest := fld d 915 892
  if resv d 1023 976 ∨ resv d 973 916 ∨ resv d 829 128 ∨ fetchBad d (2048 * n) ∨ poolBase s c < (fr + n) * 2048 then retireSt s c r .badField
  else
    fetchEnd ((List.range n).foldl (fun a j =>
      let x := (fr + j) * 2048
      let b := { a with st := mendRange a.st c x 2048 }
      if rangeBad b.st c x 2048 then { b with flags := b.flags ||| flPoisoned }
      else { b with st := t0Write b.st c (dest + 2048 * j) (t1Raw b.st c x 2048) }) { st := s, flags := 0 }) c r

/-- PREFETCH (R166). A block has one page for each layer and KV head, so PAGE_LO and PAGE_HI must be 0 for one (DESIGN CHOICE, log 168). -/
def execPrefetch (c : Ch) (r : Ring) (env : Env) (s : State) : Host.Outcome State Fault Refusal :=
  .next (runHead s c r 0x10 (fun d s =>
    let s := takeEnv s c env
    match fld d 975 974 with
    | 0 =>
      let h := handleOf (fld d 1023 976)
      match admitCheck s c r h false with
      | some e => retireSt s c r e
      | none =>
        let e := seqAt s c h.slot
        if layersOf e ≤ fld d 973 966 ∨ headsOf e ≤ fld d 965 960 ∨ fld d 937 916 < fld d 959 938 then retireSt s c r .outOfRange
        else if resv d 867 128 then retireSt s c r .badField
        else admitUse s c r [h.slot] (fun s => fetchSeq s c r d h.slot)
    | 1 =>
      let v := fld d 1023 976
      if resv v 47 40 ∨ resv d 959 916 ∨ resv d 867 128 then retireSt s c r .badField
      else if (pbIndexOf v).home ≠ c.val then retireSt s c r .wrongChannel
      else if !pbLive s v then retireSt s c r .stalePrefix
      else fetchBlock s c r d (pbIndexOf v).slot
    | 2 => fetchRaw s c r d
    | _ => retireSt s c r .badField))

/-! ## Write-back (R244, R245, R273, R297) -/

/-- Whether the mover may take the queue's head: its hold is over, the queue is more than half full, or nothing has been queued for
2^24 steps (`idle`). -/
def takeDue (s : State) (c : Ch) (e : WbEntry) (idle : Bool) : Bool :=
  idle || decide (2 ^ fld (s.ch c).cfg.tierCfg.toNat 28 24 ≤ ((s.ch c).obj.touch.setWidth 32 - e.stamp).toNat) || decide (wbCap s c < 2 * (s.ch c).obj.wbq.length)

/-- Removes the head of the queue; the backlog ends below half full (R246). -/
def wbPop (s : State) (c : Ch) : State :=
  let s := modObj s c (fun o => { o with wbq := o.wbq.drop 1 })
  if 2 * (s.ch c).obj.wbq.length < wbCap s c then modObj s c (fun o => { o with backlog := false }) else s

/-- The page of a summary: whether a block's, and its key (R72). -/
def summPage (s : State) (c : Ch) (m : Summ) : Bool × Nat :=
  if m.ownerKind then (true, recKey (pbIndexOf m.ownerRef.toNat).slot m.layer.toNat m.head.toNat)
  else
    let slot := fld m.ownerRef.toNat 27 0
    (false, pteKey slot m.layer.toNat m.head.toNat (pageEntry (seqAt s c slot) m.pn.toNat))

/-- The write-back in flight is over. -/
def wbEnd (s : State) (c : Ch) : State := modObj s c (fun o => { o with wbRun := none })

/-- Sets WB_BUSY of a home (R241). -/
def setBusy (s : State) (c : Ch) (i : Nat) (b : Bool) : State := setHome s c i { homeAt s c i with wbBusy := b }

/-- Whether the program of a region's home unit needs a unit that is not mapped while MAPPED has reached CAP_NOW (R296). A write-back may evict nothing,
so the piece stays dirty (log 149). -/
def regionNoRoom (s : State) (c : Ch) (lu : Nat) : Bool :=
  let e := mapAt s c lu
  !e.mapped && e.slots == 0 && decide (capNow (s.marl c) ≤ mappedUnits (s.marl c))

/-- Hands the unit of a write-back in flight to Marl (R245 steps 4 and 5); while acceptance waits it stays in flight. A home that has gone takes
nothing; a SEALED one is refused and the page is unhomed (R273); a read-only Marl takes the home away (R297). A region piece that is refused stays
dirty. -/
def wbHand (s : State) (c : Ch) (x : WbRun) : State :=
  let h := homeAt s c x.ref
  let s := useKey s c x.owner
  if !keyHere s c x.owner then wbEnd (if x.region then s else setBusy s c x.ref false) c
  else if x.region then
    if (mapAt s c x.lu).sealed ∨ (s.marl c).readonly ∨ regionNoRoom s c x.lu then wbEnd (modObj s c (fun o => { o with dirtyMap := insNat o.dirtyMap x.ref })) c
    else ((handUnit s c 0 x.owner x.lu x.mask x.off true x.bytes).map (fun t => wbEnd t c)).getD s
  else if !h.homed ∨ h.home ≠ x.home then wbEnd s c
  else if (s.marl c).readonly then wbEnd (dropHome s c x.ref) c
  else if homeSealed s c h then wbEnd (setHome s c x.ref HomeEntry.none) c
  else ((handUnit s c 0 x.owner x.lu x.mask x.off false x.bytes).map (fun t => wbEnd (setBusy t c x.ref false) c)).getD s

/-- Begins a write-back (R245 steps 1 and 2), and hands it on. -/
def wbBegin (s : State) (c : Ch) (x : WbRun) : State := wbHand (modObj s c (fun o => { o with wbRun := some x })) c x

/-- The write-back of a page piece: the whole unit that it falls in. A lost piece of the unit is recovered from the home when it is clean, else the
page is lost (R229, R245); with an orphaned line in the unit the entry is dropped and its pieces stay dirty, as R336 has it for a region's (DESIGN CHOICE,
log 169). -/
def takePiece (s : State) (c : Ch) (e : WbEntry) : State :=
  let s := wbPop s c
  match smGet? (s.ch c).obj.summs e.ref with
  | none => s
  | some m =>
    let k := summPage s c m
    let p := pageAt s c k.1 k.2
    let h := homeAt s c e.ref
    let owner := if k.1 then (pbAt s c (pbIndexOf m.ownerRef.toNat).slot).owner.toNat else (seqAt s c (pteSlot k.2)).owner.toNat
    let size := if k.1 then (pbObj s c (pbIndexOf m.ownerRef.toNat).slot).size else (seqObj s c (pteSlot k.2)).size
    let i := e.piece.toNat / 4
    if p.tier ≠ 1 ∨ p.summIdx.toNat ≠ e.ref ∨ !h.homed ∨ !p.dirty.getLsbD e.piece.toNat then s
    else
    let s := useKey s c owner
    if !keyHere s c owner then s
    else if (s.marl c).readonly then dropHome s c e.ref
    else if homeSealed s c h then setHome s c e.ref HomeEntry.none
    else if orphanPieces s c (pageRefOf s c k.1 k.2 owner) size (unitPieces i) then s
    else match recoverPieces s c (pageRefOf s c k.1 k.2 owner) size (unitPieces i) with
      | none => losePage s c (pageRefOf s c k.1 k.2 owner)
      | some t =>
        let bs := homeBytes t c owner p size i
        let q := homePlace h i bs.length
        let t := setPage (setBusy t c e.ref true) c k.1 k.2 { p with dirty := p.dirty &&& ~~~ dirtyMask (unitPieces i) }
        wbBegin t c { region := false, ref := e.ref, unit := i, owner, lu := q.1, mask := q.2.1, off := q.2.2, bytes := bs, home := h.home }

/-- The write-back of a region piece (R248, R329, R336): it waits at the lines that hosts hold or ask for. -/
def takeRegion (s : State) (c : Ch) (e : WbEntry) : State :=
  let s1 := wbPop s c
  let ls : List DevLine := (linesOf (4096 * e.ref) 4096).map (fun x => (c, x, false))
  match runAt s c.val (4096 * e.ref) with
  | none => endAccess s s1 (.wb c)
  | some (idx, x) =>
    let owner := (regionAt s idx).owner.toNat
    let u := runUnit x (4096 * e.ref)
    let s := useKey s c owner
    let s1 := wbPop s c
    if !(s.ch c).obj.dirtyMap.contains e.ref ∨ pieceBad s c e.ref ∨ !keyHere s c owner ∨ (s.marl c).readonly then endAccess s s1 (.wb c)
    else if !linesReady s (.wb c) ls then awaitLines s (.wb c) ls
    else if (mapAt s c u.1).sealed then endAccess s s1 (.wb c)
    else
      let bs := t1Plain s c owner (4096 * e.ref) 4096
      let t := modObj s1 c (fun o => { o with dirtyMap := o.dirtyMap.filter (fun y => y != e.ref) })
      endAccess s (wbBegin t c { region := true, ref := e.ref, unit := u.2, owner, lu := u.1, mask := (3 <<< (2 * u.2)) % 256, off := 4096 * u.2, bytes := bs, home := 0 }) (.wb c)

/-- WRITE_BACK_TAKE (R244, R245): the mover hands on the write-back that waits for Marl's acceptance, or takes the head of the write-back queue. -/
def execWriteBackTake (c : Ch) (idle : Bool) (env : Env) (s : State) : Host.Outcome State Fault Refusal :=
  .next (if !isUp s c then s
    else match (s.ch c).obj.wbRun with
      | some x => wbHand s c x
      | none =>
        match (s.ch c).obj.wbq with
        | [] => s
        | e :: _ =>
          if !takeDue s c e idle then s
          else
            let s := takeEnv s c env
            wbWake (if e.region then takeRegion s c e else takePiece s c e) c)

/-! ## `Persist` of a region (R258) -/

/-- `Persist` of a region (pooled mode only): its dirty pieces, then its image. -/
def persistRegion (s : State) (c : Ch) (r : Ring) (d : Nat) : State :=
  let id := fld d 1007 976
  match (if wasAdmitted s c r then none else regionCheck s id) with
    | some e => retireSt s c r e
    | none =>
      if resv d 1023 1008 ∨ resv d 859 128 ∨ !placeWhole d ∨ resv d 972 901 ∨ !toTierOk 0x15 (placeTo d) ∨ 6 ≤ placeCls d ∨ placeGate d ≠ 0xFFF then retireSt s c r .badField
      else if !isPooled s c then retireSt s c r .modeDenied
      else if !hasT2 (s.marl c) then retireSt s c r .mediaAbsent
      else if (s.marl c).readonly then retireSt s c r .mediaReadonly
      else
        let g := regionAt s (regIdx id)
        let owner := g.owner.toNat
        let tag := (hdrOf d).tag
        match handing s c r with
          | some p => handImage s c r owner p.image p.left tag
          | none =>
            let s := useKey s c owner
            if !keyHere s c owner then persistEnd s c r tag (cplSt .keyEmpty)
            else
            let ps := dirtyPieces s c g
            onLines s c r (ps.flatMap (fun p => (linesOf (4096 * p.1) 4096).map (fun x => (c, x, false)))) (fun s =>
              match persistPieces c owner ps s 0 with
              | .wait t n => stay (addEvicted t c r n) c r
              | .refuse e t n => persistEnd (addEvicted t c r n) c r tag (cplSt e)
              | .ok t n =>
                let t := addEvicted t c r n
                match pageWithin t c (regionUnits t c g) with
                | some p => persistEnd t c r tag (cplDet .pageState p)
                | none => writeImage t c r 2 (BitVec.ofNat 48 id) (regionUnits t c g) (.region g.version g.root g.runs) owner [] tag)

/-- PERSIST (R258). -/
def execPersist (c : Ch) (r : Ring) (env : Env) (s : State) : Host.Outcome State Fault Refusal :=
  .next (match (s.ring c r).wait with
    | .persistGo homes => if isUp s c then underOwn (takeEnv s c env) c r (fun s => persistWaited s c r homes) else s
    | _ => runHead s c r 0x15 (fun d s =>
      let s := takeEnv s c env
      match fld d 975 974 with
      | 0 =>
        let h := handleOf (fld d 1023 976)
        match admitCheck s c r h false with
        | some e => retireSt s c r e
        | none =>
          if placeShape s c r d h.slot then retireSt s c r .outOfRange
          else if resv d 859 128 then retireSt s c r .badField
          else admitUse s c r [h.slot] (fun s => persistRun s c r d 0 (seqObj s c h.slot))
      | 1 => onBlock s c r d (fun s slot => persistRun s c r d 1 (pbObj s c slot))
      | 2 => persistRegion s c r d
      | _ => retireSt s c r .badField))

end Sys2Proof.Machine
end

