-- ==== Sys2Proof/Machine/Registers.lean ====
section
/-! DEFINITION. The registers of the channel and logical-device blocks as a host reads them (R19, R312 to R315 and each unit's maps), the RWL
fields that commits write (R9), and the layout of the metadata and pooled areas (R64, R241). -/

namespace Sys2Proof.Machine
open Sys2Proof

/-! ## RWL fields (R9) -/

/-- BAR0 offset of the logical-device block. -/
def ldBlock : Nat := 0x20000

/-- The channel and the offset within its block of a BAR0 offset. -/
def chBlockOf (off : Nat) : Option (Ch × Nat) :=
  if off < 0x100000 then none else (chOf ((off - 0x100000) / 0x20000)).map (fun c => (c, (off - 0x100000) % 0x20000))

/-- RWL bits of a word of a channel block. -/
def rwlMaskCh (o : Nat) : Nat :=
  if o = 0x500 then 0xFFFFFC00
  else if o = 0x520 then 0xFF000000
  else if o = 0x530 then 0xFFF00000
  else if o = 0x800 then 0xFFFFFFFF
  else if 0x810 ≤ o ∧ o < 0x820 ∧ o % 4 = 0 then 0xFFFFFFFF
  else if o = 0x900 then 0xFFFFFFF0
  else if o = 0xA00 then 0xFFFFC000
  else 0

/-- RWL bits of a word of the logical-device block. -/
def rwlMaskLd (o : Nat) : Nat :=
  if o = 0x4 then 0xFFFFF000
  else if o = 0x30 then 0xFFFFFF80
  else if 0x40 ≤ o ∧ o < 0x70 ∧ o % 4 = 0 then 0x8F000000
  else if 0x100 ≤ o ∧ o < 0x200 ∧ o % 4 = 0 then [0, 0xFFFFFFFF, 0xFFFFF000, 0xFFFFE000].getD (o % 16 / 4) 0
  else if o = 0x200 then 0xFFFFF000
  else 0

/-- RWL bits of the word at a BAR0 offset. -/
def rwlMask (off : Nat) : Nat :=
  match chBlockOf off with
  | some (_, o) => rwlMaskCh o
  | none => if ldBlock ≤ off ∧ off < ldBlock + 0x10000 then rwlMaskLd (off - ldBlock) else 0

/-- Whether a BAR0 offset means the same word in every logical device's block: CH_ASSIGN, ST_CFG (device registers) and channel blocks. -/
def sharedWord (off : Nat) : Bool :=
  (chBlockOf off).isSome || decide (ldBlock + 0x40 ≤ off ∧ off < ldBlock + 0x70) || off == ldBlock + 0x200

/-- The RWL word of a channel block. -/
def cfgGet (x : ChCfg) (o : Nat) : Word32 :=
  if o = 0x500 then x.objCfg
  else if o = 0x520 then x.tilthCfg
  else if o = 0x530 then x.tierCfg
  else if o = 0x800 then x.sieveCfg
  else if o = 0x900 then x.marlCfg
  else if o = 0xA00 then x.linkCfg
  else x.sieveMask.toList.getD ((o - 0x810) / 4) 0

/-- Writes the RWL word of a channel block. -/
def cfgSet (x : ChCfg) (o : Nat) (v : Word32) : ChCfg :=
  if o = 0x500 then { x with objCfg := v }
  else if o = 0x520 then { x with tilthCfg := v }
  else if o = 0x530 then { x with tierCfg := v }
  else if o = 0x800 then { x with sieveCfg := v }
  else if o = 0x900 then { x with marlCfg := v }
  else if o = 0xA00 then { x with linkCfg := v }
  else if h : (o - 0x810) / 4 < 4 then { x with sieveMask := x.sieveMask.set ((o - 0x810) / 4) v }
  else x

/-- A 32-bit word of a window. -/
def winGet (w : BitVec 128) (k : Nat) : Word32 := BitVec.ofNat 32 (w.toNat >>> (32 * k))

/-- Replaces a 32-bit word of a window. -/
def winSet (w : BitVec 128) (k : Nat) (v : Word32) : BitVec 128 :=
  BitVec.ofNat 128 (fld w.toNat 127 (32 * k + 32) * 2 ^ (32 * k + 32) + v.toNat * 2 ^ (32 * k) + w.toNat % 2 ^ (32 * k))

/-- The RWL word at a BAR0 offset of a logical device. -/
def rwlGet (s : State) (l : Ld) (off : Nat) : Word32 :=
  match chBlockOf off with
  | some (c, o) => cfgGet (s.ch c).cfg o
  | none =>
    let o := off - ldBlock
    if o = 0x4 then (s.ld l).cfg
    else if o = 0x30 then (s.ld l).keys
    else if o < 0x70 then s.island.chAssign.toList.getD ((o - 0x40) / 4) 0
    else if o < 0x200 then winGet ((s.ld l).win.toList.getD ((o - 0x100) / 16) 0) (o % 16 / 4)
    else s.island.stCfg

/-- Writes the RWL word at a BAR0 offset of a logical device. -/
def rwlPut (s : State) (l : Ld) (off : Nat) (v : Word32) : State :=
  match chBlockOf off with
  | some (c, o) => modCh s c (fun ch => { ch with cfg := cfgSet ch.cfg o v })
  | none =>
    let o := off - ldBlock
    if o = 0x4 then modLd s l (fun d => { d with cfg := v })
    else if o = 0x30 then modLd s l (fun d => { d with keys := v })
    else if o < 0x70 then
      if h : (o - 0x40) / 4 < 12 then modIsland s (fun i => { i with chAssign := i.chAssign.set ((o - 0x40) / 4) v }) else s
    else if o < 0x200 then
      if h : (o - 0x100) / 16 < 16 then
        modLd s l (fun d => { d with win := d.win.set ((o - 0x100) / 16) (winSet d.win[(o - 0x100) / 16] (o % 16 / 4) v) })
      else s
    else modIsland s (fun i => { i with stCfg := v })

/-- Lays one staged word over the committed state. -/
def layWord (s : State) (w : Staged) : State :=
  if w.mask = 0 then s else match ldOf w.ld with
  | some l => rwlPut s l w.off ((rwlGet s l w.off &&& ~~~ w.mask) ||| (w.value &&& w.mask))
  | none => s

/-! ## Areas of the stack (R64, R241) -/

/-- The size of the metadata area in 2 MiB units. -/
def mdUnits (s : State) (c : Ch) : Nat :=
  let m := s.marl c
  let t2 := if 16 ≤ m.dies then 8 * 14 * m.pagesPerBlock * m.blocks * groups m + 0x8000000 else 0
  ceilDiv (64 * seqSlots s c + 8 * pbSlots s c + 512 * summSlots s c + 4096 * nodeSlots s c + 0x400000 + 0x10000 + t2) 0x200000

/-- The size of the pooled area in 2 MiB units; 0 in exclusive mode. -/
def poolUnits (s : State) (c : Ch) : Nat :=
  if isPooled s c then
    ceilDiv (roundUp (8 * summSlots s c) 0x10000 + roundUp 2441407 0x10000 + 8 * wbCap s c) 0x200000
  else 0

/-- MD_BASE and POOL_BASE follow the configuration, at each channel start and each commit. -/
def setLayout (s : State) (c : Ch) : State :=
  let b := 38146 - mdUnits s c
  modObj s c (fun o => { o with mdBase := BitVec.ofNat 16 b, poolBase := BitVec.ofNat 16 (b - poolUnits s c) })

/-! ## Counts of the object tables (R66) -/

/-- SEQ_LIVE: slots Active, Frozen or Closing. -/
def seqLive (s : State) (c : Ch) : Nat :=
  ((s.ch c).obj.seqs.filter (fun e => e.2.state == .active || e.2.state == .frozen || e.2.state == .closing)).length
/-- SEQ_RETIRED. -/
def seqRetired (s : State) (c : Ch) : Nat := ((s.ch c).obj.seqs.filter (fun e => e.2.state == .retired)).length
/-- PB_LIVE: slots USED. -/
def pbLiveCount (s : State) (c : Ch) : Nat := ((s.ch c).obj.pbs.filter (fun e => e.2.used)).length
/-- SUMM_FREE. -/
def summFree (s : State) (c : Ch) : Nat := summSlots s c - (s.ch c).obj.summs.length

/-! ## The channel block as it reads -/

/-- Slots that serve rings (R43, R470). -/
def engActive (s : State) (c : Ch) : Nat := ((s.ch c).eng.slotOf.toList.filter (fun x => x.isSome)).length

/-- Whether the spare slot serves a ring. -/
def spareEngUsed (s : State) (c : Ch) : Bool := (s.ch c).eng.slotOf.toList.contains (some 4)

/-- CH_STATUS (R19). ENG_ACTIVE and SPARE_ENG_USED read their reset value 0 until a start puts an engine map in force (R10, R467). -/
def chStatus (s : State) (c : Ch) : Nat :=
  let a := s.island.chAssign[c].toNat
  at_ 29 3 (chStateCode (s.ch c).state) + at_ 28 1 (b2n (bit a 31)) + at_ 24 4 (fld a 27 24) + at_ 23 1 (b2n (isPooled s c))
    + at_ 20 3 (if (s.ch c).eng.mapped then engActive s c else 0) + at_ 17 3 (s.ch c).link.width
    + at_ 16 1 (b2n ((s.ch c).eng.mapped && spareEngUsed s c)) + at_ 15 1 (b2n (s.ch c).link.spareUsed)

/-- Whether a ring has a descriptor admitted or waiting (ACTIVE). -/
def ringActive (g : RingState) : Bool := g.wait != .idle

/-- GATE_WAIT of RING_HEAD. -/
def ringGateWait (g : RingState) : Bool :=
  match g.wait with
  | .gate _ => true
  | .presence _ _ _ => true
  | _ => false

/-- A word of ring `r`'s registers (R139). -/
def ringReg (g : RingState) (o : Nat) : Nat :=
  match o with
  | 0x00 => at_ 12 12 g.base.toNat
  | 0x04 => at_ 12 12 g.cplBase.toNat
  | 0x08 => at_ 31 1 (b2n g.enable) + at_ 30 1 (b2n g.stop) + at_ 16 4 g.sizeLog2.toNat + g.irqVec.toNat
  | 0x0C => g.tail.toNat
  | 0x10 => at_ 31 1 (b2n (ringActive g)) + at_ 30 1 (b2n (ringGateWait g)) + at_ 29 1 (b2n g.cfgErr) + g.head.toNat
  | 0x14 => g.retired.toNat
  | _ => 0

/-- MARL_STATUS (R269). RECOVERING reads 0: a start takes a channel through recovery in one command. -/
def marlStatus (s : State) (c : Ch) : Nat :=
  let m := s.marl c
  at_ 31 1 (b2n m.flash.formatted) + at_ 30 1 (b2n m.readonly) + at_ 28 1 (b2n (gcRun s c))
    + at_ 27 1 (b2n (gcUrgent s c)) + at_ 26 1 (b2n m.flushing) + at_ 24 2 (if m.flash.formatted then m.flash.opFmt.toNat else 0)
    + at_ 16 8 m.busMask.toNat + at_ 12 4 (groups m) + at_ 8 4 (dedup (m.table.failed.map (fun d => d / 16))).length

/-- CH_THROTTLE (R472). -/
def chThrottle (s : State) (c : Ch) : Nat :=
  let t := (s.ch c).throttle
  at_ 30 2 (if t.tripHold then 3 else max t.supply (max t.thermal t.governor)) + at_ 29 1 (b2n (t.supply != 0)) + at_ 28 1 (b2n (t.thermal != 0))
    + at_ 27 1 (b2n (t.governor != 0)) + at_ 18 9 (t.tj % 512).toNat

/-- STATE of LINK_STATUS. -/
def portStateCode : PortState → Nat
  | .down => 0
  | .training => 1
  | .up => 2
  | .retraining => 3

/-- The Sieve's registers (R181, R198). -/
def sieveReg (s : State) (c : Ch) (o : Nat) : Nat :=
  let x := (s.ch c).sieve
  if o = 0x804 then
    let p := x.pend
    at_ 31 1 (b2n p.isSome) + at_ 30 1 (b2n p.isSome) + at_ 29 1 (match p with | some r => b2n r.down | none => 0) + rowsValid x
  else if o = 0x808 then at_ 18 13 x.spares + x.usable
  else if 0x820 ≤ o ∧ o < 0x860 ∧ o % 4 = 0 then bstartOf x ((o - 0x820) / 4)
  else if o = 0x80C then 0
  else (cfgGet (s.ch c).cfg o).toNat

/-- The link port's registers (R375, R381). -/
def linkReg (s : State) (c : Ch) (o : Nat) : Nat :=
  let p := (s.ch c).link
  if o = 0xA00 then (s.ch c).cfg.linkCfg.toNat + at_ 13 1 (b2n p.enable)
  else if o = 0xA04 then at_ 29 3 (portStateCode p.state) + at_ 26 3 p.width + at_ 21 5 p.laneFailed.toNat + at_ 20 1 (b2n p.spareUsed)
  else if o = 0xA08 then p.err.toNat
  else if o = 0xA0C then p.fecCorr.toNat
  else if o = 0xA10 then p.fecUncorr.toNat
  else if o = 0xA14 then at_ 31 1 (b2n p.peerValid) + at_ 24 4 p.peer.port.toNat + p.peer.serial.toNat
  else if 0xA40 ≤ o ∧ o < 0xC40 ∧ o % 8 = 0 then (smGet 0 p.apLo ((o - 0xA40) / 8)).toNat
  else if 0xA40 ≤ o ∧ o < 0xC40 ∧ o % 8 = 4 then (smGet 0 p.apHi ((o - 0xA40) / 8)).toNat
  else 0

/-- A word of a channel block as it reads while the channel is Ready or Degraded. Reserved offsets read 0. -/
def chReg (s : State) (c : Ch) (o : Nat) : Nat :=
  let ch := s.ch c
  if o = 0 then chStatus s c
  else if o = 0x400 then at_ 31 1 (b2n ch.pace.valid) + at_ 20 8 ch.pace.seq.toNat + ch.pace.count.toNat
  else if o = 0x404 then b2n ch.pace.window
  else if o = 0x408 then ch.pace.low.toNat
  else if o = 0x504 then at_ 16 16 ch.obj.mdBase.toNat + ch.obj.poolBase.toNat
  else if o = 0x500 ∨ o = 0x520 ∨ o = 0x530 ∨ o = 0x900 then (cfgGet ch.cfg o).toNat
  else if o = 0x540 then at_ 12 12 ch.rel.base.toNat
  else if o = 0x544 then at_ 31 1 (b2n ch.rel.enable) + at_ 16 5 ch.rel.sizeLog2.toNat
  else if o = 0x548 then at_ 31 1 (b2n ch.rel.fullWait) + ch.rel.head.toNat
  else if o = 0x54C then ch.rel.tail.toNat
  else if 0x600 ≤ o ∧ o < 0x720 then
    match ringOf ((o - 0x600) / 0x20) with
    | some r => ringReg (s.ring c r) ((o - 0x600) % 0x20)
    | none => 0
  else if 0x800 ≤ o ∧ o < 0x860 then sieveReg s c o
  else if o = 0x904 then marlStatus s c
  else if o = 0x908 then if hasT2 (s.marl c) then capNow (s.marl c) else 0
  else if o = 0x90C then if hasT2 (s.marl c) then mappedUnits (s.marl c) else 0
  else if o = 0x910 then if hasT2 (s.marl c) then (poolSb (s.marl c)).toNat else 0
  else if o = 0x914 then if hasT2 (s.marl c) then sbFree (s.marl c) else 0
  else if 0xA00 ≤ o ∧ o < 0xC40 then linkReg s c o
  else if o = 0xD00 then chThrottle s c
  else if 0x1000 ≤ o ∧ o < 0x1024 ∧ o % 4 = 0 then
    match ringOf ((o - 0x1000) / 4) with
    | some r => (s.ring c r).tail.toNat
    | none => 0
  else if 0x2000 ≤ o ∧ o < 0x6000 ∧ o % 4 = 0 then
    let k := connAt s c ((o - 0x2000) / 4)
    at_ 16 12 k.sqHead + k.sqTail
  else if 0x10000 ≤ o ∧ o < 0x10000 + 4 * numGates ∧ o % 4 = 0 then (gateCount s c ((o - 0x10000) / 4)).toNat
  else 0

/-- What a host read of a word of a channel block gives: 0 on an unassigned channel (R313), poison (none) on one that is neither Ready
nor Degraded but for CH_STATUS (R21). -/
def chRegRead (s : State) (l : Ld) (c : Ch) (o : Nat) : Option Nat :=
  if ldOfCh s c ≠ some l then some 0
  else if o = 0 ∨ isUp s c then some (chReg s c o)
  else none

/-- A register read of a channel block by a logical device (no row of the table is one, log 122): what it gives, none being poison, and UNASSIGNED_CH
where the channel is not assigned to it (R313). -/
def chRegAccess (s : State) (l : Ld) (c : Ch) (o : Nat) : Option Nat × State :=
  (chRegRead s l c o, if ldOfCh s c ≠ some l then modLd s l (fun d => { d with access := d.access ||| 4 }) else s)

/-- The class code of every function: base class, subclass and programming interface (R304). -/
def classCode : Nat := 0x050210

/-! ## The logical-device block as it reads -/

/-- CH_MASK of LD_INFO. -/
def chMask (s : State) (l : Ld) : Nat := ((chsOfLd s l).map (fun c => 2 ^ c.val)).sum

/-- LIMIT_W of GOV_STATUS: POWER_W of the board record, 820 when none is recorded. -/
def limitW (s : State) : Nat := if s.build.powerW = 0 then 820 else s.build.powerW.toNat

/-- STATE of KILN_STATUS. -/
def kilnCode : KilnState → Nat
  | .booting => 0
  | .running => 1
  | .recovery => 2

/-- Whether any channel runs the power-fail flush. -/
def anyFlush (s : State) : Bool := allCh.any (fun c => (s.marl c).flushing)

/-- An event record (R424, R425): 64 bytes. -/
def evBytes (r : EvRec) : List Byte :=
  natLe (at_ 240 16 r.event.toNat + at_ 238 2 r.sev.toNat + at_ 234 4 r.ch.toNat + at_ 230 4 r.ld.toNat + at_ 192 32 r.seq.toNat
    + at_ 160 32 r.gen.toNat + at_ 96 64 r.time.toNat + at_ 56 40 r.touch.toNat) 32 ++ bsub r.detail 0 32

/-- A word of a logical-device block: its registers, the capability area (R420), the windows (R319) and the event queue's records (R424). -/
def ldReg (s : State) (l : Ld) (o : Nat) : Nat :=
  let d := s.ld l
  let q := s.island.evq[ldQ l]
  if o = 0x00 then at_ 31 1 (b2n s.build.mld) + at_ 24 4 l.val + chMask s l
  else if o = 0x08 then at_ 31 1 (b2n d.lapsed) + min d.orphaned 0xFFFFFF
  else if o = 0x0C then d.access.toNat
  else if o = 0x10 then if d.capBytes.isEmpty then 0 else 0x1000
  else if o = 0x14 then at_ 30 2 (kilnCode s.island.kiln) + at_ 26 4 s.island.cause.toNat
  else if o = 0x18 then s.island.commitGen.toNat
  else if o = 0x1C then at_ 31 1 (b2n s.island.pace.valid) + at_ 20 8 s.island.pace.seq.toNat + s.island.pace.count.toNat
  else if o = 0x20 then q.prod
  else if o = 0x24 then q.cons
  else if o = 0x28 then q.cfg.toNat
  else if o = 0x2C then q.lost.toNat
  else if o = 0x204 then at_ 24 8 s.island.supply.warn.toNat + at_ 23 1 (b2n (anyFlush s)) + s.island.supply.vcoreMv.toNat
  else if o = 0x208 then at_ 31 1 (b2n (s.island.supply.govLevel != 0)) + at_ 29 2 s.island.supply.govLevel + at_ 16 11 (limitW s) + s.island.supply.powerW.toNat
  else if 0x1000 ≤ o ∧ o < 0x8000 ∧ o % 4 = 0 then leNat (smRead d.capBytes o 4)
  else if 0x8000 ≤ o ∧ o < 0x10000 ∧ o % 4 = 0 then
    match smGet? q.recs ((o - 0x8000) / 64) with
    | some r => leNat (bsub (evBytes r) (o % 64) 4)
    | none => 0
  else if rwlMaskLd o ≠ 0 then (rwlGet s l (ldBlock + o)).toNat
  else 0

end Sys2Proof.Machine
end

