-- ==== Sys2Proof/Machine/SlipCmds.lean ====
section
/-! DEFINITION. The Slip unit on ring 6: `Merge`, `SlipFill`, `SlipCopy`, `SlipCompare`, `SlipReduce`, `SlipPublish`, `SlipAtomic` (R171, R355 to
R369). -/

namespace Sys2Proof.Machine
open Sys2Proof

/-! ## Merge (R171, R369) -/

/-- The partial list: channel and T0 offset of each entry. -/
def mergeList (s : State) (c : Ch) (addr k : Nat) : List Nat := (List.range k).map (fun i => t0Num s c (addr + 4 * i) 4)

/-- Whether an entry of the partial list is refused. -/
def partialBad (size v : Nat) : Bool := decide (12 ≤ fld v 31 28 ∨ fld v 27 24 ≠ 0 ∨ fld v 23 0 % 64 ≠ 0) || !inT0 (fld v 23 0) size || touchesPriv (fld v 23 0) size

/-- The merge of one row: output, log-sum-exp, and status word. EMPTY is set when every partial's log-sum-exp is −∞ (R369). -/
def mergeOne (s : State) (n dim : Nat) (f : Fmt) (parts : List (Ch × Nat)) (i : Nat) : List Num × Num × Nat :=
  let t := tileLayout n dim f
  let rows := parts.map (fun p => (vecValues (tileRow s p.1 p.2 n dim f i), t0F32 s p.1 (p.2 + t.lse + 4 * i)))
  let words := parts.map (fun p => t0Num s p.1 (p.2 + t.status + 4 * i) 4)
  let o := mergeRow dim rows
  let flags := words.foldl (fun a w => a ||| (fld w 31 16 &&& 0x7C00)) 0
  let flags := flags ||| (if o.2 = .negInf then 0x8000 else 0) ||| (if isNan o.2 then 0x4000 else 0)
  (o.1, o.2, flags * 65536 + words.foldl (fun a w => min a (fld w 15 0)) 65535)

/-- The rows of a merge in order: each is read whole before it is written. Gives FLAGS, MIN_COVERAGE and the state. -/
def mergeRows (s : State) (c : Ch) (n dim : Nat) (fi fo : Fmt) (parts : List (Ch × Nat)) (dest : Nat) : BitVec 16 × Nat × State :=
  (List.range n).foldl (fun (a : BitVec 16 × Nat × State) i =>
    let m := mergeOne a.2.2 n dim fi parts i
    let p := putRow a.2.2 c dest n dim fo i m.1 m.2.1 m.2.2
    (a.1 ||| p.2 ||| BitVec.ofNat 16 (m.2.2 / 65536), min a.2.1 (m.2.2 % 65536), p.1)) (0, 65535, s)

/-- Whether a format code is allowed for outputs (R82). -/
def outFmt (code : Nat) : Option Fmt := (fmtOf code).bind (fun f => if f.o then some f else none)

/-- MERGE (R171, R369). T0 does not lose lines, so the surroundings show it nothing. -/
def execMerge (c : Ch) (r : Ring) (_env : Env) (s : State) : Host.Outcome State Fault Refusal :=
  .next (runHead s c r 0x20 (fun d s =>
    let k := fld d 1023 1019 + 1
    let list := fld d 1018 995
    let dest := fld d 994 971
    let n := fld d 970 959 + 1
    let hd := fld d 958 956
    if resv d 945 128 ∨ 5 ≤ hd then retireSt s c r .badField
    else match outFmt (fld d 955 951), outFmt (fld d 950 946) with
      | some fi, some fo =>
        let dim := headDimOf hd
        let size := (tileLayout n dim fi).size
        let out := (tileLayout n dim fo).size
        if !inT0 list (4 * k) ∨ touchesPriv list (4 * k) ∨ dest % 64 ≠ 0 ∨ !inT0 dest out ∨ touchesPriv dest out then retireSt s c r .badField
        else
          let vs := mergeList s c list k
          match vs.zipIdx.find? (fun v => partialBad size v.1) with
          | some v => retire s c r (cplDet .badField v.2)
          | none =>
            let parts := vs.filterMap (fun v => (chOf (fld v 31 28)).map (fun t => (t, fld v 23 0)))
            if parts.any (fun p => p.1 != c && !isUp s p.1) then retireSt s c r .channelDown
            else
              let m := mergeRows s c n dim fi fo parts dest
              retire (padTile m.2.2 c dest n dim fo) c r { cplSt .ok with flags := m.1, minCov := BitVec.ofNat 16 m.2.1 }
      | _, _ => retireSt s c r .badFormat))

/-! ## Operands (R363, R364) -/

/-- A Slip operand. -/
structure SlipOp where
  space : Nat
  ch    : Nat
  ref   : Nat
  addr  : Nat
  bad   : Bool
  deriving DecidableEq, Repr

/-- The fields of an operand, and whether check 1 of R364 refuses it: SPACE 3, CH 12 to 15, a reserved bit. -/
def slipOp (v : Nat) : SlipOp :=
  let space := fld v 79 78
  let ref := fld v 73 42
  { space, ch := fld v 77 74, ref, addr := fld v 39 0,
    bad := space == 3 || decide (12 ≤ fld v 77 74) || fld v 41 40 != 0 || (space == 0 && ref != 0) || (space == 1 && fld ref 31 12 != 0) }

/-- An operand with its length and the right that it needs. -/
structure SlipUse where
  op    : SlipOp
  len   : Nat
  right : Nat
  deriving DecidableEq, Repr

/-- The channel of an operand that check 1 has passed. -/
def opCh (o : SlipOp) : Ch := (chOf o.ch).getD 0

/-- The owner of an operand's data. -/
def opOwner (s : State) (o : SlipOp) : Nat := if o.space = 2 then (regionAt s (regIdx o.ref)).owner.toNat else fld o.ref 11 0

/-- Checks 2 of R364: the region operands. -/
def regionsBad (s : State) (us : List SlipUse) : Option St := us.findSome? (fun u => if u.op.space = 2 then regionCheck s u.op.ref else none)

/-- Rights that an operation needs of each of its regions. -/
def rightsOf (us : List SlipUse) : List (Nat × List Nat) :=
  let rs := us.filter (fun u => u.op.space == 2)
  (dedup (rs.map (fun u => regIdx u.op.ref))).map (fun i => (i, (rs.filter (fun u => regIdx u.op.ref == i)).map (fun u => u.right)))

/-- Admission to one region with all the rights needed (R359). -/
def admitRegion (s : State) (c : Ch) (i : Nat) (rights : List Nat) : Admit :=
  rights.foldl (fun a x => match a with
    | .refuse e => .refuse e
    | _ => admitTest (regionAt s i) 2 c.val 0 x) (.ok 0)

/-- Check 3 of R364: admission to every region under the KIND 2 registration of the ring's channel, counted once for each region; a
saturated count makes the descriptor wait (R359). One that has been admitted is not admitted anew. -/
def slipAdmit (s : State) (c : Ch) (r : Ring) (rs : List (Nat × List Nat)) (k : State → State) : State :=
  if !(s.ring c r).regs.isEmpty then k s
  else
    let as := rs.map (fun x => (x.1, admitRegion s c x.1 x.2))
    match as.findSome? (fun a => match a.2 with | .refuse e => some e | _ => none) with
    | some e => retireSt s c r e
    | none =>
      match as.findSome? (fun a => match a.2 with | .wait p => some (a.1, p) | _ => none) with
      | some w => setWait s c r (.drain w.1 w.2)
      | none => k (as.foldl (fun t a => match a.2 with | .ok p => ringCount t c r a.1 p | _ => t) s)

/-- Check 4 of R364 for an operand. -/
def opRangeBad (s : State) (u : SlipUse) : Bool :=
  if u.op.space = 0 then !inT0 u.op.addr u.len || touchesPriv u.op.addr u.len
  else decide (t1Size < u.op.addr + u.len) || decide (0 < u.len ∧ (if isPooled s (opCh u.op) then poolBase s (opCh u.op) else mdBase s (opCh u.op)) < u.op.addr + u.len)

/-- Check 5 for an operand. -/
def opOutside (s : State) (u : SlipUse) : Bool := u.op.space == 2 && !coveredBy (extentsOf s u.op.ref (opCh u.op)) u.op.addr u.len

/-- Whether an operand lies in another channel that is down (R21). -/
def opDown (s : State) (c : Ch) (u : SlipUse) : Bool := opCh u.op != c && !isUp s (opCh u.op)

/-- Checks 4 to 6 of R364, with the owner check of R444 before the last, then R21 for other channels. -/
def slipBad (s : State) (c : Ch) (us : List SlipUse) (t0s : List (Nat × Nat)) : Option St :=
  if us.any (opRangeBad s) ∨ t0s.any (fun a => !inT0 a.1 a.2 || touchesPriv a.1 a.2) then some .badField
  else if us.any (opOutside s) then some .outOfRange
  else if us.any (fun u => u.op.space == 1 && !keyInCh s c (opOwner s u.op)) then some .accessDenied
  else if us.any (fun u => u.op.space != 0 && !keyLoaded s (opOwner s u.op)) then some .keyEmpty
  else if us.any (opDown s c) then some .channelDown
  else none

/-- The lines that an operation's accesses reach (R329), those that it writes first. -/
def slipLines (us : List SlipUse) : List DevLine :=
  let ls := fun (u : SlipUse) => if u.op.space = 0 then [] else (linesOf u.op.addr u.len).map (fun x => (opCh u.op, x, u.right != rightRead))
  (us.filter (fun u => u.right != rightRead)).flatMap ls ++ (us.filter (fun u => u.right == rightRead)).flatMap ls

/-- What a Slip operation writes, once it has read: the lines of its destination in order, as far as it comes; its completion; and the state after its
reads. -/
structure SlipPlan where
  lines : List (List Byte)
  cpl   : Cpl
  st    : State

/-- Whether a write of a destination must wait: a guard holds its frame (R238), or the write-back queue has no room for it (R246). -/
def slipHeld (s : State) (c : Ch) (a n : Nat) : Bool := guarded s c (a / 2048) (a / 2048 + 1) || wbHolds s c true a n

/-- The writes of a Slip operation in T1, line after line. One that must wait holds those behind it. The descriptor retires after the last. -/
def slipWrites : List (List Byte) → State → Ch → Ring → Ch → SlipCtx → State
  | [], s, c, r, _, x => retire s c r x.cpl
  | l :: ls, s, c, r, d, x =>
    let y := { x with lines := l :: ls }
    if guarded s d (x.addr / 2048) (x.addr / 2048 + 1) then setWait s c r (.guardWrites y)
    else if wbHolds s d true x.addr l.length then setWait s c r (.slipRoom y)
    else slipWrites ls (memWrite s d true x.owner x.addr l) c r d { x with addr := x.addr + l.length }

/-- The channels of a Slip operation's operands in T1 take their owners' keys. -/
def slipKeys (s : State) (us : List SlipUse) : State :=
  us.foldl (fun t u => if u.op.space = 0 then t else useKey t (opCh u.op) (opOwner t u.op)) s

/-- Whether they have them: a key may go after the admission (R449, R450). -/
def slipKeyed (s : State) (us : List SlipUse) : Bool := us.all (fun u => u.op.space == 0 || keyHere s (opCh u.op) (opOwner s u.op))

/-- A Slip operation whose writes waited goes on, once it is first at the lines still to write (R329); it ends when their channel is down (R22), or no longer
has the key: the writes made stand (R449, log 180). -/
def slipGo (s : State) (c : Ch) (r : Ring) (x : SlipCtx) : State :=
  let d := (chOf x.ch).getD 0
  let ls := (linesOf x.addr x.lines.flatten.length).map (fun l => (d, l, true))
  if d ≠ c ∧ !isUp s d then retireSt s c r .channelDown
  else if linesReady s (.ring c r) ls then
    let t := useKey s d x.owner
    endAccess s (if keyHere t d x.owner then slipWrites x.lines t c r d x else retireSt t c r .keyEmpty) (.ring c r)
  else awaitLines (setWait s c r (.slipRoom x)) (.ring c r) ls

/-- The writes of a Slip operation begin. Those in T0 wait for nothing. -/
def slipEnd (p : SlipPlan) (c : Ch) (r : Ring) (dst : Option SlipUse) : State :=
  match dst with
  | none => retire p.st c r p.cpl
  | some u =>
    if u.op.space = 0 then retire (t0Write p.st (opCh u.op) u.op.addr p.lines.flatten) c r p.cpl
    else slipWrites p.lines p.st c r (opCh u.op) { ch := u.op.ch, owner := opOwner p.st u.op, addr := u.op.addr, lines := p.lines, cpl := p.cpl }

/-- The body of a Slip descriptor after check 1: checks 2 to 6, its turn at the coherence points, then the operation `k`, which reads and says what it
writes. One that goes on after a wait is not checked anew, but ends when a channel that it needs is down (R22). An atomic (`whole`) reads only when its
write can follow at once, so that no other write of the line falls between the two (R357). -/
def slipRun (s : State) (c : Ch) (r : Ring) (us : List SlipUse) (dst : Option SlipUse) (whole : Bool) (t0s : List (Nat × Nat)) (k : State → SlipPlan) : State :=
  let run := fun (s : State) => onLines s c r (slipLines us) (fun s =>
    let s := slipKeys s us
    if !slipKeyed s us then retireSt s c r .keyEmpty
    else if whole ∧ dst.any (fun u => slipHeld s (opCh u.op) u.op.addr u.len) then stay s c r else slipEnd (k s) c r dst)
  match (s.ring c r).wait with
  | .slipRoom x => slipGo s c r x
  | w =>
    if begun w then (if us.any (opDown s c) then retireSt s c r .channelDown else run s)
    else match regionsBad s us with
      | some e => retireSt s c r e
      | none => slipAdmit s c r (rightsOf us) (fun s =>
        match slipBad s c us t0s with
        | some e => retireSt s c r e
        | none => run s)

/-- Reads `n` bytes at offset `o` of an operand; none when they are uncorrectable. -/
def opRead (s : State) (p : SlipOp) (o n : Nat) : Option (List Byte) × State :=
  if p.space = 0 then (some (t0Read s (opCh p) (p.addr + o) n), s)
  else memRead s (opCh p) (opOwner s p) (p.addr + o) n

/-- Writes at offset `o` of an operand. -/
def opWrite (s : State) (p : SlipOp) (o : Nat) (bs : List Byte) : State :=
  if p.space = 0 then t0Write s (opCh p) (p.addr + o) bs
  else memWrite s (opCh p) true (opOwner s p) (p.addr + o) bs

/-- `ST_DATA_POISON` with the offset of the line (R366). -/
def slipPoison (o : Nat) : Cpl := cplDet .dataPoison o

/-- The lost lines that the surroundings show, in the channel of each operand. -/
def slipEnv (s : State) (us : List SlipUse) (env : Env) : State :=
  us.foldl (fun t u => if u.op.space = 0 ∨ u.op.bad then t else addLost t (opCh u.op) (env.lost.filter (fun l => (linesOf u.op.addr u.len).contains l))) (rotKeys s env.keyBad)

/-! ## Fill, copy, compare (R363, R365, R366) -/

/-- Whether LEN breaks the body. -/
def lenBad (n : Nat) : Bool := n == 0 || n % 64 != 0

/-- SLIP_FILL. -/
def execSlipFill (c : Ch) (r : Ring) (env : Env) (s : State) : Host.Outcome State Fault Refusal :=
  .next (runHead s c r 0x21 (fun d s =>
    let n := fld d 863 832
    let u : SlipUse := { op := slipOp (fld d 1023 944), len := n, right := rightWrite }
    if u.op.bad ∨ lenBad n ∨ resv d 943 864 ∨ resv d 767 128 then retireSt s c r .badField
    else slipRun (slipEnv s [u] env) c r [u] (some u) false [] (fun s =>
      { lines := List.replicate (n / 64) ((List.range 8).flatMap (fun _ => natLe (fld d 831 768) 8)), cpl := cplSt .ok, st := s })))

/-- Reads the lines of a source in order up to the first that is uncorrectable: the bytes, and whether all were read. -/
def readLines (p : SlipOp) : Nat → Nat → State → List (List Byte) → List (List Byte) × Bool × State
  | 0, _, s, acc => (acc.reverse, true, s)
  | k + 1, o, s, acc =>
    match opRead s p o 64 with
    | (some bs, t) => readLines p k (o + 64) t (bs :: acc)
    | (none, t) => (acc.reverse, false, t)

/-- SLIP_COPY: as if all of SRC were read before DST is written. -/
def execSlipCopy (c : Ch) (r : Ring) (env : Env) (s : State) : Host.Outcome State Fault Refusal :=
  .next (runHead s c r 0x22 (fun d s =>
    let n := fld d 863 832
    let u : SlipUse := { op := slipOp (fld d 1023 944), len := n, right := rightWrite }
    let v : SlipUse := { op := slipOp (fld d 943 864), len := n, right := rightRead }
    if u.op.bad ∨ v.op.bad ∨ lenBad n ∨ resv d 831 128 then retireSt s c r .badField
    else slipRun (slipEnv s [u, v] env) c r [u, v] (some u) false [] (fun s =>
      let x := readLines v.op (n / 64) 0 s []
      { lines := x.1, cpl := if x.2.1 then cplSt .ok else slipPoison (64 * x.1.length), st := x.2.2 })))

/-- The first difference of two lines of equal length. -/
def firstDiff : Nat → List Byte → List Byte → Option Nat
  | i, a :: as, b :: bs => if a = b then firstDiff (i + 1) as bs else some i
  | _, _, _ => none

/-- Compares line by line. -/
def compareLines (p q : SlipOp) : Nat → Nat → State → State × Cpl
  | 0, _, s => (s, cplRes .ok 0xFFFFFFFFFFFFFFFF)
  | k + 1, o, s =>
    match opRead s p o 64 with
    | (none, t) => (t, slipPoison o)
    | (some a, t) =>
      match opRead t q o 64 with
      | (none, t) => (t, slipPoison o)
      | (some b, t) =>
        match firstDiff o a b with
        | some i => (t, cplRes .ok i)
        | none => compareLines p q k (o + 64) t

/-- SLIP_COMPARE: plaintext. -/
def execSlipCompare (c : Ch) (r : Ring) (env : Env) (s : State) : Host.Outcome State Fault Refusal :=
  .next (runHead s c r 0x23 (fun d s =>
    let n := fld d 863 832
    let u : SlipUse := { op := slipOp (fld d 1023 944), len := n, right := rightRead }
    let v : SlipUse := { op := slipOp (fld d 943 864), len := n, right := rightRead }
    if u.op.bad ∨ v.op.bad ∨ lenBad n ∨ resv d 831 128 then retireSt s c r .badField
    else slipRun (slipEnv s [u, v] env) c r [u, v] none false [] (fun s =>
      let x := compareLines u.op v.op (n / 64) 0 s
      { lines := [], cpl := x.2, st := x.1 })))

/-! ## Reduce (R367) -/

/-- IEEE 754 maximum: NaN propagates, −0 ranks below +0. -/
def redMax (a b : Num) : Num :=
  if isNan a || isNan b then .nan
  else if numLt a b then b else if numLt b a then a else if isNeg a then b else a

/-- IEEE 754 minimum. -/
def redMin (a b : Num) : Num :=
  if isNan a || isNan b then .nan
  else if numLt a b then a else if numLt b a then b else if isNeg a then a else b

/-- Folds the elements of the sources at one place, as numbers. -/
def redNum (op : Nat) (xs : List Num) : Num :=
  match xs with
  | [] => .zero
  | x :: rest => rest.foldl (if op = 0 then addR else if op = 1 then redMax else redMin) x

/-- Folds UINT64 elements. -/
def redNat (op : Nat) (xs : List Nat) : Nat :=
  match xs with
  | [] => 0
  | x :: rest => rest.foldl (fun a b => if op = 0 then (a + b) % 2 ^ 64 else if op = 1 then max a b else min a b) x

/-- Bytes of an element of ELEM. -/
def redBytes (elem : Nat) : Nat := if elem = 0 then 4 else if elem = 3 then 8 else 2

/-- One element of the result, as its word. -/
def redElem (elem op : Nat) (ws : List Nat) : Nat :=
  match elem with
  | 0 => f32Bits (redNum op (ws.map f32Of))
  | 1 => bf16Bits (redNum op (ws.map bf16Of))
  | 2 => fp16Bits (redNum op (ws.map fp16Of))
  | _ => redNat op ws

/-- One line of the result. -/
def redLine (elem op : Nat) (ls : List (List Byte)) : List Byte :=
  let w := redBytes elem
  (List.range (64 / w)).flatMap (fun i => natLe (redElem elem op (ls.map (fun l => bnum l (w * i) w))) w)

/-- Reads one line of every source in list order. -/
def sourceLines (o : Nat) : List SlipOp → State → Option (List (List Byte)) × State
  | [], s => (some [], s)
  | p :: ps, s =>
    match opRead s p o 64 with
    | (none, t) => (none, t)
    | (some bs, t) =>
      match sourceLines o ps t with
      | (some rest, t) => (some (bs :: rest), t)
      | (none, t) => (none, t)

/-- Whether a NaN stands among the elements of a line in ELEM (R101). -/
def redNan (elem : Nat) (bs : List Byte) : Bool :=
  let w := redBytes elem
  elem != 3 && (List.range (64 / w)).any (fun i =>
    isNan (match elem with | 0 => f32Of (bnum bs (w * i) w) | 1 => bf16Of (bnum bs (w * i) w) | _ => fp16Of (bnum bs (w * i) w)))

/-- Reduces line by line; a NaN read or stored sets NAN_IN (R101, R367). A source that overlaps the destination shows on a later line what an earlier line
has written, so the values come from `w`, where each line is written as soon as it is known; `s` holds what the reads alone do. -/
def reduceLines (elem op : Nat) (dst : SlipOp) (srcs : List SlipOp) : Nat → Nat → State → State → List (List Byte) → BitVec 16 → SlipPlan
  | 0, _, s, _, acc, f => { lines := acc.reverse, cpl := { cplSt .ok with flags := f }, st := s }
  | k + 1, o, s, w, acc, f =>
    match sourceLines o srcs w with
    | (none, _) => { lines := acc.reverse, cpl := { slipPoison o with flags := f }, st := (sourceLines o srcs s).2 }
    | (some ls, w) =>
      let l := redLine elem op ls
      reduceLines elem op dst srcs k (o + 64) (sourceLines o srcs s).2 (opWrite w dst o l) (l :: acc)
        (f ||| flIf (redNan elem l || ls.any (redNan elem)) flNanIn)

/-- The index of the first entry of a source list that is refused: an operand that check 1 refuses, or a reserved bit (R8, R364). -/
def sourceBad (vs : List Nat) : Option Nat := (vs.zipIdx.find? (fun v => (slipOp (fld v.1 79 0)).bad || resv v.1 127 80)).map (fun v => v.2)

/-- SLIP_REDUCE. -/
def execSlipReduce (c : Ch) (r : Ring) (env : Env) (s : State) : Host.Outcome State Fault Refusal :=
  .next (runHead s c r 0x24 (fun d s =>
    let k := fld d 943 939 + 1
    let list := fld d 938 915
    let n := fld d 914 883
    let op := fld d 880 879
    let u : SlipUse := { op := slipOp (fld d 1023 944), len := n, right := rightWrite }
    let es := (List.range k).map (fun i => t0Num s c (list + 16 * i) 16)
    let vs := es.map (fun e => ({ op := slipOp (fld e 79 0), len := n, right := rightRead } : SlipUse))
    let run := fun (s : State) => slipRun (slipEnv s (u :: vs) env) c r (u :: vs) (some u) false [(list, 16 * k)]
      (fun s => reduceLines (fld d 882 881) op u.op (vs.map (fun v => v.op)) (n / 64) 0 s s [] 0)
    if begun (s.ring c r).wait then run s
    else if u.op.bad ∨ n % 64 ≠ 0 ∨ op = 3 ∨ resv d 878 128 then retireSt s c r .badField
    else match sourceBad es with
      | some i => retire s c r (cplDet .badField i)
      | none => run s))

/-! ## Publish and atomics (R355, R357, R368) -/

/-- SLIP_PUBLISH. -/
def execSlipPublish (c : Ch) (r : Ring) (s : State) : Host.Outcome State Fault Refusal :=
  .next (runHead s c r 0x25 (fun d s =>
    let id := fld d 1023 992
    let resp := fld d 863 840
    if resp % 16 ≠ 0 ∨ resv d 839 128 then retireSt s c r .badField
    else match (if (s.ring c r).regs.isEmpty then regionCheck s id else none) with
      | some e => retireSt s c r e
      | none => slipAdmit s c r [(regIdx id, [rightPublish])] (fun s =>
        if !inT0 resp 16 ∨ touchesPriv resp 16 then retireSt s c r .badField
        else
          let p := publish s (regIdx id) (BitVec.ofNat 64 (fld d 991 928)) (BitVec.ofNat 64 (fld d 927 864))
          let s := t0Write p.2.2.2 c resp (natLe (p.2.1.toNat * 2 ^ 64 + p.2.2.1.toNat) 16)
          if p.1 then retire s c r (cplRes .ok (p.2.1 + 1).toNat) else retire s c r (cplRes .versionConflict p.2.1.toNat))))

/-- The word that an atomic leaves (R368, R381): an add modulo the word's width, or a swap when the word equals the compare value. -/
def atomicNew (w : Nat) (cas : Bool) (old arg1 arg2 : Nat) : Nat :=
  if cas then (if old = arg1 then arg2 % 2 ^ (8 * w) else old) else (old + arg1) % 2 ^ (8 * w)

/-- SLIP_ATOMIC. -/
def execSlipAtomic (c : Ch) (r : Ring) (env : Env) (s : State) : Host.Outcome State Fault Refusal :=
  .next (runHead s c r 0x26 (fun d s =>
    let w := if bit d 943 then 16 else 8
    let cas := bit d 942
    let arg1 := fld d 941 814
    let resp := fld d 685 662
    let u : SlipUse := { op := slipOp (fld d 1023 944), len := w, right := rightAtomic }
    if u.op.bad ∨ u.op.space = 0 ∨ u.op.addr % w ≠ 0 ∨ resp % 16 ≠ 0 ∨ 2 ^ (8 * w) ≤ arg1 ∨ (!cas ∧ resv d 813 686) ∨ resv d 661 128 then retireSt s c r .badField
    else slipRun (slipEnv s [u] env) c r [u] (some u) true [(resp, 16)] (fun s =>
      match opRead s u.op 0 w with
      | (none, t) => { lines := [], cpl := slipPoison 0, st := t }
      | (some bs, t) =>
        let old := leNat bs
        { lines := if cas ∧ old ≠ arg1 then [] else [natLe (atomicNew w cas old arg1 (fld d 813 686)) w]
          cpl := cplRes .ok (old % 2 ^ 64), st := t0Write t c resp (natLe old w) })))

/-! ## Guards -/

/-- FRAME_GUARD_CLEAR (R238): a guard of a frame that a descriptor would write has cleared; it makes the writes that it held. -/
def execFrameGuardClear (c : Ch) (r : Ring) (s : State) : Host.Outcome State Fault Refusal :=
  .next (if !isUp s c then s
    else match (s.ring c r).wait with
      | .guardPages x => underOwn s c r (fun s => appendGo s c r x)
      | .guardWrites x => underOwn s c r (fun s => slipGo s c r x)
      | _ => s)

end Sys2Proof.Machine
end

