-- ==== Sys2Proof/Machine/KilnOps.lean ====
section
/-! DEFINITION. What the mailbox commands share (R401 to R411): rights, framing, results, background commands; and the isolation of a
channel (R22, R429). -/

namespace Sys2Proof.Machine
open Sys2Proof

/-! ## Mailboxes and rights -/

/-- The sideband mailbox. -/
def sidebandMb : Mbox := 32

/-- The logical device of a mailbox; none for the sideband. -/
def mbLd (mb : Mbox) : Option Ld := ldOf (mb.val / 2)

/-- Whether a mailbox exists: in SLD mode logical device 0 alone (R308). -/
def mbExists (s : State) (mb : Mbox) : Bool := mb == sidebandMb || s.build.mld || decide (mb.val < 2)

/-- Whether a mailbox has the fabric manager's rights (R309, R401). -/
def mbFm (s : State) (mb : Mbox) : Bool := mb == sidebandMb || (!s.build.mld && decide (mb.val < 2))

/-- Whether a mailbox may name a channel or its port (R411). -/
def mbNamesCh (s : State) (mb : Mbox) (c : Ch) : Bool := mbFm s mb || (match mbLd mb with | some l => ldOfCh s c == some l | none => false)

/-- Whether a mailbox may name a logical device. -/
def mbNamesLd (s : State) (mb : Mbox) (l : Ld) : Bool := mbFm s mb || mbLd mb == some l

/-- Whether a mailbox may name a key slot (R443). -/
def mbNamesKey (s : State) (mb : Mbox) (slot : Nat) : Bool := mbFm s mb || (match mbLd mb with | some l => keyInLd s l slot | none => false)

/-! ## Results (R402, R403) -/

/-- The CXL return code of a status (R403). -/
def rcOf (x : St) : CxlRc :=
  match x with
  | .ok => .success
  | .busy => .busy
  | .badCommand => .unsupported
  | _ => .invalidInput

/-- A command ends with a status and an output. -/
def mbOut (s : State) (mb : Mbox) (op : Nat) (x : St) (out : List Byte) : State :=
  mbResult s mb op (fun m => { m with opcode := BitVec.ofNat 16 op, status := stBits x, rc := rcOf x, out, reply := .done })

/-- A command ends with a status. -/
def mbSt (s : State) (mb : Mbox) (op : Nat) (x : St) : State := mbOut s mb op x []

/-- A CXL command succeeds with a reply. -/
def mbReply (s : State) (mb : Mbox) (op : Nat) (r : CxlReply) : State :=
  mbResult s mb op (fun m => { m with opcode := BitVec.ofNat 16 op, status := 0, rc := .success, out := [], reply := r })

/-- A CXL command that the device does not serve, or not at this mailbox: Unsupported, whose status R403 gives. -/
def mbUnsupported (s : State) (mb : Mbox) (op : Nat) : State := mbSt s mb op .badCommand

/-- A CXL command whose input its object does not allow: Invalid Input. R403 leaves open which status stands beside it: the model's is `ST_BAD_FIELD`
(DESIGN CHOICE, log 176). -/
def mbInvalid (s : State) (mb : Mbox) (op : Nat) : State := mbSt s mb op .badField

/-! ## Framing (R399 to R406) -/

/-- The commands served in Recovery and while the device is wedged (R410, R428). -/
def recOp (op : Nat) : Bool := [0xC000, 0xC001, 0xC003, 0xC015, 0xC020, 0xC021, 0xC030, 0xC031, 0xC071, 0xC082].contains op

/-- Whether a waiting command is a `RegionPublish` whose admission stands at a saturated count (R359). -/
def publishWaits (s : State) (w : Nat × Instr) : Bool :=
  match w.2 with
  | .regionPublish mb inp =>
    match mbLd mb, admitTest (regionAt s (regIdx (bnum inp 0 4))) 0 (mb.val / 2) 0 rightPublish with
    | some _, .wait _ => true
    | _, _ => false
  | _ => false

/-- Whether a waiting command is a Clear Poison whose write stands at a full write-back queue (R246). -/
def clearWaits (s : State) (w : Nat × Instr) : Bool :=
  match w.2 with
  | .clearPoison mb dpa _ =>
    match mbLd mb with
    | none => false
    | some l => match targetOf s l (dpa / 64 * 64) with
      | .frame c _ t1 => isUp s c && wbHolds s c false t1 64
      | .extent c _ t1 => isUp s c && wbHolds s c false t1 64
      | _ => false
  | _ => false

/-- Whether a foreground command is under way that a channel, a host or a fence may hold for any time: a commit behind its fence (R415), a publish at a
saturated count (R359), a write at a full queue (R246), an invalidation that waits for a window's moves (R392), a release of dynamic capacity (R327). -/
def longRuns (s : State) : Bool :=
  s.island.commit.isSome || s.island.waiting.any (fun w => publishWaits s w || clearWaits s w) || allCh.any (fun c => !(s.ch c).link.winDue.isEmpty) ||
    s.island.grants.any (fun g => g.leaving && decide (g.by_ < 33))

/-- The commands that program the firmware flash (R436 to R438, R446, R450). -/
def flashOp (op : Nat) : Bool := [0xC070, 0xC071, 0xC080, 0xC081, 0xC082].contains op

/-- Whether a mailbox command must wait: Kiln is Booting (R399), the flash that it programs does not work without VAON_IO (R494; DESIGN CHOICE, log 184), or a foreground command is under way; Kiln runs one at a time (R406). The poll of
the health log and the acknowledgements of a key's destruction end within 2^16 steps and hold every command. What may last for any time does not hold the
commands marked rec, which complete on a wedged device (R410, R428; DEDUCED, log 177). -/
def kilnBusy (s : State) (op : Nat) : Bool :=
  s.island.kiln == .booting || (flashOp op && !s.island.supply.io) || s.island.destroy.isSome || s.island.poll.isSome || (longRuns s && !recOp op)

/-- Whether a mailbox command that arrives joins its queue: Kiln is busy, or commands that came before it still wait (R406). -/
def kilnHolds (s : State) (op : Nat) : Bool :=
  kilnBusy s op || (!recOp op && s.island.waiting.any (fun w => decide (w.1 < 33)))

/-- Whether a mailbox's queue of eight is full (R405). -/
def mbFull (s : State) (mb : Mbox) : Bool := decide (8 ≤ (s.island.waiting.filter (fun w => w.1 == mb.val)).length)

/-- The mailbox that serves an endpoint's CCI messages (R341): a logical device's secondary mailbox, or the sideband's. -/
def epMb (ep : Endpoint) : Mbox :=
  match ep with
  | .host l => ⟨2 * l.val + 1, by omega⟩
  | _ => sidebandMb

/-- The endpoint and opcode of a command that comes as a message. -/
def viaOf (i : Instr) : Option (Endpoint × Nat) :=
  match i with
  | .mctpMessage ep (.cci op _ _ _) => some (ep, op.toNat)
  | .mctpMessage ep (.fmApi op _ _ _) => some (ep, op.toNat)
  | _ => none

/-- Notes where the answer of a command goes (R402). -/
def setVia (s : State) (mb : Mbox) (i : Instr) : State :=
  match viaOf i with
  | some v => modMb s mb (fun m => { m with via := some v })
  | none => s

/-- Whether a mailbox can be reached: a logical device's through its function (R308, R344), the sideband's through I3C or the FM-owned logical device
(R341, R343). -/
def mbUp (s : State) (mb : Mbox) : Bool :=
  s.island.supply.aon && (match mbLd mb with
    | some l => ioUp s l
    | none => s.island.supply.io || (s.host.up && s.build.mld))

/-- Whether an endpoint's transport works (R341, R343, R344). -/
def epUp (s : State) (ep : Endpoint) : Bool :=
  s.island.supply.aon && (match ep with
    | .host l => ioUp s l
    | .fm => s.host.up && s.build.mld
    | .i3c => s.island.supply.io)

/-- A command arrives at a mailbox: it runs, waits in the mailbox's queue, or finds the queue full (R405). -/
def mbEnter (s : State) (mb : Mbox) (op : Nat) (i : Instr) (run : State → State) : State :=
  if !mbExists s mb ∨ !mbUp s mb then s
  else if mbFull s mb then mbSt (setVia s mb i) mb op .busy
  else if kilnHolds s op then modIsland s (fun k => { k with waiting := k.waiting ++ [(mb.val, i)] })
  else run (setVia s mb i)

/-- The common checks of a command (R400, R404, R407): Recovery, the length, and a second background command. -/
def mbRun (s : State) (mb : Mbox) (op : Nat) (rec_ bg lenOk : Bool) (k : State → State) : State :=
  if s.island.kiln = .recovery ∧ !rec_ then mbSt s mb op .kilnRecovery
  else if !lenOk then mbSt s mb op .badLength
  else if bg ∧ (s.mb mb).bg.isSome then mbSt s mb op .busy
  else k s

/-- A command on a channel that its mailbox must be allowed to name, after its framing. -/
def mbOnCh (s : State) (mb : Mbox) (op c : Nat) (k : Ch → State) : State :=
  match chOf c with
  | none => mbSt s mb op .badField
  | some c => if mbNamesCh s mb c then k c else mbSt s mb op .accessDenied

/-! ## Background commands (R407, R408) -/

/-- A background command starts. -/
def mbStart (s : State) (mb : Mbox) (op : Nat) (t : BgTask) : State :=
  mbResult s mb op (fun m => { m with
    opcode := BitVec.ofNat 16 op, bgOp := BitVec.ofNat 16 op, status := 0, rc := .background, out := [], reply := .done, bg := some t, drop := false })

/-- Replaces a background command's progress. -/
def mbTask (s : State) (mb : Mbox) (t : BgTask) : State := modMb s mb (fun m => { m with bg := some t })

/-- A background command completes: the mailbox's vector is requested when it is enabled; a discarded result is not recorded. -/
def mbDone (s : State) (mb : Mbox) (x : St) (out : List Byte) : State :=
  if (s.mb mb).drop then modMb s mb (fun m => { m with bg := none, drop := false })
  else
    let s := modMb s mb (fun m => { m with bg := none, bgStatus := stBits x, out })
    match mbLd mb with
    | some l => if (s.mb mb).irqOn then msixReq s l (mb.val % 2) else s
    | none => s
/-- Folds over the mailboxes whose background command passes a test. -/
def forTasks (s : State) (f : State → Mbox → BgTask → State) : State :=
  allMbs.foldl (fun t mb => match (t.mb mb).bg with
    | some x => f t mb x
    | none => t) s

/-! ## The end of connections (R377) -/

/-- Whether no operation of a connection is outstanding and none is being answered. -/
def connQuiet (s : State) (c : Ch) (conn : Nat) : Bool :=
  (connAt s c conn).outs.isEmpty && !(s.ch c).link.rx.any (fun x => rxConn x == conn)

/-- Closes a connection: what it was receiving ends, and its nodes are freed. -/
def closeConn (s : State) (c : Ch) (conn : Nat) : State :=
  let s := endAdm s (match (connAt s c conn).rx with | some o => o.adm | none => none)
  let s := modConn s c conn (fun _ => Conn.closed)
  freeNodes s c (fun k => match k with
    | .conn n _ => n == conn
    | _ => false)

/-- The `LinkConnClose` commands whose connections have come to rest. -/
def closeSteps (s : State) : State :=
  forTasks s (fun t mb x => match x with
    | .connClose c conn => match chOf c with
      | some d => if connQuiet t d conn then mbDone (closeConn t d conn) mb .ok [] else t
      | none => t
    | _ => t)

/-! ## Isolation (R22, R429) -/

/-- The operations that a channel's rings have admitted end: no completion record, no gate add, no message; their counts fall (R22). -/
def endRings (s : State) (c : Ch) : State :=
  allRings.foldl (fun t r => modRing (clearGuard (dropUses t c r) c r) c r (fun g => { g with wait := .idle, old := none })) s

/-- Sieve reports that wait at a channel's reference port end with `ST_CHANNEL_DOWN` at their source. -/
def endReports (s : State) (c : Ch) : State :=
  let p := (s.ch c).obj.port
  let rs := p.reports ++ p.held.filterMap (fun h => match h with | .report r => some r | _ => none)
  let s := modRefPort s c (fun p => { p with reports := [], held := [], sweep := none, scope := [] })
  rs.foldl (fun t r => if r.answer then reportAnswer t r .channelDown else t) s

/-- Reports of a channel's Sieve that are on their way wait for no answer any more. -/
def dropAnswers (s : State) (c : Ch) : State :=
  forCh s allCh (fun t d => modRefPort t d (fun p => { p with
    reports := p.reports.map (fun r => if r.from_ = c.val then { r with answer := false } else r),
    held := p.held.map (fun h => match h with
      | .report r => .report (if r.from_ = c.val then { r with answer := false } else r)
      | x => x) }))

/-- Host requests that wait at the lines of the channel are answered as R21 states: a read with poison, a write dropped with its
`EV_CHANNEL_DOWN_ACCESS` (DEDUCED, log 190); descriptors of other channels find it down (R22). -/
def endSnoops (s : State) (c : Ch) : State :=
  let fs := (s.ch c).snoops.flatMap (fun x => x.next)
  let s := modCh s c (fun ch => { ch with snoops := [] })
  fs.foldl (fun t f => match f with
    | .hostRead l _ _ adm => emit (endAdm t adm) (.readPoison l none)
    | .hostWrite l dpa _ _ adm => (match ldOf l with | some l => downWrite (endAdm t adm) l c dpa | none => endAdm t adm)
    | .dev d _ => wakeDev t d
    | .way _ => t) s

/-- The operations of a channel's link port end: those being received are refused with LSTAT 0x08 at their LAST packet, outstanding ones end
without a record (R22). -/
def endLink (s : State) (c : Ch) : State :=
  let s := (s.ch c).link.conns.foldl (fun t e => endAdm t (match e.2.rx with | some o => o.adm | none => none)) s
  let s := modLink s c (fun p => { p with
    rsp := []
    txq := p.txq.filter (fun x => (pktHdr x.hdr).resp)
    conns := p.conns.map (fun e => (e.1, { e.2 with
      outs := [], rx := e.2.rx.map (fun o => { o with refused := some (o.refused.getD 0x08), adm := none }) })) })
  closeSteps (windowsStep s c)

/-- The background commands at a channel's Marl end with `ST_CHANNEL_DOWN` (R22). -/
def endMedia (s : State) (c : Ch) : State :=
  forTasks s (fun t mb x => match x with
    | .mediaFlush d _ _ _ _ => if d = c.val then mbDone t mb .channelDown [] else t
    | .secureDiscard d _ _ _ _ => if d = c.val then mbDone t mb .channelDown [] else t
    | .mediaFormat d => if d = c.val then mbDone t mb .channelDown [] else t
    | .mediaDiscard d => if d = c.val then mbDone t mb .channelDown [] else t
    | _ => t)

/-- Every operation of a channel's units ends: rings, reports, host requests that wait for snoops, the link port, Marl's commands, images on their way, and the
key cache. -/
def endOps (s : State) (c : Ch) : State :=
  let s := endMedia (endLink (endSnoops (endReports (dropAnswers (endRings s c) c) c) c) c) c
  let s := modMarl s c (fun m => { m with pendImgs := [] })
  modCh s c (fun ch => { ch with keyCache := [] })

/-- Isolates a channel: its hub port closes, its admitted operations end, its key cache is cleared. R190 does not say whether the Sieve's rows
become invalid at the isolation or at the reset that follows: the model keeps them until the reset (DESIGN CHOICE, log 137). -/
def isolateCh (s : State) (c : Ch) (cause : Nat) : State :=
  if (s.ch c).state = .isolated ∨ (s.ch c).state = .absent then s
  else setChState (endOps (nandFinish s c) c) c .isolated cause

end Sys2Proof.Machine
end

