-- ==== Sys2Proof/Machine/MarlCmds.lean ====
section
/-! DEFINITION. Marl's events and mailbox commands: programs and failures (R278 to R284), collection and erase (R285 to R288), the journal
and checkpoints (R289 to R291), format, flush and discard (R298, R299, R410), temperature (R302). -/

namespace Sys2Proof.Machine
open Sys2Proof

/-- Whether Marl starts new programs and erases: the channel is up, has a T2, and no supply warning holds them (R292). -/
def marlRuns (s : State) (c : Ch) : Bool := isUp s c && hasT2 (s.marl c) && !(s.marl c).hold

/-- A change that may lower the capacity: read-only, or the event and the MEDIA record of a fall (R297). -/
def withCap (s : State) (c : Ch) (f : State → State) : State :=
  let was := (s.marl c).readonly
  let n := capNow (s.marl c)
  let t := mediaCheck (f s) c
  if !was ∧ !(t.marl c).readonly ∧ capNow (t.marl c) < n then
    let m := t.marl c
    raiseC (jAppend t c (.media false m.flash.opFmt (capNow m) m.capCeil)) c 0x0502 sevWarn (natLe (capNow m) 4)
  else t

/-! ## Background commands that wait for Marl -/

/-- A map entry as a map segment holds it: what its physical page was programmed with, less what has been released since. -/
def ckptEntry (m : Marl) (e : MapEntry) : MapEntry :=
  match (if e.mapped then smGet? m.flash.pages e.pua.toNat else none) with
  | some p => { e with slots := e.slots &&& p.slots, owner := p.owner }
  | none => if e.mapped then e else { e with slots := 0 }

/-- The map segment of a unit (R291). -/
def segOf (lu : Nat) : Nat := lu / segEntries

/-- The segments in which two maps differ. -/
def changedSegs (a b : SMap MapEntry) : List Nat :=
  dedup (((a ++ b).filter (fun e => smGet MapEntry.none a e.1 != smGet MapEntry.none b e.1)).map (fun e => segOf e.1))

/-- Writes pages of a checkpoint, each to a page of its own; the spec does not give where one goes, so its address is a free value (log 1). Gives the
addresses. -/
def writeSegs (c : Ch) : List FlashPage → State → State × List (BitVec 33)
  | [], s => (s, [])
  | p :: ps, s =>
    let f := drawFree s
    let a : BitVec 33 := f.1.setWidth 33
    let r := writeSegs c ps (modMarl f.2 c (fun m => { m with work := m.work + 1, flash := { m.flash with segs := smPut m.flash.segs a.toNat p } }))
    (r.1, a :: r.2)

/-- Starts a checkpoint (R291 steps 1 to 4): REPLAY_JSEQ, the changed segments, the directory and CKPT. What it holds is what the journal leaves at
REPLAY_JSEQ, with the map as it stands. -/
def beginCkpt (s : State) (c : Ch) : State :=
  if (s.marl c).ckptStep ≠ 0 then s
  else
    let m := s.marl c
    let j := nextJseq m
    let map := m.map.foldl (fun x e => smSet MapEntry.none x e.1 (ckptEntry m e.2)) []
    let x := m.jbuf.foldl (replayRec m.flash.store) (flashSnap m.flash [])
    let ks := changedSegs map m.flash.snap.map
    let a := writeSegs c (ks.map (fun k => segPage k (segBytes map k))) s
    let dir := (ks.zip a.2).foldl (fun d p => smPut d p.1 p.2) m.flash.snap.dir
    let b := writeSegs c ((List.range (ceilDiv (segCount m) segEntries)).map (fun i => segPage i (dirBytes dir (segCount m) i))) a.1
    modMarl (jAppend b.1 c (.ckpt (b.2.headD puaNone) (segCount m) j)) c (fun m =>
      { m with ckptStep := j, ckptJseq := j, ckpt := { x with
          map, dir, dirAt := b.2, table := m.table, slots := m.slots, capCeil := m.capCeil, readonly := m.readonly } })

/-- Whether a stripe block holds a programmed unit that no map entry names. -/
def hasInvalid (m : Marl) (key : Nat) : Bool :=
  m.flash.pages.any (fun p => puaSb (BitVec.ofNat 33 p.1) == key && (p.2.kind == 0 || p.2.kind == 5)
    && (smGet MapEntry.none m.map p.2.lu).pua != BitVec.ofNat 33 p.1)

/-- Closes an open stripe block, its stripe being filled padded. -/
def closeOpen (s : State) (c : Ch) (o : OpenSb) : State :=
  let s := if 0 < o.filled then endStripe s c o else s
  match openOf (s.marl c) o.stream o.group with
  | some x => if x.sb = o.sb then shutSb s c x else s
  | none => s

/-- How far a flush has come. -/
inductive FlushAt
  /-- Everything asked for is durable. -/
  | done
  /-- The channel has gone down. -/
  | down
  /-- It waits in a phase: programs (0), the journal (1), the checkpoint (2). -/
  | waits (phase wseq jseq : Nat)
  deriving DecidableEq, Repr

/-- One stage of a flush: the programs accepted before write sequence `wseq`, the journal up to `jseq`, the checkpoint (R279, R291, R410). -/
def flushAdv (s : State) (c : Ch) (ckpt : Bool) (phase wseq jseq : Nat) : State × FlushAt :=
  let m := s.marl c
  if !isUp s c then (s, .down)
  else if phase = 0 then
    if m.buffer.any (fun u => decide (u.page.wseq < wseq)) then (s, .waits 0 wseq jseq)
    else if nextJseq m ≤ durableJseq m ∧ !ckpt then (s, .done)
    else (s, .waits 1 wseq (nextJseq m))
  else if phase = 1 then
    if durableJseq m < jseq then (s, .waits 1 wseq jseq)
    else if !ckpt then (s, .done)
    else if m.ckptStep ≠ 0 ∨ m.hold then (s, .waits 1 wseq jseq)
    else (beginCkpt s c, .waits 2 wseq jseq)
  else if m.ckptStep ≠ 0 then (s, .waits 2 wseq jseq) else (s, .done)

/-- The progress of a `MediaFlush`. Its output is the durable JSEQ. -/
def flushStep (s : State) (mb : Mbox) (c : Ch) (ckpt : Bool) (phase wseq jseq : Nat) : State :=
  let x := flushAdv s c ckpt phase wseq jseq
  match x.2 with
  | .done => mbDone x.1 mb .ok (natLe (durableJseq (x.1.marl c) - 1) 6)
  | .down => mbDone x.1 mb .channelDown []
  | .waits p w j => mbTask x.1 mb (.mediaFlush c.val ckpt p w j)

/-- The progress of a `MediaSecureDiscard` (R299): copies in flight, then the erase of every stripe block that may hold a copy. -/
def discardStep (s : State) (mb : Mbox) (c : Ch) (first count : Nat) (owners : List Nat) (sbs : Option (List Nat)) : State :=
  let m := s.marl c
  if !isUp s c then mbDone s mb .channelDown []
  else match sbs with
    | none =>
      if m.buffer.any (fun u => decide (first ≤ u.page.lu ∧ u.page.lu < first + count)) then s
      else
        let ks := (m.table.sbs.filter (fun e => (e.2.state == .opened || e.2.state == .closed) && (sbOwners m e.1).any (fun o => owners.contains o) && hasInvalid m e.1)).map (fun e => e.1)
        let s := m.opens.foldl (fun t o => if ks.contains (sbKey o.group o.sb) then closeOpen t c o else t) s
        let s := ks.foldl (fun t k => markSb t c k) s
        if ks.isEmpty then raiseC (mbDone s mb .ok []) c 0x0508 sevInfo (natLe first 4 ++ natLe count 4)
        else mbTask s mb (.secureDiscard c.val first count owners (some ks))
    | some ks =>
      let left := ks.filter m.marked.contains
      if left.isEmpty then raiseC (mbDone s mb .ok []) c 0x0508 sevInfo (natLe first 4 ++ natLe count 4)
      else mbTask s mb (.secureDiscard c.val first count owners (some left))

/-! ## `Shutdown` (R463) -/

/-- Step 1: whether every ring of the running channels has cleared ENABLE. -/
def ringsStopped (s : State) : Bool := allCh.all (fun c => !isUp s c || allRings.all (fun r => !(s.ring c r).enable))

/-- Step 2: connections of running channels that have come to rest are closed. -/
def shutConns (s : State) : State :=
  forCh s (allCh.filter (isUp s)) (fun t c => (t.ch c).link.conns.foldl (fun u e =>
    if e.2.state ≠ .closed ∧ connQuiet u c e.1 then closeConn u c e.1 else u) t)

/-- Whether every connection of the running channels is Closed. -/
def connsClosed (s : State) : Bool := allCh.all (fun c => !isUp s c || (s.ch c).link.conns.all (fun e => e.2.state == .closed))

/-- Step 3: the flushes that begin, `MediaFlush` with CKPT on every formatted channel. -/
def shutFlushes (s : State) : State × List (Nat × Nat × Nat × Nat) :=
  let cs := allCh.filter (fun c => isUp s c && hasT2 (s.marl c))
  (forCh s cs (fun t c => padOpens t c (fun _ => true)), cs.map (fun c => (c.val, 0, (s.marl c).flash.wseq, 0)))

/-- The flushes go on; those that have ended go. -/
def shutFlush (s : State) (fl : List (Nat × Nat × Nat × Nat)) : State × List (Nat × Nat × Nat × Nat) :=
  fl.foldl (fun a x => match chOf x.1 with
    | none => a
    | some c =>
      let y := flushAdv a.1 c true x.2.1 x.2.2.1 x.2.2.2
      match y.2 with
      | .waits p w j => (y.1, a.2 ++ [(x.1, p, w, j)])
      | _ => (y.1, a.2)) (s, [])

/-- Step 6. -/
def shutEnd (s : State) (mb : Mbox) : State :=
  mbDone (modIsland s (fun i => { i with supply := { i.supply with shdnDone := true } })) mb .ok []

/-- The highest junction temperature. -/
def hottest (s : State) : Int := (allCh.map (fun c => (s.ch c).throttle.die)).foldl max (s.ch 0).throttle.die

/-- Steps 4 and 5: every present channel goes to Off, those that waited to enter Starting too (R464), and the self-test starts when AT_SHUTDOWN is 1. -/
def shutOff (s : State) (mb : Mbox) : State :=
  let s := modIsland s (fun i => { i with selfTest := { i.selfTest with starts := [] } })
  let s := forCh s (presentChs s) (fun t c => if (t.ch c).state = .off then t else setChState (endOps t c) c .off 0)
  let cs := (allCh.filter (fun c => (s.ch c).connected)).map (fun c => c.val)
  if !bit s.island.stCfg.toNat 29 ∨ cs.isEmpty then shutEnd s mb
  else
    let s := modIsland s (fun i => { i with devHealth := { i.devHealth with testsShut := i.devHealth.testsShut + 1 } })
    modIsland (mbTask s mb (.shutdown 5 [])) (fun i => { i with selfTest := { i.selfTest with
      state := 1, todo := cs, running := [], got := [], atShut := true, vcoreMv := i.supply.vcoreMv.toNat, tjMax := hottest s } })

/-- The progress of a `Shutdown`, one step after the other. -/
def shutRun (s : State) (mb : Mbox) (stage : Nat) (fl : List (Nat × Nat × Nat × Nat)) : State :=
  if stage = 1 ∧ !ringsStopped s then s
  else
    let s := if stage ≤ 2 then shutConns s else s
    if stage ≤ 2 ∧ !connsClosed s then mbTask s mb (.shutdown 2 [])
    else
      let x := if stage ≤ 2 then shutFlushes s else (s, fl)
      let x := shutFlush (shutFlush (shutFlush x.1 x.2).1 (shutFlush x.1 x.2).2).1 (shutFlush (shutFlush x.1 x.2).1 (shutFlush x.1 x.2).2).2
      if x.2.isEmpty then shutOff x.1 mb else mbTask x.1 mb (.shutdown 3 x.2)

/-- A `Shutdown` that waits goes on. -/
def shutStep (s : State) : State :=
  forTasks s (fun t mb x => match x with
    | .shutdown stage fl => if stage ≤ 3 then shutRun t mb stage fl else t
    | _ => t)

/-- A channel's Marl has advanced: the background commands that wait for it go on. Three passes take a command from one phase to the next. -/
def marlTasks (s : State) (c : Ch) : State :=
  let pass := fun s => forTasks s (fun t mb x => match x with
    | .mediaFlush d k p w j => if d = c.val then flushStep t mb c k p w j else t
    | .secureDiscard d f n os ks => if d = c.val then discardStep t mb c f n os ks else t
    | _ => t)
  shutStep (pass (pass (pass s)))

/-! ## Programs (R278 to R280, R283) -/

/-- Whether a stripe is still being filled. -/
def isFilling (m : Marl) (stripe : Nat) : Bool := m.opens.any (fun o => stripeOf (puaOf o.group o.sb o.stripe 0) == stripe)

/-- The oldest stripe of a stream in a group whose programs are issued. -/
def oldestStripe (m : Marl) (stream g : Nat) : Option Nat :=
  (m.buffer.find? (fun u => u.issued && u.pua != puaNone && u.page.stream.toNat == stream && fld u.pua.toNat 32 30 == g)).map (fun u => stripeOf u.pua)

/-- The map update of a programmed unit (R278, R280): a stale collection copy, and a program that a release or a later program has overtaken, change
nothing. Earlier programs of the unit that are still in the buffer are overtaken now. -/
def mapProgrammed (s : State) (c : Ch) (u : BufUnit) : State :=
  let p := u.page
  let e := mapAt s c p.lu
  let live := e.slots &&& p.slots
  let old := (s.marl c).buffer.any (fun v => v.stale && v.page.wseq == p.wseq)
  if (if p.gc then !e.mapped || e.pua != p.prev else old || live == 0) then s
  else
    let s := jAppend (invalidate s c e.pua) c (.map p.gc p.stream p.owner live p.lu u.pua e.pua)
    let s := if p.gc then s else modMarl s c (fun m => { m with
      buffer := m.buffer.map (fun v => if v.page.lu = p.lu ∧ !v.page.gc ∧ v.page.wseq < p.wseq then { v with stale := true } else v) })
    setMap s c p.lu { e with mapped := true, stream := p.stream, pua := u.pua }

/-- Gives units of the buffer that have no page the next pages of their streams (R283), in their order, as far as stripe blocks can be had. -/
def placeUnits (c : Ch) : List Nat → State → State
  | [], s => s
  | w :: ws, s =>
    match (s.marl c).buffer.find? (fun u => u.page.wseq == w) with
    | none => placeUnits c ws s
    | some u =>
      match takePage s c u.page.stream.toNat with
      | none => placeUnits c ws s
      | some (p, t) =>
        placeUnits c ws (stripeFull (modMarl t c (fun m => { m with
          buffer := m.buffer.map (fun v => if v.page.wseq = w then { v with pua := p, issued := false } else v) })) c u.page.stream.toNat)

/-- Units that have waited for a page are placed. -/
def placeWaiting (s : State) (c : Ch) : State :=
  placeUnits c (((s.marl c).buffer.filter (fun u => u.pua == puaNone)).map (fun u => u.page.wseq)) s

/-- The 16 programs of a stripe have completed: unit for unit the map entry, the buffer and the MAP record, with the stripe's pads and parity page on flash. -/
def stripeDone (s : State) (c : Ch) (stream : BitVec 2) (k : Nat) : State :=
  let us := sortBy (fun a b => decide (a.pua.toNat ≤ b.pua.toNat)) ((s.marl c).buffer.filter (fun u => stripeOf u.pua == k))
  let s := us.foldl (fun t u => mapProgrammed t c u) s
  imageRecords (closeIfDone (modMarl s c (fun m => landStripe m stream k us)) c (puaSb (BitVec.ofNat 33 (16 * k)))) c

/-- STRIPE_PROGRAMMED (R278): the 16 programs of the oldest issued stripe of a stream in a group have completed. While both journal page buffers are
full the update waits (R289). -/
def execStripeProgrammed (c : Ch) (stream : Fin 4) (group : Nat) (s : State) : Host.Outcome State Fault Refusal :=
  .next (if !isUp s c ∨ !hasT2 (s.marl c) ∨ jFull (s.marl c) then s
    else match oldestStripe (s.marl c) stream.val group with
      | none => s
      | some k => marlTasks (placeWaiting (stripeDone s c (BitVec.ofNat 2 stream.val) k) c) c)

/-- STRIPE_PAD (R279): a stripe that has waited 2^24 steps with a unit accepted is padded. -/
def execStripePad (c : Ch) (stream : Fin 4) (group : Nat) (s : State) : Host.Outcome State Fault Refusal :=
  .next (if !marlRuns s c then s
    else match openOf (s.marl c) stream.val group with
      | some o => if 0 < o.filled then endStripe s c o else s
      | none => s)

/-- A member of a stripe block is marked for retirement at its next erase. -/
def markMember (s : State) (c : Ch) (key member cause : Nat) : State :=
  modSb s c key (fun b => { b with retire := if b.retire.any (fun r => r.1 == member) then b.retire else b.retire ++ [(member, cause)] })

/-- PROGRAM_FAILURE (R283): a member's program of the oldest issued stripe fails. Every unit of the stripe block that is still in the buffer
is programmed again elsewhere, as soon as its stream has a page. -/
def execProgramFailure (c : Ch) (stream : Fin 4) (group member : Nat) (s : State) : Host.Outcome State Fault Refusal :=
  .next (if !isUp s c ∨ !hasT2 (s.marl c) ∨ 16 ≤ member then s
    else match oldestStripe (s.marl c) stream.val group with
      | none => s
      | some k =>
        let key := puaSb (BitVec.ofNat 33 (16 * k))
        let s := (s.marl c).opens.foldl (fun t o => if sbKey o.group o.sb = key then closeSb t c o else t) s
        let s := markMember (markSb s c key) c key member 0
        placeWaiting (modMarl s c (fun m => { m with
          buffer := m.buffer.map (fun u => if puaSb u.pua = key then { u with pua := puaNone, issued := false } else u) })) c)

/-! ## Retirement (R283, R284) -/

/-- The die of a member of a stripe block. -/
def dieOf (key member : Nat) : Nat := 16 * (key / 16384) + member

/-- The spares of a die. -/
def sparesOf (m : Marl) (die : Nat) : List Nat := smGet [] m.table.spares die

/-- The block of a member of a stripe block. -/
def memberBlock (m : Marl) (key member : Nat) : Nat := (smGet [] m.table.members key).getD member 0

/-- Retires a member's block: journaled, counted and reported. -/
def blockRetired (s : State) (c : Ch) (key member cause : Nat) : State :=
  let die := dieOf key member
  let b := memberBlock (s.marl c) key member
  let s := jAppend (modTable s c (fun t => { t with retired := t.retired ++ [(die, b)] })) c (.retire die b cause)
  let s := modMarl s c (fun m => { m with health := { m.health with
    retiredProg := m.health.retiredProg + b2n (cause == 0), retiredErase := m.health.retiredErase + b2n (cause == 1),
    retiredRead := m.health.retiredRead + b2n (cause == 2) } })
  raiseC s c 0x0506 sevInfo (natLe die 1 ++ natLe b 2 ++ natLe cause 1)

/-- A stripe block is retired: the blocks of the members but those of a list join their dies' spares. -/
def retireSb (s : State) (c : Ch) (key : Nat) (bad : List Nat) : State :=
  let good := (List.range 16).filter (fun m => !bad.contains m)
  let s := modTable s c (fun t => good.foldl (fun t m =>
    { t with spares := smPut t.spares (dieOf key m) (smGet [] t.spares (dieOf key m) ++ [(smGet [] t.members key).getD m 0]) }) t)
  let s := modSb s c key (fun b => { b with state := .retired, erasing := false, retire := [], inval := 0 })
  modMarl s c (fun m => { m with
    marked := m.marked.filter (fun k => k != key), due := m.due.filter (fun k => k != key)
    flash := { m.flash with pages := m.flash.pages.filter (fun p => puaSb (BitVec.ofNat 33 p.1) != key) } })

/-- A member's block is replaced by a spare of its die (log 148), with its SB_MEMBER record. -/
def replaceMember (s : State) (c : Ch) (key member : Nat) : State :=
  let die := dieOf key member
  match sparesOf (s.marl c) die with
  | [] => s
  | b :: bs =>
    let s := modTable s c (fun t => { t with spares := smPut t.spares die bs, members := smPut t.members key ((smGet [] t.members key).set member b) })
    jAppend s c (.sbMember (key / 16384) (key % 16384) member b)

/-- The blocks of members of a stripe block are retired, each with its cause, and replaced by spares; where a die has none left, the stripe block itself is
retired, with the members that were marked for retirement before, and the channel is Degraded (R45). -/
def retireMembers (s : State) (c : Ch) (key : Nat) (ms : List (Nat × Nat)) : State :=
  if ms.isEmpty ∨ (sbAt (s.marl c) key).state = .retired then s
  else
    let marked := (sbAt (s.marl c) key).retire.filter (fun x => !(ms.map (fun r => r.1)).contains x.1)
    let s := ms.foldl (fun t r => blockRetired t c key r.1 r.2) s
    if ms.any (fun r => (sparesOf (s.marl c) (dieOf key r.1)).isEmpty) then
      let s := marked.foldl (fun t r => blockRetired t c key r.1 r.2) s
      let s := retireSb s c key ((ms ++ marked).map (fun r => r.1))
      if (s.ch c).state = .ready then setChState s c .degraded 2 else s
    else
      modSb (ms.foldl (fun t r => replaceMember t c key r.1) s) c key (fun b => { b with
        retire := b.retire.filter (fun x => !(ms.map (fun r => r.1)).contains x.1) })

/-- ERASE_FAILURE (R283): members of the stripe block being erased fail. -/
def execEraseFailure (c : Ch) (group sb : Nat) (members : List Nat) (s : State) : Host.Outcome State Fault Refusal :=
  let key := sbKey group sb
  .next (if !isUp s c ∨ 16384 ≤ sb ∨ !(sbAt (s.marl c) key).erasing then s
    else marlTasks (withCap s c (fun s => retireMembers s c key ((dedup (members.filter (fun m => decide (m < 16)))).map (fun m => (m, 1))))) c)

/-- A die fails (R284). A second failed die of a group loses the pages that both hold of each stripe. -/
def dieFails (s : State) (c : Ch) (die : Nat) : State :=
  let m := s.marl c
  if !isUp s c ∨ 16 * groups m ≤ die ∨ m.table.failed.contains die then s
  else
    let g := die / 16
    let bad := die :: m.table.failed.filter (fun d => d / 16 == g)
    let gone := if bad.length < 2 then [] else
      (m.flash.pages.filter (fun p => fld p.1 32 30 == g && bad.contains (puaDie (BitVec.ofNat 33 p.1)))).map (fun p => p.1)
    let s := modTable s c (fun t => { t with failed := t.failed ++ [die] })
    let s := modFlash s c (fun f => { f with lostPuas := f.lostPuas ++ gone.filter (fun p => !f.lostPuas.contains p) })
    let s := jAppend s c (.dieFail die)
    let s := ((sbsOf m g).filter (fun k => (sbAt m k).state != .retired)).foldl (fun t k => markSb t c k) s
    raiseC s c 0x0507 sevErr (natLe die 1)

/-- DIE_TIMEOUT (R284). -/
def execDieTimeout (c : Ch) (die : Nat) (s : State) : Host.Outcome State Fault Refusal := .next (dieFails s c die)

/-- DIE_PARAMETER_CHANGE (R284). -/
def execDieParameterChange (c : Ch) (die : Nat) (s : State) : Host.Outcome State Fault Refusal := .next (dieFails s c die)

/-! ## Reads (R281, R282, R301) -/

/-- The bin of ERR_BIN for a number of corrected bits. -/
def errBin (n : Nat) : Nat := if n = 0 then 0 else min 15 (Nat.log2 n + 1)

/-- Changes Marl's counters. -/
def modMHealth (s : State) (c : Ch) (f : MarlHealth → MarlHealth) : State := modMarl s c (fun m => { m with health := f m.health })

/-- A unit has decoded with `n` corrected bits (R301). -/
def countBits (s : State) (c : Ch) (n : Nat) : State :=
  modMHealth s c (fun h => { h with errBin := h.errBin.set! (errBin n) (h.errBin[errBin n]! + 1) })

/-- The counts of a read that has gone on to step 2 (`steps` 1) or to step 3 (2) of R281. -/
def countSteps (s : State) (c : Ch) (steps : Nat) : State :=
  modMHealth s c (fun h => { h with retries := h.retries + b2n (decide (1 ≤ steps)), soft := h.soft + b2n (decide (2 ≤ steps)) })

/-- Whether the reads of a failed die may end so: they go straight to the rebuild (R284). -/
def deadReadOk : NandResult → Bool
  | .hard _ => false
  | .retry _ => false
  | .soft _ => false
  | .rebuilt => true
  | .lost => true

/-- NAND_READ_COMPLETE (R281): how a read of a mapped unit has ended. -/
def execNandReadComplete (c : Ch) (unit : Nat) (res : NandResult) (s : State) : Host.Outcome State Fault Refusal :=
  let e := mapAt s c unit
  let key := puaSb e.pua
  let member := fld e.pua.toNat 3 0
  let dead := (s.marl c).table.failed.contains (puaDie e.pua)
  .next (if !isUp s c ∨ !e.mapped ∨ (dead ∧ !deadReadOk res) then s
    else
      let s := modMarl s c (fun m => { m with reads := m.reads + 1, health := { m.health with unitsRead := m.health.unitsRead + 1 } })
      let deep := fun s => countSteps s c (if dead then 0 else 2)
      match res with
      | .hard n => countBits s c n
      | .retry n => countBits (countSteps s c 1) c n
      | .soft n => markSb (countBits (countSteps s c 2) c n) c key
      | .rebuilt => markMember (markSb (modMHealth (deep s) c (fun h => { h with rebuilt := h.rebuilt + 1 })) c key) c key member 2
      | .lost =>
        let s := modMHealth (deep s) c (fun h => { h with unrecovered := h.unrecovered + 1 })
        let s := modFlash s c (fun f => { f with lostPuas := if f.lostPuas.contains e.pua.toNat then f.lostPuas else f.lostPuas ++ [e.pua.toNat] })
        raiseC (markMember (markSb s c key) c key member 2) c 0x0504 sevErr (natLe unit 4))

/-! ## Collection and erase (R285 to R288) -/

/-- Whether a stripe block may be the next victim: closed, all its stripes programmed, and not collected already. -/
def isVictim (m : Marl) (key : Nat) : Bool :=
  (sbAt m key).state == .closed && !m.due.contains key && !m.buffer.any (fun u => puaSb u.pua == key)

/-- Closed stripe blocks that may be the victim. -/
def closedSbs (m : Marl) : List Nat := (m.table.sbs.filter (fun e => e.2.state == .closed && isVictim m e.1)).map (fun e => e.1)

/-- The best of a list by a measure, the first on ties. -/
def bestBy (f : Nat → Nat × Nat) : List Nat → Option Nat
  | [] => none
  | x :: xs =>
    match bestBy f xs with
    | none => some x
    | some y => if (f y).1 < (f x).1 ∨ ((f y).1 = (f x).1 ∧ (f y).2 < (f x).2) then some y else some x

/-- The next victim (R287). A marked free stripe block of a group with a failed die has nothing to move (R284). -/
def victim (m : Marl) : Option Nat :=
  match m.marked.find? (fun k => isVictim m k || ((sbAt m k).state == .free && !m.due.contains k)) with
  | some k => some k
  | none =>
    let ks := closedSbs m
    let es := ks.map (fun k => (sbAt m k).erases)
    if 512 < es.foldl max 0 - es.foldl min (es.headD 0) then bestBy (fun k => ((sbAt m k).erases, 0)) ks
    else bestBy (fun k => ((validUnits m k).length, (sbAt m k).erases)) ks

/-- Whether a unit has a collection copy in the buffer. -/
def copyInFlight (m : Marl) (lu : Nat) (pua : BitVec 33) : Bool := m.buffer.any (fun u => u.page.gc && u.page.lu == lu && u.page.prev == pua)

/-- Copies one valid unit into the collection stream; none while it must wait. A unit that cannot be read is copied as zeros with every
live slot LOST. -/
def copyUnit (s : State) (c : Ch) (lu : Nat) (e : MapEntry) : Option State :=
  let m := s.marl c
  if copyInFlight m lu e.pua then some s
  else if acceptWaits m true then none
  else match takePage s c 3 with
    | none => none
    | some (p, t) =>
      let gone := m.flash.lostPuas.contains e.pua.toNat
      let old := smGet? m.flash.pages e.pua.toNat
      let (data, lost) := match old with
        | some q => if gone then ([], e.slots) else (q.data, q.lost)
        | none => ([], e.slots)
      let kind := match old with
        | some q => q.kind
        | none => 0
      let pg : FlashPage := { kind, stream := 3, gc := true, owner := e.owner, slots := e.slots, lu, wseq := m.flash.wseq, prev := e.pua, lost, xor := 0, data }
      some (bufPush (modMHealth t c (fun h => { h with unitsGc := h.unitsGc + 1 })) c p pg)

/-- Copies valid units out, as far as the buffer takes them; whether all are copied. -/
def copyUnits (c : Ch) : List (Nat × MapEntry) → State → Bool × State
  | [], s => (true, s)
  | (lu, e) :: rest, s =>
    match copyUnit s c lu e with
    | none => (false, s)
    | some t => copyUnits c rest t

/-- COLLECTION (R285, R287): the next victim's valid units are copied out. -/
def execCollection (c : Ch) (s : State) : Host.Outcome State Fault Refusal :=
  .next (if !marlRuns s c ∨ !(gcRun s c || gcUrgent s c) then s
    else match victim (s.marl c) with
      | none => s
      | some k =>
        let x := copyUnits c (validUnits (s.marl c) k) s
        if x.1 then modMarl x.2 c (fun m => { m with due := m.due ++ [k] }) else x.2)

/-- Whether a collected stripe block may be erased (R288): nothing valid left in it, no read in flight in it, and every record that made a page of it
invalid durable. -/
def eraseReady (m : Marl) (key : Nat) : Bool :=
  m.due.contains key && (validUnits m key).isEmpty && (sbAt m key).reads == 0 && decide ((sbAt m key).inval < durableJseq m)

/-- STRIPE_BLOCK_ERASE (R288): the erase is issued; in a group with a failed die the stripe block is retired instead (R284). -/
def execStripeBlockErase (c : Ch) (group sb : Nat) (s : State) : Host.Outcome State Fault Refusal :=
  let key := sbKey group sb
  .next (if !marlRuns s c ∨ 16384 ≤ sb ∨ !eraseReady (s.marl c) key ∨ (sbAt (s.marl c) key).erasing then s
    else if groupOk (s.marl c) group then modSb s c key (fun b => { b with erasing := true })
    else
      let bad := ((s.marl c).table.failed.filter (fun d => d / 16 == group)).map (fun d => d % 16)
      marlTasks (withCap s c (fun s => retireSb (bad.foldl (fun t m => blockRetired t c key m 3) s) c key bad)) c)

/-- ERASE_COMPLETE (R288, R282): the ERASE record is appended, blocks marked for retirement are replaced, and the stripe block is free. -/
def execEraseComplete (c : Ch) (group sb : Nat) (s : State) : Host.Outcome State Fault Refusal :=
  let key := sbKey group sb
  .next (if !isUp s c ∨ 16384 ≤ sb ∨ !(sbAt (s.marl c) key).erasing then s
    else
      let b := sbAt (s.marl c) key
      let s := modMarl s c (fun m => { m with
        marked := m.marked.filter (fun k => k != key), due := m.due.filter (fun k => k != key), work := m.work + 16
        flash := { m.flash with pages := m.flash.pages.filter (fun p => puaSb (BitVec.ofNat 33 p.1) != key),
                                lostPuas := m.flash.lostPuas.filter (fun p => puaSb (BitVec.ofNat 33 p) != key) } })
      let s := jAppend s c (.erase group sb (b.erases + 1))
      let s := modSb s c key (fun _ => { SbInfo.fresh with erases := b.erases + 1 })
      placeWaiting (marlTasks (withCap s c (fun s => retireMembers s c key b.retire)) c) c)

/-! ## The journal, checkpoints and anchors (R289 to R291) -/

/-- The images whose IMAGE records are durable take effect (R273): the image supersedes the earlier one, its units are sealed, units that it
no longer names are unsealed and released, and the earlier image's units of the metadata store are free; the `Persist` retires (R258), with its event (R296). -/
def imagesDurable (s : State) (c : Ch) : State :=
  (s.marl c).pendImgs.foldl (fun t p =>
    match p.jseq with
    | none => t
    | some j =>
      if durableJseq (t.marl c) ≤ j then t
      else
        let x : Image := { p.image with jseq := j, stamp := nextStamp t }
        let old := imageOf (t.marl c) x.kind x.obj
        let t := modMarl t c (fun m => { m with
          pendImgs := m.pendImgs.filter (fun q => q != p), images := m.images.filter (fun y => !(y.kind == x.kind && y.obj == x.obj)) ++ [x]
          flash := { m.flash with store := storeImage m.flash.store x } })
        let t := x.units.foldl (fun t u => setMap t c u { mapAt t c u with sealed := true }) t
        let t := match old with
          | some y => mediaCheck (freeMeta (unsealRelease t c (y.units.filter (fun u => !x.units.contains u))) c (y.first, imageUnits y)) c
          | none => t
        match ringOf p.ring with
        | none => t
        | some r => match (t.ring c r).wait with
          | .persist cpl tag n => retire (evictEvent (setWait t c r .resumed) c 0x15 tag n) c r cpl
          | _ => t) s

/-- The journal stripe block that takes the next page is opened with its first page: erased first where it holds the journal's last turn, and replaced by a
free stripe block of a group with no failed die where its own has one (R284, R289, R290). A supply warning holds this (R292): a page that the
flush programs meanwhile lies where it would have gone, and its stripe block is opened after the hold (DESIGN CHOICE, log 174). -/
def openJournal (s : State) (c : Ch) : State :=
  let m := s.marl c
  let n := jPagesPerSb m
  if m.hold ∨ m.flash.jcount < m.flash.jopened * n then s
  else
    let i := m.flash.jopened % 16
    let key := m.flash.jsbs.getD i 0
    let g := key / 16384
    let fresh := if groupOk m g then none else ((List.range (groups m)).filter (groupOk m)).findSome? (bestFree m)
    let s := match fresh with
      | some k =>
        let bad := (m.table.failed.filter (fun d => d / 16 == g)).map (fun d => d % 16)
        let s := withCap s c (fun s => retireSb (bad.foldl (fun t m => blockRetired t c key m 3) s) c key bad)
        modFlash (modSb s c k (fun b => { b with state := .journal })) c (fun f => { f with jsbs := f.jsbs.set i k })
      | none =>
        if m.flash.jopened < 16 then s
        else
          let e := (sbAt m key).erases + 1
          jAppend (modMarl (modSb s c key (fun b => { b with erases := e })) c (fun m => { m with work := m.work + 16 })) c (.erase g (key % 16384) e)
    let k := fresh.getD key
    modFlash (jAppend s c (.sbOpen (k / 16384) (k % 16384) 4 (s.marl c).flash.wseq)) c (fun f => { f with jopened := f.jopened + 1 })

/-- Both copies of the oldest journal page have been programmed: its records are durable, and descriptors whose appends waited for a buffer go on. -/
def pageDurable (s : State) (c : Ch) : State :=
  let s := marlTasks (imagesDurable (openJournal (modMarl s c (fun m => landJournal m jPageRecords)) c) c) c
  allRings.foldl (fun t r => logRing t c r) s

/-- JOURNAL_PAGE_PROGRAMMED (R289): Marl programs a page when it is full, or when a waiter needs a record of it; a supply warning holds programs not yet
issued (R292). -/
def execJournalPageProgrammed (c : Ch) (s : State) : Host.Outcome State Fault Refusal :=
  let m := s.marl c
  .next (if !marlRuns s c ∨ m.jbuf.isEmpty ∨ !(decide (jPageRecords ≤ m.jbuf.length) || jWaiter s c) then s else pageDurable s c)

/-- Whether the journal from the replay point on spans 12 of its 16 stripe blocks. -/
def journalLong (m : Marl) : Bool :=
  decide (m.flash.anchor.jpage < m.flash.jcount ∧ m.flash.anchor.jpage / jPagesPerSb m + 12 ≤ (m.flash.jcount - 1) / jPagesPerSb m + 1)

/-- CHECKPOINT (R291). -/
def execCheckpoint (c : Ch) (s : State) : Host.Outcome State Fault Refusal :=
  .next (if marlRuns s c && journalLong (s.marl c) then beginCkpt s c else s)

/-- An anchor page more in an anchor block of `pages` pages, which is erased and rewritten when it is full. -/
def anchorPage (pages fill erases : Nat) : Nat × Nat := if fill < pages then (fill + 1, erases) else (1, erases + 1)

/-- The next anchor, for a checkpoint whose CKPT record gives the directory `dir` and the replay point `j`. -/
def nextAnchor (m : Marl) (dir : BitVec 33) (j : Nat) : Anchor :=
  let a := m.flash.anchor
  let x := anchorPage (max 1 m.pagesPerBlock) a.fill.1 a.erases.1
  let y := anchorPage (max 1 m.pagesPerBlock) a.fill.2 a.erases.2
  { a with
    seq := a.seq + 1, dirPua := dir, replay := j, fill := (x.1, y.1), erases := (x.2, y.2)
    jpage := ((m.flash.journal.find? (fun p => decide (p.first ≤ j ∧ j < p.first + p.recs.length))).map (fun p => p.seq)).getD a.jpage }

/-- The directory of a durable CKPT record with a given replay point. -/
def ckptDir (m : Marl) (j : Nat) : BitVec 33 :=
  ((m.flash.journal.flatMap (fun p => p.recs)).findSome? (fun r => match r with
    | .ckpt d _ x => if x = j then some d else none
    | _ => none)).getD m.flash.anchor.dirPua

/-- Whether a recovery may find an image: it is of the checkpoint, or an IMAGE record of the journal names it. -/
def imageReached (f : MarlFlash) (recs : List JRec) (x : Image) : Bool :=
  f.snap.images.contains x || recs.any (fun r => match r with
    | .image kind obj first _ _ => x.kind == kind && x.obj == obj && x.first == first
    | _ => false)

/-- ANCHOR_WRITE (R291 step 5): CKPT is durable and the anchor is programmed on both anchor blocks, so recovery starts there, and what lies before the
replay point is free, with the segments of the older generation. -/
def execAnchorWrite (c : Ch) (s : State) : Host.Outcome State Fault Refusal :=
  let m := s.marl c
  .next (if !marlRuns s c ∨ m.ckptStep = 0 ∨ durableJseq m ≤ m.ckptStep then s
    else
      let a := nextAnchor m (ckptDir m m.ckptJseq) m.ckptJseq
      let journal := m.flash.journal.filter (fun p => decide (a.replay < p.first + p.recs.length))
      let f := { m.flash with anchor := a, snap := m.ckpt, journal }
      let recs := journal.flatMap (fun p => p.recs) ++ m.jbuf
      let erased := (a.erases.1 - m.flash.anchor.erases.1) + (a.erases.2 - m.flash.anchor.erases.2)
      let named := m.ckpt.dirAt ++ m.ckpt.dir.map (fun e => e.2)
      marlTasks (modMarl s c (fun m => { m with
        ckptStep := 0, ckpt := .empty, work := m.work + 2 + erased
        flash := { f with store := f.store.filter (imageReached f recs), segs := f.segs.filter (fun e => named.any (fun a => a.toNat == e.1)) } })) c)

/-- TEMPERATURE_SAMPLE (R302): one after every 2^16 programs or erases, another after every 2^20 unit reads. -/
def execTemperatureSample (c : Ch) (celsius : Int) (s : State) : Host.Outcome State Fault Refusal :=
  let i := (min 63 (max 0 ((celsius + 20) / 2))).toNat
  let m := s.marl c
  .next (if !isUp s c ∨ (m.work < 2 ^ 16 ∧ m.reads < 2 ^ 20) then s
    else
      let s := modMarl s c (fun m => if 2 ^ 16 ≤ m.work then { m with work := m.work - 2 ^ 16 } else { m with reads := m.reads - 2 ^ 20 })
      modMHealth s c (fun h =>
        let first := h.tempHist.toList.all (fun n => n == 0)
        { h with tempMax := if first then celsius else max h.tempMax celsius, tempMin := if first then celsius else min h.tempMin celsius,
                 tempHist := h.tempHist.set! i (h.tempHist[i]! + 1) }))

/-! ## Key destruction (R300) -/

/-- Every unit of an owner is unmapped, with OWNER_PURGE. -/
def purgeOwner (s : State) (c : Ch) (slot : Nat) : State :=
  let us := ((s.marl c).map.filter (fun e => e.2.owner.toNat == slot && (e.2.mapped || e.2.slots != 0))).map (fun e => e.1)
  mediaCheck (jAppend (us.foldl (fun t u => unmapUnit t c u false) s) c (.ownerPurge (BitVec.ofNat 12 slot))) c

/-! ## Format (R410, R267, R268) -/

/-- Whether a channel holds what refuses a format. -/
def mediaInUse (s : State) (c : Ch) : Bool :=
  decide (0 < seqLive s c) || decide (0 < pbLiveCount s c) || (s.marl c).map.any (fun e => e.2.region) ||
  (s.ch c).link.conns.any (fun e => e.2.state != .closed) ||
  s.island.regions.any (fun e => e.2.homeCh == c.val && (e.2.state == .live || e.2.state == .releasing))

/-- The records that a format carries over: slots (R55) and region indices homed here (R354). -/
def carriedRecords (s : State) (c : Ch) : List JRec :=
  ((s.ch c).obj.seqs.filter (fun e => e.2.gen != 0 || e.2.state == .retired)).map (fun e => .slot e.1 e.2.gen e.2.state) ++
  (s.island.regions.filter (fun e => e.2.homeCh == c.val && (e.2.gen != 0 || e.2.state == .retired))).map (fun e => .region e.1 e.2.gen e.2.lastEvent)

/-- CAP_FMT of a format with given settings. -/
def capOf (sbs spareRes op pages : Nat) : Nat := (sbs - 16 - spareRes) * opK op * pages

/-- The sixteen journal stripe blocks (log 28): the last of the stripe blocks in order, from the last group on, of groups with no failed die. -/
def journalSbs (m : Marl) (sbPerGrp : List Nat) : List Nat :=
  (((List.range (groups m)).filter (groupOk m)).flatMap (fun g => (List.range (sbPerGrp.getD g 0)).map (sbKey g))).reverse.take 16

/-- The journal pages that records fill (fuel: the records), from JSEQ 1 and JPSEQ 0 on. -/
def pagesOf : Nat → Nat → Nat → List JRec → List JPage
  | 0, _, _, _ => []
  | n + 1, seq, first, rs =>
    if rs.isEmpty then []
    else { seq, first, recs := rs.take jPageRecords } :: pagesOf n (seq + 1) (first + (rs.take jPageRecords).length) (rs.drop jPageRecords)

/-- The stripe-block table of a format (R267): blocks found bad in training or retired since are out. A stripe block that a former format has named keeps
its erase count, one more for the erase of the format (DESIGN CHOICE, log 175). -/
def formatTable (m : Marl) : SbTable × List Nat × (Nat × Nat) :=
  let bad := fun d => m.badFound.getD d [] ++ (m.table.retired.filter (fun r => r.1 == d)).map (fun r => r.2)
  let x := formAll m.blocks m.planes (16 * groups m) bad
  let members := x.1.zipIdx.foldl (fun y (sbs, g) => sbs.zipIdx.foldl (fun y (bs, i) => smPut y (sbKey g i) bs) y) []
  let spares := x.2.1.zipIdx.foldl (fun y (bs, d) => smPut y d (sortBy (fun a b => decide (a ≤ b)) bs)) []
  let n := x.1.map (fun g => g.length)
  let worn := m.table.sbs.foldl (fun y e => smSet SbInfo.fresh y e.1 { SbInfo.fresh with erases := e.2.erases + 1 }) []
  let sbs := (journalSbs m n).foldl (fun y k => smPut y k { smGet SbInfo.fresh y k with state := .journal }) worn
  ({ m.table with sbs, members, spares }, n, x.2.2)

/-- The format of a channel's flash. JSEQ starts at 1, with the records that the format carries over, the SLOT records first (R55); the record of
the journal's first stripe block follows them. The address of the empty directory is a free value (log 1). -/
def formatFlash (s : State) (c : Ch) : State :=
  let f := drawFree s
  let s := f.2
  let m := s.marl c
  let cfg := (s.ch c).cfg.marlCfg.toNat
  let op := fld cfg 31 30
  let res := fld cfg 29 20
  let x := formatTable m
  let cap := capOf x.2.1.sum res op m.pagesPerBlock
  let jsbs := journalSbs m x.2.1
  let recs := carriedRecords s c ++ [JRec.sbOpen (jsbs.headD 0 / 16384) (jsbs.headD 0 % 16384) 4 m.flash.wseq]
  let journal := pagesOf recs.length 0 1 recs
  let slots := ((s.ch c).obj.seqs.filter (fun e => e.2.gen != 0 || e.2.state == .retired)).foldl (fun x e => smPut x e.1 (e.2.gen, e.2.state)) []
  let a := m.flash.anchor
  let dir : BitVec 33 := f.1.setWidth 33
  let fl : MarlFlash :=
    { formatted := true, opFmt := BitVec.ofNat 2 op, spareRes := res, sbPerGrp := x.2.1, capFmt := cap
      anchor := { seq := a.seq + 1, dirPua := dir, replay := 1, jpage := 0, blocks := x.2.2, fill := (1, 1)
                  erases := if a.seq = 0 then (0, 0) else (a.erases.1 + 1, a.erases.2 + 1) }
      snap := { Snap.empty with table := x.1, capCeil := cap, dirAt := [dir] }
      jsbs, journal, jnext := recs.length + 1, jcount := journal.length
      jopened := max 1 (ceilDiv journal.length (jPagesPerSb m)), pages := []
      segs := [(dir.toNat, segPage 0 (dirBytes [] (ceilDiv cap segEntries) 0))], lostPuas := [], store := [], wseq := m.flash.wseq }
  modMarl s c (fun m => { m with
    map := [], opens := [], nextGroup := Vector.replicate 4 0, buffer := [], jbuf := [], marked := [], ckptStep := 0
    capCeil := cap, readonly := false, slots, table := x.1, images := [], frozen := [], frozenAt := [], due := [], pendImgs := [], flash := fl })

/-- A format begins: FORMATTED falls, and the erase ends all that the channel's media held (R410). What the format leaves is built at its end. -/
def formatBegin (s : State) (c : Ch) : State :=
  modMarl s c (fun m => { m with
    map := [], opens := [], buffer := [], jbuf := [], marked := [], ckptStep := 0, images := [], frozen := [], frozenAt := [], due := [], pendImgs := []
    flash := { m.flash with formatted := false, pages := [], journal := [], store := [] } })

/-- MEDIA_FORMAT (R410). -/
def runMediaFormat (mb : Mbox) (inp : List Byte) (s : State) : State :=
  mbRun s mb 0xC040 false true (inp.length == 1) (fun s => mbOnCh s mb 0xC040 (bnum inp 0 1) (fun c =>
    if !isUp s c then mbSt s mb 0xC040 .channelDown
    else if (s.marl c).dies < 16 then mbSt s mb 0xC040 .mediaAbsent
    else if mediaInUse s c then mbSt s mb 0xC040 .mediaInUse
    else formatBegin (mbStart s mb 0xC040 (.mediaFormat c.val)) c))

/-- MEDIA_FORMAT (R410). -/
def execMediaFormat (mb : Mbox) (inp : List Byte) (s : State) : Host.Outcome State Fault Refusal :=
  .next (mbEnter s mb 0xC040 (.mediaFormat mb inp) (runMediaFormat mb inp))

/-- MEDIA_FLUSH (R410): open stripes are padded at once (R279). -/
def runMediaFlush (mb : Mbox) (inp : List Byte) (s : State) : State :=
  mbRun s mb 0xC041 false true (inp.length == 2) (fun s => mbOnCh s mb 0xC041 (bnum inp 0 1) (fun c =>
    if 1 < bnum inp 1 1 then mbSt s mb 0xC041 .badField
    else if !isUp s c then mbSt s mb 0xC041 .channelDown
    else if !hasT2 (s.marl c) then mbSt s mb 0xC041 .mediaAbsent
    else
      let s := padOpens (mbStart s mb 0xC041 (.mediaFlush c.val (bnum inp 1 1 == 1) 0 (s.marl c).flash.wseq 0)) c (fun _ => true)
      marlTasks s c))

/-- MEDIA_FLUSH (R410). -/
def execMediaFlush (mb : Mbox) (inp : List Byte) (s : State) : Host.Outcome State Fault Refusal :=
  .next (mbEnter s mb 0xC041 (.mediaFlush mb inp) (runMediaFlush mb inp))

/-! ## Discard (R298, R299) -/

/-- The refusals of a discard of a run of units. -/
def discardBad (s : State) (c : Ch) (first count : Nat) : Option St :=
  let m := s.marl c
  if !isUp s c then some .channelDown
  else if !hasT2 m then some .mediaAbsent
  else if 0 < count ∧ luExport m < first + count then some .outOfRange
  else if m.map.any (fun e => e.2.sealed && decide (first ≤ e.1 ∧ e.1 < first + count)) then some .locBusy
  else none

/-- Units of a run that the map lists. -/
def unitsIn (m : Marl) (first count : Nat) : List Nat := (m.map.filter (fun e => decide (first ≤ e.1 ∧ e.1 < first + count))).map (fun e => e.1)

/-- MEDIA_DISCARD (R298). -/
def runMediaDiscard (mb : Mbox) (inp : List Byte) (s : State) : State :=
  mbRun s mb 0xC042 false true (inp.length == 9) (fun s => mbOnCh s mb 0xC042 (bnum inp 0 1) (fun c =>
    match discardBad s c (bnum inp 1 4) (bnum inp 5 4) with
    | some e => mbSt s mb 0xC042 e
    | none => (unitsIn (s.marl c) (bnum inp 1 4) (bnum inp 5 4)).foldl (fun t u => clearSlots t c u 0xFF false) (mbStart s mb 0xC042 (.mediaDiscard c.val))))

/-- MEDIA_DISCARD (R298). -/
def execMediaDiscard (mb : Mbox) (inp : List Byte) (s : State) : Host.Outcome State Fault Refusal :=
  .next (mbEnter s mb 0xC042 (.mediaDiscard mb inp) (runMediaDiscard mb inp))

/-- MEDIA_SECURE_DISCARD (R299). -/
def runMediaSecureDiscard (mb : Mbox) (inp : List Byte) (s : State) : State :=
  mbRun s mb 0xC043 false true (inp.length == 9) (fun s => mbOnCh s mb 0xC043 (bnum inp 0 1) (fun c =>
    match discardBad s c (bnum inp 1 4) (bnum inp 5 4) with
    | some e => mbSt s mb 0xC043 e
    | none =>
      let f := bnum inp 1 4
      let n := bnum inp 5 4
      let us := unitsIn (s.marl c) f n
      let inFlash := (s.marl c).flash.pages.filter (fun p => (p.2.kind == 0 || p.2.kind == 5) && decide (f ≤ p.2.lu ∧ p.2.lu < f + n))
      let owners := dedup (us.map (fun u => (mapAt s c u).owner.toNat) ++ inFlash.map (fun p => p.2.owner.toNat))
      let s := mbStart s mb 0xC043 (.secureDiscard c.val f n owners none)
      let s := us.foldl (fun t u => clearSlots t c u 0xFF true) s
      marlTasks (padOpens s c (fun u => decide (f ≤ u.page.lu ∧ u.page.lu < f + n))) c))

/-- MEDIA_SECURE_DISCARD (R299). -/
def execMediaSecureDiscard (mb : Mbox) (inp : List Byte) (s : State) : Host.Outcome State Fault Refusal :=
  .next (mbEnter s mb 0xC043 (.mediaSecureDiscard mb inp) (runMediaSecureDiscard mb inp))

end Sys2Proof.Machine
end

