-- ==== Sys2Proof/Machine/RegionCmds.lean ====
section
/-! DEFINITION. The shared regions' mailbox commands, revocation and the release of grants (R327, R346 to R361). -/

namespace Sys2Proof.Machine
open Sys2Proof

/-- The identity of an index (R77). -/
def regionId (s : State) (idx : Nat) : Nat := (regionAt s idx).gen.toNat * 65536 + idx

/-- Registrations of a region that are valid. -/
def regsValid (g : Region) : Nat := (g.regs.filter (fun e => e.2.valid)).length

/-- The lowest index of REG that is not valid. -/
def freeReg (g : Region) : Nat := lowestFree (g.regs.filter (fun e => e.2.valid)) 0

/-- A registration is written at the lowest free index. -/
def addReg (s : State) (idx kind unit conn rights : Nat) : Nat × State :=
  let g := regionAt s idx
  let i := freeReg g
  let x : Reg := { valid := true, revoked := false, kind := BitVec.ofNat 2 kind, rights := BitVec.ofNat 4 rights, unit := BitVec.ofNat 4 unit,
                   conn := BitVec.ofNat 16 conn, regEp := g.epoch, revEp := 0 }
  (i, modRegion s idx (fun g => { g with regs := smPut g.regs i x }))

/-- The valid registration's index. -/
def regIndex (g : Region) (kind unit conn : Nat) : Option Nat :=
  (g.regs.find? (fun e => e.2.valid && e.2.kind == BitVec.ofNat 2 kind && e.2.unit == BitVec.ofNat 4 unit && e.2.conn == BitVec.ofNat 16 conn)).map (fun e => e.1)

/-! ## Releases of grants (R327) -/

/-- Lines of a grant that its logical device still holds. -/
def grantHeld (s : State) (g : Grant) : List Nat :=
  match chOf g.ch with
  | none => []
  | some c => ((s.ch c).holders.filter (fun h => h.lds.contains g.ld && decide (g.t1 ≤ 64 * h.line ∧ 64 * h.line < g.t1 + g.len))).map (fun h => h.line)

/-- Whether the registration of a leaving grant is still being revoked. -/
def grantRevoking (s : State) (g : Grant) : Bool :=
  let x := regionAt s (regIdx g.region.toNat)
  x.revokes.any (fun r => r.regs.any (fun i => match smGet? x.regs i with
    | some q => q.kind == 0 && q.unit == BitVec.ofNat 4 g.ld
    | none => false))

/-- BISnpInv goes to a logical device for lines that it holds, each behind the requests that came before (R327, R329). -/
def snoopLd (s : State) (c : Ch) (l : Nat) (lines : List Nat) : State :=
  lines.foldl (fun t x => if devAt t (.grant l) c x then t else serveLine (joinLine t c x (.dev (.grant l) true)) c x) s

/-- The release of one grant goes on: the drain, then the snoops of HDM-DB partitions, then the extent is unmapped and the release
confirmed. -/
def grantStep (s : State) (g : Grant) : State :=
  if !g.leaving ∨ grantRevoking s g then s
  else
    let held := if 2 ≤ g.part then grantHeld s g else []
    match held, chOf g.ch with
    | x :: xs, some c => snoopLd s c g.ld (x :: xs)
    | _, _ =>
      let s := modIsland s (fun i => { i with grants := i.grants.filter (fun y => y != g) })
      if s.island.grants.any (fun y => y.leaving && y.by_ == g.by_) then s
      else if h : g.by_ < 33 then mbReply s ⟨g.by_, h⟩ (if g.by_ = 32 then 0x5605 else 0x4803) .done
      else s

/-- Every leaving grant goes on. -/
def grantsStep (s : State) : State := (s.island.grants.filter (fun g => g.leaving)).foldl grantStep s

/-! ## Release of a region (R353) -/

/-- A unit of a released region's run. -/
def freeRunUnit (s : State) (c : Ch) (lu : Nat) : State :=
  let s := clearSlots s c lu 0xFF false
  release (setMap s c lu { mapAt s c lu with region := false, owner := 0 }) c 2 3 (BitVec.ofNat 45 lu)

/-- Steps 3 and 4 of R353. -/
def releaseUnits (s : State) (idx : Nat) : State :=
  let g := regionAt s idx
  let s := forCh s allCh (fun t c => freeImage t c 2 (BitVec.ofNat 48 (regionId s idx)))
  let s := g.runs.foldl (fun t x => match chOf x.ch with
    | some c => (List.range (x.len / 16384)).foldl (fun u i => freeRunUnit u c (x.lu + i)) t
    | none => t) s
  modRegion s idx (fun g => { g with freed := true })

/-- Steps 5 and 6 of R353, and the commands that wait for them. -/
def releaseEnds (s : State) (idx : Nat) : State :=
  let g := regionAt s idx
  let id := regionId s idx
  let last := g.gen == 0xFFFF
  let ev := if last then 2 else 1
  let s := match chOf g.homeCh with
    | some c => freeNodes s c (fun k => k == .region idx)
    | none => s
  let s := modRegion s idx (fun g =>
    { g with state := if last then .retired else .free, gen := if last then g.gen else g.gen + 1, node := 0, version := 0, root := 0, epoch := 0,
             drain0 := 0, drain1 := 0, runs := [], regs := [], revokes := [], releasing := false, freed := false, lastEvent := ev })
  let s := match chOf g.homeCh with
    | some c => jAppend s c (.region idx (regionAt s idx).gen ev)
    | none => s
  let s := raiseD s 0x0601 sevInfo (natLe id 4 ++ natLe (b2n last) 1)
  forTasks s (fun t mb x => match x with
    | .release i => if i = idx then mbDone t mb .ok [] else t
    | _ => t)

/-- The channels of a region's runs whose release logs are full. -/
def fullLogs (s : State) (g : Region) : List Ch := (g.runs.filterMap (fun x => chOf x.ch)).filter (fun c => logFull s c)

/-- Steps 3 to 6 of R353. While a log is full, the release waits at step 4 (R237). -/
def finishRelease (s : State) (idx : Nat) : State :=
  let s := if (regionAt s idx).freed then s else releaseUnits s idx
  match fullLogs s (regionAt s idx) with
  | [] => releaseEnds s idx
  | cs => forCh s cs noteFull

/-- The releases of regions that waited for room in a release log go on. -/
def releasesStep (s : State) : State :=
  (s.island.regions.filter (fun e => e.2.releasing && e.2.freed)).foldl (fun t e => finishRelease t e.1) s

/-! ## Revocation (R359, R361) -/

/-- The revocation point of a revocation. -/
def revokePoint (g : Region) (r : Revoke) : Region :=
  { g with
    regs := g.regs.map (fun e => if r.regs.contains e.1 then (e.1, { e.2 with revoked := true, revEp := g.epoch }) else e)
    epoch := g.epoch + 1
    revokes := { r with point := true } :: g.revokes.drop 1 }

/-- Whether a logical device holds a grant of a region that is not being released. -/
def holdsGrant (s : State) (id l : Nat) : Bool := s.island.grants.any (fun x => x.live && !x.leaving && x.ld == l && x.region == BitVec.ofNat 32 id)

/-- The end of a revocation: its registrations are valid no more, new ones come where a grant remains, and those that wait go on. -/
def revokeEnds (s : State) (idx : Nat) (r : Revoke) : State :=
  let id := regionId s idx
  let s := modRegion s idx (fun g => { g with
    regs := g.regs.map (fun e => if r.regs.contains e.1 then (e.1, { e.2 with valid := false }) else e), revokes := g.revokes.drop 1 })
  let s := r.regs.foldl (fun t i => raiseD t 0x0602 sevInfo (natLe id 4 ++ natLe i 1)) s
  let s := r.again.foldl (fun t x => if holdsGrant t id x.1 then (addReg t idx 0 x.1 0 x.2.toNat).2 else t) s
  let s := forTasks s (fun t mb x => match x with
    | .revoke i k => if i = idx ∧ r.regs.contains k then mbDone t mb .ok [] else t
    | _ => t)
  grantsStep s

/-- The oldest revocation of a region goes on as far as its drains allow; `n` bounds its stages. -/
def revokeStep : Nat → State → Nat → State
  | 0, s, _ => s
  | n + 1, s, idx =>
    let g := regionAt s idx
    match g.revokes with
    | [] => if g.releasing then finishRelease s idx else s
    | r :: _ =>
      if drainOf g ((g.epoch.toNat + 1) % 2) ≠ 0 then s
      else if !r.point then revokeStep n (modRegion s idx (fun g => revokePoint g r)) idx
      else revokeStep n (revokeEnds s idx r) idx

/-- A revocation starts, or waits for those before it. -/
def startRevoke (s : State) (idx : Nat) (regs : List Nat) (again : List (Nat × BitVec 4)) : State :=
  let s := modRegion s idx (fun g => { g with revokes := g.revokes ++ [{ regs, point := false, again }] })
  revokeStep (2 * (regionAt s idx).revokes.length + 1) s idx

/-- REVOCATION_DRAIN_END (R359): the drain count of the old epoch has reached 0. -/
def execRevocationDrainEnd (idx : Nat) (s : State) : Host.Outcome State Fault Refusal :=
  .next (if (regionAt s idx).revokes.isEmpty then s else revokeStep (2 * (regionAt s idx).revokes.length + 1) s idx)

/-! ## Commands -/

/-- A region command of the fabric manager, after its framing. -/
def mbFmOnly (s : State) (mb : Mbox) (op : Nat) (k : State) : State := if mbFm s mb then k else mbSt s mb op .accessDenied

/-- A command on an identity that passes R348. -/
def mbOnRegion (s : State) (mb : Mbox) (op id : Nat) (k : Nat → State) : State :=
  match regionCheck s id with
  | some e => mbSt s mb op e
  | none => k (regIdx id)

/-- REGION_CREATE (R349). -/
def runRegionCreate (mb : Mbox) (inp : List Byte) (s : State) : State :=
  mbRun s mb 0xC050 false false (inp.length == 5) (fun s => mbFmOnly s mb 0xC050 (
    let idx := bnum inp 0 2
    let owner := bnum inp 3 2
    let g := regionAt s idx
    match chOf (bnum inp 2 1) with
    | none => mbSt s mb 0xC050 .badField
    | some c =>
      if 4096 ≤ owner then mbSt s mb 0xC050 .badField
      else if g.state = .retired then mbSt s mb 0xC050 .regionRetired
      else if g.state ≠ .free then mbSt s mb 0xC050 .slotBusy
      else if !isUp s c then mbSt s mb 0xC050 .channelDown
      else if !hasT2 (s.marl c) then mbSt s mb 0xC050 .mediaAbsent
      else match allocNodes s c [.region idx] with
        | none => mbSt s mb 0xC050 .nodesFull
        | some s =>
          let s := modRegion s idx (fun g => { Region.free with state := .live, gen := g.gen, homeCh := c.val, owner := BitVec.ofNat 12 owner,
                                                                   node := BitVec.ofNat 24 (nodeOf s c (.region idx)), lastEvent := 0 })
          let s := jAppend s c (.region idx (regionAt s idx).gen 0)
          mbOut s mb 0xC050 .ok (natLe (regionId s idx) 4)))

/-- REGION_CREATE (R349). -/
def execRegionCreate (mb : Mbox) (inp : List Byte) (s : State) : Host.Outcome State Fault Refusal :=
  .next (mbEnter s mb 0xC050 (.regionCreate mb inp) (runRegionCreate mb inp))

/-- Whether a T1 range (2 MiB units) meets a valid run of any region. -/
def meetsRun (s : State) (c base len : Nat) : Bool :=
  s.island.regions.any (fun e => e.2.runs.any (fun x => x.ch == c && decide (x.t1Base < 0x200000 * (base + len) ∧ 0x200000 * base < x.t1Base + x.len)))

/-- The checks of R350. -/
def homeBad (s : State) (idx : Nat) (c : Ch) (base len lu : Nat) : Option St :=
  let us := ((s.marl c).map.filter (fun e => decide (lu ≤ e.1 ∧ e.1 < lu + 128 * len)))
  if len = 0 ∨ (s.ch c).obj.poolBase.toNat < base + len ∨ meetsRun s c.val base len ∨ 64 ≤ (regionAt s idx).runs.length then some .badField
  else if !isPooled s c then some .modeDenied
  else if luExport (s.marl c) < lu + 128 * len then some .outOfRange
  else if us.any (fun e => e.2.slots != 0 || e.2.sealed) then some .locBusy
  else none

/-- REGION_SET_HOME (R350). -/
def runRegionSetHome (mb : Mbox) (inp : List Byte) (s : State) : State :=
  mbRun s mb 0xC051 false false (inp.length == 13) (fun s => mbFmOnly s mb 0xC051 (mbOnRegion s mb 0xC051 (bnum inp 0 4) (fun idx =>
    let base := bnum inp 5 2
    let len := bnum inp 7 2
    let lu := bnum inp 9 4
    match chOf (bnum inp 4 1) with
    | none => mbSt s mb 0xC051 .badField
    | some c =>
      if !isUp s c then mbSt s mb 0xC051 .channelDown
      else match homeBad s idx c base len lu with
        | some e => mbSt s mb 0xC051 e
        | none =>
          let s := modRegion s idx (fun g => { g with runs := g.runs ++ [{ ch := c.val, t1Base := 0x200000 * base, len := 0x200000 * len, lu }] })
          let owner := (regionAt s idx).owner
          let s := (List.range (128 * len)).foldl (fun t i => setMap t c (lu + i) { mapAt t c (lu + i) with region := true, owner }) s
          mbSt s mb 0xC051 .ok)))

/-- REGION_SET_HOME (R350). -/
def execRegionSetHome (mb : Mbox) (inp : List Byte) (s : State) : Host.Outcome State Fault Refusal :=
  .next (mbEnter s mb 0xC051 (.regionSetHome mb inp) (runRegionSetHome mb inp))

/-- Whether the fields of a registration are in their encodings. -/
def regFieldsOk (kind unit conn rights : Nat) : Bool :=
  decide (kind < 3 ∧ rights < 16 ∧ unit < (if kind = 0 then 16 else 12) ∧ (kind = 1 ∨ conn = 0))

/-- REGION_REGISTER (R352). -/
def runRegionRegister (mb : Mbox) (inp : List Byte) (s : State) : State :=
  mbRun s mb 0xC052 false false (inp.length == 9) (fun s => mbFmOnly s mb 0xC052 (mbOnRegion s mb 0xC052 (bnum inp 0 4) (fun idx =>
    let kind := bnum inp 4 1
    let unit := bnum inp 5 1
    let conn := bnum inp 6 2
    let rights := bnum inp 8 1
    let g := regionAt s idx
    if !regFieldsOk kind unit conn rights then mbSt s mb 0xC052 .badField
    else match regIndex g kind unit conn with
      | some i =>
        if (smGet? g.regs i).any (fun x => x.revoked) then mbSt s mb 0xC052 .regionRevoked
        else
          let s := modRegion s idx (fun g => { g with regs := g.regs.map (fun e => if e.1 = i then (e.1, { e.2 with rights := BitVec.ofNat 4 rights }) else e) })
          mbOut s mb 0xC052 .ok (natLe i 1)
      | none =>
        if kind = 0 then mbSt s mb 0xC052 .badField
        else if 128 ≤ regsValid g then mbSt s mb 0xC052 .regsFull
        else
          let x := addReg s idx kind unit conn rights
          mbOut x.2 mb 0xC052 .ok (natLe x.1 1))))

/-- REGION_REGISTER (R352). -/
def execRegionRegister (mb : Mbox) (inp : List Byte) (s : State) : Host.Outcome State Fault Refusal :=
  .next (mbEnter s mb 0xC052 (.regionRegister mb inp) (runRegionRegister mb inp))

/-- REGION_REVOKE (R361). A registration that is being revoked already is waited for. -/
def runRegionRevoke (mb : Mbox) (inp : List Byte) (s : State) : State :=
  mbRun s mb 0xC053 false true (inp.length == 5) (fun s => mbFmOnly s mb 0xC053 (mbOnRegion s mb 0xC053 (bnum inp 0 4) (fun idx =>
    let i := bnum inp 4 1
    let g := regionAt s idx
    match (smGet? g.regs i).filter (fun x => x.valid) with
    | none => mbSt s mb 0xC053 .badField
    | some _ =>
      let s := mbStart s mb 0xC053 (.revoke idx i)
      if g.revokes.any (fun r => r.regs.contains i) then s else startRevoke s idx [i] [])))

/-- REGION_REVOKE (R361). -/
def execRegionRevoke (mb : Mbox) (inp : List Byte) (s : State) : Host.Outcome State Fault Refusal :=
  .next (mbEnter s mb 0xC053 (.regionRevoke mb inp) (runRegionRevoke mb inp))

/-- REGION_RELEASE (R353). -/
def runRegionRelease (mb : Mbox) (inp : List Byte) (s : State) : State :=
  mbRun s mb 0xC054 false true (inp.length == 4) (fun s => mbFmOnly s mb 0xC054 (mbOnRegion s mb 0xC054 (bnum inp 0 4) (fun idx =>
    if s.island.grants.any (fun g => g.live && g.region == BitVec.ofNat 32 (bnum inp 0 4)) then mbSt s mb 0xC054 .regionInUse
    else
      let s := mbStart s mb 0xC054 (.release idx)
      let s := modRegion s idx (fun g => { g with state := .releasing, releasing := true })
      let regs := ((regionAt s idx).regs.filter (fun e => e.2.valid && !(regionAt s idx).revokes.any (fun r => r.regs.contains e.1))).map (fun e => e.1)
      startRevoke s idx regs [])))

/-- REGION_RELEASE (R353). -/
def execRegionRelease (mb : Mbox) (inp : List Byte) (s : State) : Host.Outcome State Fault Refusal :=
  .next (mbEnter s mb 0xC054 (.regionRelease mb inp) (runRegionRelease mb inp))

/-- REGION_PUBLISH (R355): under the logical device's KIND 0 registration. The command is indivisible, so its count in DRAIN rises and falls
within it; at a saturated count it waits, and Kiln with it (R359, R406). -/
def runRegionPublish (mb : Mbox) (inp : List Byte) (s : State) : State :=
  mbRun s mb 0xC055 false false (inp.length == 20) (fun s =>
    match mbLd mb with
    | none => mbSt s mb 0xC055 .accessDenied
    | some l => mbOnRegion s mb 0xC055 (bnum inp 0 4) (fun idx =>
      match admitTest (regionAt s idx) 0 l.val 0 rightPublish with
      | .refuse e => mbSt s mb 0xC055 e
      | .wait _ => modIsland s (fun i => { i with waiting := (mb.val, .regionPublish mb inp) :: i.waiting })
      | .ok _ =>
        let x := publish s idx (BitVec.ofNat 64 (bnum inp 4 8)) (BitVec.ofNat 64 (bnum inp 12 8))
        let g := regionAt x.2.2.2 idx
        mbOut x.2.2.2 mb 0xC055 (if x.1 then .ok else .versionConflict) (natLe g.version.toNat 8 ++ natLe g.root.toNat 8)))

/-- REGION_PUBLISH (R355). -/
def execRegionPublish (mb : Mbox) (inp : List Byte) (s : State) : Host.Outcome State Fault Refusal :=
  .next (mbEnter s mb 0xC055 (.regionPublish mb inp) (runRegionPublish mb inp))

/-- STATE of a region directory entry (R346). -/
def regionStateCode : RegionState → Nat
  | .free => 0
  | .live => 1
  | .releasing => 2
  | .retired => 3

/-- A region directory entry (R346). -/
def regionEntry (g : Region) : Nat :=
  at_ 62 2 (regionStateCode g.state) + at_ 46 16 g.gen.toNat + at_ 42 4 g.homeCh + at_ 30 12 g.owner.toNat + g.node.toNat

/-- REGION_QUERY (R346). -/
def runRegionQuery (mb : Mbox) (inp : List Byte) (s : State) : State :=
  mbRun s mb 0xC056 false false (inp.length == 2) (fun s =>
    let g := regionAt s (bnum inp 0 2)
    mbOut s mb 0xC056 .ok (natLe (regionEntry g) 8 ++ natLe g.root.toNat 8 ++ natLe g.version.toNat 8))

/-- REGION_QUERY (R346). -/
def execRegionQuery (mb : Mbox) (inp : List Byte) (s : State) : Host.Outcome State Fault Refusal :=
  .next (mbEnter s mb 0xC056 (.regionQuery mb inp) (runRegionQuery mb inp))

end Sys2Proof.Machine
end

