-- ==== Sys2Proof/Machine/RingCmds.lean ====
section
/-! DEFINITION. `Nop`, the rings' and gates' registers and events, the release log, the pace meter and the rounding generator's
seed (R39, R40, R104, R138 to R152, R173, R174, R237). -/

namespace Sys2Proof.Machine
open Sys2Proof

/-! ## Register access to a channel block (R21, R313) -/

/-- BAR0 offset of a channel block's register (R312). -/
def chBar (c : Ch) (off : Nat) : Nat := 0x100000 + c.val * 0x20000 + off

/-- A host write to a channel: none arrives while CXL.io does not reach the device; without effect on an unassigned channel (R313), dropped with
an event on one that is not Ready or Degraded (R21). -/
def chanWrite (s : State) (l : Ld) (c : Ch) (off : Nat) (k : State → State) : State :=
  if !ioUp s l then s
  else if ldOfCh s c ≠ some l then accessErr s l aeUnassigned
  else if !isUp s c then raiseC s c 0x0201 sevWarn (natLe l.val 1 ++ natLe off 8)
  else k s

/-! ## Rings -/

/-- A byte range of T0. -/
abbrev Range := Nat × Nat

/-- Whether two ranges overlap. -/
def overlaps (a b : Range) : Bool := decide (0 < a.2 ∧ 0 < b.2 ∧ a.1 < b.1 + b.2 ∧ b.1 < a.1 + a.2)

/-- The areas of a ring (R139). -/
def ringAreas (g : RingState) : List Range :=
  [(g.base.toNat * 4096, 128 * ringSize g), (g.cplBase.toNat * 4096, 32 * ringSize g)]

/-- The areas of the enabled rings of a channel but one. -/
def otherAreas (s : State) (c : Ch) (r : Option Ring) : List Range :=
  (allRings.filter (fun q => some q != r && (s.ring c q).enable)).flatMap (fun q => ringAreas (s.ring c q))

/-- Whether two areas may be placed: within T0, apart from each other, from the engine private areas and from others (R139). -/
def areasOk (as others : List Range) : Bool :=
  as.all (fun a => inT0 a.1 a.2 && !touchesPriv a.1 a.2 && !others.any (overlaps a)) &&
  match as with
  | [a, b] => !overlaps a b
  | _ => true

/-- STOP (R173): a descriptor waiting on its header gate, on a presence gate or at admission ends aborted, and so does every
later one; one that executes runs to its retire first. One that ends at a presence gate reports the rows that it has written (R151). -/
def stopRing (s : State) (c : Ch) (r : Ring) : State :=
  let s := modRing s c r (fun g => { g with stop := true, draining := true })
  match (s.ring c r).wait with
  | .idle => abortRest s c r
  | .gate _ => abortRest s c r
  | .released => abortRest s c r
  | .useFull => abortRest s c r
  | .insertWait => abortRest s c r
  | .drain _ _ => abortRest s c r
  | .presence _ _ x => abortRest (retire1 s c r { cplSt .aborted with flags := x.flags, minCov := x.minCov } true) c r
  | _ => s

/-- A write of RING_CFG (R139, R173, R174). On a running ring, ENABLE 0 stops it and clears ENABLE at once, whatever the word's STOP. -/
def ringCfgWrite (s : State) (c : Ch) (r : Ring) (v : Word32) : State :=
  let n := v.toNat
  let en := bit n 31
  let st := bit n 30
  let g0 := s.ring c r
  let s := modRing s c r (fun g => { g with irqVec := BitVec.ofNat 11 n, sizeLog2 := if g.enable || g.stop then g.sizeLog2 else BitVec.ofNat 4 (fld n 19 16) })
  let g := s.ring c r
  if g0.draining then s
  else if g0.enable then
    if !en then modRing (stopRing s c r) c r (fun g => { g with enable := false })
    else if st then stopRing s c r
    else s
  else if g0.stop then modRing s c r (fun g => { g with stop := st })
  else if st then modRing s c r (fun g => { g with stop := true })
  else if en then
    if decide (6 ≤ g.sizeLog2.toNat ∧ g.sizeLog2.toNat ≤ 12) && areasOk (ringAreas g) (otherAreas s c (some r)) then
      modRing s c r (fun g => { g with enable := true, cfgErr := false, head := 0, tail := 0, retired := 0, phase := true, wait := .idle })
    else modRing s c r (fun g => { g with cfgErr := true })
  else s

/-- The offset of ring `r`'s RING_CFG. -/
def ringCfgOff (r : Ring) : Nat := 0x600 + 0x20 * r.val + 8

/-- Holds a register write until a commit's broadcast (R415). -/
def holdWrite (s : State) (l : Ld) (off : Nat) (v : Word32) : State :=
  modIsland s (fun i => { i with heldRegs := i.heldRegs ++ [{ l := l.val, off, v }] })

/-- A write of RING_CFG by a host: one that sets ENABLE is held by a fence (R415). -/
def ringCfgHost (s : State) (l : Ld) (c : Ch) (r : Ring) (v : Word32) : State :=
  chanWrite s l c (chBar c (ringCfgOff r)) (fun s =>
    if fenced s c && bit v.toNat 31 && !(s.ring c r).enable then holdWrite s l (chBar c (ringCfgOff r)) v else ringCfgWrite s c r v)

/-- RING_ENABLE_WRITE (R139): the word written has ENABLE 1. -/
def execRingEnableWrite (l : Ld) (c : Ch) (r : Ring) (v : Word32) (s : State) : Host.Outcome State Fault Refusal :=
  .next (ringCfgHost s l c r (v ||| 0x80000000))

/-- RING_STOP_WRITE (R173): the word written has STOP 1. -/
def execRingStopWrite (l : Ld) (c : Ch) (r : Ring) (v : Word32) (s : State) : Host.Outcome State Fault Refusal :=
  .next (ringCfgHost s l c r (v ||| 0x40000000))

/-- RING_DISABLE_WRITE (R174): the word written has ENABLE 0. -/
def execRingDisableWrite (l : Ld) (c : Ch) (r : Ring) (v : Word32) (s : State) : Host.Outcome State Fault Refusal :=
  .next (ringCfgHost s l c r (v &&& 0x7FFFFFFF))

/-- A write of RING_TAIL, taken modulo the ring's size (R140); on a ring that has stopped, the new descriptors end aborted. -/
def ringTailSet (s : State) (c : Ch) (r : Ring) (v : Word32) : State :=
  let s := modRing s c r (fun g => { g with tail := BitVec.ofNat 12 (fld v.toNat 11 0 % ringSize g) })
  let g := s.ring c r
  if g.draining && g.wait == .idle then abortRest s c r else s

/-- RING_TAIL_WRITE (R140), at the ring's register or at its doorbell (R314). -/
def execRingTailWrite (l : Ld) (c : Ch) (r : Ring) (v : Word32) (s : State) : Host.Outcome State Fault Refusal :=
  .next (chanWrite s l c (chBar c (0x1000 + 4 * r.val)) (fun s => ringTailSet s c r v))

/-- NOP (R152): the header's wait and add only; the body is reserved. An unassigned opcode, or one not accepted on the ring, is
refused here (R143). -/
def execNop (c : Ch) (r : Ring) (s : State) : Host.Outcome State Fault Refusal :=
  .next (runHead s c r 0x00 (fun d s => retireSt s c r (if resv d 1023 128 then .badField else .ok)))

/-- GATE_WAIT_RELEASE (R145): the count has satisfied the header wait. -/
def execGateWaitRelease (c : Ch) (r : Ring) (s : State) : Host.Outcome State Fault Refusal :=
  .next (if isUp s c && (s.ring c r).wait == .gate true then setWait s c r .released else s)

/-! ## Gates -/

/-- GATE_SET_WRITE (R148): a direct set through the gate window at 0x1_0000. -/
def execGateSetWrite (l : Ld) (c : Ch) (g : Nat) (v : Word32) (s : State) : Host.Outcome State Fault Refusal :=
  .next (chanWrite s l c (chBar c (0x10000 + 4 * g)) (fun s => if g < numGates then gateSet s c g v else s))

/-- GATE_ADD_WRITE (R146): an add through the gate window at 0x1_4000. -/
def execGateAddWrite (l : Ld) (c : Ch) (g : Nat) (v : Word32) (s : State) : Host.Outcome State Fault Refusal :=
  .next (chanWrite s l c (chBar c (0x14000 + 4 * g)) (fun s => if g < numGates then gateAdd s c g v else s))

/-- GATE_ADD_ARRIVAL (R146): the oldest gate add on its way through the port hub arrives; dropped when the channel has gone
down (R21). The completion record of the descriptor that sent it stands written, and the spec does not say how ADD_REFUSED would then be set: the
model sets it nowhere (DESIGN CHOICE, log 133). -/
def execGateAddArrival (c : Ch) (s : State) : Host.Outcome State Fault Refusal :=
  .next (match (s.ch c).gateQ with
    | [] => s
    | a :: rest =>
      let s := modCh s c (fun ch => { ch with gateQ := rest })
      if isUp s c then gateAdd s c a.gate.toNat a.amount else s)

/-! ## The release log (R237) -/

/-- A release record. -/
def releaseRecord (x : Release) : List Byte := natLe (at_ 62 2 x.tier.toNat + at_ 59 3 x.cls.toNat + at_ 0 45 x.loc.toNat) 8

/-- What waited for room goes on when there is room. -/
def logProgress (s : State) (c : Ch) : State :=
  let s := modCh s c (fun ch => { ch with rel := { ch.rel with fullWait := ch.rel.fullWait && logFull s c } })
  releasesStep (allRings.foldl (fun t r => logRing t c r) s)

/-- Removes the first release whose guard has cleared. -/
def takeClear : List Release → Option (Release × List Release)
  | [] => none
  | x :: xs => if x.rings.isEmpty then some (x, xs) else (takeClear xs).map (fun p => (p.1, x :: p.2))

/-- RELEASE_RECORD_WRITE (R237): the oldest release whose guard has cleared is recorded when the log has room, or forgotten when
the log is off; a full log makes it wait. -/
def execReleaseRecordWrite (c : Ch) (s : State) : Host.Outcome State Fault Refusal :=
  .next (match takeClear (s.ch c).rel.queue with
    | none => s
    | some (x, rest) =>
      let l := (s.ch c).rel
      if !l.enable then logProgress (modCh s c (fun ch => { ch with rel := { ch.rel with queue := rest } })) c
      else if relRoom l = 0 then noteFull s c
      else
        let s := t0Write s c (l.base.toNat * 4096 + 8 * l.head.toNat) (releaseRecord x)
        logProgress (modCh s c (fun ch => { ch with rel := { ch.rel with queue := rest, head := BitVec.ofNat 16 ((l.head.toNat + 1) % 2 ^ l.sizeLog2.toNat) } })) c)

/-- A write of the word at 0x0_0544. -/
def relCfgWrite (s : State) (c : Ch) (v : Word32) : State :=
  let n := v.toNat
  let l := (s.ch c).rel
  let sz := if l.enable then l.sizeLog2 else BitVec.ofNat 5 (fld n 20 16)
  if bit n 31 then
    if decide (6 ≤ sz.toNat ∧ sz.toNat ≤ 16) then
      modCh s c (fun ch => { ch with rel := { ch.rel with enable := true, sizeLog2 := sz, head := 0, tail := 0 } })
    else modCh s c (fun ch => { ch with rel := { ch.rel with sizeLog2 := sz } })
  else logProgress (modCh s c (fun ch => { ch with rel := { ch.rel with enable := false, sizeLog2 := sz } })) c

/-- RELEASE_LOG_ENABLE_WRITE (R237): the word written has ENABLE 1; held by a fence (R415). -/
def execReleaseLogEnableWrite (l : Ld) (c : Ch) (v : Word32) (s : State) : Host.Outcome State Fault Refusal :=
  .next (chanWrite s l c (chBar c 0x544) (fun s =>
    if fenced s c then holdWrite s l (chBar c 0x544) (v ||| 0x80000000) else relCfgWrite s c (v ||| 0x80000000)))

/-! ## Pace meter (R39, R40) and rounding generator (R104) -/

/-- Changes the pace meter. -/
def modPace (s : State) (c : Ch) (f : Pace → Pace) : State := modCh s c (fun ch => { ch with pace := f ch.pace })

/-- A write of PACE_CTRL. -/
def paceCtrlWrite (s : State) (c : Ch) (v : Word32) : State :=
  modPace s c (fun p => { p with window := bit v.toNat 0, low := if bit v.toNat 1 then 0xFFFFF else p.low })

/-- CLEAR_LOW (R39): the word written has CLEAR_LOW 1. -/
def execClearLow (l : Ld) (c : Ch) (v : Word32) (s : State) : Host.Outcome State Fault Refusal :=
  .next (chanWrite s l c (chBar c 0x404) (fun s => paceCtrlWrite s c (v ||| 2)))

/-- A write of SR_SEED: 0 loads 1. -/
def srSeedSet (s : State) (c : Ch) (v : Word32) : State :=
  let x : BitVec 31 := v.setWidth 31
  modCh s c (fun ch => { ch with srGen := if x = 0 then 1 else x })

/-- SR_SEED_WRITE (R104). -/
def execSrSeedWrite (l : Ld) (c : Ch) (v : Word32) (s : State) : Host.Outcome State Fault Refusal :=
  .next (chanWrite s l c (chBar c 0x510) (fun s => srSeedSet s c v))

/-- PACE_WINDOW_END (R39): the meter latches its count. The window that ends at a change of WINDOW leaves VALID 0 until the first
window of the new length has ended (log 22), and PACE_LOW follows that window too (DESIGN CHOICE, log 127). Without the reference clock no window ends
(R40). -/
def execPaceWindowEnd (c : Ch) (steps : BitVec 20) (s : State) : Host.Outcome State Fault Refusal :=
  .next (modPace s c (fun p =>
    if !p.refclk then p
    else { p with valid := p.inUse == p.window, seq := p.seq + 1, count := steps, inUse := p.window,
                  low := if steps.toNat < p.low.toNat then steps else p.low }))

/-- REFCLK_LOSS (R40): VALID reads 0; the count, the sequence and the low count hold. -/
def execRefclkLoss (c : Ch) (s : State) : Host.Outcome State Fault Refusal :=
  .next (modPace s c (fun p => { p with refclk := false, valid := false }))

/-- REFCLK_RETURN (R40): a new window starts, of the length that WINDOW gives. -/
def execRefclkReturn (c : Ch) (s : State) : Host.Outcome State Fault Refusal :=
  .next (modPace s c (fun p => { p with refclk := true, inUse := p.window }))

/-- ISLAND_PACE_WINDOW_END (R431). -/
def execIslandPaceWindowEnd (steps : BitVec 20) (s : State) : Host.Outcome State Fault Refusal :=
  .next (modIsland s (fun i => { i with pace := { valid := true, seq := i.pace.seq + 1, count := steps } }))

end Sys2Proof.Machine
end

