-- ==== Sys2Proof/Machine/HostMem.lean ====
section
/-! DEFINITION. The host port's memory commands: CXL.mem requests (R345), the answers to snoops and the lapse of a lease (R329 to R332), and the T0
window (R235, R313, R317). -/

namespace Sys2Proof.Machine
open Sys2Proof

/-! ## CXL.mem requests (R345) -/

/-- CXL_MEM_READ (R345): one line; `own` asks for state A. -/
def execCxlMemRead (l : Ld) (dpa : Nat) (own : Bool) (env : Env) (s : State) : Host.Outcome State Fault Refusal :=
  let a := dpa / 64 * 64
  .next (if !memEnabled s l then s
    else match targetOf s l a with
      | .frame c _ _ => memReadReq (takeEnv s c env) l a own
      | .extent c _ _ => memReadReq (takeEnv s c env) l a own
      | _ => memReadReq s l a own)

/-- CXL_MEM_WRITE (R345): one line under byte enables. -/
def execCxlMemWrite (l : Ld) (dpa : Nat) (data : List Byte) (be : BitVec 64) (s : State) : Host.Outcome State Fault Refusal :=
  .next (if memEnabled s l then memWriteReq s l (dpa / 64 * 64) data be else s)

/-! ## Snoop answers and lapses (R329 to R334) -/

/-- A line's snoops have been answered by everyone: what waits at the line is served. -/
def snoopEnds (s : State) (c : Ch) (line : Nat) : State :=
  let s := modEntry s c line (fun x => { x with done := true })
  grantsStep (roceWake (serveLine s c line))

/-- The holder table after a logical device's answer: its holding ends, or falls to S under BISnpData. -/
def answerHolders (hs : List Holder) (l line : Nat) (data : Bool) : List Holder :=
  if data then hs.map (fun h => if h.line = line then { h with excl := false } else h)
  else (hs.map (fun h => if h.line = line then { h with lds := h.lds.filter (fun y => y != l) } else h)).filter (fun h => !h.lds.isEmpty)

/-- A logical device has answered a snoop; the next snoop that waits takes its place among the 64 (R330). -/
def snoopAnswer (s : State) (c : Ch) (l line : Nat) : State :=
  match entryAt s c line with
  | none => s
  | some x =>
    if !x.lds.contains l then s
    else
      let left := x.lds.filter (fun z => z != l)
      let wasOut := (snoopsOut s c).contains (line, l, x.data)
      let s := modCh s c (fun ch => { ch with holders := answerHolders ch.holders l line x.data })
      let s := modEntry s c line (fun y => { y with lds := left })
      let s := match (snoopList s c)[63]? with
        | some y => if wasOut then sendSnoop s c y else s
        | none => s
      if left.isEmpty then snoopEnds s c line else s

/-- BIRSP (R329): a host's answer to a snoop that is outstanding. -/
def execBirsp (c : Ch) (l : Ld) (line : Nat) (s : State) : Host.Outcome State Fault Refusal :=
  .next (if (snoopsOut s c).any (fun x => x.1 == line && x.2.1 == l.val) then snoopAnswer s c l.val line else s)

/-- BICONFLICT (R330). -/
def execBiconflict (c : Ch) (l : Ld) (line : Nat) (s : State) : Host.Outcome State Fault Refusal :=
  .next (if (snoopsOut s c).any (fun x => x.1 == line) then emit s (.conflictAck c.val l.val line) else s)

/-- The lines of a channel that a logical device holds in state A. -/
def heldExcl (s : State) (c : Ch) (l : Nat) : List Nat := ((s.ch c).holders.filter (fun h => h.excl && h.lds.contains l)).map (fun h => h.line)

/-- A lapse on one channel (R332): S lines lose the logical device, A lines are orphaned and freed, snoops to it complete as lapsed, and one
`EV_HOST_ORPHAN` is raised. -/
def lapseOn (s : State) (l : Ld) (c : Ch) : State :=
  let gone := heldExcl s c l.val
  let s := modCh s c (fun ch => { ch with
    t1Orphan := ch.t1Orphan ++ gone.filter (fun x => !ch.t1Orphan.contains x)
    health := { ch.health with orphaned := ch.health.orphaned + gone.length }
    holders := ((ch.holders.filter (fun h => !(h.excl && h.lds.contains l.val))).map (fun h => { h with lds := h.lds.filter (fun y => y != l.val) })).filter (fun h => !h.lds.isEmpty) })
  let s := modLd s l (fun d => { d with orphaned := min 0xFFFFFF (d.orphaned + gone.length) })
  let open_ := ((s.ch c).snoops.filter (fun x => x.lds.contains l.val)).map (fun x => x.line)
  let s := open_.foldl (fun t x => snoopAnswer t c l.val x) s
  if gone.isEmpty then s else raiseC s c 0x0600 sevErr (natLe l.val 1 ++ natLe gone.length 4)

/-- A logical device's lease lapses (R332). -/
def lapse (s : State) (l : Ld) : State :=
  grantsStep (forCh (modLd s l (fun d => { d with lapsed := true })) (presentChs s) (fun t c => lapseOn t l c))

/-- BI_SNOOP_TIMEOUT (R331): no BIRsp within 2^BI_TIMEOUT_LOG2 steps. -/
def execBiSnoopTimeout (c : Ch) (l : Ld) (line : Nat) (s : State) : Host.Outcome State Fault Refusal :=
  .next (if (snoopsOut s c).any (fun x => x.1 == line && x.2.1 == l.val) then lapse s l else s)

/-! ## The T0 window (R235, R313, R317) -/

/-- Whether an access to the T0 window has a size and place that it takes. -/
def t0AccessOk (off len : Nat) : Bool := decide (4 ≤ len ∧ len ≤ 64 ∧ off / 64 = (off + len - 1) / 64)

/-- T0_WINDOW_READ (R317): `off` is the offset in BAR2. -/
def execT0WindowRead (l : Ld) (off len : Nat) (s : State) : Host.Outcome State Fault Refusal :=
  .next (if !s.host.up ∨ !t0AccessOk off len then s
    else if !ioUp s l then emit s (.unsupported l)
    else match chOf (off / 0x1000000) with
      | none => emit (accessErr s l aeUnassigned) (.readData l.val (zeros len))
      | some c =>
        if ldOfCh s c ≠ some l then emit (accessErr s l aeUnassigned) (.readData l.val (zeros len))
        else if !isUp s c then emit s (.readPoison l.val none)
        else emit s (.readData l.val (t0Read s c (off % 0x1000000) len)))

/-- A write within 64 bytes of the T0 window; into an engine private area it is dropped (R235). -/
def t0Piece (s : State) (l : Ld) (off : Nat) (data : List Byte) : State :=
  match chOf (off / 0x1000000) with
  | none => accessErr s l aeUnassigned
  | some c =>
    if ldOfCh s c ≠ some l then accessErr s l aeUnassigned
    else if !isUp s c then raiseC s c 0x0201 sevWarn (natLe l.val 1 ++ natLe off 8)
    else if touchesPriv (off % 0x1000000) data.length then s
    else t0Write s c (off % 0x1000000) data

/-- The pieces of a burst, split at 64-byte boundaries (fuel: its bytes). -/
def t0Pieces : Nat → Nat → List Byte → List (Nat × List Byte)
  | 0, _, _ => []
  | n + 1, off, data =>
    if data.isEmpty then []
    else
      let k := 64 - off % 64
      (off, data.take k) :: t0Pieces n (off + k) (data.drop k)

/-- T0_WINDOW_WRITE (R317): a burst is split at 64-byte boundaries, and each piece applied whole, as an access of its own (DEDUCED, log 178). -/
def execT0WindowWrite (l : Ld) (off : Nat) (data : List Byte) (s : State) : Host.Outcome State Fault Refusal :=
  .next (if !ioUp s l ∨ data.length < 4 then s
    else (t0Pieces data.length off data).foldl (fun t x => t0Piece t l x.1 x.2) s)

end Sys2Proof.Machine
end

