-- ==== Sys2Proof/Machine/HostCmds.lean ====
section
/-! DEFINITION. Host-port events (R306, R331, R338), HDM decoders (R323), MSI-X (R340), and the CXL commands of the mailboxes (R324 to R327,
R335, R351, R407). -/

namespace Sys2Proof.Machine
open Sys2Proof

/-! ## Link, resets and binding (R338) -/

/-- The logical devices that exist. -/
def lds (s : State) : List Ld := if s.build.mld then allLds else [0]

/-- Whether a foreground command of a mailbox is under way: it waits for channels, for a fence, for the moves of a window or for the end of grants. -/
def fgRuns (s : State) (mb : Nat) : Bool :=
  let i := s.island
  (match i.commit with | some m => m.mb == mb | none => false) || (match i.destroy with | some d => d.mb == mb | none => false)
    || (match i.poll with | some p => p.mb == mb | none => false)
    || i.grants.any (fun g => g.leaving && g.by_ == mb) || allCh.any (fun c => (s.ch c).link.winDue.any (fun d => d.2.1 == mb))

/-- A logical device's mailboxes lose what waits in them and their staging sets; the results of the commands in progress are discarded
(R338, R408). -/
def clearMailboxes (s : State) (l : Ld) : State :=
  let mine := fun (n : Nat) => n / 2 == l.val
  modIsland s (fun i => { i with
    waiting := i.waiting.filter (fun w => !mine w.1)
    mboxes := Vector.ofFn (fun (k : Fin 33) =>
      if mine k.val then { MbState.reset with bg := i.mboxes[k].bg, drop := i.mboxes[k].bg.isSome, dropFg := fgRuns s k.val } else i.mboxes[k])
    staging := Vector.ofFn (fun (k : Fin 33) => if mine k.val then [] else i.staging[k]) })

/-- A function's configuration and MSI-X are reset: every vector masked, none pending. -/
def resetFunction (s : State) (l : Ld) : State :=
  clearMailboxes (modLd s l (fun d => { d with
    busMaster := false, bar0 := 0, bar2 := 0, ras := [], doeIn := [], doeOut := [], doeErr := false, aer := 0, vecs := [], unmasked := [], funcMask := false, pba := [] })) l

/-- HDM decoders uncommitted. -/
def clearDecoders (s : State) (l : Ld) : State := modLd s l (fun d => { d with hdm := Vector.replicate 8 none, hdmErr := 0 })

/-- The host link goes down (R331, R338). -/
def hostDown (s : State) : State :=
  let s := modHost s (fun h => { h with up := false, cxl := false, flit256 := false, width := 0 })
  (lds s).foldl (fun t l => lapse (clearDecoders (resetFunction t l) l) l) s

/-- HOST_LINK_DOWN (R338): link down, hot reset or PERST#. -/
def execHostLinkDown (_ev : LinkDownKind) (s : State) : Host.Outcome State Fault Refusal := .next (hostDown s)

/-- Whether the port trains at a rate and width: a UCIe module of 64 lanes at 4, 8, 12 or 16 GT/s (R307), or x16, x8 or x4 (R304). -/
def trains (s : State) (gtps width : Nat) : Bool :=
  if s.build.formK then width == 64 && [4, 8, 12, 16].contains gtps else [4, 8, 16].contains width

/-- HOST_LINK_UP (R304, R306, R307, R333): HM-C12-K enters CXL mode at every rate, HM-C12-P from 32 GT/s on. -/
def execHostLinkUp (rate : LinkRate) (flit256 : Bool) (s : State) : Host.Outcome State Fault Refusal :=
  let cxl := s.build.formK || decide (32 ≤ rate.gtps)
  let f := cxl && (s.build.formK || rate.gtps == 64 || flit256)
  .next (if !trains s rate.gtps rate.width then s
    else
      let s := modHost s (fun h => { h with up := true, cxl, flit256 := f, width := rate.width })
      (lds s).foldl (fun t l => modLd t l (fun d => { d with lapsed := false })) s)

/-- FLR (R338): the lease lapses, then is cleared (R333). -/
def execFlr (l : Ld) (s : State) : Host.Outcome State Fault Refusal :=
  .next (modLd (lapse (resetFunction s l) l) l (fun d => { d with lapsed := false }))

/-- CXL_RESET (R338): as FLR, with the decoders uncommitted and every ring of the logical device's channels stopped. -/
def execCxlReset (l : Ld) (s : State) : Host.Outcome State Fault Refusal :=
  let s := modLd (lapse (clearDecoders (resetFunction s l) l) l) l (fun d => { d with lapsed := false })
  .next (forCh s (chsOfLd s l) (fun t c => allRings.foldl (fun u r => if (u.ring c r).enable ∧ !(u.ring c r).draining then stopRing u c r else u) t))

/-- LD_BIND (R422, R333). -/
def execLdBind (l : Ld) (s : State) : Host.Outcome State Fault Refusal :=
  .next (if s.build.mld then modLd s l (fun d => { d with bound := true, lapsed := false }) else s)

/-- LD_UNBIND (R331, R338): the functions are unreachable and the lease lapses. -/
def execLdUnbind (l : Ld) (s : State) : Host.Outcome State Fault Refusal :=
  .next (if s.build.mld then lapse (modLd s l (fun d => { d with bound := false })) l else s)

/-! ## HDM decoders (R323) -/

/-- The DPA bytes that a decoder takes. -/
def decoderSpan (d : HdmDecoder) : Nat := d.skip + d.size / max 1 d.ways

/-- First DPA of decoder `i`. -/
def decoderBase (s : State) (l : Ld) (i : Fin 8) : Nat :=
  (((s.ld l).hdm.toList.take i.val).map (fun x => match x with | some d => decoderSpan d | none => 0)).sum

/-- Whether a decoder's fields are allowed and its DPA range lies within the partitions. -/
def decoderOk (s : State) (l : Ld) (i : Fin 8) (d : HdmDecoder) : Bool :=
  [1, 2, 3, 4, 6, 8, 12, 16].contains d.ways && [256, 512, 1024, 2048, 4096, 8192, 16384].contains d.gran && decide (0 < d.size) &&
  decide (decoderBase s l i + decoderSpan d ≤ staticLen s l + 4 * 2 ^ 40)

/-- Whether a commit that waits for its fence concerns a logical device's block. -/
def ldFenced (s : State) (l : Ld) : Bool :=
  match s.island.commit with
  | some m => m.words.any (fun w => w.ld == l.val && !sharedWord w.off)
  | none => false

/-- The commit of a decoder; refused with error-not-committed when it is not allowed. -/
def commitDecoder (l : Ld) (i : Fin 8) (d : HdmDecoder) (s : State) : State :=
  if decoderOk s l i d then modLd s l (fun x => { x with hdm := x.hdm.set i (some d), hdmErr := x.hdmErr &&& ~~~ (1#8 <<< i.val) })
  else modLd s l (fun x => { x with hdmErr := x.hdmErr ||| (1#8 <<< i.val) })

/-- HDM_DECODER_COMMIT (R323), at a function that exists and is bound (R308); held by a commit's fence (R415). -/
def execHdmDecoderCommit (l : Ld) (i : Fin 8) (d : HdmDecoder) (s : State) : Host.Outcome State Fault Refusal :=
  .next (if !s.host.cxl ∨ !ioUp s l then s
    else if ldFenced s l then modIsland s (fun k => { k with waiting := k.waiting ++ [(33, .hdmDecoderCommit l i d)] })
    else commitDecoder l i d s)

/-! ## MSI-X (R340) -/

/-- Sends one message for the pending requests of a vector that is unmasked. -/
def msixFlush (s : State) (l : Ld) (vec : Nat) : State :=
  let d := s.ld l
  if d.pba.contains vec ∧ d.unmasked.contains vec ∧ !d.funcMask ∧ s.host.up then
    emit (modLd s l (fun d => { d with pba := d.pba.filter (fun x => x != vec) })) (msixMsg s l vec)
  else s

/-- Unmasks a vector. -/
def unmaskVec (s : State) (l : Ld) (vec : Nat) : State :=
  if 2048 ≤ vec then s
  else msixFlush (modLd s l (fun d => { d with unmasked := if d.unmasked.contains vec then d.unmasked else d.unmasked ++ [vec] })) l vec

/-- Masks a vector. -/
def maskVec (s : State) (l : Ld) (vec : Nat) : State := modLd s l (fun d => { d with unmasked := d.unmasked.filter (fun x => x != vec) })

/-- MSIX_UNMASK (R340): one vector, or the function mask, at a function that exists and is bound (R308). -/
def execMsixUnmask (l : Ld) (vec : Option Nat) (s : State) : Host.Outcome State Fault Refusal :=
  .next (if !ioUp s l then s else match vec with
    | some v => unmaskVec s l v
    | none =>
      let s := modLd s l (fun d => { d with funcMask := false })
      (s.ld l).pba.foldl (fun t v => msixFlush t l v) s)

/-- GLOBAL_PERSISTENT_FLUSH (R304): acknowledged with no action. -/
def execGlobalPersistentFlush (phase : Nat) (s : State) : Host.Outcome State Fault Refusal := .next (emit s (.gpfAck phase))

/-- Unsupported Request of AER's status (PRESUMED, PCI Express, log 150). -/
def aerUnsupported : Word32 := 0x100000

/-- BAD_REGISTER_ACCESS (R312): not a naturally aligned access of 4 or 8 bytes. -/
def execBadRegisterAccess (l : Ld) (off size : Nat) (isWrite : Bool) (s : State) : Host.Outcome State Fault Refusal :=
  .next (if !s.host.up ∨ ((size = 4 ∨ size = 8) ∧ off % size = 0) then s
    else if !ioUp s l then (if isWrite then s else emit s (.unsupported l))
    else
      let s := modLd (accessErr s l aeBadSize) l (fun d => { d with aer := d.aer ||| aerUnsupported })
      if isWrite then s else emit s (.readData l.val (List.replicate size 0xFF)))

/-! ## CXL commands (R410) -/

/-- A CXL command: served while Kiln runs. -/
def cxlCmd (s : State) (mb : Mbox) (op : Nat) (i : Instr) (k : State → State) : State :=
  mbEnter s mb op i (fun s => mbRun s mb op false false true k)

/-- A CXL command of a logical device's mailbox. -/
def cxlLd (s : State) (mb : Mbox) (op : Nat) (k : Ld → State) : State :=
  match mbLd mb with
  | some l => k l
  | none => mbUnsupported s mb op

/-- A CXL command that the sideband serves. -/
def cxlFm (s : State) (mb : Mbox) (op : Nat) (k : State) : State := if mbFm s mb then k else mbUnsupported s mb op

/-- IDENTIFY_MEMORY_DEVICE (R304, R318): capacities in units of 256 MiB. -/
def runIdentify (mb : Mbox) (s : State) : State :=
  mbReply s mb 0x4000 (.identify (match mbLd mb with | some l => 4 * (staticLen s l / 2 ^ 30) | none => 0) 0 4096)

/-- The command effects log of CXL 3.1. -/
def celUuid : BitVec 128 := 0x0DA9C0B5BF414B788F7996B1623B3F17

/-- GET_SUPPORTED_LOGS (R410). -/
def runSupportedLogs (mb : Mbox) (s : State) : State := mbReply s mb 0x0400 (.supportedLogs [celUuid])

/-- GET_LOG (R410). -/
def runGetLog (mb : Mbox) (uuid : BitVec 128) (off len : Nat) (s : State) : State :=
  if uuid = celUuid ∧ off + len ≤ (Config.cxlLog uuid).length then mbReply s mb 0x0401 (.log (bsub (Config.cxlLog uuid) off len))
  else mbInvalid s mb 0x0401

/-- DPAs at which a logical device reaches a T1 line of a channel. -/
def dpasOf (s : State) (l : Ld) (c : Ch) (line : Nat) : List Nat :=
  ((winsOf s l).filterMap (fun w => if w.valid ∧ w.kind = 0 ∧ w.ch = c.val ∧ w.t1 ≤ 64 * line ∧ 64 * line < w.t1 + w.len then some (w.dpa + (64 * line - w.t1)) else none)) ++
  (s.island.grants.filterMap (fun g => if g.live ∧ g.ld = l.val ∧ g.ch = c.val ∧ g.t1 ≤ 64 * line ∧ 64 * line < g.t1 + g.len then some (g.dpa + (64 * line - g.t1)) else none))

/-- Orphaned lines as DPAs of a logical device, ascending. -/
def poisonDpas (s : State) (l : Ld) : List Nat :=
  sortBy (fun a b => decide (a ≤ b)) (allCh.flatMap (fun c => (s.ch c).t1Orphan.flatMap (dpasOf s l c)))

/-- The source "injected by the device" of a poison list's entry (PRESUMED, CXL 3.1). -/
def srcInjected : Nat := 3

/-- GET_POISON_LIST (R335): at most 4,096 entries, with the overflow flag beyond them. -/
def runPoisonList (mb : Mbox) (dpa len : Nat) (s : State) : State :=
  cxlLd s mb 0x4300 (fun l =>
    let all := poisonDpas s l
    mbReply s mb 0x4300 (.poisonList (((all.take 4096).filter (fun a => decide (dpa ≤ a ∧ a < dpa + len))).map (fun a => (a, srcInjected))) (decide (4096 < all.length))))

/-- CLEAR_POISON (R334): the mark is cleared and the command's data written. The write waits for room in the write-back queue, and Kiln with it (R246,
R406). -/
def runClearPoison (mb : Mbox) (dpa : Nat) (data : List Byte) (s : State) : State :=
  cxlLd s mb 0x4302 (fun l =>
    let write := fun (c : Ch) (owner t1 : Nat) =>
      if wbHolds s c false t1 64 then modIsland s (fun i => { i with waiting := (mb.val, .clearPoison mb dpa data) :: i.waiting })
      else mbReply (hostWriteLine (clearOrphan s c (t1 / 64)) c owner t1 data (BitVec.allOnes 64)) mb 0x4302 .done
    match targetOf s l (dpa / 64 * 64) with
    | .frame c owner t1 => if isUp s c then write c owner t1 else mbInvalid s mb 0x4302
    | .extent c g t1 => if isUp s c then write c g.owner.toNat t1 else mbInvalid s mb 0x4302
    | _ => mbInvalid s mb 0x4302)

/-- The dynamic capacity event log. -/
def dcLogId : Byte := 4

/-- GET_EVENT_RECORDS (R410): the dynamic capacity event log only. -/
def runGetEvents (mb : Mbox) (log : Byte) (s : State) : State :=
  cxlLd s mb 0x0100 (fun l => if log = dcLogId then mbReply s mb 0x0100 (.events log (s.ld l).dcLog) else mbInvalid s mb 0x0100)

/-- CLEAR_EVENT_RECORDS (R410). -/
def runClearEvents (mb : Mbox) (log : Byte) (handles : List Nat) (s : State) : State :=
  cxlLd s mb 0x0101 (fun l =>
    if log = dcLogId ∧ handles.all (fun h => (s.ld l).dcLog.any (fun e => e.1 == h)) then
      mbReply (modLd s l (fun d => { d with dcLog := d.dcLog.filter (fun e => !handles.contains e.1) })) mb 0x0101 .done
    else mbInvalid s mb 0x0101)

/-- First DPA of partition `k` (R318). -/
def partBase (s : State) (l : Ld) (k : Nat) : Nat := staticLen s l + k * 2 ^ 40

/-- GET_DC_CONFIGURATION (R318, R305): base, length and whether sharable of each partition. -/
def runDcConfig (mb : Mbox) (s : State) : State :=
  cxlLd s mb 0x4800 (fun l => mbReply s mb 0x4800 (.dcConfig ((List.range 4).map (fun k =>
    (partBase s l k, if 2 ≤ k ∧ s.host.cxl ∧ !s.host.flit256 then 0 else 2 ^ 40, k % 2 == 1)))))

/-- The tag of a grant (R324). -/
def grantTag (g : Grant) : BitVec 128 := BitVec.ofNat 128 (at_ 96 32 g.region.toNat + at_ 92 4 g.ch + at_ 76 16 (g.t1 / 0x200000) + at_ 64 12 g.owner.toNat)

/-- GET_DC_EXTENT_LIST (R324). -/
def runExtentList (mb : Mbox) (count start : Nat) (s : State) : State :=
  cxlLd s mb 0x4801 (fun l =>
    let gs := s.island.grants.filter (fun g => g.live && g.ld == l.val)
    mbReply s mb 0x4801 (.extents gs.length start (((gs.drop start).take count).map (fun g => (g.dpa, g.len, grantTag g)))))

/-- A record of the dynamic capacity event log: handle, what (0 add, 1 release, 2 forced release), first DPA, length. -/
def dcNote (s : State) (l : Ld) (what dpa len : Nat) : State :=
  emit (modLd s l (fun d => { d with dcLog := d.dcLog ++ [((d.dcLog.map (fun e => e.1)).foldl max 0 + 1, what, dpa, len)] })) (.dcEvent l.val)

/-- Accepts one offer; the first grant of a region gives the logical device its registration (R352). -/
def acceptGrant (s : State) (l : Ld) (g : Grant) : State :=
  let idx := regIdx g.region.toNat
  let s := modIsland s (fun i => { i with grants := i.grants.map (fun x => if x = g then { x with live := true } else x) })
  if (regIndex (regionAt s idx) 0 l.val 0).isSome then s else (addReg s idx 0 l.val 0 15).2

/-- ADD_DC_RESPONSE (R326): the host accepts offers; those that it does not name are declined. -/
def runAddDcResponse (mb : Mbox) (exts : List (Nat × Nat)) (s : State) : State :=
  cxlLd s mb 0x4802 (fun l =>
    let offers := s.island.grants.filter (fun g => !g.live && g.ld == l.val)
    if !exts.all (fun e => offers.any (fun g => g.dpa == e.1 && g.len == e.2)) then mbInvalid s mb 0x4802
    else
      let taken := offers.filter (fun g => exts.contains (g.dpa, g.len))
      let s := taken.foldl (fun t g => acceptGrant t l g) s
      mbReply (modIsland s (fun i => { i with grants := i.grants.filter (fun g => g.live || g.ld != l.val) })) mb 0x4802 .done)

/-- A grant's release begins (R327, R361): the registration is revoked, and comes back with its rights where another grant of the region
remains at the end of the drain. -/
def leaveGrant (s : State) (by_ : Nat) (g : Grant) : State :=
  let idx := regIdx g.region.toNat
  let s := modIsland s (fun i => { i with grants := i.grants.map (fun x => if x = g then { x with leaving := true, by_ } else x) })
  match regIndex (regionAt s idx) 0 g.ld 0 with
  | none => s
  | some i =>
    match smGet? (regionAt s idx).regs i with
    | some q => if (regionAt s idx).revokes.any (fun r => r.regs.contains i) then s else startRevoke s idx [i] [(g.ld, q.rights)]
    | none => s

/-- RELEASE_DYNAMIC_CAPACITY (R327): confirmed when every step has ended. -/
def runReleaseDc (mb : Mbox) (exts : List (Nat × Nat)) (s : State) : State :=
  cxlLd s mb 0x4803 (fun l =>
    let gs := s.island.grants.filter (fun g => g.live && !g.leaving && g.ld == l.val && exts.contains (g.dpa, g.len))
    if exts.isEmpty ∨ !exts.all (fun e => gs.any (fun g => g.dpa == e.1 && g.len == e.2)) then mbInvalid s mb 0x4803
    else
      let s := gs.foldl (fun t g => leaveGrant t mb.val g) s
      grantsStep s)

/-- BACKGROUND_OPERATION_STATUS (R407). -/
def runBgStatus (mb : Mbox) (s : State) : State :=
  let m := s.mb mb
  mbReply s mb 0x0002 (.background m.bgOp m.bg.isSome m.bgStatus)

/-- GET_LD_INFO (R308). -/
def runLdInfo (mb : Mbox) (s : State) : State := cxlFm s mb 0x5400 (mbReply s mb 0x5400 (.ldInfo (if s.build.mld then 16 else 1)))

/-- GET_DCD_INFO (R318, R304). -/
def runDcdInfo (mb : Mbox) (s : State) : State := cxlFm s mb 0x5600 (mbReply s mb 0x5600 (.dcdInfo 4 0x200000 (if s.build.mld then 16 else 1)))

/-! ## Addition of an extent (R324, R325, R348, R351) -/

/-- Whether two byte ranges meet. -/
def meets (a n b m : Nat) : Bool := decide (a < b + m ∧ b < a + n)

/-- The checks of R325 for an extent of `len` bytes at byte `off` of a partition. -/
def extentBad (s : State) (l : Ld) (part off len : Nat) (tag : BitVec 128) : Option St :=
  let n := tag.toNat
  let id := fld n 127 96
  let t1 := 0x200000 * fld n 91 76
  match chOf (fld n 95 92) with
  | none => some .channelDown
  | some c =>
    if !isUp s c then some .channelDown
    else if len = 0 ∨ len % 0x200000 ≠ 0 ∨ off % 0x200000 ≠ 0 ∨ 2 ^ 40 < off + len ∨ fld n 63 0 ≠ 0 ∨ poolBase s c < t1 + len then some .badField
    else match regionCheck s id with
      | some e => some e
      | none =>
        let g := regionAt s (regIdx id)
        if isPooled s c ∧ !g.runs.any (fun x => x.ch == c.val && decide (x.t1Base ≤ t1 ∧ t1 + len ≤ x.t1Base + x.len)) then some .noHome
        else if (regIndex g 0 l.val 0).isNone ∧ 128 ≤ regsValid g then some .regsFull
        else if (2 ≤ part ∧ s.host.cxl ∧ !s.host.flit256) ∨ (part % 2 = 1 ∧ !isPooled s c) then some .modeDenied
        else if (lds s).any (fun q => (winsOf s q).any (fun w => w.valid && w.kind == 0 && w.ch == c.val && meets w.t1 w.len t1 len)) then some .extentOverlap
        else if s.island.grants.any (fun x => x.ch == c.val && meets x.t1 x.len t1 len &&
            (x.region != BitVec.ofNat 32 id || x.t1 != t1 || x.len != len || (part % 2 == 0 && x.ld != l.val))) then some .extentOverlap
        else if 4096 ≤ s.island.grants.length then some .extentsFull
        else none

/-- The mover fills the backing of a new extent from its home units, zeros where a unit is unmapped (R351); its pieces start clean. -/
def fillBacking (s : State) (c : Ch) (owner t1 len : Nat) : State :=
  let s := (List.range (len / 16384)).foldl (fun t i =>
    let a := t1 + 16384 * i
    match runAt t c.val a with
    | none => t
    | some (_, x) =>
      let u := (runUnit x a).1
      if !(mapAt t c u).mapped ∧ (mapAt t c u).slots = 0 then t1Write t c owner a (zeros 16384)
      else (List.range 4).foldl (fun v j =>
        match t2Plain v c owner 1 (BitVec.ofNat 45 (at_ 32 3 (2 * j) + u)) with
        | some bs => t1Write v c owner (a + 4096 * j) bs
        | none =>
          if (mapAt v c u).slots.toNat &&& (3 <<< (2 * j)) = 0 then t1Write v c owner (a + 4096 * j) (zeros 4096)
          else addLost v c (linesOf (a + 4096 * j) 4096)) t) s
  modObj s c (fun o => { o with dirtyMap := o.dirtyMap.filter (fun p => !decide (t1 ≤ 4096 * p ∧ 4096 * p < t1 + len)) })

/-- INITIATE_DC_ADD (R325): checked, then offered to the host. -/
def runDcAdd (mb : Mbox) (l : Ld) (part : Fin 4) (off len : Nat) (tag : BitVec 128) (s : State) : State :=
  cxlFm s mb 0x5604 (
    match extentBad s l part.val off len tag with
    | some e => raiseS (mbSt s mb 0x5604 e) 0x0603 sevWarn (natLe (stCode e) 2 ++ natLe l.val 1 ++ natLe part.val 1 ++ natLe tag.toNat 16)
    | none =>
      let n := tag.toNat
      let t1 := 0x200000 * fld n 91 76
      match chOf (fld n 95 92) with
      | none => s
      | some c =>
        let dpa := partBase s l part.val + off
        let shared := s.island.grants.any (fun x => x.ch == c.val && x.t1 == t1 && x.len == len)
        let s := if shared ∨ (runAt s c.val t1).isNone then s else fillBacking s c (fld n 75 64) t1 len
        let g : Grant := { ld := l.val, part := part.val, dpa, len, region := BitVec.ofNat 32 (fld n 127 96), ch := c.val, t1,
                           owner := BitVec.ofNat 12 (fld n 75 64), live := false, leaving := false, by_ := 33 }
        mbReply (dcNote (modIsland s (fun i => { i with grants := i.grants ++ [g] })) l 0 dpa len) mb 0x5604 .done)

/-- INITIATE_DC_RELEASE (R327): a forced release; an offer not yet accepted is withdrawn. -/
def runDcRelease (mb : Mbox) (l : Ld) (part : Fin 4) (off len : Nat) (s : State) : State :=
  cxlFm s mb 0x5605 (
    let dpa := partBase s l part.val + off
    match s.island.grants.find? (fun g => g.ld == l.val && g.dpa == dpa && g.len == len && !g.leaving) with
    | none => mbInvalid s mb 0x5605
    | some g =>
      let s := dcNote s l 2 dpa len
      if g.live then grantsStep (leaveGrant s mb.val g)
      else mbReply (modIsland s (fun i => { i with grants := i.grants.filter (fun x => x != g) })) mb 0x5605 .done)

/-! ## The rows -/

/-- IDENTIFY_MEMORY_DEVICE (R304). -/
def execIdentifyMemoryDevice (mb : Mbox) (s : State) : Host.Outcome State Fault Refusal :=
  .next (cxlCmd s mb 0x4000 (.identifyMemoryDevice mb) (runIdentify mb))
/-- GET_SUPPORTED_LOGS (R410). -/
def execGetSupportedLogs (mb : Mbox) (s : State) : Host.Outcome State Fault Refusal :=
  .next (cxlCmd s mb 0x0400 (.getSupportedLogs mb) (runSupportedLogs mb))
/-- GET_LOG (R410). -/
def execGetLog (mb : Mbox) (uuid : BitVec 128) (off len : Nat) (s : State) : Host.Outcome State Fault Refusal :=
  .next (cxlCmd s mb 0x0401 (.getLog mb uuid off len) (runGetLog mb uuid off len))
/-- GET_POISON_LIST (R335). -/
def execGetPoisonList (mb : Mbox) (dpa len : Nat) (s : State) : Host.Outcome State Fault Refusal :=
  .next (cxlCmd s mb 0x4300 (.getPoisonList mb dpa len) (runPoisonList mb dpa len))
/-- CLEAR_POISON (R334). -/
def execClearPoison (mb : Mbox) (dpa : Nat) (data : List Byte) (s : State) : Host.Outcome State Fault Refusal :=
  .next (cxlCmd s mb 0x4302 (.clearPoison mb dpa data) (runClearPoison mb dpa data))
/-- GET_EVENT_RECORDS (R410). -/
def execGetEventRecords (mb : Mbox) (log : Byte) (s : State) : Host.Outcome State Fault Refusal :=
  .next (cxlCmd s mb 0x0100 (.getEventRecords mb log) (runGetEvents mb log))
/-- CLEAR_EVENT_RECORDS (R410). -/
def execClearEventRecords (mb : Mbox) (log : Byte) (handles : List Nat) (s : State) : Host.Outcome State Fault Refusal :=
  .next (cxlCmd s mb 0x0101 (.clearEventRecords mb log handles) (runClearEvents mb log handles))
/-- GET_DC_CONFIGURATION (R318). -/
def execGetDcConfiguration (mb : Mbox) (s : State) : Host.Outcome State Fault Refusal :=
  .next (cxlCmd s mb 0x4800 (.getDcConfiguration mb) (runDcConfig mb))
/-- GET_DC_EXTENT_LIST (R324). -/
def execGetDcExtentList (mb : Mbox) (count start : Nat) (s : State) : Host.Outcome State Fault Refusal :=
  .next (cxlCmd s mb 0x4801 (.getDcExtentList mb count start) (runExtentList mb count start))
/-- ADD_DC_RESPONSE (R326). -/
def execAddDcResponse (mb : Mbox) (exts : List (Nat × Nat)) (s : State) : Host.Outcome State Fault Refusal :=
  .next (cxlCmd s mb 0x4802 (.addDcResponse mb exts) (runAddDcResponse mb exts))
/-- RELEASE_DYNAMIC_CAPACITY (R327). -/
def execReleaseDynamicCapacity (mb : Mbox) (exts : List (Nat × Nat)) (s : State) : Host.Outcome State Fault Refusal :=
  .next (cxlCmd s mb 0x4803 (.releaseDynamicCapacity mb exts) (runReleaseDc mb exts))
/-- BACKGROUND_OPERATION_STATUS (R407). -/
def execBackgroundOperationStatus (mb : Mbox) (s : State) : Host.Outcome State Fault Refusal :=
  .next (cxlCmd s mb 0x0002 (.backgroundOperationStatus mb) (runBgStatus mb))
/-- REQUEST_ABORT_BACKGROUND (R407): answered Unsupported. -/
def execRequestAbortBackground (mb : Mbox) (s : State) : Host.Outcome State Fault Refusal :=
  .next (cxlCmd s mb 0x0005 (.requestAbortBackground mb) (fun s => mbUnsupported s mb 0x0005))
/-- GET_LD_INFO (R308). -/
def execGetLdInfo (mb : Mbox) (s : State) : Host.Outcome State Fault Refusal :=
  .next (cxlCmd s mb 0x5400 (.getLdInfo mb) (runLdInfo mb))
/-- GET_DCD_INFO (R318). -/
def execGetDcdInfo (mb : Mbox) (s : State) : Host.Outcome State Fault Refusal :=
  .next (cxlCmd s mb 0x5600 (.getDcdInfo mb) (runDcdInfo mb))
/-- INITIATE_DC_ADD (R325). -/
def execInitiateDcAdd (mb : Mbox) (l : Ld) (part : Fin 4) (off len : Nat) (tag : BitVec 128) (s : State) : Host.Outcome State Fault Refusal :=
  .next (cxlCmd s mb 0x5604 (.initiateDcAdd mb l part off len tag) (runDcAdd mb l part off len tag))
/-- INITIATE_DC_RELEASE (R327). -/
def execInitiateDcRelease (mb : Mbox) (l : Ld) (part : Fin 4) (off len : Nat) (s : State) : Host.Outcome State Fault Refusal :=
  .next (cxlCmd s mb 0x5605 (.initiateDcRelease mb l part off len) (runDcRelease mb l part off len))
/-- SET_LD_ALLOCATIONS (R410, R18): answered Unsupported. -/
def execSetLdAllocations (mb : Mbox) (s : State) : Host.Outcome State Fault Refusal :=
  .next (cxlCmd s mb 0x5402 (.setLdAllocations mb) (fun s => mbUnsupported s mb 0x5402))

end Sys2Proof.Machine
end

