-- ==== Sys2Proof/Machine/LinkCmds.lean ====
section
/-! DEFINITION. The commands of the link port (R372 to R397): lanes and training, packets and responses, send queues and retry, RoCEv2, and
the mailbox commands of connections, windows and memory keys. -/

namespace Sys2Proof.Machine
open Sys2Proof

/-- The `LinkConnClose` commands, and a `Shutdown`, that wait for connections to come to rest. -/
def linkRest (s : State) : State := shutStep (closeSteps s)

/-! ## Lanes (R374, R394) -/

/-- Lanes 0 to 3 that have failed. -/
def failedMain (failed : BitVec 5) : Nat := popcount failed.toNat 4

/-- Whether lane 4 replaces a failed lane. -/
def laneSpareIn (failed : BitVec 5) : Bool := failedMain failed == 1 && !failed.getLsbD 4

/-- The width that a native port trains at: four lanes, or the greatest of 2 and 1 that the good lanes allow; 0 with none. -/
def linkWidth (failed : BitVec 5) : Nat :=
  let good := 5 - popcount failed.toNat 5
  if failedMain failed = 0 ∨ laneSpareIn failed then 4 else if 2 ≤ good then 2 else good

/-- The first failed lane of lanes 0 to 3. -/
def failedLane (failed : BitVec 5) : Nat := ((List.range 4).find? (fun i => failed.getLsbD i)).getD 0

/-- The port goes down; `EV_LINK_DOWN` when it leaves Up other than to retrain, or a retrain (R394). -/
def linkDown (s : State) (c : Ch) (cause : Nat) : State :=
  let was := (s.ch c).link.state == .up || (s.ch c).link.state == .retraining
  let s := modLink s c (fun p => { p with state := .down, width := 0, credits := 0 })
  if was then raiseC s c 0x0701 sevErr (natLe c.val 1 ++ natLe cause 1) else s

/-- The spare lane comes in. -/
def laneSpared (s : State) (c : Ch) (lane : Nat) : State :=
  let s := modLink s c (fun p => { p with spareUsed := true })
  let s := raiseC s c 0x0702 sevInfo (natLe c.val 1 ++ natLe lane 1)
  raiseSpare s c 3 lane

/-- The port runs below four lanes: the channel enters Degraded (R45). -/
def linkDegraded (s : State) (c : Ch) (width : Nat) : State :=
  let s := raiseC s c 0x0703 sevErr (natLe c.val 1 ++ natLe width 1)
  if (s.ch c).state = .ready then setChState s c .degraded 2 else s

/-- LINK_PEER (R375). -/
def linkPeer (s : State) (c : Ch) : Nat := linkReg s c 0xA14

/-- A native port runs at the width that its lanes allow. -/
def linkAtWidth (s : State) (c : Ch) : State :=
  let p := (s.ch c).link
  let w := linkWidth p.laneFailed
  let s := modLink s c (fun p => { p with state := .up, width := w })
  if laneSpareIn p.laneFailed ∧ !p.spareUsed then laneSpared s c (failedLane p.laneFailed)
  else if w < 4 then linkDegraded s c w
  else s

/-- A write of LINK_CFG's ENABLE (R374, R375): training begins, and the port sends its port number, which is its channel's, and
the device's serial number. A port whose reference clock is absent does not train (R499); it takes a new write once the clock is back (DESIGN CHOICE, log 187). -/
def linkEnable (s : State) (c : Ch) (en : Bool) : State :=
  if en then
    let s := modLink s c (fun p => { p with enable := true, fecCorr := 0, fecUncorr := 0 })
    if (s.ch c).link.state = .down ∧ (s.ch c).pace.refclk then
      emit (modLink s c (fun p => { p with state := .training, width := 0, laneFailed := 0, spareUsed := false, peerValid := false }))
        (.train c.val c.val s.build.serial)
    else s
  else linkDown (modLink s c (fun p => { p with enable := false })) c 0

/-- LINK_ENABLE_WRITE (R374): a write of LINK_CFG; one that sets ENABLE is held by a fence (R415). -/
def execLinkEnableWrite (l : Ld) (c : Ch) (v : Word32) (s : State) : Host.Outcome State Fault Refusal :=
  .next (chanWrite s l c (chBar c 0xA00) (fun s =>
    if fenced s c && bit v.toNat 13 && !(s.ch c).link.enable then holdWrite s l (chBar c 0xA00) v else linkEnable s c (bit v.toNat 13)))

/-- LINK_TRAINING_DONE (R374): training ends with the lanes that failed it and what the peer says of itself. A port whose reference clock is absent does
not train (R499). -/
def execLinkTrainingDone (c : Ch) (failed : BitVec 5) (peer : PeerInfo) (s : State) : Host.Outcome State Fault Refusal :=
  .next (if (s.ch c).link.state ≠ .training ∨ !(s.ch c).pace.refclk then s
    else
      let eth := isEthernet s c
      let s := modLink s c (fun p => { p with laneFailed := failed })
      if eth ∧ failedMain failed ≠ 0 ∨ !eth ∧ linkWidth failed = 0 then linkDown (linkErr s c leTrain) c 2
      else
        let s := if eth then modLink s c (fun p => { p with state := .up, width := 4 })
          else linkAtWidth (modLink s c (fun p => { p with peerValid := true, peer })) c
        pump (raiseC s c 0x0700 sevInfo (natLe c.val 1 ++ natLe (s.ch c).link.width 1 ++ natLe (linkPeer s c) 4)) c)

/-- LINK_LANE_FAILURE (R374): a lane reaches the failure threshold. -/
def execLinkLaneFailure (c : Ch) (lane : Fin 5) (s : State) : Host.Outcome State Fault Refusal :=
  .next (
    let p := (s.ch c).link
    if p.state ≠ .up ∨ p.laneFailed.getLsbD lane then s
    else if isEthernet s c then (if lane.val < 4 then linkDown (modLink s c (fun p => { p with laneFailed := p.laneFailed ||| (1#5 <<< lane.val) })) c 1 else s)
    else
      let s := modLink s c (fun p => { p with laneFailed := p.laneFailed ||| (1#5 <<< lane.val) })
      if lane.val = 4 ∧ !p.spareUsed then s else modLink s c (fun p => { p with state := .retraining }))

/-- LINK_RETRAIN_DONE (R374): packets may start again. A port whose reference clock is absent does not train (R499). -/
def execLinkRetrainDone (c : Ch) (s : State) : Host.Outcome State Fault Refusal :=
  .next (if (s.ch c).link.state ≠ .retraining ∨ !(s.ch c).pace.refclk then s
    else if linkWidth (s.ch c).link.laneFailed = 0 then linkDown (linkErr s c leTrain) c 2
    else pump (linkAtWidth s c) c)

/-- LINK_RETRAIN_TIMEOUT (R394): a retrain exceeds 100 µs. -/
def execLinkRetrainTimeout (c : Ch) (s : State) : Host.Outcome State Fault Refusal :=
  .next (if (s.ch c).link.state ≠ .retraining then s else linkDown (linkErr s c leTrain) c 2)

/-- LINK_LOSS_OF_SIGNAL (R394). -/
def execLinkLossOfSignal (c : Ch) (s : State) : Host.Outcome State Fault Refusal :=
  .next (linkDown s c 1)

/-- UNCORRECTABLE_FLIT (R375): the flit and its packets are lost. -/
def execUncorrectableFlit (c : Ch) (s : State) : Host.Outcome State Fault Refusal :=
  .next (if (s.ch c).link.state ≠ .up then s
    else modLink s c (fun p => { p with err := p.err ||| leFec, fecUncorr := if p.fecUncorr = 0xFFFFFFFF then p.fecUncorr else p.fecUncorr + 1 }))

/-- CREDIT_ADVERTISED (R375): `n` receive buffers. -/
def execCreditAdvertised (c : Ch) (n : Nat) (s : State) : Host.Outcome State Fault Refusal :=
  .next (if (s.ch c).link.state ≠ .up ∨ isEthernet s c then s else pump (modLink s c (fun p => { p with credits := p.credits + n })) c)

/-- CONTROL_FLIT (R394). -/
def execControlFlit (c : Ch) (f : PeerFlit) (s : State) : Host.Outcome State Fault Refusal :=
  .next (if (s.ch c).link.state ≠ .up ∨ isEthernet s c then s
    else raiseC s c 0x0705 sevWarn (natLe c.val 1 ++ natLe f.state.toNat 1 ++ natLe (b2n f.supply + 2 * b2n f.connReset) 1))

/-! ## Packets (R379, R380, R382) -/

/-- Whether an operation code is assigned. -/
def opcKnown (o : Nat) : Bool := decide (1 ≤ o ∧ o ≤ 6 ∨ 0x81 ≤ o ∧ o ≤ 0x84)

/-- Corrected symbols are counted in LINK_FEC_CORR, which saturates (R375). -/
def noteCorrected (s : State) (c : Ch) (n : Nat) : State := modLink s c (fun p => { p with fecCorr := BitVec.ofNat 32 (min 0xFFFFFFFF (p.fecCorr.toNat + n)) })

/-- CREDIT. -/
def leCredit : BitVec 6 := 2

/-- PACKET_RECEIVE (R375, R379, R382): a native packet; requests are classified and queued, responses queued. One sent without credit is dropped: no
buffer takes it (log 82). -/
def execPacketReceive (c : Ch) (hdr : BitVec 256) (payload : List Byte) (frame : LinkFrame) (s : State) : Host.Outcome State Fault Refusal :=
  .next (
    let p : Packet := { hdr, payload }
    let h := pktHdr hdr
    let k := connAt s c h.dst
    if (s.ch c).link.state ≠ .up ∨ isEthernet s c then s
    else
      let s := noteCorrected s c frame.corrected
      if !frame.credit then linkErr s c leCredit
      else if frame.crc ≠ packetCrc p ∨ h.ver ≠ 1 ∨ !opcKnown h.opc then linkErr s c leCrc
      else if k.state = .closed ∨ h.src ≠ k.params.peerConn.toNat then linkErr s c leBadConn
      else if 0x81 ≤ h.opc then modLink (noteBadConn s c h.dst) c (fun q => { q with rsp := q.rsp ++ [p] })
      else rxArrive (noteBadConn s c h.dst) c (reqNative false p) (fun d => .native d p))

/-! ## Requests served (R383 to R386) -/

/-- Takes one new native request of an operation code. -/
def serveNative (s : State) (c : Ch) (opc : Nat) (env : Env) : State := linkRest (rxStep s c env (pickNative opc))

/-- WRITE (R384). -/
def execWrite (c : Ch) (env : Env) (s : State) : Host.Outcome State Fault Refusal := .next (serveNative s c 0x01 env)

/-- READ_REQ (R384, R386). -/
def execReadReq (c : Ch) (env : Env) (s : State) : Host.Outcome State Fault Refusal := .next (serveNative s c 0x02 env)

/-- ADD8 (R381). -/
def execAdd8 (c : Ch) (env : Env) (s : State) : Host.Outcome State Fault Refusal := .next (serveNative s c 0x03 env)

/-- ADD16 (R381). -/
def execAdd16 (c : Ch) (env : Env) (s : State) : Host.Outcome State Fault Refusal := .next (serveNative s c 0x04 env)

/-- CAS8 (R381). -/
def execCas8 (c : Ch) (env : Env) (s : State) : Host.Outcome State Fault Refusal := .next (serveNative s c 0x05 env)

/-- CAS16 (R356, R381). -/
def execCas16 (c : Ch) (env : Env) (s : State) : Host.Outcome State Fault Refusal := .next (serveNative s c 0x06 env)

/-- DUPLICATE_LAST (R385). -/
def execDuplicateLast (c : Ch) (env : Env) (s : State) : Host.Outcome State Fault Refusal := .next (linkRest (rxStep s c env pickDup))

/-! ## Send queues (R387, R388) -/

/-- Entries of a send queue. -/
def sqSize (k : Conn) : Nat := 2 ^ k.params.sqLog2.toNat

/-- SQ_TAIL_WRITE (R387): the tail is taken modulo the queue's size (R140). -/
def sqTailSet (s : State) (c : Ch) (conn : Nat) (v : Word32) : State :=
  let k := connAt s c conn
  if connCount s c ≤ conn ∨ k.state = .closed ∨ k.params.sqLog2 = 0 then s
  else modConn s c conn (fun k => { k with sqTail := fld v.toNat 11 0 % sqSize k })

/-- SQ_TAIL_WRITE (R387). -/
def execSqTailWrite (l : Ld) (c : Ch) (conn : Nat) (v : Word32) (s : State) : Host.Outcome State Fault Refusal :=
  .next (chanWrite s l c (chBar c (0x2000 + 4 * conn)) (fun s => sqTailSet s c conn v))

/-- A completion record of a send queue. -/
def sqRecord (phase applied : Bool) (retries prior status lstat tag result : Nat) : List Byte :=
  natLe (at_ 127 1 (b2n phase) + at_ 126 1 (b2n applied) + at_ 122 4 retries + at_ 120 2 prior + at_ 104 16 status + at_ 96 8 lstat
    + at_ 80 16 tag + at_ 0 64 result) 16

/-- HEAD passes the entries that have ended. -/
def sqPop : Nat → Conn → Conn
  | 0, k => k
  | n + 1, k =>
    if k.sqDone.contains k.sqHead then
      sqPop n { k with sqDone := k.sqDone.filter (fun i => i != k.sqHead), sqHead := (k.sqHead + 1) % sqSize k }
    else k

/-- The end of a send-queue entry: its completion record, then its gate add. -/
def sqFinish (s : State) (c : Ch) (conn : Nat) (e : BitVec 512) (idx : Nat) (phase : Bool) (st : St) (lstat prior : Nat) (applied : Bool)
    (retries result : Nat) : State :=
  let k := connAt s c conn
  let d := e.toNat
  let s := t0Write s c (k.params.cplBase.toNat * 4096 + 16 * idx) (sqRecord phase applied (min 15 retries) prior (stCode st) lstat (fld d 425 410) result)
  let s := modConn s c conn (fun k => let k := { k with sqDone := k.sqDone ++ [idx] }
    sqPop k.sqDone.length k)
  if fld d 453 442 = 0xFFF ∨ (bit d 502 ∧ st ≠ .ok) then s else (gateAddTo s c (fld d 457 454) (fld d 453 442) (fld d 441 426)).1

/-- The operation of an entry. -/
def entryOp (d : Nat) : ReqOp :=
  match fld d 511 504 with
  | 1 => .write
  | 2 => .read
  | 3 => .atomic (bit d 503) false
  | _ => .atomic (bit d 503) true

/-- Bytes of an entry's transfer. -/
def entryLen (d : Nat) : Nat :=
  match entryOp d with
  | .atomic w _ => if w then 16 else 8
  | _ => 64 * (fld d 311 298 + 1)

/-- The request that an entry resolves to. -/
def entryReq (d : Nat) : Req :=
  { eth := false, dup := false, conn := 0, psn := 0, first := true, last := true, op := entryOp d, kind := fld d 409 408, id := fld d 407 376,
    addr := fld d 375 336, len := entryLen d, total := entryLen d, payload := [], arg1 := fld d 297 170, arg2 := fld d 169 42, bad := false, deny := false }

/-- The checks of an entry's fields (R387, R388). -/
def entryBad (d : Nat) : Option St :=
  let op := fld d 511 504
  let atomic := 3 ≤ op
  if op = 0 ∨ 4 < op then some .badOpcode
  else if 12 ≤ fld d 457 454 ∨ resv d 41 0 ∨ (atomic ∧ resv d 311 298) ∨ (op ≠ 4 ∧ resv d 169 42) ∨ reqFormBad (entryReq d)
    ∨ !inGeneral (fld d 335 312) (if atomic then 16 else entryLen d) then some .badField
  else none

/-- The payload of an entry's request (R380). -/
def entryPayload (s : State) (c : Ch) (d : Nat) : List Byte :=
  let w := 8 * entryLen d
  match entryOp d with
  | .write => t0Read s c (fld d 335 312) (entryLen d)
  | .read => []
  | .atomic _ cas => natLe (fld d 297 170 % 2 ^ w) 16 ++ (if cas then natLe (fld d 169 42 % 2 ^ w) 16 else [])

/-- The entry at the issue point ends without being sent. -/
def sqRefuse (s : State) (c : Ch) (conn : Nat) (d idx : Nat) (phase : Bool) (st : St) : State :=
  sqFinish s c conn (BitVec.ofNat 512 d) idx phase st 0 0 false 0 0

/-- The issue point moves to the next entry; the phase changes with each pass (R151). -/
def sqAdvance (k : Conn) : Conn :=
  let n := (k.sqIssue + 1) % sqSize k
  { k with sqIssue := n, sqPhase := if n = 0 then !k.sqPhase else k.sqPhase, sqMet := false }

/-- Whether an entry's wait is over (R145). -/
def sqReady (s : State) (c : Ch) (k : Conn) (d : Nat) : Bool :=
  fld d 501 490 == 0xFFF || k.sqMet || gateMet (gateCount s c (fld d 501 490)) (BitVec.ofNat 32 (fld d 489 458))

/-- SEND_QUEUE_ISSUE (R387 to R389). -/
def execSendQueueIssue (c : Ch) (conn : Nat) (s : State) : Host.Outcome State Fault Refusal :=
  .next (
    let k := connAt s c conn
    let d := sqEntry s c k k.sqIssue
    if !isUp s c ∨ k.state = .closed ∨ k.params.sqLog2 = 0 ∨ k.sqIssue = k.sqTail ∨ !sqReady s c k d then s
    else
      let idx := k.sqIssue
      let go := modConn s c conn sqAdvance
      match entryBad d with
      | some e => sqRefuse go c conn d idx k.sqPhase e
      | none =>
        if k.state ≠ .ready then sqRefuse go c conn d idx k.sqPhase .linkConnError
        else if isEthernet s c then sqRefuse go c conn d idx k.sqPhase .modeDenied
        else if issueWaits s c k then s
        else if windowFull k (if entryOp d = .write then packetsFor (entryLen d) else 1) then sqRefuse go c conn d idx k.sqPhase .linkWindowFull
        else
          startOp go c conn (.entry (BitVec.ofNat 512 d) idx k.sqPhase) (opcOf (entryOp d)) (fld d 409 408) (fld d 407 376) (fld d 375 336)
            (if entryOp d = .read then fld d 311 298 else 0) (entryPayload s c d))

/-! ## Responses (R380, R383, R390) -/

/-- The header of an outstanding operation's first packet. -/
def outHdr (o : OutOp) : PktHdr := pktHdr ((o.packets.map (fun p => p.hdr)).headD 0)

/-- Whether a response code answers a request code. -/
def answers (resp opc : Nat) : Bool := if opc = 1 then resp == 0x81 else if opc = 2 then resp == 0x82 else resp == 0x83

/-- Takes an operation out of the outstanding ones. -/
def dropOut (s : State) (c : Ch) (conn : Nat) (o : OutOp) : State :=
  modConn s c conn (fun k => { k with outs := k.outs.filter (fun x => x.first != o.first) })

/-- An outstanding operation ends with its final response; false, and it stays outstanding, while the store of a moved page must wait. -/
def outEnds (s : State) (c : Ch) (conn : Nat) (o : OutOp) (lstat prior word : Nat) : Bool × State :=
  let st := lstatSt (outHdr o).kind lstat
  let t := dropOut s c conn o
  match o.src with
  | .entry e idx phase =>
    let d := e.toNat
    let found : Bool := (outHdr o).opc ≥ 3 && (lstat == 0 || lstat == 0x0B || prior == 1)
    let t := if found then t0Write t c (fld d 335 312) (natLe word 16) else t
    (true, sqFinish t c conn e idx phase st lstat prior (lstat == 0 || prior == 1) o.retries (if found then word % 2 ^ 64 else 0))
  | .move r k => match ringOf r with
    | some q =>
      let y := move3Done t c q k st o.read
      if y.1 then y else (false, (move3Done s c q k st o.read).2)
    | none => (true, t)

/-- An outstanding operation ends with a local status. -/
def outFails (s : State) (c : Ch) (conn : Nat) (o : OutOp) (entrySt moveSt : St) : State :=
  let t := dropOut s c conn o
  match o.src with
  | .entry e idx phase => sqFinish t c conn e idx phase entrySt 0 0 false o.retries 0
  | .move r k => match ringOf r with
    | some q => (move3Done t c q k moveSt []).2
    | none => t

/-- Changes an outstanding operation. -/
def modOut (s : State) (c : Ch) (conn first : Nat) (f : OutOp → OutOp) : State :=
  modConn s c conn (fun k => { k with outs := k.outs.map (fun o => if o.first = first then f o else o) })

/-- The bytes that a read of an operation brings. -/
def outBytes (o : OutOp) : Nat := 64 * ((outHdr o).rlen + 1)

/-- A READ_RESP packet: its payload goes to its offset; the last ends the operation. -/
def readArrives (s : State) (c : Ch) (conn : Nat) (o : OutOp) (h : PktHdr) (payload : List Byte) : Bool × State :=
  if o.read.length < h.addr then (true, s)
  else
    let bs := (o.read.take h.addr ++ payload).take (outBytes o)
    let s := modOut s c conn o.first (fun o => { o with read := bs })
    let s := match o.src with
      | .entry e _ _ => t0Write s c (fld e.toNat 335 312 + h.addr) (bs.drop h.addr)
      | .move _ _ => s
    if !h.last ∨ (h.lstat = 0 ∧ bs.length < outBytes o) then (true, s)
    else outEnds s c conn { o with read := bs } h.lstat h.prior 0

/-- Takes a response; false while it must wait. -/
def respTake (s : State) (c : Ch) (p : Packet) : Bool × State :=
  let h := pktHdr p.hdr
  match (connAt s c h.dst).outs.find? (fun o => o.last == h.psn && answers h.opc (outHdr o).opc) with
  | none => (true, s)
  | some o => if h.opc = 0x82 then readArrives s c h.dst o h p.payload else outEnds s c h.dst o h.lstat h.prior (bnum p.payload 0 16)

/-- Takes the oldest response of an operation code that need not wait. -/
def respScan (c : Ch) (opc : Nat) : List (Packet × Nat) → State → State
  | [], s => s
  | (p, i) :: ps, s =>
    if (pktHdr p.hdr).opc = opc then
      match respTake s c p with
      | (true, t) => modLink t c (fun q => { q with rsp := q.rsp.eraseIdx i })
      | (false, t) => respScan c opc ps t
    else respScan c opc ps s

/-- One response, and what waits for the end of its operation. -/
def respStep (s : State) (c : Ch) (opc : Nat) : State := linkRest (windowsStep (respScan c opc (s.ch c).link.rsp.zipIdx s) c)

/-- ACK (R390). -/
def execAck (c : Ch) (s : State) : Host.Outcome State Fault Refusal := .next (respStep s c 0x81)

/-- READ_RESP (R380). -/
def execReadResp (c : Ch) (s : State) : Host.Outcome State Fault Refusal := .next (respStep s c 0x82)

/-- ATOMIC_RESP (R380). -/
def execAtomicResp (c : Ch) (s : State) : Host.Outcome State Fault Refusal := .next (respStep s c 0x83)

/-! ## Retry (R390, R391) -/

/-- Resends every packet of an operation with RETRY set. -/
def resend (s : State) (c : Ch) (conn : Nat) (o : OutOp) : State :=
  sendPkts (modOut s c conn o.first (fun o => { o with retries := o.retries + 1, waiting := false })) c (o.packets.map asRetry)

/-- NAK_SEQ (R390): operations that hold a PSN at or after the one named retransmit at once, in PSN order. -/
def execNakSeq (c : Ch) (s : State) : Host.Outcome State Fault Refusal :=
  .next (match (s.ch c).link.rsp.zipIdx.find? (fun x => (pktHdr x.1.hdr).opc == 0x84) with
    | none => s
    | some (p, i) =>
      let h := pktHdr p.hdr
      let s := modLink s c (fun q => { q with rsp := q.rsp.eraseIdx i })
      ((connAt s c h.dst).outs.filter (fun o => !psnAhead 32 h.psn o.last)).foldl (fun t o => resend t c h.dst o) s)

/-- RETRY_MAX (R375). -/
def retryMax (s : State) (c : Ch) : Nat := fld (s.ch c).cfg.linkCfg.toNat 21 18

/-- Whether an operation's timer runs: its packets have been handed to the SerDes (R390), and a retransmission that stands before a port that is down or
retraining does not stop it (R375). -/
def timerRuns (s : State) (c : Ch) (conn : Nat) (o : OutOp) : Bool :=
  !o.waiting && ((decide (0 < o.retries) && (s.ch c).link.state != .up) || !(s.ch c).link.txq.any (fun p => (pktHdr p.hdr).src == conn && !(pktHdr p.hdr).resp && o.packets.any (fun x => (pktHdr x.hdr).psn == (pktHdr p.hdr).psn)))

/-- Request packets of a connection that have not started are not sent. -/
def dropSends (s : State) (c : Ch) (conn : Nat) : State :=
  modLink s c (fun p => { p with txq := p.txq.filter (fun x => (pktHdr x.hdr).resp || (pktHdr x.hdr).src != conn) })

/-- A connection enters Error (R391). -/
def connError (s : State) (c : Ch) (conn : Nat) (o : OutOp) : State :=
  let s := modConn (dropSends s c conn) c conn (fun k => { k with state := .error })
  let s := outFails s c conn o .linkTimeout .linkTimeout
  let s := (connAt s c conn).outs.foldl (fun t x => outFails t c conn x .linkConnError .linkTimeout) s
  let s := modHealth s c (fun h => { h with connErrors := h.connErrors + 1 })
  raiseC s c 0x0704 sevErr (natLe c.val 1 ++ natLe conn 2 ++ natLe o.first 4)

/-- OPERATION_TIMER_EXPIRY (R390, R391): the operation of a connection whose first PSN is `psn`. -/
def execOperationTimerExpiry (c : Ch) (conn : Nat) (psn : Word32) (s : State) : Host.Outcome State Fault Refusal :=
  .next (match (connAt s c conn).outs.find? (fun o => o.first == psn.toNat && timerRuns s c conn o) with
    | none => s
    | some o =>
      if o.retries < retryMax s c then modOut s c conn o.first (fun o => { o with waiting := true })
      else linkRest (windowsStep (connError s c conn o) c))

/-- RETRANSMIT_WAIT_END (R390). -/
def execRetransmitWaitEnd (c : Ch) (conn : Nat) (psn : Word32) (s : State) : Host.Outcome State Fault Refusal :=
  .next (match (connAt s c conn).outs.find? (fun o => o.first == psn.toNat && o.waiting) with
    | none => s
    | some o => resend s c conn o)

/-! ## RoCEv2 (R395 to R397) -/

/-- A CNP for an ECN-CE packet. Whether 2^14 steps have passed since the last one of the queue pair is a free value (log 1). -/
def roceCnp (s : State) (c : Ch) (conn : Nat) : State :=
  if !(connAt s c conn).cnpSent then roceSend (modConn s c conn (fun k => { k with cnpSent := true })) c conn .cnp
  else
    let f := drawFree s
    if f.1.getLsbD 0 then roceSend f.2 c conn .cnp else f.2

/-- Whether a packet has the framing of R395: at most one 802.1Q tag, no IPv4 options or IPv6 extension headers, no fragment, UDP port 4791. -/
def ethOk (f : EthFrame) : Bool := decide (f.tags ≤ 1) && !f.options && !f.fragment && f.udp == 4791

/-- Whether a read or atomic comes while 16 of its queue pair are outstanding (R395). -/
def roceOver (s : State) (c : Ch) (p : RocePkt) : Bool :=
  let slow := fun (o : Nat) => o == 0x0C || o == 0x13 || o == 0x14
  slow p.opcode.toNat && decide (16 ≤ ((s.ch c).link.rx.filter (fun x => match x with
    | .roce _ _ y => roceConn y == roceConn p && slow y.opcode.toNat
    | _ => false)).length)

/-- Takes a RoCEv2 packet as far as it goes. One of another framing is none of the port's, and is dropped (DESIGN CHOICE, log 84). -/
def roceTake (s : State) (c : Ch) (p : RocePkt) (env : Env) : State :=
  if !ethOk p.eth then s
  else if !p.icrcOk then linkErr s c leCrc
  else if (connAt s c (roceConn p)).state = .closed then linkErr s c leBadConn
  else
    let s := if p.ce then roceCnp s c (roceConn p) else s
    let o := roceOver s c p
    let s := rxArrive (noteBadConn s c (roceConn p)) c (reqRoce s c false o p) (fun d => .roce d o p)
    linkRest (roceSteps (s.ch c).link.rx.length s c env)

/-- A RoCEv2 packet of one of a row's opcodes arrives and is taken as far as it goes. -/
def roceArrive (s : State) (c : Ch) (ops : Nat → Bool) (p : RocePkt) (env : Env) : State :=
  let t := noteCorrected s c p.corrected
  if (s.ch c).link.state ≠ .up ∨ !isEthernet s c ∨ !ops p.opcode.toNat then s
  else roceTake t c p env

/-- RDMA_WRITE (R397). -/
def execRdmaWrite (c : Ch) (pkt : RocePkt) (env : Env) (s : State) : Host.Outcome State Fault Refusal :=
  .next (roceArrive s c (fun o => [0x06, 0x07, 0x08, 0x0A].contains o) pkt env)

/-- RDMA_READ_REQUEST (R397). -/
def execRdmaReadRequest (c : Ch) (pkt : RocePkt) (env : Env) (s : State) : Host.Outcome State Fault Refusal :=
  .next (roceArrive s c (fun o => o == 0x0C) pkt env)

/-- CMPSWAP (R396). -/
def execCmpswap (c : Ch) (pkt : RocePkt) (env : Env) (s : State) : Host.Outcome State Fault Refusal :=
  .next (roceArrive s c (fun o => o == 0x13) pkt env)

/-- FETCHADD (R396). -/
def execFetchadd (c : Ch) (pkt : RocePkt) (env : Env) (s : State) : Host.Outcome State Fault Refusal :=
  .next (roceArrive s c (fun o => o == 0x14) pkt env)

/-- ROCE_UNSUPPORTED_REQUEST (R395): refused as an invalid request. -/
def execRoceUnsupportedRequest (c : Ch) (pkt : RocePkt) (s : State) : Host.Outcome State Fault Refusal :=
  .next (roceArrive s c (fun o => !roceSupported o) pkt Env.clean)

/-- PAUSE_FRAME (R395): a quanta of 0 lets the port send again. -/
def execPauseFrame (c : Ch) (_prio quanta : Nat) (s : State) : Host.Outcome State Fault Refusal :=
  .next (if (s.ch c).link.state ≠ .up ∨ !isEthernet s c then s
    else if quanta ≠ 0 then modLink s c (fun p => { p with paused := true })
    else
      let held := (s.ch c).link.ethq
      held.foldl (fun t a => emit t (.roce c.val a.1 a.2)) (modLink s c (fun p => { p with paused := false, ethq := [] })))

/-! ## Mailbox commands (R376, R377, R392, R396, R410) -/

/-- A link command on a port: its framing, the port, and a channel that is up. -/
def linkCmd (s : State) (mb : Mbox) (op : Nat) (bg : Bool) (inp : List Byte) (n : Nat) (k : State → Ch → State) : State :=
  mbRun s mb op false bg (inp.length == n) (fun s => mbOnCh s mb op (bnum inp 0 1) (fun c => k s c))

/-- Parameters of `LinkConnSet`. -/
def connParams (inp : List Byte) : ConnParams :=
  { peerConn := BitVec.ofNat 16 (bnum inp 3 2), peerQpn := BitVec.ofNat 24 (bnum inp 5 3), peerAddr := BitVec.ofNat 160 (bnum inp 8 20),
    sport := BitVec.ofNat 16 (bnum inp 28 2), t0Rd := bnum inp 38 1 == 1, t0Wr := bnum inp 39 1 == 1, gateAdd := bnum inp 40 1 == 1,
    sqBase := BitVec.ofNat 12 (bnum inp 41 2), cplBase := BitVec.ofNat 12 (bnum inp 43 2), sqLog2 := BitVec.ofNat 4 (bnum inp 45 1) }

/-- The T0 areas of a connection's send queue. -/
def connAreas (p : ConnParams) : List Range :=
  if p.sqLog2 = 0 then [] else [(p.sqBase.toNat * 4096, 64 * 2 ^ p.sqLog2.toNat), (p.cplBase.toNat * 4096, 16 * 2 ^ p.sqLog2.toNat)]

/-- Whether the fields of `LinkConnSet` are refused. -/
def connBad (s : State) (c : Ch) (inp : List Byte) : Bool :=
  let eth := isEthernet s c
  let p := connParams inp
  let n := bnum inp 45 1
  let others := otherAreas s c none ++ (s.ch c).link.conns.flatMap (fun e => connAreas e.2.params)
  decide (connCount s c ≤ bnum inp 1 2) || (eth && bnum inp 3 2 != 0) || (!eth && (bnum inp 5 3 != 0 || bnum inp 8 20 != 0))
    || decide (1 < bnum inp 38 1 ∨ 1 < bnum inp 39 1 ∨ 1 < bnum inp 40 1 ∨ 4096 ≤ bnum inp 41 2 ∨ 4096 ≤ bnum inp 43 2)
    || !(n == 0 || decide (6 ≤ n ∧ n ≤ 12)) || !(n == 0 || areasOk (connAreas p) others)

/-- The nodes of a connection (R376). -/
def connNodes (conn : Nat) : List NodeKey := (List.range 33).map (fun i => .conn conn i)

/-- `LinkConnSet`. -/
def runLinkConnSet (mb : Mbox) (inp : List Byte) (s : State) : State :=
  linkCmd s mb 0xC060 false inp 46 (fun s c =>
    let conn := bnum inp 1 2
    if !isUp s c then mbSt s mb 0xC060 .channelDown
    else if connBad s c inp then mbSt s mb 0xC060 .badField
    else if (connAt s c conn).state ≠ .closed then mbSt s mb 0xC060 .slotBusy
    else match allocNodes s c (connNodes conn) with
      | none => mbSt s mb 0xC060 .nodesFull
      | some s =>
        let w := 2 ^ psnBits s c
        mbSt (modConn s c conn (fun _ =>
          { Conn.closed with state := .ready, params := connParams inp, sndNext := bnum inp 30 4 % w, rcvNext := bnum inp 34 4 % w })) mb 0xC060 .ok)

/-- LINK_CONN_SET (R376). -/
def execLinkConnSet (mb : Mbox) (inp : List Byte) (s : State) : Host.Outcome State Fault Refusal :=
  .next (mbEnter s mb 0xC060 (.linkConnSet mb inp) (runLinkConnSet mb inp))

/-- A new SND_PSN: every outstanding operation ends with `ST_LINK_CONN_ERROR`, and the connection is Ready. -/
def resetSnd (s : State) (c : Ch) (conn psn : Nat) : State :=
  let s := dropSends s c conn
  let s := (connAt s c conn).outs.foldl (fun t x => outFails t c conn x .linkConnError .linkConnError) s
  modConn s c conn (fun k => { k with state := .ready, sndNext := psn })

/-- A new RCV_PSN: every duplicate record is discarded, and what was being received ends. -/
def resetRcv (s : State) (c : Ch) (conn psn : Nat) : State :=
  let s := endAdm s (match (connAt s c conn).rx with | some o => o.adm | none => none)
  let s := wbWake (leaveLines (modRx s c (fun xs => xs.filter (fun x => rxConn x != conn))) (.rx c conn)) c
  modConn s c conn (fun k => { k with rcvNext := psn, rcvCount := 0, nakSent := false, dups := [], rx := none })

/-- `LinkConnReset`. -/
def runLinkConnReset (mb : Mbox) (inp : List Byte) (s : State) : State :=
  linkCmd s mb 0xC061 false inp 12 (fun s c =>
    let conn := bnum inp 1 2
    let which := bnum inp 3 1
    let w := 2 ^ psnBits s c
    if !isUp s c then mbSt s mb 0xC061 .channelDown
    else if connCount s c ≤ conn ∨ which = 0 ∨ 4 ≤ which then mbSt s mb 0xC061 .badField
    else if (connAt s c conn).state = .closed then mbSt s mb 0xC061 .linkConnError
    else
      let s := if bit which 0 then resetSnd s c conn (bnum inp 4 4 % w) else s
      let s := if bit which 1 then resetRcv s c conn (bnum inp 8 4 % w) else s
      linkRest (windowsStep (mbSt (sendFlit s c false true) mb 0xC061 .ok) c))

/-- LINK_CONN_RESET (R377). -/
def execLinkConnReset (mb : Mbox) (inp : List Byte) (s : State) : Host.Outcome State Fault Refusal :=
  .next (mbEnter s mb 0xC061 (.linkConnReset mb inp) (runLinkConnReset mb inp))

/-- `LinkConnClose`. -/
def runLinkConnClose (mb : Mbox) (inp : List Byte) (s : State) : State :=
  linkCmd s mb 0xC062 true inp 3 (fun s c =>
    let conn := bnum inp 1 2
    if !isUp s c then mbSt s mb 0xC062 .channelDown
    else if connCount s c ≤ conn then mbSt s mb 0xC062 .badField
    else linkRest (mbStart s mb 0xC062 (.connClose c.val conn)))

/-- LINK_CONN_CLOSE (R377). -/
def execLinkConnClose (mb : Mbox) (inp : List Byte) (s : State) : Host.Outcome State Fault Refusal :=
  .next (mbEnter s mb 0xC062 (.linkConnClose mb inp) (runLinkConnClose mb inp))

/-- Codes of connection states, in the order of R377's table. -/
def connCode : ConnState → Nat
  | .closed => 0
  | .ready => 1
  | .error => 2

/-- `LinkConnQuery`. -/
def runLinkConnQuery (mb : Mbox) (inp : List Byte) (s : State) : State :=
  linkCmd s mb 0xC063 false inp 3 (fun s c =>
    let conn := bnum inp 1 2
    let k := connAt s c conn
    if connCount s c ≤ conn then mbSt s mb 0xC063 .badField
    else mbOut s mb 0xC063 .ok (natLe (connCode k.state) 1 ++ natLe k.sndNext 4 ++ natLe (sndUna k) 4 ++ natLe k.rcvNext 4 ++ natLe k.outs.length 2))

/-- LINK_CONN_QUERY (R410). -/
def execLinkConnQuery (mb : Mbox) (inp : List Byte) (s : State) : Host.Outcome State Fault Refusal :=
  .next (mbEnter s mb 0xC063 (.linkConnQuery mb inp) (runLinkConnQuery mb inp))

/-- `LinkWindowSet`. -/
def runLinkWindowSet (mb : Mbox) (inp : List Byte) (s : State) : State :=
  linkCmd s mb 0xC064 false inp 19 (fun s c =>
    let i := bnum inp 1 2
    let w := BitVec.ofNat 128 (bnum inp 3 16)
    let x := windowOf w
    if !isUp s c then mbSt s mb 0xC064 .channelDown
    else if 4096 ≤ i then mbSt s mb 0xC064 .badField
    else if !x.valid then
      windowsStep (modLink s c (fun p => { p with winDue := p.winDue ++ [(i, mb.val, w)] })) c
    else if (windowAt s c i).valid then mbSt s mb 0xC064 .slotBusy
    else match allocNodes s c ((List.range 16).map (fun j => .window j)) with
      | none => mbSt s mb 0xC064 .nodesFull
      | some s => mbSt (setWindow s c i w) mb 0xC064 .ok)

/-- LINK_WINDOW_SET (R392). -/
def execLinkWindowSet (mb : Mbox) (inp : List Byte) (s : State) : Host.Outcome State Fault Refusal :=
  .next (mbEnter s mb 0xC064 (.linkWindowSet mb inp) (runLinkWindowSet mb inp))

/-- `LinkKeySet`. -/
def runLinkKeySet (mb : Mbox) (inp : List Byte) (s : State) : State :=
  linkCmd s mb 0xC065 false inp 11 (fun s c =>
    let i := bnum inp 1 2
    let v := bnum inp 3 8
    if 4096 ≤ i ∨ fld v 40 16 ≠ 0 ∨ fld v 62 61 = 3 then mbSt s mb 0xC065 .badField
    else mbSt (modLink s c (fun p => { p with keys := smSet 0 p.keys i (BitVec.ofNat 64 v) })) mb 0xC065 .ok)

/-- LINK_KEY_SET (R396). -/
def execLinkKeySet (mb : Mbox) (inp : List Byte) (s : State) : Host.Outcome State Fault Refusal :=
  .next (mbEnter s mb 0xC065 (.linkKeySet mb inp) (runLinkKeySet mb inp))

end Sys2Proof.Machine
end

