-- ==== Sys2Proof/Machine/RegCmds.lean ====
section
/-! DEFINITION. Register writes (R8, R312 to R314): every register of BAR0 by its offset, and the writes that a commit's fence has held
(R415). -/

namespace Sys2Proof.Machine
open Sys2Proof

/-- RING_DRAIN_END (R173): HEAD equals TAIL and nothing is active, so the device clears ENABLE; STOP reads 1 until written 0. A `Shutdown` waits
for it (R463). -/
def execRingDrainEnd (c : Ch) (r : Ring) (s : State) : Host.Outcome State Fault Refusal :=
  let g := s.ring c r
  .next (if g.draining && g.head == g.tail && g.wait == .idle then shutStep (modRing s c r (fun g => { g with enable := false, draining := false })) else s)

/-- A write of a ring's register at `o` in its block: BASE and CPL_BASE (ignored while ENABLE or STOP is 1), RING_CFG, RING_TAIL. -/
def ringRegWrite (s : State) (c : Ch) (r : Ring) (o : Nat) (v : Word32) : State :=
  let g := s.ring c r
  let a := BitVec.ofNat 12 (fld v.toNat 23 12)
  if o = 0 then (if g.enable || g.stop then s else modRing s c r (fun g => { g with base := a }))
  else if o = 4 then (if g.enable || g.stop then s else modRing s c r (fun g => { g with cplBase := a }))
  else if o = 8 then ringCfgWrite s c r v
  else if o = 0xC then ringTailSet s c r v
  else s

/-- A write of an aperture's words (R381): BASE and LEN_M1 are ignored while VALID is 1. -/
def apWrite (s : State) (c : Ch) (n : Nat) (hi : Bool) (v : Word32) : State :=
  modLink s c (fun p =>
    let lo := smGet 0 p.apLo n
    let busy := bit lo.toNat 31
    if hi then
      let old := smGet 0 p.apHi n
      { p with apHi := smSet 0 p.apHi n (if busy then (v &&& 0xFFFF0000) ||| (old &&& 0xFFF) else v &&& 0xFFFF0FFF) }
    else { p with apLo := smSet 0 p.apLo n (if busy then (v &&& 0xE0000000) ||| (lo &&& 0xFFF000) else v &&& 0xE0FFF000) })

/-- A write of a word of a channel block on a channel that is up. Reserved offsets, RO and RWL registers ignore it. -/
def chRegWrite (s : State) (c : Ch) (o : Nat) (v : Word32) : State :=
  let n := v.toNat
  if o % 4 ≠ 0 then s
  else if o = 0x404 then paceCtrlWrite s c v
  else if o = 0x510 then srSeedSet s c v
  else if o = 0x540 then (if (s.ch c).rel.enable then s else modCh s c (fun ch => { ch with rel := { ch.rel with base := BitVec.ofNat 12 (fld n 23 12) } }))
  else if o = 0x544 then relCfgWrite s c v
  else if o = 0x54C then
    logProgress (modCh s c (fun ch => { ch with rel := { ch.rel with tail := BitVec.ofNat 16 (fld n 15 0) } })) c
  else if 0x600 ≤ o ∧ o < 0x720 then
    match ringOf ((o - 0x600) / 0x20) with
    | some r => ringRegWrite s c r ((o - 0x600) % 0x20) v
    | none => s
  else if o = 0xA00 then linkEnable s c (bit n 13)
  else if o = 0xA08 then modLink s c (fun p => { p with err := p.err &&& ~~~ (v.setWidth 6) })
  else if 0xA40 ≤ o ∧ o < 0xC40 then apWrite s c ((o - 0xA40) / 8) (o % 8 == 4) v
  else if 0x1000 ≤ o ∧ o < 0x1024 then
    match ringOf ((o - 0x1000) / 4) with
    | some r => ringTailSet s c r v
    | none => s
  else if 0x2000 ≤ o ∧ o < 0x6000 then sqTailSet s c ((o - 0x2000) / 4) v
  else if 0x10000 ≤ o ∧ o < 0x10000 + 4 * numGates then gateSet s c ((o - 0x10000) / 4) v
  else if 0x14000 ≤ o ∧ o < 0x14000 + 4 * numGates then gateAdd s c ((o - 0x14000) / 4) v
  else s

/-- Whether a write of a channel block's word sets an ENABLE that a fence holds (R415). -/
def enables (s : State) (c : Ch) (o : Nat) (v : Word32) : Bool :=
  if 0x600 ≤ o ∧ o < 0x720 ∧ o % 0x20 = 8 then
    match ringOf ((o - 0x600) / 0x20) with
    | some r => bit v.toNat 31 && !(s.ring c r).enable
    | none => false
  else if o = 0xA00 then bit v.toNat 13 && !(s.ch c).link.enable
  else if o = 0x544 then bit v.toNat 31
  else false

/-- A write of a word of the logical-device block (R315, R423). -/
def ldRegWrite (s : State) (l : Ld) (o : Nat) (v : Word32) : State :=
  let setQ (f : EvQueue → EvQueue) : State := modIsland s (fun i => { i with evq := i.evq.set (ldQ l) (f i.evq[ldQ l]) })
  if o = 0x0C then modLd s l (fun d => { d with access := d.access &&& ~~~ (v.setWidth 5) })
  else if o = 0x24 then setQ (fun q => { q with cons := fld v.toNat 8 0 })
  else if o = 0x28 then setQ (fun q => { q with cfg := v &&& 0x80001FFF })
  else s

/-- A write of a word of the MSI-X table (R339, R340): address, data, or the mask bit of a vector. -/
def msixWrite (s : State) (l : Ld) (o : Nat) (v : Word32) : State :=
  let n := o / 16
  let e := smGet (0, 0) (s.ld l).vecs n
  let put (x : BitVec 64 × Word32) : State := modLd s l (fun d => { d with vecs := smSet (0, 0) d.vecs n x })
  if o % 16 = 0 then put (BitVec.ofNat 64 (at_ 32 32 (e.1.toNat / 2 ^ 32) + v.toNat), e.2)
  else if o % 16 = 4 then put (BitVec.ofNat 64 (at_ 32 32 v.toNat + e.1.toNat % 2 ^ 32), e.2)
  else if o % 16 = 8 then put (e.1, v)
  else if bit v.toNat 0 then maskVec s l n else unmaskVec s l n

/-- The function mask of MSI-X: where it falls, a message is sent for every request pending (R340). -/
def funcMaskSet (s : State) (l : Ld) (b : Bool) : State :=
  let s := modLd s l (fun d => { d with funcMask := b })
  if b then s else (s.ld l).pba.foldl (fun t v => msixFlush t l v) s

/-- Where the model's operand of a register write puts a function's configuration space (log 150). -/
def cfgSpace : Nat := 0x1000000

/-! ## Data object exchange (R304; PCI Express and CXL 3.1, PRESUMED, log 150) -/

/-- The protocols of data object exchange: discovery, SPDM, secured SPDM (vendor 0x0001) and CDAT (vendor 0x1E98). IDE_KM travels in secured SPDM (R458). -/
def doeProtocols : List Nat := [at_ 16 8 0 + 1, at_ 16 8 1 + 1, at_ 16 8 2 + 1, at_ 16 8 2 + 0x1E98]

/-- The words of a data object: vendor and type, its length, its contents padded to whole words. -/
def doeObject (header : Nat) (body : List Byte) : List Word32 :=
  [BitVec.ofNat 32 header, BitVec.ofNat 32 (2 + ceilDiv body.length 4)] ++
    (List.range (ceilDiv body.length 4)).map (fun i => BitVec.ofNat 32 (bnum body (4 * i) 4))

/-- The answer to the data object written: discovery and CDAT's Read Entry are answered here; SPDM objects are rows of their own. -/
def doeAnswer (l : Ld) : List Word32 → Option (List Word32)
  | [h, n, x] =>
    if n ≠ 3 then none
    else if h = 1 then
      let i := fld x.toNat 7 0
      if i < doeProtocols.length then some (doeObject 1 (natLe (at_ 24 8 (if i + 1 < doeProtocols.length then i + 1 else 0) + doeProtocols.getD i 0) 4)) else none
    else if h.toNat = at_ 16 8 2 + 0x1E98 ∧ fld x.toNat 15 0 = 0 then
      let e := Config.cdat l.val (fld x.toNat 31 16)
      some (doeObject (at_ 16 8 2 + 0x1E98) (natLe (at_ 16 16 e.2) 4 ++ e.1))
    else none
  | _ => none

/-- A write of the exchange's registers: control (abort, go), the write mailbox, the read mailbox, whose write takes the word that it shows. -/
def doeWrite (s : State) (l : Ld) (o : Nat) (v : Word32) : State :=
  if o = 8 then
    if bit v.toNat 0 then modLd s l (fun d => { d with doeIn := [], doeOut := [], doeErr := false })
    else if !bit v.toNat 31 then s
    else match doeAnswer l (s.ld l).doeIn with
      | some ws => modLd s l (fun d => { d with doeIn := [], doeOut := ws })
      | none => modLd s l (fun d => { d with doeIn := [], doeErr := true })
  else if o = 0x10 then modLd s l (fun d => { d with doeIn := d.doeIn ++ [v] })
  else if o = 0x14 then modLd s l (fun d => { d with doeOut := d.doeOut.drop 1 })
  else s

/-- The exchange's registers as they read: status (error, data object ready) and the read mailbox. -/
def doeRead (s : State) (l : Ld) (o : Nat) : Nat :=
  if o = 0x0C then at_ 2 1 (b2n (s.ld l).doeErr) + at_ 31 1 (b2n (!(s.ld l).doeOut.isEmpty))
  else if o = 0x14 then ((s.ld l).doeOut.headD 0).toNat
  else 0

/-! ## Configuration space (R308, R304) -/


/-- A write of a word of a function's configuration space (R308): Bus Master Enable of the Command register, BAR0 of 4 MiB and BAR2 of 256 MiB (R312), the function mask
of MSI-X, the data object exchange, the enable of each selective IDE stream, and the status of AER, which is cleared by writing ones (PRESUMED, PCI Express, log 150). -/
def cfgWrite (s : State) (l : Ld) (o : Nat) (v : Word32) : State :=
  let low := fun (x : Word64) (bits : Nat) => BitVec.ofNat 64 (at_ 32 32 (fld x.toNat 63 32) + v.toNat / 2 ^ bits * 2 ^ bits)
  let high := fun (x : Word64) => BitVec.ofNat 64 (at_ 32 32 v.toNat + fld x.toNat 31 0)
  if o = 4 then modLd s l (fun d => { d with busMaster := bit v.toNat 2 })
  else if o = 0x10 then modLd s l (fun d => { d with bar0 := low d.bar0 22 })
  else if o = 0x14 then modLd s l (fun d => { d with bar0 := high d.bar0 })
  else if o = 0x18 then modLd s l (fun d => { d with bar2 := low d.bar2 28 })
  else if o = 0x1C then modLd s l (fun d => { d with bar2 := high d.bar2 })
  else if Config.doeCap ≤ o ∧ o < Config.doeCap + 0x18 then doeWrite s l (o - Config.doeCap) v
  else if Config.ideCap ≤ o ∧ o < Config.ideCap + 32 ∧ (o - Config.ideCap) % 8 = 0 then
    let m : BitVec 4 := 1#4 <<< ((o - Config.ideCap) / 8)
    modLd s l (fun d => { d with ideSel := if bit v.toNat 0 then d.ideSel ||| m else d.ideSel &&& ~~~ m })
  else if o = Config.msixCap then funcMaskSet s l (bit v.toNat 30)
  else if o = Config.aerCap + 4 then modLd s l (fun d => { d with aer := d.aer &&& ~~~ v })
  else s

/-- A word of a function's configuration space as it reads: the Command register, the class code and revision (R304), BAR0 (64-bit) and BAR2 (64-bit,
prefetchable), the data object exchange, the status of AER. -/
def cfgRead (s : State) (l : Ld) (o : Nat) : Nat :=
  if o = 4 then at_ 2 1 (b2n (s.ld l).busMaster)
  else if o = 8 then at_ 8 24 classCode + Config.revision.toNat
  else if o = 0x10 then fld (s.ld l).bar0.toNat 31 0 + 4
  else if o = 0x14 then fld (s.ld l).bar0.toNat 63 32
  else if o = 0x18 then fld (s.ld l).bar2.toNat 31 0 + 8 + 4
  else if o = 0x1C then fld (s.ld l).bar2.toNat 63 32
  else if Config.doeCap ≤ o ∧ o < Config.doeCap + 0x18 then doeRead s l (o - Config.doeCap)
  else if Config.ideCap ≤ o ∧ o < Config.ideCap + 32 ∧ (o - Config.ideCap) % 8 = 0 then b2n ((s.ld l).ideSel.getLsbD ((o - Config.ideCap) / 8))
  else if o = Config.msixCap then at_ 30 1 (b2n (s.ld l).funcMask)
  else if o = Config.aerCap + 4 then (s.ld l).aer.toNat
  else 0

/-! ## Component and device registers (R312; CXL 3.1, PRESUMED, log 150) -/

/-- The mailbox of a logical device whose registers hold an offset of the device registers, and the offset within them. -/
def mbRegAt (l : Ld) (o : Nat) : Option (Mbox × Nat) :=
  (List.finRange 2).findSome? (fun k =>
    if Config.mbRegs k.val ≤ o ∧ o < Config.mbRegs k.val + 0x20 + 4096 then some (⟨2 * l.val + k.val, by omega⟩, o - Config.mbRegs k.val) else none)

/-- A write of a device register: the interrupt enable of mailbox control. The doorbell, with the command and payload registers, is what the commands'
own rows stand for. -/
def devWrite (s : State) (l : Ld) (o : Nat) (v : Word32) : State :=
  match mbRegAt l o with
  | some (mb, x) => if x = 4 then modMb s mb (fun m => { m with irqOn := bit v.toNat 2 }) else s
  | none => s

/-- The codes of the CXL return codes. -/
def rcCode : CxlRc → Nat
  | .success => 0
  | .background => 1
  | .invalidInput => 2
  | .unsupported => 3
  | .busy => 6

/-- Whether a mailbox's doorbell reads 1: a command of its register interface is under way or waits. -/
def doorbell (s : State) (mb : Mbox) : Bool :=
  fgRuns s mb.val || s.island.waiting.any (fun w => w.1 == mb.val && (viaOf w.2).isNone)

/-- A word of a mailbox's registers as it reads: its capabilities (payload size 2^12, the background interrupt), control, command and length, status with
return code and extended status (R402, R403), background status, and the payload. -/
def mbRegRead (s : State) (mb : Mbox) (x : Nat) : Nat :=
  let m := s.mb mb
  if x = 0 then at_ 7 4 (mb.val % 2) + at_ 6 1 1 + 12
  else if x = 4 then at_ 2 1 (b2n m.irqOn) + b2n (doorbell s mb)
  else if x = 8 then at_ 16 16 m.out.length + m.opcode.toNat
  else if x = 0xC then m.out.length / 2 ^ 16
  else if x = 0x10 then b2n m.bg.isSome
  else if x = 0x14 then at_ 16 16 m.status.toNat + rcCode m.rc
  else if x = 0x18 then at_ 16 7 (if m.bg.isSome then 0 else 100) + m.bgOp.toNat
  else if x = 0x1C then at_ 16 16 m.bgStatus.toNat
  else bnum m.out (x - 0x20) 4

/-- A word of the device registers as it reads: the mailboxes; the device status, whose event bit 4 says that a dynamic capacity event waits; and the memory
device status, whose bit 1 says that the firmware has halted and bit 4 that the mailboxes are ready. -/
def devRead (s : State) (l : Ld) (o : Nat) : Nat :=
  match mbRegAt l o with
  | some (mb, x) => mbRegRead s mb x
  | none =>
    if o = Config.devStatus then at_ 4 1 (b2n (!(s.ld l).dcLog.isEmpty))
    else if o = Config.memStatus then at_ 1 1 (b2n (s.island.kiln == .recovery)) + at_ 4 1 (b2n (s.island.kiln != .booting))
    else 0

/-- A write of a component register: the masks and severities of the RAS capability. Its status words have nothing to clear, for no rule records an error
there; decoders are committed by a row of their own (R323). -/
def compWrite (s : State) (l : Ld) (o : Nat) (v : Word32) : State :=
  match [(4, 0x1CFFF), (8, 0x1CFFF), (0x10, 0x7F)].find? (fun k => Config.rasCap + k.1 == o) with
  | some (k, bits) => modLd s l (fun d => { d with ras := smSet 0 d.ras k (v &&& bits) })
  | none => s

/-- The code of interleave ways in a decoder's control word: powers of two from 0 on, and 3, 6 and 12 ways from 8 on. -/
def waysCode (ways : Nat) : Nat := if ways % 3 = 0 then 8 + Nat.log2 (ways / 3) else Nat.log2 ways

/-- The control word of decoder `i`: granularity, ways, committed, error not committed (R323). -/
def hdmControl (s : State) (l : Ld) (i : Fin 8) : Nat :=
  (match (s.ld l).hdm[i] with
    | some d => at_ 0 4 (Nat.log2 d.gran - 8) + at_ 4 4 (waysCode d.ways) + at_ 9 2 3
    | none => 0) + at_ 11 1 (b2n ((s.ld l).hdmErr.getLsbD i.val))

/-- A word of the HDM decoder capability as it reads: eight decoders that interleave on every address bit of R323's granularities and by every number of ways,
and each decoder's base, size, control and skip, 0 while it is not committed. -/
def hdmRead (s : State) (l : Ld) (o : Nat) : Nat :=
  if o = 0 then at_ 8 2 3 + at_ 11 2 3 + 4
  else if o = 4 then at_ 1 1 1
  else if h : 0x10 ≤ o ∧ (o - 0x10) / 0x20 < 8 then
    let i : Fin 8 := ⟨(o - 0x10) / 0x20, h.2⟩
    let x := (o - 0x10) % 0x20
    let of (f : HdmDecoder → Nat) := match (s.ld l).hdm[i] with | some d => f d | none => 0
    if x = 0 then of (fun d => fld d.base 31 0)
    else if x = 4 then of (fun d => fld d.base 63 32)
    else if x = 8 then of (fun d => fld d.size 31 0)
    else if x = 0xC then of (fun d => fld d.size 63 32)
    else if x = 0x10 then hdmControl s l i
    else if x = 0x14 then of (fun d => fld d.skip 31 0)
    else if x = 0x18 then of (fun d => fld d.skip 63 32)
    else 0
  else 0

/-- A word of the component registers as it reads: the RAS capability, 24 bytes in use, and the HDM decoder capability. -/
def compRead (s : State) (l : Ld) (o : Nat) : Nat :=
  if Config.rasCap ≤ o ∧ o < Config.rasCap + 0x18 then (smGet 0 (s.ld l).ras (o - Config.rasCap)).toNat
  else if Config.hdmCap ≤ o ∧ o < Config.hdmCap + 0x110 then hdmRead s l (o - Config.hdmCap)
  else 0

/-- A word of the MSI-X table as it reads (R340). -/
def msixRead (s : State) (l : Ld) (o : Nat) : Nat :=
  let e := smGet (0, 0) (s.ld l).vecs (o / 16)
  if o % 16 = 0 then fld e.1.toNat 31 0
  else if o % 16 = 4 then fld e.1.toNat 63 32
  else if o % 16 = 8 then e.2.toNat
  else b2n (!(s.ld l).unmasked.contains (o / 16))

/-- A word of the MSI-X pending-bit array as it reads. -/
def pbaRead (s : State) (l : Ld) (o : Nat) : Nat := ((List.range 32).map (fun i => at_ i 1 (b2n ((s.ld l).pba.contains (8 * o + i))))).sum

/-- An aligned word of BAR0 as it reads (R312); none: poison (R21). No row of the table is a register read (log 122). -/
def bar0Read (s : State) (l : Ld) (o : Nat) : Option Nat :=
  match chBlockOf o with
  | some (c, x) => chRegRead s l c x
  | none => some (
    if o < 0x10000 then compRead s l o
    else if o < ldBlock then devRead s l (o - 0x10000)
    else if o < ldBlock + 0x10000 then ldReg s l (o - ldBlock)
    else if o < ldBlock + 0x18000 then msixRead s l (o - (ldBlock + 0x10000))
    else if o < ldBlock + 0x18100 then pbaRead s l (o - (ldBlock + 0x18000))
    else 0)

/-- A write of an aligned word at a BAR0 offset, or at `cfgSpace` and above in the configuration space. -/
def wordWrite (s : State) (l : Ld) (off : Nat) (v : Word32) : State :=
  if cfgSpace ≤ off then cfgWrite s l (off - cfgSpace) v
  else match chBlockOf off with
    | some (c, o) => chanWrite s l c off (fun s => if fenced s c && enables s c o v then holdWrite s l off v else chRegWrite s c o v)
    | none =>
      if off < 0x10000 then compWrite s l off v
      else if off < ldBlock then devWrite s l (off - 0x10000) v
      else if ldBlock ≤ off ∧ off < ldBlock + 0x10000 then ldRegWrite s l (off - ldBlock) v
      else if ldBlock + 0x10000 ≤ off ∧ off < ldBlock + 0x18000 then msixWrite s l (off - (ldBlock + 0x10000)) v
      else s

/-- REGISTER_WRITE (R8, R312): a naturally aligned write of 4 bytes, or of 8 bytes, which covers two registers, the lower address first. R21
does not say whether an 8-byte write to a channel that is down records one `EV_CHANNEL_DOWN_ACCESS` or one for each register: the model records one
for each register that it covers (DESIGN CHOICE, log 161). -/
def execRegisterWrite (l : Ld) (off : Nat) (v : RegData) (s : State) : Host.Outcome State Fault Refusal :=
  .next (match v with
    | .word v => if !ioUp s l ∨ off % 4 ≠ 0 then s else wordWrite s l off v
    | .pair v w => if !ioUp s l ∨ off % 8 ≠ 0 then s else wordWrite (wordWrite s l off v) l (off + 4) w)

/-- The writes that a commit's fence has held take effect after its broadcast (R415). -/
def applyHeld (s : State) : State :=
  let hs := s.island.heldRegs
  hs.foldl (fun t w => match chBlockOf w.off with
    | some (c, o) => if isUp t c then chRegWrite t c o w.v else t
    | none => t) (modIsland s (fun i => { i with heldRegs := [] }))

end Sys2Proof.Machine
end

