-- ==== Sys2Proof/Machine/SecCmds.lean ====
section
/-! DEFINITION. Security (R432 to R460): owner keys and the key log, firmware images, SPDM, attestation, and IDE. -/

namespace Sys2Proof.Machine
open Sys2Proof

/-! ## The key log (R447) -/

/-- Records that a half of the key log holds. -/
def keyLogHalf : Nat := 7040

/-- The active half. -/
def klActive (l : KeyLog) : List KeyLogRec := if l.active then l.half1 else l.half0

/-- Bytes 0x00 to 0x1B of a record. -/
def klBytes (r : KeyLogRec) : List Byte :=
  [r.type, 0] ++ natLe r.slot.toNat 2 ++ natLe r.epoch.toNat 4 ++ natLe r.chans.toNat 2 ++ [0, 0] ++ natLe r.rseq 8 ++ zeros 8

/-- The records of a half up to the first whose CHECK fails (R447). -/
def klRead (rs : List KeyLogRec) : List KeyLogRec := rs.takeWhile (fun r => r.check == crc32c (klBytes r))

/-- RSEQ of a half's SEAL, 0 when it has none. -/
def klSeal (rs : List KeyLogRec) : Nat := ((klRead rs).find? (fun r => r.type == 5)).elim 0 (fun r => r.rseq)

/-- The half that the log's header names: a copy of the header whose CRC holds says it; when neither can be read, the half whose SEAL carries the higher RSEQ. -/
def klHalf (l : KeyLog) : Bool :=
  match [l.hdr0, l.hdr1].find? (fun h => h.crc == KeyHdr.sum h.half h.seq) with
  | some h => h.half
  | none => decide (klSeal l.half0 < klSeal l.half1)

/-- The key log as a VAON start finds it. -/
def klStart (l : KeyLog) : KeyLog := { l with active := klHalf l }

/-- Appends a record to the active half. -/
def klPut (l : KeyLog) (r : KeyLogRec) : KeyLog :=
  let r := { r with rseq := l.rseq }
  let r := { r with check := crc32c (klBytes r) }
  if l.active then { l with half1 := l.half1 ++ [r], rseq := l.rseq + 1 } else { l with half0 := l.half0 ++ [r], rseq := l.rseq + 1 }

/-- Bits of channels. -/
def chBits (cs : List Nat) : BitVec 16 := BitVec.ofNat 16 ((cs.map (fun c => 2 ^ c)).sum)

/-- A compaction: one SUMMARY for each slot with a LAST_EPOCH, then SEAL, in the other half, which the header then names. -/
def klCompact (l : KeyLog) (slots : SMap KeySlot) : KeyLog :=
  let l := if l.active then { l with active := false, half0 := [] } else { l with active := true, half1 := [] }
  let l := slots.foldl (fun l e => if e.2.lastEpoch = 0 then l else
    klPut l { type := 4, slot := BitVec.ofNat 16 e.1, epoch := e.2.lastEpoch, chans := if e.2.state = .purging then chBits e.2.purge else 0, rseq := 0 }) l
  let h := KeyHdr.of l.active (l.hdr0.seq + 1)
  { klPut l { type := 5, slot := 0, epoch := 0, chans := 0, rseq := 0 } with hdr0 := h, hdr1 := h }

/-- Appends a record to the key log, after a compaction when the active half is full. -/
def keyLogAppend (s : State) (r : KeyLogRec) : State :=
  modIsland s (fun i =>
    let l := if (klActive i.keyLog).length < keyLogHalf then i.keyLog else klCompact i.keyLog i.keySlots
    { i with keyLog := klPut l r })

/-! ## Owner keys (R442 to R451) -/

/-- Owner slots of the device. -/
def keySlotCount : Nat := 4096

/-- What a wrapped key holds (R445). -/
structure WrapPlain where
  key1   : BitVec 128
  key2   : BitVec 128
  slot   : Nat
  flags  : Nat
  serial : Nat
  epoch  : Nat
  deriving DecidableEq, Repr

/-- Reads the plaintext of a wrapped key. -/
def wrapPlain (bs : List Byte) : WrapPlain :=
  { key1 := blkOf (bsub bs 0 16), key2 := blkOf (bsub bs 16 16), slot := bnum bs 0x20 2, flags := bnum bs 0x22 2, serial := bnum bs 0x24 8,
    epoch := bnum bs 0x2C 4 }

/-- Step 6 of R446. -/
def wrapBad (s : State) (slot : Nat) (p : WrapPlain) : Bool :=
  p.slot != slot || p.serial != s.build.serial.toNat || p.flags != 0 || p.key1 == p.key2 || decide (p.epoch ≤ (keySlot s slot).lastEpoch.toNat)

/-- `KeyLoad`. -/
def runKeyLoad (mb : Mbox) (inp : List Byte) (s : State) : State :=
  mbRun s mb 0xC070 false false (inp.length == 147) (fun s =>
    let slot := bnum inp 0 2
    let k := keySlot s slot
    if keySlotCount ≤ slot then mbSt s mb 0xC070 .badField
    else if !mbNamesKey s mb slot then mbSt s mb 0xC070 .accessDenied
    else if k.state = .failed then mbSt s mb 0xC070 .keysFull
    else if k.state ≠ .empty then mbSt s mb 0xC070 .slotBusy
    else match sm2Decrypt s.build.wrapKey (inp.drop 2) with
      | none => mbSt s mb 0xC070 .sigInvalid
      | some bs =>
        let p := wrapPlain bs
        if wrapBad s slot p then mbSt s mb 0xC070 .badField
        else
          let s := keyLogAppend s { type := 1, slot := BitVec.ofNat 16 slot, epoch := BitVec.ofNat 32 p.epoch, chans := 0, rseq := 0 }
          let s := modKey s slot (fun k => { k with state := .loaded, key1 := p.key1, key2 := p.key2, lastEpoch := BitVec.ofNat 32 p.epoch })
          mbSt s mb 0xC070 .ok)

/-- KEY_LOAD (R446). -/
def execKeyLoad (mb : Mbox) (inp : List Byte) (s : State) : Host.Outcome State Fault Refusal :=
  .next (mbEnter s mb 0xC070 (.keyLoad mb inp) (runKeyLoad mb inp))

/-- The channels whose flash is formatted. -/
def formattedChs (s : State) : List Nat := (allCh.filter (fun c => (s.marl c).flash.formatted)).map (fun c => c.val)

/-- A purge that is complete on every channel named: the purge-done record, once the flash works, and the slot becomes Empty. -/
def purgeDone (s : State) (slot : Nat) : State :=
  if (keySlot s slot).state = .purging ∧ (keySlot s slot).purge.isEmpty ∧ s.island.supply.io then
    modKey (keyLogAppend s { type := 3, slot := BitVec.ofNat 16 slot, epoch := 0, chans := 0, rseq := 0 }) slot (fun k => { k with state := .empty })
  else s

/-- Steps 3 to 5 of R450, once every present channel has acknowledged or is isolated. -/
def destroyFinish (s : State) (mb : Mbox) (slot isolated : Nat) : State :=
  let cs := formattedChs s
  let s := keyLogAppend s { type := 2, slot := BitVec.ofNat 16 slot, epoch := 0, chans := chBits cs, rseq := 0 }
  let s := modKey s slot (fun k => { k with state := .purging, key1 := 0, key2 := 0, purge := cs })
  let s := raiseD s 0x0109 sevInfo (natLe slot 2 ++ natLe isolated 2)
  purgeDone (mbSt (modIsland s (fun i => { i with destroy := none })) mb 0xC071 .ok) slot

/-- `KeyDestroy`; `answered`: the channels that acknowledge. The slot stays Loaded until step 5 of R450, and refuses new key-cache fills meanwhile. -/
def runKeyDestroy (mb : Mbox) (inp : List Byte) (answered : List Ch) (s : State) : State :=
  mbRun s mb 0xC071 true false (inp.length == 2) (fun s =>
    let slot := bnum inp 0 2
    if keySlotCount ≤ slot then mbSt s mb 0xC071 .badField
    else if !mbNamesKey s mb slot then mbSt s mb 0xC071 .accessDenied
    else match (keySlot s slot).state with
      | .purging => mbSt s mb 0xC071 .ok
      | .empty => mbSt s mb 0xC071 .keyEmpty
      | .failed => mbSt s mb 0xC071 .keyEmpty
      | .loaded =>
        let ps := presentChs s
        let wait := (ps.filter (fun c => !answered.contains c)).map (fun c => c.val)
        let s := modIsland s (fun i => { i with destroy := some { mb := mb.val, slot, wait, isolated := 0 } })
        let s := forCh s (ps.filter (fun c => answered.contains c)) (fun t c => purgeCache t c slot)
        if wait.isEmpty then destroyFinish s mb slot 0 else s)

/-- KEY_DESTROY (R430, R450). -/
def execKeyDestroy (mb : Mbox) (inp : List Byte) (answered : List Ch) (s : State) : Host.Outcome State Fault Refusal :=
  .next (mbEnter s mb 0xC071 (.keyDestroy mb inp answered) (runKeyDestroy mb inp answered))

/-- A channel has not acknowledged a key purge in time: it is isolated, and the command goes on (R430). -/
def purgeTimeout (s : State) (c : Ch) (slot : Nat) : State :=
  match s.island.destroy with
  | none => s
  | some d =>
    if d.slot ≠ slot ∨ !d.wait.contains c.val then s
    else
      let s := purgeCache (isolateCh s c 6) c slot
      let d := { d with wait := d.wait.filter (fun x => x != c.val), isolated := d.isolated + 1 }
      if h : d.mb < 33 then
        if d.wait.isEmpty then destroyFinish s ⟨d.mb, h⟩ slot d.isolated else modIsland s (fun i => { i with destroy := some d })
      else s

/-- Codes of key slot states (R442). -/
def keyCode : KeyState → Nat
  | .empty => 0
  | .loaded => 1
  | .purging => 2
  | .failed => 3

/-- `KeyQuery`. -/
def runKeyQuery (mb : Mbox) (inp : List Byte) (s : State) : State :=
  mbRun s mb 0xC072 false false (inp.length == 2) (fun s =>
    let slot := bnum inp 0 2
    if keySlotCount ≤ slot then mbSt s mb 0xC072 .badField
    else if !mbNamesKey s mb slot then mbSt s mb 0xC072 .accessDenied
    else mbOut s mb 0xC072 .ok (natLe (keyCode (keySlot s slot).state) 1))

/-- KEY_QUERY (R442). -/
def execKeyQuery (mb : Mbox) (inp : List Byte) (s : State) : Host.Outcome State Fault Refusal :=
  .next (mbEnter s mb 0xC072 (.keyQuery mb inp) (runKeyQuery mb inp))

/-- A channel's Marl purges a destroyed owner (R300), and the slot becomes Empty after the last channel (R450). -/
def ownerPurgeStep (s : State) (c : Ch) (slot : Nat) : State :=
  if !(keySlot s slot).purge.contains c.val then s
  else purgeDone (modKey (purgeOwner s c slot) slot (fun k => { k with purge := k.purge.filter (fun x => x != c.val) })) slot

/-- OWNER_PURGE (R300). A channel that is not up purges at its next start (R451). -/
def execOwnerPurge (c : Ch) (slot : Nat) (s : State) : Host.Outcome State Fault Refusal :=
  .next (if isUp s c then ownerPurgeStep s c slot else s)

/-- KEY_STORAGE_CHECK (R448): the Loaded slots that fail, with those that have been found to no longer pass. -/
def execKeyStorageCheck (failed : List Nat) (s : State) : Host.Outcome State Fault Refusal :=
  .next ((failed ++ s.island.keyRot).foldl keyFails s)

/-! ## Firmware images (R433 to R438) -/

/-- Bytes of an image copy's area. -/
def fwArea : Nat := 0x400000

/-- Bytes of an image copy. -/
def fwBytes (x : FwCopy) (o n : Nat) : List Byte := (List.range n).map (fun i => smGet 0xFF x.bytes (o + i))

/-- BODY_LEN. -/
def fwBodyLen (x : FwCopy) : Nat := leNat (fwBytes x 0xC 4)

/-- Step 1 of R434: MAGIC, HDR_VER, reserved fields and BODY_LEN. -/
def fwFormed (x : FwCopy) : Bool :=
  beNat (fwBytes x 0 4) == 0x455A4B4E && leNat (fwBytes x 4 2) == 1 && decide (leNat (fwBytes x 6 2) < 2)
    && decide (1 ≤ fwBodyLen x ∧ fwBodyLen x ≤ 4193792) && (fwBytes x 0x10 16).all (fun b => b == 0) && (fwBytes x 0xC0 320).all (fun b => b == 0)

/-- The checks of R434. -/
def fwCheck (s : State) (x : FwCopy) : Option St :=
  if !fwFormed x then some .noImage
  else if beNat (sm3 (fwBytes x 0x40 64)) ≠ s.build.rootHash.toNat ∨ !sm2Verify (fwBytes x 0x40 64) (fwBytes x 0 0x80) (fwBytes x 0x80 64)
    ∨ sm3 (fwBytes x 0x200 (fwBodyLen x)) ≠ fwBytes x 0x20 32 then some .sigInvalid
  else if leNat (fwBytes x 0xB 1) < s.island.fw.minSvn.toNat then some .rollback
  else none

/-- Changes the firmware state. -/
def modFw (s : State) (f : Firmware → Firmware) : State := modIsland s (fun i => { i with fw := f i.fw })

/-- Programs a chunk; one at offset 0 first erases the copy and begins a transfer (R436). -/
def fwProgram (x : FwCopy) (o : Nat) (bs : List Byte) : FwCopy :=
  let x : FwCopy := if o = 0 then { bytes := [], pages := [], begun := true } else x
  let ps := if bs.isEmpty then [] else (List.range ((o + bs.length - 1) / 4096 + 1 - o / 4096)).map (fun i => o / 4096 + i)
  { x with
    bytes := bs.zipIdx.foldl (fun m b => smSet 0xFF m (o + b.2) b.1) x.bytes
    pages := x.pages ++ ps.filter (fun p => !x.pages.contains p) }

/-- Whether every 4 KiB page from 0 to the end of the body has been written. -/
def fwComplete (x : FwCopy) : Bool := x.begun && (List.range (ceilDiv (0x200 + fwBodyLen x) 4096)).all (fun p => x.pages.contains p)

/-- The copy that is not running. -/
def fwIdle (f : Firmware) : FwCopy := if f.runB then f.copyA else f.copyB

/-- Whether a mailbox may issue firmware commands. -/
def fwFrom (s : State) (mb : Mbox) : Bool := mbFm s mb

/-- `FirmwareUpdate`. -/
def runFirmwareUpdate (mb : Mbox) (inp : List Byte) (s : State) : State :=
  mbRun s mb 0xC080 false false (decide (4 ≤ inp.length ∧ inp.length ≤ 4092)) (fun s =>
    let o := bnum inp 0 4
    let bs := inp.drop 4
    if !fwFrom s mb then mbSt s mb 0xC080 .accessDenied
    else if fwArea < o + bs.length then mbSt s mb 0xC080 .outOfRange
    else mbSt (modFw s (fun f => if f.runB then { f with copyA := fwProgram f.copyA o bs } else { f with copyB := fwProgram f.copyB o bs })) mb 0xC080 .ok)

/-- FIRMWARE_UPDATE (R436). -/
def execFirmwareUpdate (mb : Mbox) (inp : List Byte) (s : State) : Host.Outcome State Fault Refusal :=
  .next (mbEnter s mb 0xC080 (.firmwareUpdate mb inp) (runFirmwareUpdate mb inp))

/-- The island firmware restarts through Booting (R437). -/
def fwRestart (s : State) (raise : Bool) : State :=
  modFw (modIsland s (fun i => { i with kiln := .booting, cause := 0 })) (fun f => { f with raiseSvn := raise })

/-- Whether an image asks to raise MIN_SVN. -/
def fwRaises (x : FwCopy) : Bool := bit (leNat (fwBytes x 6 2)) 0

/-- `FirmwareActivate`: after the checks, PREFER names the copy and Kiln restarts; the command ends when the new firmware runs. -/
def runFirmwareActivate (mb : Mbox) (inp : List Byte) (s : State) : State :=
  mbRun s mb 0xC081 false true inp.isEmpty (fun s =>
    let x := fwIdle s.island.fw
    if !fwFrom s mb then mbSt s mb 0xC081 .accessDenied
    else if !fwComplete x then mbSt s mb 0xC081 .noImage
    else match fwCheck s x with
      | some e => mbSt s mb 0xC081 e
      | none =>
        let s := mbStart s mb 0xC081 .fwActivate
        let s := modFw s (fun f => { f with preferB := !f.runB, copyA := { f.copyA with begun := false }, copyB := { f.copyB with begun := false } })
        fwRestart s (fwRaises x))

/-- FIRMWARE_ACTIVATE (R437). -/
def execFirmwareActivate (mb : Mbox) (inp : List Byte) (s : State) : Host.Outcome State Fault Refusal :=
  .next (mbEnter s mb 0xC081 (.firmwareActivate mb inp) (runFirmwareActivate mb inp))

/-- `FirmwareRecover`: the chunk with LAST closes the transfer; an image that passes is written to copy A. -/
def runFirmwareRecover (mb : Mbox) (inp : List Byte) (s : State) : State :=
  mbRun s mb 0xC082 true false (decide (5 ≤ inp.length ∧ inp.length ≤ 4093)) (fun s =>
    let o := bnum inp 0 4
    let last := bnum inp 4 1
    let bs := inp.drop 5
    if !(mb == sidebandMb || mb == 0) then mbSt s mb 0xC082 .accessDenied
    else if 1 < last ∨ fwArea < o + bs.length then mbSt s mb 0xC082 .badField
    else
      let x := fwProgram s.island.fw.recovery o bs
      if last = 0 then mbSt (modFw s (fun f => { f with recovery := x })) mb 0xC082 .ok
      else
        let s := modFw s (fun f => { f with recovery := .empty })
        if !fwComplete x then mbSt s mb 0xC082 .noImage
        else match fwCheck s x with
          | some e => mbSt s mb 0xC082 e
          | none =>
            let s := modFw s (fun f => { f with copyA := { x with begun := false }, preferB := false })
            fwRestart (mbSt s mb 0xC082 .ok) (fwRaises x))

/-- FIRMWARE_RECOVER (R438). -/
def execFirmwareRecover (mb : Mbox) (inp : List Byte) (s : State) : Host.Outcome State Fault Refusal :=
  .next (mbEnter s mb 0xC082 (.firmwareRecover mb inp) (runFirmwareRecover mb inp))

/-- A copy is loaded and measured (R435, R441). -/
def fwLoad (s : State) (x : FwCopy) (b : Bool) : State :=
  modFw s (fun f =>
    let svn := leNat (fwBytes x 0xB 1)
    { f with runB := b, version := BitVec.ofNat 32 (leNat (fwBytes x 8 3)), svn := BitVec.ofNat 16 svn,
             hash := sm3 (fwBytes x 0 (0x200 + fwBodyLen x)), svnBytes := fwBytes x 8 3 ++ natLe svn 1 ++ natLe f.minSvn.toNat 1 })

/-- The copy that the boot ROM loads, PREFER first (R435); without VAON_IO it reads none (R494). -/
def fwChoose (s : State) : Option Bool :=
  let p := s.island.fw.preferB
  let ok (b : Bool) : Bool := s.island.supply.io && (fwCheck s (if b then s.island.fw.copyB else s.island.fw.copyA)).isNone
  if ok p then some p else if ok (!p) then some (!p) else none

/-- CAUSE of Recovery when neither copy passes (R435). -/
def bootCause (s : State) : Nat := if !s.island.supply.io then 1 else if fwFormed s.island.fw.copyA ∨ fwFormed s.island.fw.copyB then 2 else 1

/-! ## SPDM (R440, R441) -/

/-- An SPDM answer. -/
def spdmSend (s : State) (ep : Endpoint) (bs : List Byte) : State := emit s (.mctp ep 0x05 bs)

/-- An SPDM error: version 1.2, ERROR, the code, 0 (log 39). -/
def spdmErr (s : State) (ep : Endpoint) (code : Byte) : State := spdmSend s ep [0x12, 0x7F, code, 0]

/-- UnsupportedRequest. -/
def seUnsupported : Byte := 0x07
/-- Busy. -/
def seBusy : Byte := 0x03
/-- InvalidRequest. -/
def seInvalid : Byte := 0x01
/-- InvalidSession. -/
def seSession : Byte := 0x02
/-- A free value of 32 bytes. -/
def free32 (s : State) : List Byte × State :=
  let a := drawFree s
  let b := drawFree a.2
  let c := drawFree b.2
  let d := drawFree c.2
  ([a.1, b.1, c.1, d.1].flatMap (fun w => natLe w.toNat 8), d.2)

/-- The offsets of the RWL words of the logical-device block, and of a channel block, ascending. -/
def ldRwlOffs : List Nat := (List.range 0x204).filter (fun o => rwlMaskLd o != 0)
/-- Those of a channel block. -/
def chRwlOffs : List Nat := [0x500, 0x520, 0x530, 0x800, 0x810, 0x814, 0x818, 0x81C, 0x900, 0xA00]

/-- Every RWL word in force: the blocks of the logical devices in their order, then the channel blocks (R441). -/
def rwlWords (s : State) : List Word32 :=
  let ls := if s.build.mld then allLds else [0]
  ls.flatMap (fun l => ldRwlOffs.map (fun o => rwlGet s l (ldBlock + o))) ++
    allCh.flatMap (fun c => chRwlOffs.map (fun o => cfgGet (s.ch c).cfg o))

/-- A measurement block's digest (R441). Without a board record block 4 is over no bytes (DESIGN CHOICE, log 16). -/
def measurement (s : State) (i : Nat) : List Byte :=
  match i with
  | 1 => Config.bootRomDigest
  | 2 => s.island.fw.hash
  | 3 => sm3 s.island.fw.svnBytes
  | 4 => sm3 (if s.build.board = 0 then [] else
      Config.boardRecord ([s.build.board.toNat, s.build.powerW.toNat, s.build.cascade.toNat] ++ s.build.targets.map (fun x => x.toNat)))
  | _ => sm3 (natLe s.island.commitGen.toNat 4 ++ (rwlWords s).flatMap (fun w => natLe w.toNat 4))

/-- A block in DMTF measurement form (DSP0274; the value types are PRESUMED, log 39): index, specification 1, size, type of the value as a digest, size, value. -/
def measBlock (s : State) (i : Nat) : List Byte :=
  let type := [0, 0, 1, 7, 2, 3].getD i 3
  [BitVec.ofNat 8 i, 1] ++ natLe 35 2 ++ [BitVec.ofNat 8 type] ++ natLe 32 2 ++ measurement s i

/-! ## Certificates and signatures (R439, R440; DSP0274, PRESUMED, log 39) -/

/-- The certificates in the flash (R439): root CA, device CA, the device's with the identity key, and the wrap certificate. -/
def certificates (b : Build) : List (List Byte) :=
  [Config.x509 0 0 [], Config.x509 1 0 [], Config.x509 2 b.serial.toNat (sm2Pub b.idKey), Config.x509 3 b.serial.toNat (sm2Pub b.wrapKey)]

/-- The certificate chain of a slot: its length, the digest of the root certificate, and the certificates. Slot 1 ends with the wrap certificate. -/
def certChain (b : Build) (slot : Nat) : List Byte :=
  let cs := (certificates b).take (if slot = 0 then 3 else 4)
  natLe (36 + cs.flatten.length) 2 ++ [0, 0] ++ sm3 (cs.getD 0 []) ++ cs.flatten

/-- The bytes of an ASCII text. -/
def ascii (t : String) : List Byte := t.toList.map (fun c => BitVec.ofNat 8 c.toNat)

/-- A signature of the responder over a transcript, under the identity key: SPDM 1.2's prefix, the context, and the digest. SM2's random number is a free value. -/
def spdmSign (s : State) (context : String) (transcript : List Byte) : List Byte × State :=
  let k := free32 s
  let x := ascii context
  let m := (List.range 4).flatMap (fun _ => ascii "dmtf-spdm-v1.2.*") ++ zeros (36 - x.length) ++ x ++ sm3 transcript
  (sm2SignWith s.build.idKey (leNat k.1) m, k.2)

/-- What an endpoint and the responder have said. -/
def talkOf (s : State) (ep : Endpoint) : SpdmTalk := ((s.host.talks.find? (fun t => t.1 == ep)).map (fun t => t.2)).getD .none

/-- Sets it. -/
def setTalk (s : State) (ep : Endpoint) (t : SpdmTalk) : State :=
  modHost s (fun h => { h with talks := h.talks.filter (fun x => x.1 != ep) ++ [(ep, t)] })

/-- GET_MEASUREMENTS (R441): operation 0 asks for the number of blocks, 0xFF for all; the answer carries a nonce, and a signature when one is asked for. -/
def execGetMeasurements (ep : Endpoint) (req : MeasReq) (s : State) : Host.Outcome State Fault Refusal :=
  .next (if !epUp s ep then s
    else if (req.idx ≠ 0xFF ∧ 5 < req.idx.toNat) ∨ (req.sign ∧ 1 < req.slot.toNat) then spdmErr s ep seInvalid
    else
      let is := if req.idx = 0xFF then [1, 2, 3, 4, 5] else if req.idx = 0 then [] else [req.idx.toNat]
      let rec_ := is.flatMap (measBlock s)
      let n := free32 s
      let ask : List Byte := [0x12, 0xE0, if req.sign then 1 else 0, req.idx] ++ (if req.sign then natLe req.nonce.toNat 32 ++ [req.slot] else [])
      let body : List Byte := [0x12, 0x60, if req.idx = 0 then 5 else 0, if req.sign then req.slot else 0, BitVec.ofNat 8 is.length] ++ natLe rec_.length 3 ++ rec_ ++ n.1 ++ [0, 0]
      let t := talkOf s ep
      let said := t.meas ++ ask ++ body
      if req.sign then
        let g := spdmSign n.2 "responder-measurements signing" (t.vca ++ said)
        spdmSend (setTalk g.2 ep { t with meas := [] }) ep (body ++ g.1)
      else spdmSend (setTalk n.2 ep { t with meas := said }) ep body)

/-- The digest of all measurement blocks when a summary is asked for. -/
def measSummary (s : State) (type : Byte) : List Byte := if type = 0 then [] else sm3 ([1, 2, 3, 4, 5].flatMap (measBlock s))

/-- KEY_EXCHANGE (R440): a certificate slot of 0 or 1; at most eight sessions at once across all endpoints. The verify data at the end hangs on the session's
secret and is a free value (log 39). -/
def execKeyExchange (ep : Endpoint) (req : KexReq) (s : State) : Host.Outcome State Fault Refusal :=
  .next (if !epUp s ep then s
    else if 1 < req.slot.toNat then spdmErr s ep seInvalid
    else if 8 ≤ s.host.sessions.length then spdmErr s ep seBusy
    else
      let n := s.host.nextSess
      let a := free32 s
      let k := free32 a.2
      let t := talkOf s ep
      let ask : List Byte := [0x12, 0xE4, req.summary, req.slot] ++ req.data
      let body : List Byte := [0x12, 0x64, BitVec.ofNat 8 (Config.spdmParam 3), 0] ++ natLe n 2 ++ [0, 0] ++ a.1 ++ sm2Pub (leNat k.1) ++ measSummary s req.summary ++ [0, 0]
      let g := spdmSign k.2 "responder-key_exchange_rsp signing" (t.vca ++ sm3 (certChain s.build req.slot.toNat) ++ ask ++ body)
      let v := free32 g.2
      spdmSend (modHost v.2 (fun h => { h with sessions := h.sessions ++ [(n, ep)], nextSess := n + 1 })) ep (body ++ g.1 ++ v.1))

/-- The answers that need no session, by request code: VERSION, CAPABILITIES, ALGORITHMS, DIGESTS, and a portion of a CERTIFICATE; none for an invalid request. -/
def spdmPlain (b : Build) (req : SpdmReq) : Option (List Byte) :=
  match req.code.toNat with
  | 0x84 => some [0x10, 0x04, 0, 0, 0, 1, 0x00, 0x12]
  | 0xE1 => some ([0x12, 0x61, 0, 0, 0, BitVec.ofNat 8 (Config.spdmParam 0), 0, 0] ++ natLe 0x62F6 4 ++ natLe (Config.spdmParam 1) 4 ++ natLe (Config.spdmParam 2) 4)
  | 0xE3 => some ([0x12, 0x63, 2, 0] ++ natLe 44 2 ++ [req.data.getD 2 0 &&& 1, 0] ++ natLe 0x80 4 ++ natLe (bnum req.data 4 4 &&& 0x200) 4 ++
      natLe (bnum req.data 8 4 &&& 0x40) 4 ++ zeros 12 ++ [0, 0, 0, 0] ++ [2, 0x20] ++ natLe 0x40 2 ++ [3, 0x20] ++ natLe 8 2)
  | 0x81 => some ([0x12, 0x01, 0, 3] ++ sm3 (certChain b 0) ++ sm3 (certChain b 1))
  | 0x82 =>
    let ch := certChain b req.param1.toNat
    let off := bnum req.data 0 2
    let part := (ch.drop off).take (bnum req.data 2 2)
    if 1 < req.param1.toNat ∨ ch.length ≤ off then none
    else some ([0x12, 0x02, req.param1, 0] ++ natLe part.length 2 ++ natLe (ch.length - off - part.length) 2 ++ part)
  | _ => none

/-- What is said before a session is kept for the signatures: GET_VERSION begins anew. -/
def talkNext (t : SpdmTalk) (code : Nat) (bs : List Byte) : SpdmTalk :=
  match code with
  | 0x84 => { SpdmTalk.none with vca := bs }
  | 0xE1 => { t with vca := t.vca ++ bs }
  | 0xE3 => { t with vca := t.vca ++ bs }
  | _ => { t with certs := t.certs ++ bs }

/-- The bytes of a request. -/
def spdmBytes (req : SpdmReq) : List Byte := [req.version, req.code, req.param1, req.param2] ++ req.data

/-- CHALLENGE: the digest of the slot's chain, a nonce, the measurement summary asked for, and the signature over all that has been said. -/
def spdmChallenge (s : State) (ep : Endpoint) (req : SpdmReq) : State :=
  let n := free32 s
  let t := talkOf s ep
  let body : List Byte := [0x12, 0x03, req.param1, 3] ++ sm3 (certChain s.build req.param1.toNat) ++ n.1 ++ measSummary s req.param2 ++ [0, 0]
  let g := spdmSign n.2 "responder-challenge_auth signing" (t.vca ++ t.certs ++ spdmBytes req ++ body)
  spdmSend (setTalk g.2 ep { t with certs := [] }) ep (body ++ g.1)

/-- Request codes that are answered without a session: GET_DIGESTS, GET_CERTIFICATE, CHALLENGE, GET_VERSION, GET_CAPABILITIES, NEGOTIATE_ALGORITHMS. -/
def spdmOpen : List Nat := [0x81, 0x82, 0x83, 0x84, 0xE1, 0xE3]
/-- Request codes of a session: FINISH, HEARTBEAT, KEY_UPDATE, END_SESSION, VENDOR_DEFINED. -/
def spdmInSession : List Nat := [0xE5, 0xE8, 0xE9, 0xEC, 0xFE]

/-- SPDM_REQUEST (R440): requests outside the subset are answered UnsupportedRequest. END_SESSION ends the session that it comes in. -/
def execSpdmRequest (ep : Endpoint) (req : SpdmReq) (s : State) : Host.Outcome State Fault Refusal :=
  .next (if !epUp s ep then s else
    let code := req.code.toNat
    if (!spdmOpen.contains code ∧ !spdmInSession.contains code) ∨ (code ≠ 0x84 ∧ req.version ≠ 0x12) then spdmErr s ep seUnsupported
    else if code = 0x83 then (if 1 < req.param1.toNat then spdmErr s ep seInvalid else spdmChallenge s ep req)
    else if spdmOpen.contains code then
      match spdmPlain s.build req with
      | none => spdmErr s ep seInvalid
      | some bs => spdmSend (setTalk s ep (talkNext (talkOf s ep) code (spdmBytes req ++ bs))) ep bs
    else if !s.host.sessions.any (fun x => req.session == some x.1 && x.2 == ep) then spdmErr s ep seSession
    else
      let s := if code = 0xEC then modHost s (fun h => { h with sessions := h.sessions.filter (fun x => !(req.session == some x.1 && x.2 == ep)) }) else s
      spdmSend s ep [0x12, BitVec.ofNat 8 (code % 128), req.param1, req.param2])

/-! ## IDE (R458, R459) -/

/-- The state of an IDE stream. -/
def ideGet (h : HostPort) : IdeStream → IdeState
  | .linkIo => h.ideLinkIo
  | .linkMem => h.ideLinkMem
  | .sel i => h.ideSel[i]

/-- Changes the state of an IDE stream. -/
def ideSet (h : HostPort) (st : IdeStream) (x : IdeState) : HostPort :=
  match st with
  | .linkIo => { h with ideLinkIo := x }
  | .linkMem => { h with ideLinkMem := x }
  | .sel i => { h with ideSel := h.ideSel.set i x }

/-- A request of IDE_KM on a stream: keys programmed end the Insecure state (R459); K_SET_GO switches a sub-stream to a set that has been programmed (R458). -/
def ideDo (x : IdeState) : IdeKmReq → IdeState
  | .keyProg _ sub n key iv => { x with keys := x.keys.filter (fun k => k.1 != (sub, n)) ++ [((sub, n), (key, iv))], insecure := false }
  | .kSetGo _ sub n skid =>
    if x.keys.any (fun k => k.1 == (sub, n)) then { x with active := x.active.filter (fun a => a.1 != sub) ++ [(sub, n)], skid } else x
  | .kSetStop _ sub => { x with active := x.active.filter (fun a => a.1 != sub) }

/-- The stream of a request. -/
def ideStream : IdeKmReq → IdeStream
  | .keyProg st _ _ _ _ => st
  | .kSetGo st _ _ _ => st
  | .kSetStop st _ => st

/-- IDE_KM (R458), in a secured session. -/
def execIdeKm (session : Nat) (req : IdeKmReq) (s : State) : Host.Outcome State Fault Refusal :=
  .next (match s.host.sessions.find? (fun x => x.1 == session) with
    | none => s
    | some (_, ep) =>
      if !epUp s ep then s else
      let st := ideStream req
      emit (modHost s (fun h => ideSet h st (ideDo (ideGet h st) req))) (.mctp ep 0x06 (natLe session 2)))

/-- IDE_INTEGRITY_FAIL (R459): the stream enters Insecure; on CXL.cachemem the port takes the link down. -/
def execIdeIntegrityFail (stream : IdeStream) (s : State) : Host.Outcome State Fault Refusal :=
  .next (
    let x := ideGet s.host stream
    if x.active.isEmpty then s
    else
      let s := modHost s (fun h => ideSet h stream { x with keys := [], active := [], insecure := true })
      if stream = .linkMem then hostDown s else s)

end Sys2Proof.Machine
end

