-- ==== Sys2Proof/Machine/StartOps.lean ====
section
/-! DEFINITION. The capability list (R419 to R421), spares and lanes (R43, R467 to R471), the self-test controller (R461 to R466, R473), and the
reset and start of a channel with Marl's recovery (R10, R20, R55, R259, R293, R354, R429, R466 to R468). -/

namespace Sys2Proof.Machine
open Sys2Proof

/-! ## The capability list -/

/-- Key slots in service: a Failed one is out (R448). -/
def keySlotsLeft (s : State) : Nat := keySlotCount - (s.island.keySlots.filter (fun e => e.2.state == .failed)).length

/-- Sums a measure over the present channels. -/
def sumCh (s : State) (f : Ch → Nat) : Nat := ((presentChs s).map f).sum

/-- A bit for each present channel. -/
def presentMask (s : State) : Nat := ((presentChs s).map (fun c => 2 ^ c.val)).sum

/-- A channel's word of the engine map: the slots that serve rings 0 to 3, and the idle spare; 7 for none (R421). -/
def engineWord (s : State) (c : Ch) : Nat :=
  let e := (s.ch c).eng
  let f := fun (x : Option (Fin 5)) => match x with | some i => i.val | none => 7
  at_ 0 3 (f e.slotOf[0]) + at_ 3 3 (f e.slotOf[1]) + at_ 6 3 (f e.slotOf[2]) + at_ 9 3 (f e.slotOf[3])
    + at_ 12 3 (if spareEngUsed s c || e.failed.getLsbD 4 then 7 else 4)

/-- The roles of a format code: bits 4 to 0 for K, V, Q, O, A (R82). -/
def capRoles (code : Nat) : Byte :=
  match fmtOf code with
  | some f => BitVec.ofNat 8 (at_ 4 1 (b2n f.k) + at_ 3 1 (b2n f.v) + at_ 2 1 (b2n f.q) + at_ 1 1 (b2n f.o) + b2n f.a)
  | none => 0

/-- The contents of a capability after its header. LINK_LANES of capability 0x0001 counts no lane of a port that is Down: the spec
does not say whether it does (DESIGN CHOICE, log 126). -/
def capBody (s : State) (id : Nat) : List Byte :=
  match id with
  | 0x0001 => natLe (presentMask s) 2 ++ natLe (sumCh s (engActive s)) 1 ++ natLe (sumCh s (fun c => (s.ch c).link.width)) 1
      ++ natLe (sumCh s (fun c => (s.ch c).sieve.usable)) 4 ++ natLe (keySlotsLeft s) 2 ++ natLe (sumCh s (fun _ => t1Size)) 8
      ++ natLe (sumCh s (fun c => if hasT2 (s.marl c) then capNow (s.marl c) else 0)) 8
  | 0x0002 => allCh.flatMap (fun c => natLe (engineWord s c) 2)
  | 0x0003 => (List.range 18).map capRoles
  | 0x0004 => natLe 0x1F 1 ++ natLe 256 2 ++ natLe 16 1 ++ natLe 4096 2 ++ natLe 1 1 ++ natLe 1 1
  | 0x0005 => natLe 64 1
  | 0x0006 => natLe 131072 4 ++ natLe 4096 2 ++ natLe 8 1 ++ natLe 1 1 ++ natLe 1 1
  | 0x0007 => natLe 3 1 ++ natLe 6 1 ++ natLe 6 1
  | 0x0008 => natLe 16 1 ++ [Config.flitModes] ++ natLe 1 1 ++ natLe 4 1 ++ natLe 2048 2 ++ natLe (b2n s.build.formK) 1
  | 0x0009 => natLe 4 1 ++ natLe 1 1 ++ natLe 1 1 ++ natLe 1 1 ++ natLe 4096 2
  | 0x000A => natLe 64 1 ++ natLe 512 2 ++ natLe 2 2
  | 0x000B => natLe 7 1 ++ natLe (keySlotsLeft s) 2 ++ natLe s.island.keySpares 1 ++ natLe 1 1
  | 0x000C => [s.build.board] ++ natLe s.build.powerW.toNat 2 ++ (List.range 96).map (fun i => s.build.targets.getD i 0) ++ natLe s.build.cascade.toNat 2
  | 0x000D => natLe 0x7F 2 ++ natLe 32 1
  | _ => []

/-- The capability IDs of the list. -/
def capIds : List Nat := [1, 2, 3, 4, 5, 6, 7, 8, 9, 10, 11, 12, 13, 14]

/-- An entry at an offset, padded to 8 bytes; NEXT is 0 in the last. -/
def capEntry (s : State) (off id : Nat) (last : Bool) : List Byte :=
  let body := capBody s id
  let words := max 2 (ceilDiv (8 + body.length) 4)
  let size := roundUp (4 * words) 8
  let hdr := natLe (at_ 48 16 id + at_ 40 8 (Config.capVersion id).toNat + at_ 32 8 words + at_ 16 16 (if last then 0 else off + size)) 8
  hdr ++ body ++ zeros (size - 8 - body.length)

/-- The entries of the list from an offset on. -/
def capEntries (s : State) : List Nat → Nat → List Byte
  | [], _ => []
  | [id], off => capEntry s off id true
  | id :: ids, off =>
    let e := capEntry s off id false
    e ++ capEntries s ids (off + e.length)

/-- Kiln rewrites the list, in every logical device's block (R420). -/
def putCaps (s : State) : State :=
  let bs := smBytes [] 0x1000 (capEntries s capIds 0x1000)
  (lds s).foldl (fun t l => modLd t l (fun d => { d with capBytes := bs })) s

/-- COMMIT_GEN advances; its wrap is raised (R417). -/
def bumpGen (s : State) : State :=
  let s := modIsland s (fun i => { i with commitGen := i.commitGen + 1 })
  if s.island.commitGen = 0 then raiseD s 0x0104 sevInfo [] else s

/-! ## Lanes and engines (R43, R467, R471) -/

/-- Failed lanes of a lane group. -/
def laneCount (lanes : List Nat) (g : Nat) : Nat := (lanes.filter (fun x => x / 129 == g)).length

/-- Whether a half of the interface (lane groups 0 to 7, or 8 to 15) holds a failure that no spare replaces. -/
def halfBad (lanes : List Nat) (h : Nat) : Bool := (List.range 8).any (fun g => decide (2 ≤ laneCount lanes (8 * h + g)))

/-- Whether the failed lanes lose the stack. -/
def stackLost (lanes : List Nat) : Bool := halfBad lanes 0 && halfBad lanes 1

/-- Whether they leave half the width. -/
def stackHalf (lanes : List Nat) : Bool := halfBad lanes 0 || halfBad lanes 1

/-- Spare lanes not brought in. -/
def lanesLeft (lanes : List Nat) : Nat := ((List.range 16).filter (fun g => laneCount lanes g == 0)).length

/-- The ring that the spare slot serves: the one it served, if its own slot has still failed, else the first whose slot has failed. -/
def spareRing (failed : BitVec 5) (old : Vector (Option (Fin 5)) 4) : Option Nat :=
  let need := (List.range 4).filter (fun r => failed.getLsbD r)
  if failed.getLsbD 4 then none
  else match need.find? (fun r => old.toList.getD r none == some 4) with
    | some r => some r
    | none => need.head?

/-- The engine map of failed slots. -/
def mapEngines (failed : BitVec 5) (old : Vector (Option (Fin 5)) 4) : Vector (Option (Fin 5)) 4 :=
  let sp := spareRing failed old
  Vector.ofFn (fun (r : Fin 4) =>
    if !failed.getLsbD r.val then some ⟨r.val, by omega⟩ else if sp = some r.val then some 4 else none)

/-- Raises the bring-in of the spare engine, when a map uses it and the map before did not. -/
def engineSpared (s : State) (c : Ch) (old : Vector (Option (Fin 5)) 4) : State :=
  match (List.range 4).find? (fun r => (s.ch c).eng.slotOf.toList.getD r none == some 4) with
  | some r => if old.toList.contains (some 4) then s else raiseSpare s c 0 r
  | none => s

/-! ## Group records (R461, R473) -/

/-- Whether a group's blocks isolate its channel (R467). -/
def groupIsolates (g : GroupRec) (failed : BitVec 5) : Bool :=
  g.logicFail || decide (0 < g.t0Banks) || g.sm4Fail == 3 || (mapEngines failed (Engines.reset.slotOf)).toList.all (fun x => x.isNone)

/-- Whether they leave it Degraded. -/
def groupDegrades (g : GroupRec) (failed : BitVec 5) (lanes : List Nat) : Bool :=
  g.sm4Fail != 0 || stackHalf lanes || (mapEngines failed (Engines.reset.slotOf)).toList.any (fun x => x.isNone)

/-- Blocks that a group marks. -/
def groupMarks (g : GroupRec) : Nat :=
  popcount g.engFail.toNat 5 + popcount g.sm4Fail.toNat 2 + b2n g.logicFail + g.t0Banks + b2n g.stackFail + g.stackLanes.length + g.sieveRows.length

/-- STATE_AFTER: the state that a result leads to. -/
def stateAfter (g : GroupRec) : Nat :=
  if g.stackFail ∨ stackLost g.stackLanes then 0
  else if groupIsolates g g.engFail then 5
  else if groupDegrades g g.engFail g.stackLanes then 4
  else 3

/-- A group record; a group that has not run reads 0. -/
def groupBits (g : Option GroupRec) : Nat :=
  match g with
  | none => 0
  | some g => at_ 59 5 g.engFail.toNat + at_ 57 2 g.sm4Fail.toNat + at_ 56 1 (b2n g.logicFail) + at_ 50 6 (min 32 g.t0Banks) + at_ 49 1 (b2n g.stackFail)
      + at_ 44 5 (min 16 g.stackLanes.length) + at_ 31 13 (min 4096 g.sieveRows.length) + at_ 28 3 (stateAfter g) + 1

/-- GROUPS_FAILED. -/
def groupsFailed (x : SelfTest) : Nat :=
  ((List.range 12).map (fun i => match x.groups.toList.getD i none with | some g => if groupMarks g = 0 then 0 else 2 ^ i | none => 0)).sum

/-- The blocks that all groups marked. -/
def blocksMarked (x : SelfTest) : Nat := (x.groups.toList.map (fun g => match g with | some g => groupMarks g | none => 0)).sum

/-! ## The self-test controller (R462 to R466) -/

/-- Changes the self-test record and controller. -/
def modTest (s : State) (f : SelfTest → SelfTest) : State := modIsland s (fun i => { i with selfTest := f i.selfTest })

/-- Changes the device's counters. -/
def modDev (s : State) (f : DevHealth → DevHealth) : State := modIsland s (fun i => { i with devHealth := f i.devHealth })

/-- Changes the supply monitor. -/
def modSupply (s : State) (f : Supply → Supply) : State := modIsland s (fun i => { i with supply := f i.supply })

/-- Groups in ascending order, once each. -/
def ascGroups (xs : List Nat) : List Nat := (List.range 12).filter (fun g => xs.contains g)

/-- Groups at once (R462). -/
def testsAtOnce (s : State) : Nat := fld s.island.stCfg.toNat 31 30 + 1

/-- The fallback test is due for groups: it joins the one that runs, or waits for the window with a setpoint of 0.76 V requested (R466). -/
def needTest (s : State) (cs : List Nat) : State :=
  if s.island.selfTest.state = 1 then modTest s (fun x => { x with todo := ascGroups (x.todo ++ cs) })
  else
    let s := modTest s (fun x => { x with state := 2, todo := ascGroups (x.todo ++ cs), atShut := false })
    emit (modSupply s (fun y => { y with setpoint := 760 })) (.vout .vcore 760)

/-- Channels are to enter Starting: at once under a valid stored result, else after the fallback test of their groups. -/
def beginStarts (s : State) (cs : List Ch) : State :=
  let ns := cs.map (fun c => c.val)
  let s := modTest s (fun x => { x with starts := ascGroups (x.starts ++ ns) })
  if s.island.selfTest.valid ∨ cs.isEmpty then s else needTest s ns

/-- Channels that Kiln brings up after a cold start, or after the return of VCORE and VSRAM. -/
def offConnected (s : State) : List Ch := allCh.filter (fun c => (s.ch c).connected && (s.ch c).state == .off)

/-- A `Shutdown` whose self-test has ended completes. -/
def shutTested (s : State) : State :=
  forTasks s (fun t mb x => match x with
    | .shutdown 5 _ => shutEnd t mb
    | _ => t)

/-- The stored result is no longer valid (R464). -/
def dropResult (s : State) (cause : Nat) : State :=
  modTest s (fun x => { x with valid := false, cause := if x.valid then BitVec.ofNat 8 cause else x.cause })

/-- A test that runs is aborted by a supply warning (CAUSE 2) or a thermal throttle (3) (R465): the one of a `Shutdown` stores no result, a
fallback starts again from its first group once the window allows. -/
def abortTest (s : State) (cause : Nat) : State :=
  let x := s.island.selfTest
  if x.state ≠ 1 then s
  else
    let s := modDev s (fun h => { h with testsAborted := h.testsAborted + 1 })
    let all := ascGroups (x.got.map (fun e => e.1) ++ x.running ++ x.todo)
    let s := modTest s (fun x => { x with valid := false, cause := BitVec.ofNat 8 cause, running := [], got := [] })
    if x.atShut then shutTested (modTest s (fun x => { x with state := 0, todo := [], atShut := false }))
    else modTest s (fun x => { x with state := 2, todo := all })

/-- The lane marks that a new result in force makes old (R467). -/
def dropLanes (s : State) (c : Ch) : State := modCh s c (fun ch => { ch with eng := { ch.eng with rtLanes := [] } })

/-- The last group has ended: the record is made (R473), `EV_SELFTEST_RESULT` raised after a `Shutdown`'s test (R463). -/
def testEnds (s : State) : State :=
  let x := s.island.selfTest
  let s := modTest s (fun x => { x with
    state := 0, got := [], atShut := false, gen := s.island.commitGen, time := s.island.hostTime,
    valid := x.valid || x.atShut, cause := if x.atShut then 0 else x.cause, when_ := if x.atShut then 1 else 2,
    groups := if x.atShut then Vector.ofFn (fun (i : Fin 12) => smGet? x.got i.val) else x.groups })
  if x.atShut then
    let y := s.island.selfTest
    shutTested (raiseD (forCh s allCh dropLanes) 0x0108 (if groupsFailed y = 0 then sevInfo else sevErr) (natLe (groupsFailed y) 2 ++ natLe (blocksMarked y) 2))
  else s

/-! ## Reset of a channel (R10, R20, R144, R174, R179, R457) -/

/-- The Sieve after a reset: no rows; its physical rows and counts stand. The spec does not give the mirror records after a cold start or a
reset: the model makes each a sound record of an invalid row (DESIGN CHOICE, log 136). -/
def sieveAfterReset (x : Sieve) : Sieve :=
  { Sieve.reset with unusable := x.unusable, sparing := x.sparing, phys := x.phys, bad := x.bad, rewrites := x.rewrites, spares := x.spares,
                     usable := x.usable, fixed := x.fixed, lost := x.lost }

/-- Whether an index is Live or Releasing on a home channel. -/
def regionHeld (g : Region) : Bool := g.state == .live || g.state == .releasing

/-- The object unit after a reset: the nodes of the region records homed on the channel stay in use; the region dirty map stays with T1. -/
def objAfterReset (s : State) (c : Ch) (keepT1 : Bool) : Objects :=
  { Objects.reset with
    nodes := (s.island.regions.filter (fun e => regionHeld e.2 && e.2.homeCh == c.val)).foldl (fun m e => smPut m e.2.node.toNat (.region e.1)) []
    dirtyMap := if keepT1 then (s.ch c).obj.dirtyMap else [] }

/-- A channel reset: every register at its reset value, T0 cleared. What Kiln and the stack, the flash and the physical blocks hold stands;
without `keepT1` the stack's contents are gone. CH_THROTTLE reads its reset values until the next sample and governor window, but for the level
that a standing supply warning holds (log 160). -/
def resetCh (s : State) (c : Ch) (keepT1 : Bool) : State :=
  let x := s.ch c
  let warn := warned s
  let obj := objAfterReset s c keepT1
  setCh s c { Channel.reset with
    state := x.state, connected := x.connected, pace := { Pace.reset with refclk := x.pace.refclk }
    throttle := { Throttle.reset with supply := if warn then 3 else 0, die := x.throttle.die }
    eng := { x.eng with mapDue := [], mapped := false }
    health := x.health, obj, sieve := sieveAfterReset x.sieve
    t1 := if keepT1 then x.t1 else [], t1Lost := if keepT1 then x.t1Lost else [], t1Orphan := if keepT1 then x.t1Orphan else []
    marl := { Marl.reset with flash := x.marl.flash, health := x.marl.health, hold := warn }
    discard := x.discard + seqLive s c }

/-! ## Marl's recovery (R293, R294) -/

/-- Whether a run of a Live or Releasing region covers a unit of a channel. -/
def inRun (s : State) (c : Ch) (lu : Nat) : Bool :=
  s.island.regions.any (fun e => regionHeld e.2 && e.2.runs.any (fun x => x.ch == c.val && decide (x.lu ≤ lu ∧ lu < x.lu + x.len / 16384)))

/-- Re-points a unit from its out-of-band record; the count of units re-pointed grows. -/
def repoint (c : Ch) (a : State × Nat) (q : Nat × FlashPage) : State × Nat :=
  let p := q.2
  let e := mapAt a.1 c p.lu
  if p.kind ≠ 0 ∨ e.pua ≠ p.prev then a
  else
    let pua := BitVec.ofNat 33 q.1
    let s := jAppend (invalidate a.1 c e.pua) c (.map p.gc p.stream p.owner p.slots p.lu pua e.pua)
    (setMap s c p.lu { e with mapped := true, stream := p.stream, owner := p.owner, slots := p.slots, pua }, a.2 + 1)

/-- The pages of a stripe block whose out-of-band record reads well: `bad` are the physical pages whose CHECK fails. -/
def scanPages (f : MarlFlash) (bad : List Nat) (key : Nat) : List (Nat × FlashPage) :=
  f.pages.filter (fun q => puaSb (BitVec.ofNat 33 q.1) == key && !bad.contains q.1)

/-- The out-of-band scan of a stripe block that was open; it is closed and marked for relocation. -/
def scanOpen (c : Ch) (bad : List Nat) (a : State × Nat) (key : Nat) : State × Nat :=
  let a := (scanPages (a.1.marl c).flash bad key).foldl (repoint c) a
  (markSb (closeSb a.1 c { stream := 0, group := key / 16384, sb := key % 16384, stripe := 0, filled := 0 }) c key, a.2)

/-- Unmaps a unit that recovery does not keep. -/
def dropUnit (c : Ch) (s : State) (lu : Nat) : State :=
  let e := mapAt s c lu
  setMap (jAppend (invalidate s c e.pua) c (.unmap false 0 lu)) c lu MapEntry.none

/-- SEALED of a map entry at recovery. -/
def sealEntry (xs : List Image) (e : Nat × MapEntry) : Nat × MapEntry :=
  (e.1, { e.2 with sealed := xs.any (fun y => y.units.contains e.1) })

/-- REGION of the units of a channel's runs of Live and Releasing regions, and the owner of those that hold nothing (R354). -/
def regionEntries (s : State) (c : Ch) (m : SMap MapEntry) : SMap MapEntry :=
  (s.island.regions.filter (fun e => regionHeld e.2)).foldl (fun m g =>
    ((g.2.runs.filter (fun x => x.ch == c.val)).flatMap (fun x => (List.range (x.len / 16384)).map (fun i => x.lu + i))).foldl (fun m u =>
      let e := smGet MapEntry.none m u
      smPut m u { e with region := true, owner := if e.mapped then e.owner else g.2.owner }) m)
    (m.map (fun e => (e.1, { e.2 with region := false })))

/-- The stripe-block table that a replay leaves, made whole: a stripe block with a retired member block that nothing has replaced is retired itself, its
other blocks spares; the journal stripe blocks are those of `jsbs`; no erase is under way. -/
def fixTable (jsbs : List Nat) (t : SbTable) : SbTable :=
  t.members.foldl (fun t e =>
    let k := e.1
    let b : SbInfo := smGet SbInfo.fresh t.sbs k
    let blocks : List (Nat × Nat) := e.2.zipIdx.map (fun (x, m) => (16 * (k / 16384) + m, x))
    let good := blocks.filter (fun x => !t.retired.contains x)
    let state : SbState :=
      if jsbs.contains k then .journal
      else if b.state = .retired ∨ good.length < blocks.length then .retired
      else if b.state = .journal then .free else b.state
    let spares := if state = .retired ∧ b.state ≠ .retired then good.foldl (fun m x => smPut m x.1 (smGet [] m x.1 ++ [x.2])) t.spares else t.spares
    { t with spares, sbs := smSet SbInfo.fresh t.sbs k { SbInfo.fresh with erases := b.erases, state } }) t

/-- What flash holds when the replay ends at the first journal page of which no copy is good (R293): later pages are gone. -/
def cutJournal (m : Marl) (bad : List Nat) : MarlFlash :=
  let f := m.flash
  let ps := replayPages f bad
  match ps.getLast? with
  | some p => { f with journal := ps, jnext := p.first + p.recs.length, jcount := p.seq + 1,
                       jopened := min f.jopened (max 1 (ceilDiv (p.seq + 1) (jPagesPerSb m))) }
  | none => { f with journal := ps, jnext := f.anchor.replay, jcount := f.anchor.jpage,
                       jopened := min f.jopened (max 1 (ceilDiv f.anchor.jpage (jPagesPerSb m))) }

/-- Stripe blocks that collection was emptying (R295): those that replayed or scanned collection copies came from. -/
def oldVictims (m : Marl) (recs : List JRec) (pages : List (Nat × FlashPage)) : List Nat :=
  let olds := recs.filterMap (fun r => match r with
    | .map true _ _ _ _ _ old => some old
    | _ => none)
  (dedup ((olds ++ (pages.filter (fun p => p.2.gc)).map (fun p => p.2.prev)).map puaSb)).filter (fun k => (sbAt m k).state == .closed)

/-- Marl recovers a formatted channel, and reports it. `badJournal`: journal pages of which no copy is good; `badPages`: physical pages whose out-of-band
CHECK fails. The units of the metadata store that images take are kept, as the sealed ones are (log 147). -/
def recoverMarl (s : State) (c : Ch) (badJournal badPages : List Nat) : State :=
  let f := cutJournal (s.marl c) badJournal
  let recs := replayRecs f []
  let x := flashSnap f []
  let s := modMarl s c (fun m => { m with
    map := x.map, slots := x.slots, table := fixTable f.jsbs x.table, images := x.images, capCeil := x.capCeil, readonly := x.readonly, flash := f })
  let s := openJournal s c
  let m := s.marl c
  let opened := (m.table.sbs.filter (fun e => e.2.state == .opened)).map (fun e => e.1)
  let s := (oldVictims m recs (opened.flatMap (scanPages f badPages))).foldl (fun t k => markSb t c k) s
  let a := opened.foldl (scanOpen c badPages) (s, 0)
  let s := (m.table.failed.flatMap (fun d => sbsOf m (d / 16))).foldl (fun t k => if (sbAt m k).state = .retired then t else markSb t c k) a.1
  let s := modMarl s c (fun m => { m with map := regionEntries s c (m.map.map (sealEntry m.images)) })
  let kept := (s.marl c).images.flatMap (fun y => (List.range (imageUnits y)).map (fun i => y.first + i))
  let drop := ((s.marl c).map.filter (fun e => e.2.mapped && !e.2.sealed && !e.2.region && !kept.contains e.1)).map (fun e => e.1)
  let s := drop.foldl (dropUnit c) s
  let s := modMarl s c (fun m => { m with health := { m.health with recoveries := m.health.recoveries + 1 } })
  mediaCheck (raiseC s c 0x0505 sevInfo (natLe recs.length 4 ++ natLe a.2 4 ++ natLe drop.length 4)) c

/-! ## Objects at a start (R55, R259) -/

/-- The summary of a page in an image joins the frozen summaries. -/
def frozenSumm (summs : SMap Summ) (f : SMap Summ) (e : Nat × Pte) : SMap Summ :=
  if e.2.kind = .priv ∨ e.2.kind = .pruned then
    match smGet? summs e.2.summIdx.toNat with
    | some u => smPut f e.1 u
    | none => f
  else f

/-- A sequence returns Frozen, with the contents of its latest `Persist`. -/
def restoreSeq (s : State) (c : Ch) (slot : Nat) (entry : SeqEntry) (dirs : SMap DirEntry) (pages : SMap Pte) (summs : SMap Summ) : State :=
  let s := setSeq s c slot { entry with state := .frozen, useCount := 0 }
  let s := modObj s c (fun o => { o with
    ptes := pages.foldl (fun m e => smPut m e.1 e.2) o.ptes, dirs := dirs.foldl (fun m e => smPut m e.1 e.2) o.dirs })
  let s := modMarl s c (fun m => { m with frozen := pages.foldl (frozenSumm summs) m.frozen })
  let s := (allocRun s c (dirNodes (layersOf entry) (headsOf entry) slot)).getD s
  let ks := dirs.map (fun e => rootKey slot (e.1 / 64 % 256) (e.1 % 64) e.2.depth.toNat) ++
    pages.flatMap (fun e => mapNodes slot (pteLayer e.1) (pteHead e.1) (pteEntry e.1) (dirAt s c slot (pteLayer e.1) (pteHead e.1)).depth.toNat)
  let s := (allocNodes s c ks).getD s
  let s := modSeq s c slot (fun e => { e with dirNode := BitVec.ofNat 24 (nodeOf s c (.dir slot 0)) })
  modObj s c (fun o => { o with dirs := dirs.foldl (fun m e =>
    smPut m e.1 { e.2 with rootNode := BitVec.ofNat 24 (nodeOf s c (rootKey slot (e.1 / 64 % 256) (e.1 % 64) e.2.depth.toNat)) }) o.dirs })

/-- A slot found Closing, or one whose image is missing, goes on closing; the pair counts them. -/
def restoreClose (c : Ch) (a : State × Nat) (slot : Nat) (gen : BitVec 16) : State × Nat :=
  (closeSeq (setSeq a.1 c slot { SeqEntry.free with gen, state := .closing }) c slot, a.2 + 1)

/-- The slot as its last durable record leaves it; the count of slots closed grows. -/
def restoreSlot (c : Ch) (a : State × Nat) (e : Nat × (BitVec 16 × SlotState)) : State × Nat :=
  match e.2.2 with
  | .free => (setSeq a.1 c e.1 { SeqEntry.free with gen := e.2.1 }, a.2)
  | .retired => (setSeq a.1 c e.1 { SeqEntry.free with gen := e.2.1, state := .retired }, a.2)
  | .closing => restoreClose c a e.1 e.2.1
  | st => match ((imageOf (a.1.marl c) 0 (BitVec.ofNat 48 (handleBits e.2.1.toNat c.val e.1))).map (fun x => x.body) : Option ImageBody) with
    | some (.seq entry dirs pages summs) =>
      let t := restoreSeq a.1 c e.1 entry dirs pages summs
      (if st = .frozen then t else jSlot t c e.1, a.2)
    | _ => restoreClose c a e.1 e.2.1

/-- References of restored sequences to a record of a block (R205). -/
def refsTo (s : State) (c : Ch) (idx layer head : Nat) : Nat :=
  ((s.ch c).obj.ptes.filter (fun e => e.2.kind == .shared && fld e.2.loc.toNat 39 0 == idx && pteLayer e.1 == layer && pteHead e.1 == head)).length

/-- A persisted block that no restored sequence names is freed. -/
def freeStored (s : State) (c : Ch) (slot : Nat) (p : PbSlot) (recs : SMap Pte) : State :=
  freeBlock (recs.foldl (fun t e => setRec t c e.1 e.2) (setPb s c slot p)) c slot

/-- A persisted block that a restored sequence names returns Live, its summaries in the pool. -/
def restoreBlock (s : State) (c : Ch) (slot : Nat) (p : PbSlot) (recs : SMap Pte) (summs : SMap Summ) (idx : Nat) : State :=
  let s := (allocRun s c (pbNodes (pbLayers p) (pbHeads p) slot)).getD s
  let s := setPb s c slot { p with state := .live, firstNode := BitVec.ofNat 24 (nodeOf s c (.pb slot 0)) }
  recs.foldl (fun t e =>
    let n := min 65535 (refsTo t c idx (recLH e.1).1 (recLH e.1).2)
    match (smGet? summs e.2.summIdx.toNat).bind (fun u => allocSumm t c u) with
    | some (i, t) => setRec t c e.1 { e.2 with refcnt := BitVec.ofNat 16 n, summIdx := BitVec.ofNat 24 i }
    | none => setRec t c e.1 { e.2 with refcnt := BitVec.ofNat 16 n }) s

/-- Whether a restored sequence names a block. -/
def blockNamed (s : State) (c : Ch) (idx : Nat) : Bool :=
  (s.ch c).obj.ptes.any (fun e => e.2.kind == .shared && fld e.2.loc.toNat 39 0 == idx)

/-- The persisted blocks: those not named are freed first, then the others return. -/
def restoreBlocks (s : State) (c : Ch) : State :=
  let xs := (s.marl c).images
  let s := xs.foldl (fun t x => match x.body with
    | .block p recs _ => if blockNamed t c x.obj.toNat then t else freeStored t c (pbIndexOf x.obj.toNat).slot p recs
    | _ => t) s
  xs.foldl (fun t x => match x.body with
    | .block p recs summs => if blockNamed t c x.obj.toNat then restoreBlock t c (pbIndexOf x.obj.toNat).slot p recs summs x.obj.toNat else t
    | _ => t) s

/-- Slots closed, or lost where there is no journal, are reported (R55). -/
def discarded (s : State) (c : Ch) (n : Nat) : State :=
  let s := modCh s c (fun ch => { ch with discard := 0 })
  if n = 0 then s else raiseC s c 0x0301 sevWarn (natLe n 4)

/-- What Marl's training finds (R264, R265): whole groups of sixteen used dies. -/
def marlTrained (s : State) (c : Ch) (d : DieReport) : State :=
  let us := usedDies d
  let n := us.length / 16 * 16
  let geo := fun (f : DieFound → Nat) => (us.head?.map f).getD 0
  modMarl s c (fun m => { m with
    busMask := d.buses, dies := n, unused := (dieOrder d).length - n
    dieLoc := (us.take n).map (fun x => (x.bus, x.target)), badFound := (us.take n).map (fun x => x.bad)
    pagesPerBlock := geo (fun x => x.pages), blocks := geo (fun x => x.blocks), planes := geo (fun x => x.planes) })

/-- What training finds, the areas of the stack (R64), Marl, the slots and the purges that wait for the channel, before it enters Ready. -/
def startObjects (s : State) (c : Ch) (st : StartReport) : State :=
  let s := setLayout (marlTrained s c st.dies) c
  let s := if (s.marl c).dies < 16 ∨ !st.anchorOk then modFlash s c (fun f => { f with formatted := false }) else s
  if !hasT2 (s.marl c) then discarded s c (s.ch c).discard
  else
    let s := recoverMarl s c st.badJournal st.badPages
    let a := (s.marl c).slots.foldl (restoreSlot c) (s, 0)
    let s := discarded (restoreBlocks a.1 c) c a.2
    s.island.keySlots.foldl (fun t e => ownerPurgeStep t c e.1) s

/-! ## The start of a channel (R466 to R468) -/

/-- Physical rows that the result marks failed: spare rows first, then those that serve an index; waiting spares then come in (R196). -/
def startSieve (s : State) (c : Ch) (rows : List Nat) : State :=
  let new := rows.filter (fun p => decide (p < 135168))
  let idle := fun (x : Sieve) (p : Nat) => decide (sieveRows ≤ p) && !x.phys.any (fun e => e.2 == p)
  let s := new.foldl (fun t p => if (t.ch c).sieve.bad.contains p ∨ !idle (t.ch c).sieve p then t
    else modSieve t c (fun x => { x with bad := x.bad ++ [p], spares := x.spares - 1 })) s
  let s := new.foldl (fun t p =>
    let x := (t.ch c).sieve
    if x.bad.contains p then t
    else match x.phys.find? (fun e => e.2 == p) with
      | some e => rowFails t c e.1
      | none => if p < sieveRows then rowFails t c p else t) s
  spareAll s c

/-- The marks in force: the result's with the runtime marks, and the lanes of this training (R467). -/
def startMarks (s : State) (c : Ch) (lanes : List Nat) : State :=
  let old := (s.ch c).eng
  let g := (s.island.selfTest.groups[c]).getD .pass
  let failed := g.engFail ||| old.marks
  let s := modCh s c (fun ch => { ch with eng := { old with
    slotOf := mapEngines failed old.slotOf, failed, sm4Fail := g.sm4Fail, mapDue := [], lanes, half := stackHalf lanes,
    group := g, tested := (s.island.selfTest.groups[c]).isSome, mapped := true } })
  let s := engineSpared s c old.slotOf
  (List.range 16).foldl (fun t k =>
    match lanes.find? (fun x => x / 129 == k), laneCount old.lanes k with
    | some x, 0 => raiseSpare t c 2 x
    | _, _ => t) s

/-- The stack is lost at a start: the channel is Absent and unassigned (R3, R467). -/
def becomeAbsent (s : State) (c : Ch) : State :=
  let s := setChState s c .absent 1
  modIsland s (fun i => { i with chAssign := i.chAssign.set c 0 })

/-- A channel draws its metadata key from the entropy source (R454). -/
def drawMdKey (s : State) (c : Ch) : State :=
  let a := drawFree s
  let b := drawFree a.2
  let d := drawFree b.2
  let e := drawFree d.2
  modCh e.2 c (fun ch => { ch with mdKey1 := a.1 ++ b.1, mdKey2 := d.1 ++ e.1 })

/-- A channel goes through Starting to the state that its marks lead to. One that was Absent stays so when its stack fails again (R429). -/
def startCh (s : State) (c : Ch) (st : StartReport) (cause : Nat) : State :=
  let lanes := dedup (st.lanes.filter (fun x => decide (x < 2064)) ++ (s.ch c).eng.rtLanes)
  let lost := !st.stackOk || stackLost lanes
  if (s.ch c).state = .absent ∧ lost then s
  else
    let s := modSupply s (fun y => { y with shdnDone := false })
    let s := startMarks (setChState s c .starting cause) c lanes
    if lost then becomeAbsent s c
    else
      let e := (s.ch c).eng
      let s := startSieve s c e.group.sieveRows
      let f := drawFree s
      let s := drawMdKey (srSeedSet f.2 c (f.1.setWidth 32)) c
      if groupIsolates e.group e.failed ∨ (s.ch c).sieve.usable = 0 then setChState s c .isolated 1
      else
        let s := startObjects s c st
        if groupDegrades e.group e.failed lanes then setChState s c .degraded 1 else setChState s c .ready cause

/-- The `ChannelReset` commands that wait for a channel's start complete, with the state reached (R429). -/
def resetDone (s : State) (c : Ch) : State :=
  forTasks s (fun t mb x => match x with
    | .chReset d => if d = c.val then (if isUp t c then mbDone t mb .ok (natLe (chStateCode (t.ch c).state) 1) else mbDone t mb .channelDown []) else t
    | _ => t)

/-- Whether a `ChannelReset` waits for a channel's start. -/
def resetWaits (s : State) (c : Ch) : Bool := allMbs.any (fun mb => (s.mb mb).bg == some (.chReset c.val))

/-- The start of a channel, and of the commands that wait for it. -/
def startNow (s : State) (c : Ch) (st : StartReport) : State :=
  let cause := if resetWaits s c then 5 else 0
  let s := modTest s (fun x => { x with starts := x.starts.filter (fun n => n != c.val) })
  resetDone (startCh s c st cause) c

/-! ## Regions at a cold start (R354) -/

/-- The REGION records of formatted channels: index, generation, event, channel. -/
def regionRecords (s : State) : List (Nat × BitVec 16 × Nat × Nat) :=
  allCh.flatMap (fun c => if (s.marl c).flash.formatted then (flashSnap (s.marl c).flash []).regs.map (fun e => (e.1, e.2.1, e.2.2, c.val)) else [])

/-- The record of an index in force: a Retired one, else the one with the highest GEN; of equal ones a creation, which came later than the release that
gave it its GEN (R77, R353). -/
def bestRecord (rs : List (Nat × BitVec 16 × Nat × Nat)) : Option (BitVec 16 × Nat × Nat) :=
  rs.foldl (fun a r => match a with
    | none => some (r.2.1, r.2.2.1, r.2.2.2)
    | some b =>
      if b.2.1 = 2 then some b
      else if r.2.2.1 = 2 ∨ b.1.toNat < r.2.1.toNat ∨ (b.1 = r.2.1 ∧ r.2.2.1 = 0) then some (r.2.1, r.2.2.1, r.2.2.2) else some b) none

/-- The images that the flash of formatted channels holds in force. -/
def flashImages (s : State) : List Image :=
  allCh.flatMap (fun c => if (s.marl c).flash.formatted then (flashSnap (s.marl c).flash []).images else [])

/-- The latest completed image of a region: version, root and runs. -/
def regionImage (s : State) (id : Nat) : Word64 × Word64 × List HomeRun :=
  let x := ((flashImages s).filter (fun x => x.kind == 2 && x.obj.toNat == id)).foldl (fun (a : Option Image) x => match a with
    | some y => if y.stamp < x.stamp then some x else a
    | none => some x) none
  match (x.map (fun x => x.body) : Option ImageBody) with
  | some (.region v r runs) => (v, r, runs)
  | _ => (0, 0, [])

/-- The owner that the units of restored runs carry; a free value where no unit shows it (log 1). -/
def runsOwner (s : State) (runs : List HomeRun) : Option (BitVec 12) :=
  (runs.flatMap (fun x => match chOf x.ch with
    | some c => ((s.marl c).flash.pages.filter (fun q => decide (x.lu ≤ q.2.lu ∧ q.2.lu < x.lu + x.len / 16384))).map (fun q => q.2.owner)
    | none => [])).head?

/-- An index is rebuilt. -/
def rebuildRegion (s : State) (idx : Nat) : State :=
  match bestRecord ((regionRecords s).filter (fun r => r.1 == idx)) with
  | none => s
  | some (gen, ev, home) =>
    if ev ≠ 0 then modRegion s idx (fun _ => { Region.free with gen, homeCh := home, state := if ev = 2 then .retired else .free, lastEvent := ev })
    else
      let m := regionImage s (gen.toNat * 65536 + idx)
      let f := drawFree s
      let owner := (runsOwner s m.2.2).getD (f.1.setWidth 12)
      let s := match chOf home with
        | some c => (allocNodes f.2 c [.region idx]).getD f.2
        | none => f.2
      let node := match chOf home with
        | some c => nodeOf s c (.region idx)
        | none => 0
      modRegion s idx (fun _ => { Region.free with
        state := .live, gen, homeCh := home, owner, node := BitVec.ofNat 24 node, version := m.1, root := m.2.1, runs := m.2.2, lastEvent := 0 })

/-- Kiln rebuilds the directory from the journals; no registrations and no extents return. -/
def rebuildRegions (s : State) : State :=
  let t := modIsland s (fun i => { i with regions := [], grants := [] })
  (dedup ((regionRecords s).map (fun r => r.1))).foldl rebuildRegion t

end Sys2Proof.Machine
end

