-- ==== Sys2Proof/Machine/CommitOps.lean ====
section
/-! DEFINITION. Staging and commits (R413 to R418): rights, the merge of entries, the checks of the staged state, the fence and the broadcast. -/

namespace Sys2Proof.Machine
open Sys2Proof

/-! ## Staging (R413) -/

/-- A staging entry: 128 bits. -/
structure StageEntry where
  mask  : Word32
  value : Word32
  ld    : Nat
  off   : Nat
  resv  : Bool
  deriving DecidableEq, Repr

/-- Reads a staging entry. -/
def stageEntry (bs : List Byte) : StageEntry :=
  let n := leNat bs
  { mask := BitVec.ofNat 32 (fld n 127 96), value := BitVec.ofNat 32 (fld n 95 64), ld := fld n 31 28, off := fld n 21 0,
    resv := fld n 63 32 != 0 || fld n 27 22 != 0 }

/-- A staged word as an entry. -/
def entryBytes (w : Staged) : List Byte :=
  natLe (at_ 96 32 w.mask.toNat + at_ 64 32 w.value.toNat + at_ 28 4 w.ld + at_ 0 22 w.off) 16

/-- Check 1: the offset, the mask against the RWL bits, and a logical device that exists. -/
def stageForm (s : State) (e : StageEntry) : Bool :=
  !e.resv && e.off % 4 == 0 && e.mask.toNat &&& rwlMask e.off == e.mask.toNat &&
    (sharedWord e.off || (lds s).any (fun l => l.val == e.ld))

/-- Check 2: whether a mailbox may stage the fields (R309, R411, R443, R472). -/
def stageRight (s : State) (mb : Mbox) (e : StageEntry) : Bool :=
  mbFm s mb || (match mbLd mb with
    | none => false
    | some l => match chBlockOf e.off with
      | some (c, _) => ldOfCh s c == some l
      | none =>
        let o := e.off - ldBlock
        e.ld == l.val && !sharedWord e.off && (decide (0x100 ≤ o ∧ o < 0x200) || (o == 4 && e.mask &&& 0xFF800000 == 0)))

/-- Merges an entry into a staging set under its mask. -/
def stageMerge (ws : List Staged) (e : StageEntry) : List Staged :=
  let ld := if sharedWord e.off then 0 else e.ld
  if ws.any (fun w => w.ld == ld && w.off == e.off) then
    ws.map (fun w => if w.ld = ld ∧ w.off = e.off then
      { w with mask := w.mask ||| e.mask, value := (w.value &&& ~~~ e.mask) ||| (e.value &&& e.mask) } else w)
  else ws ++ [{ ld, off := e.off, mask := e.mask, value := e.value &&& e.mask }]

/-- Checks and merges the entries one after the other: the set, or the status and index of the first that fails. -/
def stageAll (s : State) (mb : Mbox) : List StageEntry → Nat → List Staged → Except (St × Nat) (List Staged)
  | [], _, ws => .ok ws
  | e :: es, i, ws =>
    if !stageForm s e then .error (.badField, i)
    else if !stageRight s mb e then .error (.accessDenied, i)
    else if 512 < (stageMerge ws e).length then .error (.stageFull, i)
    else stageAll s mb es (i + 1) (stageMerge ws e)

/-- Replaces a mailbox's staging set. -/
def setStaging (s : State) (mb : Mbox) (ws : List Staged) : State := modIsland s (fun i => { i with staging := i.staging.set mb ws })

/-! ## The staged state and its checks (R414) -/

/-- The committed state with a staging set laid over it. -/
def layAll (s : State) (ws : List Staged) : State := forCh (ws.foldl layWord s) allCh setLayout

/-- A finding: offset, logical device, reason (1 range, 2 conflict, 3 live state, 4 absent channel). -/
structure Finding where
  off    : Nat
  ld     : Nat
  reason : Nat
  deriving DecidableEq, Repr

/-- A finding when a condition holds. -/
def found (b : Bool) (off ld reason : Nat) : List Finding := if b then [⟨off, ld, reason⟩] else []

/-- Whether a field of a word lies outside a range. -/
def outside (w : Word32) (hi lo a b : Nat) : Bool := decide (fld w.toNat hi lo < a ∨ b < fld w.toNat hi lo)

/-- Whether a word differs under a mask. -/
def differs (a b mask : Word32) : Bool := (a ^^^ b) &&& mask != 0

/-- An Active, Frozen or Closing sequence, or a live prefix block (R65, R66). -/
def objectsLive (s : State) (c : Ch) : Bool := decide (0 < seqLive s c + pbLiveCount s c)

/-- Whether a connection of a channel's port is not Closed. -/
def connsOpen (s : State) (c : Ch) : Bool := (s.ch c).link.conns.any (fun e => e.2.state != .closed)

/-- Channel-block words of a present channel: OBJ_CFG (R65), TIER_CFG (R239), SIEVE_CFG (R198), MARL_CFG (R269), LINK_CFG (R375). -/
def chFindings (s t : State) (c : Ch) : List Finding :=
  let x := (s.ch c).cfg
  let y := (t.ch c).cfg
  let at' := fun o => chBar c o
  found (outside y.objCfg 31 27 10 24 || outside y.objCfg 26 22 10 24 || outside y.objCfg 21 17 16 24 || outside y.objCfg 16 10 1 64) (at' 0x500) 0 1
  ++ found (differs x.objCfg y.objCfg 0xFFFFFC00 && objectsLive s c) (at' 0x500) 0 3
  ++ found (outside y.tierCfg 28 24 0 24 || outside y.tierCfg 23 20 0 6) (at' 0x530) 0 1
  ++ found (differs x.tierCfg y.tierCfg 0x80F00000 && (objectsLive s c || s.island.grants.any (fun g => g.ch == c.val) || !(s.marl c).images.isEmpty))
      (at' 0x530) 0 3
  ++ found (outside y.sieveCfg 15 12 8 15 || outside y.sieveCfg 4 0 12 26 || outside y.sieveCfg 6 5 0 2) (at' 0x800) 0 1
  ++ found (outside y.sieveCfg 11 10 0 0 && outside y.sieveCfg 6 5 0 0) (at' 0x800) 0 2
  ++ found (differs x.sieveCfg y.sieveCfg 0xFFFF0FE0 && decide (0 < rowsValid (s.ch c).sieve)) (at' 0x800) 0 3
  ++ found (outside y.marlCfg 31 30 0 2 || outside y.marlCfg 29 20 16 1023 || outside y.marlCfg 11 4 (2 * groups (s.marl c)) 255) (at' 0x900) 0 1
  ++ found (decide (fld y.marlCfg.toNat 19 12 ≤ fld y.marlCfg.toNat 11 4)) (at' 0x900) 0 2
  ++ found (outside y.linkCfg 30 27 4 12 || outside y.linkCfg 26 22 12 26 || outside y.linkCfg 17 14 8 15) (at' 0xA00) 0 1
  ++ found (differs x.linkCfg y.linkCfg 0xF8000000 && connsOpen s c) (at' 0xA00) 0 3

/-- The offset of CH_ASSIGN of a channel. -/
def assignOff (c : Ch) : Nat := ldBlock + 0x40 + 4 * c.val

/-- Whether a commit changes a channel's assignment. -/
def assignChanges (s t : State) (c : Ch) : Bool := differs s.island.chAssign[c] t.island.chAssign[c] 0x8F000000

/-- A move of an assigned channel away from its logical device (R311). -/
def moveFindings (s t : State) (c : Ch) : List Finding :=
  match ldOfCh s c with
  | none => []
  | some l =>
    if ldOfCh t c = some l then []
    else
      allRings.flatMap (fun r => found ((s.ring c r).enable || (s.ring c r).stop) (chBar c (0x608 + 0x20 * r.val)) 0 3)
      ++ (winsOf t l).zipIdx.flatMap (fun (w, i) => found (w.valid && w.ch == c.val) (ldBlock + 0x100 + 16 * i) l.val 2)
      ++ found (connsOpen s c || (s.ch c).link.windows.any (fun e => (windowOf e.2).valid && (windowOf e.2).host)) (assignOff c) 0 3
      ++ found (s.ch c).rel.enable (chBar c 0x544) 0 3
      ++ (s.ch c).link.apLo.flatMap (fun e => found (bit e.2.toNat 31) (chBar c (0xA40 + 8 * e.1)) 0 3)

/-- An assignment to an absent channel (R3), or to a logical device that does not exist. -/
def assignFindings (s t : State) (c : Ch) : List Finding :=
  let w := t.island.chAssign[c].toNat
  found (bit w 31 && !isPresent s c) (assignOff c) 0 4
  ++ found (bit w 31 && !(lds s).any (fun l => l.val == fld w 27 24)) (assignOff c) 0 1

/-- Two windows' device addresses meet. -/
def winMeets (a b : Win) : Bool := a.valid && b.valid && meets a.dpa a.len b.dpa b.len

/-- A valid window of a logical device (R320, R444). -/
def winFindings (t : State) (l : Ld) (ws : List (Win × Nat)) (w : Win) (i : Nat) : List Finding :=
  let off := ldBlock + 0x100 + 16 * i
  let l' := l.val
  if !w.valid then []
  else
    found (decide (2 ≤ w.kind) || w.len == 0) off l' 1
    ++ (match chOf w.ch with
      | none => [⟨off, l', 2⟩]
      | some c =>
        found (ldOfCh t c != some l) off l' 2
        ++ (if w.kind = 1 then found (decide (w.t1 < mdBase t c ∨ 38146 * 0x200000 < w.t1 + w.len)) off l' 2
          else if w.kind = 0 then
            found (decide (t1Size < w.t1 + w.len)) off l' 1
            ++ found (decide (poolBase t c < w.t1 + w.len)) off l' 2
            ++ found (t.island.grants.any (fun g => g.ch == c.val && meets g.t1 g.len w.t1 w.len)) off l' 3
            ++ found (!keyInLd t l w.owner) off l' 2
          else []))
    ++ found (decide (staticLen t l < w.dpa + w.len) || ws.any (fun v => v.2 != i && winMeets v.1 w)) off l' 2

/-- LD_CFG (R315, R318), LD_KEYS (R443) and the windows of a logical device. -/
def ldFindings (s t : State) (l : Ld) : List Finding :=
  let y := (t.ld l).cfg
  let k := keyRange t l
  let ws := (winsOf t l).zipIdx
  found (outside y 31 28 1 15 || outside y 27 23 16 30 || outside y 22 12 0 1024) (ldBlock + 4) l.val 1
  ++ found (differs (s.ld l).cfg y 0x007FF000 && (s.ld l).hdm.toList.any (fun d => d.isSome)) (ldBlock + 4) l.val 3
  ++ found (decide (4096 < k.1 + k.2)) (ldBlock + 0x30) l.val 1
  ++ found ((lds s).any (fun o => o != l && meets k.1 k.2 (keyRange t o).1 (keyRange t o).2 && decide (0 < k.2 ∧ 0 < (keyRange t o).2))) (ldBlock + 0x30) l.val 2
  ++ ws.flatMap (fun (w, i) => winFindings t l ws w i)

/-- Staged words of absent channels. -/
def absentFindings (s : State) (ws : List Staged) : List Finding :=
  ws.flatMap (fun w => match chBlockOf w.off with
    | some (c, _) => found (!isPresent s c) w.off 0 4
    | none => [])

/-- Whether a finding comes before another: by offset, logical device, reason. -/
def findLe (a b : Finding) : Bool :=
  decide (a.off < b.off) || (a.off == b.off && (decide (a.ld < b.ld) || (a.ld == b.ld && decide (a.reason ≤ b.reason))))

/-- Equal findings stand once. -/
def onceEach : List Finding → List Finding
  | [] => []
  | f :: fs => f :: (onceEach fs).filter (fun g => g != f)

/-- The findings for a staging set: one for each word and reason (R414; DESIGN CHOICE, log 110); lowest offsets first, at most 32. -/
def findings (s : State) (ws : List Staged) : List Finding :=
  let t := layAll s ws
  let fs := absentFindings s ws
    ++ allCh.flatMap (fun c => (if isPresent s c then chFindings s t c else []) ++ assignFindings s t c ++ moveFindings s t c)
    ++ (lds s).flatMap (ldFindings s t)
    ++ found (outside t.island.stCfg 24 20 8 20 || outside t.island.stCfg 19 12 70 105) (ldBlock + 0x200) 0 1
  (onceEach (sortBy findLe fs)).take 32

/-- COUNT and the findings as a payload. -/
def findingsOut (fs : List Finding) : List Byte :=
  natLe fs.length 8 ++ fs.flatMap (fun f => natLe f.off 3 ++ natLe f.ld 1 ++ natLe f.reason 1 ++ zeros 3)

/-! ## The commit (R415 to R418) -/

/-- The channels that a commit affects. -/
def affectedChs (s : State) (ws : List Staged) : List Ch :=
  let t := ws.foldl layWord s
  (presentChs s).filter (fun c =>
    ws.any (fun w => match chBlockOf w.off with
      | some (d, _) => d == c
      | none => !sharedWord w.off && (match ldOfCh s c with | some l => l.val == w.ld | none => false))
    || assignChanges s t c)

/-- Whether the fence stands: every ring 8 descriptor, `Persist` and `SieveInsert` admitted on the affected channels has retired, and no `LinkWindowSet` there
waits for a window's moves. -/
def fenceStands (s : State) (cs : List Nat) : Bool :=
  allCh.all (fun c => !cs.contains c.val || ((s.ch c).link.winDue.isEmpty && allRings.all (fun r =>
    !((r == 8 || (hdrOf (headDesc s c r)).opcode == 0x15 || (hdrOf (headDesc s c r)).opcode == 0x32) && begun (s.ring c r).wait))))

/-- The descriptors that have begun keep the settings that they began under (R26). -/
def keepSettings (s : State) : State :=
  let x := settingsOf s
  forCh s allCh (fun t c => allRings.foldl (fun u r =>
    if begun (u.ring c r).wait ∧ (u.ring c r).old.isNone then modRing u c r (fun g => { g with old := some x }) else u) t)

/-- The broadcast: every staged word takes its value, the layouts follow, COMMIT_GEN advances, T0 of every channel that changes hands is
cleared (R457), and the capability list is rewritten. -/
def broadcast (s : State) (ws : List Staged) : State :=
  let t := layAll (keepSettings s) ws
  let u := forCh t (allCh.filter (assignChanges s t)) (fun v c => modCh v c (fun ch => { ch with t0 := [] }))
  putCaps (bumpGen u)

/-- Checks, broadcast and release, once the fence stands. Held writes take effect after it. -/
def commitRun (s : State) (mb : Mbox) (ws : List Staged) : State :=
  let fs := findings s ws
  let s := modIsland s (fun i => { i with commit := none })
  if fs.isEmpty then
    let s := setStaging (broadcast s ws) mb []
    applyHeld (mbOut s mb 0xC014 .ok (natLe s.island.commitGen.toNat 4))
  else applyHeld (mbOut s mb 0xC014 .commitInvalid (findingsOut fs))

/-- The default MODE (R239): pooled on the sled module and on HM-C12-K with more than six channels. -/
def pooledDefault (s : State) : Bool := s.build.board == 2 || (s.build.formK && decide (6 < (presentChs s).length))

/-- The start-up commit (R418). -/
def startUp (s : State) : State :=
  let ws := (presentChs s).flatMap (fun c =>
    [{ ld := 0, off := assignOff c, mask := 0x8F000000, value := 0x80000000 : Staged },
     { ld := 0, off := chBar c 0x530, mask := 0x80000000, value := if pooledDefault s then 0x80000000 else 0 : Staged }])
  let s := broadcast s ws
  modIsland s (fun i => { i with committed := true })

end Sys2Proof.Machine
end

