-- ==== Sys2Proof/Machine/HealthOps.lean ====
section
/-! DEFINITION. The health log (R301, R426, R487, R488), the identity record (R411), event records as bytes (R424), and the self-test record
(R473). -/

namespace Sys2Proof.Machine
open Sys2Proof

/-! ## Numbers in the log -/

/-- A counter of 4 bytes, saturating. -/
def sat4 (n : Nat) : List Byte := natLe (min n 0xFFFFFFFF) 4

/-- A counter of 8 bytes, saturating. -/
def sat8 (n : Nat) : List Byte := natLe (min n 0xFFFFFFFFFFFFFFFF) 8

/-- A 4-byte field of a section. -/
def word4 (bs : List Byte) (o : Nat) : Nat := bnum bs o 4

/-- A signed 2-byte field of a section. -/
def sword2 (bs : List Byte) (o : Nat) : Int := let n := bnum bs o 2; if n < 0x8000 then n else (n : Int) - 0x10000

/-! ## A channel's section (R426, R301, R488) -/

/-- WEAR_USED and WEAR_MAX: erase counts of a channel's stripe blocks over the rated endurance of its dies, per mille (the endurance is a free
value, log 1). -/
def wearUsed (m : Marl) : Nat := (m.table.sbs.map (fun e => e.2.erases)).sum * 1000 / (max 1 (sbFmt m) * Config.endurance)
/-- WEAR_MAX. -/
def wearMax (m : Marl) : Nat := (m.table.sbs.map (fun e => e.2.erases)).foldl max 0 * 1000 / Config.endurance

/-- The Marl part: 512 bytes. -/
def marlPart (s : State) (c : Ch) : List Byte :=
  let m := s.marl c
  let h := m.health
  let t2 := hasT2 m
  natLe (fld (marlStatus s c) 31 24 * 2 ^ 24) 4
    ++ natLe (m.table.failed.length * 65536 + m.dies) 4 ++ sat4 m.unused ++ sat4 (m.table.spares.map (fun e => e.2.length)).sum
    ++ sat8 (if t2 then m.flash.capFmt else 0) ++ sat8 (if t2 then capNow m else 0) ++ sat8 (if t2 then mappedUnits m else 0)
    ++ sat4 (if t2 then sbGood m else 0) ++ sat4 (if t2 then (poolSb m).toNat else 0)
    ++ natLe (wearUsed m) 2 ++ natLe (wearMax m) 2
    ++ sat4 h.retiredProg ++ sat4 h.retiredErase ++ sat4 h.retiredRead
    ++ sat8 h.unitsRead ++ sat8 h.unitsHost ++ sat8 h.unitsGc ++ sat8 h.evicted
    ++ h.errBin.toList.flatMap sat4
    ++ sat4 h.retries ++ sat4 h.soft ++ sat4 h.rebuilt ++ sat4 h.unrecovered ++ sat4 h.pfFlushes ++ sat4 h.recoveries
    ++ intLe h.tempMax 2 ++ intLe h.tempMin 2
    ++ natLe (if t2 then m.flash.spareRes else 0) 4
    ++ h.tempHist.toList.flatMap sat4
    ++ sat8 (if t2 then m.capCeil else 0) ++ zeros 56

/-- Bits [31:15] of CH_STATUS in place. -/
def statusHigh (s : State) (c : Ch) : Nat := fld (chStatus s c) 31 15 * 2 ^ 15

/-- A channel's section as the channel gives it: 2,048 bytes. -/
def chSection (s : State) (c : Ch) : List Byte :=
  let ch := s.ch c
  let h := ch.health
  let group := if ch.eng.tested then some ch.eng.group else none
  natLe (statusHigh s c) 4 ++ natLe h.pushSeq.toNat 4
    ++ sat4 (seqLive s c) ++ sat4 (seqRetired s c) ++ sat4 (pbLiveCount s c) ++ sat4 (summFree s c) ++ sat4 (nodesFree s c) ++ sat4 h.orphaned
    ++ sat4 ch.sieve.fixed ++ sat4 ch.sieve.lost ++ sat4 ch.sieve.spares ++ sat4 ch.sieve.usable
    ++ h.sparesIn.toList.flatMap sat4 ++ h.engErr.toList.flatMap sat4
    ++ sat4 (lanesLeft ch.eng.lanes) ++ sat4 h.connErrors ++ zeros 164
    ++ natLe (groupBits group) 8 ++ natLe (ch.eng.marks.toNat + at_ 8 1 (b2n ch.eng.markHalf)) 4 ++ sat4 h.throttles
    ++ intLe h.tjMax 2 ++ intLe h.tjMin 2 ++ sat4 h.stackCorr ++ sat4 h.laneSpares ++ zeros 228
    ++ marlPart s c ++ zeros 1024

/-- A channel copies its section into the log (R427). -/
def pushSection (s : State) (c : Ch) : State :=
  let s := modHealth s c (fun h => { h with pushSeq := if h.pushSeq = BitVec.allOnes 32 then h.pushSeq else h.pushSeq + 1 })
  modIsland s (fun i => { i with polled := smPut i.polled c.val (chSection s c), stale := i.stale.filter (fun x => x != c.val) })

/-- A channel does not answer: its section stays and is marked STALE. -/
def staleSection (s : State) (c : Ch) : State :=
  modIsland s (fun i => { i with stale := if i.stale.contains c.val then i.stale else i.stale ++ [c.val] })

/-- A channel's section as the log holds it: zero for an absent channel; STALE in bit 0. -/
def logSection (s : State) (c : Ch) : List Byte :=
  if !isPresent s c then zeros 2048
  else
    let bs := (smGet? s.island.polled c.val).getD (zeros 2048)
    if s.island.stale.contains c.val then bset bs 0 [bs.headD 0 ||| 1] else bs

/-! ## The device's parts -/

/-- The counters at 0x0040: 192 bytes (R487). -/
def devCounters (s : State) : List Byte :=
  let d := s.island.devHealth
  sat4 d.supplyWarns ++ sat4 d.supplyResets ++ sat4 d.pfPin ++ natLe d.vcoreMin 2 ++ natLe d.vcoreMax 2
    ++ sat4 d.throttles ++ sat4 d.trips ++ intLe d.tjMax 2 ++ intLe d.tjMin 2 ++ sat4 d.govWindows
    ++ sat4 d.testsShut ++ sat4 d.testsStart ++ sat4 d.testsAborted ++ natLe d.peakW 2 ++ zeros 18
    ++ d.railWarn.toList.flatMap sat4 ++ d.railReset.toList.flatMap sat4 ++ zeros 64

/-- The sum of a 4-byte count over sections. -/
def sum4 (xs : List (List Byte)) (o : Nat) : List Byte := sat4 ((xs.map (fun x => word4 x o)).sum)

/-- The sum of an 8-byte count over sections. -/
def sum8 (xs : List (List Byte)) (o : Nat) : List Byte := sat8 ((xs.map (fun x => bnum x o 8)).sum)

/-- Sums of consecutive 4-byte counts. -/
def sums4 (xs : List (List Byte)) (o n : Nat) : List Byte := (List.range n).flatMap (fun i => sum4 xs (o + 4 * i))

/-- The least of a 4-byte count. -/
def least4 (xs : List (List Byte)) (o : Nat) : List Byte :=
  match xs.map (fun x => word4 x o) with
  | [] => zeros 4
  | n :: ns => sat4 (ns.foldl min n)

/-- The greatest or the least of a signed 2-byte field. -/
def pick2 (f : Int → Int → Int) (xs : List (List Byte)) (o : Nat) : List Byte :=
  match xs.map (fun x => sword2 x o) with
  | [] => zeros 2
  | n :: ns => intLe (ns.foldl f n) 2

/-- The greatest of a 2-byte field. -/
def greatest2 (xs : List (List Byte)) (o : Nat) : List Byte := natLe ((xs.map (fun x => bnum x o 2)).foldl max 0) 2

/-- The Marl part of the device section (R301): counts and bins summed, the least of the spares and of TEMP_MIN, the greatest of WEAR_MAX and
TEMP_MAX; STATE, SPARE_RES_FMT and WEAR_USED have no sum (log 51). -/
def devMarl (xs : List (List Byte)) : List Byte :=
  let p := 0x200
  zeros 4 ++ natLe (min 0xFFFF ((xs.map (fun x => bnum x (p + 4) 2)).sum) + 65536 * min 0xFFFF ((xs.map (fun x => bnum x (p + 6) 2)).sum)) 4
    ++ sum4 xs (p + 8) ++ least4 xs (p + 0xC) ++ sum8 xs (p + 0x10) ++ sum8 xs (p + 0x18) ++ sum8 xs (p + 0x20)
    ++ sum4 xs (p + 0x28) ++ least4 xs (p + 0x2C) ++ natLe (Config.deviceWear (xs.map (fun x => bnum x (p + 0x30) 2))).toNat 2 ++ greatest2 xs (p + 0x32)
    ++ sums4 xs (p + 0x34) 3 ++ sum8 xs (p + 0x40) ++ sum8 xs (p + 0x48) ++ sum8 xs (p + 0x50) ++ sum8 xs (p + 0x58)
    ++ sums4 xs (p + 0x60) 16 ++ sums4 xs (p + 0xA0) 6 ++ pick2 max xs (p + 0xB8) ++ pick2 min xs (p + 0xBA) ++ zeros 4
    ++ sums4 xs (p + 0xC0) 64 ++ sum8 xs (p + 0x1C0) ++ zeros 56

/-- The device section (R426): 2,048 bytes over the sections of the present channels. -/
def devSection (s : State) : List Byte :=
  let xs := (presentChs s).map (logSection s)
  let stale := (presentChs s).any (fun c => s.island.stale.contains c.val)
  natLe (at_ 16 12 (presentMask s) + b2n stale) 4 ++ sums4 xs 4 22 ++ zeros 164
    ++ zeros 8 ++ zeros 4 ++ sum4 xs 0x10C ++ pick2 max xs 0x110 ++ pick2 min xs 0x112 ++ sums4 xs 0x114 2 ++ zeros 228
    ++ devMarl xs ++ zeros 1024

/-- The health log as a mailbox reads it: 28,672 bytes, zeros in the sections of channels that its logical device does not hold (R411). -/
def healthLog (s : State) (mb : Mbox) : List Byte :=
  natLe (Config.healthVersion.toNat + 7 * 65536) 4 ++ natLe s.island.commitGen.toNat 4 ++ natLe s.island.hostTime.toNat 8 ++ zeros 48
    ++ devCounters s ++ devSection s ++ zeros 1792
    ++ allCh.flatMap (fun c => if mbNamesCh s mb c then logSection s c else zeros 2048)

/-! ## Other records -/

/-- The identity record (R411, R14): 64 bytes. -/
def identityRec (s : State) : List Byte :=
  let b := s.build
  [BitVec.ofNat 8 (b2n b.formK), BitVec.ofNat 8 (b.stepping.toNat / 256), BitVec.ofNat 8 b.stepping.toNat, b.grade]
    ++ natLe s.island.fw.version.toNat 3 ++ natLe (kilnCode s.island.kiln) 1 ++ natLe b.serial.toNat 8 ++ [b.board, 0]
    ++ natLe (presentMask s) 2 ++ natLe s.island.commitGen.toNat 4 ++ zeros 40

/-- The records of a queue not yet consumed, oldest first. -/
def evWaiting (q : EvQueue) : List EvRec :=
  (List.range ((q.prod + 512 - q.cons) % 512)).filterMap (fun i => smGet? q.recs ((q.cons + i) % 512))

/-- Whether the output pins are driven: with VAON or VAON_IO down every one is at high impedance (R494, R506). -/
def pinsDriven (s : State) : Bool := s.island.supply.aon && s.island.supply.io

/-- The level of an open-drain pin: low while it is asserted, else released (R506). -/
def openDrain (s : State) (asserted : Bool) : Option Bool := if pinsDriven s && asserted then some false else none

/-- THERMTRIP_N (R481, R506). -/
def pinThermtripN (s : State) : Option Bool := openDrain s s.island.supply.thermtrip

/-- ALERT_N (R506): low while queue 16 holds an unconsumed record of SEV 2 or above. -/
def pinAlertN (s : State) : Option Bool := openDrain s ((evWaiting s.island.evq[16]).any (fun r => decide (2 ≤ r.sev.toNat)))

/-- SHDN_DONE (R463, R464, R506), a push-pull pin. -/
def pinShdnDone (s : State) : Option Bool := if pinsDriven s then some s.island.supply.shdnDone else none

/-- The self-test record: 120 bytes. -/
def selfTestRec (s : State) : List Byte :=
  let x := s.island.selfTest
  [BitVec.ofNat 8 (b2n x.valid), x.when_, x.cause, x.state] ++ natLe (groupsFailed x) 2 ++ natLe x.vcoreMv 2 ++ intLe x.tjMax 2 ++ zeros 2
    ++ natLe x.gen.toNat 4 ++ natLe x.time.toNat 8 ++ x.groups.toList.flatMap (fun g => natLe (groupBits g) 8)

end Sys2Proof.Machine
end

