-- ==== Sys2Proof/Machine/KilnCmds.lean ====
section
/-! DEFINITION. Kiln's mailbox commands (R410), its dispatcher (R405, R406), boot and watchdog (R399, R435, R437), and the messages of the host port
and the sideband (R341 to R343). -/

namespace Sys2Proof.Machine
open Sys2Proof

/-! ## Identity, time, self-test record -/

/-- `GetIdentity`. -/
def runGetIdentity (mb : Mbox) (inp : List Byte) (s : State) : State :=
  mbRun s mb 0xC000 true false inp.isEmpty (fun s => mbOut s mb 0xC000 .ok (identityRec s))

/-- GET_IDENTITY (R14, R411). -/
def execGetIdentity (mb : Mbox) (inp : List Byte) (s : State) : Host.Outcome State Fault Refusal :=
  .next (mbEnter s mb 0xC000 (.getIdentity mb inp) (runGetIdentity mb inp))

/-- `SetTime`. -/
def runSetTime (mb : Mbox) (inp : List Byte) (s : State) : State :=
  mbRun s mb 0xC002 false false (inp.length == 8) (fun s =>
    mbSt (modIsland s (fun i => { i with hostTime := BitVec.ofNat 64 (leNat inp) })) mb 0xC002 .ok)

/-- SET_TIME (R409). -/
def execSetTime (mb : Mbox) (inp : List Byte) (s : State) : Host.Outcome State Fault Refusal :=
  .next (mbEnter s mb 0xC002 (.setTime mb inp) (runSetTime mb inp))

/-- `SelfTestQuery`. -/
def runSelfTestQuery (mb : Mbox) (inp : List Byte) (s : State) : State :=
  mbRun s mb 0xC003 true false inp.isEmpty (fun s => mbOut s mb 0xC003 .ok (selfTestRec s))

/-- SELF_TEST_QUERY (R473). -/
def execSelfTestQuery (mb : Mbox) (inp : List Byte) (s : State) : Host.Outcome State Fault Refusal :=
  .next (mbEnter s mb 0xC003 (.selfTestQuery mb inp) (runSelfTestQuery mb inp))

/-! ## Health (R427) -/

/-- The log's bytes, once every channel has answered or been given up. -/
def healthReply (s : State) (mb : Mbox) (off len : Nat) : State := mbOut s mb 0xC001 .ok (bsub (healthLog s mb) off len)

/-- `GetHealth`; `answered`: the channels that answer the poll. -/
def runGetHealth (mb : Mbox) (inp : List Byte) (answered : List Ch) (s : State) : State :=
  mbRun s mb 0xC001 true false (inp.length == 4) (fun s =>
    let off := bnum inp 0 2
    let len := bnum inp 2 2
    if 28672 < off + len then mbSt s mb 0xC001 .outOfRange
    else if 4096 < len then mbSt s mb 0xC001 .badField
    else
      let ps := presentChs s
      let s := forCh s (ps.filter (fun c => answered.contains c)) pushSection
      let wait := (ps.filter (fun c => !answered.contains c)).map (fun c => c.val)
      if wait.isEmpty then healthReply s mb off len
      else modIsland s (fun i => { i with poll := some { mb := mb.val, off, len, wait } }))

/-- GET_HEALTH (R427). -/
def execGetHealth (mb : Mbox) (inp : List Byte) (answered : List Ch) (s : State) : Host.Outcome State Fault Refusal :=
  .next (mbEnter s mb 0xC001 (.getHealth mb inp answered) (runGetHealth mb inp answered))

/-- A channel has not answered the poll in time. -/
def pollTimeout (s : State) (c : Ch) : State :=
  match s.island.poll with
  | none => s
  | some p =>
    if !p.wait.contains c.val then s
    else
      let s := staleSection s c
      let left := p.wait.filter (fun x => x != c.val)
      if left.isEmpty then
        let s := modIsland s (fun i => { i with poll := none })
        if h : p.mb < 33 then healthReply s ⟨p.mb, h⟩ p.off p.len else s
      else modIsland s (fun i => { i with poll := some { p with wait := left } })

/-! ## Shutdown (R463) -/

/-- `Shutdown`: step 1 stops every ring of the running channels. -/
def runShutdown (mb : Mbox) (inp : List Byte) (s : State) : State :=
  mbRun s mb 0xC004 false true inp.isEmpty (fun s =>
    if mb ≠ sidebandMb then mbSt s mb 0xC004 .accessDenied
    else
      let s := mbStart s mb 0xC004 (.shutdown 1 [])
      let s := forCh s (allCh.filter (isUp s)) (fun t c =>
        allRings.foldl (fun u r => if (u.ring c r).enable ∧ !(u.ring c r).draining then stopRing u c r else u) t)
      shutRun s mb 1 [])

/-- SHUTDOWN (R463). -/
def execShutdown (mb : Mbox) (inp : List Byte) (s : State) : Host.Outcome State Fault Refusal :=
  .next (mbEnter s mb 0xC004 (.shutdown mb inp) (runShutdown mb inp))

/-! ## Staging (R413) -/

/-- HELD and FAILED. -/
def stageOut (held failed : Nat) : List Byte := natLe held 2 ++ natLe failed 2

/-- `StageWrite`: nothing is staged when an entry fails. -/
def runStageWrite (mb : Mbox) (inp : List Byte) (s : State) : State :=
  mbRun s mb 0xC010 false false (decide (2 ≤ inp.length) && inp.length == 8 + 16 * bnum inp 0 2) (fun s =>
    let ws := s.island.staging[mb]
    match stageAll s mb ((chunks 16 (inp.drop 8)).map stageEntry) 0 ws with
    | .ok new => mbOut (setStaging s mb new) mb 0xC010 .ok (stageOut new.length 0xFFFF)
    | .error (e, i) => mbOut s mb 0xC010 e (stageOut ws.length i))

/-- STAGE_WRITE (R413). -/
def execStageWrite (mb : Mbox) (inp : List Byte) (s : State) : Host.Outcome State Fault Refusal :=
  .next (mbEnter s mb 0xC010 (.stageWrite mb inp) (runStageWrite mb inp))

/-- `StageRead`: the entries from FIRST on, as many as a payload holds. -/
def runStageRead (mb : Mbox) (inp : List Byte) (s : State) : State :=
  mbRun s mb 0xC011 false false (inp.length == 2) (fun s =>
    let ws := ((s.island.staging[mb]).drop (bnum inp 0 2)).take 255
    mbOut s mb 0xC011 .ok (natLe ws.length 8 ++ ws.flatMap entryBytes))

/-- STAGE_READ (R413). -/
def execStageRead (mb : Mbox) (inp : List Byte) (s : State) : Host.Outcome State Fault Refusal :=
  .next (mbEnter s mb 0xC011 (.stageRead mb inp) (runStageRead mb inp))

/-- `StageClear`. -/
def runStageClear (mb : Mbox) (inp : List Byte) (s : State) : State :=
  mbRun s mb 0xC012 false false inp.isEmpty (fun s => mbSt (setStaging s mb []) mb 0xC012 .ok)

/-- STAGE_CLEAR (R413). -/
def execStageClear (mb : Mbox) (inp : List Byte) (s : State) : Host.Outcome State Fault Refusal :=
  .next (mbEnter s mb 0xC012 (.stageClear mb inp) (runStageClear mb inp))

/-! ## Commits (R414, R415) -/

/-- `CommitCheck`. -/
def runCommitCheck (mb : Mbox) (inp : List Byte) (s : State) : State :=
  mbRun s mb 0xC013 false false inp.isEmpty (fun s =>
    let fs := findings s s.island.staging[mb]
    mbOut s mb 0xC013 (if fs.isEmpty then .ok else .commitInvalid) (findingsOut fs))

/-- COMMIT_CHECK (R414). -/
def execCommitCheck (mb : Mbox) (inp : List Byte) (s : State) : Host.Outcome State Fault Refusal :=
  .next (mbEnter s mb 0xC013 (.commitCheck mb inp) (runCommitCheck mb inp))

/-- `CommitApply`: the fence is raised; where it stands already the commit goes on at once. -/
def runCommitApply (mb : Mbox) (inp : List Byte) (s : State) : State :=
  mbRun s mb 0xC014 false false inp.isEmpty (fun s =>
    let ws := s.island.staging[mb]
    if ws.isEmpty then mbOut s mb 0xC014 .ok (natLe s.island.commitGen.toNat 4)
    else
      let cs := (affectedChs s ws).map (fun c => c.val)
      if fenceStands s cs then commitRun s mb ws
      else modIsland s (fun i => { i with commit := some { mb := mb.val, words := ws, chans := cs } }))

/-- COMMIT_APPLY (R415). -/
def execCommitApply (mb : Mbox) (inp : List Byte) (s : State) : Host.Outcome State Fault Refusal :=
  .next (mbEnter s mb 0xC014 (.commitApply mb inp) (runCommitApply mb inp))

/-- `CommitQuery`. -/
def runCommitQuery (mb : Mbox) (inp : List Byte) (s : State) : State :=
  mbRun s mb 0xC015 true false inp.isEmpty (fun s => mbOut s mb 0xC015 .ok (natLe s.island.commitGen.toNat 4))

/-- COMMIT_QUERY (R415). -/
def execCommitQuery (mb : Mbox) (inp : List Byte) (s : State) : Host.Outcome State Fault Refusal :=
  .next (mbEnter s mb 0xC015 (.commitQuery mb inp) (runCommitQuery mb inp))

/-! ## Capabilities and events -/

/-- `CapRead`. -/
def runCapRead (mb : Mbox) (inp : List Byte) (s : State) : State :=
  mbRun s mb 0xC020 true false (inp.length == 5) (fun s =>
    let off := bnum inp 1 2
    let len := bnum inp 3 2
    match (lds s).find? (fun l => l.val == bnum inp 0 1) with
    | none => mbSt s mb 0xC020 .badField
    | some l =>
      if !mbNamesLd s mb l then mbSt s mb 0xC020 .accessDenied
      else if off < 0x1000 ∨ 0x8000 < off + len then mbSt s mb 0xC020 .outOfRange
      else if 4096 < len then mbSt s mb 0xC020 .badField
      else mbOut s mb 0xC020 .ok (smRead (s.ld l).capBytes off len))

/-- CAP_READ (R420). -/
def execCapRead (mb : Mbox) (inp : List Byte) (s : State) : Host.Outcome State Fault Refusal :=
  .next (mbEnter s mb 0xC020 (.capRead mb inp) (runCapRead mb inp))

/-- The queue that a mailbox reads (R411). -/
def mbQueue (mb : Mbox) : Fin 17 :=
  match mbLd mb with
  | some l => ldQ l
  | none => sidebandQ

/-- `EventRead`: at most 63 records in a payload. -/
def runEventRead (mb : Mbox) (inp : List Byte) (s : State) : State :=
  mbRun s mb 0xC021 true false (inp.length == 3) (fun s =>
    let n := mbQueue mb
    if 1 < bnum inp 2 1 then mbSt s mb 0xC021 .badField
    else
      let rs := (evWaiting s.island.evq[n]).take (min 63 (bnum inp 0 2))
      let s := if bnum inp 2 1 = 1 then
          modIsland s (fun i => { i with evq := i.evq.set n { i.evq[n] with cons := (i.evq[n].cons + rs.length) % 512 } })
        else s
      mbOut s mb 0xC021 .ok (natLe rs.length 8 ++ rs.flatMap evBytes))

/-- EVENT_READ (R424). -/
def execEventRead (mb : Mbox) (inp : List Byte) (s : State) : Host.Outcome State Fault Refusal :=
  .next (mbEnter s mb 0xC021 (.eventRead mb inp) (runEventRead mb inp))

/-! ## Channels (R429) -/

/-- `ChannelIsolate`. -/
def runChannelIsolate (mb : Mbox) (inp : List Byte) (s : State) : State :=
  mbRun s mb 0xC030 true false (inp.length == 1) (fun s => mbOnCh s mb 0xC030 (bnum inp 0 1) (fun c =>
    if (s.ch c).state = .absent then mbSt s mb 0xC030 .channelDown
    else mbSt (isolateCh s c 3) mb 0xC030 .ok))

/-- CHANNEL_ISOLATE (R429). -/
def execChannelIsolate (mb : Mbox) (inp : List Byte) (s : State) : Host.Outcome State Fault Refusal :=
  .next (mbEnter s mb 0xC030 (.channelIsolate mb inp) (runChannelIsolate mb inp))

/-- THERMTRIP_N is released once every junction is below the trip temperature less 15 °C (R481, R496). -/
def tripRelease (s : State) : State :=
  if hottest s < 100 then modSupply s (fun y => { y with thermtrip := false }) else s

/-- `ChannelReset`; `start`: what the start shows, when it follows at once under a valid stored result. A channel that is Off stays so while a rail is not valid
(R498). -/
def runChannelReset (mb : Mbox) (inp : List Byte) (start : Option StartReport) (s : State) : State :=
  mbRun s mb 0xC031 true true (inp.length == 1) (fun s => mbOnCh s mb 0xC031 (bnum inp 0 1) (fun c =>
    if !(s.ch c).connected then mbSt s mb 0xC031 .channelDown
    else
      let s := tripRelease (mbStart s mb 0xC031 (.chReset c.val))
      if (s.ch c).state = .absent then
        needTest (modTest s (fun x => { x with starts := ascGroups (x.starts ++ [c.val]) })) [c.val]
      else
        let stays := (s.ch c).state == .off && s.island.supply.warn != 0
        let s := resetCh (linkDown (if stays then s else isolateCh s c 5) c 0) c true
        match start, s.island.selfTest.valid && s.island.supply.down.isEmpty && !stays with
        | some st, true => startNow s c st
        | _, _ => beginStarts s [c]))

/-- CHANNEL_RESET (R429, R466). -/
def execChannelReset (mb : Mbox) (inp : List Byte) (start : StartReport) (s : State) : Host.Outcome State Fault Refusal :=
  .next (mbEnter s mb 0xC031 (.channelReset mb inp start) (runChannelReset mb inp (some start)))

/-! ## Messages by opcode (R341, R342, R402, R410) -/

/-- Extents of a payload from byte `o` on, 24 bytes each: DPA and length. -/
def cxlExtents (inp : List Byte) (o n : Nat) : List (Nat × Nat) := (List.range n).map (fun i => (bnum inp (o + 24 * i) 8, bnum inp (o + 24 * i + 8) 8))

/-- Whether a CXL command's payload has the length of its fields (R404; CXL 3.1, PRESUMED, log 151). -/
def cxlLenOk (op : Nat) (inp : List Byte) : Bool :=
  let n := inp.length
  match op with
  | 0x4000 | 0x0400 | 0x4800 | 0x0002 | 0x0005 | 0x5400 | 0x5600 => n == 0
  | 0x0401 => n == 24
  | 0x4300 => n == 16
  | 0x4302 => n == 72
  | 0x0100 => n == 1
  | 0x0101 => n == 6 + 2 * bnum inp 2 1
  | 0x4801 => n == 8
  | 0x4802 | 0x4803 => n == 8 + 24 * bnum inp 0 4
  | 0x5604 | 0x5605 => n == 71
  | _ => true

/-- A CXL command that arrives as a message with its payload; the payload layouts are CXL 3.1's (PRESUMED, log 151). -/
def runCxlMessage (mb : Mbox) (op : Nat) (inp : List Byte) (s : State) : State :=
  mbRun s mb op false false (cxlLenOk op inp) (fun s => match op with
    | 0x4000 => runIdentify mb s
    | 0x0400 => runSupportedLogs mb s
    | 0x4800 => runDcConfig mb s
    | 0x0002 => runBgStatus mb s
    | 0x5400 => runLdInfo mb s
    | 0x5600 => runDcdInfo mb s
    | 0x0401 => runGetLog mb (BitVec.ofNat 128 (beNat (bsub inp 0 16))) (bnum inp 16 4) (bnum inp 20 4) s
    | 0x4300 => runPoisonList mb (bnum inp 0 8) (64 * bnum inp 8 8) s
    | 0x4302 => runClearPoison mb (bnum inp 0 8) (bsub inp 8 64) s
    | 0x0100 => runGetEvents mb (BitVec.ofNat 8 (bnum inp 0 1)) s
    | 0x0101 => runClearEvents mb (BitVec.ofNat 8 (bnum inp 0 1)) ((List.range (bnum inp 2 1)).map (fun i => bnum inp (6 + 2 * i) 2)) s
    | 0x4801 => runExtentList mb (bnum inp 0 4) (bnum inp 4 4) s
    | 0x4802 => runAddDcResponse mb (cxlExtents inp 8 (bnum inp 0 4)) s
    | 0x4803 => runReleaseDc mb (cxlExtents inp 8 (bnum inp 0 4)) s
    | 0x5604 =>
      match ldOf (bnum inp 0 2) with
      | none => mbInvalid s mb op
      | some l =>
        let dpa := bnum inp 31 8
        if dpa < staticLen s l then mbInvalid s mb op
        else if h : partOf s l dpa < 4 then
          runDcAdd mb l ⟨partOf s l dpa, h⟩ (dpa - partBase s l (partOf s l dpa)) (bnum inp 39 8) (BitVec.ofNat 128 (bnum inp 47 16)) s
        else mbInvalid s mb op
    | 0x5605 =>
      match ldOf (bnum inp 0 2) with
      | none => mbInvalid s mb op
      | some l =>
        let dpa := bnum inp 31 8
        if dpa < staticLen s l then mbInvalid s mb op
        else if h : partOf s l dpa < 4 then
          runDcRelease mb l ⟨partOf s l dpa, h⟩ (dpa - partBase s l (partOf s l dpa)) (bnum inp 39 8) s
        else mbInvalid s mb op
    | _ => mbUnsupported s mb op)

/-- A command that arrives as a CCI or FM-API message with its payload; `start` and `answered` are what a start shows and which channels answer. -/
def runMessage (mb : Mbox) (op : Nat) (inp : List Byte) (start : StartReport) (answered : List Ch) (s : State) : State :=
  match op with
  | 0xC000 => runGetIdentity mb inp s
  | 0xC001 => runGetHealth mb inp answered s
  | 0xC002 => runSetTime mb inp s
  | 0xC003 => runSelfTestQuery mb inp s
  | 0xC004 => runShutdown mb inp s
  | 0xC010 => runStageWrite mb inp s
  | 0xC011 => runStageRead mb inp s
  | 0xC012 => runStageClear mb inp s
  | 0xC013 => runCommitCheck mb inp s
  | 0xC014 => runCommitApply mb inp s
  | 0xC015 => runCommitQuery mb inp s
  | 0xC020 => runCapRead mb inp s
  | 0xC021 => runEventRead mb inp s
  | 0xC030 => runChannelIsolate mb inp s
  | 0xC031 => runChannelReset mb inp (some start) s
  | 0xC040 => runMediaFormat mb inp s
  | 0xC041 => runMediaFlush mb inp s
  | 0xC042 => runMediaDiscard mb inp s
  | 0xC043 => runMediaSecureDiscard mb inp s
  | 0xC050 => runRegionCreate mb inp s
  | 0xC051 => runRegionSetHome mb inp s
  | 0xC052 => runRegionRegister mb inp s
  | 0xC053 => runRegionRevoke mb inp s
  | 0xC054 => runRegionRelease mb inp s
  | 0xC055 => runRegionPublish mb inp s
  | 0xC056 => runRegionQuery mb inp s
  | 0xC060 => runLinkConnSet mb inp s
  | 0xC061 => runLinkConnReset mb inp s
  | 0xC062 => runLinkConnClose mb inp s
  | 0xC063 => runLinkConnQuery mb inp s
  | 0xC064 => runLinkWindowSet mb inp s
  | 0xC065 => runLinkKeySet mb inp s
  | 0xC070 => runKeyLoad mb inp s
  | 0xC071 => runKeyDestroy mb inp answered s
  | 0xC072 => runKeyQuery mb inp s
  | 0xC080 => runFirmwareUpdate mb inp s
  | 0xC081 => runFirmwareActivate mb inp s
  | 0xC082 => runFirmwareRecover mb inp s
  | op => if 0xC000 ≤ op ∧ op < 0xC100 then mbRun s mb op false false true (fun s => mbSt s mb op .badCommand) else runCxlMessage mb op inp s

/-- The message types that an endpoint serves (R341). -/
def mctpTypes (ep : Endpoint) : List Byte := if epMb ep = sidebandMb then [0, 5, 6, 7, 8] else [0, 5, 6, 8]

/-- The longest message that is reassembled (R341). -/
def mctpMax : Nat := 4096

/-- An MCTP control command (PRESUMED, MCTP 1.3, log 152): Set Endpoint ID, Get Endpoint ID, Get MCTP Version Support, Get Message Type Support; any other
is answered with ERROR_UNSUPPORTED_CMD. -/
def mctpControl (s : State) (ep : Endpoint) (cmd : Byte) (data : List Byte) : State :=
  let eid := ((s.host.eids.find? (fun e => e.1 == ep)).map (fun e => e.2)).getD 0
  let answer := fun (s : State) (bs : List Byte) => emit s (.mctp ep 0 (cmd :: bs))
  match cmd.toNat with
  | 1 =>
    let x := data.getD 1 0
    answer (modHost s (fun h => { h with eids := h.eids.filter (fun e => e.1 != ep) ++ [(ep, x)] })) [0, 0, x, 0]
  | 2 => answer s [0, eid, 0, 0]
  | 4 => answer s [0, 1, 0xF1, 0xF3, 0xF0, 0]
  | 5 => answer s ([0, BitVec.ofNat 8 (mctpTypes ep).length] ++ mctpTypes ep)
  | _ => answer s [5]

/-- MCTP_MESSAGE (R341): control commands, CCI and FM-API messages, which join their mailbox (R342); SPDM and secured messages have rows of their
own. -/
def execMctpMessage (ep : Endpoint) (msg : MctpMsg) (s : State) : Host.Outcome State Fault Refusal :=
  .next (if !epUp s ep then s
    else match msg with
      | .control cmd data => if mctpMax < data.length then s else mctpControl s ep cmd data
      | .spdm _ => s
      | .secured _ => s
      | .fmApi op inp start answered =>
        if mctpMax < inp.length then s
        else if epMb ep = sidebandMb then mbEnter s sidebandMb op.toNat (.mctpMessage ep msg) (runMessage sidebandMb op.toNat inp start answered)
        else emit s (.mctpError ep 0x07)
      | .cci op inp start answered =>
        if mctpMax < inp.length then s
        else mbEnter s (epMb ep) op.toNat (.mctpMessage ep msg) (runMessage (epMb ep) op.toNat inp start answered)
      | .other t => emit s (.mctpError ep t))

/-- I3C_ADDRESS_ASSIGN (R343, R506). -/
def execI3cAddressAssign (m : I3cAssign) (s : State) : Host.Outcome State Fault Refusal :=
  .next (if !sidebandUp s then s
    else match m with
      | .entdaa a => modHost s (fun h => { h with i3cAddr := some a })
      | .setdasa st a => if st = 0x58 + s.build.strap.setWidth 7 then modHost s (fun h => { h with i3cAddr := some a }) else s)

/-! ## The dispatcher (R399, R405, R406) -/

/-- A waiting command: its opcode, and what it does. -/
def waitRun (i : Instr) : Option (Nat × (State → State)) :=
  let cxl := fun (mb : Mbox) (op : Nat) (k : State → State) => some (op, fun s => mbRun s mb op false false true k)
  match i with
  | .identifyMemoryDevice mb => cxl mb 0x4000 (runIdentify mb)
  | .getSupportedLogs mb => cxl mb 0x0400 (runSupportedLogs mb)
  | .getLog mb u o n => cxl mb 0x0401 (runGetLog mb u o n)
  | .getPoisonList mb d n => cxl mb 0x4300 (runPoisonList mb d n)
  | .clearPoison mb d x => cxl mb 0x4302 (runClearPoison mb d x)
  | .getEventRecords mb g => cxl mb 0x0100 (runGetEvents mb g)
  | .clearEventRecords mb g hs => cxl mb 0x0101 (runClearEvents mb g hs)
  | .getDcConfiguration mb => cxl mb 0x4800 (runDcConfig mb)
  | .getDcExtentList mb n f => cxl mb 0x4801 (runExtentList mb n f)
  | .addDcResponse mb xs => cxl mb 0x4802 (runAddDcResponse mb xs)
  | .releaseDynamicCapacity mb xs => cxl mb 0x4803 (runReleaseDc mb xs)
  | .backgroundOperationStatus mb => cxl mb 0x0002 (runBgStatus mb)
  | .requestAbortBackground mb => cxl mb 0x0005 (fun s => mbUnsupported s mb 0x0005)
  | .getLdInfo mb => cxl mb 0x5400 (runLdInfo mb)
  | .getDcdInfo mb => cxl mb 0x5600 (runDcdInfo mb)
  | .initiateDcAdd mb l p o n t => cxl mb 0x5604 (runDcAdd mb l p o n t)
  | .initiateDcRelease mb l p o n => cxl mb 0x5605 (runDcRelease mb l p o n)
  | .setLdAllocations mb => cxl mb 0x5402 (fun s => mbUnsupported s mb 0x5402)
  | .getIdentity mb x => some (0xC000, runGetIdentity mb x)
  | .getHealth mb x a => some (0xC001, runGetHealth mb x a)
  | .setTime mb x => some (0xC002, runSetTime mb x)
  | .selfTestQuery mb x => some (0xC003, runSelfTestQuery mb x)
  | .shutdown mb x => some (0xC004, runShutdown mb x)
  | .stageWrite mb x => some (0xC010, runStageWrite mb x)
  | .stageRead mb x => some (0xC011, runStageRead mb x)
  | .stageClear mb x => some (0xC012, runStageClear mb x)
  | .commitCheck mb x => some (0xC013, runCommitCheck mb x)
  | .commitApply mb x => some (0xC014, runCommitApply mb x)
  | .commitQuery mb x => some (0xC015, runCommitQuery mb x)
  | .capRead mb x => some (0xC020, runCapRead mb x)
  | .eventRead mb x => some (0xC021, runEventRead mb x)
  | .channelIsolate mb x => some (0xC030, runChannelIsolate mb x)
  | .channelReset mb x st => some (0xC031, runChannelReset mb x (some st))
  | .mediaFormat mb x => some (0xC040, runMediaFormat mb x)
  | .mediaFlush mb x => some (0xC041, runMediaFlush mb x)
  | .mediaDiscard mb x => some (0xC042, runMediaDiscard mb x)
  | .mediaSecureDiscard mb x => some (0xC043, runMediaSecureDiscard mb x)
  | .regionCreate mb x => some (0xC050, runRegionCreate mb x)
  | .regionSetHome mb x => some (0xC051, runRegionSetHome mb x)
  | .regionRegister mb x => some (0xC052, runRegionRegister mb x)
  | .regionRevoke mb x => some (0xC053, runRegionRevoke mb x)
  | .regionRelease mb x => some (0xC054, runRegionRelease mb x)
  | .regionPublish mb x => some (0xC055, runRegionPublish mb x)
  | .regionQuery mb x => some (0xC056, runRegionQuery mb x)
  | .linkConnSet mb x => some (0xC060, runLinkConnSet mb x)
  | .linkConnReset mb x => some (0xC061, runLinkConnReset mb x)
  | .linkConnClose mb x => some (0xC062, runLinkConnClose mb x)
  | .linkConnQuery mb x => some (0xC063, runLinkConnQuery mb x)
  | .linkWindowSet mb x => some (0xC064, runLinkWindowSet mb x)
  | .linkKeySet mb x => some (0xC065, runLinkKeySet mb x)
  | .keyLoad mb x => some (0xC070, runKeyLoad mb x)
  | .keyDestroy mb x a => some (0xC071, runKeyDestroy mb x a)
  | .keyQuery mb x => some (0xC072, runKeyQuery mb x)
  | .firmwareUpdate mb x => some (0xC080, runFirmwareUpdate mb x)
  | .firmwareActivate mb x => some (0xC081, runFirmwareActivate mb x)
  | .firmwareRecover mb x => some (0xC082, runFirmwareRecover mb x)
  | .mctpMessage _ (.fmApi op x st as_) => some (op.toNat, runMessage sidebandMb op.toNat x st as_)
  | .mctpMessage ep (.cci op x st as_) => some (op.toNat, runMessage (epMb ep) op.toNat x st as_)
  | _ => none

/-- Whether a waiting entry still waits: a mailbox command behind Kiln, an HDM decoder's commit behind a fence. -/
def stillWaits (s : State) (w : Nat × Instr) : Bool :=
  match w.2 with
  | .hdmDecoderCommit l _ _ => ldFenced s l
  | i => match waitRun i with
    | some x => kilnBusy s x.1
    | none => false

/-- Runs a waiting entry. -/
def runWaiting (s : State) (w : Nat × Instr) : State :=
  match w.2 with
  | .hdmDecoderCommit l i d => commitDecoder l i d s
  | i => match waitRun i with
    | some x => x.2 (if h : w.1 < 33 then setVia s ⟨w.1, h⟩ i else s)
    | none => s

/-- Takes the first element that passes a test. -/
def takeFirst {α : Type} (p : α → Bool) : List α → Option (α × List α)
  | [] => none
  | x :: xs => if p x then some (x, xs) else (takeFirst p xs).map (fun r => (r.1, x :: r.2))

/-- Runs the commands that need not wait any more, in order of arrival (fuel: their number). -/
def dispatchWaiting : Nat → State → State
  | 0, s => s
  | n + 1, s =>
    match takeFirst (fun w => !stillWaits s w) s.island.waiting with
    | none => s
    | some (w, rest) => dispatchWaiting n (runWaiting (modIsland s (fun i => { i with waiting := rest })) w)

/-- Kiln's dispatcher after a wait has ended. -/
def mbDispatch (s : State) : State := dispatchWaiting s.island.waiting.length s

/-- REGION_ADMISSION_RESUME (R359): the DRAIN count that an admission waits for has fallen; host requests and a mailbox publish that wait for it go on
with it. -/
def execRegionAdmissionResume (c : Ch) (r : Ring) (s : State) : Host.Outcome State Fault Refusal :=
  .next (
    let s := match (s.ring c r).wait with
      | .drain idx par => if drainOf (regionAt s idx) par = 0xFFFFFF then s else setWait s c r .released
      | _ => s
    mbDispatch (forCh s allCh wbWake))

/-- A commit whose fence stands goes on; none is applied while Kiln restarts or is in Recovery (R400, R437). -/
def commitStep (s : State) : State :=
  match s.island.commit with
  | none => s
  | some m => if s.island.kiln = .running ∧ fenceStands s m.chans then (if h : m.mb < 33 then commitRun s ⟨m.mb, h⟩ m.words else s) else s

/-- COMMIT_FENCE_STANDS (R415): every operation admitted before the fence has retired. -/
def execCommitFenceStands (s : State) : Host.Outcome State Fault Refusal := .next (mbDispatch (commitStep s))

/-- HEALTH_POLL_TIMEOUT (R427). -/
def execHealthPollTimeout (c : Ch) (s : State) : Host.Outcome State Fault Refusal := .next (mbDispatch (pollTimeout s c))

/-- KEY_PURGE_TIMEOUT (R430). -/
def execKeyPurgeTimeout (c : Ch) (slot : Nat) (s : State) : Host.Outcome State Fault Refusal := .next (mbDispatch (purgeTimeout s c slot))

/-! ## Boot and watchdog (R399, R435, R437) -/

/-- Kiln enters Recovery. -/
def enterRecovery (s : State) (cause : Nat) : State :=
  raiseD (modIsland s (fun i => { i with kiln := .recovery, cause := BitVec.ofNat 4 cause })) 0x0107 sevFatal (natLe cause 1)

/-- MIN_SVN once the firmware asked to raise it runs (R435 step 3): a fuse once blown stays blown, and there are
64 of them, so an image whose SVN lies above 64 blows them all (log 115). -/
def raisedSvn (f : Firmware) : BitVec 7 :=
  if f.raiseSvn then BitVec.ofNat 7 (max f.minSvn.toNat (min 64 f.svn.toNat)) else f.minSvn

/-- The new firmware runs: MIN_SVN rises where the image asks for it, and `FirmwareActivate` completes. -/
def fwRuns (s : State) : State :=
  let s := modFw s (fun f => { f with
    minSvn := raisedSvn f, raiseSvn := false })
  forTasks s (fun t mb x => match x with
    | .fwActivate => raiseD (mbDone t mb .ok (natLe t.island.fw.version.toNat 3)) 0x0106 sevInfo (natLe t.island.fw.version.toNat 3)
    | _ => t)

/-- Kiln sets the regulators of VCORE and VSRAM at its first start (R502): VSRAM to its nominal 0.80 V, both outputs on (DESIGN CHOICE, log 185). -/
def regulatorsOn (s : State) : State :=
  emit (emit (emit s (.vout .vsram 800)) (.operation .vcore true)) (.operation .vsram true)

/-- The image of a copy is loaded and runs, after the start-up commit where no commit has been applied since VAON came up. -/
def bootInto (s : State) (b : Bool) : State :=
  let first := !s.island.committed
  let s := fwLoad s (if b then s.island.fw.copyB else s.island.fw.copyA) b
  let s := if first then startUp s else s
  let s := fwRuns (modIsland s (fun i => { i with kiln := .running, cause := 0 }))
  if first then beginStarts (regulatorsOn s) (offConnected s) else s

/-- An activation whose restart found no image to run ends. -/
def endActivates (s : State) : State :=
  forTasks s (fun t mb x => match x with
    | .fwActivate => mbDone t mb .kilnRecovery []
    | _ => t)

/-- BOOT (R435): the copy that PREFER names, else the other, else Recovery. -/
def execBoot (s : State) : Host.Outcome State Fault Refusal :=
  .next (if !s.island.supply.aon ∨ s.island.kiln ≠ .booting then s
    else match fwChoose s with
      | some b => mbDispatch (commitStep (bootInto s b))
      | none => mbDispatch (endActivates (enterRecovery s (bootCause s))))

/-- A commit that waits for its fence ends, for Kiln applies none in Recovery (R400). -/
def dropCommit (s : State) : State :=
  match s.island.commit with
  | none => s
  | some m =>
    let s := modIsland s (fun i => { i with commit := none })
    applyHeld (if h : m.mb < 33 then mbSt s ⟨m.mb, h⟩ 0xC014 .kilnRecovery else s)

/-- FIRMWARE_WATCHDOG_EXPIRY (R399). -/
def execFirmwareWatchdogExpiry (s : State) : Host.Outcome State Fault Refusal :=
  .next (if !s.island.supply.aon ∨ s.island.kiln ≠ .running then s else mbDispatch (dropCommit (enterRecovery s 3)))

/-! ## What goes on without a command (log 21) -/

/-- A media command whose work has been under way since its command ends (R407, R410): a format sets FORMATTED at its end. -/
def mediaStep (s : State) : State :=
  forTasks s (fun t mb x => match x with
    | .mediaFormat n => match chOf n with
      | some c => let t := formatFlash t c; mbDone t mb .ok (natLe (t.marl c).flash.capFmt 8)
      | none => t
    | .mediaDiscard _ => mbDone t mb .ok []
    | _ => t)

/-- What a step does when no command waits: media commands end, a `Shutdown` goes on, and Kiln's dispatcher takes what need not wait any more
(DESIGN CHOICE, log 21). -/
def tick (s : State) : State := mbDispatch (shutStep (mediaStep s))

/-! ## The engine map (R469) -/

/-- ENGINE_MAP_COMMIT: Kiln's own commit of a new engine map; a ring that no slot serves any more degrades the channel, or isolates it with the
last (R45). -/
def engineMap (s : State) (c : Ch) : State :=
  let old := (s.ch c).eng.slotOf
  let s := modCh s c (fun ch => { ch with eng := { ch.eng with slotOf := mapEngines ch.eng.failed ch.eng.slotOf, mapDue := [] } })
  let s := engineSpared (bumpGen s) c old
  let new := (s.ch c).eng.slotOf.toList
  let s :=
    if new.all (fun x => x.isNone) then isolateCh s c 2
    else if new.any (fun x => x.isNone) ∧ (s.ch c).state = .ready then setChState s c .degraded 2 else s
  putCaps s

/-- ENGINE_MAP_COMMIT (R469). -/
def execEngineMapCommit (c : Ch) (s : State) : Host.Outcome State Fault Refusal :=
  .next (if (s.ch c).eng.mapDue.isEmpty ∨ s.island.commit.isSome ∨ s.island.kiln ≠ .running then s else engineMap s c)

end Sys2Proof.Machine
end

