-- ==== Sys2Proof/Machine/SieveCmds.lean ====
section
/-! DEFINITION. The Sieve's descriptors on ring 7 and its events: hashes, probes with their depth cascade and width pairing, inserts and
shifts, removals, the scrubber and spare rows (R175 to R204). -/

namespace Sys2Proof.Machine
open Sys2Proof

/-- Whether T0 areas that a body names are refused (R199). -/
def areasBad (as : List (Nat × Nat)) : Bool := as.any (fun a => !inT0 a.1 a.2 || touchesPriv a.1 a.2)

/-! ## SieveHash (R175, R177) -/

/-- One link of the chain: the digest bytes of H(i) from those of H(i−1), the 64 little-endian token words, and the masked tag. -/
def chainLink (prev tokens : List Byte) (tag size : Nat) : List Byte :=
  (sm3 (prev ++ (chunks 4 tokens).flatMap List.reverse ++ natBe tag 2)).take size

/-- The hashes of consecutive blocks, most significant byte first each. -/
def chainAll (tag size : Nat) : List Byte → List (List Byte) → List (List Byte)
  | _, [] => []
  | prev, t :: ts => let h := chainLink prev t tag size; h :: chainAll tag size h ts

/-- SIEVE_HASH (R175, R199). -/
def execSieveHash (c : Ch) (r : Ring) (s : State) : Host.Outcome State Fault Refusal :=
  .next (runHead s c r 0x30 (fun d s =>
    let n := fld d 1023 1018 + 1
    let wide := bit d 1017
    let size := if wide then 32 else 16
    let tok := fld d 1000 977
    let out := fld d 976 953
    if resv d 696 128 ∨ (!wide ∧ resv d 952 825) ∨ (wide ∧ pairRole s c = 0) ∨ areasBad [(tok, 256 * n), (out, size * n)] then retireSt s c r .badField
    else
      let tag := fld d 1016 1001 &&& fld (s.ch c).cfg.sieveCfg.toNat 31 16
      let seed := natBe (if wide then fld d 952 697 else fld d 824 697) size
      let hs := chainAll tag size seed (chunks 256 (t0Read s c tok (256 * n)))
      retireSt (t0Write s c out (hs.flatMap List.reverse)) c r .ok))

/-! ## SieveProbe (R184, R199) -/

/-- A result record of a hit. -/
def hitRecord (i : Nat) (w : SieveRow) : BitVec 128 :=
  BitVec.ofNat 128 (at_ 127 1 1 + at_ 107 17 i + at_ 103 4 w.band.toNat
    + at_ 99 4 (8 * b2n w.valid + 4 * b2n w.transit + 2 * b2n w.pinned + b2n w.user) + at_ 83 16 w.tag.toNat + w.pb.toNat)

/-- LEAP_LIMIT of a record. -/
def leapRecord : BitVec 128 := BitVec.ofNat 128 (at_ 125 1 1)

/-- DEPTH of result records. -/
def depthOf (recs : List (BitVec 128)) : Nat :=
  (recs.foldl (fun (a : Nat × Nat) w => (a.1 + 1, if w.getLsbD 127 ∧ !w.getLsbD 126 then a.1 + 1 else a.2)) (0, 0)).2

/-- RESULT of a probe without CAS_DEPTH. -/
def probeResult (recs : List (BitVec 128)) : Nat :=
  let n := depthOf recs
  (if n = 0 then 0xFFFFFFFFFF else fld (recs.getD (n - 1) 0).toNat 39 0) + at_ 40 7 n

/-- A probe's end: result records in T0, and the retire. -/
def probeEnd (s : State) (c : Ch) (r : Ring) (recs : List (BitVec 128)) (resAddr : Nat) (st : St) (extra : Nat) : State :=
  retire (t0Write s c resAddr (recs.flatMap (fun w => natLe w.toNat 16))) c r { cplRes .ok (probeResult recs + extra) with status := stBits st }

/-- HITS of result records: bit e for entry e. -/
def hitsOf (recs : List (BitVec 128)) : Nat :=
  (recs.foldl (fun (a : Nat × Nat) w => (a.1 + 1, a.2 + (if w.getLsbD 127 then 2 ^ a.1 else 0))) (0, 0)).2

/-- A depth cascade frame (R200). -/
def cascadeBits (err : Bool) (seq : Byte) (hits : Nat) : BitVec 74 :=
  let v := at_ 73 1 (b2n err) + at_ 65 8 seq.toNat + at_ 1 64 hits
  BitVec.ofNat 74 (v + popcount v 74 % 2)

/-- CAS_ROLE of a channel. -/
def casRole (s : State) (c : Ch) : Nat := fld (s.ch c).cfg.sieveCfg.toNat 11 10

/-- After the searches of a probe: it retires, or takes part in the depth cascade (R200). -/
def probeSearched (s : State) (c : Ch) (r : Ring) (x : ProbeCtx) (cas : Bool) : State :=
  if !cas then probeEnd s c r x.recs x.resAddr .ok 0
  else if casRole s c = 1 then
    probeEnd (emit s (.cascade c.val (cascadeBits false x.casSeq (hitsOf x.recs)))) c r x.recs x.resAddr .ok 0
  else setWait s c r (.cascade x)

/-- The unpaired searches: every entry in ascending order. -/
def probeRecs (s : State) (c : Ch) (tag m : Nat) (keys : List (BitVec 128)) : List (BitVec 128) :=
  keys.map (fun k => match searchFrom (s.ch c).sieve 0 (probeTest s c k tag m) with
    | some e => hitRecord e.1 e.2
    | none => 0)

/-- The keys of a vector: whole entries of 16 bytes, or in paired mode a device's own half of 32-byte entries (R177). -/
def vecKeys (s : State) (c : Ch) (addr n : Nat) : List (BitVec 128) :=
  let p := pairRole s c
  (List.range n).map (fun e => BitVec.ofNat 128 (if p = 0 then t0Num s c (addr + 16 * e) 16 else t0Num s c (addr + 32 * e + (if p = 1 then 16 else 0)) 16))

/-! ## Paired exchanges (R203) -/

/-- The row test of the ring 7 descriptor at HEAD in a paired exchange, under its opcode: entry key of a probe, KEY and MODEL_TAG of an insert,
the locator of a removal or flag change. -/
def pairTest (s : State) (c : Ch) (x : ProbeCtx) (w : SieveRow) : Bool :=
  let d := headDesc s c 7
  let op := fld d 127 120
  if op = 0x31 then probeTest s c (x.keys.getD x.entry 0) (fld d 1017 1002) (fld d 1001 1000) w
  else if op = 0x32 then dupTest (BitVec.ofNat 128 (fld d 1023 896)) (fld d 895 880) w
  else locates (fld d 839 838) (BitVec.ofNat 128 (fld d 1023 896)) (fld d 895 880) (fld d 879 840) w

/-- The index that this device has at or above `lo`. -/
def pairFind (s : State) (c : Ch) (x : ProbeCtx) (lo : Nat) : Option (Nat × SieveRow) := searchFrom (s.ch c).sieve lo (pairTest s c x)

/-- How a search of a paired exchange ends. -/
inductive PairEnd
  | hit (i : Nat) (w : SieveRow)
  | miss
  | leap
  deriving DecidableEq, Repr

/-- The descriptor's row goes into the Sieve once its report is accepted. -/
def insertPlaced (s : State) (c : Ch) (r : Ring) (p : PendRow) : State :=
  setWait (reportRow s c true true p.row.pb) c r (.reports 1 (some p) (planResult p))

/-- The row of a `SieveInsert`. -/
def insertRow (d : Nat) : SieveRow :=
  { key := BitVec.ofNat 128 (fld d 1023 896), tag := BitVec.ofNat 16 (fld d 895 880), band := BitVec.ofNat 4 (fld d 879 876), valid := true,
    transit := false, pinned := bit d 874, user := bit d 873, pb := BitVec.ofNat 40 (fld d 872 833) }

/-- Steps 4 to 7 of an insert with no row of its key (R187): the plan, spares brought in when there is no hole, and in paired mode the leader's
PLACE frame (R203). The spec does not say how a follower learns that the leader found no place: the model's choice is a PLACE frame whose A is
none (log 134). -/
def insertPlan (s : State) (c : Ch) (r : Ring) (d : Nat) : State :=
  let plan (s : State) : Option PendRow := planInsert (s.ch c).sieve (insertRow d) (fld d 879 876) (bit d 875)
  let s := if (plan s).isNone then spareHoles s c else s
  match plan s with
  | none => retireSt (if pairRole s c = 1 then sendPair s c 2 pairNone 0 else s) c r .sieveFull
  | some p =>
    let s := if pairRole s c = 1 then sendPair s c 2 p.target (if p.direct then p.target else p.hole) else s
    insertPlaced s c r p

/-- Rows removed by a descriptor: the handshake, reports, and the end when the last is accepted. -/
def removeRun (s : State) (c : Ch) (r : Ring) (t : Taken) : State :=
  let s := modSieve s c (fun x => removeTaken x t)
  let cpl := cplRes .ok t.pbs.length
  if t.pbs.isEmpty then retire s c r cpl
  else setWait (reportAll s c true t.pbs) c r (.reports t.pbs.length none cpl)

/-- Rewrites PINNED and USER of indices and of the pending row (R193). -/
def setFlagsOn (x : Sieve) (pinned user : Bool) (idx : List Nat) (pend : Bool) : Sieve :=
  let f (w : SieveRow) : SieveRow := { w with pinned, user }
  let x := idx.foldl (fun y i => setRow y i (f (rowAt y i))) x
  if pend then { x with pend := x.pend.map (fun p => { p with row := f p.row }) } else x

/-- The array indices of the row at an index: a row in transit stands at two (R188). -/
def copiesOf (x : Sieve) (i : Nat) : List Nat :=
  match x.pend with
  | some p => match p.prev with
    | some q => if i = q ∨ i = p.cur then [q, p.cur] else [i]
    | none => [i]
  | none => [i]

/-- Whether a match of a test at an index is the pending row (R188): it wins over an array row at its own target in a downward shift only. -/
def hitPending (x : Sieve) (i : Nat) (m : SieveRow → Bool) : Bool :=
  match x.pend with
  | some p => p.target == i && p.row.valid && m p.row && (p.down || !(rowUsable x i && (rowAt x i).valid && m (rowAt x i)))
  | none => false

/-- What a removal takes of the row at an index that a test has found (R192): the pending row, or every copy of the array row. -/
def takeHit (x : Sieve) (i : Nat) (force : Bool) (m : SieveRow → Bool) : Taken :=
  let ok := removable force (fun _ => true)
  if hitPending x i m then
    match x.pend with
    | some p => if ok p.row then { idx := [], pend := true, pbs := [p.row.pb] } else { idx := [], pend := false, pbs := [] }
    | none => { idx := [], pend := false, pbs := [] }
  else if ok (rowAt x i) then { idx := copiesOf x i, pend := false, pbs := [(rowAt x i).pb] }
  else { idx := [], pend := false, pbs := [] }

/-- Rewrites PINNED and USER of the row at an index that a test has found: the pending row, or every copy of the array row (R193). -/
def setFlagsHit (x : Sieve) (pinned user : Bool) (i : Nat) (m : SieveRow → Bool) : Sieve :=
  if hitPending x i m then setFlagsOn x pinned user [] true
  else if (rowAt x i).valid then setFlagsOn x pinned user (copiesOf x i) false
  else x

/-- The end of one search of a paired exchange: the next entry of a probe, the plan of an insert (the follower waits for PLACE), a removal or flag
change at the index. `go` begins the next entry's search. -/
def pairDone (go : State → ProbeCtx → State) (s : State) (c : Ch) (x : ProbeCtx) (e : PairEnd) : State :=
  let d := headDesc s c 7
  let op := fld d 127 120
  if op = 0x31 then
    let w := match e with
      | .hit i w => hitRecord i w
      | .miss => 0
      | .leap => leapRecord
    let x := { x with recs := x.recs ++ [w], entry := x.entry + 1, x := 0, trips := 0 }
    if x.entry < x.keys.length then go s x else probeSearched s c 7 x (bit d 951)
  else match e with
    | .leap => retireSt s c 7 .cascadeMismatch
    | .hit i w =>
      if op = 0x32 then retire s c 7 (cplRes .sieveDup w.pb.toNat)
      else if op = 0x33 then
        removeRun s c 7 (takeHit (s.ch c).sieve i (bit d 837) (pairTest s c x))
      else retire (modSieve s c (fun y => setFlagsHit y (bit d 836) (bit d 835) i (pairTest s c x))) c 7 (cplSt .ok)
    | .miss =>
      if op = 0x32 then (if pairRole s c = 1 then insertPlan s c 7 d else setWait s c 7 (.paired { x with entry := 1 }))
      else retire s c 7 (cplRes .ok 0)

/-- The leader's part of a search: its CAND frame with its lowest match at or above x; with none, the entry is a miss at both devices. `n` bounds the
entries that end at once. -/
def leaderGo : Nat → Ch → State → ProbeCtx → State
  | 0, _, s, _ => s
  | n + 1, c, s, x =>
    match pairFind s c x x.x with
    | some a => setWait (sendPair s c 1 a.1 x.entry) c 7 (.paired { x with x := a.1 })
    | none => pairDone (leaderGo n c) (sendPair s c 1 pairNone x.entry) c x .miss

/-- A paired search begins: the leader sends its frame, the follower waits for one. -/
def pairGo (c : Ch) (s : State) (x : ProbeCtx) : State :=
  if pairRole s c = 1 then leaderGo 65 c s x else setWait s c 7 (.paired x)

/-- The context of an exchange of one key. -/
def oneKey : ProbeCtx := { recs := [], resAddr := 0, casSeq := 0, keys := [], entry := 0, x := 0, trips := 0 }

/-- SIEVE_PROBE (R184, R199). -/
def execSieveProbe (c : Ch) (r : Ring) (s : State) : Host.Outcome State Fault Refusal :=
  .next (runHead s c r 0x31 (fun d s =>
    let n := fld d 1023 1018 + 1
    let vec := fld d 999 976
    let res := fld d 975 952
    let cas := bit d 951
    let p := pairRole s c
    if resv d 942 128 ∨ (cas ∧ casRole s c = 0) ∨ areasBad [(vec, (if p = 0 then 16 else 32) * n), (res, 16 * n)] then retireSt s c r .badField
    else
      let keys := vecKeys s c vec n
      let x : ProbeCtx := { recs := [], resAddr := res, casSeq := BitVec.ofNat 8 (fld d 950 943), keys, entry := 0, x := 0, trips := 0 }
      if p = 0 then probeSearched s c r { x with recs := probeRecs s c (fld d 1017 1002) (fld d 1001 1000) keys } cas
      else pairGo c s x))

/-! ## SieveInsert (R187) -/

/-- SIEVE_INSERT (R187, R180). A block whose home channel is not Ready or Degraded refuses by R21. -/
def execSieveInsert (c : Ch) (r : Ring) (s : State) : Host.Outcome State Fault Refusal :=
  .next (runHead s c r 0x32 (fun d s =>
    let v := fld d 872 833
    let key := BitVec.ofNat 128 (fld d 1023 896)
    if resv d 832 128 then retireSt s c r .badField
    else if (s.ch c).sieve.pend.isSome then setWait s c r .insertWait
    else match chOf (pbIndexOf v).home with
      | none => retireSt s c r .stalePrefix
      | some h =>
        if !isUp s h then retireSt s c r .channelDown
        else if !pbLive s v then retireSt s c r .stalePrefix
        else if pairRole s c = 0 then
          match searchFrom (s.ch c).sieve 0 (dupTest key (fld d 895 880)) with
          | some e => retire s c r (cplRes .sieveDup e.2.pb.toNat)
          | none => insertPlan s c r d
        else pairGo c s oneKey))

/-- SIEVE_INSERT_RESUME (R187 step 1): the pending row has landed. -/
def execSieveInsertResume (c : Ch) (s : State) : Host.Outcome State Fault Refusal :=
  .next (match (s.ring c 7).wait with
    | .insertWait => if (s.ch c).sieve.pend.isSome then s else setWait s c 7 .released
    | _ => s)

/-- SHIFT_ROW_COPY (R187, R191): one row towards the hole. -/
def execShiftRowCopy (c : Ch) (s : State) : Host.Outcome State Fault Refusal :=
  .next (match (s.ch c).sieve.pend with
    | some p => if isUp s c ∧ p.moved < p.total then modSieve s c (fun x => shiftCopy x p) else s
    | none => s)

/-- SHIFT_LANDING (R189): after the last copy the pending row is written at its target. -/
def execShiftLanding (c : Ch) (s : State) : Host.Outcome State Fault Refusal :=
  .next (match (s.ch c).sieve.pend with
    | some p => if isUp s c ∧ p.total ≤ p.moved then modSieve s c (fun x => shiftLand x p) else s
    | none => s)

/-! ## SieveRemove, SieveSetFlags, SieveRead (R192, R193) -/

/-- The checks of a locator body: MATCH_SEL 3 and the reserved bits (R199). -/
def locatorBad (d : Nat) (remove : Bool) : Bool :=
  fld d 839 838 == 3 || resv d 834 128 || (if remove then resv d 836 835 else bit d 837)

/-- SIEVE_REMOVE (R192). In paired mode MATCH_SEL 0 and 2 go by an exchange; by block the leader alone locates and sends a DROP frame for each
index, then one without an index, for which the follower waits (log 34). -/
def execSieveRemove (c : Ch) (r : Ring) (s : State) : Host.Outcome State Fault Refusal :=
  .next (runHead s c r 0x33 (fun d s =>
    let sel := fld d 839 838
    let x := (s.ch c).sieve
    if locatorBad d true then retireSt s c r .badField
    else if pairRole s c = 0 ∨ (pairRole s c = 1 ∧ sel = 1) then
      let t := takeRows x (bit d 837) (locates sel (BitVec.ofNat 128 (fld d 1023 896)) (fld d 895 880) (fld d 879 840))
      let s := if pairRole s c = 1 then sendDrops s c (takenIdx x t ++ [pairNone]) else s
      removeRun s c r t
    else if sel = 1 then setWait s c r (.paired oneKey)
    else pairGo c s oneKey))

/-- SIEVE_SET_FLAGS (R193). -/
def execSieveSetFlags (c : Ch) (r : Ring) (s : State) : Host.Outcome State Fault Refusal :=
  .next (runHead s c r 0x34 (fun d s =>
    let sel := fld d 839 838
    let x := (s.ch c).sieve
    if locatorBad d false then retireSt s c r .badField
    else if pairRole s c = 0 ∨ (pairRole s c = 1 ∧ sel = 1) then
      let t := takeRows x true (locates sel (BitVec.ofNat 128 (fld d 1023 896)) (fld d 895 880) (fld d 879 840))
      let s := modSieve s c (fun y => setFlagsOn y (bit d 836) (bit d 835) t.idx t.pend)
      let s := if pairRole s c = 1 then (takenIdx x t ++ [pairNone]).foldl (fun a i => sendPair a c 4 i 0) s else s
      retire s c r (cplSt .ok)
    else if sel = 1 then setWait s c r (.paired oneKey)
    else pairGo c s oneKey))

/-- A record of `SieveRead` (R193). -/
def readRecord (x : Sieve) (i : Nat) : List Byte :=
  let t := match x.pend with | some p => p.target == i | none => false
  natLe (rowBits (rowAt x i)) 24 ++ natLe (at_ 0 17 i + at_ 30 1 (b2n (!rowUsable x i)) + at_ 31 1 (b2n t)) 4 ++ zeros 4

/-- SIEVE_READ (R193, R199). -/
def execSieveRead (c : Ch) (r : Ring) (s : State) : Host.Outcome State Fault Refusal :=
  .next (runHead s c r 0x35 (fun d s =>
    let first := fld d 1023 1007
    let n := fld d 1006 995 + 1
    let dest := fld d 994 971
    if resv d 970 128 ∨ sieveRows < first + n ∨ areasBad [(dest, 32 * n)] then retireSt s c r .badField
    else retireSt (t0Write s c dest ((List.range n).flatMap (fun i => readRecord (s.ch c).sieve (first + i)))) c r .ok))

/-! ## Spare rows and removals by block (R193, R196) -/

/-- Whether ring 7 stands between descriptors. -/
def betweenSieve (s : State) (c : Ch) : Bool :=
  match (s.ring c 7).wait with
  | .idle => true
  | .gate _ => true
  | .released => true
  | .insertWait => true
  | _ => false

/-- SIEVE_ROW_SPARE_IN (R196): between descriptors of ring 7 and outside any shift. -/
def execSieveRowSpareIn (c : Ch) (idx : Nat) (s : State) : Host.Outcome State Fault Refusal :=
  .next (if isUp s c && betweenSieve s c && (s.ch c).sieve.pend.isNone then spareIn s c idx else s)

/-- SIEVE_BLOCK_REMOVAL (R193): the oldest request of a home channel, between descriptors of ring 7. -/
def execSieveBlockRemoval (c : Ch) (s : State) : Host.Outcome State Fault Refusal :=
  .next (match (s.ch c).obj.port.removals with
    | [] => s
    | q :: rest =>
      if isUp s c then
        (if betweenSieve s c then removeBlock (modRefPort s c (fun p => { p with removals := rest })) c q.2 else s)
      else modRefPort s c (fun p => { p with removals := rest }))

/-! ## The depth cascade (R200, R201) -/

/-- Every record of a probe in error: CAS_ERR set, SUPPRESSED clear. -/
def casErrRecs (recs : List (BitVec 128)) : List (BitVec 128) := recs.map (fun w => w ||| BitVec.ofNat 128 (at_ 124 1 1))

/-- Suppression of the hits that an earlier device has (R200). -/
def suppress (recs : List (BitVec 128)) (hits : Nat) : List (BitVec 128) :=
  (List.range recs.length).map (fun e => let w := recs.getD e 0; if w.getLsbD 127 ∧ bit hits e then w ||| BitVec.ofNat 128 (at_ 126 1 1) else w)

/-- CAS_DEPTH: one more than the highest bit of HITS (R199). -/
def casDepth (hits : Nat) : Nat := if hits = 0 then 0 else Nat.log2 hits + 1

/-- A probe's end in error (R201): the frame that goes on, records, event on the first finder, and status. CAS_DEPTH of a tail in error is a free
value (log 1). -/
def cascadeError (s : State) (c : Ch) (r : Ring) (x : ProbeCtx) (hits : Nat) (st : St) (first : Bool) : State :=
  let tail := casRole s c = 3
  let s := if tail then s else emit s (.cascade c.val (cascadeBits true x.casSeq hits))
  let s := if first then raiseC s c 0x0403 sevWarn (natLe x.casSeq.toNat 1 ++ natLe (stCode st) 2) else s
  let f : Word64 × State := if tail then drawFree s else (0, s)
  probeEnd f.2 c r (casErrRecs x.recs) x.resAddr st (at_ 48 7 f.1.toNat + at_ 63 1 1)

/-- CASCADE_FRAME (R200, R201): the upstream frame reaches the probe that waits for it. The spec does not say what becomes of a frame that
arrives before the device's own searches have ended: the model drops it (DESIGN CHOICE, log 135). -/
def execCascadeFrame (c : Ch) (frame : BitVec 74) (s : State) : Host.Outcome State Fault Refusal :=
  .next (underOwn s c 7 (fun s => match (s.ring c 7).wait with
    | .cascade x =>
      let v := frame.toNat
      let hits := fld v 64 1
      if popcount v 74 % 2 ≠ 0 ∨ bit v 73 ∨ fld v 72 65 ≠ x.casSeq.toNat then
        cascadeError s c 7 x hits .cascadeMismatch (popcount v 74 % 2 ≠ 0 ∨ !bit v 73)
      else
        let all := hits ||| hitsOf x.recs
        let recs := suppress x.recs hits
        if casRole s c = 3 then probeEnd s c 7 recs x.resAddr .ok (at_ 48 7 (casDepth all))
        else probeEnd (emit s (.cascade c.val (cascadeBits false x.casSeq all))) c 7 recs x.resAddr .ok 0
    | _ => s))

/-- CASCADE_TIMEOUT (R201): no complete frame has arrived in time. HITS of the frame that goes on is a free value (log 1): no HITS have been
received. -/
def execCascadeTimeout (c : Ch) (s : State) : Host.Outcome State Fault Refusal :=
  .next (underOwn s c 7 (fun s => match (s.ring c 7).wait with
    | .cascade x =>
      let f := drawFree s
      cascadeError f.2 c 7 x f.1.toNat .cascadeTimeout true
    | _ => s))

/-- LATE_CASCADE_FRAME (R201): discarded. -/
def execLateCascadeFrame (c : Ch) (frame : BitVec 74) (s : State) : Host.Outcome State Fault Refusal :=
  .next (match c, frame with | _, _ => s)

/-! ## Width pairing (R202, R203) -/

/-- Fields of a paired frame. -/
def pairType (f : BitVec 40) : Nat := fld f.toNat 39 37
/-- A. -/
def pairA (f : BitVec 40) : Nat := fld f.toNat 36 19
/-- B. -/
def pairB (f : BitVec 40) : Nat := fld f.toNat 18 1
/-- Whether the parity holds. -/
def pairOk (f : BitVec 40) : Bool := popcount f.toNat 40 % 2 == 0

/-- The frame types that the ring 7 descriptor at HEAD can expect, under its opcode and locator (R203): CAND for searches by key, PLACE for an
insert, DROP for a removal and MARK for a flag change by block. -/
def pairTypes (s : State) (c : Ch) : List Nat :=
  let d := headDesc s c 7
  let op := fld d 127 120
  if op = 0x32 then [1, 2]
  else if op = 0x31 ∨ fld d 839 838 ≠ 1 then [1]
  else if op = 0x33 then [3] else [4]

/-- The frame type that the exchange under way waits for (R203). -/
def pairExpects (s : State) (c : Ch) (x : ProbeCtx) (type : Nat) : Bool :=
  (pairTypes s c).contains type && (fld (headDesc s c 7) 127 120 != 0x32 || type == (if x.entry = 1 then 2 else 1))

/-- Ends the descriptor that ring 7 is executing with `ST_CASCADE_MISMATCH` (R203). One that waits for the answers to its reports retires once
they have come, its row change standing (log 142). -/
def pairEnds (s : State) (c : Ch) : State :=
  match (s.ring c 7).wait with
  | .paired _ => retireSt s c 7 .cascadeMismatch
  | .insertWait => retireSt s c 7 .cascadeMismatch
  | .cascade _ => retireSt s c 7 .cascadeMismatch
  | .reports n p cpl => setWait s c 7 (.reports n p { cpl with status := stBits .cascadeMismatch })
  | _ => s

/-- A frame received by a paired device: with bad parity, or of a type that the descriptor under way does not expect, it ends that descriptor
(R203). A loss's DROP is taken at any time. A frame of an expected type that no exchange waits for, and a frame with no descriptor under way,
change nothing (log 142). The descriptor under way runs under its own settings (R26). -/
def onPair (s : State) (c : Ch) (f : BitVec 40) (type : Nat) (k : State → ProbeCtx → State) : State :=
  underOwn s c 7 (fun s =>
    if !pairOk f ∨ pairType f ≠ type then pairEnds s c
    else match (s.ring c 7).wait with
    | .paired x => if pairExpects s c x type then k s x else pairEnds s c
    | _ => if (pairTypes s c).contains type then s else pairEnds s c)

/-- A CAND frame at the leader: the follower's index b (R203). Where b is the index that the leader has sent and the leader's own row has
moved or gone meanwhile, the rule's "b = a" and the leader's rows disagree: the leader's search ends in a miss, the follower's in a hit
(DESIGN CHOICE, log 158). -/
def candLeader (s : State) (c : Ch) (x : ProbeCtx) (b : Nat) : State :=
  let go := leaderGo 65 c
  if b = pairNone then pairDone go s c x .miss
  else if b = x.x then
    (match pairFind s c x x.x with
     | some e => if e.1 = b then pairDone go s c x (.hit e.1 e.2) else pairDone go s c x .miss
     | none => pairDone go s c x .miss)
  else if 4 ≤ x.trips + 1 then pairDone go s c x .leap
  else leaderGo 65 c s { x with x := b, trips := x.trips + 1 }

/-- A CAND frame at the follower: the leader's index a. -/
def candFollower (s : State) (c : Ch) (x : ProbeCtx) (a : Nat) : State :=
  let go := pairGo c
  if a = pairNone then pairDone go s c x .miss
  else match pairFind s c x a with
    | none => pairDone go (sendPair s c 1 pairNone x.entry) c x .miss
    | some b =>
      let s := sendPair s c 1 b.1 x.entry
      if b.1 = a then pairDone go s c x (.hit b.1 b.2)
      else if 4 ≤ x.trips + 1 then pairDone go s c x .leap
      else setWait s c 7 (.paired { x with trips := x.trips + 1 })

/-- CAND (R203). -/
def execCand (c : Ch) (frame : BitVec 40) (s : State) : Host.Outcome State Fault Refusal :=
  .next (onPair s c frame 1 (fun s x => if pairRole s c = 1 then candLeader s c x (pairA frame) else candFollower s c x (pairA frame)))

/-- The shift that a PLACE frame asks for: the leader's target and hole, the follower's own band edge. B equal to A is the hole at the edge of
the band, or a shift of no rows whose hole lies beyond that edge and moves BSTART (R189). -/
def placePlan (x : Sieve) (d t h : Nat) : PendRow :=
  let w := insertRow d
  let i := insertIdx x (fld d 879 876) (bit d 875)
  if h = t ∧ edgeHole x (fld d 879 876) (bit d 875) = some t then directRow w i t
  else if t < h ∨ (h = t ∧ i ≤ t) then { downRow x w i h with target := t, total := usableIn x t h }
  else { upRow x w i h with target := t, total := usableIn x (h + 1) (t + 1) }

/-- PLACE_FRAME (R203): the follower runs the leader's plan; without an index the leader found no place, and the insert ends with
`ST_SIEVE_FULL` (DESIGN CHOICE, log 134). A target or a hole that is unusable at the follower can receive no row (R179), and R203 does not say
what becomes of the insert: it ends with `ST_CASCADE_MISMATCH` (DESIGN CHOICE, log 159). -/
def execPlaceFrame (c : Ch) (frame : BitVec 40) (s : State) : Host.Outcome State Fault Refusal :=
  .next (onPair s c frame 2 (fun s _ =>
    if pairA frame = pairNone then retireSt s c 7 .sieveFull
    else if !rowUsable (s.ch c).sieve (pairA frame) ∨ !rowUsable (s.ch c).sieve (pairB frame) then retireSt s c 7 .cascadeMismatch
    else insertPlaced s c 7 (placePlan (s.ch c).sieve (headDesc s c 7) (pairA frame) (pairB frame))))

/-- The partner has dropped an index: this device invalidates the row that stands there under a test, with its copies (log 65: at a pending
row's target the pending row is taken where the test picks it). A removal by block at the follower counts and reports what it takes. -/
def dropIndex (s : State) (c : Ch) (i : Nat) (m : SieveRow → Bool) : Taken × State :=
  let t := takeHit (s.ch c).sieve i true m
  (t, modSieve s c (fun x => removeTaken x t))

/-- DROP_FRAME (R203). A frame with bad parity ends the exchange under way. -/
def execDropFrame (c : Ch) (frame : BitVec 40) (s : State) : Host.Outcome State Fault Refusal :=
  .next (
    let i := pairA frame
    let removal : Bool := match (s.ring c 7).wait with
      | .paired x => pairExpects s c x 3
      | _ => false
    if removal ∨ !pairOk frame ∨ pairType frame ≠ 3 then
      onPair s c frame 3 (fun s x =>
        if i = pairNone then
          (if x.recs.isEmpty then retire s c 7 (cplRes .ok 0)
           else
            let pbs := x.recs.map (fun w => w.setWidth 40)
            setWait (reportAll s c true pbs) c 7 (.reports pbs.length none (cplRes .ok pbs.length)))
        else
          let y := dropIndex s c i (pairTest s c x)
          setWait y.2 c 7 (.paired { x with recs := x.recs ++ y.1.pbs.map (fun v => v.setWidth 128) }))
    else if pairRole s c = 0 ∨ !isUp s c ∨ sieveRows ≤ i then s
    else
      let y := dropIndex s c i (fun _ => true)
      reportAll y.2 c false y.1.pbs)

/-- MARK (R203): the follower's flag change by block. -/
def execMark (c : Ch) (frame : BitVec 40) (s : State) : Host.Outcome State Fault Refusal :=
  .next (onPair s c frame 4 (fun s x =>
    let i := pairA frame
    let d := headDesc s c 7
    if i = pairNone then retire s c 7 (cplSt .ok)
    else setWait (modSieve s c (fun y => setFlagsHit y (bit d 836) (bit d 835) i (pairTest s c x))) c 7 (.paired x)))

end Sys2Proof.Machine
end

