-- ==== Sys2Proof/Machine/ScrubCmds.lean ====
section
/-! DEFINITION. The Sieve's scrubber (R195, R196) and the loss of its spare rows (R45). -/

namespace Sys2Proof.Machine
open Sys2Proof

/-- Whether the scrubber passes over an index: unusable, in the range of a running shift, or in the range that an insert has chosen whose
report is outstanding, so that no index of its plan can fail before the shift begins (R179, log 33). -/
def scrubSkips (s : State) (c : Ch) (i : Nat) : Bool :=
  let x := (s.ch c).sieve
  !rowUsable x i || inShift x i || (match (s.ring c 7).wait with | .reports _ (some p) _ => inPlan p i | _ => false)

/-- A physical row fails at run time. With no spare left ROWS_USABLE falls and the channel enters Degraded, or Isolated when no row is usable
(R45). -/
def rowFailsUp (s : State) (c : Ch) (i : Nat) : State :=
  let n := (s.ch c).sieve.usable
  let s := rowFails s c i
  let m := (s.ch c).sieve.usable
  if m = 0 then isolateCh s c 2
  else if m < n ∧ (s.ch c).state = .ready then setChState s c .degraded 2 else s

/-- A row is rewritten from its mirror: SIEVE_FIXED counts, and a second rewrite since the last cold start fails the physical row (R196). -/
def scrubFix (s : State) (c : Ch) (i : Nat) : State :=
  let n := smGet 0 (s.ch c).sieve.rewrites i + 1
  let s := modSieve s c (fun x => { setRow x i (smGet SieveRow.none x.mirror i) with fixed := x.fixed + 1, rewrites := smSet 0 x.rewrites i n })
  if 2 ≤ n then rowFailsUp s c i else s

/-- A row is lost (R195): invalidated, its mirror rewritten invalid, counted and told; with its PB_INDEX known, R180 applies to it: a row that was
valid is reported, and one that was invalid already holds no block (log 143). With it unknown the event's field holds no stated value (log
1). -/
def scrubLose (s : State) (c : Ch) (i : Nat) (known : Bool) : State :=
  let w := rowAt (s.ch c).sieve i
  let s := modSieve s c (fun x => { dropRow x i with lost := x.lost + 1 })
  let s := sendDrops s c [i]
  if known then raiseC (if w.valid then reportRow s c false false w.pb else s) c 0x0400 sevWarn (idxDetail i ++ natLe w.pb.toNat 5 ++ natLe 0 1)
  else
    let f := drawFree s
    raiseC f.2 c 0x0400 sevWarn (idxDetail i ++ natLe f.1.toNat 5 ++ natLe 1 1)

/-- The outcome of a visit (R195). -/
def scrubRow (s : State) (c : Ch) (i : Nat) (parityBad mirrorBad : Bool) : State :=
  let x := (s.ch c).sieve
  if mirrorBad then
    if parityBad then scrubLose s c i false
    else scrubLose s c i true
  else if parityBad ∨ { rowAt x i with transit := false } ≠ smGet SieveRow.none x.mirror i then scrubFix s c i
  else s

/-- SCRUB_VISIT (R195): the scrubber visits the next index. The command says how the array row's parity and its mirror record are found. -/
def execScrubVisit (c : Ch) (parityBad mirrorBad : Bool) (s : State) : Host.Outcome State Fault Refusal :=
  .next (if !isUp s c then s
    else
      let i := (s.ch c).sieve.scrubPos
      let s := modSieve s c (fun x => { x with scrubPos := (x.scrubPos + 1) % sieveRows })
      if scrubSkips s c i then s else scrubRow s c i parityBad mirrorBad)

end Sys2Proof.Machine
end

