-- ==== Sys2Proof/Machine/SupplyCmds.lean ====
section
/-! DEFINITION. Self-test, starts, supply, heat and the governor (R461 to R483, R498 to R502): the rows of the island's own events. -/

namespace Sys2Proof.Machine
open Sys2Proof

/-! ## Starts and the self-test (R462, R466) -/

/-- CHANNEL_START (R466): a channel that waits to enter Starting does so, once no test is under way; one that is Off needs every rail valid
(R498). -/
def execChannelStart (c : Ch) (start : StartReport) (s : State) : Host.Outcome State Fault Refusal :=
  let i := s.island
  .next (if !i.supply.aon ∨ i.kiln = .booting ∨ !i.selfTest.starts.contains c.val ∨ i.selfTest.state ≠ 0 ∨ !i.supply.down.isEmpty
      ∨ (s.ch c).state = .off ∧ i.supply.warn ≠ 0 then s
    else startNow s c start)

/-- Whether VCORE and the hottest junction let the fallback test run (R466). -/
def inWindow (vcoreMv : Nat) (tj : Int) : Bool := decide (720 ≤ vcoreMv ∧ vcoreMv ≤ 800 ∧ tj ≤ 85)

/-- SELF_TEST_WINDOW_CHECK (R466): the fallback test begins within the window, once every rail has been valid (R498). One that runs stops outside the window,
and starts again from its first group within it (DESIGN CHOICE, log 182). -/
def execSelfTestWindowCheck (vcoreMv : Nat) (tj : Int) (s : State) : Host.Outcome State Fault Refusal :=
  let x := s.island.selfTest
  .next (if x.state = 1 ∧ !x.atShut ∧ !inWindow vcoreMv tj then
      modTest s (fun x => { x with state := 2, todo := ascGroups (x.got.map (fun e => e.1) ++ x.running ++ x.todo), running := [], got := [] })
    else if x.state ≠ 2 ∨ !s.island.supply.down.isEmpty ∨ s.island.supply.rising ≠ 0 ∨ !inWindow vcoreMv tj then s
    else
      let s := modDev s (fun d => { d with testsStart := d.testsStart + 1 })
      modTest s (fun x => { x with state := 1, vcoreMv, tjMax := tj, running := [], got := [] }))

/-- The test of a group overwrites its channel's T0, Sieve and caches (R461). -/
def groupClears (s : State) (c : Ch) : State :=
  if isUp s c then s
  else modCh s c (fun ch => { ch with t0 := [], keyCache := [], sieve := sieveAfterReset ch.sieve })

/-- SELF_TEST_GROUP_START (R462): groups start in ascending order, at most C at once, group g not before the end of group g − C. -/
def execSelfTestGroupStart (g : Ch) (s : State) : Host.Outcome State Fault Refusal :=
  let x := s.island.selfTest
  .next (if x.state ≠ 1 ∨ x.todo.head? ≠ some g.val ∨ testsAtOnce s ≤ x.running.length ∨ (testsAtOnce s ≤ g.val ∧ x.running.contains (g.val - testsAtOnce s)) then s
    else groupClears (modTest s (fun x => { x with todo := x.todo.drop 1, running := x.running ++ [g.val] })) g)

/-- SELF_TEST_GROUP_END (R462, R466): the group's record goes to the island; a group of the fallback enters the result in force. -/
def execSelfTestGroupEnd (g : Ch) (rec : GroupRec) (s : State) : Host.Outcome State Fault Refusal :=
  .next (if !s.island.selfTest.running.contains g.val then s
    else
      let s := modTest s (fun x => { x with
        running := x.running.filter (fun n => n != g.val), got := smPut x.got g.val rec
        groups := if x.atShut then x.groups else x.groups.set g (some rec) })
      let s := if s.island.selfTest.atShut then s else dropLanes s g
      if s.island.selfTest.todo.isEmpty ∧ s.island.selfTest.running.isEmpty then testEnds s else s)

/-- STACK_LANE_FAILURE (R471): a spare lane replaces the lane at run time; a second failure in a group halves the width; failures in both halves
lose the stack. -/
def execStackLaneFailure (c : Ch) (lane : Nat) (s : State) : Host.Outcome State Fault Refusal :=
  let e := (s.ch c).eng
  .next (if !isUp s c ∨ 2064 ≤ lane ∨ e.lanes.contains lane then s
    else
      let lanes := e.lanes ++ [lane]
      let s := modCh s c (fun ch => { ch with eng := { ch.eng with lanes, rtLanes := ch.eng.rtLanes ++ [lane] } })
      if stackLost lanes then isolateCh s c 2
      else if stackHalf lanes ∧ !e.half then
        let s := modCh s c (fun ch => { ch with eng := { ch.eng with half := true, markHalf := true } })
        if (s.ch c).state = .ready then setChState s c .degraded 2 else s
      else if laneCount lanes (lane / 129) = 1 then
        raiseSpare (modHealth s c (fun h => { h with laneSpares := h.laneSpares + 1 })) c 2 lane
      else s)

/-! ## Supply warnings (R474 to R479) -/

/-- The RAIL code of a rail (R474). -/
def railCode : Rail → Fin 8
  | .vcore => 0
  | .vsram => 1
  | .vaon => 2
  | .vnand => 3
  | .stack _ => 4
  | .phy _ => 5
  | .vaonIo => 6
  | .pwrfail => 7

/-- The warning level of a rail in hundredths of a millivolt (R474); 95% of nominal for the rails of the stacks, the PHYs and the optics (R494). -/
def warnLevel : Rail → Nat
  | .vcore => 68000
  | .vsram => 74000
  | .vaon => 74000
  | .vnand => 114000
  | .stack i => 95 * [1100, 400, 1800].getD i.val 0
  | .phy i => 95 * [750, 900, 3300].getD i.val 0
  | .pwrfail => 0
  | .vaonIo => 0

/-- The reset level of VCORE and of VSRAM in millivolts. -/
def resetLevel (r : Rail) : Nat := if r = .vcore then 620 else 700

/-- Whether a sample lies below a rail's warning level; PWRFAIL_N is a pin. -/
def isLow (r : Rail) (mv : Nat) : Bool := r == .pwrfail || decide (100 * mv < warnLevel r)

/-- Whether a sample lies above the warning level plus 20 mV (R478). -/
def isBack (r : Rail) (mv : Nat) : Bool := r == .pwrfail || decide (warnLevel r + 2000 < 100 * mv)

/-- The rail's bit of WARN. -/
def railBit (r : Rail) : BitVec 8 := 1#8 <<< (railCode r).val

/-- Whether a rail is in warning. -/
def inWarn (s : State) (r : Rail) : Bool := s.island.supply.warn.getLsbD (railCode r)

/-- A VCORE sample, which joins the lowest and the highest (R487). -/
def vcoreSample (s : State) (r : Rail) (mv : Nat) : State :=
  if r = .vcore then
    modDev (modSupply s (fun y => { y with vcoreMv := BitVec.ofNat 16 mv })) (fun d =>
      if d.sampled then { d with vcoreMin := min d.vcoreMin mv, vcoreMax := max d.vcoreMax mv } else { d with vcoreMin := mv, vcoreMax := mv, sampled := true })
  else s

/-- VAON_IO goes or comes back, which the monitor does not watch (R494): commands that wait for the firmware flash go on, and purges that ended meanwhile are
recorded (DESIGN CHOICE, log 184). -/
def ioSet (s : State) (on : Bool) : State :=
  let s := modSupply s (fun y => { y with io := on })
  if on then mbDispatch (s.island.keySlots.foldl (fun t e => purgeDone t e.1) s) else s

/-- The power-fail flush begins on every formatted channel that runs none, its open stripes padded (R279); then programs and erases are held on every
channel (R292). -/
def startFlush (s : State) : State :=
  forCh s allCh (fun t c =>
    let t := if !isUp t c ∨ !hasT2 (t.marl c) ∨ (t.marl c).flushing then t
      else modMarl (padOpens t c (fun _ => true)) c (fun m => { m with
        flushing := true, health := { m.health with pfFlushes := m.health.pfFlushes + 1 } })
    modMarl t c (fun m => { m with hold := true }))

/-- Held work resumes: the programs of stripes that have been filled meanwhile are issued, the journal stripe block that is due is opened, and flushes that
were to begin a checkpoint go on (R292). -/
def unhold (s : State) (c : Ch) : State :=
  let s := modMarl s c (fun m => { m with
    hold := false, buffer := m.buffer.map (fun u => if u.pua = puaNone ∨ isFilling m (stripeOf u.pua) then u else { u with issued := true }) })
  if !isUp s c ∨ !hasT2 (s.marl c) then s else marlTasks (openJournal s c) c

/-- Sets the supply throttle of every channel. -/
def supplyThrottle (s : State) (level : Nat) : State :=
  forCh s allCh (fun t c => modCh t c (fun ch => { ch with throttle := { ch.throttle with supply := level } }))

/-- A rail is in warning (R477); one of several rails of a RAIL code that joins another of it changes nothing further. -/
def warnOn (s : State) (r : Rail) (mv : Nat) : State :=
  if !s.island.supply.aon then s
  else
  let s := modSupply s (fun y => { y with low := if y.low.contains r then y.low else y.low ++ [r] })
  if inWarn s r then s
  else
    let first := !warned s
    let s := vcoreSample (modSupply s (fun y => { y with warn := y.warn ||| railBit r })) r mv
    let s := modDev s (fun d => { d with
      supplyWarns := d.supplyWarns + 1, pfPin := d.pfPin + b2n (r == .pwrfail),
      railWarn := d.railWarn.set (railCode r) (d.railWarn[railCode r] + 1) })
    let s := if first then startFlush (supplyThrottle s 3) else s
    let s := raiseD s 0x0100 sevWarn (natLe (railCode r).val 1 ++ natLe mv 2)
    let s := if first then
        let ups := allCh.filter (isUp s)
        modSupply (forCh s ups (fun t c => sendFlit t c true false)) (fun y => { y with ackDue := ups.map (fun c => c.val) })
      else s
    abortTest s 2

/-- SUPPLY_WARN (R477): a rail crosses its warning level (R474), or PWRFAIL_N is asserted. -/
def execSupplyWarn (rail : Rail) (mv : Nat) (s : State) : Host.Outcome State Fault Refusal :=
  .next (if rail = .vaonIo then ioSet s false else if isLow rail mv then warnOn s rail mv else s)

/-- REGULATOR_ALERT (R502): Kiln reads STATUS_WORD; where it reports a fault, the rail counts as in warning. -/
def execRegulatorAlert (rail : Rail) (fault : Bool) (mv : Nat) (s : State) : Host.Outcome State Fault Refusal :=
  .next (if !s.island.supply.aon ∨ !(rail = .vcore ∨ rail = .vsram) then s
    else
      let s := emit s (.statusWord rail)
      if fault then warnOn s rail mv else s)

/-- No flush runs any more and a thermal trip waits for that: every channel is isolated with CAUSE 4, and THERMTRIP_N asserted (R481). -/
def tripFinish (s : State) : State :=
  let s := forCh s allCh (fun t c => isolateCh (modMarl t c (fun m => { m with flushing := false })) c 4)
  modSupply s (fun y => { y with tripping := false, thermtrip := true })

/-- A trip goes on when its flushes have ended. -/
def tripCheck (s : State) : State := if s.island.supply.tripping ∧ !anyFlush s then tripFinish s else s

/-- WARN_ACK_TIMEOUT (R428): the channel cannot carry the flush out. -/
def execWarnAckTimeout (c : Ch) (s : State) : Host.Outcome State Fault Refusal :=
  .next (if !s.island.supply.ackDue.contains c.val then s
    else
      let s := modSupply s (fun y => { y with ackDue := y.ackDue.filter (fun n => n != c.val) })
      tripCheck (isolateCh (modMarl s c (fun m => { m with flushing := false })) c 4))

/-- Whether a rail has not been valid since VAON rose (R498). -/
def isRising (s : State) (r : Rail) : Bool := s.island.supply.rising.getLsbD (railCode r)

/-- SUPPLY_OK (R478): a rail rises above its warning level plus 20 mV (R474). When the last one in warning recovers, programs held resume where no flush runs. A
rail that becomes valid for the first time only leaves WARN (R498). -/
def execSupplyOk (rail : Rail) (mv : Nat) (s : State) : Host.Outcome State Fault Refusal :=
  .next (if rail = .vaonIo then ioSet s true
    else if !inWarn s rail ∨ !isBack rail mv then s
    else
      let s := modSupply s (fun y => { y with low := y.low.filter (fun q => q != rail) })
      if s.island.supply.low.any (fun q => railCode q == railCode rail) then s
      else
      let first := isRising s rail
      let s := vcoreSample (modSupply s (fun y => { y with warn := y.warn &&& ~~~ (railBit rail), rising := y.rising &&& ~~~ (railBit rail) })) rail mv
      if first ∨ warned s then s
      else
        let s := raiseD (supplyThrottle s 0) 0x0101 sevInfo (natLe (railCode rail).val 1 ++ natLe mv 2)
        forCh s allCh (fun t c => if (t.marl c).flushing then t else unhold t c))

/-- A journal page buffer that holds records becomes durable. -/
def flushPage (s : State) (c : Ch) : State := if (s.marl c).jbuf.isEmpty then s else pageDurable s c

/-- FLUSH_COMPLETE (R478): the two page buffers are durable on both members, and held programs resume when no rail is in warning. -/
def execFlushComplete (c : Ch) (s : State) : Host.Outcome State Fault Refusal :=
  .next (if !(s.marl c).flushing then s
    else
      let s := flushPage (flushPage s c) c
      let s := modMarl s c (fun m => { m with flushing := false })
      let s := if warned s ∨ s.island.supply.tripping then s else unhold s c
      tripCheck (modSupply s (fun y => { y with ackDue := y.ackDue.filter (fun n => n != c.val) })))

/-! ## Resets (R476, R498) -/

/-- Background commands that need a channel end. -/
def endChTasks (s : State) : State :=
  forTasks s (fun t mb x => match x with
    | .shutdown _ _ => mbDone t mb .channelDown []
    | .chReset _ => mbDone t mb .channelDown []
    | .mediaFlush _ _ _ _ _ => mbDone t mb .channelDown []
    | .secureDiscard _ _ _ _ _ => mbDone t mb .channelDown []
    | .revoke _ _ => mbDone t mb .channelDown []
    | .release _ => mbDone t mb .channelDown []
    | .connClose _ _ => mbDone t mb .channelDown []
    | .mediaFormat _ => mbDone t mb .channelDown []
    | .mediaDiscard _ => mbDone t mb .channelDown []
    | .fwActivate => t)

/-- A `KeyDestroy` that waits for channels goes on: their key caches are gone. -/
def destroyAfterReset (s : State) : State :=
  match s.island.destroy with
  | none => s
  | some d => if h : d.mb < 33 then destroyFinish s ⟨d.mb, h⟩ d.slot d.isolated else s

/-- SUPPLY_RESET (R476): VCORE or VSRAM crosses its reset level (R474). Every present channel loses its state; the island goes on. -/
def execSupplyReset (dip : RailDip) (s : State) : Host.Outcome State Fault Refusal :=
  let rail := dip.rail
  .next (if !s.island.supply.aon ∨ resetLevel rail ≤ dip.mv ∨ !(rail = .vcore ∨ rail = .vsram) ∨ s.island.supply.down.contains rail ∨ isRising s rail then s
    else
      let used := (presentChs s).any (fun c => (s.ch c).state != .off)
      let s := modDev s (fun d => { d with
        supplyResets := d.supplyResets + 1, railReset := d.railReset.set (railCode rail) (d.railReset[railCode rail] + 1) })
      let s := modSupply s (fun y => { y with down := y.down ++ [rail], low := if y.low.contains rail then y.low else y.low ++ [rail], warn := y.warn ||| railBit rail, tripping := false, ackDue := [] })
      let s := abortTest s 2
      let s := if used then dropResult s 4 else s
      let s := forCh s (presentChs s) (fun t c => modCh (resetCh (endOps t c) c false) c (fun ch => { ch with state := .off }))
      mbDispatch (destroyAfterReset (endChTasks (rebuildRegions s))))

/-- SUPPLY_RESTORED (R476): both rails are valid, and Kiln brings every channel up. -/
def execSupplyRestored (s : State) : Host.Outcome State Fault Refusal :=
  .next (if s.island.supply.down.isEmpty ∨ inWarn s .vcore ∨ inWarn s .vsram then s
    else
      let s := modSupply s (fun y => { y with down := [] })
      beginStarts s (offConnected s))

/-- A slot as the key log's next record leaves it (R447, R451). -/
def keyFromLog (m : SMap KeySlot) (r : KeyLogRec) : SMap KeySlot :=
  let i := r.slot.toNat
  let k := smGet KeySlot.none m i
  let cs := (allCh.map (fun c => c.val)).filter (fun n => r.chans.getLsbD n)
  match r.type.toNat with
  | 1 => smSet KeySlot.none m i { k with state := .empty, lastEpoch := r.epoch }
  | 2 => smSet KeySlot.none m i { k with state := .purging, purge := cs }
  | 3 => smSet KeySlot.none m i { k with state := .empty, purge := [] }
  | 4 => smSet KeySlot.none m i { k with state := if cs.isEmpty then .empty else .purging, lastEpoch := r.epoch, purge := cs }
  | _ => m

/-- A channel without power: what the flash, the boards and the strap of its stack hold stands. -/
def coldCh (s : State) (c : Ch) : Channel :=
  let x := s.ch c
  { Channel.reset with
    state := if x.connected then .off else .absent, connected := x.connected, pace := { Pace.reset with refclk := x.pace.refclk }
    marl := { Marl.reset with flash := x.marl.flash }
    discard := x.discard + seqLive s c }

/-- The state after VAON has fallen: the build, the firmware flash, the key log and the NAND stand, all else is at reset, and nothing runs. -/
def coldState (s : State) : State :=
  let f := s.island.fw
  let fw := { Firmware.reset with copyA := { f.copyA with begun := false }, copyB := { f.copyB with begun := false }, preferB := f.preferB, minSvn := f.minSvn }
  let island := { Island.reset with
    fw, keyLog := s.island.keyLog
    supply := { Island.reset.supply with aon := false, io := s.island.supply.io } }
  { State.reset with
    pending := s.pending, out := s.out, freeCount := s.freeCount, build := s.build, island := island
    chans := Vector.ofFn (fun c => coldCh s c) }

/-- VAON_RESET (R476): the whole device, island included, loses its state. -/
def execVaonReset (s : State) : Host.Outcome State Fault Refusal := .next (rebuildRegions (coldState s))

/-- The rails of stages 2 to 6 (R498). -/
def stageRails : List Rail := [.vcore, .vsram, .vnand, .stack 0, .stack 1, .stack 2, .phy 0, .phy 1, .phy 2]
/-- Their bits in WARN. -/
def stageBits : BitVec 8 := stageRails.foldl (fun b r => b ||| railBit r) 0

/-- COLD_START (R476, R399): VAON has risen, and Kiln boots. It reads the key log (R447). Every rail of a later stage shows in WARN, without an event, until
the monitor finds it valid for the first time (R498, log 155). -/
def execColdStart (s : State) : Host.Outcome State Fault Refusal :=
  .next (if s.island.supply.aon then s
    else
      let s := modIsland s (fun i =>
        let l := klStart i.keyLog
        { i with kiln := .booting, cause := 0, keyLog := l, keySlots := (klRead (klActive l)).foldl keyFromLog [] })
      modSupply s (fun y => { y with aon := true, low := stageRails, warn := stageBits, rising := stageBits }))

/-- FATAL_FAULT (R22). -/
def execFatalFault (c : Ch) (s : State) : Host.Outcome State Fault Refusal := .next (if isUp s c then isolateCh s c 4 else s)

/-! ## Heat (R480, R481) -/

/-- THROTTLE_C. -/
def throttleC (s : State) : Int := fld s.island.stCfg.toNat 19 12

/-- The thermal level that follows a level at a temperature (R480). -/
def thermalNext (old : Nat) (t tj : Int) : Nat :=
  if t ≤ tj then min 3 (1 + ((tj - t) / 2).toNat)
  else if old ≠ 0 ∧ t - 5 ≤ tj then 1
  else 0

/-- A temperature joins a least and a greatest. -/
def tempJoin (seen : Bool) (lo hi t : Int) : Int × Int := if seen then (min lo t, max hi t) else (t, t)

/-- A channel's readings of its junction and its Tj, which join the least and the greatest (R487, R488). -/
def joinTemps (s : State) (c : Ch) (die tj : Int) : State :=
  let seen := allCh.any (fun d => (s.ch d).health.tjSeen)
  let d := s.island.devHealth
  let dm := tempJoin seen d.tjMin d.tjMax die
  let h := (s.ch c).health
  let cm := tempJoin h.tjSeen h.tjMin h.tjMax tj
  let s := modHealth s c (fun h => { h with tjMin := cm.1, tjMax := cm.2, tjSeen := true })
  let s := modDev s (fun d => { d with tjMin := dm.1, tjMax := dm.2 })
  if s.island.selfTest.state = 1 then modTest s (fun x => { x with tjMax := max x.tjMax die }) else s

/-- THERMAL_SAMPLE (R480): the greater of the junction sensor and the stack's temperature sets the channel's thermal level. -/
def execThermalSample (c : Ch) (sensor : Byte) (die stack : Int) (s : State) : Host.Outcome State Fault Refusal :=
  .next (if !s.island.supply.aon ∨ !s.island.supply.down.isEmpty ∨ !isPresent s c then s
    else
      let tj := max die stack
      let old := (s.ch c).throttle.thermal
      let new := thermalNext old (throttleC s) tj
      let s := joinTemps (modCh s c (fun ch => { ch with throttle := { ch.throttle with thermal := new, tj, die } })) c die tj
      let det := [sensor] ++ intLe tj 2
      if old = 0 ∧ new ≠ 0 then
        let s := modHealth s c (fun h => { h with throttles := h.throttles + 1 })
        let s := modDev s (fun d => { d with throttles := d.throttles + 1 })
        abortTest (raiseD s 0x0102 sevWarn det) 3
      else if old ≠ 0 ∧ new = 0 then raiseD s 0x0103 sevInfo det
      else s)

/-- The trip temperature of both grades (R496). -/
def tripC : Int := 115

/-- THERMAL_TRIP (R481): every channel goes to level 3 and admits no descriptor, and the power-fail flush runs first. A trip while THERMTRIP_N stands is
answered when a channel has come up again meanwhile (DEDUCED, log 183). -/
def execThermalTrip (c : Ch) (tj : Int) (s : State) : Host.Outcome State Fault Refusal :=
  let y := s.island.supply
  .next (if !y.aon ∨ tj < tripC ∨ y.tripping ∨ (y.thermtrip ∧ !allCh.any (isUp s)) then s
    else
      let s := joinTemps (modCh s c (fun ch => { ch with throttle := { ch.throttle with tj, die := tj } })) c tj tj
      let s := forCh s allCh (fun t d => modCh t d (fun ch => { ch with throttle := { ch.throttle with tripHold := true } }))
      let s := modDev s (fun d => { d with trips := d.trips + 1 })
      let s := abortTest (dropResult (startFlush s) 4) 3
      tripCheck (modSupply s (fun y => { y with tripping := true })))

/-- THERMAL_TRIP_BOUND (R481): the channels are isolated even where flushes have not completed. -/
def execThermalTripBound (s : State) : Host.Outcome State Fault Refusal := .next (if s.island.supply.tripping then tripFinish s else s)

/-! ## The governor (R483) -/

/-- The governor's next level. -/
def govNext (old limit watts : Nat) : Nat :=
  if limit < watts then min 3 (old + 1) else if 100 * watts < 95 * limit then old - 1 else old

/-- The VCORE setpoint that follows: lowered to 700 mV at most while the level is 3 and power exceeds the limit, raised to 760 mV at level 0. -/
def govSetpoint (old limit watts set_ : Nat) : Nat :=
  if old = 3 ∧ limit < watts then max 700 (set_ - 10)
  else if old = 0 ∧ set_ < 760 then min 760 (set_ + 10)
  else set_

/-- Kiln requests a VCORE setpoint when it changes (R502). -/
def setpointTo (s : State) (mv : Nat) : State :=
  if s.island.supply.setpoint = mv then s else emit (modSupply s (fun y => { y with setpoint := mv })) (.vout .vcore mv)

/-- Package power in watts (R503): each of the three currents times its rail's voltage, the two power readings, and 2 W for VAON and VAON_IO. Whole watts are taken
downwards (DESIGN CHOICE, log 186). -/
def packageW (x : PowerSense) (coreMv : Nat) : Nat :=
  (10 * x.core * coreMv + x.sram * x.sramMv + x.nand * x.nandMv + 10000 * x.stk + 2000 * x.phy + 20000) / 10000

/-- GOVERNOR_WINDOW (R483): the governor acts where LIMIT_W is below 820. -/
def execGovernorWindow (sense : PowerSense) (mv : Nat) (s : State) : Host.Outcome State Fault Refusal :=
  .next (if !s.island.supply.aon then s
    else
      let s := vcoreSample s .vcore mv
      let limit := limitW s
      if 820 ≤ limit then s
      else
        let watts := packageW sense mv
        let old := s.island.supply.govLevel
        let new := govNext old limit watts
        let s := modSupply s (fun y => { y with govLevel := new, powerW := BitVec.ofNat 11 watts })
        let s := modDev s (fun d => { d with peakW := max d.peakW watts, govWindows := d.govWindows + b2n (new != 0) })
        let s := forCh s allCh (fun t c => modCh t c (fun ch => { ch with throttle := { ch.throttle with governor := new } }))
        setpointTo s (govSetpoint old limit watts s.island.supply.setpoint))

end Sys2Proof.Machine
end

