-- ==== Sys2Proof/Machine/Dispatch.lean ====
section
/-! DEFINITION. The dispatcher: one arm for each command. -/

namespace Sys2Proof.Machine
open Sys2Proof

/-- The effect of a command on everything but the queue. -/
def exec (i : Instr) (s : State) : Host.Outcome State Fault Refusal :=
  match i with
  | .nop c r => Sys2Proof.Machine.execNop c r s
  | .attend c r env => Sys2Proof.Machine.execAttend c r env s
  | .attendGrist c r env => Sys2Proof.Machine.execAttendGrist c r env s
  | .attendRagged c r env => Sys2Proof.Machine.execAttendRagged c r env s
  | .append c r env => Sys2Proof.Machine.execAppend c r env s
  | .prefetch c r env => Sys2Proof.Machine.execPrefetch c r env s
  | .place c r => Sys2Proof.Machine.execPlace c r s
  | .promote c r => Sys2Proof.Machine.execPromote c r s
  | .demote c r => Sys2Proof.Machine.execDemote c r s
  | .drop c r => Sys2Proof.Machine.execDrop c r s
  | .persist c r env => Sys2Proof.Machine.execPersist c r env s
  | .merge c r env => Sys2Proof.Machine.execMerge c r env s
  | .slipFill c r env => Sys2Proof.Machine.execSlipFill c r env s
  | .slipCopy c r env => Sys2Proof.Machine.execSlipCopy c r env s
  | .slipCompare c r env => Sys2Proof.Machine.execSlipCompare c r env s
  | .slipReduce c r env => Sys2Proof.Machine.execSlipReduce c r env s
  | .slipPublish c r => Sys2Proof.Machine.execSlipPublish c r s
  | .slipAtomic c r env => Sys2Proof.Machine.execSlipAtomic c r env s
  | .sieveHash c r => Sys2Proof.Machine.execSieveHash c r s
  | .sieveProbe c r => Sys2Proof.Machine.execSieveProbe c r s
  | .sieveInsert c r => Sys2Proof.Machine.execSieveInsert c r s
  | .sieveRemove c r => Sys2Proof.Machine.execSieveRemove c r s
  | .sieveSetFlags c r => Sys2Proof.Machine.execSieveSetFlags c r s
  | .sieveRead c r => Sys2Proof.Machine.execSieveRead c r s
  | .seqOpen c r => Sys2Proof.Machine.execSeqOpen c r s
  | .seqClose c r => Sys2Proof.Machine.execSeqClose c r s
  | .attach c r => Sys2Proof.Machine.execAttach c r s
  | .sweep c r => Sys2Proof.Machine.execSweep c r s
  | .blockCreate c r => Sys2Proof.Machine.execBlockCreate c r s
  | .prune c r => Sys2Proof.Machine.execPrune c r s
  | .setProtect c r => Sys2Proof.Machine.execSetProtect c r s
  | .tilthScan c r => Sys2Proof.Machine.execTilthScan c r s
  | .gateWaitRelease c r => Sys2Proof.Machine.execGateWaitRelease c r s
  | .presenceGateRelease c r env => Sys2Proof.Machine.execPresenceGateRelease c r env s
  | .useCountAdmit c r => Sys2Proof.Machine.execUseCountAdmit c r s
  | .seqCloseRelease c => Sys2Proof.Machine.execSeqCloseRelease c s
  | .gateAddArrival c => Sys2Proof.Machine.execGateAddArrival c s
  | .releaseRecordWrite c => Sys2Proof.Machine.execReleaseRecordWrite c s
  | .frameGuardClear c r => Sys2Proof.Machine.execFrameGuardClear c r s
  | .pageMoveEnd c r k env => Sys2Proof.Machine.execPageMoveEnd c r k env s
  | .ringDrainEnd c r => Sys2Proof.Machine.execRingDrainEnd c r s
  | .ringTailWrite l c r v => Sys2Proof.Machine.execRingTailWrite l c r v s
  | .ringEnableWrite l c r v => Sys2Proof.Machine.execRingEnableWrite l c r v s
  | .ringStopWrite l c r v => Sys2Proof.Machine.execRingStopWrite l c r v s
  | .ringDisableWrite l c r v => Sys2Proof.Machine.execRingDisableWrite l c r v s
  | .gateSetWrite l c g v => Sys2Proof.Machine.execGateSetWrite l c g v s
  | .gateAddWrite l c g v => Sys2Proof.Machine.execGateAddWrite l c g v s
  | .clearLow l c v => Sys2Proof.Machine.execClearLow l c v s
  | .srSeedWrite l c v => Sys2Proof.Machine.execSrSeedWrite l c v s
  | .releaseLogEnableWrite l c v => Sys2Proof.Machine.execReleaseLogEnableWrite l c v s
  | .linkEnableWrite l c v => Sys2Proof.Machine.execLinkEnableWrite l c v s
  | .sqTailWrite l c conn v => Sys2Proof.Machine.execSqTailWrite l c conn v s
  | .registerWrite l off v => Sys2Proof.Machine.execRegisterWrite l off v s
  | .badRegisterAccess l off size isWrite => Sys2Proof.Machine.execBadRegisterAccess l off size isWrite s
  | .paceWindowEnd c steps => Sys2Proof.Machine.execPaceWindowEnd c steps s
  | .refclkLoss c => Sys2Proof.Machine.execRefclkLoss c s
  | .refclkReturn c => Sys2Proof.Machine.execRefclkReturn c s
  | .cxlMemRead l dpa own env => Sys2Proof.Machine.execCxlMemRead l dpa own env s
  | .cxlMemWrite l dpa data be => Sys2Proof.Machine.execCxlMemWrite l dpa data be s
  | .t0WindowRead l off len => Sys2Proof.Machine.execT0WindowRead l off len s
  | .t0WindowWrite l off data => Sys2Proof.Machine.execT0WindowWrite l off data s
  | .birsp c l line => Sys2Proof.Machine.execBirsp c l line s
  | .biconflict c l line => Sys2Proof.Machine.execBiconflict c l line s
  | .biSnoopTimeout c l line => Sys2Proof.Machine.execBiSnoopTimeout c l line s
  | .hostLinkDown ev => Sys2Proof.Machine.execHostLinkDown ev s
  | .hostLinkUp rate flit256 => Sys2Proof.Machine.execHostLinkUp rate flit256 s
  | .flr l => Sys2Proof.Machine.execFlr l s
  | .cxlReset l => Sys2Proof.Machine.execCxlReset l s
  | .ldBind l => Sys2Proof.Machine.execLdBind l s
  | .ldUnbind l => Sys2Proof.Machine.execLdUnbind l s
  | .hdmDecoderCommit l n d => Sys2Proof.Machine.execHdmDecoderCommit l n d s
  | .msixUnmask l vec => Sys2Proof.Machine.execMsixUnmask l vec s
  | .mctpMessage ep msg => Sys2Proof.Machine.execMctpMessage ep msg s
  | .getMeasurements ep idx => Sys2Proof.Machine.execGetMeasurements ep idx s
  | .keyExchange ep slot => Sys2Proof.Machine.execKeyExchange ep slot s
  | .spdmRequest ep req => Sys2Proof.Machine.execSpdmRequest ep req s
  | .ideKm session req => Sys2Proof.Machine.execIdeKm session req s
  | .ideIntegrityFail stream => Sys2Proof.Machine.execIdeIntegrityFail stream s
  | .i3cAddressAssign m => Sys2Proof.Machine.execI3cAddressAssign m s
  | .identifyMemoryDevice mb => Sys2Proof.Machine.execIdentifyMemoryDevice mb s
  | .getSupportedLogs mb => Sys2Proof.Machine.execGetSupportedLogs mb s
  | .getLog mb uuid off len => Sys2Proof.Machine.execGetLog mb uuid off len s
  | .getPoisonList mb dpa len => Sys2Proof.Machine.execGetPoisonList mb dpa len s
  | .clearPoison mb dpa data => Sys2Proof.Machine.execClearPoison mb dpa data s
  | .getEventRecords mb log => Sys2Proof.Machine.execGetEventRecords mb log s
  | .clearEventRecords mb log handles => Sys2Proof.Machine.execClearEventRecords mb log handles s
  | .getDcConfiguration mb => Sys2Proof.Machine.execGetDcConfiguration mb s
  | .getDcExtentList mb count start => Sys2Proof.Machine.execGetDcExtentList mb count start s
  | .addDcResponse mb exts => Sys2Proof.Machine.execAddDcResponse mb exts s
  | .releaseDynamicCapacity mb exts => Sys2Proof.Machine.execReleaseDynamicCapacity mb exts s
  | .backgroundOperationStatus mb => Sys2Proof.Machine.execBackgroundOperationStatus mb s
  | .requestAbortBackground mb => Sys2Proof.Machine.execRequestAbortBackground mb s
  | .getLdInfo mb => Sys2Proof.Machine.execGetLdInfo mb s
  | .getDcdInfo mb => Sys2Proof.Machine.execGetDcdInfo mb s
  | .initiateDcAdd mb l part off len tag => Sys2Proof.Machine.execInitiateDcAdd mb l part off len tag s
  | .initiateDcRelease mb l part off len => Sys2Proof.Machine.execInitiateDcRelease mb l part off len s
  | .setLdAllocations mb => Sys2Proof.Machine.execSetLdAllocations mb s
  | .getIdentity mb inp => Sys2Proof.Machine.execGetIdentity mb inp s
  | .getHealth mb inp answered => Sys2Proof.Machine.execGetHealth mb inp answered s
  | .setTime mb inp => Sys2Proof.Machine.execSetTime mb inp s
  | .selfTestQuery mb inp => Sys2Proof.Machine.execSelfTestQuery mb inp s
  | .shutdown mb inp => Sys2Proof.Machine.execShutdown mb inp s
  | .stageWrite mb inp => Sys2Proof.Machine.execStageWrite mb inp s
  | .stageRead mb inp => Sys2Proof.Machine.execStageRead mb inp s
  | .stageClear mb inp => Sys2Proof.Machine.execStageClear mb inp s
  | .commitCheck mb inp => Sys2Proof.Machine.execCommitCheck mb inp s
  | .commitApply mb inp => Sys2Proof.Machine.execCommitApply mb inp s
  | .commitFenceStands => Sys2Proof.Machine.execCommitFenceStands s
  | .commitQuery mb inp => Sys2Proof.Machine.execCommitQuery mb inp s
  | .capRead mb inp => Sys2Proof.Machine.execCapRead mb inp s
  | .eventRead mb inp => Sys2Proof.Machine.execEventRead mb inp s
  | .channelIsolate mb inp => Sys2Proof.Machine.execChannelIsolate mb inp s
  | .channelReset mb inp start => Sys2Proof.Machine.execChannelReset mb inp start s
  | .mediaFormat mb inp => Sys2Proof.Machine.execMediaFormat mb inp s
  | .mediaFlush mb inp => Sys2Proof.Machine.execMediaFlush mb inp s
  | .mediaDiscard mb inp => Sys2Proof.Machine.execMediaDiscard mb inp s
  | .mediaSecureDiscard mb inp => Sys2Proof.Machine.execMediaSecureDiscard mb inp s
  | .regionCreate mb inp => Sys2Proof.Machine.execRegionCreate mb inp s
  | .regionSetHome mb inp => Sys2Proof.Machine.execRegionSetHome mb inp s
  | .regionRegister mb inp => Sys2Proof.Machine.execRegionRegister mb inp s
  | .regionRevoke mb inp => Sys2Proof.Machine.execRegionRevoke mb inp s
  | .regionRelease mb inp => Sys2Proof.Machine.execRegionRelease mb inp s
  | .regionPublish mb inp => Sys2Proof.Machine.execRegionPublish mb inp s
  | .regionQuery mb inp => Sys2Proof.Machine.execRegionQuery mb inp s
  | .revocationDrainEnd idx => Sys2Proof.Machine.execRevocationDrainEnd idx s
  | .regionAdmissionResume c r => Sys2Proof.Machine.execRegionAdmissionResume c r s
  | .linkConnSet mb inp => Sys2Proof.Machine.execLinkConnSet mb inp s
  | .linkConnReset mb inp => Sys2Proof.Machine.execLinkConnReset mb inp s
  | .linkConnClose mb inp => Sys2Proof.Machine.execLinkConnClose mb inp s
  | .linkConnQuery mb inp => Sys2Proof.Machine.execLinkConnQuery mb inp s
  | .linkWindowSet mb inp => Sys2Proof.Machine.execLinkWindowSet mb inp s
  | .linkKeySet mb inp => Sys2Proof.Machine.execLinkKeySet mb inp s
  | .keyLoad mb inp => Sys2Proof.Machine.execKeyLoad mb inp s
  | .keyDestroy mb inp answered => Sys2Proof.Machine.execKeyDestroy mb inp answered s
  | .keyQuery mb inp => Sys2Proof.Machine.execKeyQuery mb inp s
  | .ownerPurge c slot => Sys2Proof.Machine.execOwnerPurge c slot s
  | .keyPurgeTimeout c slot => Sys2Proof.Machine.execKeyPurgeTimeout c slot s
  | .keyStorageCheck failed => Sys2Proof.Machine.execKeyStorageCheck failed s
  | .firmwareUpdate mb inp => Sys2Proof.Machine.execFirmwareUpdate mb inp s
  | .firmwareActivate mb inp => Sys2Proof.Machine.execFirmwareActivate mb inp s
  | .firmwareRecover mb inp => Sys2Proof.Machine.execFirmwareRecover mb inp s
  | .firmwareWatchdogExpiry => Sys2Proof.Machine.execFirmwareWatchdogExpiry s
  | .boot => Sys2Proof.Machine.execBoot s
  | .engineMapCommit c => Sys2Proof.Machine.execEngineMapCommit c s
  | .sieveInsertResume c => Sys2Proof.Machine.execSieveInsertResume c s
  | .shiftRowCopy c => Sys2Proof.Machine.execShiftRowCopy c s
  | .shiftLanding c => Sys2Proof.Machine.execShiftLanding c s
  | .scrubVisit c parityBad mirrorBad => Sys2Proof.Machine.execScrubVisit c parityBad mirrorBad s
  | .sieveRowSpareIn c idx => Sys2Proof.Machine.execSieveRowSpareIn c idx s
  | .sieveBlockRemoval c => Sys2Proof.Machine.execSieveBlockRemoval c s
  | .sieveCountRequest c tgt => Sys2Proof.Machine.execSieveCountRequest c tgt s
  | .sieveReport c => Sys2Proof.Machine.execSieveReport c s
  | .heldReferenceChange c => Sys2Proof.Machine.execHeldReferenceChange c s
  | .poisonScan c => Sys2Proof.Machine.execPoisonScan c s
  | .cascadeFrame c frame => Sys2Proof.Machine.execCascadeFrame c frame s
  | .cascadeTimeout c => Sys2Proof.Machine.execCascadeTimeout c s
  | .lateCascadeFrame c frame => Sys2Proof.Machine.execLateCascadeFrame c frame s
  | .cand c frame => Sys2Proof.Machine.execCand c frame s
  | .placeFrame c frame => Sys2Proof.Machine.execPlaceFrame c frame s
  | .dropFrame c frame => Sys2Proof.Machine.execDropFrame c frame s
  | .mark c frame => Sys2Proof.Machine.execMark c frame s
  | .writeBackTake c idle env => Sys2Proof.Machine.execWriteBackTake c idle env s
  | .stripeProgrammed c stream group => Sys2Proof.Machine.execStripeProgrammed c stream group s
  | .stripePad c stream group => Sys2Proof.Machine.execStripePad c stream group s
  | .programFailure c stream group member => Sys2Proof.Machine.execProgramFailure c stream group member s
  | .eraseFailure c group sb members => Sys2Proof.Machine.execEraseFailure c group sb members s
  | .nandReadComplete c unit res => Sys2Proof.Machine.execNandReadComplete c unit res s
  | .dieTimeout c die => Sys2Proof.Machine.execDieTimeout c die s
  | .dieParameterChange c die => Sys2Proof.Machine.execDieParameterChange c die s
  | .collection c => Sys2Proof.Machine.execCollection c s
  | .stripeBlockErase c group sb => Sys2Proof.Machine.execStripeBlockErase c group sb s
  | .journalPageProgrammed c => Sys2Proof.Machine.execJournalPageProgrammed c s
  | .checkpoint c => Sys2Proof.Machine.execCheckpoint c s
  | .anchorWrite c => Sys2Proof.Machine.execAnchorWrite c s
  | .temperatureSample c celsius => Sys2Proof.Machine.execTemperatureSample c celsius s
  | .channelStart c start => Sys2Proof.Machine.execChannelStart c start s
  | .selfTestWindowCheck vcoreMv tj => Sys2Proof.Machine.execSelfTestWindowCheck vcoreMv tj s
  | .selfTestGroupStart g => Sys2Proof.Machine.execSelfTestGroupStart g s
  | .selfTestGroupEnd g rec => Sys2Proof.Machine.execSelfTestGroupEnd g rec s
  | .stackLaneFailure c lane => Sys2Proof.Machine.execStackLaneFailure c lane s
  | .supplyWarn rail mv => Sys2Proof.Machine.execSupplyWarn rail mv s
  | .warnAckTimeout c => Sys2Proof.Machine.execWarnAckTimeout c s
  | .supplyOk rail mv => Sys2Proof.Machine.execSupplyOk rail mv s
  | .flushComplete c => Sys2Proof.Machine.execFlushComplete c s
  | .supplyReset rail => Sys2Proof.Machine.execSupplyReset rail s
  | .supplyRestored => Sys2Proof.Machine.execSupplyRestored s
  | .coldStart => Sys2Proof.Machine.execColdStart s
  | .regulatorAlert rail fault mv => Sys2Proof.Machine.execRegulatorAlert rail fault mv s
  | .thermalSample c sensor die stack => Sys2Proof.Machine.execThermalSample c sensor die stack s
  | .thermalTrip c tj => Sys2Proof.Machine.execThermalTrip c tj s
  | .thermalTripBound => Sys2Proof.Machine.execThermalTripBound s
  | .governorWindow watts mv => Sys2Proof.Machine.execGovernorWindow watts mv s
  | .healthPollTimeout c => Sys2Proof.Machine.execHealthPollTimeout c s
  | .linkTrainingDone c failed peer => Sys2Proof.Machine.execLinkTrainingDone c failed peer s
  | .linkLaneFailure c lane => Sys2Proof.Machine.execLinkLaneFailure c lane s
  | .linkRetrainDone c => Sys2Proof.Machine.execLinkRetrainDone c s
  | .linkLossOfSignal c => Sys2Proof.Machine.execLinkLossOfSignal c s
  | .uncorrectableFlit c => Sys2Proof.Machine.execUncorrectableFlit c s
  | .packetReceive c hdr payload frame => Sys2Proof.Machine.execPacketReceive c hdr payload frame s
  | .write c env => Sys2Proof.Machine.execWrite c env s
  | .readReq c env => Sys2Proof.Machine.execReadReq c env s
  | .add8 c env => Sys2Proof.Machine.execAdd8 c env s
  | .add16 c env => Sys2Proof.Machine.execAdd16 c env s
  | .cas8 c env => Sys2Proof.Machine.execCas8 c env s
  | .cas16 c env => Sys2Proof.Machine.execCas16 c env s
  | .duplicateLast c env => Sys2Proof.Machine.execDuplicateLast c env s
  | .ack c => Sys2Proof.Machine.execAck c s
  | .readResp c => Sys2Proof.Machine.execReadResp c s
  | .atomicResp c => Sys2Proof.Machine.execAtomicResp c s
  | .nakSeq c => Sys2Proof.Machine.execNakSeq c s
  | .controlFlit c f => Sys2Proof.Machine.execControlFlit c f s
  | .sendQueueIssue c conn => Sys2Proof.Machine.execSendQueueIssue c conn s
  | .t3MoveResume c r => Sys2Proof.Machine.execT3MoveResume c r s
  | .operationTimerExpiry c conn psn => Sys2Proof.Machine.execOperationTimerExpiry c conn psn s
  | .retransmitWaitEnd c conn psn => Sys2Proof.Machine.execRetransmitWaitEnd c conn psn s
  | .hostMemoryRequestDone c r k timeout data => Sys2Proof.Machine.execHostMemoryRequestDone c r k timeout data s
  | .rdmaWrite c pkt env => Sys2Proof.Machine.execRdmaWrite c pkt env s
  | .rdmaReadRequest c pkt env => Sys2Proof.Machine.execRdmaReadRequest c pkt env s
  | .cmpswap c pkt env => Sys2Proof.Machine.execCmpswap c pkt env s
  | .fetchadd c pkt env => Sys2Proof.Machine.execFetchadd c pkt env s
  | .roceUnsupportedRequest c pkt => Sys2Proof.Machine.execRoceUnsupportedRequest c pkt s
  | .pauseFrame c prio quanta => Sys2Proof.Machine.execPauseFrame c prio quanta s
  | .eraseComplete c group sb => Sys2Proof.Machine.execEraseComplete c group sb s
  | .linkRetrainTimeout c => Sys2Proof.Machine.execLinkRetrainTimeout c s
  | .vaonReset => Sys2Proof.Machine.execVaonReset s
  | .fatalFault c => Sys2Proof.Machine.execFatalFault c s
  | .globalPersistentFlush phase => Sys2Proof.Machine.execGlobalPersistentFlush phase s
  | .creditAdvertised c n => Sys2Proof.Machine.execCreditAdvertised c n s
  | .islandPaceWindowEnd steps => Sys2Proof.Machine.execIslandPaceWindowEnd steps s

end Sys2Proof.Machine
end

