-- ==== Sys2Proof/Laws/State.lean ====
section
/-! SUPPORT. The small lemmas of State: what each update leaves of each field of the state and of a channel, so that no later proof unfolds an
update. -/

namespace Sys2Proof.Machine
open Sys2Proof

variable (s : State) (c d : Ch) (r q : Ring)

/-! ## Channels -/

/-- A channel after a replacement. -/
theorem ch_setCh (x : Channel) : (setCh s c x).ch d = if d = c then x else s.ch d := by
  unfold setCh State.ch
  by_cases h : d = c
  · subst h; simp
  · have : c.val ≠ d.val := fun e => h (Fin.ext e.symm)
    simp [h, Vector.getElem_set_ne _ _ this]

/-- A channel after its change. -/
@[simp] theorem ch_modCh_same (f : Channel → Channel) : (modCh s c f).ch c = f (s.ch c) := by simp [modCh, ch_setCh]

/-- Another channel after a change. -/
@[simp] theorem ch_modCh_ne {d c : Ch} (h : d ≠ c) (f : Channel → Channel) : (modCh s c f).ch d = s.ch d := by simp [modCh, ch_setCh, h]

/-- A ring after its change. -/
@[simp] theorem ring_modRing_same (f : RingState → RingState) : (modRing s c r f).ring c r = f (s.ring c r) := by
  simp [modRing, State.ring]

/-- Another ring of the channel after a change. -/
@[simp] theorem ring_modRing_ne {q r : Ring} (h : q ≠ r) (f : RingState → RingState) : (modRing s c r f).ring c q = s.ring c q := by
  have : r.val ≠ q.val := fun e => h (Fin.ext e.symm)
  simp [modRing, State.ring, Vector.getElem_set_ne _ _ this]

/-- Another channel after a change of a ring. -/
@[simp] theorem ch_modRing_ne {d c : Ch} (h : d ≠ c) (f : RingState → RingState) : (modRing s c r f).ch d = s.ch d := by
  simp [modRing, h]

/-- A mailbox after its change. -/
@[simp] theorem mb_modMb_same (mb : Mbox) (f : MbState → MbState) : (modMb s mb f).mb mb = f (s.mb mb) := by
  simp [modMb, modIsland, State.mb]

/-- Another mailbox after a change. -/
@[simp] theorem mb_modMb_ne {mb mb' : Mbox} (h : mb' ≠ mb) (f : MbState → MbState) : (modMb s mb f).mb mb' = s.mb mb' := by
  have : mb.val ≠ mb'.val := fun e => h (Fin.ext e.symm)
  simp [modMb, modIsland, State.mb, Vector.getElem_set_ne _ _ this]

/-- A logical device after its change. -/
@[simp] theorem ld_modLd_same (l : Ld) (f : LdState → LdState) : (modLd s l f).ld l = f (s.ld l) := by simp [modLd, State.ld]

/-! ## The other fields of the state -/

@[simp] theorem setCh_pending (x : Channel) : (setCh s c x).pending = s.pending := rfl
@[simp] theorem setCh_out (x : Channel) : (setCh s c x).out = s.out := rfl
@[simp] theorem setCh_freeCount (x : Channel) : (setCh s c x).freeCount = s.freeCount := rfl
@[simp] theorem setCh_build (x : Channel) : (setCh s c x).build = s.build := rfl
@[simp] theorem setCh_island (x : Channel) : (setCh s c x).island = s.island := rfl
@[simp] theorem setCh_host (x : Channel) : (setCh s c x).host = s.host := rfl
@[simp] theorem setCh_lds (x : Channel) : (setCh s c x).lds = s.lds := rfl
@[simp] theorem modCh_pending (f : Channel → Channel) : (modCh s c f).pending = s.pending := rfl
@[simp] theorem modCh_out (f : Channel → Channel) : (modCh s c f).out = s.out := rfl
@[simp] theorem modCh_freeCount (f : Channel → Channel) : (modCh s c f).freeCount = s.freeCount := rfl
@[simp] theorem modCh_build (f : Channel → Channel) : (modCh s c f).build = s.build := rfl
@[simp] theorem modCh_island (f : Channel → Channel) : (modCh s c f).island = s.island := rfl
@[simp] theorem modCh_host (f : Channel → Channel) : (modCh s c f).host = s.host := rfl
@[simp] theorem modCh_lds (f : Channel → Channel) : (modCh s c f).lds = s.lds := rfl
@[simp] theorem modRing_pending (f : RingState → RingState) : (modRing s c r f).pending = s.pending := rfl
@[simp] theorem modRing_out (f : RingState → RingState) : (modRing s c r f).out = s.out := rfl
@[simp] theorem modRing_freeCount (f : RingState → RingState) : (modRing s c r f).freeCount = s.freeCount := rfl
@[simp] theorem modRing_build (f : RingState → RingState) : (modRing s c r f).build = s.build := rfl
@[simp] theorem modRing_island (f : RingState → RingState) : (modRing s c r f).island = s.island := rfl
@[simp] theorem modRing_host (f : RingState → RingState) : (modRing s c r f).host = s.host := rfl
@[simp] theorem modRing_lds (f : RingState → RingState) : (modRing s c r f).lds = s.lds := rfl
@[simp] theorem setWait_pending (w : RingWait) : (setWait s c r w).pending = s.pending := rfl
@[simp] theorem setWait_out (w : RingWait) : (setWait s c r w).out = s.out := rfl
@[simp] theorem setWait_freeCount (w : RingWait) : (setWait s c r w).freeCount = s.freeCount := rfl
@[simp] theorem setWait_build (w : RingWait) : (setWait s c r w).build = s.build := rfl
@[simp] theorem setWait_island (w : RingWait) : (setWait s c r w).island = s.island := rfl
@[simp] theorem setWait_host (w : RingWait) : (setWait s c r w).host = s.host := rfl
@[simp] theorem setWait_lds (w : RingWait) : (setWait s c r w).lds = s.lds := rfl
@[simp] theorem modObj_pending (f : Objects → Objects) : (modObj s c f).pending = s.pending := rfl
@[simp] theorem modObj_out (f : Objects → Objects) : (modObj s c f).out = s.out := rfl
@[simp] theorem modObj_freeCount (f : Objects → Objects) : (modObj s c f).freeCount = s.freeCount := rfl
@[simp] theorem modObj_build (f : Objects → Objects) : (modObj s c f).build = s.build := rfl
@[simp] theorem modObj_island (f : Objects → Objects) : (modObj s c f).island = s.island := rfl
@[simp] theorem modObj_host (f : Objects → Objects) : (modObj s c f).host = s.host := rfl
@[simp] theorem modObj_lds (f : Objects → Objects) : (modObj s c f).lds = s.lds := rfl
@[simp] theorem modRefPort_pending (f : RefPort → RefPort) : (modRefPort s c f).pending = s.pending := rfl
@[simp] theorem modRefPort_out (f : RefPort → RefPort) : (modRefPort s c f).out = s.out := rfl
@[simp] theorem modRefPort_freeCount (f : RefPort → RefPort) : (modRefPort s c f).freeCount = s.freeCount := rfl
@[simp] theorem modRefPort_build (f : RefPort → RefPort) : (modRefPort s c f).build = s.build := rfl
@[simp] theorem modRefPort_island (f : RefPort → RefPort) : (modRefPort s c f).island = s.island := rfl
@[simp] theorem modRefPort_host (f : RefPort → RefPort) : (modRefPort s c f).host = s.host := rfl
@[simp] theorem modRefPort_lds (f : RefPort → RefPort) : (modRefPort s c f).lds = s.lds := rfl
@[simp] theorem modSieve_pending (f : Sieve → Sieve) : (modSieve s c f).pending = s.pending := rfl
@[simp] theorem modSieve_out (f : Sieve → Sieve) : (modSieve s c f).out = s.out := rfl
@[simp] theorem modSieve_freeCount (f : Sieve → Sieve) : (modSieve s c f).freeCount = s.freeCount := rfl
@[simp] theorem modSieve_build (f : Sieve → Sieve) : (modSieve s c f).build = s.build := rfl
@[simp] theorem modSieve_island (f : Sieve → Sieve) : (modSieve s c f).island = s.island := rfl
@[simp] theorem modSieve_host (f : Sieve → Sieve) : (modSieve s c f).host = s.host := rfl
@[simp] theorem modSieve_lds (f : Sieve → Sieve) : (modSieve s c f).lds = s.lds := rfl
@[simp] theorem modMarl_pending (f : Marl → Marl) : (modMarl s c f).pending = s.pending := rfl
@[simp] theorem modMarl_out (f : Marl → Marl) : (modMarl s c f).out = s.out := rfl
@[simp] theorem modMarl_freeCount (f : Marl → Marl) : (modMarl s c f).freeCount = s.freeCount := rfl
@[simp] theorem modMarl_build (f : Marl → Marl) : (modMarl s c f).build = s.build := rfl
@[simp] theorem modMarl_island (f : Marl → Marl) : (modMarl s c f).island = s.island := rfl
@[simp] theorem modMarl_host (f : Marl → Marl) : (modMarl s c f).host = s.host := rfl
@[simp] theorem modMarl_lds (f : Marl → Marl) : (modMarl s c f).lds = s.lds := rfl
@[simp] theorem modFlash_pending (f : MarlFlash → MarlFlash) : (modFlash s c f).pending = s.pending := rfl
@[simp] theorem modFlash_out (f : MarlFlash → MarlFlash) : (modFlash s c f).out = s.out := rfl
@[simp] theorem modFlash_freeCount (f : MarlFlash → MarlFlash) : (modFlash s c f).freeCount = s.freeCount := rfl
@[simp] theorem modFlash_build (f : MarlFlash → MarlFlash) : (modFlash s c f).build = s.build := rfl
@[simp] theorem modFlash_island (f : MarlFlash → MarlFlash) : (modFlash s c f).island = s.island := rfl
@[simp] theorem modFlash_host (f : MarlFlash → MarlFlash) : (modFlash s c f).host = s.host := rfl
@[simp] theorem modFlash_lds (f : MarlFlash → MarlFlash) : (modFlash s c f).lds = s.lds := rfl
@[simp] theorem modLink_pending (f : Port → Port) : (modLink s c f).pending = s.pending := rfl
@[simp] theorem modLink_out (f : Port → Port) : (modLink s c f).out = s.out := rfl
@[simp] theorem modLink_freeCount (f : Port → Port) : (modLink s c f).freeCount = s.freeCount := rfl
@[simp] theorem modLink_build (f : Port → Port) : (modLink s c f).build = s.build := rfl
@[simp] theorem modLink_island (f : Port → Port) : (modLink s c f).island = s.island := rfl
@[simp] theorem modLink_host (f : Port → Port) : (modLink s c f).host = s.host := rfl
@[simp] theorem modLink_lds (f : Port → Port) : (modLink s c f).lds = s.lds := rfl
@[simp] theorem modHealth_pending (f : ChHealth → ChHealth) : (modHealth s c f).pending = s.pending := rfl
@[simp] theorem modHealth_out (f : ChHealth → ChHealth) : (modHealth s c f).out = s.out := rfl
@[simp] theorem modHealth_freeCount (f : ChHealth → ChHealth) : (modHealth s c f).freeCount = s.freeCount := rfl
@[simp] theorem modHealth_build (f : ChHealth → ChHealth) : (modHealth s c f).build = s.build := rfl
@[simp] theorem modHealth_island (f : ChHealth → ChHealth) : (modHealth s c f).island = s.island := rfl
@[simp] theorem modHealth_host (f : ChHealth → ChHealth) : (modHealth s c f).host = s.host := rfl
@[simp] theorem modHealth_lds (f : ChHealth → ChHealth) : (modHealth s c f).lds = s.lds := rfl
@[simp] theorem t0Write_pending (a : Nat) (bs : List Byte) : (t0Write s c a bs).pending = s.pending := rfl
@[simp] theorem t0Write_out (a : Nat) (bs : List Byte) : (t0Write s c a bs).out = s.out := rfl
@[simp] theorem t0Write_freeCount (a : Nat) (bs : List Byte) : (t0Write s c a bs).freeCount = s.freeCount := rfl
@[simp] theorem t0Write_build (a : Nat) (bs : List Byte) : (t0Write s c a bs).build = s.build := rfl
@[simp] theorem t0Write_island (a : Nat) (bs : List Byte) : (t0Write s c a bs).island = s.island := rfl
@[simp] theorem t0Write_host (a : Nat) (bs : List Byte) : (t0Write s c a bs).host = s.host := rfl
@[simp] theorem t0Write_lds (a : Nat) (bs : List Byte) : (t0Write s c a bs).lds = s.lds := rfl
@[simp] theorem modLd_pending (l : Ld) (f : LdState → LdState) : (modLd s l f).pending = s.pending := rfl
@[simp] theorem modLd_out (l : Ld) (f : LdState → LdState) : (modLd s l f).out = s.out := rfl
@[simp] theorem modLd_freeCount (l : Ld) (f : LdState → LdState) : (modLd s l f).freeCount = s.freeCount := rfl
@[simp] theorem modLd_build (l : Ld) (f : LdState → LdState) : (modLd s l f).build = s.build := rfl
@[simp] theorem modLd_island (l : Ld) (f : LdState → LdState) : (modLd s l f).island = s.island := rfl
@[simp] theorem modLd_host (l : Ld) (f : LdState → LdState) : (modLd s l f).host = s.host := rfl
@[simp] theorem modLd_chans (l : Ld) (f : LdState → LdState) : (modLd s l f).chans = s.chans := rfl
@[simp] theorem ch_modLd (l : Ld) (f : LdState → LdState) : (modLd s l f).ch c = s.ch c := rfl
@[simp] theorem ring_modLd (l : Ld) (f : LdState → LdState) : (modLd s l f).ring c r = s.ring c r := rfl
@[simp] theorem modIsland_pending (f : Island → Island) : (modIsland s f).pending = s.pending := rfl
@[simp] theorem modIsland_out (f : Island → Island) : (modIsland s f).out = s.out := rfl
@[simp] theorem modIsland_freeCount (f : Island → Island) : (modIsland s f).freeCount = s.freeCount := rfl
@[simp] theorem modIsland_build (f : Island → Island) : (modIsland s f).build = s.build := rfl
@[simp] theorem modIsland_host (f : Island → Island) : (modIsland s f).host = s.host := rfl
@[simp] theorem modIsland_lds (f : Island → Island) : (modIsland s f).lds = s.lds := rfl
@[simp] theorem modIsland_chans (f : Island → Island) : (modIsland s f).chans = s.chans := rfl
@[simp] theorem ch_modIsland (f : Island → Island) : (modIsland s f).ch c = s.ch c := rfl
@[simp] theorem ring_modIsland (f : Island → Island) : (modIsland s f).ring c r = s.ring c r := rfl
@[simp] theorem modHost_pending (f : HostPort → HostPort) : (modHost s f).pending = s.pending := rfl
@[simp] theorem modHost_out (f : HostPort → HostPort) : (modHost s f).out = s.out := rfl
@[simp] theorem modHost_freeCount (f : HostPort → HostPort) : (modHost s f).freeCount = s.freeCount := rfl
@[simp] theorem modHost_build (f : HostPort → HostPort) : (modHost s f).build = s.build := rfl
@[simp] theorem modHost_island (f : HostPort → HostPort) : (modHost s f).island = s.island := rfl
@[simp] theorem modHost_lds (f : HostPort → HostPort) : (modHost s f).lds = s.lds := rfl
@[simp] theorem modHost_chans (f : HostPort → HostPort) : (modHost s f).chans = s.chans := rfl
@[simp] theorem ch_modHost (f : HostPort → HostPort) : (modHost s f).ch c = s.ch c := rfl
@[simp] theorem ring_modHost (f : HostPort → HostPort) : (modHost s f).ring c r = s.ring c r := rfl
@[simp] theorem modMb_pending (mb : Mbox) (f : MbState → MbState) : (modMb s mb f).pending = s.pending := rfl
@[simp] theorem modMb_out (mb : Mbox) (f : MbState → MbState) : (modMb s mb f).out = s.out := rfl
@[simp] theorem modMb_freeCount (mb : Mbox) (f : MbState → MbState) : (modMb s mb f).freeCount = s.freeCount := rfl
@[simp] theorem modMb_build (mb : Mbox) (f : MbState → MbState) : (modMb s mb f).build = s.build := rfl
@[simp] theorem modMb_host (mb : Mbox) (f : MbState → MbState) : (modMb s mb f).host = s.host := rfl
@[simp] theorem modMb_lds (mb : Mbox) (f : MbState → MbState) : (modMb s mb f).lds = s.lds := rfl
@[simp] theorem modMb_chans (mb : Mbox) (f : MbState → MbState) : (modMb s mb f).chans = s.chans := rfl
@[simp] theorem ch_modMb (mb : Mbox) (f : MbState → MbState) : (modMb s mb f).ch c = s.ch c := rfl
@[simp] theorem ring_modMb (mb : Mbox) (f : MbState → MbState) : (modMb s mb f).ring c r = s.ring c r := rfl
@[simp] theorem emit_pending (o : Out) : (emit s o).pending = s.pending := rfl
@[simp] theorem emit_freeCount (o : Out) : (emit s o).freeCount = s.freeCount := rfl
@[simp] theorem emit_build (o : Out) : (emit s o).build = s.build := rfl
@[simp] theorem emit_island (o : Out) : (emit s o).island = s.island := rfl
@[simp] theorem emit_host (o : Out) : (emit s o).host = s.host := rfl
@[simp] theorem emit_lds (o : Out) : (emit s o).lds = s.lds := rfl
@[simp] theorem emit_chans (o : Out) : (emit s o).chans = s.chans := rfl
@[simp] theorem ch_emit (o : Out) : (emit s o).ch c = s.ch c := rfl
@[simp] theorem ring_emit (o : Out) : (emit s o).ring c r = s.ring c r := rfl

/-! ## The other fields of a channel -/

@[simp] theorem modRing_ch_state (f : RingState → RingState) : ((modRing s c r f).ch d).state = (s.ch d).state := by by_cases h : d = c <;> simp [modRing, ch_setCh, modCh, h]
@[simp] theorem modRing_ch_connected (f : RingState → RingState) : ((modRing s c r f).ch d).connected = (s.ch d).connected := by by_cases h : d = c <;> simp [modRing, ch_setCh, modCh, h]
@[simp] theorem modRing_ch_pace (f : RingState → RingState) : ((modRing s c r f).ch d).pace = (s.ch d).pace := by by_cases h : d = c <;> simp [modRing, ch_setCh, modCh, h]
@[simp] theorem modRing_ch_throttle (f : RingState → RingState) : ((modRing s c r f).ch d).throttle = (s.ch d).throttle := by by_cases h : d = c <;> simp [modRing, ch_setCh, modCh, h]
@[simp] theorem modRing_ch_cfg (f : RingState → RingState) : ((modRing s c r f).ch d).cfg = (s.ch d).cfg := by by_cases h : d = c <;> simp [modRing, ch_setCh, modCh, h]
@[simp] theorem modRing_ch_eng (f : RingState → RingState) : ((modRing s c r f).ch d).eng = (s.ch d).eng := by by_cases h : d = c <;> simp [modRing, ch_setCh, modCh, h]
@[simp] theorem modRing_ch_health (f : RingState → RingState) : ((modRing s c r f).ch d).health = (s.ch d).health := by by_cases h : d = c <;> simp [modRing, ch_setCh, modCh, h]
@[simp] theorem modRing_ch_srGen (f : RingState → RingState) : ((modRing s c r f).ch d).srGen = (s.ch d).srGen := by by_cases h : d = c <;> simp [modRing, ch_setCh, modCh, h]
@[simp] theorem modRing_ch_gates (f : RingState → RingState) : ((modRing s c r f).ch d).gates = (s.ch d).gates := by by_cases h : d = c <;> simp [modRing, ch_setCh, modCh, h]
@[simp] theorem modRing_ch_gateQ (f : RingState → RingState) : ((modRing s c r f).ch d).gateQ = (s.ch d).gateQ := by by_cases h : d = c <;> simp [modRing, ch_setCh, modCh, h]
@[simp] theorem modRing_ch_rel (f : RingState → RingState) : ((modRing s c r f).ch d).rel = (s.ch d).rel := by by_cases h : d = c <;> simp [modRing, ch_setCh, modCh, h]
@[simp] theorem modRing_ch_t0 (f : RingState → RingState) : ((modRing s c r f).ch d).t0 = (s.ch d).t0 := by by_cases h : d = c <;> simp [modRing, ch_setCh, modCh, h]
@[simp] theorem modRing_ch_t1 (f : RingState → RingState) : ((modRing s c r f).ch d).t1 = (s.ch d).t1 := by by_cases h : d = c <;> simp [modRing, ch_setCh, modCh, h]
@[simp] theorem modRing_ch_t1Lost (f : RingState → RingState) : ((modRing s c r f).ch d).t1Lost = (s.ch d).t1Lost := by by_cases h : d = c <;> simp [modRing, ch_setCh, modCh, h]
@[simp] theorem modRing_ch_t1Orphan (f : RingState → RingState) : ((modRing s c r f).ch d).t1Orphan = (s.ch d).t1Orphan := by by_cases h : d = c <;> simp [modRing, ch_setCh, modCh, h]
@[simp] theorem modRing_ch_obj (f : RingState → RingState) : ((modRing s c r f).ch d).obj = (s.ch d).obj := by by_cases h : d = c <;> simp [modRing, ch_setCh, modCh, h]
@[simp] theorem modRing_ch_sieve (f : RingState → RingState) : ((modRing s c r f).ch d).sieve = (s.ch d).sieve := by by_cases h : d = c <;> simp [modRing, ch_setCh, modCh, h]
@[simp] theorem modRing_ch_casSeq (f : RingState → RingState) : ((modRing s c r f).ch d).casSeq = (s.ch d).casSeq := by by_cases h : d = c <;> simp [modRing, ch_setCh, modCh, h]
@[simp] theorem modRing_ch_marl (f : RingState → RingState) : ((modRing s c r f).ch d).marl = (s.ch d).marl := by by_cases h : d = c <;> simp [modRing, ch_setCh, modCh, h]
@[simp] theorem modRing_ch_link (f : RingState → RingState) : ((modRing s c r f).ch d).link = (s.ch d).link := by by_cases h : d = c <;> simp [modRing, ch_setCh, modCh, h]
@[simp] theorem modRing_ch_holders (f : RingState → RingState) : ((modRing s c r f).ch d).holders = (s.ch d).holders := by by_cases h : d = c <;> simp [modRing, ch_setCh, modCh, h]
@[simp] theorem modRing_ch_snoops (f : RingState → RingState) : ((modRing s c r f).ch d).snoops = (s.ch d).snoops := by by_cases h : d = c <;> simp [modRing, ch_setCh, modCh, h]
@[simp] theorem modRing_ch_keyCache (f : RingState → RingState) : ((modRing s c r f).ch d).keyCache = (s.ch d).keyCache := by by_cases h : d = c <;> simp [modRing, ch_setCh, modCh, h]
@[simp] theorem modRing_ch_mdKey1 (f : RingState → RingState) : ((modRing s c r f).ch d).mdKey1 = (s.ch d).mdKey1 := by by_cases h : d = c <;> simp [modRing, ch_setCh, modCh, h]
@[simp] theorem modRing_ch_mdKey2 (f : RingState → RingState) : ((modRing s c r f).ch d).mdKey2 = (s.ch d).mdKey2 := by by_cases h : d = c <;> simp [modRing, ch_setCh, modCh, h]
@[simp] theorem modRing_ch_discard (f : RingState → RingState) : ((modRing s c r f).ch d).discard = (s.ch d).discard := by by_cases h : d = c <;> simp [modRing, ch_setCh, modCh, h]
@[simp] theorem setWait_ch_state (w : RingWait) : ((setWait s c r w).ch d).state = (s.ch d).state := by by_cases h : d = c <;> simp [setWait, modRing, ch_setCh, modCh, h]
@[simp] theorem setWait_ch_connected (w : RingWait) : ((setWait s c r w).ch d).connected = (s.ch d).connected := by by_cases h : d = c <;> simp [setWait, modRing, ch_setCh, modCh, h]
@[simp] theorem setWait_ch_pace (w : RingWait) : ((setWait s c r w).ch d).pace = (s.ch d).pace := by by_cases h : d = c <;> simp [setWait, modRing, ch_setCh, modCh, h]
@[simp] theorem setWait_ch_throttle (w : RingWait) : ((setWait s c r w).ch d).throttle = (s.ch d).throttle := by by_cases h : d = c <;> simp [setWait, modRing, ch_setCh, modCh, h]
@[simp] theorem setWait_ch_cfg (w : RingWait) : ((setWait s c r w).ch d).cfg = (s.ch d).cfg := by by_cases h : d = c <;> simp [setWait, modRing, ch_setCh, modCh, h]
@[simp] theorem setWait_ch_eng (w : RingWait) : ((setWait s c r w).ch d).eng = (s.ch d).eng := by by_cases h : d = c <;> simp [setWait, modRing, ch_setCh, modCh, h]
@[simp] theorem setWait_ch_health (w : RingWait) : ((setWait s c r w).ch d).health = (s.ch d).health := by by_cases h : d = c <;> simp [setWait, modRing, ch_setCh, modCh, h]
@[simp] theorem setWait_ch_srGen (w : RingWait) : ((setWait s c r w).ch d).srGen = (s.ch d).srGen := by by_cases h : d = c <;> simp [setWait, modRing, ch_setCh, modCh, h]
@[simp] theorem setWait_ch_gates (w : RingWait) : ((setWait s c r w).ch d).gates = (s.ch d).gates := by by_cases h : d = c <;> simp [setWait, modRing, ch_setCh, modCh, h]
@[simp] theorem setWait_ch_gateQ (w : RingWait) : ((setWait s c r w).ch d).gateQ = (s.ch d).gateQ := by by_cases h : d = c <;> simp [setWait, modRing, ch_setCh, modCh, h]
@[simp] theorem setWait_ch_rel (w : RingWait) : ((setWait s c r w).ch d).rel = (s.ch d).rel := by by_cases h : d = c <;> simp [setWait, modRing, ch_setCh, modCh, h]
@[simp] theorem setWait_ch_t0 (w : RingWait) : ((setWait s c r w).ch d).t0 = (s.ch d).t0 := by by_cases h : d = c <;> simp [setWait, modRing, ch_setCh, modCh, h]
@[simp] theorem setWait_ch_t1 (w : RingWait) : ((setWait s c r w).ch d).t1 = (s.ch d).t1 := by by_cases h : d = c <;> simp [setWait, modRing, ch_setCh, modCh, h]
@[simp] theorem setWait_ch_t1Lost (w : RingWait) : ((setWait s c r w).ch d).t1Lost = (s.ch d).t1Lost := by by_cases h : d = c <;> simp [setWait, modRing, ch_setCh, modCh, h]
@[simp] theorem setWait_ch_t1Orphan (w : RingWait) : ((setWait s c r w).ch d).t1Orphan = (s.ch d).t1Orphan := by by_cases h : d = c <;> simp [setWait, modRing, ch_setCh, modCh, h]
@[simp] theorem setWait_ch_obj (w : RingWait) : ((setWait s c r w).ch d).obj = (s.ch d).obj := by by_cases h : d = c <;> simp [setWait, modRing, ch_setCh, modCh, h]
@[simp] theorem setWait_ch_sieve (w : RingWait) : ((setWait s c r w).ch d).sieve = (s.ch d).sieve := by by_cases h : d = c <;> simp [setWait, modRing, ch_setCh, modCh, h]
@[simp] theorem setWait_ch_casSeq (w : RingWait) : ((setWait s c r w).ch d).casSeq = (s.ch d).casSeq := by by_cases h : d = c <;> simp [setWait, modRing, ch_setCh, modCh, h]
@[simp] theorem setWait_ch_marl (w : RingWait) : ((setWait s c r w).ch d).marl = (s.ch d).marl := by by_cases h : d = c <;> simp [setWait, modRing, ch_setCh, modCh, h]
@[simp] theorem setWait_ch_link (w : RingWait) : ((setWait s c r w).ch d).link = (s.ch d).link := by by_cases h : d = c <;> simp [setWait, modRing, ch_setCh, modCh, h]
@[simp] theorem setWait_ch_holders (w : RingWait) : ((setWait s c r w).ch d).holders = (s.ch d).holders := by by_cases h : d = c <;> simp [setWait, modRing, ch_setCh, modCh, h]
@[simp] theorem setWait_ch_snoops (w : RingWait) : ((setWait s c r w).ch d).snoops = (s.ch d).snoops := by by_cases h : d = c <;> simp [setWait, modRing, ch_setCh, modCh, h]
@[simp] theorem setWait_ch_keyCache (w : RingWait) : ((setWait s c r w).ch d).keyCache = (s.ch d).keyCache := by by_cases h : d = c <;> simp [setWait, modRing, ch_setCh, modCh, h]
@[simp] theorem setWait_ch_mdKey1 (w : RingWait) : ((setWait s c r w).ch d).mdKey1 = (s.ch d).mdKey1 := by by_cases h : d = c <;> simp [setWait, modRing, ch_setCh, modCh, h]
@[simp] theorem setWait_ch_mdKey2 (w : RingWait) : ((setWait s c r w).ch d).mdKey2 = (s.ch d).mdKey2 := by by_cases h : d = c <;> simp [setWait, modRing, ch_setCh, modCh, h]
@[simp] theorem setWait_ch_discard (w : RingWait) : ((setWait s c r w).ch d).discard = (s.ch d).discard := by by_cases h : d = c <;> simp [setWait, modRing, ch_setCh, modCh, h]
@[simp] theorem modObj_ch_state (f : Objects → Objects) : ((modObj s c f).ch d).state = (s.ch d).state := by by_cases h : d = c <;> simp [modObj, ch_setCh, modCh, h]
@[simp] theorem modObj_ch_connected (f : Objects → Objects) : ((modObj s c f).ch d).connected = (s.ch d).connected := by by_cases h : d = c <;> simp [modObj, ch_setCh, modCh, h]
@[simp] theorem modObj_ch_pace (f : Objects → Objects) : ((modObj s c f).ch d).pace = (s.ch d).pace := by by_cases h : d = c <;> simp [modObj, ch_setCh, modCh, h]
@[simp] theorem modObj_ch_throttle (f : Objects → Objects) : ((modObj s c f).ch d).throttle = (s.ch d).throttle := by by_cases h : d = c <;> simp [modObj, ch_setCh, modCh, h]
@[simp] theorem modObj_ch_cfg (f : Objects → Objects) : ((modObj s c f).ch d).cfg = (s.ch d).cfg := by by_cases h : d = c <;> simp [modObj, ch_setCh, modCh, h]
@[simp] theorem modObj_ch_eng (f : Objects → Objects) : ((modObj s c f).ch d).eng = (s.ch d).eng := by by_cases h : d = c <;> simp [modObj, ch_setCh, modCh, h]
@[simp] theorem modObj_ch_health (f : Objects → Objects) : ((modObj s c f).ch d).health = (s.ch d).health := by by_cases h : d = c <;> simp [modObj, ch_setCh, modCh, h]
@[simp] theorem modObj_ch_srGen (f : Objects → Objects) : ((modObj s c f).ch d).srGen = (s.ch d).srGen := by by_cases h : d = c <;> simp [modObj, ch_setCh, modCh, h]
@[simp] theorem modObj_ch_rings (f : Objects → Objects) : ((modObj s c f).ch d).rings = (s.ch d).rings := by by_cases h : d = c <;> simp [modObj, ch_setCh, modCh, h]
@[simp] theorem modObj_ch_gates (f : Objects → Objects) : ((modObj s c f).ch d).gates = (s.ch d).gates := by by_cases h : d = c <;> simp [modObj, ch_setCh, modCh, h]
@[simp] theorem modObj_ch_gateQ (f : Objects → Objects) : ((modObj s c f).ch d).gateQ = (s.ch d).gateQ := by by_cases h : d = c <;> simp [modObj, ch_setCh, modCh, h]
@[simp] theorem modObj_ch_rel (f : Objects → Objects) : ((modObj s c f).ch d).rel = (s.ch d).rel := by by_cases h : d = c <;> simp [modObj, ch_setCh, modCh, h]
@[simp] theorem modObj_ch_t0 (f : Objects → Objects) : ((modObj s c f).ch d).t0 = (s.ch d).t0 := by by_cases h : d = c <;> simp [modObj, ch_setCh, modCh, h]
@[simp] theorem modObj_ch_t1 (f : Objects → Objects) : ((modObj s c f).ch d).t1 = (s.ch d).t1 := by by_cases h : d = c <;> simp [modObj, ch_setCh, modCh, h]
@[simp] theorem modObj_ch_t1Lost (f : Objects → Objects) : ((modObj s c f).ch d).t1Lost = (s.ch d).t1Lost := by by_cases h : d = c <;> simp [modObj, ch_setCh, modCh, h]
@[simp] theorem modObj_ch_t1Orphan (f : Objects → Objects) : ((modObj s c f).ch d).t1Orphan = (s.ch d).t1Orphan := by by_cases h : d = c <;> simp [modObj, ch_setCh, modCh, h]
@[simp] theorem modObj_ch_sieve (f : Objects → Objects) : ((modObj s c f).ch d).sieve = (s.ch d).sieve := by by_cases h : d = c <;> simp [modObj, ch_setCh, modCh, h]
@[simp] theorem modObj_ch_casSeq (f : Objects → Objects) : ((modObj s c f).ch d).casSeq = (s.ch d).casSeq := by by_cases h : d = c <;> simp [modObj, ch_setCh, modCh, h]
@[simp] theorem modObj_ch_marl (f : Objects → Objects) : ((modObj s c f).ch d).marl = (s.ch d).marl := by by_cases h : d = c <;> simp [modObj, ch_setCh, modCh, h]
@[simp] theorem modObj_ch_link (f : Objects → Objects) : ((modObj s c f).ch d).link = (s.ch d).link := by by_cases h : d = c <;> simp [modObj, ch_setCh, modCh, h]
@[simp] theorem modObj_ch_holders (f : Objects → Objects) : ((modObj s c f).ch d).holders = (s.ch d).holders := by by_cases h : d = c <;> simp [modObj, ch_setCh, modCh, h]
@[simp] theorem modObj_ch_snoops (f : Objects → Objects) : ((modObj s c f).ch d).snoops = (s.ch d).snoops := by by_cases h : d = c <;> simp [modObj, ch_setCh, modCh, h]
@[simp] theorem modObj_ch_keyCache (f : Objects → Objects) : ((modObj s c f).ch d).keyCache = (s.ch d).keyCache := by by_cases h : d = c <;> simp [modObj, ch_setCh, modCh, h]
@[simp] theorem modObj_ch_mdKey1 (f : Objects → Objects) : ((modObj s c f).ch d).mdKey1 = (s.ch d).mdKey1 := by by_cases h : d = c <;> simp [modObj, ch_setCh, modCh, h]
@[simp] theorem modObj_ch_mdKey2 (f : Objects → Objects) : ((modObj s c f).ch d).mdKey2 = (s.ch d).mdKey2 := by by_cases h : d = c <;> simp [modObj, ch_setCh, modCh, h]
@[simp] theorem modObj_ch_discard (f : Objects → Objects) : ((modObj s c f).ch d).discard = (s.ch d).discard := by by_cases h : d = c <;> simp [modObj, ch_setCh, modCh, h]
@[simp] theorem ring_modObj (f : Objects → Objects) : (modObj s c f).ring d q = s.ring d q := by simp [State.ring]
@[simp] theorem modSieve_ch_state (f : Sieve → Sieve) : ((modSieve s c f).ch d).state = (s.ch d).state := by by_cases h : d = c <;> simp [modSieve, ch_setCh, modCh, h]
@[simp] theorem modSieve_ch_connected (f : Sieve → Sieve) : ((modSieve s c f).ch d).connected = (s.ch d).connected := by by_cases h : d = c <;> simp [modSieve, ch_setCh, modCh, h]
@[simp] theorem modSieve_ch_pace (f : Sieve → Sieve) : ((modSieve s c f).ch d).pace = (s.ch d).pace := by by_cases h : d = c <;> simp [modSieve, ch_setCh, modCh, h]
@[simp] theorem modSieve_ch_throttle (f : Sieve → Sieve) : ((modSieve s c f).ch d).throttle = (s.ch d).throttle := by by_cases h : d = c <;> simp [modSieve, ch_setCh, modCh, h]
@[simp] theorem modSieve_ch_cfg (f : Sieve → Sieve) : ((modSieve s c f).ch d).cfg = (s.ch d).cfg := by by_cases h : d = c <;> simp [modSieve, ch_setCh, modCh, h]
@[simp] theorem modSieve_ch_eng (f : Sieve → Sieve) : ((modSieve s c f).ch d).eng = (s.ch d).eng := by by_cases h : d = c <;> simp [modSieve, ch_setCh, modCh, h]
@[simp] theorem modSieve_ch_health (f : Sieve → Sieve) : ((modSieve s c f).ch d).health = (s.ch d).health := by by_cases h : d = c <;> simp [modSieve, ch_setCh, modCh, h]
@[simp] theorem modSieve_ch_srGen (f : Sieve → Sieve) : ((modSieve s c f).ch d).srGen = (s.ch d).srGen := by by_cases h : d = c <;> simp [modSieve, ch_setCh, modCh, h]
@[simp] theorem modSieve_ch_rings (f : Sieve → Sieve) : ((modSieve s c f).ch d).rings = (s.ch d).rings := by by_cases h : d = c <;> simp [modSieve, ch_setCh, modCh, h]
@[simp] theorem modSieve_ch_gates (f : Sieve → Sieve) : ((modSieve s c f).ch d).gates = (s.ch d).gates := by by_cases h : d = c <;> simp [modSieve, ch_setCh, modCh, h]
@[simp] theorem modSieve_ch_gateQ (f : Sieve → Sieve) : ((modSieve s c f).ch d).gateQ = (s.ch d).gateQ := by by_cases h : d = c <;> simp [modSieve, ch_setCh, modCh, h]
@[simp] theorem modSieve_ch_rel (f : Sieve → Sieve) : ((modSieve s c f).ch d).rel = (s.ch d).rel := by by_cases h : d = c <;> simp [modSieve, ch_setCh, modCh, h]
@[simp] theorem modSieve_ch_t0 (f : Sieve → Sieve) : ((modSieve s c f).ch d).t0 = (s.ch d).t0 := by by_cases h : d = c <;> simp [modSieve, ch_setCh, modCh, h]
@[simp] theorem modSieve_ch_t1 (f : Sieve → Sieve) : ((modSieve s c f).ch d).t1 = (s.ch d).t1 := by by_cases h : d = c <;> simp [modSieve, ch_setCh, modCh, h]
@[simp] theorem modSieve_ch_t1Lost (f : Sieve → Sieve) : ((modSieve s c f).ch d).t1Lost = (s.ch d).t1Lost := by by_cases h : d = c <;> simp [modSieve, ch_setCh, modCh, h]
@[simp] theorem modSieve_ch_t1Orphan (f : Sieve → Sieve) : ((modSieve s c f).ch d).t1Orphan = (s.ch d).t1Orphan := by by_cases h : d = c <;> simp [modSieve, ch_setCh, modCh, h]
@[simp] theorem modSieve_ch_obj (f : Sieve → Sieve) : ((modSieve s c f).ch d).obj = (s.ch d).obj := by by_cases h : d = c <;> simp [modSieve, ch_setCh, modCh, h]
@[simp] theorem modSieve_ch_casSeq (f : Sieve → Sieve) : ((modSieve s c f).ch d).casSeq = (s.ch d).casSeq := by by_cases h : d = c <;> simp [modSieve, ch_setCh, modCh, h]
@[simp] theorem modSieve_ch_marl (f : Sieve → Sieve) : ((modSieve s c f).ch d).marl = (s.ch d).marl := by by_cases h : d = c <;> simp [modSieve, ch_setCh, modCh, h]
@[simp] theorem modSieve_ch_link (f : Sieve → Sieve) : ((modSieve s c f).ch d).link = (s.ch d).link := by by_cases h : d = c <;> simp [modSieve, ch_setCh, modCh, h]
@[simp] theorem modSieve_ch_holders (f : Sieve → Sieve) : ((modSieve s c f).ch d).holders = (s.ch d).holders := by by_cases h : d = c <;> simp [modSieve, ch_setCh, modCh, h]
@[simp] theorem modSieve_ch_snoops (f : Sieve → Sieve) : ((modSieve s c f).ch d).snoops = (s.ch d).snoops := by by_cases h : d = c <;> simp [modSieve, ch_setCh, modCh, h]
@[simp] theorem modSieve_ch_keyCache (f : Sieve → Sieve) : ((modSieve s c f).ch d).keyCache = (s.ch d).keyCache := by by_cases h : d = c <;> simp [modSieve, ch_setCh, modCh, h]
@[simp] theorem modSieve_ch_mdKey1 (f : Sieve → Sieve) : ((modSieve s c f).ch d).mdKey1 = (s.ch d).mdKey1 := by by_cases h : d = c <;> simp [modSieve, ch_setCh, modCh, h]
@[simp] theorem modSieve_ch_mdKey2 (f : Sieve → Sieve) : ((modSieve s c f).ch d).mdKey2 = (s.ch d).mdKey2 := by by_cases h : d = c <;> simp [modSieve, ch_setCh, modCh, h]
@[simp] theorem modSieve_ch_discard (f : Sieve → Sieve) : ((modSieve s c f).ch d).discard = (s.ch d).discard := by by_cases h : d = c <;> simp [modSieve, ch_setCh, modCh, h]
@[simp] theorem ring_modSieve (f : Sieve → Sieve) : (modSieve s c f).ring d q = s.ring d q := by simp [State.ring]
@[simp] theorem modMarl_ch_state (f : Marl → Marl) : ((modMarl s c f).ch d).state = (s.ch d).state := by by_cases h : d = c <;> simp [modMarl, ch_setCh, modCh, h]
@[simp] theorem modMarl_ch_connected (f : Marl → Marl) : ((modMarl s c f).ch d).connected = (s.ch d).connected := by by_cases h : d = c <;> simp [modMarl, ch_setCh, modCh, h]
@[simp] theorem modMarl_ch_pace (f : Marl → Marl) : ((modMarl s c f).ch d).pace = (s.ch d).pace := by by_cases h : d = c <;> simp [modMarl, ch_setCh, modCh, h]
@[simp] theorem modMarl_ch_throttle (f : Marl → Marl) : ((modMarl s c f).ch d).throttle = (s.ch d).throttle := by by_cases h : d = c <;> simp [modMarl, ch_setCh, modCh, h]
@[simp] theorem modMarl_ch_cfg (f : Marl → Marl) : ((modMarl s c f).ch d).cfg = (s.ch d).cfg := by by_cases h : d = c <;> simp [modMarl, ch_setCh, modCh, h]
@[simp] theorem modMarl_ch_eng (f : Marl → Marl) : ((modMarl s c f).ch d).eng = (s.ch d).eng := by by_cases h : d = c <;> simp [modMarl, ch_setCh, modCh, h]
@[simp] theorem modMarl_ch_health (f : Marl → Marl) : ((modMarl s c f).ch d).health = (s.ch d).health := by by_cases h : d = c <;> simp [modMarl, ch_setCh, modCh, h]
@[simp] theorem modMarl_ch_srGen (f : Marl → Marl) : ((modMarl s c f).ch d).srGen = (s.ch d).srGen := by by_cases h : d = c <;> simp [modMarl, ch_setCh, modCh, h]
@[simp] theorem modMarl_ch_rings (f : Marl → Marl) : ((modMarl s c f).ch d).rings = (s.ch d).rings := by by_cases h : d = c <;> simp [modMarl, ch_setCh, modCh, h]
@[simp] theorem modMarl_ch_gates (f : Marl → Marl) : ((modMarl s c f).ch d).gates = (s.ch d).gates := by by_cases h : d = c <;> simp [modMarl, ch_setCh, modCh, h]
@[simp] theorem modMarl_ch_gateQ (f : Marl → Marl) : ((modMarl s c f).ch d).gateQ = (s.ch d).gateQ := by by_cases h : d = c <;> simp [modMarl, ch_setCh, modCh, h]
@[simp] theorem modMarl_ch_rel (f : Marl → Marl) : ((modMarl s c f).ch d).rel = (s.ch d).rel := by by_cases h : d = c <;> simp [modMarl, ch_setCh, modCh, h]
@[simp] theorem modMarl_ch_t0 (f : Marl → Marl) : ((modMarl s c f).ch d).t0 = (s.ch d).t0 := by by_cases h : d = c <;> simp [modMarl, ch_setCh, modCh, h]
@[simp] theorem modMarl_ch_t1 (f : Marl → Marl) : ((modMarl s c f).ch d).t1 = (s.ch d).t1 := by by_cases h : d = c <;> simp [modMarl, ch_setCh, modCh, h]
@[simp] theorem modMarl_ch_t1Lost (f : Marl → Marl) : ((modMarl s c f).ch d).t1Lost = (s.ch d).t1Lost := by by_cases h : d = c <;> simp [modMarl, ch_setCh, modCh, h]
@[simp] theorem modMarl_ch_t1Orphan (f : Marl → Marl) : ((modMarl s c f).ch d).t1Orphan = (s.ch d).t1Orphan := by by_cases h : d = c <;> simp [modMarl, ch_setCh, modCh, h]
@[simp] theorem modMarl_ch_obj (f : Marl → Marl) : ((modMarl s c f).ch d).obj = (s.ch d).obj := by by_cases h : d = c <;> simp [modMarl, ch_setCh, modCh, h]
@[simp] theorem modMarl_ch_sieve (f : Marl → Marl) : ((modMarl s c f).ch d).sieve = (s.ch d).sieve := by by_cases h : d = c <;> simp [modMarl, ch_setCh, modCh, h]
@[simp] theorem modMarl_ch_casSeq (f : Marl → Marl) : ((modMarl s c f).ch d).casSeq = (s.ch d).casSeq := by by_cases h : d = c <;> simp [modMarl, ch_setCh, modCh, h]
@[simp] theorem modMarl_ch_link (f : Marl → Marl) : ((modMarl s c f).ch d).link = (s.ch d).link := by by_cases h : d = c <;> simp [modMarl, ch_setCh, modCh, h]
@[simp] theorem modMarl_ch_holders (f : Marl → Marl) : ((modMarl s c f).ch d).holders = (s.ch d).holders := by by_cases h : d = c <;> simp [modMarl, ch_setCh, modCh, h]
@[simp] theorem modMarl_ch_snoops (f : Marl → Marl) : ((modMarl s c f).ch d).snoops = (s.ch d).snoops := by by_cases h : d = c <;> simp [modMarl, ch_setCh, modCh, h]
@[simp] theorem modMarl_ch_keyCache (f : Marl → Marl) : ((modMarl s c f).ch d).keyCache = (s.ch d).keyCache := by by_cases h : d = c <;> simp [modMarl, ch_setCh, modCh, h]
@[simp] theorem modMarl_ch_mdKey1 (f : Marl → Marl) : ((modMarl s c f).ch d).mdKey1 = (s.ch d).mdKey1 := by by_cases h : d = c <;> simp [modMarl, ch_setCh, modCh, h]
@[simp] theorem modMarl_ch_mdKey2 (f : Marl → Marl) : ((modMarl s c f).ch d).mdKey2 = (s.ch d).mdKey2 := by by_cases h : d = c <;> simp [modMarl, ch_setCh, modCh, h]
@[simp] theorem modMarl_ch_discard (f : Marl → Marl) : ((modMarl s c f).ch d).discard = (s.ch d).discard := by by_cases h : d = c <;> simp [modMarl, ch_setCh, modCh, h]
@[simp] theorem ring_modMarl (f : Marl → Marl) : (modMarl s c f).ring d q = s.ring d q := by simp [State.ring]
@[simp] theorem modLink_ch_state (f : Port → Port) : ((modLink s c f).ch d).state = (s.ch d).state := by by_cases h : d = c <;> simp [modLink, ch_setCh, modCh, h]
@[simp] theorem modLink_ch_connected (f : Port → Port) : ((modLink s c f).ch d).connected = (s.ch d).connected := by by_cases h : d = c <;> simp [modLink, ch_setCh, modCh, h]
@[simp] theorem modLink_ch_pace (f : Port → Port) : ((modLink s c f).ch d).pace = (s.ch d).pace := by by_cases h : d = c <;> simp [modLink, ch_setCh, modCh, h]
@[simp] theorem modLink_ch_throttle (f : Port → Port) : ((modLink s c f).ch d).throttle = (s.ch d).throttle := by by_cases h : d = c <;> simp [modLink, ch_setCh, modCh, h]
@[simp] theorem modLink_ch_cfg (f : Port → Port) : ((modLink s c f).ch d).cfg = (s.ch d).cfg := by by_cases h : d = c <;> simp [modLink, ch_setCh, modCh, h]
@[simp] theorem modLink_ch_eng (f : Port → Port) : ((modLink s c f).ch d).eng = (s.ch d).eng := by by_cases h : d = c <;> simp [modLink, ch_setCh, modCh, h]
@[simp] theorem modLink_ch_health (f : Port → Port) : ((modLink s c f).ch d).health = (s.ch d).health := by by_cases h : d = c <;> simp [modLink, ch_setCh, modCh, h]
@[simp] theorem modLink_ch_srGen (f : Port → Port) : ((modLink s c f).ch d).srGen = (s.ch d).srGen := by by_cases h : d = c <;> simp [modLink, ch_setCh, modCh, h]
@[simp] theorem modLink_ch_rings (f : Port → Port) : ((modLink s c f).ch d).rings = (s.ch d).rings := by by_cases h : d = c <;> simp [modLink, ch_setCh, modCh, h]
@[simp] theorem modLink_ch_gates (f : Port → Port) : ((modLink s c f).ch d).gates = (s.ch d).gates := by by_cases h : d = c <;> simp [modLink, ch_setCh, modCh, h]
@[simp] theorem modLink_ch_gateQ (f : Port → Port) : ((modLink s c f).ch d).gateQ = (s.ch d).gateQ := by by_cases h : d = c <;> simp [modLink, ch_setCh, modCh, h]
@[simp] theorem modLink_ch_rel (f : Port → Port) : ((modLink s c f).ch d).rel = (s.ch d).rel := by by_cases h : d = c <;> simp [modLink, ch_setCh, modCh, h]
@[simp] theorem modLink_ch_t0 (f : Port → Port) : ((modLink s c f).ch d).t0 = (s.ch d).t0 := by by_cases h : d = c <;> simp [modLink, ch_setCh, modCh, h]
@[simp] theorem modLink_ch_t1 (f : Port → Port) : ((modLink s c f).ch d).t1 = (s.ch d).t1 := by by_cases h : d = c <;> simp [modLink, ch_setCh, modCh, h]
@[simp] theorem modLink_ch_t1Lost (f : Port → Port) : ((modLink s c f).ch d).t1Lost = (s.ch d).t1Lost := by by_cases h : d = c <;> simp [modLink, ch_setCh, modCh, h]
@[simp] theorem modLink_ch_t1Orphan (f : Port → Port) : ((modLink s c f).ch d).t1Orphan = (s.ch d).t1Orphan := by by_cases h : d = c <;> simp [modLink, ch_setCh, modCh, h]
@[simp] theorem modLink_ch_obj (f : Port → Port) : ((modLink s c f).ch d).obj = (s.ch d).obj := by by_cases h : d = c <;> simp [modLink, ch_setCh, modCh, h]
@[simp] theorem modLink_ch_sieve (f : Port → Port) : ((modLink s c f).ch d).sieve = (s.ch d).sieve := by by_cases h : d = c <;> simp [modLink, ch_setCh, modCh, h]
@[simp] theorem modLink_ch_casSeq (f : Port → Port) : ((modLink s c f).ch d).casSeq = (s.ch d).casSeq := by by_cases h : d = c <;> simp [modLink, ch_setCh, modCh, h]
@[simp] theorem modLink_ch_marl (f : Port → Port) : ((modLink s c f).ch d).marl = (s.ch d).marl := by by_cases h : d = c <;> simp [modLink, ch_setCh, modCh, h]
@[simp] theorem modLink_ch_holders (f : Port → Port) : ((modLink s c f).ch d).holders = (s.ch d).holders := by by_cases h : d = c <;> simp [modLink, ch_setCh, modCh, h]
@[simp] theorem modLink_ch_snoops (f : Port → Port) : ((modLink s c f).ch d).snoops = (s.ch d).snoops := by by_cases h : d = c <;> simp [modLink, ch_setCh, modCh, h]
@[simp] theorem modLink_ch_keyCache (f : Port → Port) : ((modLink s c f).ch d).keyCache = (s.ch d).keyCache := by by_cases h : d = c <;> simp [modLink, ch_setCh, modCh, h]
@[simp] theorem modLink_ch_mdKey1 (f : Port → Port) : ((modLink s c f).ch d).mdKey1 = (s.ch d).mdKey1 := by by_cases h : d = c <;> simp [modLink, ch_setCh, modCh, h]
@[simp] theorem modLink_ch_mdKey2 (f : Port → Port) : ((modLink s c f).ch d).mdKey2 = (s.ch d).mdKey2 := by by_cases h : d = c <;> simp [modLink, ch_setCh, modCh, h]
@[simp] theorem modLink_ch_discard (f : Port → Port) : ((modLink s c f).ch d).discard = (s.ch d).discard := by by_cases h : d = c <;> simp [modLink, ch_setCh, modCh, h]
@[simp] theorem ring_modLink (f : Port → Port) : (modLink s c f).ring d q = s.ring d q := by simp [State.ring]
@[simp] theorem modHealth_ch_state (f : ChHealth → ChHealth) : ((modHealth s c f).ch d).state = (s.ch d).state := by by_cases h : d = c <;> simp [modHealth, ch_setCh, modCh, h]
@[simp] theorem modHealth_ch_connected (f : ChHealth → ChHealth) : ((modHealth s c f).ch d).connected = (s.ch d).connected := by by_cases h : d = c <;> simp [modHealth, ch_setCh, modCh, h]
@[simp] theorem modHealth_ch_pace (f : ChHealth → ChHealth) : ((modHealth s c f).ch d).pace = (s.ch d).pace := by by_cases h : d = c <;> simp [modHealth, ch_setCh, modCh, h]
@[simp] theorem modHealth_ch_throttle (f : ChHealth → ChHealth) : ((modHealth s c f).ch d).throttle = (s.ch d).throttle := by by_cases h : d = c <;> simp [modHealth, ch_setCh, modCh, h]
@[simp] theorem modHealth_ch_cfg (f : ChHealth → ChHealth) : ((modHealth s c f).ch d).cfg = (s.ch d).cfg := by by_cases h : d = c <;> simp [modHealth, ch_setCh, modCh, h]
@[simp] theorem modHealth_ch_eng (f : ChHealth → ChHealth) : ((modHealth s c f).ch d).eng = (s.ch d).eng := by by_cases h : d = c <;> simp [modHealth, ch_setCh, modCh, h]
@[simp] theorem modHealth_ch_srGen (f : ChHealth → ChHealth) : ((modHealth s c f).ch d).srGen = (s.ch d).srGen := by by_cases h : d = c <;> simp [modHealth, ch_setCh, modCh, h]
@[simp] theorem modHealth_ch_rings (f : ChHealth → ChHealth) : ((modHealth s c f).ch d).rings = (s.ch d).rings := by by_cases h : d = c <;> simp [modHealth, ch_setCh, modCh, h]
@[simp] theorem modHealth_ch_gates (f : ChHealth → ChHealth) : ((modHealth s c f).ch d).gates = (s.ch d).gates := by by_cases h : d = c <;> simp [modHealth, ch_setCh, modCh, h]
@[simp] theorem modHealth_ch_gateQ (f : ChHealth → ChHealth) : ((modHealth s c f).ch d).gateQ = (s.ch d).gateQ := by by_cases h : d = c <;> simp [modHealth, ch_setCh, modCh, h]
@[simp] theorem modHealth_ch_rel (f : ChHealth → ChHealth) : ((modHealth s c f).ch d).rel = (s.ch d).rel := by by_cases h : d = c <;> simp [modHealth, ch_setCh, modCh, h]
@[simp] theorem modHealth_ch_t0 (f : ChHealth → ChHealth) : ((modHealth s c f).ch d).t0 = (s.ch d).t0 := by by_cases h : d = c <;> simp [modHealth, ch_setCh, modCh, h]
@[simp] theorem modHealth_ch_t1 (f : ChHealth → ChHealth) : ((modHealth s c f).ch d).t1 = (s.ch d).t1 := by by_cases h : d = c <;> simp [modHealth, ch_setCh, modCh, h]
@[simp] theorem modHealth_ch_t1Lost (f : ChHealth → ChHealth) : ((modHealth s c f).ch d).t1Lost = (s.ch d).t1Lost := by by_cases h : d = c <;> simp [modHealth, ch_setCh, modCh, h]
@[simp] theorem modHealth_ch_t1Orphan (f : ChHealth → ChHealth) : ((modHealth s c f).ch d).t1Orphan = (s.ch d).t1Orphan := by by_cases h : d = c <;> simp [modHealth, ch_setCh, modCh, h]
@[simp] theorem modHealth_ch_obj (f : ChHealth → ChHealth) : ((modHealth s c f).ch d).obj = (s.ch d).obj := by by_cases h : d = c <;> simp [modHealth, ch_setCh, modCh, h]
@[simp] theorem modHealth_ch_sieve (f : ChHealth → ChHealth) : ((modHealth s c f).ch d).sieve = (s.ch d).sieve := by by_cases h : d = c <;> simp [modHealth, ch_setCh, modCh, h]
@[simp] theorem modHealth_ch_casSeq (f : ChHealth → ChHealth) : ((modHealth s c f).ch d).casSeq = (s.ch d).casSeq := by by_cases h : d = c <;> simp [modHealth, ch_setCh, modCh, h]
@[simp] theorem modHealth_ch_marl (f : ChHealth → ChHealth) : ((modHealth s c f).ch d).marl = (s.ch d).marl := by by_cases h : d = c <;> simp [modHealth, ch_setCh, modCh, h]
@[simp] theorem modHealth_ch_link (f : ChHealth → ChHealth) : ((modHealth s c f).ch d).link = (s.ch d).link := by by_cases h : d = c <;> simp [modHealth, ch_setCh, modCh, h]
@[simp] theorem modHealth_ch_holders (f : ChHealth → ChHealth) : ((modHealth s c f).ch d).holders = (s.ch d).holders := by by_cases h : d = c <;> simp [modHealth, ch_setCh, modCh, h]
@[simp] theorem modHealth_ch_snoops (f : ChHealth → ChHealth) : ((modHealth s c f).ch d).snoops = (s.ch d).snoops := by by_cases h : d = c <;> simp [modHealth, ch_setCh, modCh, h]
@[simp] theorem modHealth_ch_keyCache (f : ChHealth → ChHealth) : ((modHealth s c f).ch d).keyCache = (s.ch d).keyCache := by by_cases h : d = c <;> simp [modHealth, ch_setCh, modCh, h]
@[simp] theorem modHealth_ch_mdKey1 (f : ChHealth → ChHealth) : ((modHealth s c f).ch d).mdKey1 = (s.ch d).mdKey1 := by by_cases h : d = c <;> simp [modHealth, ch_setCh, modCh, h]
@[simp] theorem modHealth_ch_mdKey2 (f : ChHealth → ChHealth) : ((modHealth s c f).ch d).mdKey2 = (s.ch d).mdKey2 := by by_cases h : d = c <;> simp [modHealth, ch_setCh, modCh, h]
@[simp] theorem modHealth_ch_discard (f : ChHealth → ChHealth) : ((modHealth s c f).ch d).discard = (s.ch d).discard := by by_cases h : d = c <;> simp [modHealth, ch_setCh, modCh, h]
@[simp] theorem ring_modHealth (f : ChHealth → ChHealth) : (modHealth s c f).ring d q = s.ring d q := by simp [State.ring]
@[simp] theorem t0Write_ch_state (a : Nat) (bs : List Byte) : ((t0Write s c a bs).ch d).state = (s.ch d).state := by by_cases h : d = c <;> simp [t0Write, ch_setCh, modCh, h]
@[simp] theorem t0Write_ch_connected (a : Nat) (bs : List Byte) : ((t0Write s c a bs).ch d).connected = (s.ch d).connected := by by_cases h : d = c <;> simp [t0Write, ch_setCh, modCh, h]
@[simp] theorem t0Write_ch_pace (a : Nat) (bs : List Byte) : ((t0Write s c a bs).ch d).pace = (s.ch d).pace := by by_cases h : d = c <;> simp [t0Write, ch_setCh, modCh, h]
@[simp] theorem t0Write_ch_throttle (a : Nat) (bs : List Byte) : ((t0Write s c a bs).ch d).throttle = (s.ch d).throttle := by by_cases h : d = c <;> simp [t0Write, ch_setCh, modCh, h]
@[simp] theorem t0Write_ch_cfg (a : Nat) (bs : List Byte) : ((t0Write s c a bs).ch d).cfg = (s.ch d).cfg := by by_cases h : d = c <;> simp [t0Write, ch_setCh, modCh, h]
@[simp] theorem t0Write_ch_eng (a : Nat) (bs : List Byte) : ((t0Write s c a bs).ch d).eng = (s.ch d).eng := by by_cases h : d = c <;> simp [t0Write, ch_setCh, modCh, h]
@[simp] theorem t0Write_ch_health (a : Nat) (bs : List Byte) : ((t0Write s c a bs).ch d).health = (s.ch d).health := by by_cases h : d = c <;> simp [t0Write, ch_setCh, modCh, h]
@[simp] theorem t0Write_ch_srGen (a : Nat) (bs : List Byte) : ((t0Write s c a bs).ch d).srGen = (s.ch d).srGen := by by_cases h : d = c <;> simp [t0Write, ch_setCh, modCh, h]
@[simp] theorem t0Write_ch_rings (a : Nat) (bs : List Byte) : ((t0Write s c a bs).ch d).rings = (s.ch d).rings := by by_cases h : d = c <;> simp [t0Write, ch_setCh, modCh, h]
@[simp] theorem t0Write_ch_gates (a : Nat) (bs : List Byte) : ((t0Write s c a bs).ch d).gates = (s.ch d).gates := by by_cases h : d = c <;> simp [t0Write, ch_setCh, modCh, h]
@[simp] theorem t0Write_ch_gateQ (a : Nat) (bs : List Byte) : ((t0Write s c a bs).ch d).gateQ = (s.ch d).gateQ := by by_cases h : d = c <;> simp [t0Write, ch_setCh, modCh, h]
@[simp] theorem t0Write_ch_rel (a : Nat) (bs : List Byte) : ((t0Write s c a bs).ch d).rel = (s.ch d).rel := by by_cases h : d = c <;> simp [t0Write, ch_setCh, modCh, h]
@[simp] theorem t0Write_ch_t1 (a : Nat) (bs : List Byte) : ((t0Write s c a bs).ch d).t1 = (s.ch d).t1 := by by_cases h : d = c <;> simp [t0Write, ch_setCh, modCh, h]
@[simp] theorem t0Write_ch_t1Lost (a : Nat) (bs : List Byte) : ((t0Write s c a bs).ch d).t1Lost = (s.ch d).t1Lost := by by_cases h : d = c <;> simp [t0Write, ch_setCh, modCh, h]
@[simp] theorem t0Write_ch_t1Orphan (a : Nat) (bs : List Byte) : ((t0Write s c a bs).ch d).t1Orphan = (s.ch d).t1Orphan := by by_cases h : d = c <;> simp [t0Write, ch_setCh, modCh, h]
@[simp] theorem t0Write_ch_obj (a : Nat) (bs : List Byte) : ((t0Write s c a bs).ch d).obj = (s.ch d).obj := by by_cases h : d = c <;> simp [t0Write, ch_setCh, modCh, h]
@[simp] theorem t0Write_ch_sieve (a : Nat) (bs : List Byte) : ((t0Write s c a bs).ch d).sieve = (s.ch d).sieve := by by_cases h : d = c <;> simp [t0Write, ch_setCh, modCh, h]
@[simp] theorem t0Write_ch_casSeq (a : Nat) (bs : List Byte) : ((t0Write s c a bs).ch d).casSeq = (s.ch d).casSeq := by by_cases h : d = c <;> simp [t0Write, ch_setCh, modCh, h]
@[simp] theorem t0Write_ch_marl (a : Nat) (bs : List Byte) : ((t0Write s c a bs).ch d).marl = (s.ch d).marl := by by_cases h : d = c <;> simp [t0Write, ch_setCh, modCh, h]
@[simp] theorem t0Write_ch_link (a : Nat) (bs : List Byte) : ((t0Write s c a bs).ch d).link = (s.ch d).link := by by_cases h : d = c <;> simp [t0Write, ch_setCh, modCh, h]
@[simp] theorem t0Write_ch_holders (a : Nat) (bs : List Byte) : ((t0Write s c a bs).ch d).holders = (s.ch d).holders := by by_cases h : d = c <;> simp [t0Write, ch_setCh, modCh, h]
@[simp] theorem t0Write_ch_snoops (a : Nat) (bs : List Byte) : ((t0Write s c a bs).ch d).snoops = (s.ch d).snoops := by by_cases h : d = c <;> simp [t0Write, ch_setCh, modCh, h]
@[simp] theorem t0Write_ch_keyCache (a : Nat) (bs : List Byte) : ((t0Write s c a bs).ch d).keyCache = (s.ch d).keyCache := by by_cases h : d = c <;> simp [t0Write, ch_setCh, modCh, h]
@[simp] theorem t0Write_ch_mdKey1 (a : Nat) (bs : List Byte) : ((t0Write s c a bs).ch d).mdKey1 = (s.ch d).mdKey1 := by by_cases h : d = c <;> simp [t0Write, ch_setCh, modCh, h]
@[simp] theorem t0Write_ch_mdKey2 (a : Nat) (bs : List Byte) : ((t0Write s c a bs).ch d).mdKey2 = (s.ch d).mdKey2 := by by_cases h : d = c <;> simp [t0Write, ch_setCh, modCh, h]
@[simp] theorem t0Write_ch_discard (a : Nat) (bs : List Byte) : ((t0Write s c a bs).ch d).discard = (s.ch d).discard := by by_cases h : d = c <;> simp [t0Write, ch_setCh, modCh, h]
@[simp] theorem ring_t0Write (a : Nat) (bs : List Byte) : (t0Write s c a bs).ring d q = s.ring d q := by simp [State.ring]

end Sys2Proof.Machine
end

