-- ==== Sys2Proof/WellFormed.lean ====
section
/-! DEFINITION. Which commands can reach the block: the operand ranges that the specification gives each command. A field that a
Lean type already bounds (a channel, a ring, a logical device, a register value) needs no check here. A command that is not well formed
still has a meaning (`exec` is total): well-formedness is a premise that a statement may take, never one that the machine tests. -/

namespace Sys2Proof

/-- A mailbox input of 0 to 4,096 bytes (R402). -/
def inpWf (inp : List Byte) : Bool := decide (inp.length ≤ 4096)

/-- Lines of T1 that exist: 80,000,000,000 bytes in lines of 64 (R233). -/
def lineWf (line : Nat) : Bool := decide (line < 1250000000)

/-- Lost lines exist. -/
def envWf (env : Env) : Bool := env.lost.all lineWf && env.keyBad.all (fun x => decide (x < 4096))

/-- A CXL.mem address: a 64-byte line (R345) of 52 bits. -/
def dpaWf (dpa : Nat) : Bool := decide (dpa % 64 = 0) && decide (dpa < 2 ^ 52)

/-- A T0 window read: 4 to 64 bytes that do not cross a 64-byte boundary (R317). A write burst may be longer: it is split there. -/
def pieceWf (off len : Nat) : Bool := decide (4 ≤ len) && decide (off % 64 + len ≤ 64)

/-- An MSI-X vector, of 2,048 (R304, R339). -/
def vecWf (vec : Option Nat) : Bool := vec.all (fun v => decide (v < 2048))

/-- An MCTP message: an SPDM session number of 16 bits, a command's input (R341, R402). -/
def mctpWf : MctpMsg → Bool
  | .control _ _ => true
  | .spdm _ => true
  | .secured n => decide (n < 0x10000)
  | .fmApi _ inp _ _ => inpWf inp
  | .cci _ inp _ _ => inpWf inp
  | .other t => !([0x00, 0x05, 0x06, 0x07, 0x08] : List Byte).contains t

/-- A self-test record: 32 T0 banks, the 2,064 stack lanes (R471), 135,168 physical Sieve rows (R179). -/
def groupWf (g : GroupRec) : Bool :=
  decide (g.t0Banks ≤ 32) && g.stackLanes.all (fun x => decide (x < 2064)) && g.sieveRows.all (fun x => decide (x < 135168))

/-- What Marl's training can find (R263, R264): 8 buses of 16 targets, one die at each at most, with its bad blocks. -/
def dieReportWf (d : DieReport) : Bool :=
  d.dies.all (fun x => decide (x.bus < 8) && decide (x.target < 16) && decide (0 < x.planes) && x.bad.all (fun b => decide (b < x.blocks)))
    && decide ((d.dies.map (fun x => (x.bus, x.target))).Nodup)

/-- What a start of a channel can show (R467). -/
def startWf (x : StartReport) : Bool := x.lanes.all (fun l => decide (l < 2064)) && dieReportWf x.dies

/-- A die group, of 8 (R265). -/
def dieGroupWf (g : Nat) : Bool := decide (g < 8)

/-- A stripe block's 14 bits (R264, R270). -/
def sbWf (sb : Nat) : Bool := decide (sb < 16384)

/-- A RoCEv2 packet: a DMA length of 32 bits. -/
def roceWf (p : RocePkt) : Bool := decide (p.len < 2 ^ 32)

/-- Whether a command is well formed. -/
def wellFormed : Instr → Bool
  | .nop _ _ => true
  | .attend _ _ env => envWf env
  | .attendGrist _ _ env => envWf env
  | .attendRagged _ _ env => envWf env
  | .append _ _ env => envWf env
  | .prefetch _ _ env => envWf env
  | .place _ _ => true
  | .promote _ _ => true
  | .demote _ _ => true
  | .drop _ _ => true
  | .persist _ _ env => envWf env
  | .merge _ _ env => envWf env
  | .slipFill _ _ env => envWf env
  | .slipCopy _ _ env => envWf env
  | .slipCompare _ _ env => envWf env
  | .slipReduce _ _ env => envWf env
  | .slipPublish _ _ => true
  | .slipAtomic _ _ env => envWf env
  | .sieveHash _ _ => true
  | .sieveProbe _ _ => true
  | .sieveInsert _ _ => true
  | .sieveRemove _ _ => true
  | .sieveSetFlags _ _ => true
  | .sieveRead _ _ => true
  | .seqOpen _ _ => true
  | .seqClose _ _ => true
  | .attach _ _ => true
  | .sweep _ _ => true
  | .blockCreate _ _ => true
  | .prune _ _ => true
  | .setProtect _ _ => true
  | .tilthScan _ _ => true
  | .gateWaitRelease _ _ => true
  | .presenceGateRelease _ _ env => envWf env
  | .useCountAdmit _ _ => true
  | .seqCloseRelease _ => true
  | .gateAddArrival _ => true
  | .releaseRecordWrite _ => true
  | .frameGuardClear _ _ => true
  | .pageMoveEnd _ _ k env => decide (k < 4096) && envWf env
  | .ringDrainEnd _ _ => true
  | .ringTailWrite _ _ _ _ => true
  | .ringEnableWrite _ _ _ _ => true
  | .ringStopWrite _ _ _ _ => true
  | .ringDisableWrite _ _ _ _ => true
  | .gateSetWrite _ _ g _ => decide (g < 4096)
  | .gateAddWrite _ _ g _ => decide (g < 4096)
  | .clearLow _ _ _ => true
  | .srSeedWrite _ _ _ => true
  | .releaseLogEnableWrite _ _ _ => true
  | .linkEnableWrite _ _ _ => true
  | .sqTailWrite _ _ conn _ => decide (conn < 4096)
  | .registerWrite _ off (.word _) => decide (off % 4 = 0) && decide (off < 0x1001000)
  | .registerWrite _ off (.pair _ _) => decide (off % 8 = 0) && decide (off < 0x1001000)
  | .badRegisterAccess _ off size _ => decide (off < 0x400000) && decide (1 ≤ size) && decide (size ≤ 64) && decide ((size ≠ 4 ∧ size ≠ 8) ∨ off % size ≠ 0)
  | .paceWindowEnd _ _ => true
  | .refclkLoss _ => true
  | .refclkReturn _ => true
  | .cxlMemRead _ dpa _ env => dpaWf dpa && envWf env
  | .cxlMemWrite _ dpa data _ => dpaWf dpa && decide (data.length = 64)
  | .t0WindowRead _ off len => pieceWf off len
  | .t0WindowWrite _ _ data => decide (4 ≤ data.length)
  | .birsp _ _ line => lineWf line
  | .biconflict _ _ line => lineWf line
  | .biSnoopTimeout _ _ line => lineWf line
  | .hostLinkDown _ => true
  | .hostLinkUp rate _ => [4, 8, 12, 16, 32, 64].contains rate.gtps && [4, 8, 16, 64].contains rate.width
  | .flr _ => true
  | .cxlReset _ => true
  | .ldBind _ => true
  | .ldUnbind _ => true
  | .hdmDecoderCommit _ _ d => decide (0 < d.ways)
  | .msixUnmask _ vec => vecWf vec
  | .mctpMessage _ msg => mctpWf msg
  | .getMeasurements _ _ => true
  | .keyExchange _ _ => true
  | .spdmRequest _ _ => true
  | .ideKm session _ => decide (session < 0x10000)
  | .ideIntegrityFail _ => true
  | .i3cAddressAssign _ => true
  | .identifyMemoryDevice _ => true
  | .getSupportedLogs _ => true
  | .getLog _ _ _ _ => true
  | .getPoisonList _ _ _ => true
  | .clearPoison _ dpa data => dpaWf dpa && decide (data.length = 64)
  | .getEventRecords _ _ => true
  | .clearEventRecords _ _ _ => true
  | .getDcConfiguration _ => true
  | .getDcExtentList _ _ _ => true
  | .addDcResponse _ _ => true
  | .releaseDynamicCapacity _ _ => true
  | .backgroundOperationStatus _ => true
  | .requestAbortBackground _ => true
  | .getLdInfo _ => true
  | .getDcdInfo _ => true
  | .initiateDcAdd _ _ _ _ _ _ => true
  | .initiateDcRelease _ _ _ _ _ => true
  | .setLdAllocations _ => true
  | .getIdentity _ inp => inpWf inp
  | .getHealth _ inp _ => inpWf inp
  | .setTime _ inp => inpWf inp
  | .selfTestQuery _ inp => inpWf inp
  | .shutdown _ inp => inpWf inp
  | .stageWrite _ inp => inpWf inp
  | .stageRead _ inp => inpWf inp
  | .stageClear _ inp => inpWf inp
  | .commitCheck _ inp => inpWf inp
  | .commitApply _ inp => inpWf inp
  | .commitFenceStands => true
  | .commitQuery _ inp => inpWf inp
  | .capRead _ inp => inpWf inp
  | .eventRead _ inp => inpWf inp
  | .channelIsolate _ inp => inpWf inp
  | .channelReset _ inp start => inpWf inp && startWf start
  | .mediaFormat _ inp => inpWf inp
  | .mediaFlush _ inp => inpWf inp
  | .mediaDiscard _ inp => inpWf inp
  | .mediaSecureDiscard _ inp => inpWf inp
  | .regionCreate _ inp => inpWf inp
  | .regionSetHome _ inp => inpWf inp
  | .regionRegister _ inp => inpWf inp
  | .regionRevoke _ inp => inpWf inp
  | .regionRelease _ inp => inpWf inp
  | .regionPublish _ inp => inpWf inp
  | .regionQuery _ inp => inpWf inp
  | .revocationDrainEnd idx => decide (idx < 0x10000)
  | .regionAdmissionResume _ _ => true
  | .linkConnSet _ inp => inpWf inp
  | .linkConnReset _ inp => inpWf inp
  | .linkConnClose _ inp => inpWf inp
  | .linkConnQuery _ inp => inpWf inp
  | .linkWindowSet _ inp => inpWf inp
  | .linkKeySet _ inp => inpWf inp
  | .keyLoad _ inp => inpWf inp
  | .keyDestroy _ inp _ => inpWf inp
  | .keyQuery _ inp => inpWf inp
  | .ownerPurge _ slot => decide (slot < 4096)
  | .keyPurgeTimeout _ slot => decide (slot < 4096)
  | .keyStorageCheck failed => failed.all (fun x => decide (x < 4096))
  | .firmwareUpdate _ inp => inpWf inp
  | .firmwareActivate _ inp => inpWf inp
  | .firmwareRecover _ inp => inpWf inp
  | .firmwareWatchdogExpiry => true
  | .boot => true
  | .engineMapCommit _ => true
  | .sieveInsertResume _ => true
  | .shiftRowCopy _ => true
  | .shiftLanding _ => true
  | .scrubVisit _ _ _ => true
  | .sieveRowSpareIn _ idx => decide (idx < 131072)
  | .sieveBlockRemoval _ => true
  | .sieveCountRequest _ _ => true
  | .sieveReport _ => true
  | .heldReferenceChange _ => true
  | .poisonScan _ => true
  | .cascadeFrame _ _ => true
  | .cascadeTimeout _ => true
  | .lateCascadeFrame _ _ => true
  | .cand _ _ => true
  | .placeFrame _ _ => true
  | .dropFrame _ _ => true
  | .mark _ _ => true
  | .writeBackTake _ _ env => envWf env
  | .stripeProgrammed _ _ group => dieGroupWf group
  | .stripePad _ _ group => dieGroupWf group
  | .programFailure _ _ group member => dieGroupWf group && decide (member < 16)
  | .eraseFailure _ group sb members => dieGroupWf group && sbWf sb && members.all (fun x => decide (x < 16))
  | .nandReadComplete _ unit _ => decide (unit < 2 ^ 32)
  | .dieTimeout _ die => decide (die < 128)
  | .dieParameterChange _ die => decide (die < 128)
  | .collection _ => true
  | .stripeBlockErase _ group sb => dieGroupWf group && sbWf sb
  | .journalPageProgrammed _ => true
  | .checkpoint _ => true
  | .anchorWrite _ => true
  | .temperatureSample _ _ => true
  | .channelStart _ start => startWf start
  | .selfTestWindowCheck vcoreMv _ => decide (vcoreMv < 0x10000)
  | .selfTestGroupStart _ => true
  | .selfTestGroupEnd _ rec => groupWf rec
  | .stackLaneFailure _ lane => decide (lane < 2064)
  | .supplyWarn _ mv => decide (mv < 0x10000)
  | .warnAckTimeout _ => true
  | .supplyOk _ mv => decide (mv < 0x10000)
  | .flushComplete _ => true
  | .supplyReset dip => (dip.rail == .vcore || dip.rail == .vsram) && decide (dip.mv < 0x10000)
  | .supplyRestored => true
  | .coldStart => true
  | .regulatorAlert _ _ mv => decide (mv < 0x10000)
  | .thermalSample _ _ _ _ => true
  | .thermalTrip _ _ => true
  | .thermalTripBound => true
  | .governorWindow x mv => [x.core, x.sram, x.nand, x.stk, x.phy].all (fun v => decide (v ≤ 500)) && decide (mv < 0x10000 ∧ x.sramMv < 0x10000 ∧ x.nandMv < 0x10000)
  | .healthPollTimeout _ => true
  | .linkTrainingDone _ _ _ => true
  | .linkLaneFailure _ _ => true
  | .linkRetrainDone _ => true
  | .linkLossOfSignal _ => true
  | .uncorrectableFlit _ => true
  | .packetReceive _ _ payload _ => (decide (payload.length % 64 = 0) || payload.length == 16 || payload.length == 32) && decide (payload.length ≤ 4096)
  | .write _ env => envWf env
  | .readReq _ env => envWf env
  | .add8 _ env => envWf env
  | .add16 _ env => envWf env
  | .cas8 _ env => envWf env
  | .cas16 _ env => envWf env
  | .duplicateLast _ env => envWf env
  | .ack _ => true
  | .readResp _ => true
  | .atomicResp _ => true
  | .nakSeq _ => true
  | .controlFlit _ _ => true
  | .sendQueueIssue _ conn => decide (conn < 4096)
  | .t3MoveResume _ _ => true
  | .operationTimerExpiry _ conn _ => decide (conn < 4096)
  | .retransmitWaitEnd _ conn _ => decide (conn < 4096)
  | .hostMemoryRequestDone _ _ _ _ _ => true
  | .rdmaWrite _ pkt _ => roceWf pkt
  | .rdmaReadRequest _ pkt _ => roceWf pkt
  | .cmpswap _ pkt _ => roceWf pkt
  | .fetchadd _ pkt _ => roceWf pkt
  | .roceUnsupportedRequest _ pkt => roceWf pkt
  | .pauseFrame _ prio quanta => decide (prio < 8) && decide (quanta < 0x10000)
  | .eraseComplete _ group sb => dieGroupWf group && sbWf sb
  | .linkRetrainTimeout _ => true
  | .vaonReset => true
  | .fatalFault _ => true
  | .globalPersistentFlush phase => phase == 1 || phase == 2
  | .creditAdvertised _ _ => true
  | .islandPaceWindowEnd _ => true

end Sys2Proof
end

