-- ==== Sys2Proof/Safety.lean ====
section
/-! DEFINITION. What a good state is, in the terms that the statements use, and what it means that a command completes. -/

namespace Sys2Proof.Machine
open Sys2Proof

/-- The canonical form of a channel's T0 and T1: addresses strictly rising, and no entry that equals what an unlisted address reads as. -/
def chMemOk (ch : Channel) : Bool := smWf 0 ch.t0 && smWf 0 ch.t1

/-- Every channel's memories have the canonical form. -/
def MemOk (s : State) : Prop := ∀ c : Ch, chMemOk (s.ch c) = true

/-- PROD_IDX and CONS_IDX of every event queue name one of its 512 entries (R423). -/
def EvqOk (i : Island) : Prop := ∀ n : Fin 17, i.evq[n].prod < 512 ∧ i.evq[n].cons < 512

/-- A command completes in a state when it answers a next state. -/
def Completes (i : Instr) (s : State) : Prop := ∃ t, exec i s = .next t

/-! ## When a command reaches its unit -/

/-- CXL.io writes of a logical device reach a channel's registers: the link is up, its IDE stream is not Insecure (R459), the channel is
assigned to the device (R313) and is Ready or Degraded (R21). -/
def hostReaches (s : State) (l : Ld) (c : Ch) : Bool := ioUp s l && ldOfCh s c == some l && isUp s c

/-- The descriptor at a ring's HEAD has this opcode and nothing holds it back: the ring takes it, no wait is under way, its header passes
(R143), its header gate is met (R145), a unit serves the ring (R470), and no fence holds it (R415). -/
def runsNow (s : State) (c : Ch) (r : Ring) (op : Nat) : Bool :=
  let h := hdrOf (headDesc s c r)
  ringTakes s c r && (s.ring c r).wait == .idle && h.opcode == op && opcodeOn op r.val && (headerBad h r.val).isNone && !unserved s c r &&
  (h.waitGate == 0xFFF || gateMet (gateCount s c h.waitGate) (BitVec.ofNat 32 h.waitCount)) && !fenceHolds s c r op

/-- A command arriving at a mailbox runs at once and is not refused by Recovery (R399, R404, R405, R406): the mailbox exists, its transport works (R343,
R344), its queue has room, Kiln holds nothing and is not in Recovery. -/
def mbServes (s : State) (mb : Mbox) (op : Nat) : Bool :=
  mbExists s mb && mbUp s mb && !mbFull s mb && !kilnHolds s op && s.island.kiln != .recovery

/-- As `mbServes`, for a command that Recovery serves too (R410). -/
def mbServesRec (s : State) (mb : Mbox) (op : Nat) : Bool := mbExists s mb && mbUp s mb && !mbFull s mb &&
  !kilnHolds s op

/-- Ring `r` of channel `c` has no stop under way and the release log does not hold up a retire (R173, R237). -/
def retiresFreely (s : State) (c : Ch) (r : Ring) : Bool := !(s.ring c r).draining && !logFullFor s c r && !journalOver s c

/-- The ring's HEAD descriptor has not been admitted before a wait and counts nowhere yet (R53, R359). -/
def freshHead (s : State) (c : Ch) (r : Ring) : Bool := !wasAdmitted s c r

/-! ## When a descriptor that acts on one entry after the other meets nothing in its way -/

/-- What a `Prune` of these entries comes to when no full release log (R237), no waiting append or outstanding T3 request (R252) and no sweep (R228) makes it
wait: its state, its status and its counts of entries pruned and skipped; none where it waits. -/
def pruneEnds (c : Ch) (r : Ring) (slot : Nat) (force : Bool) : List Nat → Nat → Nat → State → Option (State × St × Nat × Nat)
  | [], n, m, s => some (s, .ok, n, m)
  | k :: ks, n, m, s =>
    if logFullFor s c r || appendHolds s c k || movingT3 s c k then none
    else match pruneOne s c r slot force k with
      | .left => pruneEnds c r slot force ks n m s
      | .skip => pruneEnds c r slot force ks n (m + 1) s
      | .done t => pruneEnds c r slot force ks (n + 1) m t
      | .hold => none
      | .full => some (s, .summaryFull, n, m)

/-- No full release log (R237) and no sweep (R228) makes a `SeqClose` that releases these entries wait. -/
def closeFree (c : Ch) (r : Ring) (slot : Nat) : List Nat → State → Bool
  | [], s => !logFullFor (releaseRest s c slot) c r
  | k :: ks, s => !logFullFor s c r && !((entryBlock s c k).map (changeWaits s c (some r))).getD false && closeFree c r slot ks (releaseEntry s c slot k)

/-! ## When a Slip operation meets nothing in its way -/

/-- A state in which a Slip operation's admissions to its regions are counted (R359). -/
def slipCounted (s : State) (c : Ch) (r : Ring) (us : List SlipUse) : State :=
  (rightsOf us).foldl (fun t x => match admitRegion s c x.1 x.2 with
    | .ok p => ringCount t c r x.1 p
    | _ => t) s

/-- The state after the writes of a Slip operation in T1, line after line. -/
def slipMade : List (List Byte) → State → Ch → Nat → Nat → State
  | [], s, _, _, _ => s
  | l :: ls, s, d, o, a => slipMade ls (memWrite s d true o a l) d o (a + l.length)

/-- No guard (R238) and no full write-back queue (R246) makes one of these writes wait. -/
def slipPasses : List (List Byte) → State → Ch → Nat → Nat → Bool
  | [], _, _, _, _ => true
  | l :: ls, s, d, o, a => !slipHeld s d a l.length && slipPasses ls (memWrite s d true o a l) d o (a + l.length)

/-- The state in which a Slip operation reads: its admissions are counted, and the channels of its operands in T1 have taken their owners' keys. -/
def slipAt (s : State) (c : Ch) (r : Ring) (us : List SlipUse) : State := slipKeys (slipCounted s c r us) us

/-- The state after all the writes of a Slip operation to `u`: T0 in one write, T1 line after line. -/
def slipLands (p : SlipPlan) (u : SlipUse) : State :=
  if u.op.space = 0 then t0Write p.st (opCh u.op) u.op.addr p.lines.flatten
  else slipMade p.lines p.st (opCh u.op) (opOwner p.st u.op) u.op.addr

/-- None of these writes waits. -/
def slipFree (p : SlipPlan) (u : SlipUse) : Bool :=
  u.op.space == 0 || slipPasses p.lines p.st (opCh u.op) (opOwner p.st u.op) u.op.addr

/-- A Slip operation, not admitted before, passes checks 2 to 6 of R364, no holder or earlier request of a line (R329) makes it wait, and the keys of its operands are there when it runs (R449); nor, where it is
an atomic (`whole`), a guard (R238) or full write-back queue (R246). -/
def slipClear (s : State) (c : Ch) (r : Ring) (us : List SlipUse) (dst : Option SlipUse) (whole : Bool) (t0s : List (Nat × Nat)) : Bool :=
  let u := slipCounted s c r us
  freshHead s c r && (regionsBad s us).isNone &&
  (rightsOf us).all (fun x => match admitRegion s c x.1 x.2 with
    | .ok _ => true
    | _ => false) &&
  (slipBad u c us t0s).isNone &&
  linesReady u (.ring c r) (slipLines us) && !devOn u (.ring c r) &&
  slipKeyed (slipAt s c r us) us &&
  !(whole && dst.any (fun x => slipHeld (slipAt s c r us) (opCh x.op) x.op.addr x.len))

end Sys2Proof.Machine
end

