-- ==== Sys2Proof/Laws/Serves.lean ====
section
/-! SUPPORT. What the predicates of Safety give: the shared operations that check a command go straight to its effect. -/

namespace Sys2Proof.Machine
open Sys2Proof

/-- A host write to a channel that it reaches has its effect. -/
theorem chanWrite_reaches {s : State} {l : Ld} {c : Ch} (h : hostReaches s l c = true) (off : Nat) (k : State → State) :
    chanWrite s l c off k = k s := by
  simp only [hostReaches, Bool.and_eq_true, beq_iff_eq] at h
  simp [chanWrite, h.1.1, h.1.2, h.2]

/-- A descriptor that nothing holds back runs its unit's body on its words. -/
theorem runHead_runs {s : State} {c : Ch} {r : Ring} {op : Nat} (h : runsNow s c r op = true) (body : Nat → State → State) :
    runHead s c r op body = body (headDesc s c r) s := by
  simp only [runsNow, Bool.and_eq_true, beq_iff_eq, Bool.not_eq_true', Bool.or_eq_true, Option.isNone_iff_eq_none] at h
  obtain ⟨⟨⟨⟨⟨⟨⟨h1, h2⟩, h3⟩, h4⟩, h5⟩, h6⟩, h7⟩, h8⟩ := h
  have h7' : ¬((hdrOf (headDesc s c r)).waitGate ≠ 0xFFF ∧
      (!gateMet (gateCount s c (hdrOf (headDesc s c r)).waitGate) (BitVec.ofNat 32 (hdrOf (headDesc s c r)).waitCount)) = true) := by
    rcases h7 with h7 | h7 <;> simp [h7]
  simp only [runHead, h1, h2, h3, h4, h5, h6, h8, h7', Bool.not_true, Bool.false_eq_true, if_false, if_true]

/-- A command that comes as a message runs where Kiln serves it, and Kiln notes where its answer goes. -/
theorem mbEnter_message {s : State} {mb : Mbox} {op : Nat} (h : mbServesRec s mb op = true) (i : Instr) (run : State → State) :
    mbEnter s mb op i run = run (setVia s mb i) := by
  simp only [mbServesRec, Bool.and_eq_true, Bool.not_eq_true'] at h
  simp [mbEnter, h.1.1.1, h.1.1.2, h.1.2, h.2]

/-- A command written into a mailbox runs where Kiln serves it. -/
theorem mbEnter_serves {s : State} {mb : Mbox} {op : Nat} (h : mbServesRec s mb op = true) (i : Instr) (run : State → State)
    (hv : viaOf i = none) : mbEnter s mb op i run = run s := by
  rw [mbEnter_message h, setVia, hv]

/-- A command that Kiln serves is one that it serves in Recovery too. -/
theorem mbServes_rec {s : State} {mb : Mbox} {op : Nat} (h : mbServes s mb op = true) :
    mbServesRec s mb op = true ∧ s.island.kiln ≠ .recovery := by
  simp only [mbServes, Bool.and_eq_true, bne_iff_ne] at h
  exact ⟨by simp [mbServesRec, h.1], h.2⟩

/-- The framing of a command that Kiln serves with a good length and no background command in its way. -/
theorem mbRun_serves {s : State} {mb : Mbox} {op : Nat} (h : mbServes s mb op = true) {rec_ bg lenOk : Bool} (hl : lenOk = true)
    (hb : bg = true → (s.mb mb).bg = none) (k : State → State) : mbRun s mb op rec_ bg lenOk k = k s := by
  have h1 := (mbServes_rec h).2
  cases bg <;> simp_all [mbRun]

/-- The framing of a command that is served in Recovery. -/
theorem mbRun_rec {s : State} {mb : Mbox} {op : Nat} {bg lenOk : Bool} (hl : lenOk = true)
    (hb : bg = true → (s.mb mb).bg = none) (k : State → State) : mbRun s mb op true bg lenOk k = k s := by
  cases bg <;> simp_all [mbRun]

/-- A command on a channel that its mailbox may name. -/
theorem mbOnCh_names {s : State} {mb : Mbox} {c : Ch} (h : mbNamesCh s mb c = true) (op : Nat) (k : Ch → State) :
    mbOnCh s mb op c.val k = k c := by
  have : chOf c.val = some c := by simp [chOf, c.isLt]
  simp [mbOnCh, this, h]

end Sys2Proof.Machine
end

