-- ==== Sys2Proof/Certificates/Slice0/Obligations.lean ====
section
/-! DEFINITION. The statements of the package: what a step is, what each command does where it completes, where commands are turned away, and what
every step keeps. -/

open Sys2Proof Sys2Proof.Machine

/-- A step runs the command at the front of the queue, and an empty queue lets the block's own work go on. For every command c, queue rest and state s:
when s's queue is c followed by rest, step s is exec c on s with the queue rest. On an empty queue the media commands under way, a Shutdown and the
commands that wait at Kiln go on (the model's choice, log 21). (opcode_table.json, INVENTORY.md Agents) -/
def Obligations.StepRunsFrontOfQueue : Prop :=
  (∀ (c : Instr) (rest : List Instr) (s : State), s.pending = c :: rest → Sys2Proof.Machine.step s = exec c { s with pending := rest }) ∧
  (∀ s : State, s.pending = [] → Sys2Proof.Machine.step s = .next (tick s))

/-- No command ends in a fault or a refusal. For every command and every state, exec answers a next state. That a row whose event cannot arise in a
state answers a next state too (the state as it was) is the model's choice (log 40, DESIGN CHOICE). What the next state holds is stated command by
command below. (opcode_table.json) -/
def Obligations.EveryCommandCompletes : Prop :=
  ∀ (i : Instr) (s : State), Completes i s

/-- A command changes neither the queue nor the unit's build, sends after what was sent, and never takes a free value back. When exec i s answers next
t, then t has the queue and the build of s, its outputs begin with those of s, and its count of free values is not lower (log 1, log 2).
(opcode_table.json, INVENTORY.md Agents) -/
def Obligations.CommandsLeaveTheQueue : Prop :=
  ∀ (i : Instr) (s t : State), exec i s = .next t →
    t.pending = s.pending ∧ t.build = s.build ∧ s.out <+: t.out ∧ s.freeCount ≤ t.freeCount

/-- Every step keeps every T0 and T1 in canonical form. For every state in which each channel's T0 and T1 list their bytes at strictly rising addresses
with no entry equal to what an unlisted address reads as, a step's next state is such a state. So equal memories are equal data after any run from
such a state. (R234, R64, INVENTORY.md Memory and ordering) -/
def Obligations.StepsKeepMemoryCanonical : Prop :=
  ∀ s t : State, MemOk s → Sys2Proof.Machine.step s = .next t → MemOk t

/-- Every step keeps each event queue's PROD_IDX and CONS_IDX within its 512 entries. For every state in which PROD_IDX and CONS_IDX of all 17 event
queues are below 512, a step's next state is such a state, whatever command runs. (R423, INVENTORY.md State) -/
def Obligations.StepsKeepEventQueueIndices : Prop :=
  ∀ s t : State, EvqOk s.island → Sys2Proof.Machine.step s = .next t → EvqOk t.island

/-- No step lowers MIN_SVN, and no step changes what the unit is built with. For every state, a step's next state has a MIN_SVN fuse value that is not
lower, and the same form, stepping, grade, serial number, board record, straps, ROOT_HASH and DEBUG_LOCK. (R433, R432, R14) -/
def Obligations.MinSvnNeverFalls : Prop :=
  ∀ s t : State, Sys2Proof.Machine.step s = .next t → s.island.fw.minSvn.toNat ≤ t.island.fw.minSvn.toNat ∧ t.build = s.build

/-- The state after reset meets the invariants of memory and of the event queues. At State.reset every channel's memories are in canonical form and
every event queue's indices are within range. (R423, R234, INVENTORY.md State) -/
def Obligations.ResetMeetsTheInvariants : Prop :=
  MemOk State.reset ∧ EvqOk State.reset.island

/-- What reset leaves in the registers whose reset values the field maps give. After reset Kiln is Booting with COMMIT_GEN 0; every channel is Off with
PACE_STATUS 0 and PACE_LOW 0xF_FFFF; each ring has BASE, CPL_BASE, TAIL, HEAD and RETIRED 0, SIZE_LOG2 6, ENABLE, STOP and CFG_ERR 0; each gate
counts 0; every sequence slot is Free with GEN 0; the release log has ENABLE 0 and SIZE_LOG2 0xC; no vector's event queue holds a record. T0 reads 0
(log 4 for memory). (R139, R20, R399, R415, R423, R144, R63, R237, R39, R50) -/
def Obligations.ResetRegisterValues : Prop :=
  State.reset.island.kiln = .booting ∧ State.reset.island.commitGen = 0 ∧
  (∀ c : Ch, (State.reset.ch c).state = .off ∧ (State.reset.ch c).pace.valid = false ∧ (State.reset.ch c).pace.count = 0 ∧
    (State.reset.ch c).pace.seq = 0 ∧ (State.reset.ch c).pace.low = 0xFFFFF) ∧
  (∀ (c : Ch) (r : Sys2Proof.Ring), let g := State.reset.ring c r
    g.base = 0 ∧ g.cplBase = 0 ∧ g.tail = 0 ∧ g.head = 0 ∧ g.retired = 0 ∧ g.sizeLog2 = 6 ∧ g.enable = false ∧ g.stop = false ∧ g.cfgErr = false) ∧
  (∀ (c : Ch) (g : Nat), gateCount State.reset c g = 0) ∧
  (∀ (c : Ch) (n : Nat), (seqAt State.reset c n).state = .free ∧ (seqAt State.reset c n).gen = 0) ∧
  (∀ c : Ch, (State.reset.ch c).rel.enable = false ∧ (State.reset.ch c).rel.sizeLog2 = 12) ∧
  (∀ n : Fin 17, State.reset.island.evq[n].prod = 0 ∧ State.reset.island.evq[n].cons = 0) ∧
  (∀ (c : Ch) (a : Nat), smGet 0 (State.reset.ch c).t0 a = 0)

/-- Host writes of a ring's registers: TAIL, ENABLE, STOP and DISABLE where they take effect. For a host write that reaches the channel (CXL.io up, the
channel assigned to the logical device and up): RING_TAIL takes TAIL modulo 2^SIZE_LOG2 where no stop is under way; ENABLE 1 on a disabled ring that
is not stopping, with SIZE_LOG2 6 to 12 and areas that R139 allows, starts it with HEAD, TAIL and RETIRED 0 and phase 1, and with areas or a size
that R139 does not allow sets CFG_ERR alone; STOP 1 with ENABLE 1 on an enabled ring whose HEAD descriptor executes marks the ring as stopping and
lets that descriptor run; ENABLE 0 on such a ring does the same and clears ENABLE. Each changes nothing else: the equations give the whole next
state. IRQ_VEC, and SIZE_LOG2 of a ring neither enabled nor stopping, take the written fields. (R139, R140, R173, R174, R21, R313, R314) -/
def Obligations.HostRingWritesTakeEffect : Prop :=
  (∀ (l : Ld) (c : Ch) (r : Sys2Proof.Ring) (v : Word32) (s : State), hostReaches s l c = true →
    ¬((s.ring c r).draining = true ∧ (s.ring c r).wait = .idle) →
    exec (.ringTailWrite l c r v) s = .next (modRing s c r (fun g =>
      { g with tail := BitVec.ofNat 12 (v.toNat % 2 ^ 12 % 2 ^ g.sizeLog2.toNat) }))) ∧
  (∀ (l : Ld) (c : Ch) (r : Sys2Proof.Ring) (v : Word32) (s : State), hostReaches s l c = true → fenced s c = false →
    (s.ring c r).draining = false → (s.ring c r).enable = false → (s.ring c r).stop = false → v.getLsbD 30 = false →
    let g1 : RingState := { s.ring c r with irqVec := BitVec.ofNat 11 v.toNat, sizeLog2 := BitVec.ofNat 4 (v.toNat / 2 ^ 16) }
    let good := decide (6 ≤ g1.sizeLog2.toNat ∧ g1.sizeLog2.toNat ≤ 12) && areasOk (ringAreas g1) (otherAreas s c (some r))
    exec (.ringEnableWrite l c r v) s = .next (modRing s c r (fun _ =>
      if good then { g1 with enable := true, cfgErr := false, head := 0, tail := 0, retired := 0, phase := true, wait := .idle }
      else { g1 with cfgErr := true }))) ∧
  (∀ (l : Ld) (c : Ch) (r : Sys2Proof.Ring) (v : Word32) (s : State) (x : MoveCtx), hostReaches s l c = true →
    (s.ring c r).draining = false → (s.ring c r).enable = true → (s.ring c r).wait = .moves x →
    (v.getLsbD 31 = true → exec (.ringStopWrite l c r v) s = .next (modRing s c r (fun g =>
      { g with irqVec := BitVec.ofNat 11 v.toNat, stop := true, draining := true }))) ∧
    exec (.ringDisableWrite l c r v) s = .next (modRing s c r (fun g =>
      { g with irqVec := BitVec.ofNat 11 v.toNat, stop := true, draining := true, enable := false })))

/-- What a host write to a channel block does when it does not reach the channel. For each of the eleven host-write commands to a channel block (ring
TAIL, ENABLE, STOP and DISABLE, gate set and add, CLEAR_LOW, SR_SEED, the release log's ENABLE, LINK_CFG, SQ_TAIL): with CXL.io not reaching the
device nothing changes; with the channel not assigned to the logical device only UNASSIGNED_CH of its ACCESS_ERR is set; with the channel assigned
but not Ready or Degraded the write is dropped and EV_CHANNEL_DOWN_ACCESS (0x0201) is raised with the logical device and the offset of the register.
(R21, R313, R338, R459) -/
def Obligations.HostWritesTurnedAway : Prop :=
  ∀ (l : Ld) (c : Ch) (r : Sys2Proof.Ring) (g : Nat) (v : Word32) (s : State),
    let down (off : Nat) : State := raiseC s c 0x0201 sevWarn (natLe l.val 1 ++ natLe off 8)
    ∀ x ∈ ([(.ringTailWrite l c r v, 0x1000 + 4 * r.val), (.ringEnableWrite l c r v, 0x608 + 0x20 * r.val),
            (.ringStopWrite l c r v, 0x608 + 0x20 * r.val), (.ringDisableWrite l c r v, 0x608 + 0x20 * r.val),
            (.gateSetWrite l c g v, 0x10000 + 4 * g), (.gateAddWrite l c g v, 0x14000 + 4 * g), (.clearLow l c v, 0x404),
            (.srSeedWrite l c v, 0x510), (.releaseLogEnableWrite l c v, 0x544), (.linkEnableWrite l c v, 0xA00),
            (.sqTailWrite l c g v, 0x2000 + 4 * g)] : List (Instr × Nat)),
      (ioUp s l = false → exec x.1 s = .next s) ∧
      (ioUp s l = true → ldOfCh s c ≠ some l →
        exec x.1 s = .next (modLd s l (fun d => { d with access := d.access ||| 4 }))) ∧
      (ioUp s l = true → ldOfCh s c = some l → isUp s c = false →
        exec x.1 s = .next (down (0x100000 + c.val * 0x20000 + x.2)))

/-- Gate windows, CLEAR_LOW, SR_SEED and the release log's ENABLE where they take effect. For a host write that reaches the channel: the set window sets
the gate's count and the add window sets it to (count + value) modulo 2^32, and every waiter on the gate re-evaluates; CLEAR_LOW sets PACE_LOW to
0xF_FFFF and takes WINDOW; SR_SEED loads the low 31 bits, or 1 for 0; ENABLE of the release log with a size of 6 to 16 starts recording with HEAD
and TAIL 0. Nothing else changes. (R146, R148, R39, R104, R237, R21, R313) -/
def Obligations.GateAndSeedWritesTakeEffect : Prop :=
  (∀ (l : Ld) (c : Ch) (g : Nat) (v : Word32) (s : State), hostReaches s l c = true → g < 4095 →
    exec (.gateSetWrite l c g v) s = .next (gateSet s c g v) ∧
    exec (.gateAddWrite l c g v) s = .next (gateSet s c g (gateCount s c g + v))) ∧
  (∀ (l : Ld) (c : Ch) (v : Word32) (s : State), hostReaches s l c = true →
    exec (.clearLow l c v) s = .next (modPace s c (fun p => { p with window := v.getLsbD 0, low := 0xFFFFF })) ∧
    exec (.srSeedWrite l c v) s = .next (modCh s c (fun ch =>
      { ch with srGen := if v.setWidth 31 = 0#31 then 1 else v.setWidth 31 }))) ∧
  (∀ (l : Ld) (c : Ch) (v : Word32) (s : State), hostReaches s l c = true → fenced s c = false → (s.ch c).rel.enable = false →
    6 ≤ v.toNat / 2 ^ 16 % 2 ^ 5 → v.toNat / 2 ^ 16 % 2 ^ 5 ≤ 16 →
    exec (.releaseLogEnableWrite l c v) s = .next (modCh s c (fun ch =>
      { ch with rel := { ch.rel with enable := true, sizeLog2 := BitVec.ofNat 5 (v.toNat / 2 ^ 16), head := 0, tail := 0 } })))

/-- A change of a gate satisfies every header wait that its new count satisfies, and undoes none. After a change of gate g of channel c: each ring of c
whose descriptor waits on g for a count that the new count satisfies stands satisfied; a wait that was satisfied stays so; a wait on another gate,
or one that the new count does not satisfy, stays as it was. All rings are re-evaluated by the one change. No ring of another channel changes.
(R145, R148) -/
def Obligations.GateChangeReleasesWaiters : Prop :=
  ∀ (s : State) (c : Ch) (g : Nat) (v : Word32) (r : Sys2Proof.Ring),
    let t := gateSet s c g v
    let h := hdrOf (headDesc s c r)
    ((s.ring c r).wait = .gate false → h.waitGate = g → gateMet (gateCount t c g) (BitVec.ofNat 32 h.waitCount) = true →
      (t.ring c r).wait = .gate true) ∧
    ((s.ring c r).wait = .gate true → (t.ring c r).wait = .gate true) ∧
    ((s.ring c r).wait = .gate false →
      (h.waitGate ≠ g ∨ gateMet (gateCount t c g) (BitVec.ofNat 32 h.waitCount) = false) → (t.ring c r).wait = .gate false) ∧
    (∀ d : Ch, d ≠ c → t.ch d = s.ch d)

/-- A retire moves the ring on by one entry. After one retire of ring r of channel c: HEAD is the next entry modulo the ring's size, RETIRED is one
more, the phase inverts when HEAD wraps to 0, nothing waits, the ring's lists of the slots and of the registrations that its descriptor is counted
in are empty, and BASE, CPL_BASE, TAIL, ENABLE, STOP, SIZE_LOG2 and IRQ_VEC stand as they did. (R141, R147, R151, R149) -/
def Obligations.RetireAdvancesHead : Prop :=
  ∀ (s : State) (c : Ch) (r : Sys2Proof.Ring) (x : Cpl) (adds : Bool),
    let g := s.ring c r
    let t := (retire1 s c r x adds).ring c r
    let hd := (g.head.toNat + 1) % 2 ^ g.sizeLog2.toNat
    t.head = BitVec.ofNat 12 hd ∧ t.retired = g.retired + 1 ∧ t.phase = (if hd = 0 then !g.phase else g.phase) ∧ t.wait = .idle ∧
    t.inUse = [] ∧ t.regs = [] ∧ t.base = g.base ∧ t.cplBase = g.cplBase ∧ t.tail = g.tail ∧ t.enable = g.enable ∧ t.stop = g.stop ∧
    t.sizeLog2 = g.sizeLog2 ∧ t.irqVec = g.irqVec

/-- A retire writes the 32-byte completion record at entry HEAD of the completion area. For a channel whose memories are canonical: after one retire the
32 bytes at CPL_BASE * 4096 + 32 * HEAD of the channel's T0 read as the record with the ring's phase, the descriptor's OPCODE and TAG, the given
STATUS, MIN_COVERAGE, DETAIL and RESULT, FLAGS with ADD_REFUSED added exactly when a gate add that is due is refused, RING_POS = RETIRED after the
retire, and ELAPSED a free value (log 1). Every other byte of that T0, and every byte of T0 of every other channel, reads as before. (R151, R147,
R142) -/
def Obligations.CompletionRecordIsWritten : Prop :=
  ∀ (s : State) (c : Ch) (r : Sys2Proof.Ring) (x : Cpl) (adds : Bool), chMemOk (s.ch c) = true →
    let g := s.ring c r
    let h := hdrOf (headDesc s c r)
    let at0 := g.cplBase.toNat * 4096 + 32 * g.head.toNat
    let refused := adds && addsGate h x && addRefused s c h
    let t := retire1 s c r x adds
    (∃ elapsed : Word32, t0Read t c at0 32 =
      cplRecord g.phase h (if refused then { x with flags := x.flags ||| flAddRefused } else x) (g.retired + 1) elapsed) ∧
    (∀ a : Nat, a < at0 ∨ at0 + 32 ≤ a → smGet 0 (t.ch c).t0 a = smGet 0 (s.ch c).t0 a) ∧
    (∀ d : Ch, d ≠ c → (t.ch d).t0 = (s.ch d).t0)

/-- A descriptor whose header is bad is refused without its wait and its add. For a ring that takes its HEAD descriptor with no wait under way: an
OPCODE that is unassigned or not accepted on the ring retires with ST_BAD_OPCODE (that the NOP row carries this refusal out is the model's choice,
log 20, DEDUCED), and, for an accepted OPCODE, ADD_CH 12 to 15, a WAIT_GATE or ADD_GATE other than 0xFFF above 4,094, or a reserved header field
that is not 0 retires with ST_BAD_FIELD under every row of that opcode. Neither retire makes the add, and neither waits, whatever the wait's gate. A
retire without the add changes no gate count of any channel and queues no gate add. (R143) -/
def Obligations.HeaderIsCheckedBeforeTheWait : Prop :=
  ∀ (s : State) (c : Ch) (r : Sys2Proof.Ring), ringTakes s c r = true → (s.ring c r).wait = .idle →
    let h := hdrOf (headDesc s c r)
    (opcodeOn h.opcode r.val = false → exec (.nop c r) s = .next (retireAs s c r (cplSt .badOpcode) false)) ∧
    (opcodeOn h.opcode r.val = true →
      (12 ≤ h.addCh ∨ (h.waitGate ≠ 0xFFF ∧ 4094 < h.waitGate) ∨ (h.addGate ≠ 0xFFF ∧ 4094 < h.addGate) ∨ h.reserved ≠ 0) →
      ∀ body : Nat → State → State, runHead s c r h.opcode body = retireAs s c r (cplSt .badField) false) ∧
    (∀ (x : Cpl) (d : Ch), ((retire1 s c r x false).ch d).gates = (s.ch d).gates ∧ ((retire1 s c r x false).ch d).gateQ = (s.ch d).gateQ)

/-- Nop, gate arrivals, waits' ends, pace windows and the end of a ring's drain. A Nop that nothing holds back retires with ST_OK when its body is 0; a
satisfied header wait becomes a released descriptor; the oldest gate add at a running channel arrives and changes the count; a pace window that ends
latches its count, advances WINDOW_SEQ, sets VALID unless WINDOW has changed since it began (the model's choice, log 22), and lowers PACE_LOW to it,
that window of the old length too (the model's choice, log 127); the clock's loss clears VALID alone and its return begins a window of the set
length; ISLAND_PACE latches its count and advances its sequence; a stopping ring that has drained clears ENABLE and stops draining. (R145, R146,
R152, R149, R40, R39, R431, R173) -/
def Obligations.GateEventsAndNop : Prop :=
  (∀ (c : Ch) (r : Sys2Proof.Ring) (s : State), runsNow s c r 0x00 = true → fld (headDesc s c r) 1023 128 = 0 →
    exec (.nop c r) s = .next (retire s c r (cplSt .ok))) ∧
  (∀ (c : Ch) (r : Sys2Proof.Ring) (s : State), isUp s c = true → (s.ring c r).wait = .gate true →
    exec (.gateWaitRelease c r) s = .next (setWait s c r .released)) ∧
  (∀ (c : Ch) (s : State) (a : GateAdd) (rest : List GateAdd), (s.ch c).gateQ = a :: rest → isUp s c = true →
    exec (.gateAddArrival c) s = .next (gateAdd (modCh s c (fun ch => { ch with gateQ := rest })) c a.gate.toNat a.amount)) ∧
  (∀ (c : Ch) (steps : BitVec 20) (s : State), (s.ch c).pace.refclk = true →
    exec (.paceWindowEnd c steps) s = .next (modPace s c (fun p =>
      { p with valid := p.inUse == p.window, seq := p.seq + 1, count := steps, inUse := p.window, low := if steps.toNat < p.low.toNat then steps else p.low }))) ∧
  (∀ (c : Ch) (s : State), exec (.refclkLoss c) s = .next (modPace s c (fun p => { p with refclk := false, valid := false })) ∧
    exec (.refclkReturn c) s = .next (modPace s c (fun p => { p with refclk := true, inUse := p.window }))) ∧
  (∀ (steps : BitVec 20) (s : State), exec (.islandPaceWindowEnd steps) s =
    .next (modIsland s (fun i => { i with pace := { valid := true, seq := i.pace.seq + 1, count := steps } }))) ∧
  (∀ (c : Ch) (r : Sys2Proof.Ring) (s : State), (s.ring c r).draining = true → (s.ring c r).head = (s.ring c r).tail → (s.ring c r).wait = .idle →
    (∀ mb : Mbox, (s.mb mb).bg = none) →
    exec (.ringDrainEnd c r) s = .next (modRing s c r (fun g => { g with enable := false, draining := false })))

/-- STOP on a ring whose HEAD descriptor waits ends every descriptor up to TAIL. For a host write of STOP 1 that reaches an enabled ring with indices
within its size and whose HEAD descriptor waits on its header gate, or has not begun: afterwards HEAD equals TAIL, RETIRED has risen by the number
of descriptors that stood between them, STOP reads 1, the ring drains, and nothing waits. (R173, R141, R21, R313) -/
def Obligations.StopAbortsWhatWaits : Prop :=
  ∀ (l : Ld) (c : Ch) (r : Sys2Proof.Ring) (v : Word32) (s : State), hostReaches s l c = true →
    let g := s.ring c r
    g.enable = true → g.draining = false → (g.wait = .idle ∨ g.head ≠ g.tail ∧ ∃ b, g.wait = .gate b) → g.sizeLog2.toNat ≤ 12 →
    g.head.toNat < 2 ^ g.sizeLog2.toNat → g.tail.toNat < 2 ^ g.sizeLog2.toNat → fenced s c = false →
    ∃ t, exec (.ringStopWrite l c r v) s = .next t ∧
      (t.ring c r).head = g.tail ∧ (t.ring c r).tail = g.tail ∧ (t.ring c r).wait = .idle ∧ (t.ring c r).stop = true ∧
      (t.ring c r).draining = true ∧
      (t.ring c r).retired = g.retired + BitVec.ofNat 32 ((g.tail.toNat + 2 ^ g.sizeLog2.toNat - g.head.toNat) % 2 ^ g.sizeLog2.toNat)

/-- An Attend that passes its checks runs its row tiles and retires, waits for a page, or stops. For an Attend that nothing holds back, not admitted
before, whose handle passes R54, whose layer, head and body are in range, whose slot has room in USE_COUNT, whose parameters pass R111 and whose
owner's key is loaded: it is counted in USE_COUNT, its sequence runs with the LENGTH snapshot taken at admission, and where no page makes it wait or
stop it retires with ST_OK, the OR of the row flags and the lowest COVERAGE. Where its walker meets a page under a presence gate with ABSENT 0 it
stands at that gate, with all it has done kept; where it stops (a page that cannot arrive, an engine fault) it retires with that status and detail.
(R109, R111, R128, R153, R54, R57, R53, R164) -/
def Obligations.AttendRunsItsTiles : Prop :=
  ∀ (c : Ch) (r : Sys2Proof.Ring) (env : Env) (s : State), runsNow s c r 0x01 = true →
    let d := headDesc s c r
    let s1 := takeEnv s c env
    let h := handleOf (fld d 1023 976)
    let u := countUse s1 c r h.slot
    let p := attendParams u c d
    freshHead s1 c r = true → seqCheck s1 c h false = none → lhBad s1 c h.slot (fld d 975 968) (fld d 967 962) = false →
    fld d 700 384 = 0 → (fld d 961 959 = 4 ∨ fld d 383 128 = 0) → useFull s1 c h.slot = false → attnBad u c p true = none →
    keyLoaded u (seqAt u c h.slot).owner.toNat = true →
    let y := runSeq u c r env (attnStart p [] [h.slot] (hdrOf d).tag)
    let cpl : Cpl := { status := 0, flags := y.2.1.flags, minCov := y.2.1.minCov, detail := 0, result := 0 }
    (y.2.2 = .go → exec (.attend c r env) s = .next (retire y.1 c r cpl)) ∧
    (∀ g, y.2.2 = .wait g → exec (.attend c r env) s = .next (setWait y.1 c r (.presence g false y.2.1))) ∧
    (∀ e n, y.2.2 = .stop e n → exec (.attend c r env) s =
      .next (retire y.1 c r { cpl with status := stBits e, detail := BitVec.ofNat 32 n }))

/-- AttendGrist and AttendRagged run every sequence of their list in order. For a batch descriptor that nothing holds back, not admitted before, whose
list lies in T0 outside the private areas, whose body is allowed, and all of whose sequences pass their checks with the keys of all their owners
loaded: every sequence counts in USE_COUNT once, the sequences run in list order, each with the tile offsets accumulated over those before it, and
where none waits or stops the descriptor retires with ST_OK and the flags and lowest COVERAGE of all. An engine that waits at a presence gate whose
change has come, and whose settings no commit has changed meanwhile, goes on from where it stood (PRESENCE_GATE_RELEASE). (R158, R159, R160, R161,
R157, R53) -/
def Obligations.BatchAttentionRuns : Prop :=
  (∀ (c : Ch) (r : Sys2Proof.Ring) (env : Env) (s : State) (grist : Bool), runsNow s c r (if grist then 0x02 else 0x03) = true →
    let d := headDesc s c r
    let s1 := takeEnv s c env
    let is := List.range (fld d 1023 1018 + 1)
    let n := (if grist then 8 else 16) * is.length
    inT0 (fld d 1012 989) n = true → touchesPriv (fld d 1012 989) n = false → batchBad grist d = false →
    ∀ (p : AttnParams) (ps : List AttnParams), batchPlan s1 c grist d is (fld d 879 856) (fld d 855 832) = .ok (p :: ps) → batchKeyless s1 c (p :: ps) = none →
    let slots := (p :: ps).map (fun x => x.slot)
    freshHead s1 c r = true → (dedup slots).any (useFull s1 c) = false →
    let y0 := runSeq ((dedup slots).foldl (fun t x => countUse t c r x) s1) c r env (attnStart p ps slots (hdrOf d).tag)
    let y := runSubs y0.2.1.subs y0.1 c r env y0.2.1
    y0.2.2 = .go → y.2.2 = .go →
    exec (if grist then .attendGrist c r env else .attendRagged c r env) s =
      .next (retire y.1 c r { status := 0, flags := y.2.1.flags, minCov := y.2.1.minCov, detail := 0, result := 0 })) ∧
  (∀ (c : Ch) (r : Sys2Proof.Ring) (env : Env) (s : State) (g : Nat) (x : AttnCtx), (s.ring c r).wait = .presence g true x → (s.ring c r).old = none → isUp s c = true →
    let y0 := runSeq (takeEnv s c env) c r env x
    let y := runSubs y0.2.1.subs y0.1 c r env y0.2.1
    y0.2.2 = .go → y.2.2 = .go →
    exec (.presenceGateRelease c r env) s =
      .next (retire y.1 c r { status := 0, flags := y.2.1.flags, minCov := y.2.1.minCov, detail := 0, result := 0 }))

/-- P_k of a grist bucket is the least page count whose square reaches 2^k. For each bucket k from 0 to 23, bucketPages k is the least P with P * P at
least 2^k, so B_k = 64 P_k; and it agrees with the table of R157 at the buckets 0, 1, 3, 9, 13, 19 and 23. (R157) -/
def Obligations.BucketsAreLeastPageCounts : Prop :=
  (∀ k : Fin 24, 2 ^ k.val ≤ bucketPages k.val * bucketPages k.val ∧
    (bucketPages k.val - 1) * (bucketPages k.val - 1) < 2 ^ k.val) ∧
  [bucketPages 0, bucketPages 1, bucketPages 3, bucketPages 9, bucketPages 13, bucketPages 19, bucketPages 23] = [1, 2, 3, 23, 91, 725, 2897]

/-- An Append that passes its checks writes every slot and record; admissions and writes that waited, and frames, end. For an Append that nothing holds
back, not admitted before, whose handle, layer, format and body pass, whose slot has room in USE_COUNT, whose positions and pages pass R155 with the
frames of its list, whose owner's key is loaded and answers at its fill of the key cache, and which no move, held block or guarded copy makes wait:
it is counted in USE_COUNT and its effect is that of appendEffect on the pages and copies found: the pages it begins are created and every kept slot
copied, then for each KV head the slots, FILL, DIRTY and summaries are written, LENGTH rises with ADVANCE, and it retires. A page of the sequence
whose beginning fails ends it with that status. A descriptor that waited at a full USE_COUNT goes to its admission; the freeze of a whole Demote
begins its moves once its slot counts the descriptor alone; a descriptor with writes to frames under a guard makes those whose guards have cleared,
and retires when none is left (appendGo, slipGo), and an Append goes on so at its own row too; the oldest release whose guard has cleared is
recorded in the release log when the log is enabled and has room, HEAD advancing by one entry, and forgotten when the log is off. (R154, R155, R57,
R53, R126, R252, R255, R238, R237) -/
def Obligations.AppendWritesAndAdvances : Prop :=
  (
  ∀ (c : Ch) (r : Sys2Proof.Ring) (env : Env) (s : State), runsNow s c r 0x04 = true →
    let d := headDesc s c r
    let s1 := takeEnv s c env
    let h := handleOf (fld d 1023 976)
    let e := seqAt s1 c h.slot
    freshHead s1 c r = true → seqCheck s1 c h false = none → apLayer d < layersOf e → e.posBase.toNat ≤ apPos0 d →
    (∃ f, fmtOf (fld d 931 927) = some f ∧ f.a = true) → fld d 871 128 = 0 → fld d 878 876 < 6 →
    inT0 (fld d 926 903) (headsOf e * apN d * 2 * roundUp (vecBytes (fmtD (fld d 931 927)) (headDimOf e.headDim.toNat)) 64) = true →
    useFull s1 c h.slot = false →
    let u := countUse s1 c r h.slot
    let e1 := seqAt u c h.slot
    apPos0 d + apN d ≤ 268435456 → e1.length.toNat < 268435456 →
    appendInFlight u c d (appendPages u c d h.slot) = none → (appendPages u c d h.slot).findSome? (appendPageBad u c d e1) = none →
    appendFillBad u c d e1 (appendPages u c d h.slot) = false →
    ∀ (xs : List AppendPage) (ys : List (Nat × List Byte)) (t : State), appendFrames u c d e1 (appendPages u c d h.slot) = .ok xs →
    let k := useKey u c e1.owner.toNat
    keyHere k c e1.owner.toNat = true →
    xs.any (fun x => x.use == .copy && changeWaits k c (some r) (pbIndexOf (fld (pteAt k c x.key).loc.toNat 39 0)).slot) = false →
    xs.any (copyGuarded k c d) = false → readCopies c d e1 xs k = (some ys, t) →
    exec (.append c r env) s = .next (appendEffect t c r env d h.slot xs ys)) ∧
  (
  (∀ (c : Ch) (r : Sys2Proof.Ring) (s : State), (s.ring c r).wait = .useFull → exec (.useCountAdmit c r) s = .next (setWait s c r .released)) ∧
  (∀ (c : Ch) (r : Sys2Proof.Ring) (s : State) (slot : Nat) (x : MoveCtx), (s.ring c r).wait = .freeze slot x → (seqAt s c slot).useCount.toNat ≤ 1 →
    exec (.useCountAdmit c r) s = .next (beginMoves s c r x)) ∧
  (∀ (c : Ch) (r : Sys2Proof.Ring) (s : State) (x : AppendCtx), isUp s c = true → (s.ring c r).wait = .guardPages x →
    exec (.frameGuardClear c r) s = .next (underOwn s c r (fun s => appendGo s c r x)) ∧
    ∀ env : Env, exec (.append c r env) s = .next (underOwn s c r (fun s => appendGo s c r x))) ∧
  (∀ (c : Ch) (r : Sys2Proof.Ring) (s : State) (x : SlipCtx), isUp s c = true → (s.ring c r).wait = .guardWrites x →
    exec (.frameGuardClear c r) s = .next (underOwn s c r (fun s => slipGo s c r x))) ∧
  (∀ (c : Ch) (s : State) (x : Release) (rest : List Release), takeClear (s.ch c).rel.queue = some (x, rest) →
    ((s.ch c).rel.enable = false →
      exec (.releaseRecordWrite c) s = .next (logProgress (modCh s c (fun ch => { ch with rel := { ch.rel with queue := rest } })) c)) ∧
    ((s.ch c).rel.enable = true → relRoom (s.ch c).rel ≠ 0 →
      exec (.releaseRecordWrite c) s = .next (logProgress (modCh
        (t0Write s c ((s.ch c).rel.base.toNat * 4096 + 8 * (s.ch c).rel.head.toNat) (releaseRecord x)) c (fun ch =>
          { ch with rel := { ch.rel with queue := rest,
                                         head := BitVec.ofNat 16 (((s.ch c).rel.head.toNat + 1) % 2 ^ (s.ch c).rel.sizeLog2.toNat) } })) c)) ∧
    ((s.ch c).rel.enable = true → relRoom (s.ch c).rel = 0 →
      exec (.releaseRecordWrite c) s = .next (noteFull s c))))

/-- Prefetch copies pages of a sequence, a page of a block, or a raw T1 range into T0. For a Prefetch that nothing holds back: of a sequence, not
admitted before, whose handle, layer, head and range pass, with a loaded key and a destination that fits, every page of the range that the sequence
holds is copied in order, one that is absent sets SKIPPED, one that is poisoned or cannot be read sets POISONED and takes the effect of a loss; of a
Live block of the ring's channel, its page of the layer and head likewise (PAGE_LO and PAGE_HI are 0 there, the model's choice, log 168); of a raw
range below the pooled area, each 2 KiB frame is copied as stored, lost pieces that it holds being recovered first where they can be, and sets
POISONED where a lost byte remains. Each then retires with ST_OK and those flags. (R166, R54, R53, R229, R233) -/
def Obligations.PrefetchCopies : Prop :=
  (∀ (c : Ch) (r : Sys2Proof.Ring) (env : Env) (s : State), runsNow s c r 0x10 = true →
    let d := headDesc s c r
    let s1 := takeEnv s c env
    let h := handleOf (fld d 1023 976)
    let e := seqAt s1 c h.slot
    fld d 975 974 = 0 → freshHead s1 c r = true → seqCheck s1 c h false = none → fld d 973 966 < layersOf e → fld d 965 960 < headsOf e →
    fld d 959 938 ≤ fld d 937 916 → fld d 867 128 = 0 → useFull s1 c h.slot = false →
    let u := countUse s1 c r h.slot
    let o := seqObj u c h.slot
    let lo := fld d 959 938
    let n := fld d 937 916 + 1 - lo
    fetchBad d (n * o.size) = false → keyLoaded u o.owner = true →
    exec (.prefetch c r env) s = .next (fetchEnd ((List.range n).foldl (fun a j =>
      let key := pteKey h.slot (fld d 973 966) (fld d 965 960) (pageEntry (seqAt u c h.slot) (lo + j))
      let p := pteAt a.st c key
      let q := if (seqAt u c h.slot).ring ∧ keyPage a.st c (seqAt u c h.slot) key p ≠ lo + j then none
        else resolvePage a.st c (seqAt u c h.slot) (fld d 973 966) (fld d 965 960) key p
      fetchPage c (fld d 915 892) o.size a j q) { st := u, flags := 0 }) c r)) ∧
  (∀ (c : Ch) (r : Sys2Proof.Ring) (env : Env) (s : State), runsNow s c r 0x10 = true →
    let d := headDesc s c r
    let s1 := takeEnv s c env
    let slot := (pbIndexOf (fld d 1023 976)).slot
    let o := pbObj s1 c slot
    let b := pbAt s1 c slot
    let k := recKey slot (fld d 973 966) (fld d 965 960)
    fld d 975 974 = 1 → fld (fld d 1023 976) 47 40 = 0 → fld d 959 916 = 0 → fld d 867 128 = 0 →
    (pbIndexOf (fld d 1023 976)).home = c.val → pbLive s1 (fld d 1023 976) = true → fld d 973 966 < o.layers → fld d 965 960 < o.heads →
    fetchBad d o.size = false → keyLoaded s1 o.owner = true →
    exec (.prefetch c r env) s = .next (fetchEnd (fetchPage c (fld d 915 892) o.size { st := s1, flags := 0 } 0
      (some { isPb := true, key := k, pte := recAt s1 c k, owner := o.owner, kFmt := b.kFmt.toNat, vFmt := b.vFmt.toNat,
              pbIdx := BitVec.ofNat 40 (fld d 1015 976) })) c r)) ∧
  (∀ (c : Ch) (r : Sys2Proof.Ring) (env : Env) (s : State), runsNow s c r 0x10 = true →
    let d := headDesc s c r
    let s1 := takeEnv s c env
    let fr := fld d 867 842
    let n := fld d 841 830 + 1
    fld d 975 974 = 2 → fld d 1023 976 = 0 → fld d 973 916 = 0 → fld d 829 128 = 0 → fetchBad d (2048 * n) = false →
    (fr + n) * 2048 ≤ poolBase s1 c →
    exec (.prefetch c r env) s = .next (fetchEnd ((List.range n).foldl (fun a j =>
      let b := { a with st := mendRange a.st c ((fr + j) * 2048) 2048 }
      if rangeBad b.st c ((fr + j) * 2048) 2048 then { b with flags := b.flags ||| flPoisoned }
      else { b with st := t0Write b.st c (fld d 915 892 + 2048 * j) (t1Raw b.st c ((fr + j) * 2048) 2048) }) { st := s1, flags := 0 }) c r))

/-- SlipFill, SlipCopy, SlipCompare, SlipReduce and SlipAtomic with nothing in their way. For a Slip descriptor that nothing holds back, whose body
passes check 1 of R364 and whose operands pass checks 2 to 6 with no snoop due and the keys there (slipClear), on operands of every SPACE and
channel, where no guard and no full write-back queue makes one of its writes wait (slipFree; where one does, FRAME_GUARD_CLEAR and WRITE_BACK_TAKE
go on): a fill writes the 8-byte pattern over the destination and retires; a copy reads all source lines, then writes them, and retires with ST_OK,
or, at a line that cannot be read, writes the lines before it and retires with ST_DATA_POISON and its offset; a compare runs line by line, and so
does a reduction, whose later lines read what its earlier ones wrote; an atomic, whose write no guard or full queue holds, reads the word, writes
the old word to RESP and the sum or, when the word equals ARG1, ARG2 to the word, and retires with its low 8 bytes in RESULT. That a key gone before
the reads ends the operation is the model's choice (log 180). (R363, R364, R365, R366, R367, R368, R359, R21) -/
def Obligations.SlipOperationsRun : Prop :=
  (∀ (c : Ch) (r : Sys2Proof.Ring) (env : Env) (s : State), runsNow s c r 0x21 = true →
    let d := headDesc s c r
    let n := fld d 863 832
    let u : SlipUse := { op := slipOp (fld d 1023 944), len := n, right := rightWrite }
    let s1 := slipEnv s [u] env
    u.op.bad = false → lenBad n = false → fld d 943 864 = 0 → fld d 767 128 = 0 → slipClear s1 c r [u] (some u) false [] = true →
    let p : SlipPlan := { lines := List.replicate (n / 64) ((List.range 8).flatMap (fun _ => natLe (fld d 831 768) 8)), cpl := cplSt .ok, st := slipAt s1 c r [u] }
    slipFree p u = true → exec (.slipFill c r env) s = .next (retire (slipLands p u) c r (cplSt .ok))) ∧
  (∀ (c : Ch) (r : Sys2Proof.Ring) (env : Env) (s : State), runsNow s c r 0x22 = true →
    let d := headDesc s c r
    let n := fld d 863 832
    let u : SlipUse := { op := slipOp (fld d 1023 944), len := n, right := rightWrite }
    let v : SlipUse := { op := slipOp (fld d 943 864), len := n, right := rightRead }
    let s1 := slipEnv s [u, v] env
    let x := readLines v.op (n / 64) 0 (slipAt s1 c r [u, v]) []
    u.op.bad = false → v.op.bad = false → lenBad n = false → fld d 831 128 = 0 → slipClear s1 c r [u, v] (some u) false [] = true →
    let p : SlipPlan := { lines := x.1, cpl := if x.2.1 then cplSt .ok else slipPoison (64 * x.1.length), st := x.2.2 }
    slipFree p u = true → exec (.slipCopy c r env) s = .next (retire (slipLands p u) c r
      (if x.2.1 then cplSt .ok else cplDet .dataPoison (64 * x.1.length)))) ∧
  (∀ (c : Ch) (r : Sys2Proof.Ring) (env : Env) (s : State), runsNow s c r 0x23 = true →
    let d := headDesc s c r
    let n := fld d 863 832
    let u : SlipUse := { op := slipOp (fld d 1023 944), len := n, right := rightRead }
    let v : SlipUse := { op := slipOp (fld d 943 864), len := n, right := rightRead }
    let s1 := slipEnv s [u, v] env
    u.op.bad = false → v.op.bad = false → lenBad n = false → fld d 831 128 = 0 → slipClear s1 c r [u, v] none false [] = true →
    let y := compareLines u.op v.op (n / 64) 0 (slipAt s1 c r [u, v])
    exec (.slipCompare c r env) s = .next (retire y.1 c r y.2)) ∧
  (∀ (c : Ch) (r : Sys2Proof.Ring) (env : Env) (s : State), runsNow s c r 0x24 = true →
    let d := headDesc s c r
    let k := fld d 943 939 + 1
    let list := fld d 938 915
    let n := fld d 914 883
    let u : SlipUse := { op := slipOp (fld d 1023 944), len := n, right := rightWrite }
    let es := (List.range k).map (fun i => t0Num s c (list + 16 * i) 16)
    let vs := es.map (fun e => ({ op := slipOp (fld e 79 0), len := n, right := rightRead } : SlipUse))
    let s1 := slipEnv s (u :: vs) env
    u.op.bad = false → sourceBad es = none → n % 64 = 0 → fld d 880 879 ≠ 3 → fld d 878 128 = 0 →
    slipClear s1 c r (u :: vs) (some u) false [(list, 16 * k)] = true →
    let s2 := slipAt s1 c r (u :: vs)
    let p := reduceLines (fld d 882 881) (fld d 880 879) u.op (vs.map (fun v => v.op)) (n / 64) 0 s2 s2 [] 0
    slipFree p u = true → exec (.slipReduce c r env) s = .next (retire (slipLands p u) c r p.cpl)) ∧
  (∀ (c : Ch) (r : Sys2Proof.Ring) (env : Env) (s : State), runsNow s c r 0x26 = true →
    let d := headDesc s c r
    let w := if bit d 943 then 16 else 8
    let cas := bit d 942
    let arg1 := fld d 941 814
    let u : SlipUse := { op := slipOp (fld d 1023 944), len := w, right := rightAtomic }
    let s1 := slipEnv s [u] env
    u.op.bad = false → u.op.space ≠ 0 → u.op.addr % w = 0 → fld d 685 662 % 16 = 0 → arg1 < 2 ^ (8 * w) →
    (cas = true ∨ fld d 813 686 = 0) → fld d 661 128 = 0 → slipClear s1 c r [u] (some u) true [(fld d 685 662, 16)] = true →
    ∀ (bs : List Byte) (t : State), opRead (slipAt s1 c r [u]) u.op 0 w = (some bs, t) →
    let old := leNat bs
    let new := if cas then (if old = arg1 then some (fld d 813 686 % 2 ^ (8 * w)) else none) else some ((old + arg1) % 2 ^ (8 * w))
    let ws : List (List Byte) := match new with
      | some v => [natLe v w]
      | none => []
    let p : SlipPlan := { lines := ws, cpl := cplRes .ok (old % 2 ^ 64), st := t0Write t c (fld d 685 662) (natLe old w) }
    slipFree p u = true → exec (.slipAtomic c r env) s = .next (retire (slipLands p u) c r (cplRes .ok (old % 2 ^ 64))))

/-- SlipCopy and SlipCompare between ranges of T0 act as if all of the source were read first. For T0 operands (SPACE 0) in any two channels that are up
or the ring's own, within T0 and outside the private areas, with LEN a nonzero multiple of 64: SlipCopy retires with ST_OK after one write of the
LEN bytes that the source held before, even where the ranges overlap; SlipCompare changes nothing but the ring and retires with RESULT the offset of
the first difference, or all ones when there is none. Before the retire nothing else changes, but for key slots whose storage check fails at this
very row (Env.keyBad). (R365, R363, R364, R21) -/
def Obligations.SlipOnStagingMemory : Prop :=
  ∀ (c : Ch) (r : Sys2Proof.Ring) (env : Env) (s : State) (op : Nat), runsNow s c r op = true → freshHead s c r = true →
    let d := headDesc s c r
    let n := fld d 863 832
    let u := slipOp (fld d 1023 944)
    let v := slipOp (fld d 943 864)
    ∀ (du dv : Ch), u.bad = false → v.bad = false → u.space = 0 → v.space = 0 → u.ch = du.val → v.ch = dv.val →
    (du = c ∨ isUp s du = true) → (dv = c ∨ isUp s dv = true) → n ≠ 0 → n % 64 = 0 → fld d 831 128 = 0 →
    inT0 u.addr n = true → touchesPriv u.addr n = false → inT0 v.addr n = true → touchesPriv v.addr n = false →
    (op = 0x22 → exec (.slipCopy c r env) s = .next (retire (t0Write (rotKeys s env.keyBad) du u.addr (t0Read s dv v.addr n)) c r (cplSt .ok))) ∧
    (op = 0x23 → exec (.slipCompare c r env) s = .next (retire (rotKeys s env.keyBad) c r (cplRes .ok
      ((firstDiff 0 (t0Read s du u.addr n) (t0Read s dv v.addr n)).getD 0xFFFFFFFFFFFFFFFF))))

/-- SlipPublish compares and sets the version word, and Merge combines its partials row by row. For a SlipPublish that nothing holds back, not admitted
before, on a region that passes R348 and admits a publish under the channel's KIND 2 registration, with RESP in T0: when VERSION equals EXPECT the
version becomes EXPECT + 1 modulo 2^64 and ROOT becomes NEW_ROOT, RESP receives the word found and it retires with ST_OK and RESULT EXPECT + 1;
otherwise the region stays, RESP receives the winning word and it retires with ST_VERSION_CONFLICT and RESULT VERSION. For a Merge that nothing
holds back, with allowed formats, places and partial list, whose partials' channels are up: its rows are merged in order (mergeRows), the tile is
padded and it retires with ST_OK, the OR of the flags and the lowest coverage. (R355, R356, R359, R358, R171, R369, R130, R82) -/
def Obligations.PublishesAndMergesRun : Prop :=
  (∀ (c : Ch) (r : Sys2Proof.Ring) (s : State), runsNow s c r 0x25 = true → freshHead s c r = true →
    let d := headDesc s c r
    let i := regIdx (fld d 1023 992)
    let resp := fld d 863 840
    let expect := BitVec.ofNat 64 (fld d 991 928)
    ∀ par : Nat, resp % 16 = 0 → fld d 839 128 = 0 → regionCheck s (fld d 1023 992) = none →
    admitTest (regionAt s i) 2 c.val 0 rightPublish = .ok par → inT0 resp 16 = true → touchesPriv resp 16 = false →
    let u := ringCount s c r i par
    let g := regionAt u i
    let word := natLe (g.version.toNat * 2 ^ 64 + g.root.toNat) 16
    (g.version = expect → exec (.slipPublish c r) s = .next (retire (t0Write (modRegion u i (fun g =>
        { g with version := expect + 1, root := BitVec.ofNat 64 (fld d 927 864) })) c resp word) c r (cplRes .ok (expect + 1).toNat))) ∧
    (g.version ≠ expect → exec (.slipPublish c r) s = .next (retire (t0Write u c resp word) c r (cplRes .versionConflict g.version.toNat)))) ∧
  (∀ (c : Ch) (r : Sys2Proof.Ring) (env : Env) (s : State), runsNow s c r 0x20 = true →
    let d := headDesc s c r
    let k := fld d 1023 1019 + 1
    let list := fld d 1018 995
    let dest := fld d 994 971
    let n := fld d 970 959 + 1
    let dim := headDimOf (fld d 958 956)
    ∀ (fi fo : Fmt), fld d 945 128 = 0 → fld d 958 956 < 5 → outFmt (fld d 955 951) = some fi → outFmt (fld d 950 946) = some fo →
    let size := (tileLayout n dim fi).size
    let out := (tileLayout n dim fo).size
    let vs := mergeList s c list k
    let parts := vs.filterMap (fun v => (chOf (fld v 31 28)).map (fun t => (t, fld v 23 0)))
    let m := mergeRows s c n dim fi fo parts dest
    inT0 list (4 * k) = true → touchesPriv list (4 * k) = false → dest % 64 = 0 → inT0 dest out = true → touchesPriv dest out = false →
    vs.any (partialBad size) = false → parts.any (fun p => p.1 != c && !isUp s p.1) = false →
    exec (.merge c r env) s = .next (retire (padTile m.2.2 c dest n dim fo) c r
      { cplSt .ok with flags := m.1, minCov := BitVec.ofNat 16 m.2.1 }))

/-- A search returns the winning row of the lowest index, the pending row taking part while a shift runs. For a Sieve whose rows are canonical, a probe
key, tag and mask set m, and a lowest index lo: an array row matches when it is VALID, its index is usable, its KEY equals the probe key, its
MODEL_TAG agrees with the probe tag under TAG_MASK[m] and bit BAND of BAND_EN[m] is 1. With no pending row the search from lo answers none exactly
when no index from lo on matches, and otherwise the lowest such index with its row. With a pending row that matches at a target t from lo on, the
pending row wins when no array row matches, when in a downward shift the lowest matching array index is at least t, and when in an upward shift it
is greater than t; otherwise the array row wins. The search of R182 is the one from index 0. (R182, R188) -/
def Obligations.SearchFindsTheLowestMatch : Prop :=
  ∀ (s : State) (c : Ch) (key : BitVec 128) (tag m lo : Nat), smWf SieveRow.none (s.ch c).sieve.rows = true →
    let x := (s.ch c).sieve
    let k := ((s.ch c).cfg.sieveMask.toList.getD (m % 4) 0).toNat
    let passes (w : SieveRow) : Prop := w.key = key ∧ (w.tag.toNat ^^^ tag) &&& fld k 31 16 = 0 ∧ bit k w.band.toNat = true
    let matches_ (i : Nat) : Prop := lo ≤ i ∧ (rowAt x i).valid = true ∧ i ∉ x.unusable ∧ passes (rowAt x i)
    let found := searchFrom x lo (probeTest s c key tag m)
    let lowest (i : Nat) : Prop := matches_ i ∧ ∀ j : Nat, j < i → ¬ matches_ j
    (x.pend = none → (found = none ↔ ∀ i : Nat, ¬ matches_ i)) ∧
    (x.pend = none → ∀ (i : Nat) (w : SieveRow), found = some (i, w) ↔ lowest i ∧ w = rowAt x i) ∧
    (∀ p : PendRow, x.pend = some p → p.row.valid = true → passes p.row → lo ≤ p.target →
      ((∀ i : Nat, ¬ matches_ i) → found = some (p.target, p.row)) ∧
      (∀ a : Nat, lowest a → found = if (p.down = true ∧ p.target ≤ a) ∨ (p.down = false ∧ p.target < a) then some (p.target, p.row)
        else some (a, rowAt x a)))

/-- The six Sieve descriptors on an unpaired device with nothing in their way. On a device with PAIR_ROLE 0, for a descriptor that nothing holds back
and a body that R199 allows: SieveHash writes the chain of NBLK hashes, each the first 16 bytes of SM3 over the hash before, the 64 token IDs and
the masked tag, stored little-endian; SieveProbe without CAS writes for each entry, in order, the record of the winning row or 0, and RESULT holds
DEPTH and the PB_INDEX there; SieveInsert of a live block finds a row of its KEY and MODEL_TAG (ST_SIEVE_DUP, RESULT its PB_INDEX), or takes its
plan's place and waits for its report; SieveRemove invalidates what its locator takes in one handshake and retires at once when that is nothing,
else waits for the reports; SieveSetFlags writes PINNED and USER into all that its locator finds; SieveRead writes one record for each row. (R175,
R177, R184, R187, R192, R193, R199, R180, R182) -/
def Obligations.SieveDescriptorsRun : Prop :=
  ∀ (c : Ch) (r : Sys2Proof.Ring) (s : State), pairRole s c = 0 →
    let d := headDesc s c r
    let x := (s.ch c).sieve
    let sel := fld d 839 838
    let loc := locates sel (BitVec.ofNat 128 (fld d 1023 896)) (fld d 895 880) (fld d 879 840)
    (runsNow s c r 0x30 = true →
      let n := fld d 1023 1018 + 1
      let tok := fld d 1000 977
      let dst := fld d 976 953
      let tag := fld d 1016 1001 &&& fld (s.ch c).cfg.sieveCfg.toNat 31 16
      bit d 1017 = false → fld d 696 128 = 0 → fld d 952 825 = 0 → inT0 tok (256 * n) = true → touchesPriv tok (256 * n) = false →
      inT0 dst (16 * n) = true → touchesPriv dst (16 * n) = false →
      exec (.sieveHash c r) s = .next (retire (t0Write s c dst
        ((chainAll tag 16 (natBe (fld d 824 697) 16) (chunks 256 (t0Read s c tok (256 * n)))).flatMap List.reverse)) c r (cplSt .ok))) ∧
    (∀ (tag : Nat) (prev tokens : List Byte) (rest : List (List Byte)),
      let h := (sm3 (prev ++ (chunks 4 tokens).flatMap List.reverse ++ natBe tag 2)).take 16
      chainAll tag 16 prev (tokens :: rest) = h :: chainAll tag 16 h rest) ∧
    (runsNow s c r 0x31 = true →
      let n := fld d 1023 1018 + 1
      let vec := fld d 999 976
      let res := fld d 975 952
      let recs := (List.range n).map (fun e =>
        match searchFrom x 0 (probeTest s c (BitVec.ofNat 128 (t0Num s c (vec + 16 * e) 16)) (fld d 1017 1002) (fld d 1001 1000)) with
        | some a => hitRecord a.1 a.2
        | none => 0)
      bit d 951 = false → fld d 942 128 = 0 → inT0 vec (16 * n) = true → touchesPriv vec (16 * n) = false → inT0 res (16 * n) = true →
      touchesPriv res (16 * n) = false →
      exec (.sieveProbe c r) s = .next (retire (t0Write s c res (recs.flatMap (fun w => natLe w.toNat 16))) c r (cplRes .ok (probeResult recs)))) ∧
    (runsNow s c r 0x32 = true →
      let v := fld d 872 833
      ∀ h : Ch, fld d 832 128 = 0 → x.pend = none → (pbIndexOf v).home = h.val → isUp s h = true → pbLive s v = true →
      (∀ e : Nat × SieveRow, searchFrom x 0 (dupTest (BitVec.ofNat 128 (fld d 1023 896)) (fld d 895 880)) = some e →
        exec (.sieveInsert c r) s = .next (retire s c r (cplRes .sieveDup e.2.pb.toNat))) ∧
      (∀ p : PendRow, searchFrom x 0 (dupTest (BitVec.ofNat 128 (fld d 1023 896)) (fld d 895 880)) = none →
        planInsert x (insertRow d) (fld d 879 876) (bit d 875) = some p →
        exec (.sieveInsert c r) s = .next (setWait (reportRow s c true true p.row.pb) c r
          (.reports 1 (some p) (cplRes .ok (p.target % 2 ^ 17 + p.total % 2 ^ 17 * 2 ^ 32)))))) ∧
    (runsNow s c r 0x33 = true → sel ≠ 3 → fld d 834 128 = 0 → fld d 836 835 = 0 →
      let t := takeRows x (bit d 837) loc
      let u := modSieve s c (fun y => removeTaken y t)
      exec (.sieveRemove c r) s = .next (if t.pbs = [] then retire u c r (cplRes .ok 0)
        else setWait (reportAll u c true t.pbs) c r (.reports t.pbs.length none (cplRes .ok t.pbs.length)))) ∧
    (runsNow s c r 0x34 = true → sel ≠ 3 → fld d 834 128 = 0 → bit d 837 = false →
      let t := takeRows x true loc
      exec (.sieveSetFlags c r) s = .next (retire (modSieve s c (fun y => setFlagsOn y (bit d 836) (bit d 835) t.idx t.pend)) c r (cplSt .ok))) ∧
    (runsNow s c r 0x35 = true →
      let first := fld d 1023 1007
      let n := fld d 1006 995 + 1
      let dst := fld d 994 971
      fld d 970 128 = 0 → first + n ≤ 131072 → inT0 dst (32 * n) = true → touchesPriv dst (32 * n) = false →
      exec (.sieveRead c r) s = .next (retire (t0Write s c dst ((List.range n).flatMap (fun i => readRecord x (first + i)))) c r (cplSt .ok)))

/-- The landing of a shift: the row at its target, no pending row, and BSTART moved. For a running channel whose pending row has had its last copy, on a
Sieve with no unusable index: the landing writes the pending row and its mirror record (with TRANSIT 0) at its target, leaves no pending row, and
adjusts BSTART: after a downward shift from i to hole j, every BSTART[n] with n > b and i to j inclusive gains 1; after an upward shift from hole k,
every BSTART[n] with 0 < n, n at most b and k < BSTART[n] at most i loses 1; the rest stand. Every other row but the one whose TRANSIT the last copy
left set reads as before. A row that enters an edge hole changes no BSTART. (With unusable indices next to an edge the model lets the edge pass over
them, log 33.) (R189, R187, R185, R194) -/
def Obligations.ShiftLandsItsRow : Prop :=
  ∀ (c : Ch) (s : State) (p : PendRow), (s.ch c).sieve.pend = some p → isUp s c = true → p.total ≤ p.moved → (s.ch c).sieve.unusable = [] →
    smWf SieveRow.none (s.ch c).sieve.rows = true → smWf SieveRow.none (s.ch c).sieve.mirror = true →
    let x := (s.ch c).sieve
    let b := p.row.band.toNat
    ∃ t : State, exec (.shiftLanding c) s = .next t ∧
      let y := (t.ch c).sieve
      y.pend = none ∧ rowAt y p.target = p.row ∧ smGet SieveRow.none y.mirror p.target = { p.row with transit := false } ∧
      (∀ n : Fin 16, y.bstart[n] =
        if p.down = true ∧ b < n.val ∧ p.edge ≤ x.bstart[n] ∧ x.bstart[n] ≤ p.hole then x.bstart[n] + 1
        else if p.down = false ∧ n.val ≤ b ∧ n.val ≠ 0 ∧ p.hole < x.bstart[n] ∧ x.bstart[n] ≤ p.edge then x.bstart[n] - 1
        else x.bstart[n]) ∧
      (∀ i : Nat, i ≠ p.target → rowAt y i = if p.prev = some i then { rowAt x i with transit := false } else rowAt x i) ∧
      (∀ q : PendRow, q.direct = true → ((rowEnters s c q).ch c).sieve.bstart = x.bstart)

/-- One removal handshake invalidates every row that the locator matches, and no other. For a Sieve with canonical rows: after the handshake of a
removal, an array row that was VALID, on a usable index (or one whose spare waits), that the locator matches and that is not PINNED (or FORCE is
set) is invalid with every other field but TRANSIT kept; every other row is unchanged. The pending row is invalidated exactly when it is VALID,
matches and is not PINNED or FORCE is set, and its other fields stay. With nothing taken SieveRemove retires with ST_OK and RESULT 0
(SieveDescriptorsRun). (R192, R193, R185) -/
def Obligations.RemovalTakesEveryMatch : Prop :=
  ∀ (x : Sieve) (force : Bool) (m : SieveRow → Bool), smWf SieveRow.none x.rows = true →
    let y := removeTaken x (takeRows x force m)
    let takes (w : SieveRow) : Bool := w.valid && m w && (force || !w.pinned)
    (∀ i : Nat, rowAt y i = if takes (rowAt x i) = true ∧ (i ∉ x.unusable ∨ i ∈ x.sparing) then { rowAt x i with valid := false, transit := false }
      else rowAt x i) ∧
    (∀ p : PendRow, x.pend = some p → ∃ q : PendRow, y.pend = some q ∧ q.target = p.target ∧
      q.row = if takes p.row = true then { p.row with valid := false } else p.row) ∧
    (x.pend = none → y.pend = none) ∧ y.bstart = x.bstart ∧ y.unusable = x.unusable

/-- Sieve events and paired frames, each where its event can arise. On a running channel: an insert whose pending row has landed is released; a shift
that has rows left copies one, with TRANSIT at the copy; a scrub visit moves to the next index, leaves a sound row as it is and rewrites one whose
parity fails from its mirror; a waiting spare comes in between descriptors of ring 7; the oldest removal request takes every row that names the
block; the oldest report at the reference port, where the release log has room and no change of its block is held before it, is applied and
answered; a count request adds the rows of one Sieve and ends the sweep after the last; a sound cascade frame marks suppressed hits, goes on with
the OR of HITS (or gives CAS_DEPTH at the tail) and the probe retires; a timeout retires it with ST_CASCADE_TIMEOUT, CAS_ERR records and
EV_CASCADE_FAULT; a late frame is discarded. For a paired exchange under way at ring 7 and a frame of even parity: CAND, where the descriptor is a
probe, moves the search on at the leader or the follower; PLACE, for an insert whose check is over, places the row by the leader's plan, or ends
with ST_SIEVE_FULL where the leader found no place (a PLACE frame without an index, the model's choice, log 134) and with ST_CASCADE_MISMATCH at a
target or hole that is unusable here (the model's choice, log 159); DROP with no index ends a removal by block, with an index it takes the row there
that its locator picks, with its copies; MARK with no index ends a flag change by block (the frames without an index are the model's choice, log
34). The descriptor under way runs under its own settings (R26). A CAND, PLACE or MARK frame of odd parity or another TYPE ends the descriptor with
ST_CASCADE_MISMATCH. (R187, R191, R195, R196, R193, R200, R201, R209, R227, R237, R203, R26) -/
def Obligations.SieveEventsRun : Prop :=
  (
  (∀ (c : Ch) (s : State), (s.ring c 7).wait = .insertWait → (s.ch c).sieve.pend = none →
    exec (.sieveInsertResume c) s = .next (setWait s c 7 .released)) ∧
  (∀ (c : Ch) (s : State) (p : PendRow), (s.ch c).sieve.pend = some p → isUp s c = true → p.moved < p.total →
    ∃ t : State, exec (.shiftRowCopy c) s = .next t ∧
      t = modSieve s c (fun x => shiftCopy x p) ∧
      (t.ch c).sieve.pend = some { p with moved := p.moved + 1, cur := shiftSrc (s.ch c).sieve p, prev := some p.cur }) ∧
  (∀ (c : Ch) (s : State), isUp s c = true →
    let i := (s.ch c).sieve.scrubPos
    let u := modSieve s c (fun x => { x with scrubPos := (i + 1) % 131072 })
    scrubSkips u c i = false →
    ({ rowAt (s.ch c).sieve i with transit := false } = smGet SieveRow.none (s.ch c).sieve.mirror i → exec (.scrubVisit c false false) s = .next u) ∧
    exec (.scrubVisit c true false) s = .next (scrubFix u c i)) ∧
  (∀ (c : Ch) (idx : Nat) (s : State), isUp s c = true → (s.ring c 7).wait = .idle → (s.ch c).sieve.pend = none →
    exec (.sieveRowSpareIn c idx) s = .next (spareIn s c idx)) ∧
  (∀ (c : Ch) (s : State) (q : Nat × BitVec 40) (rest : List (Nat × BitVec 40)), isUp s c = true → (s.ring c 7).wait = .idle →
    (s.ch c).obj.port.removals = q :: rest →
    exec (.sieveBlockRemoval c) s = .next (removeBlock (modRefPort s c (fun p => { p with removals := rest })) c q.2)) ∧
  (∀ (c : Ch) (s : State) (x : Report) (rest : List Report), (s.ch c).obj.port.reports = x :: rest → isUp s c = true →
    let u := modRefPort s c (fun p => { p with reports := rest })
    logFull u c = false → changeWaits u c none (pbIndexOf x.pb.toNat).slot = false →
    exec (.sieveReport c) s = .next (if x.answer then reportAnswer (portReport u c x).2 x (portReport u c x).1 else (portReport u c x).2)) ∧
  (∀ (c tgt : Ch) (s : State) (x : SweepCtx), (s.ch c).obj.port.sweep = some x → tgt.val ∈ x.waiting → isUp s tgt = true →
    let q := x.blocks.foldl (fun m b => smSet 0 m b (smGet 0 m b + sieveCount s c tgt (BitVec.ofNat 40 (pbIndexAt s c b)))) x.q
    let y : SweepCtx := { x with q := q, waiting := x.waiting.filter (fun t => t != tgt.val) }
    exec (.sieveCountRequest c tgt) s = .next (if y.waiting = [] then sweepEnd s c y else modRefPort s c (fun p => { p with sweep := some y }))) ∧
  (∀ (c : Ch) (frame : BitVec 74) (s : State) (x : ProbeCtx), (s.ring c 7).wait = .cascade x →
    popcount frame.toNat 74 % 2 = 0 → bit frame.toNat 73 = false → fld frame.toNat 72 65 = x.casSeq.toNat →
    let hits := fld frame.toNat 64 1
    let all := hits ||| hitsOf x.recs
    exec (.cascadeFrame c frame) s = .next (underOwn s c 7 (fun s =>
      if casRole s c = 3 then probeEnd s c 7 (suppress x.recs hits) x.resAddr .ok (casDepth all % 2 ^ 7 * 2 ^ 48)
      else probeEnd (emit s (.cascade c.val (cascadeBits false x.casSeq all))) c 7 (suppress x.recs hits) x.resAddr .ok 0))) ∧
  (∀ (c : Ch) (s : State) (x : ProbeCtx), (s.ring c 7).wait = .cascade x →
    exec (.cascadeTimeout c) s = .next (underOwn s c 7 (fun s => cascadeError (drawFree s).2 c 7 x (drawFree s).1.toNat .cascadeTimeout true))) ∧
  (∀ (c : Ch) (frame : BitVec 74) (s : State), exec (.lateCascadeFrame c frame) s = .next s)) ∧
  (
  ∀ (c : Ch) (f : BitVec 40) (s : State) (x : ProbeCtx), (s.ring c 7).wait = .paired x →
    let d := headDesc s c 7
    let type := fld f.toNat 39 37
    let a := fld f.toNat 36 19
    let b := fld f.toNat 18 1
    let own (k : State → State) : Host.Outcome State Fault Refusal := .next (underOwn s c 7 k)
    let ends : Host.Outcome State Fault Refusal := own (fun s => retire s c 7 (cplSt .cascadeMismatch))
    (popcount f.toNat 40 % 2 = 0 →
      (type = 1 → fld d 127 120 = 0x31 →
        exec (.cand c f) s = own (fun s => if pairRole s c = 1 then candLeader s c x a else candFollower s c x a)) ∧
      (type = 2 → fld d 127 120 = 0x32 → x.entry = 1 →
        exec (.placeFrame c f) s = own (fun s => if a = 0x3FFFF then retire s c 7 (cplSt .sieveFull)
          else if rowUsable (s.ch c).sieve a = false ∨ rowUsable (s.ch c).sieve b = false then retire s c 7 (cplSt .cascadeMismatch)
          else insertPlaced s c 7 (placePlan (s.ch c).sieve d a b))) ∧
      (type = 3 → fld d 127 120 = 0x33 → fld d 839 838 = 1 →
        (a = 0x3FFFF → x.recs = [] → exec (.dropFrame c f) s = own (fun s => retire s c 7 (cplRes .ok 0))) ∧
        (a ≠ 0x3FFFF → exec (.dropFrame c f) s = own (fun s => setWait (dropIndex s c a (pairTest s c x)).2 c 7
          (.paired { x with recs := x.recs ++ (dropIndex s c a (pairTest s c x)).1.pbs.map (fun v => v.setWidth 128) })))) ∧
      (type = 4 → fld d 127 120 = 0x34 → fld d 839 838 = 1 → a = 0x3FFFF → exec (.mark c f) s = own (fun s => retire s c 7 (cplSt .ok)))) ∧
    (popcount f.toNat 40 % 2 ≠ 0 →
      exec (.cand c f) s = ends ∧ exec (.placeFrame c f) s = ends ∧
      exec (.dropFrame c f) s = ends ∧ exec (.mark c f) s = ends) ∧
    (type ≠ 1 → exec (.cand c f) s = ends) ∧
    (type ≠ 2 → exec (.placeFrame c f) s = ends) ∧
    (type ≠ 3 → exec (.dropFrame c f) s = ends) ∧
    (type ≠ 4 → exec (.mark c f) s = ends))

/-- SeqOpen succeeds on a Free slot alone, and a failed one changes nothing. For a SeqOpen that nothing holds back: one that fails a check of its body,
shape, formats, owner or slot retires with that status and changes nothing else. With every other check passed: on an Active, Frozen or Closing slot
it fails with ST_SLOT_BUSY and on a Retired one with ST_SLOT_RETIRED; on a Free slot whose directory nodes fit it retires with ST_OK and the handle
with the slot's current GEN, from a state in which the slot is Active, with LENGTH 0, POS_BASE, shape, formats, MODEL_TAG and OWNER of the body and
the same GEN, and in which every other slot of the channel, and every other channel's table, is as before. (When the node pool is too small it fails
with ST_NODES_FULL and changes nothing.) (R51) -/
def Obligations.SeqOpenGoesByState : Prop :=
  ∀ (c : Ch) (r : Sys2Proof.Ring) (s : State), runsNow s c r 0x40 = true → smWf SeqEntry.free (s.ch c).obj.seqs = true →
    let d := headDesc s c r
    let h := handleOf (fld d 1023 976)
    let e := seqAt s c h.slot
    let pos := fld d 942 915
    let ring := bit d 891
    let fails (st : St) : Prop := exec (.seqOpen c r) s = .next (retire s c r (cplSt st))
    (∀ st : St, openBad s c d = some st → fails st) ∧
    (h.home = c.val → h.slot < seqSlots s c → h.gen = 0 → fld d 864 128 = 0 → pos % 64 = 0 → fld d 945 943 < 5 →
      (if ring then pos = 0 ∧ 2 ≤ fld d 886 865 else fld d 890 887 = 0 ∧ fld d 886 865 = 0) →
      formatsOk (fld d 945 943) (fld d 902 898) (fld d 897 893) = true → keyInCh s c (fld d 914 903) = true →
      (e.state = .active ∨ e.state = .frozen ∨ e.state = .closing → fails .slotBusy) ∧
      (e.state = .retired → fails .slotRetired) ∧
      (e.state = .free → allocRun s c (dirNodes (fld d 959 952 + 1) (fld d 951 946 + 1) h.slot) = none → fails .nodesFull) ∧
      (e.state = .free → allocRun s c (dirNodes (fld d 959 952 + 1) (fld d 951 946 + 1) h.slot) ≠ none →
        ∃ t : State, exec (.seqOpen c r) s = .next (retire t c r (cplRes .ok (handleBits e.gen.toNat c.val h.slot))) ∧
          let q := seqAt t c h.slot
          q.state = .active ∧ q.length = 0 ∧ q.posBase.toNat = pos ∧ q.gen = e.gen ∧ q.modelTag.toNat = fld d 975 960 ∧
          q.layersM1.toNat = fld d 959 952 ∧ q.headsM1.toNat = fld d 951 946 ∧ q.headDim.toNat = fld d 945 943 ∧
          q.kFmt.toNat = fld d 902 898 ∧ q.vFmt.toNat = fld d 897 893 ∧ q.owner.toNat = fld d 914 903 ∧ q.ring = ring ∧ q.lossOk = bit d 892 ∧
          (∀ k : Nat, k ≠ h.slot → seqAt t c k = seqAt s c k) ∧ (∀ x : Ch, x ≠ c → (t.ch x).obj = (s.ch x).obj)))

/-- The checks of a sequence handle come in their order and before every other check of the body. For BlockCreate, Attach, Prune and SetProtect (naming
a sequence) that nothing holds back and that have not been admitted before, whatever the rest of the body holds: a HOME_CH of 12 to 15 or a SLOT
beyond the table retires with ST_OUT_OF_RANGE; then a home other than the ring's channel with ST_WRONG_CHANNEL; then a Retired slot with
ST_SLOT_RETIRED; then another generation or a Free or Closing slot with ST_STALE_HANDLE; then a Frozen sequence with ST_SEQ_FROZEN; and the
descriptor has no other effect. SeqClose is checked likewise but accepts a Frozen sequence. (R54, R48, R49, R50, R8, R211, R212, R219, R224) -/
def Obligations.HandleChecksComeInOrder : Prop :=
  ∀ (c : Ch) (r : Sys2Proof.Ring) (s : State), freshHead s c r = true →
    let d := headDesc s c r
    let h := handleOf (fld d 1023 976)
    let e := seqAt s c h.slot
    let status (frozenOk : Bool) : Option St :=
      if 12 ≤ h.home ∨ 2 ^ fld (s.ch c).cfg.objCfg.toNat 31 27 ≤ h.slot then some .outOfRange
      else if h.home ≠ c.val then some .wrongChannel
      else if e.state = .retired then some .slotRetired
      else if e.gen.toNat ≠ h.gen ∨ e.state = .free ∨ e.state = .closing then some .staleHandle
      else if e.state = .frozen ∧ frozenOk = false then some .seqFrozen
      else none
    ∀ st : St,
      (status false = some st →
        (runsNow s c r 0x44 = true → exec (.blockCreate c r) s = .next (retire s c r (cplSt st))) ∧
        (runsNow s c r 0x42 = true → exec (.attach c r) s = .next (retire s c r (cplSt st))) ∧
        (runsNow s c r 0x45 = true → exec (.prune c r) s = .next (retire s c r (cplSt st))) ∧
        (runsNow s c r 0x46 = true → fld d 975 974 = 0 → exec (.setProtect c r) s = .next (retire s c r (cplSt st)))) ∧
      (status true = some st → runsNow s c r 0x41 = true → exec (.seqClose c r) s = .next (retire s c r (cplSt st)))

/-- A close marks the slot Closing, waits for USE_COUNT, and ends it Free with the next generation or Retired. For a SeqClose that nothing holds back on
an Active or Frozen sequence of this channel: the slot becomes Closing with its SLOT record, and it begins to release at once when USE_COUNT is 0,
else waits; SEQ_CLOSE_RELEASE does so for a waiting close once USE_COUNT is 0, ring by ring. The close releases its entries in order; where no full
release log and no sweep makes it wait (closeFree) it releases all (releaseSeq), ends the slot and retires with ST_OK, and one that waited goes on
at its own row. On a canonical table, the last step of a close leaves the slot Free with GEN one more, or, when GEN was 0xFFFF, Retired with GEN
0xFFFF; every other field of the entry returns to its initial value and every other slot is as before. (R52, R53, R80) -/
def Obligations.CloseAndItsEndAdvanceTheGeneration : Prop :=
  (∀ (c : Ch) (r : Sys2Proof.Ring) (s : State), runsNow s c r 0x41 = true →
    let d := headDesc s c r
    let h := handleOf (fld d 1023 976)
    seqCheck s c h true = none → fld d 975 128 = 0 →
    let t := jSlot (modSeq s c h.slot (fun e => { e with state := .closing })) c h.slot
    exec (.seqClose c r) s = .next (if (seqAt t c h.slot).useCount = 0 then closeRetire t c r h.slot else setWait t c r (.closeDrain h.slot))) ∧
  (∀ (c : Ch) (s : State) (slot : Nat), isUp s c = true → (s.ring c 8).wait = .closeDrain slot → (seqAt s c slot).useCount = 0 →
    (∀ q : Sys2Proof.Ring, q ≠ 8 → ∀ k : Nat, (s.ring c q).wait ≠ .closeDrain k) →
    exec (.seqCloseRelease c) s = .next (closeRetire s c 8 slot)) ∧
  (∀ (c : Ch) (r : Sys2Proof.Ring) (s : State) (slot : Nat), closeFree c r slot ((seqPtes s c slot).map (fun k => k.1)) s = true →
    closeRetire s c r slot = retire (closeEnd (releaseSeq s c slot) c slot) c r (cplSt .ok)) ∧
  (∀ (c : Ch) (r : Sys2Proof.Ring) (s : State) (ks : List Nat) (a b : Nat), isUp s c = true → (s.ring c r).wait = .dropping ks a b →
    fld (headDesc s c r) 127 120 = 0x41 →
    exec (.seqClose c r) s = .next (underOwn s c r (closeGo c r (handleOf (fld (headDesc s c r) 1023 976)).slot ks))) ∧
  (∀ (c : Ch) (s : State) (slot : Nat), smWf SeqEntry.free (s.ch c).obj.seqs = true →
    let e := seqAt s c slot
    let t := closeEnd s c slot
    seqAt t c slot = (if e.gen = 0xFFFF then { SeqEntry.free with gen := 0xFFFF, state := .retired } else { SeqEntry.free with gen := e.gen + 1 }) ∧
    ∀ k : Nat, k ≠ slot → seqAt t c k = seqAt s c k)

/-- BlockCreate, Attach, Prune, SetProtect, TilthScan and Sweep with nothing in their way. For a descriptor that nothing holds back, not admitted
before, on an Active sequence whose USE_COUNT has room and whose pages no waiting append or sweep holds: a BlockCreate that passes its checks
converts the page and retires; an Attach that passes and whose page maps grow raises every record's REFCNT, writes a Shared entry for each layer and
KV head, sets LENGTH to 64 BLOCK_NO + 64 and PREFIX_PB, and retires with ST_OK; a Prune on a sequence with LOSS_OK acts on each entry in range in
order and, where nothing makes it wait (pruneEnds), retires with its status and counts, and one that waited goes on at its own row; a SetProtect
writes PROTECT and TILTH in the summaries of the Private entries in range and counts them; a TilthScan writes the MAX lowest current scores of at
most CLASS_MAX in ascending order; a Sweep over all blocks starts and asks every Sieve that is up. (R210, R211, R212, R213, R219, R224, R225, R227,
R53, R54, R207) -/
def Obligations.ObjectDescriptorsRun : Prop :=
  (∀ (c : Ch) (r : Sys2Proof.Ring) (s : State), freshHead s c r = true →
    let d := headDesc s c r
    let h := handleOf (fld d 1023 976)
    let q := seqAt s c h.slot
    let u := countUse s c r h.slot
    let pairs := pairsOf (layersOf q) (headsOf q)
    seqCheck s c h false = none → useFull s c h.slot = false →
    (runsNow s c r 0x44 = true →
      let p := fld d 975 954
      q.posBase.toNat ≤ 64 * p → 64 * p + 64 ≤ q.length.toNat → fld d 761 128 = 0 → createBad u c d h.slot = none →
      pairs.any (fun x => appendHolds u c (pteKey h.slot x.1 x.2 p)) = false →
      exec (.blockCreate c r) s = .next (createRun u c r d h.slot)) ∧
    (runsNow s c r 0x42 = true →
      let v := fld d 975 936
      let p := (pbAt u c (pbIndexOf v).slot).blockNo.toNat
      ∀ w : State, fld d 935 128 = 0 → attachBad u c h.slot v = none →
      (pairsOf (layersOf (seqAt u c h.slot)) (headsOf (seqAt u c h.slot))).any (fun x => appendHolds u c (pteKey h.slot x.1 x.2 p)) = false →
      changeWaits u c (some r) (pbIndexOf v).slot = false →
      growMaps u c h.slot ((pairsOf (layersOf (seqAt u c h.slot)) (headsOf (seqAt u c h.slot))).map (fun x => (x.1, x.2, p))) = some w →
      let w1 := incBlock w c (pbIndexOf v).slot
      let w2 := (pairsOf (layersOf (seqAt u c h.slot)) (headsOf (seqAt u c h.slot))).foldl
        (fun t x => setPte t c (pteKey h.slot x.1 x.2 p) { Pte.empty with kind := .shared, loc := BitVec.ofNat 45 v }) w1
      exec (.attach c r) s = .next (retire (modSeq w2 c h.slot
        (fun e => { e with length := BitVec.ofNat 29 (64 * p + 64), prefixPb := BitVec.ofNat 40 v, written := true })) c r (cplSt .ok))) ∧
    (runsNow s c r 0x45 = true →
      let x := pruneRange d
      let es := entriesIn u c h.slot x
      ∀ y : State × St × Nat × Nat, rangeOut x (layersOf q) (headsOf q) = false → fld d 902 128 = 0 → q.lossOk = true →
      pruneEnds c r h.slot (bit d 903) (es.map (fun k => k.1)) 0 0 u = some y →
      exec (.prune c r) s = .next (retire y.1 c r (cplRes y.2.1 (y.2.2.1 % 2 ^ 24 + y.2.2.2 % 2 ^ 24 * 2 ^ 24)))) ∧
    (runsNow s c r 0x46 = true →
      let x := protectRange d
      fld d 975 974 = 0 → rangeOut x (layersOf q) (headsOf q) = false → fld d 899 128 = 0 →
      let summs := ((entriesIn u c h.slot x).filter (fun k => k.2.2.kind == .priv)).map (fun k => k.2.2.summIdx.toNat)
      exec (.setProtect c r) s = .next (retire (protectAll u c (BitVec.ofNat 2 (fld d 901 900)) summs) c r (cplRes .ok (summs.length % 2 ^ 24))))) ∧
  (∀ (c : Ch) (r : Sys2Proof.Ring) (s : State) (ks : List Nat) (n m : Nat), isUp s c = true → (s.ring c r).wait = .dropping ks n m →
    fld (headDesc s c r) 127 120 = 0x45 →
    exec (.prune c r) s = .next (underOwn s c r
      (pruneGo c r (handleOf (fld (headDesc s c r) 1023 976)).slot (bit (headDesc s c r) 903) ks n m))) ∧
  (∀ (c : Ch) (r : Sys2Proof.Ring) (s : State), runsNow s c r 0x47 = true →
    let d := headDesc s c r
    let first := fld d 1023 1000
    let count := fld d 999 976 + 1
    let mx := fld d 975 964 + 1
    let dst := fld d 963 940
    fld d 937 128 = 0 → first + count ≤ summSlots s c → dst % 64 = 0 → inT0 dst (8 * mx) = true → touchesPriv dst (8 * mx) = false →
    let ms := (s.ch c).obj.summs.filter (fun e => decide (first ≤ e.1 ∧ e.1 < first + count))
    let scores := (ms.map (fun e => ((currentScore s c (s.ch c).obj.touch e.2).toNat, e.1))).filter (fun e => decide (e.1 / 16384 ≤ fld d 939 938))
    let rep := (sortBy scanLe scores).take mx
    exec (.tilthScan c r) s = .next (retire (t0Write s c dst (rep.flatMap (fun e => natLe (e.2 % 2 ^ 24 * 2 ^ 40 + e.1 % 2 ^ 16 * 2 ^ 24) 8)))
      c r (cplRes .ok (rep.length % 2 ^ 16 + ms.length % 2 ^ 24 * 2 ^ 24)))) ∧
  (∀ (c : Ch) (r : Sys2Proof.Ring) (s : State), runsNow s c r 0x43 = true →
    let d := headDesc s c r
    fld d 990 128 = 0 → bit d 991 = true → fld d 1023 992 = 0 →
    let x : SweepCtx := { blocks := sweepBlocks s c true 0, q := [], waiting := (allCh.filter (isUp s)).map (fun t => t.val) }
    exec (.sweep c r) s = .next (setWait (modRefPort s c (fun p =>
      { p with sweep := some x, scope := (if p.held = [] then [] else p.scope) ++ x.blocks })) c r .sweep))

/-- After a sweep the oldest held change is applied, and a poisoned page's sharers get their events. With no sweep running and room in the release log,
the oldest change that the reference port held is applied: a Sieve report is taken from the queue and applied as at its arrival; a ring's change by
letting its descriptor run on, the change keeping its place in the queue until the descriptor retires; a poisoning is taken and applied as R229 step
3 states where its block still stands and the record is not yet poisoned, else it changes nothing more. While a sweep runs nothing is applied, and
while the log is full the port waits. The oldest scan that is due raises EV_PAGE_POISON (0x0302) once for every Active, Frozen or Closing sequence
of the channel whose entry for that layer, KV head and page is Shared and names the block, with the sequence's handle, the block index, layer, KV
head and page number. (R228, R229, R231, R237, R21) -/
def Obligations.HeldChangesAndScansRun : Prop :=
  (∀ (c : Ch) (s : State) (h : HeldChange) (rest : List HeldChange), (s.ch c).obj.port.held = h :: rest →
    let u := modRefPort s c (fun p => { p with held := rest })
    ((s.ch c).obj.port.sweep ≠ none → exec (.heldReferenceChange c) s = .next s) ∧
    ((s.ch c).obj.port.sweep = none → logFull s c = true → exec (.heldReferenceChange c) s = .next (noteFull s c)) ∧
    ((s.ch c).obj.port.sweep = none → logFull s c = false →
      (∀ x : Report, h = .report x → isUp s c = true → exec (.heldReferenceChange c) s = .next (applyReport u c x)) ∧
      (∀ q : Sys2Proof.Ring, h = .ring q.val → (s.ring c q).wait = .held → exec (.heldReferenceChange c) s = .next (setWait s c q .resumed)) ∧
      (∀ (k : Nat) (v : BitVec 40), h = .poison k v →
        exec (.heldReferenceChange c) s = .next (if pbNames u c v.toNat = true ∧ (recAt u c k).poison = false then applyPoison u c k else u)))) ∧
  (∀ (c : Ch) (s : State) (x : PoisonScan) (rest : List PoisonScan), (s.ch c).obj.port.scans = x :: rest →
    let p := (pbAt s c (pbIndexOf x.pb.toNat).slot).blockNo.toNat
    let names (slot : Nat) : Bool :=
      let q := pteAt s c (pteKey slot x.layer x.head p)
      q.kind == .shared && fld q.loc.toNat 39 0 == x.pb.toNat
    let hits := (s.ch c).obj.seqs.filter (fun e => (e.2.state == .active || e.2.state == .frozen || e.2.state == .closing) && names e.1)
    exec (.poisonScan c) s = .next (hits.foldl (fun t e => raiseC t c 0x0302 sevErr
      (natLe (handleBits e.2.gen.toNat c.val e.1) 6 ++ natLe x.pb.toNat 5 ++ natLe x.layer 1 ++ natLe x.head 1 ++ natLe p 3))
      (modRefPort s c (fun p => { p with scans := rest }))))

/-- The tilth score ranks by protection class first, and within a class more mass and less age rank no lower. For every TILTH_CFG, MASS, PROTECT and
age: the score's bits 15:14 are the class (PROTECT 0 gives 0, 2 gives 1, 1 gives 2, 3 gives 3); at equal mass and class an older page scores no
higher; at equal age and class a page whose MASS is a positive normal number scores no lower than one with a smaller positive normal MASS; and a
MASS that is 0, negative, subnormal or NaN scores as the mass 0. (R221, R222) -/
def Obligations.TilthRanksByClassThenMassThenAge : Prop :=
  ∀ (cfg m1 m2 : Word32) (p : BitVec 2) (a1 a2 : Nat),
    let score (m : Word32) (a : Nat) : Nat := (tilthScore cfg m p a).toNat
    score m1 a1 / 2 ^ 14 = (match p.toNat with | 0 => 0 | 1 => 2 | 2 => 1 | _ => 3) ∧
    (a1 ≤ a2 → score m1 a2 ≤ score m1 a1) ∧
    (m1.toNat ≤ m2.toNat → m2.toNat < 0x7F800000 → score m1 a1 ≤ score m2 a1) ∧
    ((m1.toNat < 0x00800000 ∨ 0x7F800000 < m1.toNat) → score m1 a1 = score 0 a1)

/-- REFCNT rises and falls by one, sticks at 65,535, and never falls below 0. On canonical tables, for every record of a block in channel c: an
increment raises REFCNT by 1 unless it stands at 65,535, where it stays; the increment that reaches 65,535 raises EV_REFCNT_STUCK (0x0303) with the
block index, layer and head, and no other does; a decrement lowers REFCNT by 1 unless it is stuck or 0; at 0 it stays 0 and raises EV_REFCNT_FAULT
(0x0304); a stuck record stays under both. Every other record is unchanged. A Sweep sets a record, stuck or not, to the lesser of 65,535 and its
count S + Q: its recount of a block leaves each record either at that count or freed with the block. (R207) -/
def Obligations.ReferenceCountsStick : Prop :=
  ∀ (s : State) (c : Ch) (key : Nat), smWf Pte.empty (s.ch c).obj.pbRecs = true →
    let e := recAt s c key
    let n := e.refcnt.toNat
    let det := natLe (pbIndexAt s c (key / 2 ^ 14)) 5 ++ natLe (key % 2 ^ 14 / 64) 1 ++ natLe (key % 64) 1
    (n = 65535 → incRec s c key = s ∧ decRec s c key = s) ∧
    (n < 65534 → incRec s c key = setRec s c key { e with refcnt := e.refcnt + 1 }) ∧
    (n = 65534 → incRec s c key = raiseC (setRec s c key { e with refcnt := 65535 }) c 0x0303 sevWarn det) ∧
    (0 < n → n < 65535 → decRec s c key = setRec s c key { e with refcnt := e.refcnt - 1 }) ∧
    (n = 0 → decRec s c key = raiseC s c 0x0304 sevErr det) ∧
    (∀ k : Nat, k ≠ key → recAt (incRec s c key) c k = recAt s c k ∧ recAt (decRec s c key) c k = recAt s c k) ∧
    (∀ (q : SMap Nat) (slot : Nat), smWf PbSlot.free (s.ch c).obj.pbs = true → key ∈ pbRecKeys s c slot →
      let t := (recount s c q slot).2
      (recAt t c key).refcnt.toNat = min 65535 (sharers s c slot (key % 2 ^ 14 / 64) (key % 64) + smGet 0 q slot) ∨ (pbAt t c slot).used = false)

/-- Place, Promote, Demote, Drop and Persist with nothing in their way. For a Place, Promote or Demote of a sequence that nothing holds back, not
admitted before, whose handle passes R54 and whose USE_COUNT has room, with no freeze of the sequence under way and the checks of R249 passed
(fields, range, opcode, destination list, key): the pages in range that the opcode acts on, in layer, KV head, page order, become its moves, each
with its list entry, the pages are marked with PGATE_SET and the moves begin; a whole Demote to T2 first makes the sequence Frozen. A Drop on a
sequence with LOSS_OK goes over the Private pages in range that are neither poisoned nor gated: while the release log has room and no other ring's
move or waiting append holds the entry, it makes each Empty that still is so, and retires with the pages acted on and skipped, Empty pages in range
among them (that a WHOLE range and the Empty pages count so is the model's choice, log 140); one that waited goes on at its own row. For a Persist
that nothing holds back, on media that is present and writable, when the channel takes the owner's key: for a sequence, not admitted before, whose
handle passes R54 and whose pages meet the conditions of R258, when the homes it gives and the dirty pieces it writes back are accepted, the image
that names its units is handed to Marl, which has room, and the ring waits for its record to be durable (writeImage); for a region in pooled mode
whose lines no host holds and no request waits at, its dirty pieces are written back and its image, whose units hold no page, is handed over
likewise; one that waited for acceptance goes on at its own row. (R249, R250, R251, R254, R256, R257, R167, R168, R53, R258, R273, R248) -/
def Obligations.PlacementsBegin : Prop :=
  (
  ∀ (c : Ch) (r : Sys2Proof.Ring) (s : State), freshHead s c r = true →
    let d := headDesc s c r
    let h := handleOf (fld d 1023 976)
    let u := countUse s c r h.slot
    let o := seqObj u c h.slot
    fld d 975 974 = 0 → fld d 859 128 = 0 → useFull s c h.slot = false →
    (∀ x ∈ ([(.place c r, 0x11), (.promote c r, 0x12), (.demote c r, 0x13)] : List (Instr × Nat)), runsNow s c r x.2 = true →
      seqCheck s c h (x.2 == 0x12) = none → freezing s c h.slot = false →
      placeBad1 x.2 d true = false → spanBad (placeSpan d o.layers o.heads true) o.layers o.heads = false → placeBad3 u c x.2 d o = none →
      let ps := objPages u c o (placeSpan d o.layers o.heads true)
      let acts := ps.filter (fun p => !moveSkips u c x.2 (placeTo d) false p.2.2)
      let n := (acts.filter (fun p => !goesHome u c x.2 (placeTo d) p.2.2)).length
      let vs := placeList u c d n
      let y := placeCtx x.2 d 0 o (ps.length - acts.length + emptyPages u c d o (placeSpan d o.layers o.heads true) ps) (planMoves u c r x.2 d o acts vs)
      inT0 (fld d 895 872) (8 * n) = true → listBad u c d o vs = none → keyLoaded u o.owner = true →
      (freezes y = false → exec x.1 s = .next (beginMoves u c r y)) ∧
      (freezes y = true →
        let w := jSlot (modSeq u c h.slot (fun e => { e with state := .frozen })) c h.slot
        exec x.1 s = .next (if (seqAt w c h.slot).useCount.toNat ≤ 1 then beginMoves w c r y else setWait w c r (.freeze h.slot y)))) ∧
    (runsNow s c r 0x14 = true → seqCheck s c h true = none → placeBad1 0x14 d true = false →
      spanBad (placeSpan d o.layers o.heads true) o.layers o.heads = false → (seqAt u c h.slot).lossOk = true →
      let ps := entriesIn u c h.slot (placeSpan d o.layers o.heads true)
      let acts := ps.filter (fun p => p.2.2.kind == .priv && !p.2.2.poison && p.2.2.pgate == 0xFFF)
      exec (.drop c r) s = .next (dropGo c r (acts.map (fun p => p.1)) 0
        (ps.length - acts.length + emptyPages u c d o (placeSpan d o.layers o.heads true) ps) u))) ∧
  (∀ (c : Ch) (r : Sys2Proof.Ring) (k : Nat) (ks : List Nat) (acted skipped : Nat) (s : State), logFullFor s c r = false → dropWaits s c r k = false →
    dropGo c r [] acted skipped s = retire s c r (cplRes .ok (acted % 2 ^ 24 + skipped % 2 ^ 24 * 2 ^ 24)) ∧
    dropGo c r (k :: ks) acted skipped s =
      if dropSkips (pteAt s c k) = true then dropGo c r ks acted (skipped + 1) s else dropGo c r ks (acted + 1) skipped (dropOne s c k)) ∧
  (∀ (c : Ch) (r : Sys2Proof.Ring) (ks : List Nat) (acted skipped : Nat) (s : State), isUp s c = true → (s.ring c r).wait = .dropping ks acted skipped →
    fld (headDesc s c r) 127 120 = 0x14 → exec (.drop c r) s = .next (underOwn s c r (dropGo c r ks acted skipped))) ∧
  (
  (∀ (c : Ch) (r : Sys2Proof.Ring) (env : Env) (s : State), runsNow s c r 0x15 = true →
    let d := headDesc s c r
    let h := handleOf (fld d 1023 976)
    let s1 := takeEnv s c env
    let u := countUse s1 c r h.slot
    let o := seqObj u c h.slot
    freshHead s1 c r = true → fld d 975 974 = 0 → seqCheck s1 c h false = none → fld d 859 128 = 0 → useFull s1 c h.slot = false →
    placeBad1 0x15 d true = false → placeWhole d = true → hasT2 (u.marl c) = true → (u.marl c).readonly = false → keyLoaded u o.owner = true →
    let ps := objPages u c o (placeSpan d o.layers o.heads true)
    let own := imagePages ps true
    let homes := if placeTo d = 2 ∧ isPooled u c = true then own.filter (fun p => needsHome u c p.2.2) else []
    let vs := placeList u c d homes.length
    ∀ (t w : State) (n : Nat), persistBad u c (placeTo d) o ps = none → inT0 (fld d 895 872) (8 * homes.length) = true → listBad u c d o vs = none →
      homesOwn u c (placeCls d) own (homes.zip vs) = none → handing u c r = none →
      let k := useKey u c o.owner
      let pages := imagePages (objPages k c o (placeSpan d o.layers o.heads true)) true
      keyHere k c o.owner = true →
      giveHomes c (placeCls d) o.owner o.size (pages.map (fun p => p.1)) ((homes.map (fun p => (p.1, false))).zip vs) k 0 = ([], none, t, n) →
      persistDirty c o.owner o.size (pages.map (fun p => (p.1, false, p.2.1))) (addEvicted t c r n) = .done w →
      let units := (pages.map (fun p => pageAt w c false p.1)).flatMap (fun p => (imageLoc w c p).flatMap (fun y => unitsOf y.1 y.2))
      exec (.persist c r env) s = .next (writeImage w c r 0 (BitVec.ofNat 48 (fld d 1023 976)) units (imageBody w c o) o.owner
        (pages.map (fun p => p.1)) (hdrOf d).tag)) ∧
  (∀ (c : Ch) (r : Sys2Proof.Ring) (env : Env) (s : State), runsNow s c r 0x15 = true →
    let d := headDesc s c r
    let id := fld d 1007 976
    let u := takeEnv s c env
    let g := regionAt u (regIdx id)
    let k := useKey u c g.owner.toNat
    fld d 975 974 = 2 → fld d 1023 1008 = 0 → fld d 859 128 = 0 → regionCheck u id = none → fld d 972 901 = 0 → placeWhole d = true →
    toTierOk 0x15 (placeTo d) = true → placeCls d < 6 → placeGate d = 0xFFF → isPooled u c = true → hasT2 (u.marl c) = true →
    (u.marl c).readonly = false → handing u c r = none → keyHere k c g.owner.toNat = true →
    linesReady k (.ring c r) ((dirtyPieces k c g).flatMap (fun p => (linesOf (4096 * p.1) 4096).map (fun x => (c, x, false)))) = true →
    devOn k (.ring c r) = false →
    ∀ (t : State) (n : Nat), persistPieces c g.owner.toNat (dirtyPieces k c g) k 0 = .ok t n →
      let w := addEvicted t c r n
      pageWithin w c (regionUnits w c g) = none →
      exec (.persist c r env) s = .next (writeImage w c r 2 (BitVec.ofNat 48 id) (regionUnits w c g) (.region g.version g.root g.runs) g.owner.toNat []
        (hdrOf d).tag)) ∧
  (∀ (c : Ch) (r : Sys2Proof.Ring) (env : Env) (s : State) (homes : List ((Nat × Bool) × Nat)), isUp s c = true → (s.ring c r).wait = .persistGo homes →
    exec (.persist c r env) s = .next (underOwn (takeEnv s c env) c r (fun s => persistWaited s c r homes))))

/-- Page moves between T1, T2 and T3 end, start and are answered. For a move of a ring's descriptor that is in the in-flight table, neither has ended
nor waits at T3, while the release log and the journal have room: PAGE_MOVE_END runs it (moveRun) under the settings that its descriptor began
under. There, unless something holds the page (R252): a page that the opcode skips as it stands ends skipped; one whose owner's key the channel no
longer has ends failed with ST_KEY_EMPTY; a page whose data cannot be read ends poisoned, and takes the effect of a loss (loseRead); otherwise its
bytes are stored at the destination (in T1, with no guard on the frame, or as a program that Marl accepts), the record is updated and the move ends
done. T3_MOVE_RESUME starts a T3 move that nothing stands before (moveStart3): a Place to a host-memory window reads the page and sends its
ciphertext to the window's address. The answer to a host-memory request ends its move, done or with ST_LINK_TIMEOUT, and windows that waited on it
become invalid. (R163, R251, R252, R253, R254, R261, R237, R389, R393, R392, R26) -/
def Obligations.PageMovesEnd : Prop :=
  (∀ (c : Ch) (r : Sys2Proof.Ring) (k : Nat) (env : Env) (s : State) (x : MoveCtx) (m : Move), (s.ring c r).wait = .moves x → x.moves[k]? = some m →
    m.ended = false → m.wait3 = false → moveT3 s c x m = false → inTable x k = true → logFull s c = false → journalOver s c = false →
    exec (.pageMoveEnd c r k env) s = .next (underOwn s c r (fun s => moveRun s c r x k m env))) ∧
  (∀ (c : Ch) (r : Sys2Proof.Ring) (k : Nat) (env : Env) (s : State) (x : MoveCtx) (m : Move),
    let s1 := takeEnv s c env
    let p := moveRef s1 c x m
    let size := moveSize s1 c x
    let f := fld m.dest.toNat 25 0
    let s2 := useKey s1 c x.owner.toNat
    moveBlocked s1 c r m = false →
    (moveSkips s1 c x.opcode.toNat x.toTier.toNat m.isPb p.pte = true → moveRun s c r x k m env = moveEnds s1 c r x k m .skipped) ∧
    (moveSkips s1 c x.opcode.toNat x.toTier.toNat m.isPb p.pte = false →
      (keyHere s2 c x.owner.toNat = false → moveRun s c r x k m env = moveEnds s2 c r x k m (.failed .keyEmpty)) ∧
      (keyHere s2 c x.owner.toNat = true → m.homed = false →
        (∀ t : State, readPage s2 c p size = (none, t) → moveRun s c r x k m env = moveEnds (loseRead t c p size) c r x k m .poisoned) ∧
        (∀ (t : State) (bs : List Byte), readPage s2 c p size = (some bs, t) →
          (x.toTier = 1 → guarded t c f (f + 2 ^ x.cls.toNat) = false →
            moveRun s c r x k m env = moveEnds (moveDone (t1Write t c x.owner.toNat (frameAddr m.dest) bs) c x m) c r x k m .done) ∧
          (∀ (w : State) (n : Nat), x.toTier = 2 →
            programFrame t c (placeStream x) x.owner.toNat x.cls.toNat m.dest bs (movedKeys x) = .ok w n →
            moveRun s c r x k m env = moveEnds (moveDone (noteEvicted w c r n) c x m) c r x k m .done))))) ∧
  (∀ (c : Ch) (r : Sys2Proof.Ring) (s : State) (x : MoveCtx) (m : Move), (r = 4 ∨ r = 5) → (s.ring c r).wait = .moves x → x.moves = [m] →
    m.ended = false → m.wait3 = false → moveT3 s c x m = true → inTable x 0 = true → idleMoves3 s c (if r = 4 then 5 else 4) = [] →
    exec (.t3MoveResume c r) s = .next (underOwn s c r (fun s => moveStart3 s c r x 0 m))) ∧
  (∀ (c : Ch) (r : Sys2Proof.Ring) (s : State) (x : MoveCtx) (m : Move) (l : Ld), x.toTier = 3 → moveBlocked s c r m = false →
    let p := moveRef s c x m
    let w := windowAt s c (t3Window m.dest)
    let s2 := useKey s c x.owner.toNat
    moveSkips s c x.opcode.toNat 3 m.isPb p.pte = false → keyHere s2 c x.owner.toNat = true → w.valid = true → w.host = true →
    t3Offset m.dest + ceilDiv (moveSize s c x) 2048 ≤ w.len → logFull s2 c = false →
    ∀ (t : State) (bs : List Byte), readPage s2 c p (moveSize s c x) = (some bs, t) → ldOfCh t c = some l → (t.ld l).busMaster = true →
      moveStart3 s c r x 0 m = moveSent (emit t (.hostWrite l.val ((w.base + t3Offset m.dest) * 2048)
        (t3Encrypt t c x.owner.toNat m.dest bs))) c r 0) ∧
  (∀ (c : Ch) (r : Sys2Proof.Ring) (k : Nat) (data : List Byte) (s : State) (x : MoveCtx) (m : Move), (s.ring c r).wait = .moves x → x.moves[k]? = some m →
    m.ended = false → m.wait3 = true → (windowAt s c (t3Window (moveLoc3 s c x m))).host = true →
    exec (.hostMemoryRequestDone c r k true data) s =
      .next (windowsStep (underOwn s c r (fun s => moveEnds s c r x k m (.failed .linkTimeout))) c) ∧
    (x.stopped = false → x.toTier = 3 → logFull s c = false →
      exec (.hostMemoryRequestDone c r k false data) s =
        .next (windowsStep (underOwn s c r (fun s => moveEnds (moveDone s c x m) c r x k m .done)) c)))

/-- A move's end writes TIER and LOC or leaves them, clears PGATE, adds 1 to the gate, and touches no other page. On canonical tables, for a move of a
descriptor with PGATE_SET, whatever gate its page carries (one that another ring's move has set included): when it succeeds the page's record has
the new TIER, FRAME_CLASS and LOC, DIRTY 0 and PGATE 0xFFF; when it fails the record keeps its TIER and LOC and has PGATE 0xFFF. Either way the
gate's count is one more modulo 2^32 and every other gate's count, and every other page-table entry and page record of the channel, is as before. In
pooled mode a Promote from T2 to T1 leaves the old T2 location as the page's home; every other successful move leaves the page without a home.
(R163, R253, R254, R242) -/
def Obligations.MoveEndWritesItsRecord : Prop :=
  ∀ (s : State) (c : Ch) (x : MoveCtx) (m : Move), smWf Pte.empty (s.ch c).obj.ptes = true → smWf Pte.empty (s.ch c).obj.pbRecs = true →
    smWf (0 : Word32) (s.ch c).gates = true → smWf HomeEntry.none (s.ch c).obj.homes = true →
    let e := pageAt s c m.isPb m.key
    let t := gateEnd (moveDone s c x m) c x m
    let u := gateEnd s c x m
    x.pgate ≠ 0xFFF → e.kind ≠ .empty →
    pageAt t c m.isPb m.key = { e with tier := x.toTier, cls := x.cls, loc := m.dest, dirty := 0, pgate := 0xFFF } ∧
    pageAt u c m.isPb m.key = { e with pgate := 0xFFF } ∧
    (∀ g : Nat, gateCount t c g = (if g = x.pgate.toNat then gateCount s c g + 1 else gateCount s c g) ∧ gateCount u c g = gateCount t c g) ∧
    (∀ (b : Bool) (k : Nat), (b, k) ≠ (m.isPb, m.key) → pageAt t c b k = pageAt s c b k ∧ pageAt u c b k = pageAt s c b k) ∧
    (isPooled s c = true → homeAt t c e.summIdx.toNat =
      if x.opcode.toNat = 0x12 ∧ e.tier = 2 ∧ x.toTier = 1 then { homed := true, wbBusy := false, home := e.loc.setWidth 35, cls := e.cls }
      else if (homeAt s c e.summIdx.toNat).homed = true then HomeEntry.none else homeAt s c e.summIdx.toNat)

/-- The mover takes the head of the write-back queue, marks it in flight, and hands the unit to Marl. On a running channel with no write-back in flight,
for the head of the write-back queue whose hold is over (or that an idle queue or a queue more than half full lets go): a page piece of a homed T1
page whose bit is still dirty, with the key there, media writable, the home not sealed and no orphaned line in the unit (log 169), sets WB_BUSY of
the home, clears the four bits of its 16 KiB unit (once lost clean pieces of the unit are recovered), and begins the write-back of the whole unit; a
region piece that is still dirty, holds no bad line and whose lines no host holds and no request waits at, clears its bit and begins likewise. The
entry leaves the queue, and the backlog note ends below half full; what waited for room in the queue goes on at once (the model's choice, log 63). A
write-back in flight is handed to Marl, at its beginning and by each later command: accepted, it is over and WB_BUSY is clear; while acceptance
waits it stays in flight. (R243, R244, R245, R246, R248, R273, R329, R336) -/
def Obligations.WriteBackTakesTheHead : Prop :=
  (∀ (c : Ch) (idle : Bool) (env : Env) (s : State) (e : WbEntry) (rest : List WbEntry), (s.ch c).obj.wbq = e :: rest → isUp s c = true →
    (s.ch c).obj.wbRun = none → takeDue s c e idle = true →
    let u := takeEnv s c env
    let v := wbPop u c
    let begins (w : State) (x : WbRun) : State := wbHand (modObj w c (fun o => { o with wbRun := some x })) c x
    (e.region = false → ∀ m : Summ, smGet? (v.ch c).obj.summs e.ref = some m → m.ownerKind = false →
      let key := (summPage v c m).2
      let p := pteAt v c key
      let h := homeAt v c e.ref
      let o := seqObj v c (pteSlot key)
      let i := e.piece.toNat / 4
      p.tier = 1 → p.summIdx.toNat = e.ref → h.homed = true → p.dirty.getLsbD e.piece.toNat = true →
      let k := useKey v c o.owner
      let r := pageRefOf k c false key o.owner
      let pieces := [4 * i, 4 * i + 1, 4 * i + 2, 4 * i + 3]
      keyHere k c o.owner = true → (k.marl c).readonly = false → homeSealed k c h = false → orphanPieces k c r o.size pieces = false →
      ∀ t : State, recoverPieces k c r o.size pieces = some t →
        let bs := homeBytes t c o.owner p o.size i
        let q := homePlace h i bs.length
        exec (.writeBackTake c idle env) s = .next (wbWake (begins
          (setPte (setHome t c e.ref { homeAt t c e.ref with wbBusy := true }) c key
            { p with dirty := p.dirty &&& ~~~ dirtyMask pieces })
          { region := false, ref := e.ref, unit := i, owner := o.owner, lu := q.1, mask := q.2.1, off := q.2.2, bytes := bs, home := h.home }) c)) ∧
    (e.region = true → ∀ (idx : Nat) (x : HomeRun), runAt u c.val (4096 * e.ref) = some (idx, x) →
      let owner := (regionAt u idx).owner.toNat
      let b := runUnit x (4096 * e.ref)
      let k := useKey u c owner
      e.ref ∈ (k.ch c).obj.dirtyMap → pieceBad k c e.ref = false → keyHere k c owner = true → (k.marl c).readonly = false →
      linesReady k (.wb c) ((linesOf (4096 * e.ref) 4096).map (fun y => (c, y, false))) = true → devOn k (.wb c) = false →
      (mapAt k c b.1).sealed = false →
        exec (.writeBackTake c idle env) s = .next (wbWake (begins (modObj (wbPop k c) c (fun y => { y with dirtyMap := y.dirtyMap.filter (fun z => z != e.ref) }))
          { region := true, ref := e.ref, unit := b.2, owner, lu := b.1, mask := (3 <<< (2 * b.2)) % 256, off := 4096 * b.2,
            bytes := t1Plain k c owner (4096 * e.ref) 4096, home := 0 }) c)) ∧
    (v.ch c).obj.wbq = rest) ∧
  (∀ (c : Ch) (idle : Bool) (env : Env) (s : State) (x : WbRun), isUp s c = true → (s.ch c).obj.wbRun = some x →
    let k := useKey s c x.owner
    let h := homeAt s c x.ref
    let ended (w : State) : State := modObj w c (fun o => { o with wbRun := none })
    let handed := handUnit k c 0 x.owner x.lu x.mask x.off x.region x.bytes
    exec (.writeBackTake c idle env) s = .next (wbHand s c x) ∧
    (keyHere k c x.owner = true → (k.marl c).readonly = false →
      (handed = none → x.region = false → h.homed = true → h.home = x.home → homeSealed k c h = false → wbHand s c x = k) ∧
      (∀ t : State, handed = some t →
        (x.region = false → h.homed = true → h.home = x.home → homeSealed k c h = false →
          wbHand s c x = ended (setHome t c x.ref { homeAt t c x.ref with wbBusy := false })) ∧
        (x.region = true → (mapAt k c x.lu).sealed = false → regionNoRoom k c x.lu = false → wbHand s c x = ended t))))

/-- Writes of registers that have no row of their own, and accesses of a wrong size or alignment. For an aligned write that reaches a channel's block:
BASE and CPL_BASE of a ring take bits 23:12 while neither ENABLE nor STOP is 1 and ignore the write otherwise; the release log's BASE likewise while
it is off; its TAIL takes bits 15:0 and lets waiting descriptors go on; LINK_ERR clears the bits written 1; an offset that no register has changes
nothing, and neither does a direct write of an RWL register. In the logical device's block ACCESS_ERR clears the bits written 1, EVQ_CONS takes bits
8:0 and EVQ_CFG its defined bits; in the MSI-X table a vector's four words set the low and high address, the data, and with bit 0 of the last mask
or unmask it. A write of 8 bytes is that of its two words, the lower first (so one to a channel that is down records two events, the model's choice,
log 161). An access not naturally aligned or not of 4 or 8 bytes sets BAD_SIZE and leaves its record in AER (at the bit of log 150, the model's
choice), a read of it returns all ones, and a write of it has no other effect. (R8, R9, R314, R139, R381, R237, R315, R423, R340, R7, R312) -/
def Obligations.RegisterWritesRun : Prop :=
  (∀ (l : Ld) (c : Ch) (r : Sys2Proof.Ring) (v : Word32) (s : State), hostReaches s l c = true → fenced s c = false →
    let at_ (o : Nat) : Nat := 0x100000 + c.val * 0x20000 + o
    let a := BitVec.ofNat 12 (fld v.toNat 23 12)
    ((s.ring c r).enable = false → (s.ring c r).stop = false →
      exec (.registerWrite l (at_ (0x600 + 0x20 * r.val)) (.word v)) s = .next (modRing s c r (fun g => { g with base := a })) ∧
      exec (.registerWrite l (at_ (0x604 + 0x20 * r.val)) (.word v)) s = .next (modRing s c r (fun g => { g with cplBase := a }))) ∧
    ((s.ring c r).enable = true ∨ (s.ring c r).stop = true →
      exec (.registerWrite l (at_ (0x600 + 0x20 * r.val)) (.word v)) s = .next s ∧ exec (.registerWrite l (at_ (0x604 + 0x20 * r.val)) (.word v)) s = .next s) ∧
    exec (.registerWrite l (at_ 0x540) (.word v)) s = .next (if (s.ch c).rel.enable then s else modCh s c (fun ch => { ch with rel := { ch.rel with base := a } })) ∧
    exec (.registerWrite l (at_ 0x54C) (.word v)) s = .next (logProgress (modCh s c (fun ch =>
      { ch with rel := { ch.rel with tail := v.setWidth 16 } })) c) ∧
    exec (.registerWrite l (at_ 0xA08) (.word v)) s = .next (modLink s c (fun p => { p with err := p.err &&& ~~~ (v.setWidth 6) })) ∧
    (∀ o ∈ ([0x000, 0x400, 0x408, 0x500, 0x504, 0x520, 0x530, 0x800, 0x810, 0x820, 0x900, 0x6000, 0x1FFFC] : List Nat),
      exec (.registerWrite l (at_ o) (.word v)) s = .next s)) ∧
  (∀ (l : Ld) (v : Word32) (s : State), ioUp s l = true →
    exec (.registerWrite l 0x2000C (.word v)) s = .next (modLd s l (fun d => { d with access := d.access &&& ~~~ (v.setWidth 5) })) ∧
    exec (.registerWrite l 0x20024 (.word v)) s = .next (modIsland s (fun i => { i with evq := i.evq.set (ldQ l) { i.evq[ldQ l] with cons := v.toNat % 512 } })) ∧
    exec (.registerWrite l 0x20028 (.word v)) s = .next (modIsland s (fun i => { i with evq := i.evq.set (ldQ l) { i.evq[ldQ l] with cfg := v &&& 0x80001FFF } })) ∧
    (∀ vec : Nat, vec < 2048 → exec (.registerWrite l (0x3000C + 16 * vec) (.word v)) s =
      .next (if v.getLsbD 0 then maskVec s l vec else unmaskVec s l vec) ∧
      let e := smGet ((0, 0) : BitVec 64 × Word32) (s.ld l).vecs vec
      let put (a : BitVec 64 × Word32) : State := modLd s l (fun d => { d with vecs := smSet (0, 0) d.vecs vec a })
      exec (.registerWrite l (0x30000 + 16 * vec) (.word v)) s = .next (put (BitVec.ofNat 64 (e.1.toNat / 2 ^ 32 % 2 ^ 32 * 2 ^ 32 + v.toNat), e.2)) ∧
      exec (.registerWrite l (0x30004 + 16 * vec) (.word v)) s = .next (put (BitVec.ofNat 64 (v.toNat % 2 ^ 32 * 2 ^ 32 + e.1.toNat % 2 ^ 32), e.2)) ∧
      exec (.registerWrite l (0x30008 + 16 * vec) (.word v)) s = .next (put (e.1, v)))) ∧
  (∀ (l : Ld) (off : Nat) (v w : Word32) (s t : State), off % 8 = 0 → exec (.registerWrite l off (.word v)) s = .next t →
    (ioUp s l = false → exec (.registerWrite l off (.pair v w)) s = .next s) ∧
    (ioUp s l = true → ioUp t l = true → exec (.registerWrite l off (.pair v w)) s = exec (.registerWrite l (off + 4) (.word w)) t)) ∧
  (∀ (l : Ld) (off size : Nat) (s : State), ioUp s l = true → ¬ ((size = 4 ∨ size = 8) ∧ off % size = 0) →
    let t := modLd (modLd s l (fun d => { d with access := d.access ||| 1 })) l (fun d => { d with aer := d.aer ||| 0x100000 })
    exec (.badRegisterAccess l off size true) s = .next t ∧
    exec (.badRegisterAccess l off size false) s = .next (emit t (.readData l.val (List.replicate size 0xFF))))

/-- A write at the offset of a register that has a row of its own does what that row does, in every state. In every state, whatever the ring, link or
fence and whether or not the write reaches its channel: a 4-byte write at RING_CFG, at a ring's doorbell, in the gate set or add window, at
PACE_CTRL with CLEAR_LOW 1, at SR_SEED, at the release log's configuration with ENABLE 1, at LINK_CFG and at a send-queue doorbell answers exactly
as RING_ENABLE_WRITE, RING_STOP_WRITE or RING_DISABLE_WRITE (by the word's ENABLE and STOP), RING_TAIL_WRITE, GATE_SET_WRITE, GATE_ADD_WRITE,
CLEAR_LOW, SR_SEED_WRITE, RELEASE_LOG_ENABLE_WRITE, LINK_ENABLE_WRITE and SQ_TAIL_WRITE. (R139, R140, R146, R148, R173, R174, R39, R104, R237, R374,
R387, R314) -/
def Obligations.RegisterWriteAgreesWithItsRow : Prop :=
  ∀ (l : Ld) (c : Ch) (r : Sys2Proof.Ring) (g conn : Nat) (v : Word32) (s : State), g < 4095 → conn < 4096 →
    let write (o : Nat) : Host.Outcome State Fault Refusal := exec (.registerWrite l (0x100000 + c.val * 0x20000 + o) (.word v)) s
    (v.getLsbD 31 = true → write (0x608 + 0x20 * r.val) = exec (.ringEnableWrite l c r v) s) ∧
    (v.getLsbD 30 = true → write (0x608 + 0x20 * r.val) = exec (.ringStopWrite l c r v) s) ∧
    (v.getLsbD 31 = false → write (0x608 + 0x20 * r.val) = exec (.ringDisableWrite l c r v) s) ∧
    write (0x1000 + 4 * r.val) = exec (.ringTailWrite l c r v) s ∧
    write (0x60C + 0x20 * r.val) = exec (.ringTailWrite l c r v) s ∧
    write (0x10000 + 4 * g) = exec (.gateSetWrite l c g v) s ∧
    write (0x14000 + 4 * g) = exec (.gateAddWrite l c g v) s ∧
    (v.getLsbD 1 = true → write 0x404 = exec (.clearLow l c v) s) ∧
    write 0x510 = exec (.srSeedWrite l c v) s ∧
    (v.getLsbD 31 = true → write 0x544 = exec (.releaseLogEnableWrite l c v) s) ∧
    write 0xA00 = exec (.linkEnableWrite l c v) s ∧
    write (0x2000 + 4 * conn) = exec (.sqTailWrite l c conn v) s

/-- A CXL.mem request that nothing maps, and a write through a metadata window. For a logical device whose CXL.mem requests reach the device and a DPA
whose line no window and no extent of it maps (extents in partitions 2 and 3 count in 256-byte flit mode alone, R305), where a lapse does not refuse
it first (LapsedAccesses): a read returns all ones with poison and a write is dropped, and either sets UNMAPPED_DPA of ACCESS_ERR. A write through a
metadata window is dropped and sets RO_WRITE. Nothing else of the state changes but the answers sent to the host. (R322) -/
def Obligations.UnmappedAndReadOnlyAccesses : Prop :=
  ∀ (l : Ld) (dpa : Nat) (own : Bool) (env : Env) (data : List Byte) (be : BitVec 64) (s : State), memEnabled s l = true →
    let a := dpa / 64 * 64
    let flag (b : BitVec 5) : State := modLd s l (fun d => { d with access := d.access ||| b })
    ((inDb s l a = true → (s.ld l).lapsed = false) → (∀ w ∈ winsOf s l, w.valid = true → a < staticLen s l → ¬ (w.dpa ≤ a ∧ a < w.dpa + w.len)) →
      (∀ g ∈ s.island.grants, g.live = true → g.ld = l.val → (g.part < 2 ∨ s.host.flit256 = true) → staticLen s l ≤ a → ¬ (g.dpa ≤ a ∧ a < g.dpa + g.len)) →
      exec (.cxlMemRead l dpa own env) s = .next (emit (flag 8) (.readPoison l.val (some (List.replicate 64 0xFF)))) ∧
      exec (.cxlMemWrite l dpa data be) s = .next (emit (flag 8) (.writeDone l.val))) ∧
    (∀ (c : Ch) (t1 : Nat), targetOf s l a = .meta_ c t1 → exec (.cxlMemWrite l dpa data be) s = .next (emit (flag 2) (.writeDone l.val)))

/-- While LAPSED is 1 the device refuses requests to partitions 2 and 3, and LAPSED ends at link-up, binding, FLR or CXL Reset. For a logical device
with LAPSED 1 whose CXL.mem requests reach the device, and a DPA in DC partition 2 or 3, mapped or not: a read returns all ones with poison and a
write is dropped, and each sets LAPSED_ACCESS of ACCESS_ERR (a read may first take up the lines that its command names as lost). After the logical
device's next link-up (of every logical device that exists), binding, FLR or CXL Reset its LAPSED is 0. (R333) -/
def Obligations.LapsedAccesses : Prop :=
  (∀ (l : Ld) (dpa : Nat) (own : Bool) (env : Env) (data : List Byte) (be : BitVec 64) (s : State), memEnabled s l = true → (s.ld l).lapsed = true →
    staticLen s l + 2 * 2 ^ 40 ≤ dpa / 64 * 64 → dpa / 64 * 64 < staticLen s l + 4 * 2 ^ 40 →
    let flag (t : State) : State := modLd t l (fun d => { d with access := d.access ||| 16 })
    (∃ u : State, (u = s ∨ ∃ c : Ch, u = takeEnv s c env) ∧
      exec (.cxlMemRead l dpa own env) s = .next (emit (flag u) (.readPoison l.val (some (List.replicate 64 0xFF))))) ∧
    exec (.cxlMemWrite l dpa data be) s = .next (emit (flag s) (.writeDone l.val))) ∧
  (∀ (l : Ld) (s : State),
    (∀ (rate : LinkRate) (f : Bool), l ∈ lds s → trains s rate.gtps rate.width = true → ∃ t : State, exec (.hostLinkUp rate f) s = .next t ∧ (t.ld l).lapsed = false) ∧
    (s.build.mld = true → ∃ t : State, exec (.ldBind l) s = .next t ∧ (t.ld l).lapsed = false) ∧
    (∃ t : State, exec (.flr l) s = .next t ∧ (t.ld l).lapsed = false) ∧
    (∃ t : State, exec (.cxlReset l) s = .next t ∧ (t.ld l).lapsed = false))

/-- CXL.mem reads and writes through windows and extents, BIRsp, BIConflict and a snoop's timeout. For a request that reaches the device and a DPA that
a frame window maps into a running channel: a read returns the line's plaintext under the window's owner once the channel has taken the owner's key
(where it is orphaned, lost or the key is absent the answer has poison, hostReadLine); a write stores its bytes. A metadata window reads the table's
line. In an HDM-H extent whose region admits the logical device, a read and a write are served and their admission ends; in an HDM-DB extent, a read
that needs no snoop records the holding and returns the line, and a write that needs none is made; each with no request waiting at its line and, for
a write, room in the write-back queue. A BIRsp of a device that an outstanding snoop asks ends the answering device's holding (snoopAnswer); a
BIConflict at the line of one is acknowledged; a snoop not answered in time makes that logical device's lease lapse. (R319, R320, R321, R326, R329,
R330, R331, R332, R345, R349, R358, R334) -/
def Obligations.HostMemoryAccessesRun : Prop :=
  (∀ (l : Ld) (dpa : Nat) (own : Bool) (env : Env) (data : List Byte) (be : BitVec 64) (s : State) (c : Ch), memEnabled s l = true → isUp s c = true →
    let a := dpa / 64 * 64
    let u := takeEnv s c env
    (∀ (owner t1 : Nat), targetOf s l a = .frame c owner t1 →
      exec (.cxlMemRead l dpa own env) s = .next (hostReadLine u l c owner t1) ∧
      exec (.cxlMemWrite l dpa data be) s = .next (emit (hostWriteLine s c owner t1 data be) (.writeDone l.val)) ∧
      (∀ (bs : List Byte) (t : State), let k := useKey u c owner
        keyHere k c owner = true → t1 / 64 ∉ (k.ch c).t1Orphan → memRead k c owner t1 64 = (some bs, t) →
        hostReadLine u l c owner t1 = emit t (.readData l.val bs)) ∧
      (keyHere (useKey s c owner) c owner = true →
        hostWriteLine s c owner t1 data (BitVec.allOnes 64) = memWrite (useKey s c owner) c false owner t1 (bsub data 0 64))) ∧
    (∀ t1 : Nat, targetOf s l a = .meta_ c t1 →
      exec (.cxlMemRead l dpa own env) s = .next (emit s (.readData l.val (mdLine s c (t1 - mdBase s c))))) ∧
    (∀ (g : Grant) (t1 par : Nat), targetOf s l a = .extent c g t1 →
      let i := regIdx g.region.toNat
      let room (t : State) : Prop := be ≠ 0 → wbHolds t c false t1 (if be = BitVec.allOnes 64 then 64 else 63) = false
      entryAt s c (t1 / 64) = none → (inDb s l a = true → (s.ld l).lapsed = false) →
      (g.part < 2 → admitTest (regionAt s i) 0 l.val 0 rightRead = .ok par →
        exec (.cxlMemRead l dpa own env) s = .next (regionEnd (hostReadLine (regionCount u i par) l c g.owner.toNat t1) (i, par))) ∧
      (g.part < 2 → admitTest (regionAt s i) 0 l.val 0 rightWrite = .ok par → room (regionCount s i par) →
        exec (.cxlMemWrite l dpa data be) s = .next (regionEnd (emit (hostWriteLine (regionCount s i par) c g.owner.toNat t1 data be)
          (.writeDone l.val)) (i, par))) ∧
      (2 ≤ g.part → admitTest (regionAt s i) 0 l.val 0 rightRead = .ok par → readNeed (regionCount u i par) c l (t1 / 64) own = .go →
        exec (.cxlMemRead l dpa own env) s =
          .next (regionEnd (hostReadLine (grantHold (regionCount u i par) c l (t1 / 64) own) l c g.owner.toNat t1) (i, par))) ∧
      (2 ≤ g.part → admitTest (regionAt s i) 0 l.val 0 rightWrite = .ok par → writeNeed (regionCount s i par) c l (t1 / 64) = .go →
        room (regionCount s i par) →
        exec (.cxlMemWrite l dpa data be) s = .next (regionEnd (emit (hostWriteLine (regionCount s i par) c g.owner.toNat t1 data be)
          (.writeDone l.val)) (i, par))))) ∧
  (∀ (c : Ch) (l : Ld) (line : Nat) (s : State), (snoopsOut s c).any (fun x => x.1 == line) = true →
    ((snoopsOut s c).any (fun x => x.1 == line && x.2.1 == l.val) = true → exec (.birsp c l line) s = .next (snoopAnswer s c l.val line)) ∧
    exec (.biconflict c l line) s = .next (emit s (.conflictAck c.val l.val line))) ∧
  (∀ (c : Ch) (l : Ld) (line : Nat) (s : State), (snoopsOut s c).any (fun x => x.1 == line && x.2.1 == l.val) = true →
    exec (.biSnoopTimeout c l line) s = .next (lapse s l))

/-- A T0 window read after a write returns the bytes written, and a write changes those bytes alone. For a logical device whose CXL.io reaches the
device and a running channel assigned to it, and an access of 4 to 64 bytes that crosses no 64-byte boundary at offset o of the channel's T0: on
canonical memory a write outside the engine private areas completes, a read of the same range after it returns the bytes written, every other byte
of that T0 reads as before, and no other channel changes; a write that touches an engine private area changes nothing; a read changes nothing but
the answer that it sends. A write burst of any length from 4 bytes on is the writes of its pieces, split at the 64-byte boundaries, one after the
other (that each piece is an access of its own is the model's reading, log 178). (R317, R235, R313, R21) -/
def Obligations.T0WindowReadsWhatItWrote : Prop :=
  ∀ (l : Ld) (c : Ch) (o : Nat) (data : List Byte) (s : State), hostReaches s l c = true → chMemOk (s.ch c) = true → o < 0x1000000 →
    4 ≤ data.length → data.length ≤ 64 → o / 64 = (o + data.length - 1) / 64 →
    let off := c.val * 0x1000000 + o
    (touchesPriv o data.length = true → exec (.t0WindowWrite l off data) s = .next s) ∧
    (touchesPriv o data.length = false → ∃ t : State, exec (.t0WindowWrite l off data) s = .next t ∧
      exec (.t0WindowRead l off data.length) t = .next (emit t (.readData l.val data)) ∧
      (∀ a : Nat, a < o ∨ o + data.length ≤ a → smGet 0 (t.ch c).t0 a = smGet 0 (s.ch c).t0 a) ∧ (∀ d : Ch, d ≠ c → t.ch d = s.ch d)) ∧
    (∀ (burst : List Byte) (at_ : Nat), 4 ≤ burst.length →
      exec (.t0WindowWrite l at_ burst) s = .next ((t0Pieces burst.length at_ burst).foldl (fun t x => t0Piece t l x.1 x.2) s) ∧
      (at_ / 64 = (at_ + burst.length - 1) / 64 → t0Pieces burst.length at_ burst = [(at_, burst)]) ∧
      (at_ / 64 ≠ (at_ + burst.length - 1) / 64 → ∃ n : Nat, t0Pieces burst.length at_ burst =
        (at_, burst.take (64 - at_ % 64)) :: t0Pieces n (at_ + (64 - at_ % 64)) (burst.drop (64 - at_ % 64))))

/-- Host-port events, binding, HDM decoder commits, MSI-X unmasking and the persistent flush. A link down, hot reset or PERST# takes CXL mode down and,
for every logical device, resets its function, uncommits its decoders and lapses its lease; a link that trains at a width (and on HM-C12-K a rate)
that the port has sets CXL mode (at every rate on HM-C12-K, from 32 GT/s on HM-C12-P) and clears LAPSED; an FLR and a CXL Reset reset the function
and lapse the lease, the latter also uncommits the decoders and stops the enabled rings of the device's channels; binding and unbinding set and
clear the binding in MLD mode, the latter with a lapse; at a function that is there, an allowed HDM decoder takes its place when no commit fences
the device, one that is not allowed shows error-not-committed, and unmasking a vector sends the one message that is pending; a Global Persistent
Flush phase is acknowledged with no other effect. (R338, R306, R307, R331, R332, R333, R323, R340, R304, R422) -/
def Obligations.HostPortEventsRun : Prop :=
  (∀ (ev : LinkDownKind) (s : State), exec (.hostLinkDown ev) s = .next ((lds s).foldl (fun t l => lapse (clearDecoders (resetFunction t l) l) l)
    (modHost s (fun h => { h with up := false, cxl := false, flit256 := false, width := 0 })))) ∧
  (∀ (rate : LinkRate) (f : Bool) (s : State),
    let cxl := s.build.formK || decide (32 ≤ rate.gtps)
    let flit := cxl && (s.build.formK || rate.gtps == 64 || f)
    let takes : Bool := if s.build.formK then rate.width == 64 && [4, 8, 12, 16].contains rate.gtps else [4, 8, 16].contains rate.width
    (takes = false → exec (.hostLinkUp rate f) s = .next s) ∧
    (takes = true → exec (.hostLinkUp rate f) s = .next ((lds s).foldl (fun t l => modLd t l (fun d => { d with lapsed := false }))
      (modHost s (fun h => { h with up := true, cxl := cxl, flit256 := flit, width := rate.width }))))) ∧
  (∀ (l : Ld) (s : State),
    exec (.flr l) s = .next (modLd (lapse (resetFunction s l) l) l (fun d => { d with lapsed := false })) ∧
    (let t := modLd (lapse (clearDecoders (resetFunction s l) l) l) l (fun d => { d with lapsed := false })
     exec (.cxlReset l) s = .next (forCh t (chsOfLd t l) (fun t c => allRings.foldl (fun u r =>
       if (u.ring c r).enable = true ∧ (u.ring c r).draining = false then stopRing u c r else u) t))) ∧
    (s.build.mld = true → exec (.ldBind l) s = .next (modLd s l (fun d => { d with bound := true, lapsed := false })) ∧
      exec (.ldUnbind l) s = .next (lapse (modLd s l (fun d => { d with bound := false })) l))) ∧
  (∀ (l : Ld) (i : Fin 8) (d : HdmDecoder) (s : State), s.host.cxl = true → ioUp s l = true → ldFenced s l = false → d.ways ∈ [1, 2, 3, 4, 6, 8, 12, 16] →
    d.gran ∈ [256, 512, 1024, 2048, 4096, 8192, 16384] → 0 < d.size → decoderBase s l i + decoderSpan d ≤ staticLen s l + 4 * 2 ^ 40 →
    exec (.hdmDecoderCommit l i d) s = .next (modLd s l (fun x => { x with hdm := x.hdm.set i (some d), hdmErr := x.hdmErr &&& ~~~ (1#8 <<< i.val) }))) ∧
  (∀ (l : Ld) (i : Fin 8) (d : HdmDecoder) (s : State), s.host.cxl = true → ioUp s l = true → ldFenced s l = false → decoderOk s l i d = false →
    exec (.hdmDecoderCommit l i d) s = .next (modLd s l (fun x => { x with hdmErr := x.hdmErr ||| (1#8 <<< i.val) }))) ∧
  (∀ (l : Ld) (vec : Nat) (s : State), vec < 2048 → ioUp s l = true →
    let t := modLd s l (fun d => { d with unmasked := if d.unmasked.contains vec then d.unmasked else d.unmasked ++ [vec] })
    ((s.ld l).pba.contains vec = true → (s.ld l).funcMask = false →
      exec (.msixUnmask l (some vec)) s = .next (emit (modLd t l (fun d => { d with pba := d.pba.filter (fun x => x != vec) })) (.msix l.val vec (smGet ((0, 0) : BitVec 64 × Word32) (s.ld l).vecs vec).1 (smGet ((0, 0) : BitVec 64 × Word32) (s.ld l).vecs vec).2))) ∧
    ((s.ld l).pba.contains vec = false → exec (.msixUnmask l (some vec)) s = .next t)) ∧
  (∀ (phase : Nat) (s : State), exec (.globalPersistentFlush phase) s = .next (emit s (.gpfAck phase)))

/-- The CXL commands of a mailbox that Kiln serves. For a command at a mailbox that exists while Kiln runs and holds nothing: those of a logical
device's mailbox answer from that device's state (capacities, supported logs and a part of a log, orphaned lines as its poison list, its dynamic
capacity events, its partitions and extents), clear poison by writing the line where the write-back queue has room, clear event records that exist,
take up the offers it names and decline the rest, or begin the releases it names; Background Operation Status answers with the mailbox's operation;
Request Abort and Set LD Allocations answer Unsupported (with ST_BAD_COMMAND); the sideband's (or in SLD mode logical device 0's) commands give the
device's limits, offer an extent that passes R325 or end with the status that refuses it and the event that holds it, and begin a forced release or
withdraw an offer. The opcodes and the log's identifier (celUuid) are PRESUMED (log 37). (R410, R304, R318, R305, R324, R325, R326, R327, R334,
R335, R407, R309) -/
def Obligations.CxlCommandsAnswer : Prop :=
  (∀ (mb : Mbox) (l : Ld) (s : State), mbLd mb = some l →
    (mbServes s mb 0x4000 = true → exec (.identifyMemoryDevice mb) s = .next (mbReply s mb 0x4000 (.identify (4 * (staticLen s l / 2 ^ 30)) 0 4096))) ∧
    (mbServes s mb 0x0400 = true → exec (.getSupportedLogs mb) s = .next (mbReply s mb 0x0400 (.supportedLogs [celUuid]))) ∧
    (∀ off len : Nat, mbServes s mb 0x0401 = true → off + len ≤ (Config.cxlLog celUuid).length →
      exec (.getLog mb celUuid off len) s = .next (mbReply s mb 0x0401 (.log (bsub (Config.cxlLog celUuid) off len)))) ∧
    (∀ dpa len : Nat, mbServes s mb 0x4300 = true → exec (.getPoisonList mb dpa len) s = .next (mbReply s mb 0x4300
      (.poisonList ((((poisonDpas s l).take 4096).filter (fun a => decide (dpa ≤ a ∧ a < dpa + len))).map (fun a => (a, 3))) (decide (4096 < (poisonDpas s l).length))))) ∧
    (∀ (dpa owner t1 : Nat) (c : Ch) (data : List Byte), mbServes s mb 0x4302 = true → targetOf s l (dpa / 64 * 64) = .frame c owner t1 → isUp s c = true →
      wbHolds s c false t1 64 = false →
      exec (.clearPoison mb dpa data) s = .next (mbReply (hostWriteLine (clearOrphan s c (t1 / 64)) c owner t1 data (BitVec.allOnes 64)) mb 0x4302 .done)) ∧
    (mbServes s mb 0x0100 = true → exec (.getEventRecords mb 4) s = .next (mbReply s mb 0x0100 (.events 4 (s.ld l).dcLog))) ∧
    (∀ hs : List Nat, mbServes s mb 0x0101 = true → hs.all (fun h => (s.ld l).dcLog.any (fun e => e.1 == h)) = true →
      exec (.clearEventRecords mb 4 hs) s = .next (mbReply (modLd s l (fun d => { d with dcLog := d.dcLog.filter (fun e => !hs.contains e.1) })) mb 0x0101 .done)) ∧
    (mbServes s mb 0x4800 = true → exec (.getDcConfiguration mb) s = .next (mbReply s mb 0x4800 (.dcConfig ((List.range 4).map (fun k =>
      (staticLen s l + k * 2 ^ 40, if 2 ≤ k ∧ s.host.cxl = true ∧ s.host.flit256 = false then 0 else 2 ^ 40, k % 2 == 1)))))) ∧
    (∀ count start : Nat, mbServes s mb 0x4801 = true →
      let gs := s.island.grants.filter (fun g => g.live && g.ld == l.val)
      exec (.getDcExtentList mb count start) s = .next (mbReply s mb 0x4801
        (.extents gs.length start (((gs.drop start).take count).map (fun g => (g.dpa, g.len, grantTag g)))))) ∧
    (∀ exts : List (Nat × Nat), mbServes s mb 0x4802 = true →
      let offers := s.island.grants.filter (fun g => !g.live && g.ld == l.val)
      exts.all (fun e => offers.any (fun g => g.dpa == e.1 && g.len == e.2)) = true →
      let t := (offers.filter (fun g => exts.contains (g.dpa, g.len))).foldl (fun t g => acceptGrant t l g) s
      exec (.addDcResponse mb exts) s = .next (mbReply (modIsland t (fun i => { i with grants := i.grants.filter (fun g => g.live || g.ld != l.val) })) mb 0x4802 .done)) ∧
    (∀ exts : List (Nat × Nat), mbServes s mb 0x4803 = true → exts ≠ [] →
      let gs := s.island.grants.filter (fun g => g.live && !g.leaving && g.ld == l.val && exts.contains (g.dpa, g.len))
      exts.all (fun e => gs.any (fun g => g.dpa == e.1 && g.len == e.2)) = true →
      exec (.releaseDynamicCapacity mb exts) s = .next (grantsStep (gs.foldl (fun t g => leaveGrant t mb.val g) s))) ∧
    (mbServes s mb 0x0002 = true → exec (.backgroundOperationStatus mb) s =
      .next (mbReply s mb 0x0002 (.background (s.mb mb).bgOp (s.mb mb).bg.isSome (s.mb mb).bgStatus))) ∧
    (mbServes s mb 0x0005 = true → exec (.requestAbortBackground mb) s = .next (mbSt s mb 0x0005 .badCommand)) ∧
    (mbServes s mb 0x5402 = true → exec (.setLdAllocations mb) s = .next (mbSt s mb 0x5402 .badCommand))) ∧
  (∀ (mb : Mbox) (s : State), mbFm s mb = true →
    (mbServes s mb 0x5400 = true → exec (.getLdInfo mb) s = .next (mbReply s mb 0x5400 (.ldInfo (if s.build.mld then 16 else 1)))) ∧
    (mbServes s mb 0x5600 = true → exec (.getDcdInfo mb) s = .next (mbReply s mb 0x5600 (.dcdInfo 4 0x200000 (if s.build.mld then 16 else 1)))) ∧
    (∀ (l : Ld) (part : Fin 4) (off len : Nat) (tag : BitVec 128), mbServes s mb 0x5604 = true →
      (∀ e : St, extentBad s l part.val off len tag = some e → exec (.initiateDcAdd mb l part off len tag) s =
        .next (raiseS (mbSt s mb 0x5604 e) 0x0603 sevWarn (natLe (stCode e) 2 ++ natLe l.val 1 ++ natLe part.val 1 ++ natLe tag.toNat 16))) ∧
      (∀ c : Ch, extentBad s l part.val off len tag = none → chOf (fld tag.toNat 95 92) = some c → runAt s c.val (0x200000 * fld tag.toNat 91 76) = none →
        let dpa := staticLen s l + part.val * 2 ^ 40 + off
        let g : Grant := { ld := l.val, part := part.val, dpa := dpa, len := len, region := BitVec.ofNat 32 (fld tag.toNat 127 96), ch := c.val,
                           t1 := 0x200000 * fld tag.toNat 91 76, owner := BitVec.ofNat 12 (fld tag.toNat 75 64), live := false, leaving := false, by_ := 33 }
        exec (.initiateDcAdd mb l part off len tag) s = .next (mbReply (dcNote (modIsland s (fun i => { i with grants := i.grants ++ [g] })) l 0 dpa len) mb 0x5604 .done))) ∧
    (∀ (l : Ld) (part : Fin 4) (off len : Nat) (g : Grant), mbServes s mb 0x5605 = true →
      let dpa := staticLen s l + part.val * 2 ^ 40 + off
      s.island.grants.find? (fun g => g.ld == l.val && g.dpa == dpa && g.len == len && !g.leaving) = some g →
      let t := dcNote s l 2 dpa len
      exec (.initiateDcRelease mb l part off len) s = .next (if g.live then grantsStep (leaveGrant t mb.val g)
        else mbReply (modIsland t (fun i => { i with grants := i.grants.filter (fun x => x != g) })) mb 0x5605 .done)))

/-- Kiln's identity, time, health, shutdown, staging, commit, capability, event and channel commands with nothing in their way. For a command with a
payload of its length at a mailbox that exists while Kiln serves it, within the checks named: GetIdentity, SelfTestQuery, CommitQuery, CapRead,
StageRead, EventRead and CommitCheck answer their records; SetTime sets host time; GetHealth pushes the sections of the channels that answer and
replies, or waits for the others; Shutdown, from the sideband alone, starts in the background by stopping every enabled ring of the channels that
are up; StageWrite stages all its entries, or none and the failing index; StageClear empties the mailbox's set; CommitApply answers the generation
for an empty set, runs where its fence stands, else waits for it; ChannelIsolate isolates a channel that is there; ChannelReset starts in the
background and resets the channel (one that has left the present set is tested first, and one that is Off stays so while a rail is not valid). A
standing fence runs the waiting commit while Kiln runs, and none while it restarts or is in Recovery, and a channel's health timeout marks its
section stale; the commands that waited then go on. FAILED 0xFFFF of a StageWrite that succeeds and the form of StageRead's answer (log 109) and the
meaning of CapRead's OFFSET (log 107) are the model's choices. (R14, R409, R410, R411, R413, R414, R415, R420, R424, R427, R429, R463) -/
def Obligations.KilnCommandsRun : Prop :=
  (∀ (mb : Mbox) (inp : List Byte) (s : State),
    let n := fun o k => bnum inp o k
    (mbServesRec s mb 0xC000 = true → inp = [] → exec (.getIdentity mb inp) s = .next (mbOut s mb 0xC000 .ok (identityRec s))) ∧
    (mbServesRec s mb 0xC001 = true → inp.length = 4 → n 0 2 + n 2 2 ≤ 28672 → n 2 2 ≤ 4096 → ∀ answered : List Ch,
      let ps := presentChs s
      let t := forCh s (ps.filter (fun c => answered.contains c)) pushSection
      let left := (ps.filter (fun c => !answered.contains c)).map (fun c => c.val)
      exec (.getHealth mb inp answered) s = .next (
        if left.isEmpty then mbOut t mb 0xC001 .ok (bsub (healthLog t mb) (n 0 2) (n 2 2))
        else modIsland t (fun i => { i with poll := some { mb := mb.val, off := n 0 2, len := n 2 2, wait := left } }))) ∧
    (mbServes s mb 0xC002 = true → inp.length = 8 →
      exec (.setTime mb inp) s = .next (mbSt (modIsland s (fun i => { i with hostTime := BitVec.ofNat 64 (leNat inp) })) mb 0xC002 .ok)) ∧
    (mbServesRec s mb 0xC003 = true → inp = [] → exec (.selfTestQuery mb inp) s = .next (mbOut s mb 0xC003 .ok (selfTestRec s))) ∧
    (mb = sidebandMb → mbServes s mb 0xC004 = true → inp = [] → (s.mb mb).bg = none →
      let t := mbStart s mb 0xC004 (.shutdown 1 [])
      let u := forCh t (allCh.filter (isUp t)) (fun t c =>
        allRings.foldl (fun u r => if (u.ring c r).enable ∧ !(u.ring c r).draining then stopRing u c r else u) t)
      exec (.shutdown mb inp) s = .next (shutRun u mb 1 [])) ∧
    (mbServes s mb 0xC010 = true → 2 ≤ inp.length → inp.length = 8 + 16 * n 0 2 →
      let ws := s.island.staging[mb]
      exec (.stageWrite mb inp) s = .next (
        match stageAll s mb ((chunks 16 (inp.drop 8)).map stageEntry) 0 ws with
        | .ok new => mbOut (setStaging s mb new) mb 0xC010 .ok (natLe new.length 2 ++ natLe 0xFFFF 2)
        | .error (e, i) => mbOut s mb 0xC010 e (natLe ws.length 2 ++ natLe i 2))) ∧
    (mbServes s mb 0xC011 = true → inp.length = 2 →
      let ws := ((s.island.staging[mb]).drop (n 0 2)).take 255
      exec (.stageRead mb inp) s = .next (mbOut s mb 0xC011 .ok (natLe ws.length 8 ++ ws.flatMap entryBytes))) ∧
    (mbServes s mb 0xC012 = true → inp = [] → exec (.stageClear mb inp) s = .next (mbSt (setStaging s mb []) mb 0xC012 .ok)) ∧
    (mbServes s mb 0xC013 = true → inp = [] →
      let fs := findings s s.island.staging[mb]
      exec (.commitCheck mb inp) s = .next (mbOut s mb 0xC013 (if fs.isEmpty then .ok else .commitInvalid) (findingsOut fs))) ∧
    (mbServes s mb 0xC014 = true → inp = [] →
      let ws := s.island.staging[mb]
      let cs := (affectedChs s ws).map (fun c => c.val)
      (ws = [] → exec (.commitApply mb inp) s = .next (mbOut s mb 0xC014 .ok (natLe s.island.commitGen.toNat 4))) ∧
      (ws ≠ [] → fenceStands s cs = true → exec (.commitApply mb inp) s = .next (commitRun s mb ws)) ∧
      (ws ≠ [] → fenceStands s cs = false →
        exec (.commitApply mb inp) s = .next (modIsland s (fun i => { i with commit := some { mb := mb.val, words := ws, chans := cs } })))) ∧
    (mbServesRec s mb 0xC015 = true → inp = [] →
      exec (.commitQuery mb inp) s = .next (mbOut s mb 0xC015 .ok (natLe s.island.commitGen.toNat 4))) ∧
    (mbServesRec s mb 0xC020 = true → inp.length = 5 → ∀ l : Ld, (lds s).find? (fun l => l.val == n 0 1) = some l → mbNamesLd s mb l = true →
      0x1000 ≤ n 1 2 → n 1 2 + n 3 2 ≤ 0x8000 → n 3 2 ≤ 4096 →
      exec (.capRead mb inp) s = .next (mbOut s mb 0xC020 .ok (smRead (s.ld l).capBytes (n 1 2) (n 3 2)))) ∧
    (mbServesRec s mb 0xC021 = true → inp.length = 3 → n 2 1 ≤ 1 →
      let q := mbQueue mb
      let rs := (evWaiting s.island.evq[q]).take (min 63 (n 0 2))
      let t := if n 2 1 = 1 then
          modIsland s (fun i => { i with evq := i.evq.set q { i.evq[q] with cons := (i.evq[q].cons + rs.length) % 512 } })
        else s
      exec (.eventRead mb inp) s = .next (mbOut t mb 0xC021 .ok (natLe rs.length 8 ++ rs.flatMap evBytes))) ∧
    (inp.length = 1 → ∀ c : Ch, chOf (n 0 1) = some c → mbNamesCh s mb c = true →
      (mbServesRec s mb 0xC030 = true → (s.ch c).state ≠ .absent →
        exec (.channelIsolate mb inp) s = .next (mbSt (isolateCh s c 3) mb 0xC030 .ok)) ∧
      (mbServesRec s mb 0xC031 = true → (s.mb mb).bg = none → (s.ch c).connected = true → ∀ start : StartReport,
        let t := tripRelease (mbStart s mb 0xC031 (.chReset c.val))
        let stays := (t.ch c).state == .off && t.island.supply.warn != 0
        let u := resetCh (linkDown (if stays then t else isolateCh t c 5) c 0) c true
        ((t.ch c).state = .absent →
          exec (.channelReset mb inp start) s = .next (needTest (modTest t (fun x => { x with starts := ascGroups (x.starts ++ [c.val]) })) [c.val])) ∧
        ((t.ch c).state ≠ .absent →
          exec (.channelReset mb inp start) s = .next (
            if u.island.selfTest.valid && u.island.supply.down.isEmpty && !stays then startNow u c start else beginStarts u [c]))))) ∧
  (∀ (s : State) (m : Commit), s.island.commit = some m →
    (s.island.kiln = .running → fenceStands s m.chans = true → ∀ h : m.mb < 33,
      exec .commitFenceStands s = .next (mbDispatch (commitRun s ⟨m.mb, h⟩ m.words))) ∧
    (s.island.kiln ≠ .running → exec .commitFenceStands s = .next (mbDispatch s))) ∧
  (∀ (c : Ch) (s : State) (p : HealthPoll) (h : p.mb < 33), s.island.poll = some p → p.wait.contains c.val = true →
    let t := staleSection s c
    let left := p.wait.filter (fun x => x != c.val)
    exec (.healthPollTimeout c) s = .next (mbDispatch (
      if left.isEmpty then
        let u := modIsland t (fun i => { i with poll := none })
        mbOut u ⟨p.mb, h⟩ 0xC001 .ok (bsub (healthLog u ⟨p.mb, h⟩) p.off p.len)
      else modIsland t (fun i => { i with poll := some { p with wait := left } }))))

/-- Key and firmware commands, purges, boot, the watchdog and the engine map with nothing in their way. Within the checks named: KeyLoad on an Empty
slot refuses a key that does not decrypt or whose fields R446 refuses, and else logs a load and makes the slot Loaded with its epoch; KeyDestroy on
a Loaded slot takes the keys out of the answering channels' caches and, once every present channel has answered, logs the destruction, purges and
drops the keys, else waits for the others, and a channel that does not answer is isolated; KeyQuery answers the state; OwnerPurge removes the
channel from the slot's purge set, Empty after the last; KeyStorageCheck spares or fails the slots named and those found bad before (out of the key
caches too, log 179); FirmwareUpdate programs a chunk of the idle copy; FirmwareActivate of a complete image answers the status of R434's checks, or
prefers it and restarts Kiln when it passes; FirmwareRecover collects chunks, and the last one of a complete image answers R434's status, or writes
copy A and restarts Kiln; Boot runs the copy chosen, or enters Recovery; a watchdog expiry enters Recovery with cause 3; EngineMapCommit maps the
engines anew. (R442, R446, R448, R450, R430, R300, R434, R436, R437, R438, R435, R399) -/
def Obligations.SecurityCommandsRun : Prop :=
  (∀ (mb : Mbox) (inp : List Byte) (s : State),
    let slot := bnum inp 0 2
    let o := bnum inp 0 4
    (mbServes s mb 0xC070 = true → inp.length = 147 → slot < 4096 → mbNamesKey s mb slot = true → (keySlot s slot).state = .empty →
      exec (.keyLoad mb inp) s = .next (match sm2Decrypt s.build.wrapKey (inp.drop 2) with
        | none => mbSt s mb 0xC070 .sigInvalid
        | some bs =>
          let p := wrapPlain bs
          if wrapBad s slot p then mbSt s mb 0xC070 .badField
          else
            let t := keyLogAppend s { type := 1, slot := BitVec.ofNat 16 slot, epoch := BitVec.ofNat 32 p.epoch, chans := 0, rseq := 0 }
            mbSt (modKey t slot (fun k =>
              { k with state := .loaded, key1 := p.key1, key2 := p.key2, lastEpoch := BitVec.ofNat 32 p.epoch })) mb 0xC070 .ok)) ∧
    (mbServesRec s mb 0xC071 = true → inp.length = 2 → slot < 4096 → mbNamesKey s mb slot = true → (keySlot s slot).state = .loaded →
      ∀ answered : List Ch,
      let ps := presentChs s
      let left := (ps.filter (fun c => !answered.contains c)).map (fun c => c.val)
      let t := forCh (modIsland s (fun i => { i with destroy := some { mb := mb.val, slot, wait := left, isolated := 0 } }))
        (ps.filter (fun c => answered.contains c)) (fun t c => purgeCache t c slot)
      exec (.keyDestroy mb inp answered) s = .next (if left = [] then destroyFinish t mb slot 0 else t)) ∧
    (mbServes s mb 0xC072 = true → inp.length = 2 → slot < 4096 → mbNamesKey s mb slot = true →
      exec (.keyQuery mb inp) s = .next (mbOut s mb 0xC072 .ok (natLe (keyCode (keySlot s slot).state) 1))) ∧
    (mbServes s mb 0xC080 = true → 4 ≤ inp.length → inp.length ≤ 4092 → mbFm s mb = true → o + (inp.length - 4) ≤ 0x400000 →
      exec (.firmwareUpdate mb inp) s = .next (mbSt (modFw s (fun f =>
        if f.runB then { f with copyA := fwProgram f.copyA o (inp.drop 4) } else { f with copyB := fwProgram f.copyB o (inp.drop 4) })) mb 0xC080 .ok)) ∧
    (mbServes s mb 0xC081 = true → inp = [] → mbFm s mb = true → (s.mb mb).bg = none → fwComplete (fwIdle s.island.fw) = true →
      exec (.firmwareActivate mb inp) s = .next (match fwCheck s (fwIdle s.island.fw) with
        | some e => mbSt s mb 0xC081 e
        | none => fwRestart (modFw (mbStart s mb 0xC081 .fwActivate)
            (fun f => { f with preferB := !f.runB, copyA := { f.copyA with begun := false }, copyB := { f.copyB with begun := false } }))
            (fwRaises (fwIdle s.island.fw)))) ∧
    (mbServesRec s mb 0xC082 = true → 5 ≤ inp.length → inp.length ≤ 4093 → mb = sidebandMb ∨ mb = 0 → o + (inp.length - 5) ≤ 0x400000 →
      let x := fwProgram s.island.fw.recovery o (inp.drop 5)
      (bnum inp 4 1 = 0 → exec (.firmwareRecover mb inp) s = .next (mbSt (modFw s (fun f => { f with recovery := x })) mb 0xC082 .ok)) ∧
      (bnum inp 4 1 = 1 → fwComplete x = true →
        let t := modFw s (fun f => { f with recovery := .empty })
        exec (.firmwareRecover mb inp) s = .next (match fwCheck t x with
          | some e => mbSt t mb 0xC082 e
          | none => fwRestart (mbSt (modFw t (fun f => { f with copyA := { x with begun := false }, preferB := false })) mb 0xC082 .ok) (fwRaises x))))) ∧
  (∀ (c : Ch) (slot : Nat) (s : State), isUp s c = true → (keySlot s slot).purge.contains c.val = true →
    exec (.ownerPurge c slot) s = .next (purgeDone (modKey (purgeOwner s c slot) slot
      (fun k => { k with purge := k.purge.filter (fun x => x != c.val) })) slot)) ∧
  (∀ (c : Ch) (slot : Nat) (s : State) (d : KeyDestroying) (h : d.mb < 33), s.island.destroy = some d → d.slot = slot → d.wait.contains c.val = true →
    let t := purgeCache (isolateCh s c 6) c slot
    let left := d.wait.filter (fun x => x != c.val)
    exec (.keyPurgeTimeout c slot) s = .next (mbDispatch (
      if left.isEmpty then destroyFinish t ⟨d.mb, h⟩ slot (d.isolated + 1)
      else modIsland t (fun i => { i with destroy := some { d with wait := left, isolated := d.isolated + 1 } })))) ∧
  (∀ (slot : Nat) (s : State), (keySlot s slot).state = .loaded →
    let r := forCh (modIsland s (fun i => { i with keyRot := i.keyRot.filter (fun x => x != slot) })) allCh (fun t c => purgeCache t c slot)
    let t := modKey r slot (fun k => { k with state := if r.island.keySpares = 0 then .failed else .empty, key1 := 0, key2 := 0 })
    let u := modIsland t (fun i => { i with keySpares := i.keySpares - 1 })
    exec (.keyStorageCheck [slot]) s = .next (s.island.keyRot.foldl keyFails (
      if r.island.keySpares = 0 then t
      else raiseOn u (queuesKey u slot) 0x0202 sevInfo none 0xF (natLe 5 1 ++ natLe slot 4)))) ∧
  (∀ (s : State), s.island.supply.aon = true → s.island.kiln = .booting →
    exec .boot s = .next (mbDispatch (match fwChoose s with
      | some b => commitStep (bootInto s b)
      | none => endActivates (enterRecovery s (bootCause s))))) ∧
  (∀ (s : State), s.island.supply.aon = true → s.island.kiln = .running →
    exec .firmwareWatchdogExpiry s = .next (mbDispatch (dropCommit (enterRecovery s 3)))) ∧
  (∀ (c : Ch) (s : State), (s.ch c).eng.mapDue ≠ [] → s.island.commit = none → s.island.kiln = .running →
    exec (.engineMapCommit c) s = .next (engineMap s c))

/-- MCTP, SPDM, IDE and I3C messages and what answers them. At an endpoint whose transport works: an MCTP control command Set Endpoint ID sets the
endpoint's ID and is acknowledged, and a command outside the four that are served is answered unsupported (log 152, the model's choice); a CCI
message of at most 4,096 bytes runs its command at the endpoint's mailbox, an FM-API message at the sideband's alone, and the result goes back as a
message (log 112), so that a SetTime with eight bytes sets host time; other types get the MCTP error. GET_MEASUREMENTS answers the number of blocks
for index 0, else the blocks asked for, with a nonce and, where asked, the signature over the transcript; KEY_EXCHANGE with slot 0 or 1 and fewer
than eight sessions opens one; VERSION, CAPABILITIES, ALGORITHMS, DIGESTS and CERTIFICATE answer without a session, CHALLENGE with a signature; a
request of a session is answered in it, and END_SESSION ends it; others are errors. The bytes of SPDM are log 39's (PRESUMED). An IDE_KM request in
an open session changes its stream's keys and is acknowledged; an integrity failure of an active stream ends its keys, marks it Insecure and, on
CXL.mem's link stream, takes the port down (log 94). ENTDAA assigns the I3C address, and SETDASA does when it names the strapped static address (log
113). (R341, R342, R343, R402, R410, R439, R440, R441, R458, R459, R506) -/
def Obligations.MessagesAreAnswered : Prop :=
  (∀ (ep : Endpoint) (s : State), epUp s ep = true →
    (∀ (flags eid : Byte), exec (.mctpMessage ep (.control 1 [flags, eid])) s = .next
      (emit (modHost s (fun h => { h with eids := h.eids.filter (fun e => e.1 != ep) ++ [(ep, eid)] })) (.mctp ep 0 [1, 0, 0, eid, 0]))) ∧
    (∀ (cmd : Byte) (data : List Byte), cmd.toNat ∉ [1, 2, 4, 5] → data.length ≤ 4096 →
      exec (.mctpMessage ep (.control cmd data)) s = .next (emit s (.mctp ep 0 [cmd, 5]))) ∧
    (∀ (op : BitVec 16) (inp : List Byte) (start : StartReport) (answered : List Ch), inp.length ≤ 4096 →
      let via (mb : Mbox) : State := modMb s mb (fun m => { m with via := some (ep, op.toNat) })
      (mbServesRec s (epMb ep) op.toNat = true →
        exec (.mctpMessage ep (.cci op inp start answered)) s = .next (runMessage (epMb ep) op.toNat inp start answered (via (epMb ep)))) ∧
      (epMb ep = sidebandMb → mbServesRec s sidebandMb op.toNat = true →
        exec (.mctpMessage ep (.fmApi op inp start answered)) s = .next (runMessage sidebandMb op.toNat inp start answered (via sidebandMb))) ∧
      (epMb ep ≠ sidebandMb → exec (.mctpMessage ep (.fmApi op inp start answered)) s = .next (emit s (.mctpError ep 0x07))) ∧
      (op = 0xC002 → mbServes s (epMb ep) 0xC002 = true → inp.length = 8 → exec (.mctpMessage ep (.cci op inp start answered)) s = .next
        (mbSt (modIsland (via (epMb ep)) (fun i => { i with hostTime := BitVec.ofNat 64 (leNat inp) })) (epMb ep) 0xC002 .ok))) ∧
    (∀ t : Byte, exec (.mctpMessage ep (.other t)) s = .next (emit s (.mctpError ep t)))) ∧
  (∀ (ep : Endpoint) (req : MeasReq) (s : State), epUp s ep = true → req.idx = 0xFF ∨ req.idx.toNat ≤ 5 → req.slot.toNat ≤ 1 →
    let is := if req.idx = 0xFF then [1, 2, 3, 4, 5] else if req.idx = 0 then [] else [req.idx.toNat]
    let blocks := is.flatMap (fun i => [BitVec.ofNat 8 i, 1] ++ natLe 35 2 ++ [BitVec.ofNat 8 ([0, 0, 1, 7, 2, 3].getD i 3)] ++ natLe 32 2 ++ measurement s i)
    let n := free32 s
    let ask : List Byte := [0x12, 0xE0, if req.sign then 1 else 0, req.idx] ++ (if req.sign then natLe req.nonce.toNat 32 ++ [req.slot] else [])
    let body : List Byte := [0x12, 0x60, if req.idx = 0 then 5 else 0, if req.sign then req.slot else 0, BitVec.ofNat 8 is.length] ++ natLe blocks.length 3 ++
      blocks ++ n.1 ++ [0, 0]
    let t := talkOf s ep
    let g := spdmSign n.2 "responder-measurements signing" (t.vca ++ (t.meas ++ ask ++ body))
    exec (.getMeasurements ep req) s = .next (
      if req.sign then spdmSend (setTalk g.2 ep { t with meas := [] }) ep (body ++ g.1)
      else spdmSend (setTalk n.2 ep { t with meas := t.meas ++ ask ++ body }) ep body)) ∧
  (∀ (ep : Endpoint) (req : KexReq) (s : State), epUp s ep = true → req.slot.toNat ≤ 1 → s.host.sessions.length < 8 →
    ∃ (t : State) (bs : List Byte), exec (.keyExchange ep req) s = .next (spdmSend (modHost t (fun h =>
        { h with sessions := h.sessions ++ [(s.host.nextSess, ep)], nextSess := s.host.nextSess + 1 })) ep
      ([0x12, 0x64, BitVec.ofNat 8 (Config.spdmParam 3), 0] ++ natLe s.host.nextSess 2 ++ bs)) ∧ t.host = s.host ∧ t.island = s.island ∧ t.chans = s.chans) ∧
  (∀ (ep : Endpoint) (req : SpdmReq) (s : State), epUp s ep = true → req.code.toNat = 0x84 ∨ req.version = 0x12 →
    let said : List Byte := [req.version, req.code, req.param1, req.param2] ++ req.data
    (∀ bs : List Byte, req.code.toNat ∈ [0x81, 0x82, 0x84, 0xE1, 0xE3] → spdmPlain s.build req = some bs →
      exec (.spdmRequest ep req) s = .next (spdmSend (setTalk s ep (talkNext (talkOf s ep) req.code.toNat (said ++ bs))) ep bs)) ∧
    (req.code.toNat = 0x84 → spdmPlain s.build req = some [0x10, 0x04, 0, 0, 0, 1, 0x00, 0x12]) ∧
    (req.code.toNat = 0x81 → spdmPlain s.build req = some ([0x12, 0x01, 0, 3] ++ sm3 (certChain s.build 0) ++ sm3 (certChain s.build 1))) ∧
    (req.code.toNat = 0x83 → req.param1.toNat ≤ 1 → exec (.spdmRequest ep req) s = .next (spdmChallenge s ep req)) ∧
    (req.code.toNat ∈ [0xE5, 0xE8, 0xE9, 0xEC, 0xFE] → ∀ n : Nat, req.session = some n → (n, ep) ∈ s.host.sessions →
      let t := if req.code.toNat = 0xEC then modHost s (fun h => { h with sessions := h.sessions.filter (fun x => !(some n == some x.1 && x.2 == ep)) }) else s
      exec (.spdmRequest ep req) s = .next (spdmSend t ep [0x12, BitVec.ofNat 8 (req.code.toNat % 128), req.param1, req.param2])) ∧
    (req.code.toNat ∉ [0x81, 0x82, 0x83, 0x84, 0xE1, 0xE3, 0xE5, 0xE8, 0xE9, 0xEC, 0xFE] →
      exec (.spdmRequest ep req) s = .next (spdmSend s ep [0x12, 0x7F, 0x07, 0]))) ∧
  (∀ (session : Nat) (ep : Endpoint) (req : IdeKmReq) (s : State), s.host.sessions.find? (fun x => x.1 == session) = some (session, ep) →
    epUp s ep = true →
    exec (.ideKm session req) s = .next (emit (modHost s (fun h =>
      ideSet h (ideStream req) (ideDo (ideGet h (ideStream req)) req))) (.mctp ep 0x06 (natLe session 2)))) ∧
  (∀ (st : IdeStream) (s : State), (ideGet s.host st).active ≠ [] →
    let t := modHost s (fun h => ideSet h st { ideGet s.host st with keys := [], active := [], insecure := true })
    exec (.ideIntegrityFail st) s = .next (if st = .linkMem then hostDown t else t)) ∧
  (∀ (s : State), sidebandUp s = true → ∀ (a : BitVec 7) (sa : BitVec 7),
    exec (.i3cAddressAssign (.entdaa a)) s = .next (modHost s (fun h => { h with i3cAddr := some a })) ∧
    (sa = 0x58 + s.build.strap.setWidth 7 →
      exec (.i3cAddressAssign (.setdasa sa a)) s = .next (modHost s (fun h => { h with i3cAddr := some a }))))

/-- Region and link commands of a mailbox with nothing in their way. With a payload of its length at a mailbox that Kiln serves and that has the rights:
RegionCreate on a Free index makes it Live at the home named, with its record, and answers its identity; RegionSetHome adds a run and marks its
units; RegionRegister changes the rights of a registration or adds one and answers its index; RegionRevoke and RegionRelease start in the
background; RegionPublish, under PUBLISH, stores ROOT when the version matches, and answers both; RegionQuery answers the entry; the end of a drain
lets the oldest revocation go on, and an admission that waits for a DRAIN count is released below 0xFFFFFF, with the host requests and the publish
that wait for one. LinkConnSet makes a Closed connection Ready, LinkConnReset gives it new PSNs, LinkConnClose starts, LinkConnQuery answers its
state, LinkWindowSet sets a window that is free (one with VALID 0 waits until nothing uses the old), and LinkKeySet sets a memory key (R396). That
REGION_ADMISSION_RESUME also lets the host requests and the publish go on is log 73, and the state codes of LinkConnQuery are log 89, both the
model's. (R346, R348, R349, R350, R352, R353, R355, R359, R361, R376, R377, R392) -/
def Obligations.RegionAndConnectionCommandsRun : Prop :=
  (∀ (mb : Mbox) (inp : List Byte) (s : State),
    let n := fun o k => bnum inp o k
    let idx := regIdx (n 0 4)
    let g := regionAt s idx
    (∀ c : Ch, mbServes s mb 0xC050 = true → mbFm s mb = true → inp.length = 5 → chOf (n 2 1) = some c → n 3 2 < 4096 →
      (regionAt s (n 0 2)).state = .free → isUp s c = true → hasT2 (s.marl c) = true →
      ∀ t : State, allocNodes s c [.region (n 0 2)] = some t →
      let v := modRegion t (n 0 2) (fun g =>
        { Region.free with state := .live, gen := g.gen, homeCh := c.val, owner := BitVec.ofNat 12 (n 3 2),
                           node := BitVec.ofNat 24 (nodeOf t c (.region (n 0 2))), lastEvent := 0 })
      let w := jAppend v c (.region (n 0 2) (regionAt v (n 0 2)).gen 0)
      exec (.regionCreate mb inp) s = .next (mbOut w mb 0xC050 .ok (natLe (regionId w (n 0 2)) 4))) ∧
    (mbFm s mb = true → regionCheck s (n 0 4) = none →
      (∀ c : Ch, mbServes s mb 0xC051 = true → inp.length = 13 → chOf (n 4 1) = some c → isUp s c = true →
        homeBad s idx c (n 5 2) (n 7 2) (n 9 4) = none →
        let t := modRegion s idx (fun g =>
          { g with runs := g.runs ++ [{ ch := c.val, t1Base := 0x200000 * n 5 2, len := 0x200000 * n 7 2, lu := n 9 4 }] })
        exec (.regionSetHome mb inp) s = .next (mbSt ((List.range (128 * n 7 2)).foldl
          (fun u i => setMap u c (n 9 4 + i) { mapAt u c (n 9 4 + i) with region := true, owner := (regionAt t idx).owner }) t) mb 0xC051 .ok)) ∧
      (mbServes s mb 0xC052 = true → inp.length = 9 → regFieldsOk (n 4 1) (n 5 1) (n 6 2) (n 8 1) = true →
        (∀ i : Nat, regIndex g (n 4 1) (n 5 1) (n 6 2) = some i → (smGet? g.regs i).any (fun x => x.revoked) = false →
          exec (.regionRegister mb inp) s = .next (mbOut (modRegion s idx (fun g =>
            { g with regs := g.regs.map (fun e => if e.1 = i then (e.1, { e.2 with rights := BitVec.ofNat 4 (n 8 1) }) else e) })) mb 0xC052 .ok (natLe i 1))) ∧
        (regIndex g (n 4 1) (n 5 1) (n 6 2) = none → n 4 1 ≠ 0 → regsValid g < 128 →
          exec (.regionRegister mb inp) s = .next (mbOut (addReg s idx (n 4 1) (n 5 1) (n 6 2) (n 8 1)).2 mb 0xC052 .ok
            (natLe (freeReg g) 1)))) ∧
      (mbServes s mb 0xC053 = true → inp.length = 5 → (s.mb mb).bg = none → (smGet? g.regs (n 4 1)).any (fun x => x.valid) = true →
        let t := mbStart s mb 0xC053 (.revoke idx (n 4 1))
        exec (.regionRevoke mb inp) s = .next (if g.revokes.any (fun r => r.regs.contains (n 4 1)) then t else startRevoke t idx [n 4 1] [])) ∧
      (mbServes s mb 0xC054 = true → inp.length = 4 → (s.mb mb).bg = none →
        s.island.grants.any (fun g => g.live && g.region == BitVec.ofNat 32 (n 0 4)) = false →
        let t := modRegion (mbStart s mb 0xC054 (.release idx)) idx (fun g => { g with state := .releasing, releasing := true })
        let x := regionAt t idx
        exec (.regionRelease mb inp) s = .next (startRevoke t idx
          ((x.regs.filter (fun e => e.2.valid && !x.revokes.any (fun r => r.regs.contains e.1))).map (fun e => e.1)) []))) ∧
    (∀ (l : Ld) (p : Nat), mbServes s mb 0xC055 = true → inp.length = 20 → mbLd mb = some l → regionCheck s (n 0 4) = none →
      admitTest g 0 l.val 0 rightPublish = .ok p →
      let x := publish s idx (BitVec.ofNat 64 (n 4 8)) (BitVec.ofNat 64 (n 12 8))
      let y := regionAt x.2.2.2 idx
      exec (.regionPublish mb inp) s = .next (mbOut x.2.2.2 mb 0xC055 (if x.1 then .ok else .versionConflict)
        (natLe y.version.toNat 8 ++ natLe y.root.toNat 8))) ∧
    (mbServes s mb 0xC056 = true → inp.length = 2 →
      let y := regionAt s (n 0 2)
      exec (.regionQuery mb inp) s = .next (mbOut s mb 0xC056 .ok (natLe (regionEntry y) 8 ++ natLe y.root.toNat 8 ++ natLe y.version.toNat 8))) ∧
    (∀ c : Ch, chOf (n 0 1) = some c → mbNamesCh s mb c = true → isUp s c = true →
      let conn := n 1 2
      let w := 2 ^ psnBits s c
      (mbServes s mb 0xC060 = true → inp.length = 46 → connBad s c inp = false → (connAt s c conn).state = .closed →
        ∀ t : State, allocNodes s c (connNodes conn) = some t →
        exec (.linkConnSet mb inp) s = .next (mbSt (modConn t c conn (fun _ => { Conn.closed with
          state := .ready, params := connParams inp, sndNext := n 30 4 % 2 ^ psnBits t c, rcvNext := n 34 4 % 2 ^ psnBits t c })) mb 0xC060 .ok)) ∧
      (mbServes s mb 0xC061 = true → inp.length = 12 → conn < connCount s c → 0 < n 3 1 → n 3 1 < 4 → (connAt s c conn).state ≠ .closed →
        let t := if bit (n 3 1) 0 then resetSnd s c conn (n 4 4 % w) else s
        let u := if bit (n 3 1) 1 then resetRcv t c conn (n 8 4 % w) else t
        exec (.linkConnReset mb inp) s = .next (linkRest (windowsStep (mbSt (sendFlit u c false true) mb 0xC061 .ok) c))) ∧
      (mbServes s mb 0xC062 = true → inp.length = 3 → (s.mb mb).bg = none → conn < connCount s c →
        exec (.linkConnClose mb inp) s = .next (linkRest (mbStart s mb 0xC062 (.connClose c.val conn)))) ∧
      (mbServes s mb 0xC063 = true → inp.length = 3 → conn < connCount s c →
        let k := connAt s c conn
        exec (.linkConnQuery mb inp) s = .next (mbOut s mb 0xC063 .ok
          (natLe (connCode k.state) 1 ++ natLe k.sndNext 4 ++ natLe (sndUna k) 4 ++ natLe k.rcvNext 4 ++ natLe k.outs.length 2))) ∧
      (mbServes s mb 0xC064 = true → inp.length = 19 → n 1 2 < 4096 →
        let v := BitVec.ofNat 128 (n 3 16)
        ((windowOf v).valid = false →
          exec (.linkWindowSet mb inp) s = .next (windowsStep (modLink s c (fun p => { p with winDue := p.winDue ++ [(n 1 2, mb.val, v)] })) c)) ∧
        ((windowOf v).valid = true → (windowAt s c (n 1 2)).valid = false →
          ∀ t : State, allocNodes s c ((List.range 16).map (fun j => .window j)) = some t →
          exec (.linkWindowSet mb inp) s = .next (mbSt (setWindow t c (n 1 2) v) mb 0xC064 .ok))) ∧
      (mbServes s mb 0xC065 = true → inp.length = 11 → n 1 2 < 4096 → fld (n 3 8) 40 16 = 0 → fld (n 3 8) 62 61 ≠ 3 →
        exec (.linkKeySet mb inp) s = .next (mbSt (modLink s c (fun p => { p with keys := smSet 0 p.keys (n 1 2) (BitVec.ofNat 64 (n 3 8)) })) mb 0xC065 .ok)))) ∧
  (∀ (idx : Nat) (s : State), (regionAt s idx).revokes ≠ [] →
    exec (.revocationDrainEnd idx) s = .next (revokeStep (2 * (regionAt s idx).revokes.length + 1) s idx)) ∧
  (∀ (c : Ch) (r : Sys2Proof.Ring) (s : State) (idx par : Nat), (s.ring c r).wait = .drain idx par → drainOf (regionAt s idx) par ≠ 0xFFFFFF →
    exec (.regionAdmissionResume c r) s = .next (mbDispatch (forCh (setWait s c r .released) allCh wbWake)))

/-- Programs, reads, failures, collection, erase, journal, checkpoints and the media commands with nothing in their way. On a channel that is up with a
T2: the oldest issued stripe's programs map its units and leave the buffer, with its pads and parity page on flash, unless both journal buffers are
full; a stripe that waits is padded; a program failure closes and marks its stripe block, and its units wait for other pages; a collection copies
the victim's valid units out; a ready stripe block's erase is issued; a long journal begins a checkpoint, and a durable one's anchor moves the
replay point; a full journal page, or one that a waiter needs, becomes durable; these five not while a supply warning holds them. A read of a mapped
unit counts by how it ended (on a failed die by its rebuild alone), and a lost unit is marked and reported; an erase failure retires the members; an
erase's end appends ERASE, replaces members due for it and frees the stripe block; a failed die is recorded and every stripe block of its group not
retired is marked; a temperature sample that is due is binned. MediaFormat, on flash not in use, drops FORMATTED, and at its end leaves flash
formatted and answers CAP_FMT (R410); MediaFlush, MediaDiscard and MediaSecureDiscard within the exported units start, and a discard clears every
slot of its run; the end of the work of a format or a discard ends its command. Which stripe blocks a die failure marks is log 69, and the work that
a temperature sample counts, with its bound, log 144, both the model's. (R278, R279, R281, R283, R284, R287, R288, R289, R291, R298, R299, R302) -/
def Obligations.MediaCommandsRun : Prop :=
  (∀ (c : Ch) (s : State), isUp s c = true → hasT2 (s.marl c) = true →
    let m := s.marl c
    (∀ (st : Fin 4) (group k : Nat), oldestStripe m st.val group = some k →
      let us := sortBy (fun a b => decide (a.pua.toNat ≤ b.pua.toNat)) (m.buffer.filter (fun u => stripeOf u.pua == k))
      let key := puaSb (BitVec.ofNat 33 (16 * k))
      (jFull m = false → exec (.stripeProgrammed c st group) s = .next (marlTasks (placeWaiting (imageRecords (closeIfDone
        (modMarl (us.foldl (fun t u => mapProgrammed t c u) s) c (fun m => landStripe m (BitVec.ofNat 2 st.val) k us)) c key) c) c) c)) ∧
      (∀ member : Nat, member < 16 →
        let s1 := m.opens.foldl (fun t o => if sbKey o.group o.sb = key then closeSb t c o else t) s
        exec (.programFailure c st group member) s = .next (placeWaiting (modMarl (markMember (markSb s1 c key) c key member 0) c (fun m => { m with
          buffer := m.buffer.map (fun u => if puaSb u.pua = key then { u with pua := puaNone, issued := false } else u) })) c))) ∧
    (m.hold = false →
      (∀ (st : Fin 4) (group : Nat) (o : OpenSb), openOf m st.val group = some o → 0 < o.filled →
        exec (.stripePad c st group) s = .next (endStripe s c o)) ∧
      (∀ k : Nat, gcRun s c = true ∨ gcUrgent s c = true → victim m = some k →
        let x := copyUnits c (validUnits m k) s
        exec (.collection c) s = .next (if x.1 then modMarl x.2 c (fun m => { m with due := m.due ++ [k] }) else x.2)) ∧
      (∀ group sb : Nat, sb < 16384 → eraseReady m (sbKey group sb) = true → (sbAt m (sbKey group sb)).erasing = false → groupOk m group = true →
        exec (.stripeBlockErase c group sb) s = .next (modSb s c (sbKey group sb) (fun b => { b with erasing := true }))) ∧
      (journalLong m = true → exec (.checkpoint c) s = .next (beginCkpt s c)) ∧
      (m.ckptStep ≠ 0 → m.ckptStep < durableJseq m →
        let a := nextAnchor m (ckptDir m m.ckptJseq) m.ckptJseq
        let journal := m.flash.journal.filter (fun p => decide (a.replay < p.first + p.recs.length))
        let f := { m.flash with anchor := a, snap := m.ckpt, journal := journal }
        let recs := journal.flatMap (fun p => p.recs) ++ m.jbuf
        let erased := (a.erases.1 - m.flash.anchor.erases.1) + (a.erases.2 - m.flash.anchor.erases.2)
        let named := m.ckpt.dirAt ++ m.ckpt.dir.map (fun e => e.2)
        exec (.anchorWrite c) s = .next (marlTasks (modMarl s c (fun m => { m with
          ckptStep := 0, ckpt := .empty, work := m.work + 2 + erased
          flash := { f with store := f.store.filter (imageReached f recs), segs := f.segs.filter (fun e => named.any (fun a => a.toNat == e.1)) } })) c)) ∧
      (m.jbuf ≠ [] → jPageRecords ≤ m.jbuf.length ∨ jWaiter s c = true → exec (.journalPageProgrammed c) s = .next (pageDurable s c)))) ∧
  (∀ (c : Ch) (s : State), isUp s c = true →
    let m := s.marl c
    (∀ unit : Nat, (mapAt s c unit).mapped = true →
      let e := mapAt s c unit
      let key := puaSb e.pua
      let member := fld e.pua.toNat 3 0
      let dead := m.table.failed.contains (puaDie e.pua)
      let t := modMarl s c (fun m => { m with reads := m.reads + 1, health := { m.health with unitsRead := m.health.unitsRead + 1 } })
      let bits (u : State) (n : Nat) : State := modMHealth u c (fun h => { h with errBin := h.errBin.set! (errBin n) (h.errBin[errBin n]! + 1) })
      let steps (r f : Nat) : State := modMHealth t c (fun h => { h with retries := h.retries + r, soft := h.soft + f })
      let deep : State := if dead then steps 0 0 else steps 1 1
      (dead = false → ∀ n : Nat, exec (.nandReadComplete c unit (.hard n)) s = .next (bits t n) ∧
        exec (.nandReadComplete c unit (.retry n)) s = .next (bits (steps 1 0) n) ∧
        exec (.nandReadComplete c unit (.soft n)) s = .next (markSb (bits (steps 1 1) n) c key)) ∧
      exec (.nandReadComplete c unit .rebuilt) s = .next
        (markMember (markSb (modMHealth deep c (fun h => { h with rebuilt := h.rebuilt + 1 })) c key) c key member 2) ∧
      (let w := modFlash (modMHealth deep c (fun h => { h with unrecovered := h.unrecovered + 1 })) c (fun f =>
          { f with lostPuas := if f.lostPuas.contains e.pua.toNat then f.lostPuas else f.lostPuas ++ [e.pua.toNat] })
       exec (.nandReadComplete c unit .lost) s = .next
          (raiseC (markMember (markSb w c key) c key member 2) c 0x0504 sevErr (natLe unit 4)))) ∧
    (∀ group sb : Nat, sb < 16384 → (sbAt m (sbKey group sb)).erasing = true →
      let key := sbKey group sb
      let b := sbAt m key
      (∀ members : List Nat, exec (.eraseFailure c group sb members) s = .next (marlTasks (withCap s c (fun s =>
        retireMembers s c key ((dedup (members.filter (fun m => decide (m < 16)))).map (fun m => (m, 1))))) c)) ∧
      (let t := modMarl s c (fun m => { m with
          marked := m.marked.filter (fun k => k != key), due := m.due.filter (fun k => k != key), work := m.work + 16
          flash := { m.flash with
            pages := m.flash.pages.filter (fun p => puaSb (BitVec.ofNat 33 p.1) != key)
            lostPuas := m.flash.lostPuas.filter (fun p => puaSb (BitVec.ofNat 33 p) != key) } })
       let u := modSb (jAppend t c (.erase group sb (b.erases + 1))) c key (fun _ => { SbInfo.fresh with erases := b.erases + 1 })
       exec (.eraseComplete c group sb) s = .next (placeWaiting (marlTasks (withCap u c (fun s => retireMembers s c key b.retire)) c) c))) ∧
    (∀ die : Nat, die < 16 * groups m → m.table.failed.contains die = false →
      let bad := die :: m.table.failed.filter (fun d => d / 16 == die / 16)
      let gone := if bad.length < 2 then [] else
        (m.flash.pages.filter (fun p => fld p.1 32 30 == die / 16 && bad.contains (puaDie (BitVec.ofNat 33 p.1)))).map (fun p => p.1)
      let s1 := modTable s c (fun t => { t with failed := t.failed ++ [die] })
      let t := jAppend (modFlash s1 c (fun f => { f with lostPuas := f.lostPuas ++ gone.filter (fun p => !f.lostPuas.contains p) })) c (.dieFail die)
      let u := raiseC (((sbsOf m (die / 16)).filter (fun k => (sbAt m k).state != .retired)).foldl (fun t k => markSb t c k) t) c 0x0507 sevErr (natLe die 1)
      exec (.dieTimeout c die) s = .next u ∧ exec (.dieParameterChange c die) s = .next u)) ∧
  (∀ (c : Ch) (celsius : Int) (s : State), isUp s c = true → 2 ^ 16 ≤ (s.marl c).work ∨ 2 ^ 20 ≤ (s.marl c).reads →
    let t := modMarl s c (fun m => if 2 ^ 16 ≤ m.work then { m with work := m.work - 2 ^ 16 } else { m with reads := m.reads - 2 ^ 20 })
    exec (.temperatureSample c celsius) s = .next (modMHealth t c (fun h =>
    let first := h.tempHist.toList.all (fun n => n == 0)
    let i := (min 63 (max 0 ((celsius + 20) / 2))).toNat
    { h with tempMax := if first then celsius else max h.tempMax celsius, tempMin := if first then celsius else min h.tempMin celsius,
             tempHist := h.tempHist.set! i (h.tempHist[i]! + 1) }))) ∧
  (∀ (mb : Mbox) (inp : List Byte) (c : Ch) (s : State), chOf (bnum inp 0 1) = some c → mbNamesCh s mb c = true → (s.mb mb).bg = none →
    (mbServes s mb 0xC040 = true → inp.length = 1 → isUp s c = true → 16 ≤ (s.marl c).dies → mediaInUse s c = false →
      exec (.mediaFormat mb inp) s = .next (modMarl (mbStart s mb 0xC040 (.mediaFormat c.val)) c (fun m => { m with
        map := [], opens := [], buffer := [], jbuf := [], marked := [], ckptStep := 0, images := [], frozen := [], frozenAt := [], due := [], pendImgs := []
        flash := { m.flash with formatted := false, pages := [], journal := [], store := [] } }))) ∧
    (mbServes s mb 0xC041 = true → inp.length = 2 → bnum inp 1 1 ≤ 1 → isUp s c = true → hasT2 (s.marl c) = true →
      exec (.mediaFlush mb inp) s = .next (marlTasks (padOpens (mbStart s mb 0xC041
        (.mediaFlush c.val (bnum inp 1 1 == 1) 0 (s.marl c).flash.wseq 0)) c (fun _ => true)) c)) ∧
    (inp.length = 9 → discardBad s c (bnum inp 1 4) (bnum inp 5 4) = none →
      let first := bnum inp 1 4
      let n := bnum inp 5 4
      let us := unitsIn (s.marl c) first n
      (mbServes s mb 0xC042 = true → exec (.mediaDiscard mb inp) s = .next
        (us.foldl (fun t u => clearSlots t c u 0xFF false) (mbStart s mb 0xC042 (.mediaDiscard c.val)))) ∧
      (mbServes s mb 0xC043 = true →
        let inFlash := (s.marl c).flash.pages.filter (fun p => (p.2.kind == 0 || p.2.kind == 5) && decide (first ≤ p.2.lu ∧ p.2.lu < first + n))
        let t := mbStart s mb 0xC043 (.secureDiscard c.val first n
          (dedup (us.map (fun u => (mapAt s c u).owner.toNat) ++ inFlash.map (fun p => p.2.owner.toNat))) none)
        exec (.mediaSecureDiscard mb inp) s = .next (marlTasks (padOpens (us.foldl (fun t u => clearSlots t c u 0xFF true) t) c
          (fun u => decide (first ≤ u.page.lu ∧ u.page.lu < first + n))) c)))) ∧
  (∀ (mb : Mbox) (c : Ch) (s : State), (∀ x : Mbox, x ≠ mb → (s.mb x).bg = none) →
    ((s.mb mb).bg = some (.mediaFormat c.val) →
      mediaStep s = mbDone (formatFlash s c) mb .ok (natLe ((formatFlash s c).marl c).flash.capFmt 8)) ∧
    ((s.mb mb).bg = some (.mediaDiscard c.val) → mediaStep s = mbDone s mb .ok []))

/-- Supply, trip and cold start events, channel starts, the self-test and stack lanes, each where its event can arise. With the island up: a rail's
sample below its warning level (R474), when its WARN bit is clear, sets its WARN bit, counts, and, when it is the first of all, sets supply level 3,
starts the flushes, raises EV_SUPPLY_WARN, tells the peers and awaits the channels, a test being aborted; a further rail only counts, raises and
aborts a test. An alert of the VCORE or VSRAM regulator reads STATUS_WORD, and a fault is such a crossing. A channel that does not acknowledge is
isolated; a rail 20 mV above its level recovers, the last one lifting level 3 and the holds, and one that becomes valid for the first time only
leaves WARN; a complete flush makes the journal buffers durable; a reset of VCORE or VSRAM takes every present channel to Off; their return starts
the channels; VAON's fall leaves the cold state, and its rise boots Kiln, reads the key log and shows the rails of the later stages in WARN until
they are valid. A trip temperature holds every channel and starts the flush, and its bound isolates all and asserts THERMTRIP_N. A fatal fault
isolates its channel with CAUSE 4. A channel that waits to start does so while Kiln runs, no test is under way, both rails are valid and, from Off,
no rail is in warning. The fallback test begins inside its window, once every rail has been valid, and stops outside it. Group g starts when it is
next, fewer than C groups run and group g - C has ended, and clears a channel that is not up; its end stores its record, and the last group ends the
test. On a running channel a new lane failure below 2,064 counts; it isolates the channel when both halves have failed, halves the width and
degrades a Ready channel when one has, and else brings in the group's spare on its first failure. The abort by a further rail and WARN of the stages
are log 155, what stops a start or a test log 95, the lanes' halves log 99, supply choices log 105, trip choices log 116: the model's. (R476, R477,
R478, R481, R462, R465, R466, R461, R471, R498, R447, R45) -/
def Obligations.SupplyStartsAndTestsRun : Prop :=
  (
  (∀ (r : Rail) (mv : Nat) (s0 : State), s0.island.supply.aon = true → inWarn s0 r = false →
    let v (s : State) : State :=
    let s1 := modSupply s (fun y => { y with low := if y.low.contains r then y.low else y.low ++ [r], warn := y.warn ||| (1#8 <<< (railCode r).val) })
    let t := modDev (vcoreSample s1 r mv) (fun d => { d with
      supplyWarns := d.supplyWarns + 1, pfPin := d.pfPin + b2n (r == .pwrfail)
      railWarn := d.railWarn.set (railCode r) (d.railWarn[railCode r] + 1) })
    let det := natLe (railCode r).val 1 ++ natLe mv 2
    let u := raiseD (startFlush (supplyThrottle t 3)) 0x0100 sevWarn det
    let ups := allCh.filter (isUp u)
    abortTest (if s.island.supply.warn &&& ~~~ s.island.supply.rising = 0 then
        modSupply (forCh u ups (fun t c => sendFlit t c true false)) (fun y => { y with ackDue := ups.map (fun c => c.val) })
      else raiseD t 0x0100 sevWarn det) 2
    (r ≠ .vaonIo → r = .pwrfail ∨ 100 * mv < warnLevel r → exec (.supplyWarn r mv) s0 = .next (v s0)) ∧
    (r = .vcore ∨ r = .vsram → exec (.regulatorAlert r true mv) s0 = .next (v (emit s0 (.statusWord r))))) ∧
  (∀ (mv : Nat) (s : State), exec (.supplyWarn .vaonIo mv) s = .next (modSupply s (fun y => { y with io := false }))) ∧
  (∀ (c : Ch) (s : State), s.island.supply.ackDue.contains c.val = true →
    let t := modSupply s (fun y => { y with ackDue := y.ackDue.filter (fun n => n != c.val) })
    exec (.warnAckTimeout c) s = .next (tripCheck (isolateCh (modMarl t c (fun m => { m with flushing := false })) c 4))) ∧
  (∀ (r : Rail) (mv : Nat) (s0 : State), r ≠ .vaonIo → inWarn s0 r = true → r = .pwrfail ∨ warnLevel r + 2000 < 100 * mv →
    let s := modSupply s0 (fun y => { y with low := y.low.filter (fun q => q != r) })
    let t := vcoreSample (modSupply s (fun y => { y with
      warn := y.warn &&& ~~~ (1#8 <<< (railCode r).val), rising := y.rising &&& ~~~ (1#8 <<< (railCode r).val) })) r mv
    exec (.supplyOk r mv) s0 = .next (
      if s.island.supply.low.any (fun q => railCode q == railCode r) then s
      else if s.island.supply.rising.getLsbD (railCode r) = false ∧ t.island.supply.warn &&& ~~~ t.island.supply.rising = 0 then
        forCh (raiseD (supplyThrottle t 0) 0x0101 sevInfo (natLe (railCode r).val 1 ++ natLe mv 2)) allCh
          (fun t c => if (t.marl c).flushing then t else unhold t c)
      else t)) ∧
  (∀ (c : Ch) (s : State), (s.marl c).flushing = true →
    let page (t : State) : State := if (t.marl c).jbuf = [] then t else pageDurable t c
    let t := modMarl (page (page s)) c (fun m => { m with flushing := false })
    let u := if t.island.supply.warn &&& ~~~ t.island.supply.rising ≠ 0 ∨ t.island.supply.tripping = true then t else unhold t c
    exec (.flushComplete c) s = .next (tripCheck (modSupply u (fun y => { y with ackDue := y.ackDue.filter (fun n => n != c.val) })))) ∧
  (∀ (r : Rail) (mv : Nat) (s : State), s.island.supply.aon = true → r = .vcore ∧ mv < 620 ∨ r = .vsram ∧ mv < 700 → s.island.supply.down.contains r = false →
    s.island.supply.rising.getLsbD (railCode r) = false →
    let used := (presentChs s).any (fun c => (s.ch c).state != .off)
    let t := modDev s (fun d => { d with
      supplyResets := d.supplyResets + 1, railReset := d.railReset.set (railCode r) (d.railReset[railCode r] + 1) })
    let u := abortTest (modSupply t (fun y => { y with
      down := y.down ++ [r], low := if y.low.contains r then y.low else y.low ++ [r], warn := y.warn ||| (1#8 <<< (railCode r).val), tripping := false, ackDue := [] })) 2
    let v := if used then dropResult u 4 else u
    let w := forCh v (presentChs v) (fun t c => modCh (resetCh (endOps t c) c false) c (fun ch => { ch with state := .off }))
    exec (.supplyReset { rail := r, mv }) s = .next (mbDispatch (destroyAfterReset (endChTasks (rebuildRegions w))))) ∧
  (∀ (s : State), s.island.supply.down ≠ [] → inWarn s .vcore = false → inWarn s .vsram = false →
    let t := modSupply s (fun y => { y with down := [] })
    exec .supplyRestored s = .next (beginStarts t (offConnected t))) ∧
  (∀ (s : State), exec .vaonReset s = .next (rebuildRegions (coldState s)) ∧
    (s.island.supply.aon = false → 
      let l := klStart s.island.keyLog
      exec .coldStart s = .next (modSupply (modIsland s (fun i => { i with
        kiln := .booting, cause := 0, keyLog := l, keySlots := (klRead (klActive l)).foldl keyFromLog [] }))
        (fun y => { y with aon := true, warn := 0x3B, rising := 0x3B
                           low := [.vcore, .vsram, .vnand, .stack 0, .stack 1, .stack 2, .phy 0, .phy 1, .phy 2] })))) ∧
  (∀ (c : Ch) (tj : Int) (s : State), s.island.supply.aon = true → 115 ≤ tj → s.island.supply.tripping = false →
    s.island.supply.thermtrip = false ∨ allCh.any (isUp s) = true →
    let t := joinTemps (modCh s c (fun ch => { ch with throttle := { ch.throttle with tj, die := tj } })) c tj tj
    let u := forCh t allCh (fun t d => modCh t d (fun ch => { ch with throttle := { ch.throttle with tripHold := true } }))
    let v := abortTest (dropResult (startFlush (modDev u (fun d => { d with trips := d.trips + 1 }))) 4) 3
    exec (.thermalTrip c tj) s = .next (tripCheck (modSupply v (fun y => { y with tripping := true })))) ∧
  (∀ (s : State), s.island.supply.tripping = true → exec .thermalTripBound s = .next (tripFinish s)) ∧
  (∀ (c : Ch) (s : State), isUp s c = true → exec (.fatalFault c) s = .next (isolateCh s c 4))) ∧
  (
  (∀ (c : Ch) (st : StartReport) (s : State), s.island.supply.aon = true → s.island.kiln ≠ .booting → s.island.selfTest.starts.contains c.val = true →
    s.island.selfTest.state = 0 → s.island.supply.down = [] → (s.ch c).state ≠ .off ∨ s.island.supply.warn = 0 →
    exec (.channelStart c st) s = .next (startNow s c st)) ∧
  (∀ (mv : Nat) (tj : Int) (s : State), s.island.selfTest.state = 2 → s.island.supply.down = [] → s.island.supply.rising = 0 → 720 ≤ mv → mv ≤ 800 → tj ≤ 85 →
    exec (.selfTestWindowCheck mv tj) s = .next (modTest (modDev s (fun d => { d with testsStart := d.testsStart + 1 }))
      (fun x => { x with state := 1, vcoreMv := mv, tjMax := tj, running := [], got := [] }))) ∧
  (∀ (mv : Nat) (tj : Int) (s : State), s.island.selfTest.state = 1 → s.island.selfTest.atShut = false → mv < 720 ∨ 800 < mv ∨ 85 < tj →
    exec (.selfTestWindowCheck mv tj) s = .next (modTest s (fun x => { x with
      state := 2, todo := ascGroups (x.got.map (fun e => e.1) ++ x.running ++ x.todo), running := [], got := [] }))) ∧
  (∀ (g : Ch) (s : State),
    let x := s.island.selfTest
    let n := fld s.island.stCfg.toNat 31 30 + 1
    x.state = 1 → x.todo.head? = some g.val → x.running.length < n → (g.val < n ∨ x.running.contains (g.val - n) = false) →
    let t := modTest s (fun x => { x with todo := x.todo.drop 1, running := x.running ++ [g.val] })
    exec (.selfTestGroupStart g) s = .next (if isUp t g then t
      else modCh t g (fun ch => { ch with t0 := [], keyCache := [], sieve := sieveAfterReset ch.sieve }))) ∧
  (∀ (g : Ch) (rec : GroupRec) (s : State), s.island.selfTest.running.contains g.val = true →
    let t := modTest s (fun x => { x with
      running := x.running.filter (fun n => n != g.val), got := smPut x.got g.val rec
      groups := if x.atShut then x.groups else x.groups.set g (some rec) })
    let t := if t.island.selfTest.atShut then t else modCh t g (fun ch => { ch with eng := { ch.eng with rtLanes := [] } })
    exec (.selfTestGroupEnd g rec) s = .next (if t.island.selfTest.todo.isEmpty ∧ t.island.selfTest.running.isEmpty then testEnds t else t)) ∧
  (∀ (c : Ch) (lane : Nat) (s : State), isUp s c = true → lane < 2064 → (s.ch c).eng.lanes.contains lane = false →
    let e := (s.ch c).eng
    let lanes := e.lanes ++ [lane]
    let t := modCh s c (fun ch => { ch with eng := { ch.eng with lanes, rtLanes := ch.eng.rtLanes ++ [lane] } })
    (stackLost lanes = true → exec (.stackLaneFailure c lane) s = .next (isolateCh t c 2)) ∧
    (stackLost lanes = false → stackHalf lanes = true → e.half = false →
      let u := modCh t c (fun ch => { ch with eng := { ch.eng with half := true, markHalf := true } })
      exec (.stackLaneFailure c lane) s = .next (if (u.ch c).state = .ready then setChState u c .degraded 2 else u)) ∧
    (stackHalf lanes = false → laneCount lanes (lane / 129) = 1 →
      exec (.stackLaneFailure c lane) s = .next (raiseSpare (modHealth t c (fun h => { h with laneSpares := h.laneSpares + 1 })) c 2 lane))))

/-- A thermal sample sets the channel's level by the greater reading, with its hysteresis. For a thermal sample of a present channel, with the island up
and both rails valid, and T the THROTTLE_C of ST_CFG: with Tj the greater of the two readings, the command answers a state in which the channel's Tj
is that and its thermal level is 3 at or above T + 4, 2 at T + 2 or T + 3, 1 at T or T + 1, 0 below T - 5, and between, 0 where it was 0 and 1 where
it was not; every other channel's thermal level, and this channel's supply and governor levels, are as before; and the device's THROTTLES count
rises by one when, and only when, the level leaves 0. (R480, R482) -/
def Obligations.ThermalLevelFollowsTheTemperature : Prop :=
  ∀ (c : Ch) (sensor : Byte) (die stack : Int) (s : State),
    s.island.supply.aon = true → s.island.supply.down = [] → isPresent s c = true →
    let tC : Int := fld s.island.stCfg.toNat 19 12
    let tj := if die ≤ stack then stack else die
    let old := (s.ch c).throttle.thermal
    let level := if tC + 4 ≤ tj then 3 else if tC + 2 ≤ tj then 2 else if tC ≤ tj then 1 else if tj < tC - 5 then 0 else if old = 0 then 0 else 1
    ∃ t : State, exec (.thermalSample c sensor die stack) s = .next t ∧
      (t.ch c).throttle = { (s.ch c).throttle with thermal := level, tj, die } ∧
      (∀ d : Ch, d ≠ c → (t.ch d).throttle = (s.ch d).throttle) ∧
      t.island.devHealth.throttles = s.island.devHealth.throttles + (if old = 0 ∧ level ≠ 0 then 1 else 0)

/-- The governor moves its level by at most one a window, and every channel has it. For a governor window with the island up: with LIMIT_W at or above
820 no level, setpoint or power reading changes; below 820, with W the package power in watts (R503: the five readings and 2 W, in whole watts
downwards, which is log 186), the level is one more (at most 3) when W exceeds LIMIT_W, one less (at least 0) when W is below 95 percent of it, else
as before; every channel's governor level is that and its other levels are as before; GOV_STATUS's power reading is W; and the VCORE setpoint is 10
mV lower, at least 700, when the level was 3 and W still exceeds LIMIT_W, 10 mV higher, at most 760, when the level was 0 and the setpoint below
760, else as before. (R483, R482, R502) -/
def Obligations.GovernorLevelAppliesToEveryChannel : Prop :=
  ∀ (sense : PowerSense) (mv : Nat) (s : State), s.island.supply.aon = true →
    let watts := (10 * sense.core * mv + sense.sram * sense.sramMv + sense.nand * sense.nandMv + 10000 * sense.stk + 2000 * sense.phy + 20000) / 10000
    let y := s.island.supply
    let limit := limitW s
    let old := y.govLevel
    let level := if limit < watts then (if old < 3 then old + 1 else 3) else if 100 * watts < 95 * limit then old - 1 else old
    let sp := if old = 3 ∧ limit < watts then (if 710 ≤ y.setpoint then y.setpoint - 10 else 700)
      else if old = 0 ∧ y.setpoint < 760 then (if y.setpoint ≤ 750 then y.setpoint + 10 else 760) else y.setpoint
    ∃ t : State, exec (.governorWindow sense mv) s = .next t ∧
      (820 ≤ limit → t.island.supply = { y with vcoreMv := BitVec.ofNat 16 mv } ∧ ∀ c : Ch, t.ch c = s.ch c) ∧
      (limit < 820 →
        t.island.supply = { y with vcoreMv := BitVec.ofNat 16 mv, govLevel := level, powerW := BitVec.ofNat 11 watts, setpoint := sp } ∧
        ∀ c : Ch, t.ch c = { s.ch c with throttle := { (s.ch c).throttle with governor := level } })

/-- Link enable, training, lanes, retrains, credits, flits, packet arrival and PAUSE, each where its event can arise. A write of LINK_CFG that reaches
its channel and that no fence holds enables the port, which trains from Down, where its reference clock is present, and sends its port number and
the device's serial number, or takes it down; SQ_TAIL of a connection with a send queue is taken modulo its size. With its reference clock present,
training's end brings a native port up at the width its good lanes allow (down with TRAIN_FAIL at none), and an Ethernet-compatible one at four
lanes when none has failed; a further failed lane retrains a native port and takes the other down; a retrain ends, with the clock present, at the
width left, or takes the port down when it exceeds its bound; loss of signal takes it down. With the port up: an uncorrectable flit sets FEC_UNCORR
and counts, credits let packets start, a control flit raises EV_LINK_PEER_STATE, a sound response packet on an open connection is queued, with
BAD_CONN set where the connection is not Ready, one without credit or with a bad CRC sets its bit of LINK_ERR, and a PAUSE frame holds answers, or
lets those held go. (R374, R375, R379, R394, R395, R387, R140, R415, R382, R378) -/
def Obligations.LinkPortEventsRun : Prop :=
  (∀ (l : Ld) (c : Ch) (v : Word32) (s : State), hostReaches s l c = true →
    (fenced s c = false → exec (.linkEnableWrite l c v) s = .next (
      if bit v.toNat 13 then
        let t := modLink s c (fun p => { p with enable := true, fecCorr := 0, fecUncorr := 0 })
        if (t.ch c).link.state = .down ∧ (t.ch c).pace.refclk = true then
          emit (modLink t c (fun p => { p with state := .training, width := 0, laneFailed := 0, spareUsed := false, peerValid := false }))
            (.train c.val c.val s.build.serial)
        else t
      else linkDown (modLink s c (fun p => { p with enable := false })) c 0)) ∧
    (∀ conn : Nat, conn < connCount s c → (connAt s c conn).state ≠ .closed → (connAt s c conn).params.sqLog2 ≠ 0 →
      exec (.sqTailWrite l c conn v) s = .next (modConn s c conn (fun k => { k with sqTail := fld v.toNat 11 0 % 2 ^ k.params.sqLog2.toNat })))) ∧
  (∀ (c : Ch) (failed : BitVec 5) (peer : PeerInfo) (s : State), (s.ch c).link.state = .training → (s.ch c).pace.refclk = true →
    let t := modLink s c (fun p => { p with laneFailed := failed })
    let done (u : State) : State := pump (raiseC u c 0x0700 sevInfo (natLe c.val 1 ++ natLe (u.ch c).link.width 1 ++ natLe (linkPeer u c) 4)) c
    (isEthernet s c = true → exec (.linkTrainingDone c failed peer) s = .next (
      if failedMain failed = 0 then done (modLink t c (fun p => { p with state := .up, width := 4 })) else linkDown (linkErr t c leTrain) c 2)) ∧
    (isEthernet s c = false → exec (.linkTrainingDone c failed peer) s = .next (
      if linkWidth failed = 0 then linkDown (linkErr t c leTrain) c 2
      else done (linkAtWidth (modLink t c (fun p => { p with peerValid := true, peer })) c)))) ∧
  (∀ (c : Ch) (lane : Fin 5) (s : State), (s.ch c).link.state = .up → (s.ch c).link.laneFailed.getLsbD lane = false →
    let t := modLink s c (fun p => { p with laneFailed := p.laneFailed ||| (1#5 <<< lane.val) })
    (isEthernet s c = true → exec (.linkLaneFailure c lane) s = .next (if lane.val < 4 then linkDown t c 1 else s)) ∧
    (isEthernet s c = false → exec (.linkLaneFailure c lane) s = .next (
      if lane.val = 4 ∧ (s.ch c).link.spareUsed = false then t else modLink t c (fun p => { p with state := .retraining })))) ∧
  (∀ (c : Ch) (s : State), (s.ch c).link.state = .retraining →
    ((s.ch c).pace.refclk = true → exec (.linkRetrainDone c) s = .next (
      if linkWidth (s.ch c).link.laneFailed = 0 then linkDown (linkErr s c leTrain) c 2 else pump (linkAtWidth s c) c)) ∧
    exec (.linkRetrainTimeout c) s = .next (linkDown (linkErr s c leTrain) c 2)) ∧
  (∀ (c : Ch) (s : State), exec (.linkLossOfSignal c) s = .next (linkDown s c 1)) ∧
  (∀ (c : Ch) (s : State), (s.ch c).link.state = .up →
    exec (.uncorrectableFlit c) s = .next (modLink s c (fun p =>
      { p with err := p.err ||| leFec, fecUncorr := if p.fecUncorr = 0xFFFFFFFF then p.fecUncorr else p.fecUncorr + 1 })) ∧
    (isEthernet s c = false →
      (∀ n : Nat, exec (.creditAdvertised c n) s = .next (pump (modLink s c (fun p => { p with credits := p.credits + n })) c)) ∧
      (∀ f : PeerFlit, exec (.controlFlit c f) s = .next
        (raiseC s c 0x0705 sevWarn (natLe c.val 1 ++ natLe f.state.toNat 1 ++ natLe (b2n f.supply + 2 * b2n f.connReset) 1))) ∧
      (∀ (hdr : BitVec 256) (payload : List Byte),
        let h := pktHdr hdr
        h.ver = 1 → 0x81 ≤ h.opc → h.opc ≤ 0x84 → (connAt s c h.dst).state ≠ .closed → h.src = (connAt s c h.dst).params.peerConn.toNat →
        ∀ n : Nat, exec (.packetReceive c hdr payload { crc := packetCrc { hdr, payload }, corrected := n, credit := true }) s = .next
          (modLink (noteBadConn (noteCorrected s c n) c h.dst) c (fun q => { q with rsp := q.rsp ++ [{ hdr, payload }] }))) ∧
      (∀ (hdr : BitVec 256) (payload : List Byte) (frame : LinkFrame),
        let t := noteCorrected s c frame.corrected
        (frame.credit = false → exec (.packetReceive c hdr payload frame) s = .next (modLink t c (fun p => { p with err := p.err ||| 2 }))) ∧
        (frame.credit = true → frame.crc ≠ packetCrc { hdr, payload } →
          exec (.packetReceive c hdr payload frame) s = .next (modLink t c (fun p => { p with err := p.err ||| 8 }))))) ∧
    (isEthernet s c = true → ∀ prio quanta : Nat,
      exec (.pauseFrame c prio quanta) s = .next (
        if quanta = 0 then
          (s.ch c).link.ethq.foldl (fun t a => emit t (.roce c.val a.1 a.2)) (modLink s c (fun p => { p with paused := false, ethq := [] }))
        else modLink s c (fun p => { p with paused := true }))))

/-- A native request packet is new, ahead, a duplicate or stale by the distance of its PSN from RCV_NEXT. For a sound native request packet, with n
symbols corrected, that arrives on a Ready connection of a native port that is up, with next the connection's RCV_NEXT and w = 2^32: a PSN equal to
next advances RCV_NEXT by 1 (modulo w), clears the note of a NAK_SEQ and queues the packet; a PSN ahead by 1 to 4,095 sends one NAK_SEQ that carries
RCV_NEXT, and nothing while that note stands; a PSN behind by no more than the PSNs that the receiver has counted is queued as a duplicate if it is
a LAST packet and is else dropped; a PSN behind by more, up to half of w, sets STALE_DROP. LINK_FEC_CORR counts the n symbols; no other field of the
connection changes. (R382, R378, R377, R389, R379) -/
def Obligations.RequestPacketsAreClassifiedByPsn : Prop :=
  ∀ (c : Ch) (hdr : BitVec 256) (payload : List Byte) (n : Nat) (s0 : State),
    let frame : LinkFrame := { crc := packetCrc { hdr, payload }, corrected := n, credit := true }
    let s := noteCorrected s0 c n
    let h := pktHdr hdr
    let k := connAt s c h.dst
    let p : Packet := { hdr, payload }
    (s.ch c).link.state = .up → isEthernet s c = false → h.ver = 1 → 1 ≤ h.opc → h.opc ≤ 6 → k.state = .ready → h.src = k.params.peerConn.toNat →
    (h.psn = k.rcvNext →
      exec (.packetReceive c hdr payload frame) s0 = .next (modLink
        (modConn s c h.dst (fun k => { k with rcvNext := (k.rcvNext + 1) % 2 ^ 32, rcvCount := min 4096 (k.rcvCount + 1), nakSent := false })) c
        (fun q => { q with rx := q.rx ++ [.native false p] }))) ∧
    (∀ a : Nat, 1 ≤ a → a < 4096 → h.psn = (k.rcvNext + a) % 2 ^ 32 →
      exec (.packetReceive c hdr payload frame) s0 = .next (if k.nakSent then s
        else sendPkts (modConn s c h.dst (fun k => { k with nakSent := true })) c
          [respPkt k h.dst 0x84 k.rcvNext h.kind h.id 0 0 0 true true []])) ∧
    (∀ b : Nat, 1 ≤ b → b ≤ 2 ^ 31 → h.psn = (k.rcvNext + (2 ^ 32 - b)) % 2 ^ 32 →
      (b ≤ k.rcvCount → exec (.packetReceive c hdr payload frame) s0 = .next (
        if h.last then modLink s c (fun q => { q with rx := q.rx ++ [.native true p] }) else s)) ∧
      (k.rcvCount < b → exec (.packetReceive c hdr payload frame) s0 = .next (linkErr s c leStale)))

/-- Native requests, duplicates, responses, retries, send queues and RoCEv2 requests with nothing in their way. For the oldest received packet of a
channel: a native request that begins its operation, is admitted, meets no further refusal (its channel has the key), has room in the write-back
queue and finds no holder or earlier request at its lines is applied at its target, and at its LAST packet counted out, recorded and answered; a
duplicate of an atomic, a write or a refused read is answered from its record without being applied again, and a read from memory as it now stands.
A response to an outstanding operation of a send queue ends it with its record: ACK with its status, READ_RESP as its bytes arrive, ATOMIC_RESP with
the word found. NAK_SEQ resends the operations at or after its PSN. A ready send-queue entry with sound fields starts its operation. An operation
timer retries up to RETRY_MAX, then ends the connection in Error; a retransmit wait resends. A RoCEv2 packet of another framing than R395's is
dropped (log 84, the model's), one with a failing ICRC sets CRC, one on a Closed connection sets BAD_CONN, and any other is classified and served in
order, after a CNP where it is marked CE. (R380, R381, R383, R384, R385, R386, R387, R388, R389, R390, R391, R397) -/
def Obligations.LinkOperationsRun : Prop :=
  (∀ (c : Ch) (env : Env) (s : State) (p : Packet) (rest : List RxPkt),
    let q := reqNative false p
    let s1 := takeEnv s c env
    let u : RxOp := { refused := none, tgtKind := BitVec.ofNat 2 q.kind, tgtId := BitVec.ofNat 32 q.id, addr := q.addr, pkts := 0, left := q.total, adm := none }
    ∀ (adm : Option (Nat × Nat)) (i : Instr × Nat),
    i ∈ [(.write c env, 1), (.readReq c env, 2), (.add8 c env, 3), (.add16 c env, 4), (.cas8 c env, 5), (.cas16 c env, 6)] →
    (s.ch c).link.rx = .native false p :: rest → (pktHdr p.hdr).opc = i.2 → q.first = true → (connAt s1 c q.conn).rx = none →
    rxAdmit s1 c q = .ok adm →
    let s2 := match adm with
      | some a => regionCount s1 a.1 a.2
      | none => s1
    let o := { u with adm := adm }
    let s3 := rxKey s2 c o.tgtKind.toNat o.tgtId.toNat
    rxNext s3 c q o = none → rxHolds s3 c q o.tgtKind.toNat o.addr = false → linesReady s3 (.rx c q.conn) (rxLines c q o.tgtKind.toNat o.addr) = true →
    let x := rxPerform s3 c q o.tgtKind.toNat o.tgtId.toNat o.addr
    let t := if q.last then rxClose x.2 c q o x.1
      else modConn x.2 c q.conn (fun k => { k with rx := some { o with addr := o.addr + q.len, pkts := 1, left := o.left - q.len } })
    exec i.1 s = .next (linkRest (leaveLines (modRx t c (fun xs => xs.eraseIdx 0)) (.rx c q.conn)))) ∧
  (∀ (c : Ch) (env : Env) (s : State) (p : Packet) (rest : List RxPkt) (d : DupRec),
    let s1 := takeEnv s c env
    let q := reqNative true p
    (s.ch c).link.rx = .native true p :: rest → (connAt s1 c q.conn).dups.find? (fun d => d.psn == q.psn) = some d →
    let q2 := { q with op := reqOpOf d.opc.toNat, kind := d.tgtKind.toNat, id := d.tgtId.toNat }
    let q3 := { q2 with addr := d.addr, len := d.len, total := d.len, first := true, bad := false, deny := false }
    let prior := if d.applied then 1 else 2
    let l := dupLstat s1 c q2 d
    let done (t : State) : State := linkRest (leaveLines (modRx t c (fun xs => xs.eraseIdx 0)) (.rx c q.conn))
    (d.opc ≠ 2 ∨ (d.lstat ≠ 0 ∧ d.lstat ≠ 7) ∨ l ≠ d.lstat.toNat →
      exec (.duplicateLast c env) s = .next (done (rxAnswer s1 c q2 prior { lstat := l, word := d.word.toNat, data := [] }))) ∧
    (d.opc = 2 → d.lstat = 0 ∨ d.lstat = 7 → l = d.lstat.toNat →
      (∀ e : Nat, rxAdmit s1 c q3 = .refuse e →
        exec (.duplicateLast c env) s = .next (done (rxAnswer s1 c q3 prior { lstat := e, word := 0, data := [] }))) ∧
      (∀ a : Option (Nat × Nat), rxAdmit s1 c q3 = .ok a →
        let s2 := rxKey s1 c q3.kind q3.id
        let here := keyHere s2 c (regionAt s2 (regIdx q3.id)).owner.toNat
        (q3.kind = 0 → here = false →
          exec (.duplicateLast c env) s = .next (done (rxAnswer s2 c q3 prior { lstat := 0x0A, word := 0, data := [] }))) ∧
        (q3.kind ≠ 0 ∨ here = true → linesReady s2 (.rx c q3.conn) (rxLines c q3 q3.kind q3.addr) = true →
          let x := rxPerform s2 c q3 q3.kind q3.id q3.addr
          exec (.duplicateLast c env) s = .next (done (rxAnswer x.2 c q3 prior x.1)))))) ∧
  (∀ (c : Ch) (s : State) (p : Packet) (rest : List Packet) (o : OutOp),
    let h := pktHdr p.hdr
    (s.ch c).link.rsp = p :: rest →
    (connAt s c h.dst).outs.find? (fun o => o.last == h.psn && answers h.opc (outHdr o).opc) = some o →
    let ends (t : State) : State := linkRest (windowsStep (modLink t c (fun q => { q with rsp := q.rsp.eraseIdx 0 })) c)
    (h.opc = 0x82 → ∀ t : State, readArrives s c h.dst o h p.payload = (true, t) → exec (.readResp c) s = .next (ends t)) ∧
    (∀ (e : BitVec 512) (idx : Nat) (phase : Bool), o.src = .entry e idx phase →
      let t := dropOut s c h.dst o
      let applied := h.lstat == 0 || h.prior == 1
      (h.opc = 0x81 → exec (.ack c) s = .next (ends (sqFinish t c h.dst e idx phase (lstatSt (outHdr o).kind h.lstat) h.lstat h.prior applied o.retries 0))) ∧
      (h.opc = 0x83 → 3 ≤ (outHdr o).opc →
        let word := bnum p.payload 0 16
        exec (.atomicResp c) s = .next (ends (if h.lstat = 0 ∨ h.lstat = 0x0B ∨ h.prior = 1 then
            sqFinish (t0Write t c (fld e.toNat 335 312) (natLe word 16)) c h.dst e idx phase (lstatSt (outHdr o).kind h.lstat) h.lstat h.prior applied
              o.retries (word % 2 ^ 64)
          else sqFinish t c h.dst e idx phase (lstatSt (outHdr o).kind h.lstat) h.lstat h.prior applied o.retries 0))))) ∧
  (∀ (c : Ch) (s : State) (p : Packet) (i : Nat), (s.ch c).link.rsp.zipIdx.find? (fun x => (pktHdr x.1.hdr).opc == 0x84) = some (p, i) →
    let h := pktHdr p.hdr
    let t := modLink s c (fun q => { q with rsp := q.rsp.eraseIdx i })
    exec (.nakSeq c) s = .next (((connAt t c h.dst).outs.filter (fun o => !psnAhead 32 h.psn o.last)).foldl (fun t o => resend t c h.dst o) t)) ∧
  (∀ (c : Ch) (conn : Nat) (s : State), isUp s c = true →
    let k := connAt s c conn
    let d := sqEntry s c k k.sqIssue
    k.state = .ready → k.params.sqLog2 ≠ 0 → k.sqIssue ≠ k.sqTail → sqReady s c k d = true → entryBad d = none → isEthernet s c = false →
    issueWaits s c k = false → windowFull k (if entryOp d = .write then packetsFor (entryLen d) else 1) = false →
    exec (.sendQueueIssue c conn) s = .next (startOp (modConn s c conn sqAdvance) c conn (.entry (BitVec.ofNat 512 d) k.sqIssue k.sqPhase)
      (opcOf (entryOp d)) (fld d 409 408) (fld d 407 376) (fld d 375 336) (if entryOp d = .read then fld d 311 298 else 0) (entryPayload s c d))) ∧
  (∀ (c : Ch) (conn : Nat) (psn : Word32) (s : State) (o : OutOp),
    ((connAt s c conn).outs.find? (fun o => o.first == psn.toNat && timerRuns s c conn o) = some o →
      exec (.operationTimerExpiry c conn psn) s = .next (
        if o.retries < fld (s.ch c).cfg.linkCfg.toNat 21 18 then modOut s c conn o.first (fun o => { o with waiting := true })
        else linkRest (windowsStep (connError s c conn o) c))) ∧
    ((connAt s c conn).outs.find? (fun o => o.first == psn.toNat && o.waiting) = some o →
      exec (.retransmitWaitEnd c conn psn) s = .next (resend s c conn o))) ∧
  (∀ (c : Ch) (p : RocePkt) (env : Env) (s : State), (s.ch c).link.state = .up → isEthernet s c = true →
    let u := noteCorrected s c p.corrected
    let o := p.opcode.toNat
    let runs (t : Env → State) : Prop :=
      (o = 0x06 ∨ o = 0x07 ∨ o = 0x08 ∨ o = 0x0A → exec (.rdmaWrite c p env) s = .next (t env)) ∧
      (o = 0x0C → exec (.rdmaReadRequest c p env) s = .next (t env)) ∧
      (o = 0x13 → exec (.cmpswap c p env) s = .next (t env)) ∧
      (o = 0x14 → exec (.fetchadd c p env) s = .next (t env)) ∧
      (roceSupported o = false → exec (.roceUnsupportedRequest c p) s = .next (t Env.clean))
    (ethOk p.eth = false → runs (fun _ => u)) ∧
    (ethOk p.eth = true → p.icrcOk = false → runs (fun _ => linkErr u c leCrc)) ∧
    (ethOk p.eth = true → p.icrcOk = true → (connAt s c (roceConn p)).state = .closed → runs (fun _ => linkErr u c leBadConn)) ∧
    (ethOk p.eth = true → p.icrcOk = true → (connAt s c (roceConn p)).state ≠ .closed →
      let v := if p.ce then roceCnp u c (roceConn p) else u
      let extra := roceOver v c p
      let t := rxArrive (noteBadConn v c (roceConn p)) c (reqRoce v c false extra p) (fun d => .roce d extra p)
      runs (fun e => linkRest (roceSteps (t.ch c).link.rx.length t c e))))
end

