-- ==== Sys2Proof/Laws/Store.lean ====
section
/-! SUPPORT. The laws of sparse stores: every operation keeps the canonical form, a read after a write gives the value written, and a
write leaves every other index alone. -/

namespace Sys2Proof.Laws
open Sys2Proof Sys2Proof.Machine

variable {α : Type}

/-- What `smRising` says of a first index: it lies above the bound. -/
def Above (lo : Option Nat) (i : Nat) : Prop := ∀ b, lo = some b → b < i

theorem above_none (i : Nat) : Above none i := fun _ h => nomatch h

theorem above_some {b i : Nat} : Above (some b) i ↔ b < i := ⟨fun h => h b rfl, fun h _ e => by cases e; exact h⟩

theorem rising_cons {lo : Option Nat} {i : Nat} {v : α} {m : SMap α} :
    smRising lo ((i, v) :: m) = true ↔ Above lo i ∧ smRising (some i) m = true := by
  cases lo with
  | none => simp [smRising, above_none]
  | some b => simp [smRising, above_some]

theorem rising_weaken {lo : Option Nat} {i : Nat} {m : SMap α} (h : Above lo i) (hm : smRising (some i) m = true) :
    smRising lo m = true := by
  cases m with
  | nil => simp [smRising]
  | cons e m =>
    obtain ⟨j, v⟩ := e
    rw [rising_cons] at hm ⊢
    exact ⟨fun b hb => (h b hb).trans (above_some.1 hm.1), hm.2⟩

/-- Above every listed index, a store lists nothing. -/
theorem get?_below {m : SMap α} {i k : Nat} (hm : smRising (some i) m = true) (hk : k ≤ i) : smGet? m k = none := by
  cases m with
  | nil => rfl
  | cons e m =>
    obtain ⟨j, v⟩ := e
    have := above_some.1 (rising_cons.1 hm).1
    simp [smGet?, show j ≠ k by omega, show k < j by omega]

theorem put_rising {lo : Option Nat} {m : SMap α} {k : Nat} {v : α} (hm : smRising lo m = true) (hk : Above lo k) :
    smRising lo (smPut m k v) = true := by
  induction m generalizing lo with
  | nil => exact rising_cons.2 ⟨hk, rfl⟩
  | cons e m ih =>
    obtain ⟨i, w⟩ := e
    rw [rising_cons] at hm
    unfold smPut
    split
    · next h => exact rising_cons.2 ⟨hk, rising_cons.2 ⟨above_some.2 h, hm.2⟩⟩
    · split
      · next h => subst h; exact rising_cons.2 ⟨hk, hm.2⟩
      · exact rising_cons.2 ⟨hm.1, ih hm.2 (above_some.2 (by omega))⟩

theorem del_rising {lo : Option Nat} {m : SMap α} {k : Nat} (hm : smRising lo m = true) : smRising lo (smDel m k) = true := by
  induction m generalizing lo with
  | nil => exact hm
  | cons e m ih =>
    obtain ⟨i, w⟩ := e
    unfold smDel
    split
    · exact rising_weaken (rising_cons.1 hm).1 (rising_cons.1 hm).2
    · split
      · exact hm
      · exact rising_cons.2 ⟨(rising_cons.1 hm).1, ih (rising_cons.1 hm).2⟩

theorem put_mem {m : SMap α} {k : Nat} {v : α} {e : Nat × α} (h : e ∈ smPut m k v) : e = (k, v) ∨ e ∈ m := by
  induction m with
  | nil => simpa [smPut] using h
  | cons x m ih =>
    obtain ⟨i, w⟩ := x
    unfold smPut at h
    split at h
    · simpa using h
    · split at h
      · rcases List.mem_cons.1 h with h | h
        · exact .inl h
        · exact .inr (List.mem_cons_of_mem _ h)
      · rcases List.mem_cons.1 h with h | h
        · exact .inr (h ▸ List.mem_cons_self)
        · exact (ih h).imp id (List.mem_cons_of_mem _)

theorem del_mem {m : SMap α} {k : Nat} {e : Nat × α} (h : e ∈ smDel m k) : e ∈ m := by
  induction m with
  | nil => exact h
  | cons x m ih =>
    obtain ⟨i, w⟩ := x
    unfold smDel at h
    split at h
    · exact List.mem_cons_of_mem _ h
    · split at h
      · exact h
      · rcases List.mem_cons.1 h with h | h
        · exact h ▸ List.mem_cons_self
        · exact List.mem_cons_of_mem _ (ih h)

section
variable [DecidableEq α]

theorem wf_iff {d : α} {m : SMap α} : smWf d m = true ↔ smRising none m = true ∧ ∀ e ∈ m, e.2 ≠ d := by
  simp [smWf, List.all_eq_true]

/-- A write keeps the canonical form. -/
theorem set_wf {d : α} {m : SMap α} {k : Nat} {v : α} (h : smWf d m = true) : smWf d (smSet d m k v) = true := by
  rw [wf_iff] at h ⊢
  unfold smSet
  split
  · exact ⟨del_rising h.1, fun e he => h.2 e (del_mem he)⟩
  · next hv =>
    refine ⟨put_rising h.1 (above_none k), fun e he => ?_⟩
    rcases put_mem he with rfl | he
    · exact hv
    · exact h.2 e he

end

theorem get?_put {lo : Option Nat} {m : SMap α} {k j : Nat} {v : α} (hm : smRising lo m = true) :
    smGet? (smPut m k v) j = if j = k then some v else smGet? m j := by
  induction m generalizing lo with
  | nil =>
    unfold smPut smGet?
    split
    · next h => simp [h.symm]
    · next h => split <;> simp [smGet?, Ne.symm h]
  | cons e m ih =>
    obtain ⟨i, w⟩ := e
    have hm' := (rising_cons.1 hm).2
    unfold smPut
    split
    · next hk =>
      by_cases hj : j = k
      · subst hj; simp [smGet?]
      · by_cases hlt : j < k
        · simp [smGet?, hj, Ne.symm hj, hlt, show i ≠ j by omega, show j < i by omega]
        · simp [smGet?, hj, Ne.symm hj, hlt]
    · split
      · next h1 h2 =>
        subst h2
        by_cases hj : j = i
        · subst hj; simp [smGet?]
        · simp [smGet?, hj, Ne.symm hj]
      · next h1 h2 =>
        by_cases hij : i = j
        · subst hij; simp [smGet?, h2]
        · by_cases hlt : j < i
          · simp [smGet?, hij, hlt, show j ≠ k by omega]
          · simp [smGet?, hij, hlt, ih hm']

theorem get?_del {lo : Option Nat} {m : SMap α} {k j : Nat} (hm : smRising lo m = true) :
    smGet? (smDel m k) j = if j = k then none else smGet? m j := by
  induction m generalizing lo with
  | nil => simp [smDel, smGet?]
  | cons e m ih =>
    obtain ⟨i, w⟩ := e
    have hm' := (rising_cons.1 hm).2
    unfold smDel
    split
    · next h =>
      subst h
      by_cases hj : j = i
      · subst hj; simp [get?_below hm' (le_refl _)]
      · by_cases hlt : j < i
        · simp [smGet?, hj, Ne.symm hj, hlt, get?_below hm' hlt.le]
        · simp [smGet?, hj, Ne.symm hj, hlt]
    · split
      · next h1 h2 =>
        by_cases hj : j = k
        · subst hj; simp [smGet?, h1, h2]
        · simp [hj]
      · next h1 h2 =>
        by_cases hij : i = j
        · subst hij; simp [smGet?, h1]
        · by_cases hlt : j < i
          · simp [smGet?, hij, hlt]
          · simp [smGet?, hij, hlt, ih hm']

variable [DecidableEq α]

/-- A read after a write: the value written at its index, the old value anywhere else. -/
theorem get_set {d : α} {m : SMap α} {k j : Nat} {v : α} (hm : smRising none m = true) :
    smGet d (smSet d m k v) j = if j = k then v else smGet d m j := by
  unfold smGet smSet
  split
  · next h => subst h; rw [get?_del hm]; split <;> simp
  · rw [get?_put hm]; split <;> simp

theorem set_rising {d : α} {m : SMap α} {k : Nat} {v : α} (hm : smRising none m = true) : smRising none (smSet d m k v) = true := by
  unfold smSet
  split
  · exact del_rising hm
  · exact put_rising hm (above_none k)

/-- Writing a byte string keeps the canonical form. -/
theorem bytes_wf {m : SMap Byte} {a : Nat} {bs : List Byte} (h : smWf 0 m = true) : smWf 0 (smBytes m a bs) = true := by
  induction bs generalizing m a with
  | nil => exact h
  | cons b bs ih => exact ih (set_wf h)

theorem bytes_rising {m : SMap Byte} {a : Nat} {bs : List Byte} (h : smRising none m = true) : smRising none (smBytes m a bs) = true := by
  induction bs generalizing m a with
  | nil => exact h
  | cons b bs ih => exact ih (set_rising h)

/-- A byte read after a byte string is written: the string's byte inside it, the old byte outside. -/
theorem get_bytes {m : SMap Byte} {a j : Nat} {bs : List Byte} (hm : smRising none m = true) :
    smGet 0 (smBytes m a bs) j = if h : a ≤ j ∧ j < a + bs.length then bs[j - a]'(by omega) else smGet 0 m j := by
  induction bs generalizing m a with
  | nil => rw [dif_neg (by simp)]; rfl
  | cons b bs ih =>
    rw [smBytes, ih (set_rising hm), get_set hm]
    by_cases h1 : j = a
    · subst h1; simp
    · by_cases h2 : a + 1 ≤ j ∧ j < a + 1 + bs.length
      · have h3 : a ≤ j ∧ j < a + (b :: bs).length := by simp; omega
        rw [dif_pos h2, dif_pos h3]
        have : j - a = (j - (a + 1)) + 1 := by omega
        simp [this]
      · have h3 : ¬ (a ≤ j ∧ j < a + (b :: bs).length) := by simp; omega
        rw [dif_neg h2, dif_neg h3, if_neg h1]

theorem read_length {m : SMap Byte} {a n : Nat} : (smRead m a n).length = n := by
  induction n generalizing a with
  | zero => rfl
  | succ n ih => simp [smRead, ih]

theorem read_get {m : SMap Byte} {a n i : Nat} (h : i < n) : (smRead m a n)[i]'(by rw [read_length]; exact h) = smGet 0 m (a + i) := by
  induction n generalizing a i with
  | zero => omega
  | succ n ih =>
    cases i with
    | zero => simp [smRead]
    | succ i =>
      have := ih (a := a + 1) (i := i) (by omega)
      simp only [smRead, List.getElem_cons_succ, this]
      congr 1; omega

/-- Reading back a byte string just written gives it. -/
theorem read_bytes {m : SMap Byte} {a : Nat} {bs : List Byte} (hm : smRising none m = true) :
    smRead (smBytes m a bs) a bs.length = bs := by
  apply List.ext_getElem
  · exact read_length
  · intro i h1 h2
    rw [read_get (by omega), get_bytes hm, dif_pos ⟨by omega, by omega⟩]
    simp

/-- A read that a write does not touch gives what it gave. -/
theorem read_bytes_other {m : SMap Byte} {a b n : Nat} {bs : List Byte} (hm : smRising none m = true)
    (h : b + n ≤ a ∨ a + bs.length ≤ b) : smRead (smBytes m a bs) b n = smRead m b n := by
  apply List.ext_getElem
  · rw [read_length, read_length]
  · intro i h1 h2
    rw [read_length] at h1
    rw [read_get h1, read_get h1, get_bytes hm, dif_neg (by omega)]

end Sys2Proof.Laws
end

