-- ==== Sys2Proof/Laws/Keeps.lean ====
section
/-! SUPPORT. What every command keeps: the relation `Keeps` between the state before and after, and the rules that show it of a
definition from its parts. -/

namespace Sys2Proof.Laws
open Sys2Proof Sys2Proof.Machine

/-- What a change of the state never does: it never alters the build or the fuses, lowers MIN_SVN, touches the queue of commands, unsends
an output, or breaks the canonical form of T0 and T1 or the index range of an event queue. -/
structure Keeps (s t : State) : Prop where
  build : t.build = s.build
  minSvn : s.island.fw.minSvn.toNat ≤ t.island.fw.minSvn.toNat
  pending : t.pending = s.pending
  out : s.out <+: t.out
  free : s.freeCount ≤ t.freeCount
  mem : MemOk s → MemOk t
  evq : EvqOk s.island → EvqOk t.island

/-- A change of a channel keeps the canonical form of its memories. -/
def ChKeeps (a b : Channel) : Prop := chMemOk a = true → chMemOk b = true

/-- A change of the island keeps its part of `Keeps`. -/
structure IslKeeps (i j : Island) : Prop where
  minSvn : i.fw.minSvn.toNat ≤ j.fw.minSvn.toNat
  evq : EvqOk i → EvqOk j

theorem ChKeeps.of {a b : Channel} (h0 : b.t0 = a.t0) (h1 : b.t1 = a.t1) : ChKeeps a b := by
  intro h; rw [chMemOk, h0, h1]; exact h

/-- A change of T0 alone. -/
theorem ChKeeps.ofT0 {a b : Channel} (h0 : smWf 0 a.t0 = true → smWf 0 b.t0 = true) (h1 : b.t1 = a.t1) : ChKeeps a b := by
  intro h; simp only [chMemOk, Bool.and_eq_true, h1] at h ⊢; exact ⟨h0 h.1, h.2⟩

/-- A change of T1 alone. -/
theorem ChKeeps.ofT1 {a b : Channel} (h0 : b.t0 = a.t0) (h1 : smWf 0 a.t1 = true → smWf 0 b.t1 = true) : ChKeeps a b := by
  intro h; simp only [chMemOk, Bool.and_eq_true, h0] at h ⊢; exact ⟨h.1, h1 h.2⟩

/-- T0 cleared. -/
theorem ChKeeps.clear {a b : Channel} (h0 : b.t0 = []) (h1 : b.t1 = a.t1) : ChKeeps a b :=
  ChKeeps.ofT0 (fun _ => by rw [h0]; rfl) h1

theorem IslKeeps.of {i j : Island} (h0 : j.fw.minSvn = i.fw.minSvn) (h1 : j.evq = i.evq) : IslKeeps i j :=
  ⟨by rw [h0], fun h => by rw [EvqOk, h1]; exact h⟩

theorem Keeps.refl (s : State) : Keeps s s := ⟨rfl, le_rfl, rfl, List.prefix_refl _, le_rfl, id, id⟩

theorem Keeps.trans {a b c : State} (h : Keeps a b) (k : Keeps b c) : Keeps a c :=
  ⟨k.build.trans h.build, h.minSvn.trans k.minSvn, k.pending.trans h.pending, h.out.trans k.out, h.free.trans k.free, k.mem ∘ h.mem,
    k.evq ∘ h.evq⟩

variable {s0 : State}

/-- Every state that an optional result holds keeps. -/
def KO (s0 : State) (o : Option State) : Prop := ∀ t, o = some t → Keeps s0 t
/-- The same of an optional pair. -/
def KOP {α : Type} (s0 : State) (o : Option (α × State)) : Prop := ∀ a t, o = some (a, t) → Keeps s0 t
/-- The same of a result that may be an error. -/
def KE {α : Type} (s0 : State) (o : Except α State) : Prop := ∀ t, o = .ok t → Keeps s0 t
/-- The state that a program leaves, whatever it comes to, keeps. -/
def KP (s0 : State) : Prog → Prop
  | .wait t _ => Keeps s0 t
  | .refuse _ t _ => Keeps s0 t
  | .ok t _ => Keeps s0 t
/-- The same of the write-back of an object's dirty pieces. -/
def KF (s0 : State) : Flush → Prop
  | .wait t => Keeps s0 t
  | .stop _ t => Keeps s0 t
  | .done t => Keeps s0 t
/-- The same of one entry of a `Prune`. -/
def KS (s0 : State) : PruneStep → Prop
  | .done t => Keeps s0 t
  | _ => True
/-- The same of a command's outcome. -/
def KX (s0 : State) (o : Host.Outcome State Fault Refusal) : Prop := ∀ t, o = .next t → Keeps s0 t

theorem KO.none : KO s0 none := fun _ h => nomatch h
theorem KO.some {t : State} (h : Keeps s0 t) : KO s0 (some t) := fun _ e => by cases e; exact h
theorem KOP.none {α : Type} : KOP (α := α) s0 Option.none := fun _ _ h => nomatch h
theorem KOP.some {α : Type} {a : α} {t : State} (h : Keeps s0 t) : KOP s0 (Option.some (a, t)) := fun _ _ e => by cases e; exact h
theorem KE.error {α : Type} {a : α} : KE s0 (.error a) := fun _ h => nomatch h
theorem KE.ok {α : Type} {t : State} (h : Keeps s0 t) : KE (α := α) s0 (.ok t) := fun _ e => by cases e; exact h
theorem KX.next {t : State} (h : Keeps s0 t) : KX s0 (.next t) := fun _ e => by cases e; exact h

theorem KP.wait {t : State} {n : Nat} (h : Keeps s0 t) : KP s0 (.wait t n) := h
theorem KP.refuse {e : St} {t : State} {n : Nat} (h : Keeps s0 t) : KP s0 (.refuse e t n) := h
theorem KP.ok {t : State} {n : Nat} (h : Keeps s0 t) : KP s0 (.ok t n) := h
theorem KF.wait {t : State} (h : Keeps s0 t) : KF s0 (.wait t) := h
theorem KF.stop {x : Cpl} {t : State} (h : Keeps s0 t) : KF s0 (.stop x t) := h
theorem KF.done {t : State} (h : Keeps s0 t) : KF s0 (.done t) := h
theorem KS.done {t : State} (h : Keeps s0 t) : KS s0 (.done t) := h
theorem KS.left : KS s0 .left := trivial
theorem KS.skip : KS s0 .skip := trivial
theorem KS.hold : KS s0 .hold := trivial
theorem KS.full : KS s0 .full := trivial
theorem of_progWait {p : Prog} {t : State} {n : Nat} (e : p = .wait t n) (h : KP s0 p) : Keeps s0 t := by rw [e] at h; exact h
theorem of_progRefuse {p : Prog} {x : St} {t : State} {n : Nat} (e : p = .refuse x t n) (h : KP s0 p) : Keeps s0 t := by rw [e] at h; exact h
theorem of_progOk {p : Prog} {t : State} {n : Nat} (e : p = .ok t n) (h : KP s0 p) : Keeps s0 t := by rw [e] at h; exact h
theorem of_flushWait {p : Flush} {t : State} (e : p = .wait t) (h : KF s0 p) : Keeps s0 t := by rw [e] at h; exact h
theorem of_flushStop {p : Flush} {x : Cpl} {t : State} (e : p = .stop x t) (h : KF s0 p) : Keeps s0 t := by rw [e] at h; exact h
theorem of_flushDone {p : Flush} {t : State} (e : p = .done t) (h : KF s0 p) : Keeps s0 t := by rw [e] at h; exact h
theorem of_pruneDone {p : PruneStep} {t : State} (e : p = .done t) (h : KS s0 p) : Keeps s0 t := by rw [e] at h; exact h

theorem of_3of4 {α β γ : Type} {p : α × β × State × γ} {a : α} {b : β} {t : State} {g : γ} (e : p = (a, b, t, g)) (h : Keeps s0 p.2.2.1) :
    Keeps s0 t := by rw [e] at h; exact h
theorem of_4of4 {α β γ : Type} {p : α × β × γ × State} {a : α} {b : β} {t : State} {g : γ} (e : p = (a, b, g, t)) (h : Keeps s0 p.2.2.2) :
    Keeps s0 t := by rw [e] at h; exact h
theorem of_fst3 {α β : Type} {p : State × α × β} {t : State} {a : α} {b : β} (e : p = (t, a, b)) (h : Keeps s0 p.1) : Keeps s0 t := by
  rw [e] at h; exact h

theorem of_fst {α : Type} {p : State × α} {t : State} {a : α} (e : p = (t, a)) (h : Keeps s0 p.1) : Keeps s0 t := by rw [e] at h; exact h
theorem of_snd {α : Type} {p : α × State} {t : State} {a : α} (e : p = (a, t)) (h : Keeps s0 p.2) : Keeps s0 t := by rw [e] at h; exact h
theorem of_thd {α β : Type} {p : α × β × State} {t : State} {a : α} {b : β} (e : p = (a, b, t)) (h : Keeps s0 p.2.2) : Keeps s0 t := by
  rw [e] at h; exact h
theorem of_mid {α β : Type} {p : α × State × β} {t : State} {a : α} {b : β} (e : p = (a, t, b)) (h : Keeps s0 p.2.1) : Keeps s0 t := by
  rw [e] at h; exact h
theorem of_some {o : Option State} {t : State} (e : o = some t) (h : KO s0 o) : Keeps s0 t := h t e
theorem of_someP {α : Type} {o : Option (α × State)} {a : α} {t : State} (e : o = some (a, t)) (h : KOP s0 o) : Keeps s0 t := h a t e
theorem of_someP' {α : Type} {o : Option (α × State)} {p : α × State} (e : o = some p) (h : KOP s0 o) : Keeps s0 p.2 := h p.1 p.2 e
theorem of_ok {α : Type} {o : Except α State} {t : State} (e : o = .ok t) (h : KE s0 o) : Keeps s0 t := h t e

theorem keeps_ite {c : Prop} [Decidable c] {a b : State} (ha : c → Keeps s0 a) (hb : ¬ c → Keeps s0 b) :
    Keeps s0 (if c then a else b) := by
  by_cases h : c
  · rw [if_pos h]; exact ha h
  · rw [if_neg h]; exact hb h

theorem keeps_iteO {c : Prop} [Decidable c] {a b : Option State} (ha : c → KO s0 a) (hb : ¬ c → KO s0 b) :
    KO s0 (if c then a else b) := by
  by_cases h : c
  · rw [if_pos h]; exact ha h
  · rw [if_neg h]; exact hb h

theorem keeps_foldl {α : Type} {g : State → α → State} {l : List α} {s : State} (hg : ∀ t a, Keeps s0 t → Keeps s0 (g t a))
    (h : Keeps s0 s) : Keeps s0 (l.foldl g s) := by
  induction l generalizing s with
  | nil => exact h
  | cons x xs ih => exact ih (hg _ _ h)

theorem keeps_foldl_fst {α β : Type} {g : State × β → α → State × β} {l : List α} {p : State × β}
    (hg : ∀ q a, Keeps s0 q.1 → Keeps s0 (g q a).1) (h : Keeps s0 p.1) : Keeps s0 (l.foldl g p).1 := by
  induction l generalizing p with
  | nil => exact h
  | cons x xs ih => exact ih (hg _ _ h)

theorem keeps_foldl_thd {α β γ : Type} {g : β × γ × State → α → β × γ × State} {l : List α} {p : β × γ × State}
    (hg : ∀ q a, Keeps s0 q.2.2 → Keeps s0 (g q a).2.2) (h : Keeps s0 p.2.2) : Keeps s0 (l.foldl g p).2.2 := by
  induction l generalizing p with
  | nil => exact h
  | cons x xs ih => exact ih (hg _ _ h)

theorem keeps_foldlO {α : Type} {g : State → α → Option State} {l : List α} {s : State} (hg : ∀ t a, Keeps s0 t → KO s0 (g t a))
    (h : Keeps s0 s) : KO s0 (l.foldl (fun o a => match o with | none => none | some t => g t a) (some s)) := by
  have key : ∀ (l : List α) (o : Option State), KO s0 o → KO s0 (l.foldl (fun o a => match o with | none => none | some t => g t a) o) := by
    intro l
    induction l with
    | nil => exact fun _ h => h
    | cons x xs ih =>
      intro o ho
      refine ih _ ?_
      cases o with
      | none => exact KO.none
      | some t => exact hg _ _ (ho t rfl)
  exact key l _ (KO.some h)

theorem keeps_getD {o : Option State} {d : State} (h : KO s0 o) (hd : Keeps s0 d) : Keeps s0 (o.getD d) := by
  cases o with
  | none => exact hd
  | some t => exact h t rfl

theorem keeps_setCh {s : State} {c : Ch} {x : Channel} (hx : ChKeeps (s.ch c) x) (h : Keeps s0 s) : Keeps s0 (setCh s c x) := by
  refine h.trans ⟨rfl, le_rfl, rfl, List.prefix_refl _, le_rfl, fun hm d => ?_, id⟩
  by_cases e : d = c
  · subst e; simpa [setCh, State.ch] using hx (hm d)
  · have : (setCh s c x).ch d = s.ch d := by
      simp only [setCh, State.ch, Fin.getElem_fin]
      rw [Vector.getElem_set_ne]; exact fun h => e (Fin.ext h.symm)
    rw [this]; exact hm d

theorem keeps_modCh {s : State} {c : Ch} {f : Channel → Channel} (hf : ∀ x, ChKeeps x (f x)) (h : Keeps s0 s) :
    Keeps s0 (modCh s c f) := keeps_setCh (hf _) h

theorem keeps_modIsland {s : State} {f : Island → Island} (hf : ∀ x, IslKeeps x (f x)) (h : Keeps s0 s) : Keeps s0 (modIsland s f) :=
  h.trans ⟨rfl, (hf _).minSvn, rfl, List.prefix_refl _, le_rfl, id, (hf _).evq⟩

theorem keeps_modLd {s : State} {l : Ld} {f : LdState → LdState} (h : Keeps s0 s) : Keeps s0 (modLd s l f) :=
  h.trans ⟨rfl, le_rfl, rfl, List.prefix_refl _, le_rfl, id, id⟩

theorem keeps_modHost {s : State} {f : HostPort → HostPort} (h : Keeps s0 s) : Keeps s0 (modHost s f) :=
  h.trans ⟨rfl, le_rfl, rfl, List.prefix_refl _, le_rfl, id, id⟩

theorem keeps_emit {s : State} {o : Out} (h : Keeps s0 s) : Keeps s0 (emit s o) :=
  h.trans ⟨rfl, le_rfl, rfl, List.prefix_append _ _, le_rfl, id, id⟩

theorem keeps_drawFree {s : State} (h : Keeps s0 s) : Keeps s0 (drawFree s).2 :=
  h.trans ⟨rfl, le_rfl, rfl, List.prefix_refl _, Nat.le_succ _, id, id⟩

/-- A change of one event queue that keeps its indices in range. -/
theorem islKeeps_evq {i : Island} {n : Fin 17} {q : EvQueue} (h : i.evq[n].prod < 512 ∧ i.evq[n].cons < 512 → q.prod < 512 ∧ q.cons < 512) :
    IslKeeps i { i with evq := i.evq.set n q } := by
  refine ⟨le_rfl, fun hq k => ?_⟩
  by_cases e : k = n
  · subst e; simpa using h (hq k)
  · have ne : (n : Nat) ≠ k := fun h => e (Fin.ext h.symm)
    simpa [Vector.getElem_set_ne _ _ ne] using hq k

end Sys2Proof.Laws
end

