-- ==== Sys2Proof/Laws/KeepsOps.lean ====
section
/-! SUPPORT. `Keeps` of the definitions of Sys2Proof/Machine/Ops.lean. -/

namespace Sys2Proof.Laws
open Sys2Proof Sys2Proof.Machine

variable {s0 : State}

theorem keeps_addLost {v1 v2 v3} (h1 : Keeps s0 v1) :
    Keeps s0 (addLost v1 v2 v3) := by
  unfold addLost
  repeat' first
    | with_reducible assumption
    | with_reducible apply keeps_modCh
    | with_reducible apply keeps_foldl
    | with_reducible apply h1
    | with_reducible rfl
    | with_reducible apply ChKeeps.of
    | with_reducible apply IslKeeps.of
    | (intro x; first | (refine (fun (hx : Keeps s0 x) => ?_) ?_; on_goal 2 => subst x) | skip)
    | lift_lets
    | split

theorem keeps_modMb {v1 v2 v3} (h1 : Keeps s0 v1) :
    Keeps s0 (modMb v1 v2 v3) := by
  unfold modMb
  repeat' first
    | with_reducible assumption
    | with_reducible apply keeps_modIsland
    | with_reducible apply h1
    | with_reducible rfl
    | with_reducible apply ChKeeps.of
    | with_reducible apply IslKeeps.of
    | (intro x; first | (refine (fun (hx : Keeps s0 x) => ?_) ?_; on_goal 2 => subst x) | skip)
    | lift_lets
    | split

theorem keeps_evDrop {s : State} {n : Fin 17} (h : Keeps s0 s) : Keeps s0 (evDrop s n) :=
  keeps_modIsland (fun _ => islKeeps_evq (fun hq => hq)) h

theorem keeps_msixReq {v1 v2 v3} (h1 : Keeps s0 v1) :
    Keeps s0 (msixReq v1 v2 v3) := by
  unfold msixReq
  repeat' first
    | with_reducible assumption
    | with_reducible apply keeps_emit
    | with_reducible apply keeps_modLd
    | with_reducible apply h1
    | with_reducible rfl
    | with_reducible apply ChKeeps.of
    | with_reducible apply IslKeeps.of
    | (intro x; first | (refine (fun (hx : Keeps s0 x) => ?_) ?_; on_goal 2 => subst x) | skip)
    | lift_lets
    | split

theorem keeps_evSignal {v1 v2 v3} (h1 : Keeps s0 v1) :
    Keeps s0 (evSignal v1 v2 v3) := by
  unfold evSignal
  repeat' first
    | with_reducible assumption
    | with_reducible apply keeps_msixReq
    | with_reducible apply keeps_emit
    | with_reducible apply h1
    | with_reducible rfl
    | with_reducible apply ChKeeps.of
    | with_reducible apply IslKeeps.of
    | (intro x; first | (refine (fun (hx : Keeps s0 x) => ?_) ?_; on_goal 2 => subst x) | skip)
    | lift_lets
    | split

theorem keeps_evWrite {s : State} {n : Fin 17} {r : EvRec} (h : Keeps s0 s) : Keeps s0 (evWrite s n r) :=
  keeps_evSignal (keeps_modIsland (fun _ => islKeeps_evq (fun hq => ⟨Nat.mod_lt _ (by omega), hq.2⟩)) h)

theorem keeps_evAppend {s : State} {n : Fin 17} {r : EvRec} (h : Keeps s0 s) : Keeps s0 (evAppend s n r) := by
  unfold evAppend
  extract_lets q ov s1 s2
  have h1 : Keeps s0 s1 := keeps_evWrite h
  have h2 : Keeps s0 s2 := keeps_modIsland (fun _ => islKeeps_evq (fun hq => hq)) h1
  split
  · exact keeps_evDrop h
  · split
    · exact keeps_evWrite h
    · split
      · exact keeps_evDrop h2
      · exact keeps_evWrite h2

theorem keeps_raiseOn {v1 v2 v3 v4 v5 v6 v7} (h1 : Keeps s0 v1) :
    Keeps s0 (raiseOn v1 v2 v3 v4 v5 v6 v7) := by
  unfold raiseOn
  repeat' first
    | with_reducible assumption
    | with_reducible apply keeps_evAppend
    | with_reducible apply keeps_foldl
    | with_reducible apply h1
    | with_reducible rfl
    | with_reducible apply ChKeeps.of
    | with_reducible apply IslKeeps.of
    | (intro x; first | (refine (fun (hx : Keeps s0 x) => ?_) ?_; on_goal 2 => subst x) | skip)
    | lift_lets
    | split

theorem keeps_withSettings {v1 v2} (h1 : Keeps s0 v1) :
    Keeps s0 (withSettings v1 v2) := by
  refine h1.trans ⟨rfl, le_rfl, rfl, List.prefix_refl _, le_rfl, fun hm d => ?_, id⟩
  have e : (withSettings v1 v2).ch d = { v1.ch d with cfg := v2.chs[d].cfg, obj := { (v1.ch d).obj with mdBase := v2.chs[d].mdBase, poolBase := v2.chs[d].poolBase } } := by
    simp [withSettings, State.ch]
  rw [e]; exact hm d

theorem keeps_underOwn {v1 v2 v3 v4} (h1 : Keeps s0 v1) (h4 : ∀ x0, Keeps s0 x0 → Keeps s0 (v4 x0)) :
    Keeps s0 (underOwn v1 v2 v3 v4) := by
  unfold underOwn
  repeat' first
    | with_reducible assumption
    | with_reducible apply keeps_withSettings
    | with_reducible apply h1
    | with_reducible apply h4
    | with_reducible rfl
    | with_reducible apply ChKeeps.of
    | with_reducible apply IslKeeps.of
    | (intro x; first | (refine (fun (hx : Keeps s0 x) => ?_) ?_; on_goal 2 => subst x) | skip)
    | lift_lets
    | split

theorem keeps_modObj {v1 v2 v3} (h1 : Keeps s0 v1) :
    Keeps s0 (modObj v1 v2 v3) := by
  unfold modObj
  repeat' first
    | with_reducible assumption
    | with_reducible apply keeps_modCh
    | with_reducible apply h1
    | with_reducible rfl
    | with_reducible apply ChKeeps.of
    | with_reducible apply IslKeeps.of
    | (intro x; first | (refine (fun (hx : Keeps s0 x) => ?_) ?_; on_goal 2 => subst x) | skip)
    | lift_lets
    | split

theorem keeps_setSeq {v1 v2 v3 v4} (h1 : Keeps s0 v1) :
    Keeps s0 (setSeq v1 v2 v3 v4) := by
  unfold setSeq
  repeat' first
    | with_reducible assumption
    | with_reducible apply keeps_modObj
    | with_reducible apply h1
    | with_reducible rfl
    | with_reducible apply ChKeeps.of
    | with_reducible apply IslKeeps.of
    | (intro x; first | (refine (fun (hx : Keeps s0 x) => ?_) ?_; on_goal 2 => subst x) | skip)
    | lift_lets
    | split

theorem keeps_modSeq {v1 v2 v3 v4} (h1 : Keeps s0 v1) :
    Keeps s0 (modSeq v1 v2 v3 v4) := by
  unfold modSeq
  repeat' first
    | with_reducible assumption
    | with_reducible apply keeps_setSeq
    | with_reducible apply h1
    | with_reducible rfl
    | with_reducible apply ChKeeps.of
    | with_reducible apply IslKeeps.of
    | (intro x; first | (refine (fun (hx : Keeps s0 x) => ?_) ?_; on_goal 2 => subst x) | skip)
    | lift_lets
    | split

theorem keeps_modSumm {v1 v2 v3 v4} (h1 : Keeps s0 v1) :
    Keeps s0 (modSumm v1 v2 v3 v4) := by
  unfold modSumm
  repeat' first
    | with_reducible assumption
    | with_reducible apply keeps_modObj
    | with_reducible apply h1
    | with_reducible rfl
    | with_reducible apply ChKeeps.of
    | with_reducible apply IslKeeps.of
    | (intro x; first | (refine (fun (hx : Keeps s0 x) => ?_) ?_; on_goal 2 => subst x) | skip)
    | lift_lets
    | split

theorem keeps_forCh {v1 v2 v3} (h1 : Keeps s0 v1) (h3 : ∀ x0 x1, Keeps s0 x0 → Keeps s0 (v3 x0 x1)) :
    Keeps s0 (forCh v1 v2 v3) := by
  unfold forCh
  repeat' first
    | with_reducible assumption
    | with_reducible apply keeps_foldl
    | with_reducible apply h1
    | with_reducible apply h3
    | with_reducible rfl
    | with_reducible apply ChKeeps.of
    | with_reducible apply IslKeeps.of
    | (intro x; first | (refine (fun (hx : Keeps s0 x) => ?_) ?_; on_goal 2 => subst x) | skip)
    | lift_lets
    | split

theorem keeps_purgeCache {v1 v2 v3} (h1 : Keeps s0 v1) :
    Keeps s0 (purgeCache v1 v2 v3) := by
  unfold purgeCache
  repeat' first
    | with_reducible assumption
    | with_reducible apply keeps_modCh
    | with_reducible apply h1
    | with_reducible rfl
    | with_reducible apply ChKeeps.of
    | with_reducible apply IslKeeps.of
    | (intro x; first | (refine (fun (hx : Keeps s0 x) => ?_) ?_; on_goal 2 => subst x) | skip)
    | lift_lets
    | split

theorem keeps_modKey {v1 v2 v3} (h1 : Keeps s0 v1) :
    Keeps s0 (modKey v1 v2 v3) := by
  unfold modKey
  repeat' first
    | with_reducible assumption
    | with_reducible apply keeps_modIsland
    | with_reducible apply h1
    | with_reducible rfl
    | with_reducible apply ChKeeps.of
    | with_reducible apply IslKeeps.of
    | (intro x; first | (refine (fun (hx : Keeps s0 x) => ?_) ?_; on_goal 2 => subst x) | skip)
    | lift_lets
    | split

theorem keeps_keyFails {v1 v2} (h1 : Keeps s0 v1) :
    Keeps s0 (keyFails v1 v2) := by
  unfold keyFails
  repeat' first
    | with_reducible assumption
    | with_reducible apply keeps_forCh
    | with_reducible apply keeps_modIsland
    | with_reducible apply keeps_purgeCache
    | with_reducible apply keeps_modKey
    | with_reducible apply keeps_raiseOn
    | with_reducible apply h1
    | with_reducible rfl
    | with_reducible apply ChKeeps.of
    | with_reducible apply IslKeeps.of
    | (intro x; first | (refine (fun (hx : Keeps s0 x) => ?_) ?_; on_goal 2 => subst x) | skip)
    | lift_lets
    | split

theorem keeps_useKey {v1 v2 v3} (h1 : Keeps s0 v1) :
    Keeps s0 (useKey v1 v2 v3) := by
  unfold useKey
  repeat' first
    | with_reducible assumption
    | with_reducible apply keeps_modCh
    | with_reducible apply keeps_keyFails
    | with_reducible apply h1
    | with_reducible rfl
    | with_reducible apply ChKeeps.of
    | with_reducible apply IslKeeps.of
    | (intro x; first | (refine (fun (hx : Keeps s0 x) => ?_) ?_; on_goal 2 => subst x) | skip)
    | lift_lets
    | split

theorem keeps_freeNodes {v1 v2 v3} (h1 : Keeps s0 v1) :
    Keeps s0 (freeNodes v1 v2 v3) := by
  unfold freeNodes
  repeat' first
    | with_reducible assumption
    | with_reducible apply keeps_modObj
    | with_reducible apply h1
    | with_reducible rfl
    | with_reducible apply ChKeeps.of
    | with_reducible apply IslKeeps.of
    | (intro x; first | (refine (fun (hx : Keeps s0 x) => ?_) ?_; on_goal 2 => subst x) | skip)
    | lift_lets
    | split

theorem keeps_clearGuard {v1 v2 v3} (h1 : Keeps s0 v1) :
    Keeps s0 (clearGuard v1 v2 v3) := by
  unfold clearGuard
  repeat' first
    | with_reducible assumption
    | with_reducible apply keeps_modCh
    | with_reducible apply h1
    | with_reducible rfl
    | with_reducible apply ChKeeps.of
    | with_reducible apply IslKeeps.of
    | (intro x; first | (refine (fun (hx : Keeps s0 x) => ?_) ?_; on_goal 2 => subst x) | skip)
    | lift_lets
    | split

theorem keeps_touchNext {v1 v2} (h1 : Keeps s0 v1) :
    Keeps s0 (touchNext v1 v2).2 := by
  unfold touchNext
  repeat' first
    | with_reducible assumption
    | with_reducible apply keeps_modObj
    | with_reducible apply h1
    | with_reducible rfl
    | with_reducible apply ChKeeps.of
    | with_reducible apply IslKeeps.of
    | (intro x; first | (refine (fun (hx : Keeps s0 x) => ?_) ?_; on_goal 2 => subst x) | skip)
    | lift_lets
    | split

theorem keeps_allocRun {v1 v2 v3} (h1 : Keeps s0 v1) :
    KO s0 (allocRun v1 v2 v3) := by
  unfold allocRun
  extract_lets n
  split
  · exact KO.some (keeps_modObj h1)
  · exact KO.none

theorem keeps_t0Write {s : State} {c : Ch} {a : Nat} {bs : List Byte} (h : Keeps s0 s) : Keeps s0 (t0Write s c a bs) :=
  keeps_modCh (fun _ => ChKeeps.ofT0 bytes_wf rfl) h

theorem keeps_modRing {v1 v2 v3 v4} (h1 : Keeps s0 v1) :
    Keeps s0 (modRing v1 v2 v3 v4) := by
  unfold modRing
  repeat' first
    | with_reducible assumption
    | with_reducible apply keeps_modCh
    | with_reducible apply h1
    | with_reducible rfl
    | with_reducible apply ChKeeps.of
    | with_reducible apply IslKeeps.of
    | (intro x; first | (refine (fun (hx : Keeps s0 x) => ?_) ?_; on_goal 2 => subst x) | skip)
    | lift_lets
    | split

theorem keeps_t1WriteRaw {s : State} {c : Ch} {a : Nat} {bs : List Byte} (h : Keeps s0 s) : Keeps s0 (t1WriteRaw s c a bs) := by
  unfold t1WriteRaw
  extract_lets w
  exact keeps_modCh (fun _ => ChKeeps.ofT1 rfl bytes_wf) h

theorem keeps_setPb {v1 v2 v3 v4} (h1 : Keeps s0 v1) :
    Keeps s0 (setPb v1 v2 v3 v4) := by
  unfold setPb
  repeat' first
    | with_reducible assumption
    | with_reducible apply keeps_modObj
    | with_reducible apply h1
    | with_reducible rfl
    | with_reducible apply ChKeeps.of
    | with_reducible apply IslKeeps.of
    | (intro x; first | (refine (fun (hx : Keeps s0 x) => ?_) ?_; on_goal 2 => subst x) | skip)
    | lift_lets
    | split

theorem keeps_raiseC {v1 v2 v3 v4 v5} (h1 : Keeps s0 v1) :
    Keeps s0 (raiseC v1 v2 v3 v4 v5) := by
  unfold raiseC
  repeat' first
    | with_reducible assumption
    | with_reducible apply keeps_raiseOn
    | with_reducible apply h1
    | with_reducible rfl
    | with_reducible apply ChKeeps.of
    | with_reducible apply IslKeeps.of
    | (intro x; first | (refine (fun (hx : Keeps s0 x) => ?_) ?_; on_goal 2 => subst x) | skip)
    | lift_lets
    | split

theorem keeps_modHealth {v1 v2 v3} (h1 : Keeps s0 v1) :
    Keeps s0 (modHealth v1 v2 v3) := by
  unfold modHealth
  repeat' first
    | with_reducible assumption
    | with_reducible apply keeps_modCh
    | with_reducible apply h1
    | with_reducible rfl
    | with_reducible apply ChKeeps.of
    | with_reducible apply IslKeeps.of
    | (intro x; first | (refine (fun (hx : Keeps s0 x) => ?_) ?_; on_goal 2 => subst x) | skip)
    | lift_lets
    | split

theorem keeps_raiseSpare {v1 v2 v3 v4} (h1 : Keeps s0 v1) :
    Keeps s0 (raiseSpare v1 v2 v3 v4) := by
  unfold raiseSpare
  repeat' first
    | with_reducible assumption
    | with_reducible apply keeps_raiseC
    | with_reducible apply keeps_modHealth
    | with_reducible apply h1
    | with_reducible rfl
    | with_reducible apply ChKeeps.of
    | with_reducible apply IslKeeps.of
    | (intro x; first | (refine (fun (hx : Keeps s0 x) => ?_) ?_; on_goal 2 => subst x) | skip)
    | lift_lets
    | split

theorem keeps_freeSumm {v1 v2 v3} (h1 : Keeps s0 v1) :
    Keeps s0 (freeSumm v1 v2 v3) := by
  unfold freeSumm
  repeat' first
    | with_reducible assumption
    | with_reducible apply keeps_modObj
    | with_reducible apply h1
    | with_reducible rfl
    | with_reducible apply ChKeeps.of
    | with_reducible apply IslKeeps.of
    | (intro x; first | (refine (fun (hx : Keeps s0 x) => ?_) ?_; on_goal 2 => subst x) | skip)
    | lift_lets
    | split

theorem keeps_accessErr {v1 v2 v3} (h1 : Keeps s0 v1) :
    Keeps s0 (accessErr v1 v2 v3) := by
  unfold accessErr
  repeat' first
    | with_reducible assumption
    | with_reducible apply keeps_modLd
    | with_reducible apply h1
    | with_reducible rfl
    | with_reducible apply ChKeeps.of
    | with_reducible apply IslKeeps.of
    | (intro x; first | (refine (fun (hx : Keeps s0 x) => ?_) ?_; on_goal 2 => subst x) | skip)
    | lift_lets
    | split

theorem keeps_raiseS {v1 v2 v3 v4} (h1 : Keeps s0 v1) :
    Keeps s0 (raiseS v1 v2 v3 v4) := by
  unfold raiseS
  repeat' first
    | with_reducible assumption
    | with_reducible apply keeps_raiseOn
    | with_reducible apply h1
    | with_reducible rfl
    | with_reducible apply ChKeeps.of
    | with_reducible apply IslKeeps.of
    | (intro x; first | (refine (fun (hx : Keeps s0 x) => ?_) ?_; on_goal 2 => subst x) | skip)
    | lift_lets
    | split

theorem keeps_setRec {v1 v2 v3 v4} (h1 : Keeps s0 v1) :
    Keeps s0 (setRec v1 v2 v3 v4) := by
  unfold setRec
  repeat' first
    | with_reducible assumption
    | with_reducible apply keeps_modObj
    | with_reducible apply h1
    | with_reducible rfl
    | with_reducible apply ChKeeps.of
    | with_reducible apply IslKeeps.of
    | (intro x; first | (refine (fun (hx : Keeps s0 x) => ?_) ?_; on_goal 2 => subst x) | skip)
    | lift_lets
    | split

theorem keeps_setPte {v1 v2 v3 v4} (h1 : Keeps s0 v1) :
    Keeps s0 (setPte v1 v2 v3 v4) := by
  unfold setPte
  repeat' first
    | with_reducible assumption
    | with_reducible apply keeps_modObj
    | with_reducible apply h1
    | with_reducible rfl
    | with_reducible apply ChKeeps.of
    | with_reducible apply IslKeeps.of
    | (intro x; first | (refine (fun (hx : Keeps s0 x) => ?_) ?_; on_goal 2 => subst x) | skip)
    | lift_lets
    | split

theorem keeps_setPage {v1 v2 v3 v4 v5} (h1 : Keeps s0 v1) :
    Keeps s0 (setPage v1 v2 v3 v4 v5) := by
  unfold setPage
  repeat' first
    | with_reducible assumption
    | with_reducible apply keeps_setRec
    | with_reducible apply keeps_setPte
    | with_reducible apply h1
    | with_reducible rfl
    | with_reducible apply ChKeeps.of
    | with_reducible apply IslKeeps.of
    | (intro x; first | (refine (fun (hx : Keeps s0 x) => ?_) ?_; on_goal 2 => subst x) | skip)
    | lift_lets
    | split

theorem keeps_latchConns {v1 v2 v3} (h1 : Keeps s0 v1) :
    Keeps s0 (latchConns v1 v2 v3) := by
  unfold latchConns
  repeat' first
    | with_reducible assumption
    | with_reducible apply keeps_modCh
    | with_reducible apply h1
    | with_reducible rfl
    | with_reducible apply ChKeeps.of
    | with_reducible apply IslKeeps.of
    | (intro x; first | (refine (fun (hx : Keeps s0 x) => ?_) ?_; on_goal 2 => subst x) | skip)
    | lift_lets
    | split

theorem keeps_setWait {v1 v2 v3 v4} (h1 : Keeps s0 v1) :
    Keeps s0 (setWait v1 v2 v3 v4) := by
  unfold setWait
  repeat' first
    | with_reducible assumption
    | with_reducible apply keeps_modRing
    | with_reducible apply h1
    | with_reducible rfl
    | with_reducible apply ChKeeps.of
    | with_reducible apply IslKeeps.of
    | (intro x; first | (refine (fun (hx : Keeps s0 x) => ?_) ?_; on_goal 2 => subst x) | skip)
    | lift_lets
    | split

theorem keeps_latchRing {v1 v2 v3 v4} (h1 : Keeps s0 v1) :
    Keeps s0 (latchRing v1 v2 v3 v4) := by
  unfold latchRing
  repeat' first
    | with_reducible assumption
    | with_reducible apply keeps_setWait
    | with_reducible apply h1
    | with_reducible rfl
    | with_reducible apply ChKeeps.of
    | with_reducible apply IslKeeps.of
    | (intro x; first | (refine (fun (hx : Keeps s0 x) => ?_) ?_; on_goal 2 => subst x) | skip)
    | lift_lets
    | split

theorem keeps_gateSet {v1 v2 v3 v4} (h1 : Keeps s0 v1) :
    Keeps s0 (gateSet v1 v2 v3 v4) := by
  unfold gateSet
  repeat' first
    | with_reducible assumption
    | with_reducible apply keeps_modCh
    | with_reducible apply keeps_latchConns
    | with_reducible apply keeps_latchRing
    | with_reducible apply keeps_foldl
    | with_reducible apply h1
    | with_reducible rfl
    | with_reducible apply ChKeeps.of
    | with_reducible apply IslKeeps.of
    | (intro x; first | (refine (fun (hx : Keeps s0 x) => ?_) ?_; on_goal 2 => subst x) | skip)
    | lift_lets
    | split

theorem keeps_modMarl {v1 v2 v3} (h1 : Keeps s0 v1) :
    Keeps s0 (modMarl v1 v2 v3) := by
  unfold modMarl
  repeat' first
    | with_reducible assumption
    | with_reducible apply keeps_modCh
    | with_reducible apply h1
    | with_reducible rfl
    | with_reducible apply ChKeeps.of
    | with_reducible apply IslKeeps.of
    | (intro x; first | (refine (fun (hx : Keeps s0 x) => ?_) ?_; on_goal 2 => subst x) | skip)
    | lift_lets
    | split

theorem keeps_t1PutLine {s : State} {c : Ch} {a : Nat} {bs : List Byte} (h : Keeps s0 s) : Keeps s0 (t1PutLine s c a bs) :=
  keeps_modCh (fun _ => ChKeeps.ofT1 rfl bytes_wf) h

theorem keeps_t1EncLine {v1 v2 v3 v4 v5} (h1 : Keeps s0 v1) :
    Keeps s0 (t1EncLine v1 v2 v3 v4 v5) := by
  unfold t1EncLine
  repeat' first
    | with_reducible assumption
    | with_reducible apply keeps_t1PutLine
    | with_reducible apply h1
    | with_reducible rfl
    | with_reducible apply ChKeeps.of
    | with_reducible apply IslKeeps.of
    | (intro x; first | (refine (fun (hx : Keeps s0 x) => ?_) ?_; on_goal 2 => subst x) | skip)
    | lift_lets
    | split

theorem keeps_t1Write {v1 v2 v3 v4 v5} (h1 : Keeps s0 v1) :
    Keeps s0 (t1Write v1 v2 v3 v4 v5) := by
  unfold t1Write
  repeat' first
    | with_reducible assumption
    | with_reducible apply keeps_t1EncLine
    | with_reducible apply keeps_addLost
    | with_reducible apply keeps_foldl
    | with_reducible apply h1
    | with_reducible rfl
    | with_reducible apply ChKeeps.of
    | with_reducible apply IslKeeps.of
    | (intro x; first | (refine (fun (hx : Keeps s0 x) => ?_) ?_; on_goal 2 => subst x) | skip)
    | lift_lets
    | split

theorem keeps_rotKeys {v1 v2} (h1 : Keeps s0 v1) :
    Keeps s0 (rotKeys v1 v2) := by
  unfold rotKeys
  repeat' first
    | with_reducible assumption
    | with_reducible apply keeps_modIsland
    | with_reducible apply h1
    | with_reducible rfl
    | with_reducible apply ChKeeps.of
    | with_reducible apply IslKeeps.of
    | (intro x; first | (refine (fun (hx : Keeps s0 x) => ?_) ?_; on_goal 2 => subst x) | skip)
    | lift_lets
    | split

theorem keeps_sendFlit {v1 v2 v3 v4} (h1 : Keeps s0 v1) :
    Keeps s0 (sendFlit v1 v2 v3 v4) := by
  unfold sendFlit
  repeat' first
    | with_reducible assumption
    | with_reducible apply keeps_emit
    | with_reducible apply h1
    | with_reducible rfl
    | with_reducible apply ChKeeps.of
    | with_reducible apply IslKeeps.of
    | (intro x; first | (refine (fun (hx : Keeps s0 x) => ?_) ?_; on_goal 2 => subst x) | skip)
    | lift_lets
    | split

theorem keeps_setChState {v1 v2 v3 v4} (h1 : Keeps s0 v1) :
    Keeps s0 (setChState v1 v2 v3 v4) := by
  unfold setChState
  repeat' first
    | with_reducible assumption
    | with_reducible apply keeps_sendFlit
    | with_reducible apply keeps_modCh
    | with_reducible apply keeps_raiseC
    | with_reducible apply h1
    | with_reducible rfl
    | with_reducible apply ChKeeps.of
    | with_reducible apply IslKeeps.of
    | (intro x; first | (refine (fun (hx : Keeps s0 x) => ?_) ?_; on_goal 2 => subst x) | skip)
    | lift_lets
    | split

theorem keeps_release {v1 v2 v3 v4 v5} (h1 : Keeps s0 v1) :
    Keeps s0 (release v1 v2 v3 v4 v5) := by
  unfold release
  repeat' first
    | with_reducible assumption
    | with_reducible apply keeps_modCh
    | with_reducible apply h1
    | with_reducible rfl
    | with_reducible apply ChKeeps.of
    | with_reducible apply IslKeeps.of
    | (intro x; first | (refine (fun (hx : Keeps s0 x) => ?_) ?_; on_goal 2 => subst x) | skip)
    | lift_lets
    | split

theorem keeps_allocSumm {s : State} {c : Ch} {m : Summ} (h : Keeps s0 s) : KOP s0 (allocSumm s c m) := by
  unfold allocSumm
  extract_lets i
  split
  · exact KOP.some (keeps_modObj h)
  · exact KOP.none

theorem keeps_modRefPort {v1 v2 v3} (h1 : Keeps s0 v1) :
    Keeps s0 (modRefPort v1 v2 v3) := by
  unfold modRefPort
  repeat' first
    | with_reducible assumption
    | with_reducible apply keeps_modObj
    | with_reducible apply h1
    | with_reducible rfl
    | with_reducible apply ChKeeps.of
    | with_reducible apply IslKeeps.of
    | (intro x; first | (refine (fun (hx : Keeps s0 x) => ?_) ?_; on_goal 2 => subst x) | skip)
    | lift_lets
    | split

theorem keeps_modLink {v1 v2 v3} (h1 : Keeps s0 v1) :
    Keeps s0 (modLink v1 v2 v3) := by
  unfold modLink
  repeat' first
    | with_reducible assumption
    | with_reducible apply keeps_modCh
    | with_reducible apply h1
    | with_reducible rfl
    | with_reducible apply ChKeeps.of
    | with_reducible apply IslKeeps.of
    | (intro x; first | (refine (fun (hx : Keeps s0 x) => ?_) ?_; on_goal 2 => subst x) | skip)
    | lift_lets
    | split

theorem keeps_raiseD {v1 v2 v3 v4} (h1 : Keeps s0 v1) :
    Keeps s0 (raiseD v1 v2 v3 v4) := by
  unfold raiseD
  repeat' first
    | with_reducible assumption
    | with_reducible apply keeps_raiseOn
    | with_reducible apply h1
    | with_reducible rfl
    | with_reducible apply ChKeeps.of
    | with_reducible apply IslKeeps.of
    | (intro x; first | (refine (fun (hx : Keeps s0 x) => ?_) ?_; on_goal 2 => subst x) | skip)
    | lift_lets
    | split

theorem keeps_mbResult {v1 v2 v3 v4} (h1 : Keeps s0 v1) :
    Keeps s0 (mbResult v1 v2 v3 v4) := by
  unfold mbResult
  repeat' first
    | with_reducible assumption
    | with_reducible apply keeps_modMb
    | with_reducible apply keeps_emit
    | with_reducible apply h1
    | with_reducible rfl
    | with_reducible apply ChKeeps.of
    | with_reducible apply IslKeeps.of
    | (intro x; first | (refine (fun (hx : Keeps s0 x) => ?_) ?_; on_goal 2 => subst x) | skip)
    | lift_lets
    | split

theorem keeps_takeEnv {v1 v2 v3} (h1 : Keeps s0 v1) :
    Keeps s0 (takeEnv v1 v2 v3) := by
  unfold takeEnv
  repeat' first
    | with_reducible assumption
    | with_reducible apply keeps_modHealth
    | with_reducible apply keeps_addLost
    | with_reducible apply keeps_rotKeys
    | with_reducible apply h1
    | with_reducible rfl
    | with_reducible apply ChKeeps.of
    | with_reducible apply IslKeeps.of
    | (intro x; first | (refine (fun (hx : Keeps s0 x) => ?_) ?_; on_goal 2 => subst x) | skip)
    | lift_lets
    | split

theorem keeps_underOwnP {α : Type} {s : State} {c : Ch} {r : Ring} {f : State → α × State} (h : Keeps s0 s)
    (hf : ∀ x, Keeps s0 x → Keeps s0 (f x).2) : Keeps s0 (underOwnP s c r f).2 := by
  unfold underOwnP
  split
  · exact hf _ h
  · exact keeps_withSettings (hf _ (keeps_withSettings h))

theorem keeps_allocNodes {s : State} {c : Ch} {ks : List NodeKey} (h : Keeps s0 s) : KO s0 (allocNodes s c ks) := by
  unfold allocNodes
  extract_lets new
  split
  · exact KO.some (keeps_foldl (fun _ _ ht => keeps_modObj ht) h)
  · exact KO.none

theorem keeps_gateAdd {v1 v2 v3 v4} (h1 : Keeps s0 v1) :
    Keeps s0 (gateAdd v1 v2 v3 v4) := by
  unfold gateAdd
  repeat' first
    | with_reducible assumption
    | with_reducible apply keeps_gateSet
    | with_reducible apply h1
    | with_reducible rfl
    | with_reducible apply ChKeeps.of
    | with_reducible apply IslKeeps.of
    | (intro x; first | (refine (fun (hx : Keeps s0 x) => ?_) ?_; on_goal 2 => subst x) | skip)
    | lift_lets
    | split

theorem keeps_gateAddTo {v1 v2 v3 v4 v5} (h1 : Keeps s0 v1) :
    Keeps s0 (gateAddTo v1 v2 v3 v4 v5).1 := by
  unfold gateAddTo
  repeat' first
    | with_reducible assumption
    | with_reducible apply keeps_gateAdd
    | with_reducible apply keeps_modCh
    | with_reducible apply h1
    | with_reducible rfl
    | with_reducible apply ChKeeps.of
    | with_reducible apply IslKeeps.of
    | (intro x; first | (refine (fun (hx : Keeps s0 x) => ?_) ?_; on_goal 2 => subst x) | skip)
    | lift_lets
    | split

theorem keeps_modFlash {v1 v2 v3} (h1 : Keeps s0 v1) :
    Keeps s0 (modFlash v1 v2 v3) := by
  unfold modFlash
  repeat' first
    | with_reducible assumption
    | with_reducible apply keeps_modMarl
    | with_reducible apply h1
    | with_reducible rfl
    | with_reducible apply ChKeeps.of
    | with_reducible apply IslKeeps.of
    | (intro x; first | (refine (fun (hx : Keeps s0 x) => ?_) ?_; on_goal 2 => subst x) | skip)
    | lift_lets
    | split

theorem keeps_modSieve {v1 v2 v3} (h1 : Keeps s0 v1) :
    Keeps s0 (modSieve v1 v2 v3) := by
  unfold modSieve
  repeat' first
    | with_reducible assumption
    | with_reducible apply keeps_modCh
    | with_reducible apply h1
    | with_reducible rfl
    | with_reducible apply ChKeeps.of
    | with_reducible apply IslKeeps.of
    | (intro x; first | (refine (fun (hx : Keeps s0 x) => ?_) ?_; on_goal 2 => subst x) | skip)
    | lift_lets
    | split

theorem keeps_modRegion {v1 v2 v3} (h1 : Keeps s0 v1) :
    Keeps s0 (modRegion v1 v2 v3) := by
  unfold modRegion
  repeat' first
    | with_reducible assumption
    | with_reducible apply keeps_modIsland
    | with_reducible apply h1
    | with_reducible rfl
    | with_reducible apply ChKeeps.of
    | with_reducible apply IslKeeps.of
    | (intro x; first | (refine (fun (hx : Keeps s0 x) => ?_) ?_; on_goal 2 => subst x) | skip)
    | lift_lets
    | split

end Sys2Proof.Laws
end

