-- ==== Sys2Proof/Laws/KeepsRings.lean ====
section
/-! SUPPORT. `Keeps` of the definitions of Sys2Proof/Machine/Rings.lean. -/

namespace Sys2Proof.Laws
open Sys2Proof Sys2Proof.Machine

variable {s0 : State}

theorem keeps_writeCpl {v1 v2 v3 v4 v5} (h1 : Keeps s0 v1) :
    Keeps s0 (writeCpl v1 v2 v3 v4 v5) := by
  unfold writeCpl
  repeat' first
    | with_reducible assumption
    | with_reducible apply keeps_drawFree
    | with_reducible apply keeps_t0Write
    | with_reducible apply keeps_modRing
    | with_reducible refine of_snd (by assumption) ?_
    | with_reducible apply h1
    | with_reducible rfl
    | with_reducible apply ChKeeps.of
    | with_reducible apply IslKeeps.of
    | (intro x; first | (refine (fun (hx : Keeps s0 x) => ?_) ?_; on_goal 2 => subst x) | skip)
    | lift_lets
    | split

theorem keeps_regionEnd {v1 v2} (h1 : Keeps s0 v1) :
    Keeps s0 (regionEnd v1 v2) := by
  unfold regionEnd
  repeat' first
    | with_reducible assumption
    | with_reducible apply keeps_modRegion
    | with_reducible apply h1
    | with_reducible rfl
    | with_reducible apply ChKeeps.of
    | with_reducible apply IslKeeps.of
    | (intro x; first | (refine (fun (hx : Keeps s0 x) => ?_) ?_; on_goal 2 => subst x) | skip)
    | lift_lets
    | split

theorem keeps_dropUses {v1 v2 v3} (h1 : Keeps s0 v1) :
    Keeps s0 (dropUses v1 v2 v3) := by
  unfold dropUses
  repeat' first
    | with_reducible assumption
    | with_reducible apply keeps_modSeq
    | with_reducible apply keeps_regionEnd
    | with_reducible apply keeps_modRing
    | with_reducible apply keeps_foldl
    | with_reducible apply h1
    | with_reducible rfl
    | with_reducible apply ChKeeps.of
    | with_reducible apply IslKeeps.of
    | (intro x; first | (refine (fun (hx : Keeps s0 x) => ?_) ?_; on_goal 2 => subst x) | skip)
    | lift_lets
    | split

theorem keeps_retire1 {v1 v2 v3 v4 v5} (h1 : Keeps s0 v1) :
    Keeps s0 (retire1 v1 v2 v3 v4 v5) := by
  unfold retire1
  repeat' first
    | with_reducible assumption
    | with_reducible apply keeps_clearGuard
    | with_reducible apply keeps_writeCpl
    | with_reducible apply keeps_dropUses
    | with_reducible apply keeps_modRefPort
    | with_reducible apply keeps_gateAddTo
    | with_reducible apply keeps_msixReq
    | with_reducible refine of_fst (by assumption) ?_
    | with_reducible apply h1
    | with_reducible rfl
    | with_reducible apply ChKeeps.of
    | with_reducible apply IslKeeps.of
    | (intro x; first | (refine (fun (hx : Keeps s0 x) => ?_) ?_; on_goal 2 => subst x) | skip)
    | lift_lets
    | split

theorem keeps_endAdm {v1 v2} (h1 : Keeps s0 v1) :
    Keeps s0 (endAdm v1 v2) := by
  unfold endAdm
  repeat' first
    | with_reducible assumption
    | with_reducible apply keeps_regionEnd
    | with_reducible apply h1
    | with_reducible rfl
    | with_reducible apply ChKeeps.of
    | with_reducible apply IslKeeps.of
    | (intro x; first | (refine (fun (hx : Keeps s0 x) => ?_) ?_; on_goal 2 => subst x) | skip)
    | lift_lets
    | split

theorem keeps_abortSome {v1 v2 v3 v4} (h2 : Keeps s0 v2) :
    Keeps s0 (abortSome v1 v2 v3 v4) := by
  revert h2
  fun_induction abortSome v1 v2 v3 v4
  all_goals try intro h2
  all_goals repeat' first
    | with_reducible assumption
    | with_reducible apply keeps_retire1
    | with_reducible apply h2
    | apply_assumption (transparency := .reducible)
    | with_reducible rfl
    | with_reducible apply ChKeeps.of
    | with_reducible apply IslKeeps.of
    | (intro x; first | (refine (fun (hx : Keeps s0 x) => ?_) ?_; on_goal 2 => subst x) | skip)
    | lift_lets
    | split

theorem keeps_abortRest {v1 v2 v3} (h1 : Keeps s0 v1) :
    Keeps s0 (abortRest v1 v2 v3) := by
  unfold abortRest
  repeat' first
    | with_reducible assumption
    | with_reducible apply keeps_abortSome
    | with_reducible apply h1
    | with_reducible rfl
    | with_reducible apply ChKeeps.of
    | with_reducible apply IslKeeps.of
    | (intro x; first | (refine (fun (hx : Keeps s0 x) => ?_) ?_; on_goal 2 => subst x) | skip)
    | lift_lets
    | split

theorem keeps_retireAs {v1 v2 v3 v4 v5} (h1 : Keeps s0 v1) :
    Keeps s0 (retireAs v1 v2 v3 v4 v5) := by
  unfold retireAs
  repeat' first
    | with_reducible assumption
    | with_reducible apply keeps_retire1
    | with_reducible apply keeps_abortRest
    | with_reducible apply h1
    | with_reducible rfl
    | with_reducible apply ChKeeps.of
    | with_reducible apply IslKeeps.of
    | (intro x; first | (refine (fun (hx : Keeps s0 x) => ?_) ?_; on_goal 2 => subst x) | skip)
    | lift_lets
    | split

theorem keeps_runHead {v1 v2 v3 v4 v5} (h1 : Keeps s0 v1) (h5 : ∀ x0 x1, Keeps s0 x1 → Keeps s0 (v5 x0 x1)) :
    Keeps s0 (runHead v1 v2 v3 v4 v5) := by
  unfold runHead
  repeat' first
    | with_reducible assumption
    | with_reducible apply keeps_underOwn
    | with_reducible apply keeps_retireAs
    | with_reducible apply keeps_setWait
    | with_reducible apply h1
    | with_reducible apply h5
    | with_reducible rfl
    | with_reducible apply ChKeeps.of
    | with_reducible apply IslKeeps.of
    | (intro x; first | (refine (fun (hx : Keeps s0 x) => ?_) ?_; on_goal 2 => subst x) | skip)
    | lift_lets
    | split

theorem keeps_countUse {v1 v2 v3 v4} (h1 : Keeps s0 v1) :
    Keeps s0 (countUse v1 v2 v3 v4) := by
  unfold countUse
  repeat' first
    | with_reducible assumption
    | with_reducible apply keeps_modSeq
    | with_reducible apply keeps_modRing
    | with_reducible apply h1
    | with_reducible rfl
    | with_reducible apply ChKeeps.of
    | with_reducible apply IslKeeps.of
    | (intro x; first | (refine (fun (hx : Keeps s0 x) => ?_) ?_; on_goal 2 => subst x) | skip)
    | lift_lets
    | split

theorem keeps_admitUse {v1 v2 v3 v4 v5} (h1 : Keeps s0 v1) (h5 : ∀ x0, Keeps s0 x0 → Keeps s0 (v5 x0)) :
    Keeps s0 (admitUse v1 v2 v3 v4 v5) := by
  unfold admitUse
  repeat' first
    | with_reducible assumption
    | with_reducible apply keeps_setWait
    | with_reducible apply keeps_countUse
    | with_reducible apply keeps_foldl
    | with_reducible apply h1
    | with_reducible apply h5
    | with_reducible rfl
    | with_reducible apply ChKeeps.of
    | with_reducible apply IslKeeps.of
    | (intro x; first | (refine (fun (hx : Keeps s0 x) => ?_) ?_; on_goal 2 => subst x) | skip)
    | lift_lets
    | split

theorem keeps_logRing {v1 v2 v3} (h1 : Keeps s0 v1) :
    Keeps s0 (logRing v1 v2 v3) := by
  unfold logRing
  repeat' first
    | with_reducible assumption
    | with_reducible apply keeps_retireAs
    | with_reducible apply h1
    | with_reducible rfl
    | with_reducible apply ChKeeps.of
    | with_reducible apply IslKeeps.of
    | (intro x; first | (refine (fun (hx : Keeps s0 x) => ?_) ?_; on_goal 2 => subst x) | skip)
    | lift_lets
    | split

theorem keeps_noteFull {v1 v2} (h1 : Keeps s0 v1) :
    Keeps s0 (noteFull v1 v2) := by
  unfold noteFull
  repeat' first
    | with_reducible assumption
    | with_reducible apply keeps_modCh
    | with_reducible apply h1
    | with_reducible rfl
    | with_reducible apply ChKeeps.of
    | with_reducible apply IslKeeps.of
    | (intro x; first | (refine (fun (hx : Keeps s0 x) => ?_) ?_; on_goal 2 => subst x) | skip)
    | lift_lets
    | split

theorem keeps_retire {v1 v2 v3 v4} (h1 : Keeps s0 v1) :
    Keeps s0 (retire v1 v2 v3 v4) := by
  unfold retire
  repeat' first
    | with_reducible assumption
    | with_reducible apply keeps_setWait
    | with_reducible apply keeps_noteFull
    | with_reducible apply keeps_retireAs
    | with_reducible apply h1
    | with_reducible rfl
    | with_reducible apply ChKeeps.of
    | with_reducible apply IslKeeps.of
    | (intro x; first | (refine (fun (hx : Keeps s0 x) => ?_) ?_; on_goal 2 => subst x) | skip)
    | lift_lets
    | split

theorem keeps_retireSt {v1 v2 v3 v4} (h1 : Keeps s0 v1) :
    Keeps s0 (retireSt v1 v2 v3 v4) := by
  unfold retireSt
  repeat' first
    | with_reducible assumption
    | with_reducible apply keeps_retire
    | with_reducible apply h1
    | with_reducible rfl
    | with_reducible apply ChKeeps.of
    | with_reducible apply IslKeeps.of
    | (intro x; first | (refine (fun (hx : Keeps s0 x) => ?_) ?_; on_goal 2 => subst x) | skip)
    | lift_lets
    | split

end Sys2Proof.Laws
end

