-- ==== Sys2Proof/Laws/KeepsMarlOps.lean ====
section
/-! SUPPORT. `Keeps` of the definitions of Sys2Proof/Machine/MarlOps.lean. -/

namespace Sys2Proof.Laws
open Sys2Proof Sys2Proof.Machine

variable {s0 : State}

theorem keeps_jAppend {v1 v2 v3} (h1 : Keeps s0 v1) :
    Keeps s0 (jAppend v1 v2 v3) := by
  unfold jAppend
  repeat' first
    | with_reducible assumption
    | with_reducible apply keeps_modMarl
    | with_reducible apply h1
    | with_reducible rfl
    | with_reducible apply ChKeeps.of
    | with_reducible apply IslKeeps.of
    | (intro x; first | (refine (fun (hx : Keeps s0 x) => ?_) ?_; on_goal 2 => subst x) | skip)
    | lift_lets
    | split

theorem keeps_modTable {v1 v2 v3} (h1 : Keeps s0 v1) :
    Keeps s0 (modTable v1 v2 v3) := by
  unfold modTable
  repeat' first
    | with_reducible assumption
    | with_reducible apply keeps_modMarl
    | with_reducible apply h1
    | with_reducible rfl
    | with_reducible apply ChKeeps.of
    | with_reducible apply IslKeeps.of
    | (intro x; first | (refine (fun (hx : Keeps s0 x) => ?_) ?_; on_goal 2 => subst x) | skip)
    | lift_lets
    | split

theorem keeps_modSb {v1 v2 v3 v4} (h1 : Keeps s0 v1) :
    Keeps s0 (modSb v1 v2 v3 v4) := by
  unfold modSb
  repeat' first
    | with_reducible assumption
    | with_reducible apply keeps_modTable
    | with_reducible apply h1
    | with_reducible rfl
    | with_reducible apply ChKeeps.of
    | with_reducible apply IslKeeps.of
    | (intro x; first | (refine (fun (hx : Keeps s0 x) => ?_) ?_; on_goal 2 => subst x) | skip)
    | lift_lets
    | split

theorem keeps_closeSb {v1 v2 v3} (h1 : Keeps s0 v1) :
    Keeps s0 (closeSb v1 v2 v3) := by
  unfold closeSb
  repeat' first
    | with_reducible assumption
    | with_reducible apply keeps_jAppend
    | with_reducible apply keeps_modSb
    | with_reducible apply keeps_modMarl
    | with_reducible apply h1
    | with_reducible rfl
    | with_reducible apply ChKeeps.of
    | with_reducible apply IslKeeps.of
    | (intro x; first | (refine (fun (hx : Keeps s0 x) => ?_) ?_; on_goal 2 => subst x) | skip)
    | lift_lets
    | split

theorem keeps_closeIfDone {v1 v2 v3} (h1 : Keeps s0 v1) :
    Keeps s0 (closeIfDone v1 v2 v3) := by
  unfold closeIfDone
  repeat' first
    | with_reducible assumption
    | with_reducible apply keeps_closeSb
    | with_reducible apply h1
    | with_reducible rfl
    | with_reducible apply ChKeeps.of
    | with_reducible apply IslKeeps.of
    | (intro x; first | (refine (fun (hx : Keeps s0 x) => ?_) ?_; on_goal 2 => subst x) | skip)
    | lift_lets
    | split

theorem keeps_shutSb {v1 v2 v3} (h1 : Keeps s0 v1) :
    Keeps s0 (shutSb v1 v2 v3) := by
  unfold shutSb
  repeat' first
    | with_reducible assumption
    | with_reducible apply keeps_closeIfDone
    | with_reducible apply keeps_modMarl
    | with_reducible apply h1
    | with_reducible rfl
    | with_reducible apply ChKeeps.of
    | with_reducible apply IslKeeps.of
    | (intro x; first | (refine (fun (hx : Keeps s0 x) => ?_) ?_; on_goal 2 => subst x) | skip)
    | lift_lets
    | split

theorem keeps_endStripe {v1 v2 v3} (h1 : Keeps s0 v1) :
    Keeps s0 (endStripe v1 v2 v3) := by
  unfold endStripe
  repeat' first
    | with_reducible assumption
    | with_reducible apply keeps_modMarl
    | with_reducible apply keeps_shutSb
    | with_reducible apply h1
    | with_reducible rfl
    | with_reducible apply ChKeeps.of
    | with_reducible apply IslKeeps.of
    | (intro x; first | (refine (fun (hx : Keeps s0 x) => ?_) ?_; on_goal 2 => subst x) | skip)
    | lift_lets
    | split

theorem keeps_jSlot {v1 v2 v3} (h1 : Keeps s0 v1) :
    Keeps s0 (jSlot v1 v2 v3) := by
  unfold jSlot
  repeat' first
    | with_reducible assumption
    | with_reducible apply keeps_jAppend
    | with_reducible apply keeps_modMarl
    | with_reducible apply h1
    | with_reducible rfl
    | with_reducible apply ChKeeps.of
    | with_reducible apply IslKeeps.of
    | (intro x; first | (refine (fun (hx : Keeps s0 x) => ?_) ?_; on_goal 2 => subst x) | skip)
    | lift_lets
    | split

theorem keeps_openSb {v1 v2 v3 v4 v5} (h1 : Keeps s0 v1) :
    Keeps s0 (openSb v1 v2 v3 v4 v5) := by
  unfold openSb
  repeat' first
    | with_reducible assumption
    | with_reducible apply keeps_jAppend
    | with_reducible apply keeps_modSb
    | with_reducible apply keeps_modMarl
    | with_reducible apply h1
    | with_reducible rfl
    | with_reducible apply ChKeeps.of
    | with_reducible apply IslKeeps.of
    | (intro x; first | (refine (fun (hx : Keeps s0 x) => ?_) ?_; on_goal 2 => subst x) | skip)
    | lift_lets
    | split

theorem keeps_takePage {v1 v2 v3} (h1 : Keeps s0 v1) :
    KOP s0 (takePage v1 v2 v3) := by
  unfold takePage
  split
  · exact KOP.none
  · extract_lets t
    have ht : Keeps s0 t := by
      subst t
      split
      · exact keeps_openSb h1
      · exact h1
    split
    · exact KOP.none
    · extract_lets p
      exact KOP.some (keeps_modMarl ht)

theorem keeps_setMap {v1 v2 v3 v4} (h1 : Keeps s0 v1) :
    Keeps s0 (setMap v1 v2 v3 v4) := by
  unfold setMap
  repeat' first
    | with_reducible assumption
    | with_reducible apply keeps_modMarl
    | with_reducible apply h1
    | with_reducible rfl
    | with_reducible apply ChKeeps.of
    | with_reducible apply IslKeeps.of
    | (intro x; first | (refine (fun (hx : Keeps s0 x) => ?_) ?_; on_goal 2 => subst x) | skip)
    | lift_lets
    | split

theorem keeps_stripeFull {v1 v2 v3} (h1 : Keeps s0 v1) :
    Keeps s0 (stripeFull v1 v2 v3) := by
  unfold stripeFull
  repeat' first
    | with_reducible assumption
    | with_reducible apply keeps_endStripe
    | with_reducible apply h1
    | with_reducible rfl
    | with_reducible apply ChKeeps.of
    | with_reducible apply IslKeeps.of
    | (intro x; first | (refine (fun (hx : Keeps s0 x) => ?_) ?_; on_goal 2 => subst x) | skip)
    | lift_lets
    | split

theorem keeps_bufPush {v1 v2 v3 v4} (h1 : Keeps s0 v1) :
    Keeps s0 (bufPush v1 v2 v3 v4) := by
  unfold bufPush
  repeat' first
    | with_reducible assumption
    | with_reducible apply keeps_stripeFull
    | with_reducible apply keeps_modMarl
    | with_reducible apply h1
    | with_reducible rfl
    | with_reducible apply ChKeeps.of
    | with_reducible apply IslKeeps.of
    | (intro x; first | (refine (fun (hx : Keeps s0 x) => ?_) ?_; on_goal 2 => subst x) | skip)
    | lift_lets
    | split

theorem keeps_acceptUnit {v1 v2 v3 v4 v5 v6 v7 v8 v9} (h1 : Keeps s0 v1) :
    KO s0 (acceptUnit v1 v2 v3 v4 v5 v6 v7 v8 v9) := by
  unfold acceptUnit
  extract_lets m
  split
  · exact KO.none
  · split
    · exact KO.none
    · next p t heq =>
      extract_lets base base2 slots pg u
      exact KO.some (keeps_setMap (keeps_bufPush (keeps_modMarl (of_someP heq (keeps_takePage h1)))))

theorem keeps_padOpens {v1 v2 v3} (h1 : Keeps s0 v1) :
    Keeps s0 (padOpens v1 v2 v3) := by
  unfold padOpens
  repeat' first
    | with_reducible assumption
    | with_reducible apply keeps_endStripe
    | with_reducible apply keeps_foldl
    | with_reducible apply h1
    | with_reducible rfl
    | with_reducible apply ChKeeps.of
    | with_reducible apply IslKeeps.of
    | (intro x; first | (refine (fun (hx : Keeps s0 x) => ?_) ?_; on_goal 2 => subst x) | skip)
    | lift_lets
    | split

theorem keeps_unsealUnits {v1 v2 v3} (h1 : Keeps s0 v1) :
    Keeps s0 (unsealUnits v1 v2 v3) := by
  unfold unsealUnits
  repeat' first
    | with_reducible assumption
    | with_reducible apply keeps_setMap
    | with_reducible apply keeps_foldl
    | with_reducible apply h1
    | with_reducible rfl
    | with_reducible apply ChKeeps.of
    | with_reducible apply IslKeeps.of
    | (intro x; first | (refine (fun (hx : Keeps s0 x) => ?_) ?_; on_goal 2 => subst x) | skip)
    | lift_lets
    | split

theorem keeps_mediaCheck {v1 v2} (h1 : Keeps s0 v1) :
    Keeps s0 (mediaCheck v1 v2) := by
  unfold mediaCheck
  repeat' first
    | with_reducible assumption
    | with_reducible apply keeps_modMarl
    | with_reducible apply keeps_jAppend
    | with_reducible apply keeps_raiseC
    | with_reducible apply h1
    | with_reducible rfl
    | with_reducible apply ChKeeps.of
    | with_reducible apply IslKeeps.of
    | (intro x; first | (refine (fun (hx : Keeps s0 x) => ?_) ?_; on_goal 2 => subst x) | skip)
    | lift_lets
    | split

theorem keeps_invalidate {v1 v2 v3} (h1 : Keeps s0 v1) :
    Keeps s0 (invalidate v1 v2 v3) := by
  unfold invalidate
  repeat' first
    | with_reducible assumption
    | with_reducible apply keeps_modSb
    | with_reducible apply h1
    | with_reducible rfl
    | with_reducible apply ChKeeps.of
    | with_reducible apply IslKeeps.of
    | (intro x; first | (refine (fun (hx : Keeps s0 x) => ?_) ?_; on_goal 2 => subst x) | skip)
    | lift_lets
    | split

theorem keeps_unmapUnit {v1 v2 v3 v4} (h1 : Keeps s0 v1) :
    Keeps s0 (unmapUnit v1 v2 v3 v4) := by
  unfold unmapUnit
  repeat' first
    | with_reducible assumption
    | with_reducible apply keeps_modMarl
    | with_reducible apply keeps_setMap
    | with_reducible apply keeps_jAppend
    | with_reducible apply keeps_invalidate
    | with_reducible apply h1
    | with_reducible rfl
    | with_reducible apply ChKeeps.of
    | with_reducible apply IslKeeps.of
    | (intro x; first | (refine (fun (hx : Keeps s0 x) => ?_) ?_; on_goal 2 => subst x) | skip)
    | lift_lets
    | split

theorem keeps_clearSlots {v1 v2 v3 v4 v5} (h1 : Keeps s0 v1) :
    Keeps s0 (clearSlots v1 v2 v3 v4 v5) := by
  unfold clearSlots
  repeat' first
    | with_reducible assumption
    | with_reducible apply keeps_setMap
    | with_reducible apply keeps_mediaCheck
    | with_reducible apply keeps_unmapUnit
    | with_reducible apply h1
    | with_reducible rfl
    | with_reducible apply ChKeeps.of
    | with_reducible apply IslKeeps.of
    | (intro x; first | (refine (fun (hx : Keeps s0 x) => ?_) ?_; on_goal 2 => subst x) | skip)
    | lift_lets
    | split

theorem keeps_unsealRelease {v1 v2 v3} (h1 : Keeps s0 v1) :
    Keeps s0 (unsealRelease v1 v2 v3) := by
  unfold unsealRelease
  repeat' first
    | with_reducible assumption
    | with_reducible apply keeps_setMap
    | with_reducible apply keeps_clearSlots
    | with_reducible apply keeps_release
    | with_reducible apply keeps_foldl
    | with_reducible apply h1
    | with_reducible rfl
    | with_reducible apply ChKeeps.of
    | with_reducible apply IslKeeps.of
    | (intro x; first | (refine (fun (hx : Keeps s0 x) => ?_) ?_; on_goal 2 => subst x) | skip)
    | lift_lets
    | split

theorem keeps_freeMeta {v1 v2 v3} (h1 : Keeps s0 v1) :
    Keeps s0 (freeMeta v1 v2 v3) := by
  unfold freeMeta
  repeat' first
    | with_reducible assumption
    | with_reducible apply keeps_clearSlots
    | with_reducible apply keeps_foldl
    | with_reducible apply h1
    | with_reducible rfl
    | with_reducible apply ChKeeps.of
    | with_reducible apply IslKeeps.of
    | (intro x; first | (refine (fun (hx : Keeps s0 x) => ?_) ?_; on_goal 2 => subst x) | skip)
    | lift_lets
    | split

theorem keeps_freeImage {v1 v2 v3 v4} (h1 : Keeps s0 v1) :
    Keeps s0 (freeImage v1 v2 v3 v4) := by
  unfold freeImage
  repeat' first
    | with_reducible assumption
    | with_reducible apply keeps_modMarl
    | with_reducible apply keeps_jAppend
    | with_reducible apply keeps_unsealUnits
    | with_reducible apply keeps_unsealRelease
    | with_reducible apply keeps_mediaCheck
    | with_reducible apply keeps_freeMeta
    | with_reducible apply h1
    | with_reducible rfl
    | with_reducible apply ChKeeps.of
    | with_reducible apply IslKeeps.of
    | (intro x; first | (refine (fun (hx : Keeps s0 x) => ?_) ?_; on_goal 2 => subst x) | skip)
    | lift_lets
    | split

theorem keeps_nandFinish {v1 v2} (h1 : Keeps s0 v1) :
    Keeps s0 (nandFinish v1 v2) := by
  unfold nandFinish
  repeat' first
    | with_reducible assumption
    | with_reducible apply keeps_modMarl
    | with_reducible apply keeps_foldl
    | with_reducible apply h1
    | with_reducible rfl
    | with_reducible apply ChKeeps.of
    | with_reducible apply IslKeeps.of
    | (intro x; first | (refine (fun (hx : Keeps s0 x) => ?_) ?_; on_goal 2 => subst x) | skip)
    | lift_lets
    | split

theorem keeps_markSb {v1 v2 v3} (h1 : Keeps s0 v1) :
    Keeps s0 (markSb v1 v2 v3) := by
  unfold markSb
  repeat' first
    | with_reducible assumption
    | with_reducible apply keeps_modMarl
    | with_reducible apply h1
    | with_reducible rfl
    | with_reducible apply ChKeeps.of
    | with_reducible apply IslKeeps.of
    | (intro x; first | (refine (fun (hx : Keeps s0 x) => ?_) ?_; on_goal 2 => subst x) | skip)
    | lift_lets
    | split

theorem keeps_acceptMeta {v1 v2 v3 v4 v5} (h5 : Keeps s0 v5) :
    Keeps s0 (acceptMeta v1 v2 v3 v4 v5).2 := by
  revert h5
  fun_induction acceptMeta v1 v2 v3 v4 v5
  all_goals try intro h5
  all_goals repeat' first
    | with_reducible assumption
    | with_reducible apply keeps_takePage
    | with_reducible apply keeps_modMarl
    | with_reducible apply keeps_setMap
    | with_reducible apply keeps_bufPush
    | with_reducible refine of_someP (by assumption) ?_
    | with_reducible apply h5
    | apply_assumption (transparency := .reducible)
    | with_reducible rfl
    | with_reducible apply ChKeeps.of
    | with_reducible apply IslKeeps.of
    | (intro x; first | (refine (fun (hx : Keeps s0 x) => ?_) ?_; on_goal 2 => subst x) | skip)
    | lift_lets
    | split

theorem keeps_acceptFrame {v1 v2 v3 v4 v5 v6 v7 v8} (h1 : Keeps s0 v1) :
    KO s0 (acceptFrame v1 v2 v3 v4 v5 v6 v7 v8) := by
  unfold acceptFrame
  extract_lets lo sz
  refine keeps_foldlO (fun t a ht => ?_) h1
  exact keeps_acceptUnit ht

theorem keeps_releaseT2 {v1 v2 v3 v4} (h1 : Keeps s0 v1) :
    Keeps s0 (releaseT2 v1 v2 v3 v4).1 := by
  unfold releaseT2
  repeat' first
    | with_reducible assumption
    | with_reducible apply keeps_clearSlots
    | with_reducible apply keeps_foldl
    | with_reducible apply h1
    | with_reducible rfl
    | with_reducible apply ChKeeps.of
    | with_reducible apply IslKeeps.of
    | (intro x; first | (refine (fun (hx : Keeps s0 x) => ?_) ?_; on_goal 2 => subst x) | skip)
    | lift_lets
    | split

theorem keeps_releaseLoc {v1 v2 v3 v4 v5} (h1 : Keeps s0 v1) :
    Keeps s0 (releaseLoc v1 v2 v3 v4 v5) := by
  unfold releaseLoc
  repeat' first
    | with_reducible assumption
    | with_reducible apply keeps_releaseT2
    | with_reducible apply keeps_release
    | with_reducible refine of_fst (by assumption) ?_
    | with_reducible apply h1
    | with_reducible rfl
    | with_reducible apply ChKeeps.of
    | with_reducible apply IslKeeps.of
    | (intro x; first | (refine (fun (hx : Keeps s0 x) => ?_) ?_; on_goal 2 => subst x) | skip)
    | lift_lets
    | split

end Sys2Proof.Laws
end

