-- ==== Sys2Proof/Laws/KeepsObjOps.lean ====
section
/-! SUPPORT. `Keeps` of the definitions of Sys2Proof/Machine/ObjOps.lean. -/

namespace Sys2Proof.Laws
open Sys2Proof Sys2Proof.Machine

variable {s0 : State}

theorem keeps_incRec {v1 v2 v3} (h1 : Keeps s0 v1) :
    Keeps s0 (incRec v1 v2 v3) := by
  unfold incRec
  repeat' first
    | with_reducible assumption
    | with_reducible apply keeps_setRec
    | with_reducible apply keeps_raiseC
    | with_reducible apply h1
    | with_reducible rfl
    | with_reducible apply ChKeeps.of
    | with_reducible apply IslKeeps.of
    | (intro x; first | (refine (fun (hx : Keeps s0 x) => ?_) ?_; on_goal 2 => subst x) | skip)
    | lift_lets
    | split

theorem keeps_incBlock {v1 v2 v3} (h1 : Keeps s0 v1) :
    Keeps s0 (incBlock v1 v2 v3) := by
  unfold incBlock
  repeat' first
    | with_reducible assumption
    | with_reducible apply keeps_incRec
    | with_reducible apply keeps_foldl
    | with_reducible apply h1
    | with_reducible rfl
    | with_reducible apply ChKeeps.of
    | with_reducible apply IslKeeps.of
    | (intro x; first | (refine (fun (hx : Keeps s0 x) => ?_) ?_; on_goal 2 => subst x) | skip)
    | lift_lets
    | split

theorem keeps_askRemoval {v1 v2 v3} (h1 : Keeps s0 v1) :
    Keeps s0 (askRemoval v1 v2 v3) := by
  unfold askRemoval
  repeat' first
    | with_reducible assumption
    | with_reducible apply keeps_forCh
    | with_reducible apply keeps_modRefPort
    | with_reducible apply h1
    | with_reducible rfl
    | with_reducible apply ChKeeps.of
    | with_reducible apply IslKeeps.of
    | (intro x; first | (refine (fun (hx : Keeps s0 x) => ?_) ?_; on_goal 2 => subst x) | skip)
    | lift_lets
    | split

theorem keeps_applyPoison {v1 v2 v3} (h1 : Keeps s0 v1) :
    Keeps s0 (applyPoison v1 v2 v3) := by
  unfold applyPoison
  repeat' first
    | with_reducible assumption
    | with_reducible apply keeps_setPb
    | with_reducible apply keeps_setRec
    | with_reducible apply keeps_askRemoval
    | with_reducible apply keeps_modRefPort
    | with_reducible apply h1
    | with_reducible rfl
    | with_reducible apply ChKeeps.of
    | with_reducible apply IslKeeps.of
    | (intro x; first | (refine (fun (hx : Keeps s0 x) => ?_) ?_; on_goal 2 => subst x) | skip)
    | lift_lets
    | split

theorem keeps_poisonShared {v1 v2 v3} (h1 : Keeps s0 v1) :
    Keeps s0 (poisonShared v1 v2 v3) := by
  unfold poisonShared
  repeat' first
    | with_reducible assumption
    | with_reducible apply keeps_modRefPort
    | with_reducible apply keeps_applyPoison
    | with_reducible apply h1
    | with_reducible rfl
    | with_reducible apply ChKeeps.of
    | with_reducible apply IslKeeps.of
    | (intro x; first | (refine (fun (hx : Keeps s0 x) => ?_) ?_; on_goal 2 => subst x) | skip)
    | lift_lets
    | split

theorem keeps_poisonPrivate {v1 v2 v3} (h1 : Keeps s0 v1) :
    Keeps s0 (poisonPrivate v1 v2 v3) := by
  unfold poisonPrivate
  repeat' first
    | with_reducible assumption
    | with_reducible apply keeps_setPte
    | with_reducible apply keeps_raiseC
    | with_reducible apply h1
    | with_reducible rfl
    | with_reducible apply ChKeeps.of
    | with_reducible apply IslKeeps.of
    | (intro x; first | (refine (fun (hx : Keeps s0 x) => ?_) ?_; on_goal 2 => subst x) | skip)
    | lift_lets
    | split

theorem keeps_losePage {v1 v2 v3} (h1 : Keeps s0 v1) :
    Keeps s0 (losePage v1 v2 v3) := by
  unfold losePage
  repeat' first
    | with_reducible assumption
    | with_reducible apply keeps_poisonShared
    | with_reducible apply keeps_poisonPrivate
    | with_reducible apply h1
    | with_reducible rfl
    | with_reducible apply ChKeeps.of
    | with_reducible apply IslKeeps.of
    | (intro x; first | (refine (fun (hx : Keeps s0 x) => ?_) ?_; on_goal 2 => subst x) | skip)
    | lift_lets
    | split

theorem keeps_closeEnd {v1 v2 v3} (h1 : Keeps s0 v1) :
    Keeps s0 (closeEnd v1 v2 v3) := by
  unfold closeEnd
  repeat' first
    | with_reducible assumption
    | with_reducible apply keeps_jSlot
    | with_reducible apply keeps_setSeq
    | with_reducible apply keeps_raiseC
    | with_reducible apply h1
    | with_reducible rfl
    | with_reducible apply ChKeeps.of
    | with_reducible apply IslKeeps.of
    | (intro x; first | (refine (fun (hx : Keeps s0 x) => ?_) ?_; on_goal 2 => subst x) | skip)
    | lift_lets
    | split

theorem keeps_setHome {v1 v2 v3 v4} (h1 : Keeps s0 v1) :
    Keeps s0 (setHome v1 v2 v3 v4) := by
  unfold setHome
  repeat' first
    | with_reducible assumption
    | with_reducible apply keeps_modObj
    | with_reducible apply h1
    | with_reducible rfl
    | with_reducible apply ChKeeps.of
    | with_reducible apply IslKeeps.of
    | (intro x; first | (refine (fun (hx : Keeps s0 x) => ?_) ?_; on_goal 2 => subst x) | skip)
    | lift_lets
    | split

theorem keeps_dropHome {v1 v2 v3} (h1 : Keeps s0 v1) :
    Keeps s0 (dropHome v1 v2 v3) := by
  unfold dropHome
  repeat' first
    | with_reducible assumption
    | with_reducible apply keeps_setHome
    | with_reducible apply keeps_releaseLoc
    | with_reducible apply h1
    | with_reducible rfl
    | with_reducible apply ChKeeps.of
    | with_reducible apply IslKeeps.of
    | (intro x; first | (refine (fun (hx : Keeps s0 x) => ?_) ?_; on_goal 2 => subst x) | skip)
    | lift_lets
    | split

theorem keeps_releasePage {v1 v2 v3} (h1 : Keeps s0 v1) :
    Keeps s0 (releasePage v1 v2 v3) := by
  unfold releasePage
  repeat' first
    | with_reducible assumption
    | with_reducible apply keeps_releaseLoc
    | with_reducible apply keeps_dropHome
    | with_reducible apply h1
    | with_reducible rfl
    | with_reducible apply ChKeeps.of
    | with_reducible apply IslKeeps.of
    | (intro x; first | (refine (fun (hx : Keeps s0 x) => ?_) ?_; on_goal 2 => subst x) | skip)
    | lift_lets
    | split

theorem keeps_freeBlock {v1 v2 v3} (h1 : Keeps s0 v1) :
    Keeps s0 (freeBlock v1 v2 v3) := by
  unfold freeBlock
  repeat' first
    | with_reducible assumption
    | with_reducible apply keeps_setRec
    | with_reducible apply keeps_freeSumm
    | with_reducible apply keeps_releasePage
    | with_reducible apply keeps_freeNodes
    | with_reducible apply keeps_setPb
    | with_reducible apply keeps_modRefPort
    | with_reducible apply keeps_askRemoval
    | with_reducible apply keeps_freeImage
    | with_reducible apply keeps_foldl
    | with_reducible apply h1
    | with_reducible rfl
    | with_reducible apply ChKeeps.of
    | with_reducible apply IslKeeps.of
    | (intro x; first | (refine (fun (hx : Keeps s0 x) => ?_) ?_; on_goal 2 => subst x) | skip)
    | lift_lets
    | split

theorem keeps_freeIfUnheld {v1 v2 v3} (h1 : Keeps s0 v1) :
    Keeps s0 (freeIfUnheld v1 v2 v3) := by
  unfold freeIfUnheld
  repeat' first
    | with_reducible assumption
    | with_reducible apply keeps_freeBlock
    | with_reducible apply h1
    | with_reducible rfl
    | with_reducible apply ChKeeps.of
    | with_reducible apply IslKeeps.of
    | (intro x; first | (refine (fun (hx : Keeps s0 x) => ?_) ?_; on_goal 2 => subst x) | skip)
    | lift_lets
    | split

theorem keeps_dropFrozen {v1 v2 v3} (h1 : Keeps s0 v1) :
    Keeps s0 (dropFrozen v1 v2 v3) := by
  unfold dropFrozen
  extract_lets run t
  have ht : Keeps s0 t := keeps_modMarl h1
  clear_value run
  cases run with
  | some r => exact keeps_mediaCheck (keeps_freeMeta ht)
  | none => exact ht

theorem keeps_releaseRest {v1 v2 v3} (h1 : Keeps s0 v1) :
    Keeps s0 (releaseRest v1 v2 v3) := by
  unfold releaseRest
  repeat' first
    | with_reducible assumption
    | with_reducible apply keeps_modObj
    | with_reducible apply keeps_freeNodes
    | with_reducible apply keeps_dropFrozen
    | with_reducible apply keeps_freeImage
    | with_reducible apply h1
    | with_reducible rfl
    | with_reducible apply ChKeeps.of
    | with_reducible apply IslKeeps.of
    | (intro x; first | (refine (fun (hx : Keeps s0 x) => ?_) ?_; on_goal 2 => subst x) | skip)
    | lift_lets
    | split

theorem keeps_decRec {v1 v2 v3} (h1 : Keeps s0 v1) :
    Keeps s0 (decRec v1 v2 v3) := by
  unfold decRec
  repeat' first
    | with_reducible assumption
    | with_reducible apply keeps_raiseC
    | with_reducible apply keeps_setRec
    | with_reducible apply h1
    | with_reducible rfl
    | with_reducible apply ChKeeps.of
    | with_reducible apply IslKeeps.of
    | (intro x; first | (refine (fun (hx : Keeps s0 x) => ?_) ?_; on_goal 2 => subst x) | skip)
    | lift_lets
    | split

theorem keeps_decRecs {v1 v2 v3 v4} (h1 : Keeps s0 v1) :
    Keeps s0 (decRecs v1 v2 v3 v4) := by
  unfold decRecs
  repeat' first
    | with_reducible assumption
    | with_reducible apply keeps_freeIfUnheld
    | with_reducible apply keeps_decRec
    | with_reducible apply keeps_foldl
    | with_reducible apply h1
    | with_reducible rfl
    | with_reducible apply ChKeeps.of
    | with_reducible apply IslKeeps.of
    | (intro x; first | (refine (fun (hx : Keeps s0 x) => ?_) ?_; on_goal 2 => subst x) | skip)
    | lift_lets
    | split

theorem keeps_releaseEntry {v1 v2 v3 v4} (h1 : Keeps s0 v1) :
    Keeps s0 (releaseEntry v1 v2 v3 v4) := by
  have hs : ∀ l : List (Nat × Pte), Keeps s0 (l.foldl (fun t k => setPte t v2 k.1 Pte.empty) v1) := fun _ => keeps_foldl (fun _ _ h => keeps_setPte h) h1
  simp only [releaseEntry]
  split
  · exact keeps_setPte (keeps_ite (fun _ => keeps_releaseLoc h1) (fun _ => keeps_freeSumm (keeps_releasePage h1)))
  · exact keeps_setPte (keeps_ite (fun _ => h1) (fun _ => keeps_freeSumm h1))
  · split
    · exact keeps_ite (fun _ => keeps_decRecs (hs _)) (fun _ => hs _)
    · exact hs _
  · exact h1

theorem keeps_releaseSeq {v1 v2 v3} (h1 : Keeps s0 v1) :
    Keeps s0 (releaseSeq v1 v2 v3) := by
  unfold releaseSeq
  repeat' first
    | with_reducible assumption
    | with_reducible apply keeps_releaseRest
    | with_reducible apply keeps_releaseEntry
    | with_reducible apply keeps_foldl
    | with_reducible apply h1
    | with_reducible rfl
    | with_reducible apply ChKeeps.of
    | with_reducible apply IslKeeps.of
    | (intro x; first | (refine (fun (hx : Keeps s0 x) => ?_) ?_; on_goal 2 => subst x) | (refine (fun (hx : Keeps s0 x.1) => ?_) ?_; on_goal 2 => subst x) | (refine (fun (hx : Keeps s0 x.2) => ?_) ?_; on_goal 2 => subst x) | (refine (fun (hx : Keeps s0 x.2.2) => ?_) ?_; on_goal 2 => subst x) | (refine (fun (hx : Keeps s0 x.2.1) => ?_) ?_; on_goal 2 => subst x) | skip)
    | (extract_lets -underBinder +onlyGivenNames x; first | (refine (fun (hx : Keeps s0 x) => ?_) ?_; on_goal 2 => subst x) | (refine (fun (hx : Keeps s0 x.1) => ?_) ?_; on_goal 2 => subst x) | (refine (fun (hx : Keeps s0 x.2) => ?_) ?_; on_goal 2 => subst x) | (refine (fun (hx : Keeps s0 x.2.2) => ?_) ?_; on_goal 2 => subst x) | (refine (fun (hx : Keeps s0 x.2.1) => ?_) ?_; on_goal 2 => subst x) | skip)
    | split

theorem keeps_closeSeq {v1 v2 v3} (h1 : Keeps s0 v1) :
    Keeps s0 (closeSeq v1 v2 v3) := by
  unfold closeSeq
  repeat' first
    | with_reducible assumption
    | with_reducible apply keeps_closeEnd
    | with_reducible apply keeps_releaseSeq
    | with_reducible apply h1
    | with_reducible rfl
    | with_reducible apply ChKeeps.of
    | with_reducible apply IslKeeps.of
    | (intro x; first | (refine (fun (hx : Keeps s0 x) => ?_) ?_; on_goal 2 => subst x) | skip)
    | lift_lets
    | split

theorem keeps_mendWrite {v1 v2 v3 v4 v5} (h1 : Keeps s0 v1) :
    Keeps s0 (mendWrite v1 v2 v3 v4 v5) := by
  unfold mendWrite
  repeat' first
    | with_reducible assumption
    | with_reducible apply keeps_t1Write
    | with_reducible apply keeps_foldl
    | with_reducible apply h1
    | with_reducible rfl
    | with_reducible apply ChKeeps.of
    | with_reducible apply IslKeeps.of
    | (intro x; first | (refine (fun (hx : Keeps s0 x) => ?_) ?_; on_goal 2 => subst x) | skip)
    | lift_lets
    | split

theorem keeps_recoverPieces {v1 v2 v3 v4 v5} (h1 : Keeps s0 v1) :
    KO s0 (recoverPieces v1 v2 v3 v4 v5) := by
  unfold recoverPieces
  extract_lets h
  split
  · exact KO.some h1
  · split
    · exact KO.none
    · refine keeps_foldlO (g := fun t i => (t2Part t v2 v3.owner h.cls.toNat (homeLoc h) (4096 * i) (pieceLen v4 i)).map
        (fun bs => mendWrite t v2 v3.owner (frameAddr v3.pte.loc + 4096 * i) bs)) (fun t i ht => ?_) h1
      cases t2Part t v2 v3.owner h.cls.toNat (homeLoc h) (4096 * i) (pieceLen v4 i) with
      | none => exact KO.none
      | some bs => exact KO.some (keeps_mendWrite ht)

theorem keeps_queueRing {v1 v2 v3} (h1 : Keeps s0 v1) :
    Keeps s0 (queueRing v1 v2 v3) := by
  unfold queueRing
  repeat' first
    | with_reducible assumption
    | with_reducible apply keeps_modRefPort
    | with_reducible apply h1
    | with_reducible rfl
    | with_reducible apply ChKeeps.of
    | with_reducible apply IslKeeps.of
    | (intro x; first | (refine (fun (hx : Keeps s0 x) => ?_) ?_; on_goal 2 => subst x) | skip)
    | lift_lets
    | split

theorem keeps_holdRing {v1 v2 v3} (h1 : Keeps s0 v1) :
    Keeps s0 (holdRing v1 v2 v3) := by
  unfold holdRing
  repeat' first
    | with_reducible assumption
    | with_reducible apply keeps_setWait
    | with_reducible apply keeps_queueRing
    | with_reducible apply h1
    | with_reducible rfl
    | with_reducible apply ChKeeps.of
    | with_reducible apply IslKeeps.of
    | (intro x; first | (refine (fun (hx : Keeps s0 x) => ?_) ?_; on_goal 2 => subst x) | skip)
    | lift_lets
    | split

theorem keeps_stay {v1 v2 v3} (h1 : Keeps s0 v1) :
    Keeps s0 (stay v1 v2 v3) := by
  unfold stay
  repeat' first
    | with_reducible assumption
    | with_reducible apply keeps_setWait
    | with_reducible apply h1
    | with_reducible rfl
    | with_reducible apply ChKeeps.of
    | with_reducible apply IslKeeps.of
    | (intro x; first | (refine (fun (hx : Keeps s0 x) => ?_) ?_; on_goal 2 => subst x) | skip)
    | lift_lets
    | split

theorem keeps_loseRead {v1 v2 v3 v4} (h1 : Keeps s0 v1) :
    Keeps s0 (loseRead v1 v2 v3 v4) := by
  unfold loseRead
  repeat' first
    | with_reducible assumption
    | with_reducible apply keeps_losePage
    | with_reducible apply h1
    | with_reducible rfl
    | with_reducible apply ChKeeps.of
    | with_reducible apply IslKeeps.of
    | (intro x; first | (refine (fun (hx : Keeps s0 x) => ?_) ?_; on_goal 2 => subst x) | skip)
    | lift_lets
    | split

theorem keeps_closeGo {v1 v2 v3 v4 v5} (h5 : Keeps s0 v5) :
    Keeps s0 (closeGo v1 v2 v3 v4 v5) := by
  revert h5
  fun_induction closeGo v1 v2 v3 v4 v5
  all_goals try intro h5
  all_goals repeat' first
    | with_reducible assumption
    | with_reducible apply keeps_releaseRest
    | with_reducible apply keeps_setWait
    | with_reducible apply keeps_noteFull
    | with_reducible apply keeps_retireSt
    | with_reducible apply keeps_closeEnd
    | with_reducible apply keeps_queueRing
    | with_reducible apply keeps_releaseEntry
    | with_reducible apply keeps_getD
    | with_reducible apply h5
    | apply_assumption (transparency := .reducible)
    | with_reducible rfl
    | with_reducible apply ChKeeps.of
    | with_reducible apply IslKeeps.of
    | (intro x; first | (refine (fun (hx : Keeps s0 x) => ?_) ?_; on_goal 2 => subst x) | skip)
    | lift_lets
    | split

theorem keeps_closeRetire {v1 v2 v3 v4} (h1 : Keeps s0 v1) :
    Keeps s0 (closeRetire v1 v2 v3 v4) := by
  unfold closeRetire
  repeat' first
    | with_reducible assumption
    | with_reducible apply keeps_closeGo
    | with_reducible apply h1
    | with_reducible rfl
    | with_reducible apply ChKeeps.of
    | with_reducible apply IslKeeps.of
    | (intro x; first | (refine (fun (hx : Keeps s0 x) => ?_) ?_; on_goal 2 => subst x) | skip)
    | lift_lets
    | split

theorem keeps_growMap {v1 v2 v3 v4 v5 v6} (h1 : Keeps s0 v1) :
    KO s0 (growMap v1 v2 v3 v4 v5 v6) := by
  unfold growMap
  extract_lets d depth old
  split
  · exact KO.none
  · next t heq =>
    have ht := of_some heq (keeps_allocNodes h1)
    split
    · exact KO.some ht
    · exact KO.some (keeps_modObj ht)

theorem keeps_growMaps {v1 v2 v3 v4} (h1 : Keeps s0 v1) :
    KO s0 (growMaps v1 v2 v3 v4) := by
  unfold growMaps
  exact keeps_foldlO (fun t a ht => keeps_growMap ht) h1

theorem keeps_decBlock {v1 v2 v3} (h1 : Keeps s0 v1) :
    Keeps s0 (decBlock v1 v2 v3) := by
  unfold decBlock
  repeat' first
    | with_reducible assumption
    | with_reducible apply keeps_freeIfUnheld
    | with_reducible apply keeps_decRec
    | with_reducible apply keeps_foldl
    | with_reducible apply h1
    | with_reducible rfl
    | with_reducible apply ChKeeps.of
    | with_reducible apply IslKeeps.of
    | (intro x; first | (refine (fun (hx : Keeps s0 x) => ?_) ?_; on_goal 2 => subst x) | skip)
    | lift_lets
    | split

theorem keeps_wbPush {v1 v2 v3 v4 v5} (h1 : Keeps s0 v1) :
    Keeps s0 (wbPush v1 v2 v3 v4 v5) := by
  unfold wbPush
  repeat' first
    | with_reducible assumption
    | with_reducible apply keeps_modObj
    | with_reducible apply keeps_raiseC
    | with_reducible apply h1
    | with_reducible rfl
    | with_reducible apply ChKeeps.of
    | with_reducible apply IslKeeps.of
    | (intro x; first | (refine (fun (hx : Keeps s0 x) => ?_) ?_; on_goal 2 => subst x) | skip)
    | lift_lets
    | split

theorem keeps_readPage {v1 v2 v3 v4} (h1 : Keeps s0 v1) :
    Keeps s0 (readPage v1 v2 v3 v4).2 := by
  unfold readPage
  repeat' first
    | with_reducible assumption
    | with_reducible apply keeps_recoverPieces
    | with_reducible exact KOP.none
    | with_reducible refine KOP.some ?_
    | with_reducible refine of_some (by assumption) ?_
    | with_reducible apply h1
    | with_reducible rfl
    | with_reducible apply ChKeeps.of
    | with_reducible apply IslKeeps.of
    | (intro x; first | (refine (fun (hx : Keeps s0 x) => ?_) ?_; on_goal 2 => subst x) | skip)
    | lift_lets
    | split

theorem keeps_markDirty {v1 v2 v3 v4 v5} (h1 : Keeps s0 v1) :
    Keeps s0 (markDirty v1 v2 v3 v4 v5) := by
  unfold markDirty
  repeat' first
    | with_reducible assumption
    | with_reducible apply keeps_setPage
    | with_reducible apply keeps_wbPush
    | with_reducible apply keeps_foldl
    | with_reducible apply h1
    | with_reducible rfl
    | with_reducible apply ChKeeps.of
    | with_reducible apply IslKeeps.of
    | (intro x; first | (refine (fun (hx : Keeps s0 x) => ?_) ?_; on_goal 2 => subst x) | skip)
    | lift_lets
    | split

end Sys2Proof.Laws
end

