-- ==== Sys2Proof/Laws/KeepsRegionOps.lean ====
section
/-! SUPPORT. `Keeps` of the definitions of Sys2Proof/Machine/RegionOps.lean. -/

namespace Sys2Proof.Laws
open Sys2Proof Sys2Proof.Machine

variable {s0 : State}

theorem keeps_publish {v1 v2 v3 v4} (h1 : Keeps s0 v1) :
    Keeps s0 (publish v1 v2 v3 v4).2.2.2 := by
  unfold publish
  repeat' first
    | with_reducible assumption
    | with_reducible apply keeps_modRegion
    | with_reducible apply h1
    | with_reducible rfl
    | with_reducible apply ChKeeps.of
    | with_reducible apply IslKeeps.of
    | (intro x; first | (refine (fun (hx : Keeps s0 x) => ?_) ?_; on_goal 2 => subst x) | skip)
    | lift_lets
    | split

theorem keeps_regionCount {v1 v2 v3} (h1 : Keeps s0 v1) :
    Keeps s0 (regionCount v1 v2 v3) := by
  unfold regionCount
  repeat' first
    | with_reducible assumption
    | with_reducible apply keeps_modRegion
    | with_reducible apply h1
    | with_reducible rfl
    | with_reducible apply ChKeeps.of
    | with_reducible apply IslKeeps.of
    | (intro x; first | (refine (fun (hx : Keeps s0 x) => ?_) ?_; on_goal 2 => subst x) | skip)
    | lift_lets
    | split

theorem keeps_ringCount {v1 v2 v3 v4 v5} (h1 : Keeps s0 v1) :
    Keeps s0 (ringCount v1 v2 v3 v4 v5) := by
  unfold ringCount
  repeat' first
    | with_reducible assumption
    | with_reducible apply keeps_modRing
    | with_reducible apply keeps_regionCount
    | with_reducible apply h1
    | with_reducible rfl
    | with_reducible apply ChKeeps.of
    | with_reducible apply IslKeeps.of
    | (intro x; first | (refine (fun (hx : Keeps s0 x) => ?_) ?_; on_goal 2 => subst x) | skip)
    | lift_lets
    | split

end Sys2Proof.Laws
end

