-- ==== Sys2Proof/Laws/KeepsLinkOps.lean ====
section
/-! SUPPORT. `Keeps` of the definitions of Sys2Proof/Machine/LinkOps.lean. -/

namespace Sys2Proof.Laws
open Sys2Proof Sys2Proof.Machine

variable {s0 : State}

theorem keeps_modConn {v1 v2 v3 v4} (h1 : Keeps s0 v1) :
    Keeps s0 (modConn v1 v2 v3 v4) := by
  unfold modConn
  repeat' first
    | with_reducible assumption
    | with_reducible apply keeps_modLink
    | with_reducible apply h1
    | with_reducible rfl
    | with_reducible apply ChKeeps.of
    | with_reducible apply IslKeeps.of
    | (intro x; first | (refine (fun (hx : Keeps s0 x) => ?_) ?_; on_goal 2 => subst x) | skip)
    | lift_lets
    | split

theorem keeps_pumpSteps {v1 v2 v3} (h2 : Keeps s0 v2) :
    Keeps s0 (pumpSteps v1 v2 v3) := by
  revert h2
  fun_induction pumpSteps v1 v2 v3
  all_goals try intro h2
  all_goals repeat' first
    | with_reducible assumption
    | with_reducible apply keeps_emit
    | with_reducible apply keeps_modLink
    | with_reducible apply h2
    | apply_assumption (transparency := .reducible)
    | with_reducible rfl
    | with_reducible apply ChKeeps.of
    | with_reducible apply IslKeeps.of
    | (intro x; first | (refine (fun (hx : Keeps s0 x) => ?_) ?_; on_goal 2 => subst x) | skip)
    | lift_lets
    | split

theorem keeps_pump {v1 v2} (h1 : Keeps s0 v1) :
    Keeps s0 (pump v1 v2) := by
  unfold pump
  repeat' first
    | with_reducible assumption
    | with_reducible apply keeps_pumpSteps
    | with_reducible apply h1
    | with_reducible rfl
    | with_reducible apply ChKeeps.of
    | with_reducible apply IslKeeps.of
    | (intro x; first | (refine (fun (hx : Keeps s0 x) => ?_) ?_; on_goal 2 => subst x) | skip)
    | lift_lets
    | split

theorem keeps_sendPkts {v1 v2 v3} (h1 : Keeps s0 v1) :
    Keeps s0 (sendPkts v1 v2 v3) := by
  unfold sendPkts
  repeat' first
    | with_reducible assumption
    | with_reducible apply keeps_pump
    | with_reducible apply keeps_modLink
    | with_reducible apply h1
    | with_reducible rfl
    | with_reducible apply ChKeeps.of
    | with_reducible apply IslKeeps.of
    | (intro x; first | (refine (fun (hx : Keeps s0 x) => ?_) ?_; on_goal 2 => subst x) | skip)
    | lift_lets
    | split

theorem keeps_startOp {v1 v2 v3 v4 v5 v6 v7 v8 v9 v10} (h1 : Keeps s0 v1) :
    Keeps s0 (startOp v1 v2 v3 v4 v5 v6 v7 v8 v9 v10) := by
  unfold startOp
  repeat' first
    | with_reducible assumption
    | with_reducible apply keeps_sendPkts
    | with_reducible apply keeps_modConn
    | with_reducible apply h1
    | with_reducible rfl
    | with_reducible apply ChKeeps.of
    | with_reducible apply IslKeeps.of
    | (intro x; first | (refine (fun (hx : Keeps s0 x) => ?_) ?_; on_goal 2 => subst x) | skip)
    | lift_lets
    | split

end Sys2Proof.Laws
end

