-- ==== Sys2Proof/Laws/KeepsSieveOps.lean ====
section
/-! SUPPORT. `Keeps` of the definitions of Sys2Proof/Machine/SieveOps.lean. -/

namespace Sys2Proof.Laws
open Sys2Proof Sys2Proof.Machine

variable {s0 : State}

theorem keeps_reportRow {v1 v2 v3 v4 v5} (h1 : Keeps s0 v1) :
    Keeps s0 (reportRow v1 v2 v3 v4 v5) := by
  unfold reportRow
  repeat' first
    | with_reducible assumption
    | with_reducible apply keeps_modRefPort
    | with_reducible apply h1
    | with_reducible rfl
    | with_reducible apply ChKeeps.of
    | with_reducible apply IslKeeps.of
    | (intro x; first | (refine (fun (hx : Keeps s0 x) => ?_) ?_; on_goal 2 => subst x) | skip)
    | lift_lets
    | split

theorem keeps_reportAll {v1 v2 v3 v4} (h1 : Keeps s0 v1) :
    Keeps s0 (reportAll v1 v2 v3 v4) := by
  unfold reportAll
  repeat' first
    | with_reducible assumption
    | with_reducible apply keeps_reportRow
    | with_reducible apply keeps_foldl
    | with_reducible apply h1
    | with_reducible rfl
    | with_reducible apply ChKeeps.of
    | with_reducible apply IslKeeps.of
    | (intro x; first | (refine (fun (hx : Keeps s0 x) => ?_) ?_; on_goal 2 => subst x) | skip)
    | lift_lets
    | split

theorem keeps_sendPair {v1 v2 v3 v4 v5} (h1 : Keeps s0 v1) :
    Keeps s0 (sendPair v1 v2 v3 v4 v5) := by
  unfold sendPair
  repeat' first
    | with_reducible assumption
    | with_reducible apply keeps_emit
    | with_reducible apply h1
    | with_reducible rfl
    | with_reducible apply ChKeeps.of
    | with_reducible apply IslKeeps.of
    | (intro x; first | (refine (fun (hx : Keeps s0 x) => ?_) ?_; on_goal 2 => subst x) | skip)
    | lift_lets
    | split

theorem keeps_sendDrops {v1 v2 v3} (h1 : Keeps s0 v1) :
    Keeps s0 (sendDrops v1 v2 v3) := by
  unfold sendDrops
  repeat' first
    | with_reducible assumption
    | with_reducible apply keeps_sendPair
    | with_reducible apply keeps_foldl
    | with_reducible apply h1
    | with_reducible rfl
    | with_reducible apply ChKeeps.of
    | with_reducible apply IslKeeps.of
    | (intro x; first | (refine (fun (hx : Keeps s0 x) => ?_) ?_; on_goal 2 => subst x) | skip)
    | lift_lets
    | split

theorem keeps_removeBlock {v1 v2 v3} (h1 : Keeps s0 v1) :
    Keeps s0 (removeBlock v1 v2 v3) := by
  unfold removeBlock
  repeat' first
    | with_reducible assumption
    | with_reducible apply keeps_sendDrops
    | with_reducible apply keeps_reportAll
    | with_reducible apply keeps_modSieve
    | with_reducible apply h1
    | with_reducible rfl
    | with_reducible apply ChKeeps.of
    | with_reducible apply IslKeeps.of
    | (intro x; first | (refine (fun (hx : Keeps s0 x) => ?_) ?_; on_goal 2 => subst x) | skip)
    | lift_lets
    | split

theorem keeps_spareIn {v1 v2 v3} (h1 : Keeps s0 v1) :
    Keeps s0 (spareIn v1 v2 v3) := by
  unfold spareIn
  repeat' first
    | with_reducible assumption
    | with_reducible apply keeps_modSieve
    | with_reducible apply keeps_raiseSpare
    | with_reducible apply keeps_raiseC
    | with_reducible apply h1
    | with_reducible rfl
    | with_reducible apply ChKeeps.of
    | with_reducible apply IslKeeps.of
    | (intro x; first | (refine (fun (hx : Keeps s0 x) => ?_) ?_; on_goal 2 => subst x) | skip)
    | lift_lets
    | split

theorem keeps_spareHoles {v1 v2} (h1 : Keeps s0 v1) :
    Keeps s0 (spareHoles v1 v2) := by
  unfold spareHoles
  repeat' first
    | with_reducible assumption
    | with_reducible apply keeps_spareIn
    | with_reducible apply keeps_foldl
    | with_reducible apply h1
    | with_reducible rfl
    | with_reducible apply ChKeeps.of
    | with_reducible apply IslKeeps.of
    | (intro x; first | (refine (fun (hx : Keeps s0 x) => ?_) ?_; on_goal 2 => subst x) | skip)
    | lift_lets
    | split

theorem keeps_rowEnters {v1 v2 v3} (h1 : Keeps s0 v1) :
    Keeps s0 (rowEnters v1 v2 v3) := by
  unfold rowEnters
  repeat' first
    | with_reducible assumption
    | with_reducible apply keeps_modSieve
    | with_reducible apply h1
    | with_reducible rfl
    | with_reducible apply ChKeeps.of
    | with_reducible apply IslKeeps.of
    | (intro x; first | (refine (fun (hx : Keeps s0 x) => ?_) ?_; on_goal 2 => subst x) | skip)
    | lift_lets
    | split

theorem keeps_rowFails {v1 v2 v3} (h1 : Keeps s0 v1) :
    Keeps s0 (rowFails v1 v2 v3) := by
  unfold rowFails
  repeat' first
    | with_reducible assumption
    | with_reducible apply keeps_modSieve
    | with_reducible apply keeps_sendDrops
    | with_reducible apply keeps_reportRow
    | with_reducible apply keeps_raiseC
    | with_reducible apply h1
    | with_reducible rfl
    | with_reducible apply ChKeeps.of
    | with_reducible apply IslKeeps.of
    | (intro x; first | (refine (fun (hx : Keeps s0 x) => ?_) ?_; on_goal 2 => subst x) | skip)
    | lift_lets
    | split

theorem keeps_spareAll {v1 v2} (h1 : Keeps s0 v1) :
    Keeps s0 (spareAll v1 v2) := by
  unfold spareAll
  repeat' first
    | with_reducible assumption
    | with_reducible apply keeps_spareIn
    | with_reducible apply keeps_foldl
    | with_reducible apply h1
    | with_reducible rfl
    | with_reducible apply ChKeeps.of
    | with_reducible apply IslKeeps.of
    | (intro x; first | (refine (fun (hx : Keeps s0 x) => ?_) ?_; on_goal 2 => subst x) | skip)
    | lift_lets
    | split

end Sys2Proof.Laws
end

