-- ==== Sys2Proof/Laws/KeepsObjCmds.lean ====
section
/-! SUPPORT. `Keeps` of the definitions of Sys2Proof/Machine/ObjCmds.lean. -/

namespace Sys2Proof.Laws
open Sys2Proof Sys2Proof.Machine

variable {s0 : State}

theorem keeps_reportAnswer {v1 v2 v3} (h1 : Keeps s0 v1) :
    Keeps s0 (reportAnswer v1 v2 v3) := by
  unfold reportAnswer
  repeat' first
    | with_reducible assumption
    | with_reducible apply keeps_setWait
    | with_reducible apply keeps_rowEnters
    | with_reducible apply keeps_retire
    | with_reducible apply h1
    | with_reducible rfl
    | with_reducible apply ChKeeps.of
    | with_reducible apply IslKeeps.of
    | (intro x; first | (refine (fun (hx : Keeps s0 x) => ?_) ?_; on_goal 2 => subst x) | (refine (fun (hx : Keeps s0 x.1) => ?_) ?_; on_goal 2 => subst x) | (refine (fun (hx : Keeps s0 x.2) => ?_) ?_; on_goal 2 => subst x) | (refine (fun (hx : Keeps s0 x.2.2) => ?_) ?_; on_goal 2 => subst x) | (refine (fun (hx : Keeps s0 x.2.1) => ?_) ?_; on_goal 2 => subst x) | skip)
    | split
    | (extract_lets -underBinder +onlyGivenNames x; first | (refine (fun (hx : Keeps s0 x) => ?_) ?_; on_goal 2 => subst x) | (refine (fun (hx : Keeps s0 x.1) => ?_) ?_; on_goal 2 => subst x) | (refine (fun (hx : Keeps s0 x.2) => ?_) ?_; on_goal 2 => subst x) | (refine (fun (hx : Keeps s0 x.2.2) => ?_) ?_; on_goal 2 => subst x) | (refine (fun (hx : Keeps s0 x.2.1) => ?_) ?_; on_goal 2 => subst x) | skip)

theorem keeps_recount {v1 v2 v3 v4} (h1 : Keeps s0 v1) :
    Keeps s0 (recount v1 v2 v3 v4).2 := by
  unfold recount
  repeat' first
    | with_reducible assumption
    | with_reducible apply keeps_setRec
    | with_reducible apply keeps_freeIfUnheld
    | with_reducible apply keeps_foldl
    | with_reducible apply h1
    | with_reducible rfl
    | with_reducible apply ChKeeps.of
    | with_reducible apply IslKeeps.of
    | (intro x; first | (refine (fun (hx : Keeps s0 x) => ?_) ?_; on_goal 2 => subst x) | skip)
    | lift_lets
    | split

theorem keeps_execSeqCloseRelease {v1 v2} (h2 : Keeps s0 v2) :
    KX s0 (execSeqCloseRelease v1 v2) := by
  unfold execSeqCloseRelease
  repeat' first
    | with_reducible assumption
    | with_reducible apply keeps_closeRetire
    | with_reducible apply keeps_foldl
    | with_reducible refine KX.next ?_
    | with_reducible apply h2
    | with_reducible rfl
    | with_reducible apply ChKeeps.of
    | with_reducible apply IslKeeps.of
    | (intro x; first | (refine (fun (hx : Keeps s0 x) => ?_) ?_; on_goal 2 => subst x) | skip)
    | lift_lets
    | split

theorem keeps_sweepEnd {v1 v2 v3} (h1 : Keeps s0 v1) :
    Keeps s0 (sweepEnd v1 v2 v3) := by
  unfold sweepEnd
  repeat' first
    | with_reducible assumption
    | with_reducible apply keeps_recount
    | with_reducible apply keeps_modRefPort
    | with_reducible apply keeps_retire
    | with_reducible apply keeps_foldl
    | with_reducible apply keeps_foldl_fst
    | with_reducible apply keeps_foldl_thd
    | with_reducible refine of_snd (by assumption) ?_
    | with_reducible apply h1
    | with_reducible rfl
    | with_reducible apply ChKeeps.of
    | with_reducible apply IslKeeps.of
    | (intro x; first | (refine (fun (hx : Keeps s0 x) => ?_) ?_; on_goal 2 => subst x) | (refine (fun (hx : Keeps s0 x.1) => ?_) ?_; on_goal 2 => subst x) | (refine (fun (hx : Keeps s0 x.2) => ?_) ?_; on_goal 2 => subst x) | (refine (fun (hx : Keeps s0 x.2.2) => ?_) ?_; on_goal 2 => subst x) | (refine (fun (hx : Keeps s0 x.2.1) => ?_) ?_; on_goal 2 => subst x) | skip)
    | lift_lets
    | split

theorem keeps_portReport {v1 v2 v3} (h1 : Keeps s0 v1) :
    Keeps s0 (portReport v1 v2 v3).2 := by
  unfold portReport
  repeat' first
    | with_reducible assumption
    | with_reducible apply keeps_incBlock
    | with_reducible apply keeps_decBlock
    | with_reducible apply h1
    | with_reducible rfl
    | with_reducible apply ChKeeps.of
    | with_reducible apply IslKeeps.of
    | (intro x; first | (refine (fun (hx : Keeps s0 x) => ?_) ?_; on_goal 2 => subst x) | skip)
    | lift_lets
    | split

theorem keeps_applyReport {v1 v2 v3} (h1 : Keeps s0 v1) :
    Keeps s0 (applyReport v1 v2 v3) := by
  unfold applyReport
  repeat' first
    | with_reducible assumption
    | with_reducible apply keeps_portReport
    | with_reducible apply keeps_reportAnswer
    | with_reducible refine of_snd (by assumption) ?_
    | with_reducible apply h1
    | with_reducible rfl
    | with_reducible apply ChKeeps.of
    | with_reducible apply IslKeeps.of
    | (intro x; first | (refine (fun (hx : Keeps s0 x) => ?_) ?_; on_goal 2 => subst x) | skip)
    | lift_lets
    | split

theorem keeps_convertPage {v1 v2 v3 v4 v5 v6 v7} (h1 : Keeps s0 v1) :
    Keeps s0 (convertPage v1 v2 v3 v4 v5 v6 v7) := by
  unfold convertPage
  repeat' first
    | with_reducible assumption
    | with_reducible apply keeps_setRec
    | with_reducible apply keeps_setPte
    | with_reducible apply keeps_modSumm
    | with_reducible apply h1
    | with_reducible rfl
    | with_reducible apply ChKeeps.of
    | with_reducible apply IslKeeps.of
    | (intro x; first | (refine (fun (hx : Keeps s0 x) => ?_) ?_; on_goal 2 => subst x) | skip)
    | lift_lets
    | split

theorem keeps_createRun {v1 v2 v3 v4 v5} (h1 : Keeps s0 v1) :
    Keeps s0 (createRun v1 v2 v3 v4 v5) := by
  rw [createRun.eq_1]
  generalize pbNodes _ _ _ = ns
  generalize fld v4 953 930 = pb
  generalize fld v4 975 954 = p
  generalize fld v4 929 802 = key
  generalize fld v4 801 762 = par
  cases heq : allocRun v1 v2 ns with
  | none => exact keeps_retireSt h1
  | some t =>
    have ht := of_some heq (keeps_allocRun h1)
    refine keeps_retire ?_
    split
    · exact keeps_modSeq (keeps_foldl (fun _ _ h => keeps_convertPage h) (keeps_setPb ht))
    · exact keeps_foldl (fun _ _ h => keeps_convertPage h) (keeps_setPb ht)

theorem keeps_attachRun {v1 v2 v3 v4 v5} (h1 : Keeps s0 v1) :
    Keeps s0 (attachRun v1 v2 v3 v4 v5) := by
  unfold attachRun
  repeat' first
    | with_reducible assumption
    | with_reducible apply keeps_growMaps
    | with_reducible apply keeps_retireSt
    | with_reducible apply keeps_incBlock
    | with_reducible apply keeps_setPte
    | with_reducible apply keeps_modSeq
    | with_reducible apply keeps_foldl
    | with_reducible refine of_some (by assumption) ?_
    | with_reducible apply h1
    | with_reducible rfl
    | with_reducible apply ChKeeps.of
    | with_reducible apply IslKeeps.of
    | (intro x; first | (refine (fun (hx : Keeps s0 x) => ?_) ?_; on_goal 2 => subst x) | skip)
    | lift_lets
    | split

theorem keeps_execAttach {v1 v2 v3} (h3 : Keeps s0 v3) :
    KX s0 (execAttach v1 v2 v3) := by
  unfold execAttach
  repeat' first
    | with_reducible assumption
    | with_reducible apply keeps_runHead
    | with_reducible apply keeps_retireSt
    | with_reducible apply keeps_admitUse
    | with_reducible apply keeps_stay
    | with_reducible apply keeps_holdRing
    | with_reducible apply keeps_attachRun
    | with_reducible refine KX.next ?_
    | with_reducible apply h3
    | with_reducible rfl
    | with_reducible apply ChKeeps.of
    | with_reducible apply IslKeeps.of
    | (intro x; first | (refine (fun (hx : Keeps s0 x) => ?_) ?_; on_goal 2 => subst x) | skip)
    | lift_lets
    | split

theorem keeps_protectAll {v1 v2 v3 v4} (h1 : Keeps s0 v1) :
    Keeps s0 (protectAll v1 v2 v3 v4) := by
  unfold protectAll
  repeat' first
    | with_reducible assumption
    | with_reducible apply keeps_modSumm
    | with_reducible apply keeps_foldl
    | with_reducible apply h1
    | with_reducible rfl
    | with_reducible apply ChKeeps.of
    | with_reducible apply IslKeeps.of
    | (intro x; first | (refine (fun (hx : Keeps s0 x) => ?_) ?_; on_goal 2 => subst x) | skip)
    | lift_lets
    | split

theorem keeps_protectBlock {v1 v2 v3 v4} (h1 : Keeps s0 v1) :
    Keeps s0 (protectBlock v1 v2 v3 v4) := by
  unfold protectBlock
  repeat' first
    | with_reducible assumption
    | with_reducible apply keeps_retireSt
    | with_reducible apply keeps_retire
    | with_reducible apply keeps_protectAll
    | with_reducible apply h1
    | with_reducible rfl
    | with_reducible apply ChKeeps.of
    | with_reducible apply IslKeeps.of
    | (intro x; first | (refine (fun (hx : Keeps s0 x) => ?_) ?_; on_goal 2 => subst x) | skip)
    | lift_lets
    | split

theorem keeps_prunePrivate {v1 v2 v3} (h1 : Keeps s0 v1) :
    Keeps s0 (prunePrivate v1 v2 v3) := by
  unfold prunePrivate
  repeat' first
    | with_reducible assumption
    | with_reducible apply keeps_setPte
    | with_reducible apply keeps_releasePage
    | with_reducible apply h1
    | with_reducible rfl
    | with_reducible apply ChKeeps.of
    | with_reducible apply IslKeeps.of
    | (intro x; first | (refine (fun (hx : Keeps s0 x) => ?_) ?_; on_goal 2 => subst x) | skip)
    | lift_lets
    | split

theorem keeps_pruneOne {v1 v2 v3 v4 v5 v6} (h1 : Keeps s0 v1) :
    KS s0 (pruneOne v1 v2 v3 v4 v5 v6) := by
  unfold pruneOne
  extract_lets p
  split
  · exact KS.left
  · exact KS.left
  · split
    · exact KS.skip
    · exact KS.done (keeps_prunePrivate h1)
  · split
    · exact KS.left
    · split
      · exact KS.skip
      · split
        · exact KS.hold
        · split
          · exact KS.full
          · next i t heq =>
            obtain ⟨m, _, hm⟩ := Option.bind_eq_some_iff.1 heq
            exact KS.done (keeps_decRecs (keeps_setPte (of_someP hm (keeps_allocSumm h1))))

theorem keeps_pruneGo {v1 v2 v3 v4 v5 v6 v7 v8} (h8 : Keeps s0 v8) :
    Keeps s0 (pruneGo v1 v2 v3 v4 v5 v6 v7 v8) := by
  revert h8
  fun_induction pruneGo v1 v2 v3 v4 v5 v6 v7 v8
  all_goals try intro h8
  all_goals repeat' first
    | with_reducible assumption
    | with_reducible apply keeps_retire
    | with_reducible apply keeps_setWait
    | with_reducible apply keeps_noteFull
    | with_reducible apply keeps_pruneOne
    | with_reducible apply keeps_queueRing
    | with_reducible refine of_pruneDone (by assumption) ?_
    | with_reducible apply h8
    | apply_assumption (transparency := .reducible)
    | with_reducible rfl
    | with_reducible apply ChKeeps.of
    | with_reducible apply IslKeeps.of
    | (intro x; first | (refine (fun (hx : Keeps s0 x) => ?_) ?_; on_goal 2 => subst x) | (refine (fun (hx : Keeps s0 x.1) => ?_) ?_; on_goal 2 => subst x) | (refine (fun (hx : Keeps s0 x.2) => ?_) ?_; on_goal 2 => subst x) | (refine (fun (hx : Keeps s0 x.2.2) => ?_) ?_; on_goal 2 => subst x) | (refine (fun (hx : Keeps s0 x.2.1) => ?_) ?_; on_goal 2 => subst x) | skip)
    | (extract_lets -underBinder +onlyGivenNames x; first | (refine (fun (hx : Keeps s0 x) => ?_) ?_; on_goal 2 => subst x) | (refine (fun (hx : Keeps s0 x.1) => ?_) ?_; on_goal 2 => subst x) | (refine (fun (hx : Keeps s0 x.2) => ?_) ?_; on_goal 2 => subst x) | (refine (fun (hx : Keeps s0 x.2.2) => ?_) ?_; on_goal 2 => subst x) | (refine (fun (hx : Keeps s0 x.2.1) => ?_) ?_; on_goal 2 => subst x) | skip)
    | split

theorem keeps_execSetProtect {v1 v2 v3} (h3 : Keeps s0 v3) :
    KX s0 (execSetProtect v1 v2 v3) := by
  unfold execSetProtect
  repeat' first
    | with_reducible assumption
    | with_reducible apply keeps_runHead
    | with_reducible apply keeps_retireSt
    | with_reducible apply keeps_protectBlock
    | with_reducible apply keeps_admitUse
    | with_reducible apply keeps_retire
    | with_reducible apply keeps_protectAll
    | with_reducible refine KX.next ?_
    | with_reducible apply h3
    | with_reducible rfl
    | with_reducible apply ChKeeps.of
    | with_reducible apply IslKeeps.of
    | (intro x; first | (refine (fun (hx : Keeps s0 x) => ?_) ?_; on_goal 2 => subst x) | skip)
    | lift_lets
    | split

theorem keeps_execSieveCountRequest {v1 v2 v3} (h3 : Keeps s0 v3) :
    KX s0 (execSieveCountRequest v1 v2 v3) := by
  unfold execSieveCountRequest
  repeat' first
    | with_reducible assumption
    | with_reducible apply keeps_sweepEnd
    | with_reducible apply keeps_modRefPort
    | with_reducible apply keeps_foldl
    | with_reducible refine KX.next ?_
    | with_reducible apply h3
    | with_reducible rfl
    | with_reducible apply ChKeeps.of
    | with_reducible apply IslKeeps.of
    | (intro x; first | (refine (fun (hx : Keeps s0 x) => ?_) ?_; on_goal 2 => subst x) | skip)
    | lift_lets
    | split

theorem keeps_execSweep {v1 v2 v3} (h3 : Keeps s0 v3) :
    KX s0 (execSweep v1 v2 v3) := by
  unfold execSweep
  repeat' first
    | with_reducible assumption
    | with_reducible apply keeps_runHead
    | with_reducible apply keeps_retireSt
    | with_reducible apply keeps_setWait
    | with_reducible apply keeps_modRefPort
    | with_reducible refine KX.next ?_
    | with_reducible apply h3
    | with_reducible rfl
    | with_reducible apply ChKeeps.of
    | with_reducible apply IslKeeps.of
    | (intro x; first | (refine (fun (hx : Keeps s0 x) => ?_) ?_; on_goal 2 => subst x) | skip)
    | lift_lets
    | split

theorem keeps_execBlockCreate {v1 v2 v3} (h3 : Keeps s0 v3) :
    KX s0 (execBlockCreate v1 v2 v3) := by
  unfold execBlockCreate
  repeat' first
    | with_reducible assumption
    | with_reducible apply keeps_runHead
    | with_reducible apply keeps_retireSt
    | with_reducible apply keeps_admitUse
    | with_reducible apply keeps_stay
    | with_reducible apply keeps_retire
    | with_reducible apply keeps_createRun
    | with_reducible refine KX.next ?_
    | with_reducible apply h3
    | with_reducible rfl
    | with_reducible apply ChKeeps.of
    | with_reducible apply IslKeeps.of
    | (intro x; first | (refine (fun (hx : Keeps s0 x) => ?_) ?_; on_goal 2 => subst x) | skip)
    | lift_lets
    | split

theorem keeps_openRun {v1 v2 v3 v4} (h1 : Keeps s0 v1) :
    Keeps s0 (openRun v1 v2 v3 v4) := by
  rw [openRun.eq_1]
  generalize dirNodes _ _ _ = ns
  generalize handleOf _ = hd
  generalize openEntry _ _ = en
  cases heq : allocRun v1 v2 ns with
  | none => exact keeps_retireSt h1
  | some t => exact keeps_retire (keeps_jSlot (keeps_setSeq (of_some heq (keeps_allocRun h1))))

theorem keeps_execSeqOpen {v1 v2 v3} (h3 : Keeps s0 v3) :
    KX s0 (execSeqOpen v1 v2 v3) := by
  unfold execSeqOpen
  repeat' first
    | with_reducible assumption
    | with_reducible apply keeps_runHead
    | with_reducible apply keeps_retireSt
    | with_reducible apply keeps_openRun
    | with_reducible refine KX.next ?_
    | with_reducible apply h3
    | with_reducible rfl
    | with_reducible apply ChKeeps.of
    | with_reducible apply IslKeeps.of
    | (intro x; first | (refine (fun (hx : Keeps s0 x) => ?_) ?_; on_goal 2 => subst x) | skip)
    | lift_lets
    | split

theorem keeps_execSieveReport {v1 v2} (h2 : Keeps s0 v2) :
    KX s0 (execSieveReport v1 v2) := by
  unfold execSieveReport
  repeat' first
    | with_reducible assumption
    | with_reducible apply keeps_modRefPort
    | with_reducible apply keeps_reportAnswer
    | with_reducible apply keeps_noteFull
    | with_reducible apply keeps_applyReport
    | with_reducible refine KX.next ?_
    | with_reducible apply h2
    | with_reducible rfl
    | with_reducible apply ChKeeps.of
    | with_reducible apply IslKeeps.of
    | (intro x; first | (refine (fun (hx : Keeps s0 x) => ?_) ?_; on_goal 2 => subst x) | skip)
    | lift_lets
    | split

theorem keeps_execTilthScan {v1 v2 v3} (h3 : Keeps s0 v3) :
    KX s0 (execTilthScan v1 v2 v3) := by
  unfold execTilthScan
  repeat' first
    | with_reducible assumption
    | with_reducible apply keeps_runHead
    | with_reducible apply keeps_retireSt
    | with_reducible apply keeps_t0Write
    | with_reducible apply keeps_retire
    | with_reducible refine KX.next ?_
    | with_reducible apply h3
    | with_reducible rfl
    | with_reducible apply ChKeeps.of
    | with_reducible apply IslKeeps.of
    | (intro x; first | (refine (fun (hx : Keeps s0 x) => ?_) ?_; on_goal 2 => subst x) | skip)
    | lift_lets
    | split

theorem keeps_execSeqClose {v1 v2 v3} (h3 : Keeps s0 v3) :
    KX s0 (execSeqClose v1 v2 v3) := by
  unfold execSeqClose
  repeat' first
    | with_reducible assumption
    | with_reducible apply keeps_underOwn
    | with_reducible apply keeps_closeGo
    | with_reducible apply keeps_runHead
    | with_reducible apply keeps_retireSt
    | with_reducible apply keeps_jSlot
    | with_reducible apply keeps_modSeq
    | with_reducible apply keeps_closeRetire
    | with_reducible apply keeps_setWait
    | with_reducible refine KX.next ?_
    | with_reducible apply h3
    | with_reducible rfl
    | with_reducible apply ChKeeps.of
    | with_reducible apply IslKeeps.of
    | (intro x; first | (refine (fun (hx : Keeps s0 x) => ?_) ?_; on_goal 2 => subst x) | skip)
    | lift_lets
    | split

theorem keeps_execHeldReferenceChange {v1 v2} (h2 : Keeps s0 v2) :
    KX s0 (execHeldReferenceChange v1 v2) := by
  unfold execHeldReferenceChange
  repeat' first
    | with_reducible assumption
    | with_reducible apply keeps_noteFull
    | with_reducible apply keeps_modRefPort
    | with_reducible apply keeps_applyReport
    | with_reducible apply keeps_reportAnswer
    | with_reducible apply keeps_setWait
    | with_reducible apply keeps_applyPoison
    | with_reducible refine KX.next ?_
    | with_reducible apply h2
    | with_reducible rfl
    | with_reducible apply ChKeeps.of
    | with_reducible apply IslKeeps.of
    | (intro x; first | (refine (fun (hx : Keeps s0 x) => ?_) ?_; on_goal 2 => subst x) | skip)
    | lift_lets
    | split

theorem keeps_execPoisonScan {v1 v2} (h2 : Keeps s0 v2) :
    KX s0 (execPoisonScan v1 v2) := by
  unfold execPoisonScan
  repeat' first
    | with_reducible assumption
    | with_reducible apply keeps_modRefPort
    | with_reducible apply keeps_raiseC
    | with_reducible apply keeps_foldl
    | with_reducible refine KX.next ?_
    | with_reducible apply h2
    | with_reducible rfl
    | with_reducible apply ChKeeps.of
    | with_reducible apply IslKeeps.of
    | (intro x; first | (refine (fun (hx : Keeps s0 x) => ?_) ?_; on_goal 2 => subst x) | (refine (fun (hx : Keeps s0 x.1) => ?_) ?_; on_goal 2 => subst x) | (refine (fun (hx : Keeps s0 x.2) => ?_) ?_; on_goal 2 => subst x) | (refine (fun (hx : Keeps s0 x.2.2) => ?_) ?_; on_goal 2 => subst x) | (refine (fun (hx : Keeps s0 x.2.1) => ?_) ?_; on_goal 2 => subst x) | skip)
    | (extract_lets -underBinder +onlyGivenNames x; first | (refine (fun (hx : Keeps s0 x) => ?_) ?_; on_goal 2 => subst x) | (refine (fun (hx : Keeps s0 x.1) => ?_) ?_; on_goal 2 => subst x) | (refine (fun (hx : Keeps s0 x.2) => ?_) ?_; on_goal 2 => subst x) | (refine (fun (hx : Keeps s0 x.2.2) => ?_) ?_; on_goal 2 => subst x) | (refine (fun (hx : Keeps s0 x.2.1) => ?_) ?_; on_goal 2 => subst x) | skip)
    | split

theorem keeps_execPrune {v1 v2 v3} (h3 : Keeps s0 v3) :
    KX s0 (execPrune v1 v2 v3) := by
  unfold execPrune
  repeat' first
    | with_reducible assumption
    | with_reducible apply keeps_underOwn
    | with_reducible apply keeps_pruneGo
    | with_reducible apply keeps_runHead
    | with_reducible apply keeps_retireSt
    | with_reducible apply keeps_admitUse
    | with_reducible refine KX.next ?_
    | with_reducible apply h3
    | with_reducible rfl
    | with_reducible apply ChKeeps.of
    | with_reducible apply IslKeeps.of
    | (intro x; first | (refine (fun (hx : Keeps s0 x) => ?_) ?_; on_goal 2 => subst x) | skip)
    | lift_lets
    | split

end Sys2Proof.Laws
end

