-- ==== Sys2Proof/Laws/KeepsTierOps.lean ====
section
/-! SUPPORT. `Keeps` of the definitions of Sys2Proof/Machine/TierOps.lean. -/

namespace Sys2Proof.Laws
open Sys2Proof Sys2Proof.Machine

variable {s0 : State}

theorem keeps_gateEnd {v1 v2 v3 v4} (h1 : Keeps s0 v1) :
    Keeps s0 (gateEnd v1 v2 v3 v4) := by
  unfold gateEnd
  repeat' first
    | with_reducible assumption
    | with_reducible apply keeps_setPage
    | with_reducible apply keeps_gateAdd
    | with_reducible apply h1
    | with_reducible rfl
    | with_reducible apply ChKeeps.of
    | with_reducible apply IslKeeps.of
    | (intro x; first | (refine (fun (hx : Keeps s0 x) => ?_) ?_; on_goal 2 => subst x) | skip)
    | lift_lets
    | split

theorem keeps_noteMoved {v1 v2 v3 v4} (h1 : Keeps s0 v1) :
    Keeps s0 (noteMoved v1 v2 v3 v4) := by
  unfold noteMoved
  repeat' first
    | with_reducible assumption
    | with_reducible apply keeps_setWait
    | with_reducible apply keeps_foldl
    | with_reducible apply h1
    | with_reducible rfl
    | with_reducible apply ChKeeps.of
    | with_reducible apply IslKeeps.of
    | (intro x; first | (refine (fun (hx : Keeps s0 x) => ?_) ?_; on_goal 2 => subst x) | skip)
    | lift_lets
    | split

theorem keeps_endLater {v1 v2 v3 v4} (h1 : Keeps s0 v1) :
    Keeps s0 (endLater v1 v2 v3 v4).1 := by
  unfold endLater
  repeat' first
    | with_reducible assumption
    | with_reducible apply keeps_noteMoved
    | with_reducible apply keeps_gateEnd
    | with_reducible apply keeps_foldl
    | with_reducible apply h1
    | with_reducible rfl
    | with_reducible apply ChKeeps.of
    | with_reducible apply IslKeeps.of
    | (intro x; first | (refine (fun (hx : Keeps s0 x) => ?_) ?_; on_goal 2 => subst x) | skip)
    | lift_lets
    | split

theorem keeps_evictEvent {v1 v2 v3 v4 v5} (h1 : Keeps s0 v1) :
    Keeps s0 (evictEvent v1 v2 v3 v4 v5) := by
  unfold evictEvent
  repeat' first
    | with_reducible assumption
    | with_reducible apply keeps_raiseC
    | with_reducible apply h1
    | with_reducible rfl
    | with_reducible apply ChKeeps.of
    | with_reducible apply IslKeeps.of
    | (intro x; first | (refine (fun (hx : Keeps s0 x) => ?_) ?_; on_goal 2 => subst x) | skip)
    | lift_lets
    | split

theorem keeps_moveRetire {v1 v2 v3 v4} (h1 : Keeps s0 v1) :
    Keeps s0 (moveRetire v1 v2 v3 v4) := by
  unfold moveRetire
  repeat' first
    | with_reducible assumption
    | with_reducible apply keeps_evictEvent
    | with_reducible apply keeps_setWait
    | with_reducible apply keeps_retire
    | with_reducible apply h1
    | with_reducible rfl
    | with_reducible apply ChKeeps.of
    | with_reducible apply IslKeeps.of
    | (intro x; first | (refine (fun (hx : Keeps s0 x) => ?_) ?_; on_goal 2 => subst x) | skip)
    | lift_lets
    | split

theorem keeps_makeRoom {v1 v2 v3 v4 v5} (h4 : Keeps s0 v4) :
    Keeps s0 (makeRoom v1 v2 v3 v4 v5).2.1 := by
  revert h4
  fun_induction makeRoom v1 v2 v3 v4 v5
  all_goals try intro h4
  all_goals repeat' first
    | with_reducible assumption
    | with_reducible apply keeps_noteFull
    | with_reducible apply keeps_modMarl
    | with_reducible apply keeps_prunePrivate
    | with_reducible apply h4
    | apply_assumption (transparency := .reducible)
    | with_reducible rfl
    | with_reducible apply ChKeeps.of
    | with_reducible apply IslKeeps.of
    | (intro x; first | (refine (fun (hx : Keeps s0 x) => ?_) ?_; on_goal 2 => subst x) | skip)
    | lift_lets
    | split

theorem keeps_roomFor {v1 v2 v3 v4 v5} (h1 : Keeps s0 v1) :
    Keeps s0 (roomFor v1 v2 v3 v4 v5).2.1 := by
  unfold roomFor
  repeat' first
    | with_reducible assumption
    | with_reducible apply keeps_makeRoom
    | with_reducible refine of_mid (by assumption) ?_
    | with_reducible apply h1
    | with_reducible rfl
    | with_reducible apply ChKeeps.of
    | with_reducible apply IslKeeps.of
    | (intro x; first | (refine (fun (hx : Keeps s0 x) => ?_) ?_; on_goal 2 => subst x) | skip)
    | lift_lets
    | split

theorem keeps_freezeEnd {v1 v2 v3} (h1 : Keeps s0 v1) :
    Keeps s0 (freezeEnd v1 v2 v3) := by
  unfold freezeEnd
  repeat' first
    | with_reducible assumption
    | with_reducible apply keeps_modMarl
    | with_reducible apply keeps_freeSumm
    | with_reducible apply keeps_dropHome
    | with_reducible apply keeps_foldl
    | with_reducible apply h1
    | with_reducible rfl
    | with_reducible apply ChKeeps.of
    | with_reducible apply IslKeeps.of
    | (intro x; first | (refine (fun (hx : Keeps s0 x) => ?_) ?_; on_goal 2 => subst x) | skip)
    | lift_lets
    | split

theorem keeps_freezeGo {v1 v2 v3 v4 v5 v6} (h1 : Keeps s0 v1) :
    Keeps s0 (freezeGo v1 v2 v3 v4 v5 v6) := by
  unfold freezeGo
  repeat' first
    | with_reducible assumption
    | with_reducible apply keeps_acceptMeta
    | with_reducible apply keeps_moveRetire
    | with_reducible apply keeps_freezeEnd
    | with_reducible apply keeps_setWait
    | with_reducible refine of_snd (by assumption) ?_
    | with_reducible apply h1
    | with_reducible rfl
    | with_reducible apply ChKeeps.of
    | with_reducible apply IslKeeps.of
    | (intro x; first | (refine (fun (hx : Keeps s0 x) => ?_) ?_; on_goal 2 => subst x) | skip)
    | lift_lets
    | split

theorem keeps_freezeBegin {v1 v2 v3 v4} (h1 : Keeps s0 v1) :
    Keeps s0 (freezeBegin v1 v2 v3 v4) := by
  unfold freezeBegin
  repeat' first
    | with_reducible assumption
    | with_reducible apply keeps_moveRetire
    | with_reducible apply keeps_roomFor
    | with_reducible apply keeps_setWait
    | with_reducible apply keeps_modMarl
    | with_reducible apply keeps_freezeGo
    | with_reducible refine of_mid (by assumption) ?_
    | with_reducible apply h1
    | with_reducible rfl
    | with_reducible apply ChKeeps.of
    | with_reducible apply IslKeeps.of
    | (intro x; first | (refine (fun (hx : Keeps s0 x) => ?_) ?_; on_goal 2 => subst x) | (refine (fun (hx : Keeps s0 x.1) => ?_) ?_; on_goal 2 => subst x) | (refine (fun (hx : Keeps s0 x.2) => ?_) ?_; on_goal 2 => subst x) | (refine (fun (hx : Keeps s0 x.2.2) => ?_) ?_; on_goal 2 => subst x) | (refine (fun (hx : Keeps s0 x.2.1) => ?_) ?_; on_goal 2 => subst x) | skip)
    | split
    | (extract_lets -underBinder +onlyGivenNames x; first | (refine (fun (hx : Keeps s0 x) => ?_) ?_; on_goal 2 => subst x) | (refine (fun (hx : Keeps s0 x.1) => ?_) ?_; on_goal 2 => subst x) | (refine (fun (hx : Keeps s0 x.2) => ?_) ?_; on_goal 2 => subst x) | (refine (fun (hx : Keeps s0 x.2.2) => ?_) ?_; on_goal 2 => subst x) | (refine (fun (hx : Keeps s0 x.2.1) => ?_) ?_; on_goal 2 => subst x) | skip)

theorem keeps_movesFinish {v1 v2 v3 v4} (h1 : Keeps s0 v1) :
    Keeps s0 (movesFinish v1 v2 v3 v4) := by
  unfold movesFinish
  repeat' first
    | with_reducible assumption
    | with_reducible apply keeps_freezeBegin
    | with_reducible apply keeps_moveRetire
    | with_reducible apply h1
    | with_reducible rfl
    | with_reducible apply ChKeeps.of
    | with_reducible apply IslKeeps.of
    | (intro x; first | (refine (fun (hx : Keeps s0 x) => ?_) ?_; on_goal 2 => subst x) | skip)
    | lift_lets
    | split

theorem keeps_moveEnds {v1 v2 v3 v4 v5 v6 v7} (h1 : Keeps s0 v1) :
    Keeps s0 (moveEnds v1 v2 v3 v4 v5 v6 v7) := by
  unfold moveEnds
  repeat' first
    | with_reducible assumption
    | with_reducible apply keeps_noteMoved
    | with_reducible apply keeps_gateEnd
    | with_reducible apply keeps_endLater
    | with_reducible apply keeps_movesFinish
    | with_reducible apply keeps_setWait
    | with_reducible apply keeps_getD
    | with_reducible refine of_fst (by assumption) ?_
    | with_reducible apply h1
    | with_reducible rfl
    | with_reducible apply ChKeeps.of
    | with_reducible apply IslKeeps.of
    | (intro x; first | (refine (fun (hx : Keeps s0 x) => ?_) ?_; on_goal 2 => subst x) | (refine (fun (hx : Keeps s0 x.1) => ?_) ?_; on_goal 2 => subst x) | (refine (fun (hx : Keeps s0 x.2) => ?_) ?_; on_goal 2 => subst x) | (refine (fun (hx : Keeps s0 x.2.2) => ?_) ?_; on_goal 2 => subst x) | (refine (fun (hx : Keeps s0 x.2.1) => ?_) ?_; on_goal 2 => subst x) | skip)
    | split
    | (extract_lets -underBinder +onlyGivenNames x; first | (refine (fun (hx : Keeps s0 x) => ?_) ?_; on_goal 2 => subst x) | (refine (fun (hx : Keeps s0 x.1) => ?_) ?_; on_goal 2 => subst x) | (refine (fun (hx : Keeps s0 x.2) => ?_) ?_; on_goal 2 => subst x) | (refine (fun (hx : Keeps s0 x.2.2) => ?_) ?_; on_goal 2 => subst x) | (refine (fun (hx : Keeps s0 x.2.1) => ?_) ?_; on_goal 2 => subst x) | skip)

theorem keeps_handUnit {v1 v2 v3 v4 v5 v6 v7 v8 v9} (h1 : Keeps s0 v1) :
    KO s0 (handUnit v1 v2 v3 v4 v5 v6 v7 v8 v9) := by
  unfold handUnit
  repeat' first
    | with_reducible assumption
    | with_reducible apply keeps_acceptUnit
    | with_reducible exact KO.none
    | with_reducible refine KO.some ?_
    | with_reducible refine of_some (by assumption) ?_
    | with_reducible apply h1
    | with_reducible rfl
    | with_reducible apply ChKeeps.of
    | with_reducible apply IslKeeps.of
    | (intro x; first | (refine (fun (hx : Keeps s0 x) => ?_) ?_; on_goal 2 => subst x) | skip)
    | lift_lets
    | split

theorem keeps_writeHome {v1 v2 v3 v4 v5 v6 v7 v8} (h1 : Keeps s0 v1) :
    KO s0 (writeHome v1 v2 v3 v4 v5 v6 v7 v8) := by
  unfold writeHome
  exact keeps_foldlO (fun t a ht => keeps_acceptUnit ht) h1

theorem keeps_moveHome {v1 v2 v3 v4 v5 v6 v7 v8} (h1 : Keeps s0 v1) (h2 : Keeps s0 v2) :
    Keeps s0 (moveHome v1 v2 v3 v4 v5 v6 v7 v8) := by
  unfold moveHome
  repeat' first
    | with_reducible assumption
    | with_reducible apply keeps_moveEnds
    | with_reducible apply keeps_setHome
    | with_reducible apply keeps_writeHome
    | with_reducible apply keeps_setPage
    | with_reducible apply keeps_releaseLoc
    | with_reducible refine of_some (by assumption) ?_
    | with_reducible apply h1
    | with_reducible apply h2
    | with_reducible rfl
    | with_reducible apply ChKeeps.of
    | with_reducible apply IslKeeps.of
    | (intro x; first | (refine (fun (hx : Keeps s0 x) => ?_) ?_; on_goal 2 => subst x) | skip)
    | lift_lets
    | split

theorem keeps_moveDone {v1 v2 v3 v4} (h1 : Keeps s0 v1) :
    Keeps s0 (moveDone v1 v2 v3 v4) := by
  unfold moveDone
  repeat' first
    | with_reducible assumption
    | with_reducible apply keeps_setPage
    | with_reducible apply keeps_setHome
    | with_reducible apply keeps_releasePage
    | with_reducible apply h1
    | with_reducible rfl
    | with_reducible apply ChKeeps.of
    | with_reducible apply IslKeeps.of
    | (intro x; first | (refine (fun (hx : Keeps s0 x) => ?_) ?_; on_goal 2 => subst x) | skip)
    | lift_lets
    | split

theorem keeps_programFrame {v1 v2 v3 v4 v5 v6 v7 v8} (h1 : Keeps s0 v1) :
    KP s0 (programFrame v1 v2 v3 v4 v5 v6 v7 v8) := by
  unfold programFrame
  repeat' first
    | with_reducible assumption
    | with_reducible apply keeps_roomFor
    | with_reducible apply keeps_acceptFrame
    | with_reducible refine KP.wait ?_
    | with_reducible refine KP.refuse ?_
    | with_reducible refine KP.ok ?_
    | with_reducible refine of_mid (by assumption) ?_
    | with_reducible refine of_some (by assumption) ?_
    | with_reducible apply h1
    | with_reducible rfl
    | with_reducible apply ChKeeps.of
    | with_reducible apply IslKeeps.of
    | (intro x; first | (refine (fun (hx : Keeps s0 x) => ?_) ?_; on_goal 2 => subst x) | skip)
    | lift_lets
    | split

theorem keeps_noteEvicted {v1 v2 v3 v4} (h1 : Keeps s0 v1) :
    Keeps s0 (noteEvicted v1 v2 v3 v4) := by
  unfold noteEvicted
  repeat' first
    | with_reducible assumption
    | with_reducible apply keeps_setWait
    | with_reducible apply h1
    | with_reducible rfl
    | with_reducible apply ChKeeps.of
    | with_reducible apply IslKeeps.of
    | (intro x; first | (refine (fun (hx : Keeps s0 x) => ?_) ?_; on_goal 2 => subst x) | skip)
    | lift_lets
    | split

theorem keeps_moveStore {v1 v2 v3 v4 v5 v6 v7} (h1 : Keeps s0 v1) :
    Keeps s0 (moveStore v1 v2 v3 v4 v5 v6 v7).2 := by
  unfold moveStore
  repeat' first
    | with_reducible assumption
    | with_reducible apply keeps_moveEnds
    | with_reducible apply keeps_moveDone
    | with_reducible apply keeps_t1Write
    | with_reducible apply keeps_programFrame
    | with_reducible apply keeps_noteEvicted
    | with_reducible refine of_progWait (by assumption) ?_
    | with_reducible refine of_progRefuse (by assumption) ?_
    | with_reducible refine of_progOk (by assumption) ?_
    | with_reducible apply h1
    | with_reducible rfl
    | with_reducible apply ChKeeps.of
    | with_reducible apply IslKeeps.of
    | (intro x; first | (refine (fun (hx : Keeps s0 x) => ?_) ?_; on_goal 2 => subst x) | skip)
    | lift_lets
    | split

theorem keeps_moveRun {v1 v2 v3 v4 v5 v6 v7} (h1 : Keeps s0 v1) :
    Keeps s0 (moveRun v1 v2 v3 v4 v5 v6 v7) := by
  unfold moveRun
  repeat' first
    | with_reducible assumption
    | with_reducible apply keeps_takeEnv
    | with_reducible apply keeps_moveEnds
    | with_reducible apply keeps_useKey
    | with_reducible apply keeps_recoverPieces
    | with_reducible apply keeps_losePage
    | with_reducible apply keeps_moveHome
    | with_reducible apply keeps_readPage
    | with_reducible apply keeps_loseRead
    | with_reducible apply keeps_moveStore
    | with_reducible refine of_some (by assumption) ?_
    | with_reducible refine of_snd (by assumption) ?_
    | with_reducible apply h1
    | with_reducible rfl
    | with_reducible apply ChKeeps.of
    | with_reducible apply IslKeeps.of
    | (intro x; first | (refine (fun (hx : Keeps s0 x) => ?_) ?_; on_goal 2 => subst x) | skip)
    | lift_lets
    | split

theorem keeps_moveSent {v1 v2 v3 v4} (h1 : Keeps s0 v1) :
    Keeps s0 (moveSent v1 v2 v3 v4) := by
  unfold moveSent
  repeat' first
    | with_reducible assumption
    | with_reducible apply keeps_setWait
    | with_reducible apply h1
    | with_reducible rfl
    | with_reducible apply ChKeeps.of
    | with_reducible apply IslKeeps.of
    | (intro x; first | (refine (fun (hx : Keeps s0 x) => ?_) ?_; on_goal 2 => subst x) | skip)
    | lift_lets
    | split

theorem keeps_moveSend {v1 v2 v3 v4 v5 v6 v7 v8 v9} (h1 : Keeps s0 v1) :
    Keeps s0 (moveSend v1 v2 v3 v4 v5 v6 v7 v8 v9) := by
  unfold moveSend
  repeat' first
    | with_reducible assumption
    | with_reducible apply keeps_moveEnds
    | with_reducible apply keeps_moveSent
    | with_reducible apply keeps_emit
    | with_reducible apply keeps_startOp
    | with_reducible apply h1
    | with_reducible rfl
    | with_reducible apply ChKeeps.of
    | with_reducible apply IslKeeps.of
    | (intro x; first | (refine (fun (hx : Keeps s0 x) => ?_) ?_; on_goal 2 => subst x) | skip)
    | lift_lets
    | split

theorem keeps_moveStart3 {v1 v2 v3 v4 v5 v6} (h1 : Keeps s0 v1) :
    Keeps s0 (moveStart3 v1 v2 v3 v4 v5 v6) := by
  unfold moveStart3
  repeat' first
    | with_reducible assumption
    | with_reducible apply keeps_moveEnds
    | with_reducible apply keeps_useKey
    | with_reducible apply keeps_readPage
    | with_reducible apply keeps_loseRead
    | with_reducible apply keeps_moveSend
    | with_reducible refine of_snd (by assumption) ?_
    | with_reducible apply h1
    | with_reducible rfl
    | with_reducible apply ChKeeps.of
    | with_reducible apply IslKeeps.of
    | (intro x; first | (refine (fun (hx : Keeps s0 x) => ?_) ?_; on_goal 2 => subst x) | skip)
    | lift_lets
    | split

theorem keeps_setWindow {v1 v2 v3 v4} (h1 : Keeps s0 v1) :
    Keeps s0 (setWindow v1 v2 v3 v4) := by
  unfold setWindow
  repeat' first
    | with_reducible assumption
    | with_reducible apply keeps_modLink
    | with_reducible apply h1
    | with_reducible rfl
    | with_reducible apply ChKeeps.of
    | with_reducible apply IslKeeps.of
    | (intro x; first | (refine (fun (hx : Keeps s0 x) => ?_) ?_; on_goal 2 => subst x) | skip)
    | lift_lets
    | split

theorem keeps_windowsStep {v1 v2} (h1 : Keeps s0 v1) :
    Keeps s0 (windowsStep v1 v2) := by
  unfold windowsStep
  repeat' first
    | with_reducible assumption
    | with_reducible apply keeps_modLink
    | with_reducible apply keeps_setWindow
    | with_reducible apply keeps_mbResult
    | with_reducible apply keeps_foldl
    | with_reducible apply h1
    | with_reducible rfl
    | with_reducible apply ChKeeps.of
    | with_reducible apply IslKeeps.of
    | (intro x; first | (refine (fun (hx : Keeps s0 x) => ?_) ?_; on_goal 2 => subst x) | skip)
    | lift_lets
    | split

theorem keeps_move3Done {v1 v2 v3 v4 v5 v6} (h1 : Keeps s0 v1) :
    Keeps s0 (move3Done v1 v2 v3 v4 v5 v6).2 := by
  unfold move3Done
  repeat' first
    | with_reducible assumption
    | with_reducible apply keeps_underOwnP
    | with_reducible apply keeps_moveEnds
    | with_reducible apply keeps_noteFull
    | with_reducible apply keeps_moveDone
    | with_reducible apply keeps_useKey
    | with_reducible apply keeps_moveStore
    | with_reducible refine of_snd (by assumption) ?_
    | with_reducible apply h1
    | with_reducible rfl
    | with_reducible apply ChKeeps.of
    | with_reducible apply IslKeeps.of
    | (intro x; first | (refine (fun (hx : Keeps s0 x) => ?_) ?_; on_goal 2 => subst x) | skip)
    | lift_lets
    | split

theorem keeps_tryMove3 {v1 v2 v3 v4 v5} (h1 : Keeps s0 v1) :
    Keeps s0 (tryMove3 v1 v2 v3 v4 v5).1 := by
  unfold tryMove3
  repeat' first
    | with_reducible assumption
    | with_reducible apply keeps_underOwn
    | with_reducible apply keeps_moveStart3
    | with_reducible apply h1
    | with_reducible rfl
    | with_reducible apply ChKeeps.of
    | with_reducible apply IslKeeps.of
    | (intro x; first | (refine (fun (hx : Keeps s0 x) => ?_) ?_; on_goal 2 => subst x) | skip)
    | lift_lets
    | split

theorem keeps_startMoves3 {v1 v2 v3 v4 v5 v6 v7} (h6 : Keeps s0 v6) :
    Keeps s0 (startMoves3 v1 v2 v3 v4 v5 v6 v7) := by
  revert h6
  fun_induction startMoves3 v1 v2 v3 v4 v5 v6 v7
  all_goals try intro h6
  all_goals repeat' first
    | with_reducible assumption
    | with_reducible apply keeps_tryMove3
    | with_reducible refine of_fst3 (by assumption) ?_
    | with_reducible apply h6
    | apply_assumption (transparency := .reducible)
    | with_reducible rfl
    | with_reducible apply ChKeeps.of
    | with_reducible apply IslKeeps.of
    | (intro x; first | (refine (fun (hx : Keeps s0 x) => ?_) ?_; on_goal 2 => subst x) | skip)
    | lift_lets
    | split

theorem keeps_startAll3 {v1 v2} (h1 : Keeps s0 v1) :
    Keeps s0 (startAll3 v1 v2) := by
  unfold startAll3
  repeat' first
    | with_reducible assumption
    | with_reducible apply keeps_startMoves3
    | with_reducible apply h1
    | with_reducible rfl
    | with_reducible apply ChKeeps.of
    | with_reducible apply IslKeeps.of
    | (intro x; first | (refine (fun (hx : Keeps s0 x) => ?_) ?_; on_goal 2 => subst x) | skip)
    | lift_lets
    | split

end Sys2Proof.Laws
end

