-- ==== Sys2Proof/Laws/KeepsAttnOps.lean ====
section
/-! SUPPORT. `Keeps` of the definitions of Sys2Proof/Machine/AttnOps.lean. -/

namespace Sys2Proof.Laws
open Sys2Proof Sys2Proof.Machine

variable {s0 : State}

theorem keeps_putRow {v1 v2 v3 v4 v5 v6 v7 v8 v9 v10} (h1 : Keeps s0 v1) :
    Keeps s0 (putRow v1 v2 v3 v4 v5 v6 v7 v8 v9 v10).1 := by
  unfold putRow
  repeat' first
    | with_reducible assumption
    | with_reducible apply keeps_t0Write
    | with_reducible apply h1
    | with_reducible rfl
    | with_reducible apply ChKeeps.of
    | with_reducible apply IslKeeps.of
    | (intro x; first | (refine (fun (hx : Keeps s0 x) => ?_) ?_; on_goal 2 => subst x) | skip)
    | lift_lets
    | split

theorem keeps_engineFault {v1 v2 v3} (h1 : Keeps s0 v1) :
    Keeps s0 (engineFault v1 v2 v3) := by
  unfold engineFault
  repeat' first
    | with_reducible assumption
    | with_reducible apply keeps_modHealth
    | with_reducible apply keeps_raiseC
    | with_reducible apply keeps_modCh
    | with_reducible apply h1
    | with_reducible rfl
    | with_reducible apply ChKeeps.of
    | with_reducible apply IslKeeps.of
    | (intro x; first | (refine (fun (hx : Keeps s0 x) => ?_) ?_; on_goal 2 => subst x) | skip)
    | lift_lets
    | split

theorem keeps_padTile {v1 v2 v3 v4 v5 v6} (h1 : Keeps s0 v1) :
    Keeps s0 (padTile v1 v2 v3 v4 v5 v6) := by
  unfold padTile
  repeat' first
    | with_reducible assumption
    | with_reducible apply keeps_t0Write
    | with_reducible apply h1
    | with_reducible rfl
    | with_reducible apply ChKeeps.of
    | with_reducible apply IslKeeps.of
    | (intro x; first | (refine (fun (hx : Keeps s0 x) => ?_) ?_; on_goal 2 => subst x) | skip)
    | lift_lets
    | split

end Sys2Proof.Laws
end

