-- ==== Sys2Proof/Laws/KeepsAttnCmds.lean ====
section
/-! SUPPORT. `Keeps` of the definitions of Sys2Proof/Machine/AttnCmds.lean. -/

namespace Sys2Proof.Laws
open Sys2Proof Sys2Proof.Machine

variable {s0 : State}

theorem keeps_stagePage {v1 v2 v3 v4 v5} (h1 : Keeps s0 v1) :
    Keeps s0 (stagePage v1 v2 v3 v4 v5).1 := by
  unfold stagePage
  repeat' first
    | with_reducible assumption
    | with_reducible apply keeps_t0Write
    | with_reducible apply h1
    | with_reducible rfl
    | with_reducible apply ChKeeps.of
    | with_reducible apply IslKeeps.of
    | (intro x; first | (refine (fun (hx : Keeps s0 x) => ?_) ?_; on_goal 2 => subst x) | skip)
    | lift_lets
    | split

theorem keeps_logRecord {v1 v2 v3 v4 v5} (h1 : Keeps s0 v1) :
    Keeps s0 (logRecord v1 v2 v3 v4 v5) := by
  unfold logRecord
  repeat' first
    | with_reducible assumption
    | with_reducible apply keeps_t0Write
    | with_reducible apply h1
    | with_reducible rfl
    | with_reducible apply ChKeeps.of
    | with_reducible apply IslKeeps.of
    | (intro x; first | (refine (fun (hx : Keeps s0 x) => ?_) ?_; on_goal 2 => subst x) | skip)
    | lift_lets
    | split

theorem keeps_visitPage {v1 v2 v3 v4 v5} (h1 : Keeps s0 v1) :
    Keeps s0 (visitPage v1 v2 v3 v4 v5).1 := by
  unfold visitPage
  repeat' first
    | with_reducible assumption
    | with_reducible apply keeps_useKey
    | with_reducible apply keeps_readPage
    | with_reducible apply keeps_loseRead
    | with_reducible apply keeps_stagePage
    | with_reducible apply keeps_logRecord
    | with_reducible refine of_snd (by assumption) ?_
    | with_reducible refine of_fst (by assumption) ?_
    | with_reducible apply h1
    | with_reducible rfl
    | with_reducible apply ChKeeps.of
    | with_reducible apply IslKeeps.of
    | (intro x; first | (refine (fun (hx : Keeps s0 x) => ?_) ?_; on_goal 2 => subst x) | skip)
    | lift_lets
    | split

theorem keeps_visitPages {v1 v2 v3 v4 v5} (h2 : Keeps s0 v2) :
    Keeps s0 (visitPages v1 v2 v3 v4 v5).1 := by
  revert h2
  fun_induction visitPages v1 v2 v3 v4 v5
  all_goals try intro h2
  all_goals repeat' first
    | with_reducible assumption
    | with_reducible apply keeps_visitPage
    | with_reducible refine of_fst3 (by assumption) ?_
    | with_reducible apply h2
    | apply_assumption (transparency := .reducible)
    | with_reducible rfl
    | with_reducible apply ChKeeps.of
    | with_reducible apply IslKeeps.of
    | (intro x; first | (refine (fun (hx : Keeps s0 x) => ?_) ?_; on_goal 2 => subst x) | skip)
    | lift_lets
    | split

theorem keeps_tileEnd {v1 v2 v3} (h1 : Keeps s0 v1) :
    Keeps s0 (tileEnd v1 v2 v3).1 := by
  unfold tileEnd
  repeat' first
    | with_reducible assumption
    | with_reducible apply keeps_putRow
    | with_reducible apply keeps_padTile
    | with_reducible apply keeps_foldl
    | with_reducible apply keeps_foldl_fst
    | with_reducible apply keeps_foldl_thd
    | with_reducible refine of_fst (by assumption) ?_
    | with_reducible apply h1
    | with_reducible rfl
    | with_reducible apply ChKeeps.of
    | with_reducible apply IslKeeps.of
    | (intro x; first | (refine (fun (hx : Keeps s0 x) => ?_) ?_; on_goal 2 => subst x) | (refine (fun (hx : Keeps s0 x.1) => ?_) ?_; on_goal 2 => subst x) | (refine (fun (hx : Keeps s0 x.2) => ?_) ?_; on_goal 2 => subst x) | (refine (fun (hx : Keeps s0 x.2.2) => ?_) ?_; on_goal 2 => subst x) | (refine (fun (hx : Keeps s0 x.2.1) => ?_) ?_; on_goal 2 => subst x) | skip)
    | lift_lets
    | split

theorem keeps_runTiles {v1 v2 v3 v4 v5 v6} (h2 : Keeps s0 v2) :
    Keeps s0 (runTiles v1 v2 v3 v4 v5 v6).1 := by
  revert h2
  fun_induction runTiles v1 v2 v3 v4 v5 v6
  all_goals try intro h2
  all_goals repeat' first
    | with_reducible assumption
    | with_reducible apply keeps_engineFault
    | with_reducible apply keeps_visitPages
    | with_reducible apply keeps_tileEnd
    | with_reducible refine of_fst3 (by assumption) ?_
    | with_reducible refine of_fst (by assumption) ?_
    | with_reducible apply h2
    | apply_assumption (transparency := .reducible)
    | with_reducible rfl
    | with_reducible apply ChKeeps.of
    | with_reducible apply IslKeeps.of
    | (intro x; first | (refine (fun (hx : Keeps s0 x) => ?_) ?_; on_goal 2 => subst x) | skip)
    | lift_lets
    | split

theorem keeps_feedBack {v1 v2 v3} (h1 : Keeps s0 v1) :
    Keeps s0 (feedBack v1 v2 v3).1 := by
  unfold feedBack
  repeat' first
    | with_reducible assumption
    | with_reducible apply keeps_touchNext
    | with_reducible apply keeps_modSumm
    | with_reducible apply keeps_foldl
    | with_reducible apply keeps_foldl_fst
    | with_reducible apply keeps_foldl_thd
    | with_reducible refine of_snd (by assumption) ?_
    | with_reducible apply h1
    | with_reducible rfl
    | with_reducible apply ChKeeps.of
    | with_reducible apply IslKeeps.of
    | (intro x; first | (refine (fun (hx : Keeps s0 x) => ?_) ?_; on_goal 2 => subst x) | (refine (fun (hx : Keeps s0 x.1) => ?_) ?_; on_goal 2 => subst x) | (refine (fun (hx : Keeps s0 x.2) => ?_) ?_; on_goal 2 => subst x) | (refine (fun (hx : Keeps s0 x.2.2) => ?_) ?_; on_goal 2 => subst x) | (refine (fun (hx : Keeps s0 x.2.1) => ?_) ?_; on_goal 2 => subst x) | skip)
    | lift_lets
    | split

theorem keeps_runSeq {v1 v2 v3 v4 v5} (h1 : Keeps s0 v1) :
    Keeps s0 (runSeq v1 v2 v3 v4 v5).1 := by
  unfold runSeq
  repeat' first
    | with_reducible assumption
    | with_reducible apply keeps_runTiles
    | with_reducible apply keeps_engineFault
    | with_reducible apply keeps_feedBack
    | with_reducible refine of_fst3 (by assumption) ?_
    | with_reducible refine of_fst (by assumption) ?_
    | with_reducible apply h1
    | with_reducible rfl
    | with_reducible apply ChKeeps.of
    | with_reducible apply IslKeeps.of
    | (intro x; first | (refine (fun (hx : Keeps s0 x) => ?_) ?_; on_goal 2 => subst x) | skip)
    | lift_lets
    | split

theorem keeps_runSubs {v1 v2 v3 v4 v5 v6} (h2 : Keeps s0 v2) :
    Keeps s0 (runSubs v1 v2 v3 v4 v5 v6).1 := by
  revert h2
  fun_induction runSubs v1 v2 v3 v4 v5 v6
  all_goals try intro h2
  all_goals repeat' first
    | with_reducible assumption
    | with_reducible apply keeps_runSeq
    | with_reducible refine of_fst3 (by assumption) ?_
    | with_reducible apply h2
    | apply_assumption (transparency := .reducible)
    | with_reducible rfl
    | with_reducible apply ChKeeps.of
    | with_reducible apply IslKeeps.of
    | (intro x; first | (refine (fun (hx : Keeps s0 x) => ?_) ?_; on_goal 2 => subst x) | skip)
    | lift_lets
    | split

theorem keeps_runAttn {v1 v2 v3 v4 v5} (h1 : Keeps s0 v1) :
    Keeps s0 (runAttn v1 v2 v3 v4 v5) := by
  unfold runAttn
  repeat' first
    | with_reducible assumption
    | with_reducible apply keeps_runSeq
    | with_reducible apply keeps_runSubs
    | with_reducible apply keeps_retire
    | with_reducible apply keeps_setWait
    | with_reducible refine of_fst3 (by assumption) ?_
    | with_reducible apply h1
    | with_reducible rfl
    | with_reducible apply ChKeeps.of
    | with_reducible apply IslKeeps.of
    | (intro x; first | (refine (fun (hx : Keeps s0 x) => ?_) ?_; on_goal 2 => subst x) | (refine (fun (hx : Keeps s0 x.1) => ?_) ?_; on_goal 2 => subst x) | (refine (fun (hx : Keeps s0 x.2) => ?_) ?_; on_goal 2 => subst x) | (refine (fun (hx : Keeps s0 x.2.2) => ?_) ?_; on_goal 2 => subst x) | (refine (fun (hx : Keeps s0 x.2.1) => ?_) ?_; on_goal 2 => subst x) | skip)
    | (extract_lets -underBinder +onlyGivenNames x; first | (refine (fun (hx : Keeps s0 x) => ?_) ?_; on_goal 2 => subst x) | (refine (fun (hx : Keeps s0 x.1) => ?_) ?_; on_goal 2 => subst x) | (refine (fun (hx : Keeps s0 x.2) => ?_) ?_; on_goal 2 => subst x) | (refine (fun (hx : Keeps s0 x.2.2) => ?_) ?_; on_goal 2 => subst x) | (refine (fun (hx : Keeps s0 x.2.1) => ?_) ?_; on_goal 2 => subst x) | skip)
    | split

theorem keeps_batchBody {v1 v2 v3 v4 v5 v6} (h2 : Keeps s0 v2) :
    Keeps s0 (batchBody v1 v2 v3 v4 v5 v6) := by
  unfold batchBody
  repeat' first
    | with_reducible assumption
    | with_reducible apply keeps_retireSt
    | with_reducible apply keeps_retire
    | with_reducible apply keeps_admitUse
    | with_reducible apply keeps_runAttn
    | with_reducible apply h2
    | with_reducible rfl
    | with_reducible apply ChKeeps.of
    | with_reducible apply IslKeeps.of
    | (intro x; first | (refine (fun (hx : Keeps s0 x) => ?_) ?_; on_goal 2 => subst x) | skip)
    | lift_lets
    | split

theorem keeps_execAttendRagged {v1 v2 v3 v4} (h4 : Keeps s0 v4) :
    KX s0 (execAttendRagged v1 v2 v3 v4) := by
  unfold execAttendRagged
  repeat' first
    | with_reducible assumption
    | with_reducible apply keeps_runHead
    | with_reducible apply keeps_batchBody
    | with_reducible apply keeps_takeEnv
    | with_reducible refine KX.next ?_
    | with_reducible apply h4
    | with_reducible rfl
    | with_reducible apply ChKeeps.of
    | with_reducible apply IslKeeps.of
    | (intro x; first | (refine (fun (hx : Keeps s0 x) => ?_) ?_; on_goal 2 => subst x) | skip)
    | lift_lets
    | split

theorem keeps_execAttend {v1 v2 v3 v4} (h4 : Keeps s0 v4) :
    KX s0 (execAttend v1 v2 v3 v4) := by
  unfold execAttend
  repeat' first
    | with_reducible assumption
    | with_reducible apply keeps_runHead
    | with_reducible apply keeps_takeEnv
    | with_reducible apply keeps_retireSt
    | with_reducible apply keeps_admitUse
    | with_reducible apply keeps_runAttn
    | with_reducible refine KX.next ?_
    | with_reducible apply h4
    | with_reducible rfl
    | with_reducible apply ChKeeps.of
    | with_reducible apply IslKeeps.of
    | (intro x; first | (refine (fun (hx : Keeps s0 x) => ?_) ?_; on_goal 2 => subst x) | skip)
    | lift_lets
    | split

theorem keeps_execPresenceGateRelease {v1 v2 v3 v4} (h4 : Keeps s0 v4) :
    KX s0 (execPresenceGateRelease v1 v2 v3 v4) := by
  unfold execPresenceGateRelease
  repeat' first
    | with_reducible assumption
    | with_reducible apply keeps_underOwn
    | with_reducible apply keeps_runAttn
    | with_reducible apply keeps_takeEnv
    | with_reducible refine KX.next ?_
    | with_reducible apply h4
    | with_reducible rfl
    | with_reducible apply ChKeeps.of
    | with_reducible apply IslKeeps.of
    | (intro x; first | (refine (fun (hx : Keeps s0 x) => ?_) ?_; on_goal 2 => subst x) | skip)
    | lift_lets
    | split

theorem keeps_execAttendGrist {v1 v2 v3 v4} (h4 : Keeps s0 v4) :
    KX s0 (execAttendGrist v1 v2 v3 v4) := by
  unfold execAttendGrist
  repeat' first
    | with_reducible assumption
    | with_reducible apply keeps_runHead
    | with_reducible apply keeps_batchBody
    | with_reducible apply keeps_takeEnv
    | with_reducible refine KX.next ?_
    | with_reducible apply h4
    | with_reducible rfl
    | with_reducible apply ChKeeps.of
    | with_reducible apply IslKeeps.of
    | (intro x; first | (refine (fun (hx : Keeps s0 x) => ?_) ?_; on_goal 2 => subst x) | skip)
    | lift_lets
    | split

end Sys2Proof.Laws
end

