-- ==== Sys2Proof/Laws/KeepsAppendCmds.lean ====
section
/-! SUPPORT. `Keeps` of the definitions of Sys2Proof/Machine/AppendCmds.lean. -/

namespace Sys2Proof.Laws
open Sys2Proof Sys2Proof.Machine

variable {s0 : State}

theorem keeps_beginRing {v1 v2 v3 v4 v5} (h1 : Keeps s0 v1) :
    Keeps s0 (beginRing v1 v2 v3 v4 v5) := by
  unfold beginRing
  repeat' first
    | with_reducible assumption
    | with_reducible apply keeps_touchNext
    | with_reducible apply keeps_modSumm
    | with_reducible apply keeps_releasePage
    | with_reducible apply keeps_dropHome
    | with_reducible apply keeps_setPte
    | with_reducible refine of_snd (by assumption) ?_
    | with_reducible apply h1
    | with_reducible rfl
    | with_reducible apply ChKeeps.of
    | with_reducible apply IslKeeps.of
    | (intro x; first | (refine (fun (hx : Keeps s0 x) => ?_) ?_; on_goal 2 => subst x) | skip)
    | lift_lets
    | split

theorem keeps_advanceLength {v1 v2 v3 v4 v5} (h1 : Keeps s0 v1) :
    Keeps s0 (advanceLength v1 v2 v3 v4 v5) := by
  unfold advanceLength
  repeat' first
    | with_reducible assumption
    | with_reducible apply keeps_modSeq
    | with_reducible apply h1
    | with_reducible rfl
    | with_reducible apply ChKeeps.of
    | with_reducible apply IslKeeps.of
    | (intro x; first | (refine (fun (hx : Keeps s0 x) => ?_) ?_; on_goal 2 => subst x) | skip)
    | lift_lets
    | split

theorem keeps_beginSumm {v1 v2 v3 v4 v5 v6} (h1 : Keeps s0 v1) :
    KOP s0 (beginSumm v1 v2 v3 v4 v5 v6) := by
  unfold beginSumm
  repeat' first
    | with_reducible assumption
    | with_reducible apply keeps_touchNext
    | with_reducible apply keeps_allocSumm
    | with_reducible exact KOP.none
    | with_reducible refine KOP.some ?_
    | with_reducible refine of_snd (by assumption) ?_
    | with_reducible refine of_someP (by assumption) ?_
    | with_reducible apply h1
    | with_reducible rfl
    | with_reducible apply ChKeeps.of
    | with_reducible apply IslKeeps.of
    | (intro x; first | (refine (fun (hx : Keeps s0 x) => ?_) ?_; on_goal 2 => subst x) | skip)
    | lift_lets
    | split

theorem keeps_beginFresh {v1 v2 v3 v4 v5} (h1 : Keeps s0 v1) :
    KE s0 (beginFresh v1 v2 v3 v4 v5) := by
  unfold beginFresh
  split
  · exact KE.error
  · next i t heq =>
    have ht := of_someP heq (keeps_beginSumm h1)
    split
    · exact KE.error
    · next u hu => exact KE.ok (keeps_setPte (of_some hu (keeps_growMap ht)))

theorem keeps_readCopies {v1 v2 v3 v4 v5} (h5 : Keeps s0 v5) :
    Keeps s0 (readCopies v1 v2 v3 v4 v5).2 := by
  revert h5
  fun_induction readCopies v1 v2 v3 v4 v5
  all_goals try intro h5
  all_goals repeat' first
    | with_reducible assumption
    | with_reducible apply keeps_readPage
    | with_reducible apply keeps_loseRead
    | with_reducible exact KOP.none
    | with_reducible refine KOP.some ?_
    | with_reducible refine of_snd (by assumption) ?_
    | with_reducible apply h5
    | apply_assumption (transparency := .reducible)
    | with_reducible rfl
    | with_reducible apply ChKeeps.of
    | with_reducible apply IslKeeps.of
    | (intro x; first | (refine (fun (hx : Keeps s0 x) => ?_) ?_; on_goal 2 => subst x) | skip)
    | lift_lets
    | split

theorem keeps_beginCopy {v1 v2 v3 v4 v5} (h1 : Keeps s0 v1) :
    KE s0 (beginCopy v1 v2 v3 v4 v5) := by
  unfold beginCopy
  extract_lets e prot
  split
  · exact KE.error
  · next i t heq =>
    exact KE.ok (keeps_setPte (of_someP heq (keeps_beginSumm h1)))

theorem keeps_beginPages {v1 v2 v3 v4 v5} (h5 : Keeps s0 v5) :
    KE s0 (beginPages v1 v2 v3 v4 v5) := by
  induction v4 generalizing v5 with
  | nil => exact KE.ok h5
  | cons x xs ih =>
    rw [beginPages]
    cases hu : x.use <;> simp only [hu]
    case fresh =>
      split
      · exact KE.error
      · next heq => exact ih (of_ok heq (keeps_beginFresh h5))
    case copy =>
      split
      · exact KE.error
      · next heq => exact ih (of_ok heq (keeps_beginCopy h5))
    case ring => exact ih (keeps_beginRing h5)
    all_goals exact ih h5

theorem keeps_mendKeys {v1 v2 v3 v4 v5} (h1 : Keeps s0 v1) :
    Keeps s0 (mendKeys v1 v2 v3 v4 v5) := by
  unfold mendKeys
  repeat' first
    | with_reducible assumption
    | with_reducible apply keeps_recoverPieces
    | with_reducible apply keeps_getD
    | with_reducible refine of_some (by assumption) ?_
    | with_reducible apply h1
    | with_reducible rfl
    | with_reducible apply ChKeeps.of
    | with_reducible apply IslKeeps.of
    | (intro x; first | (refine (fun (hx : Keeps s0 x) => ?_) ?_; on_goal 2 => subst x) | skip)
    | lift_lets
    | split

theorem keeps_summarise {v1 v2 v3 v4 v5} (h1 : Keeps s0 v1) :
    Keeps s0 (summarise v1 v2 v3 v4 v5) := by
  unfold summarise
  repeat' first
    | with_reducible assumption
    | with_reducible apply keeps_modSumm
    | with_reducible apply h1
    | with_reducible rfl
    | with_reducible apply ChKeeps.of
    | with_reducible apply IslKeeps.of
    | (intro x; first | (refine (fun (hx : Keeps s0 x) => ?_) ?_; on_goal 2 => subst x) | skip)
    | lift_lets
    | split

theorem keeps_putPage {v1 v2 v3 v4} (h1 : Keeps s0 v1) :
    Keeps s0 (putPage v1 v2 v3 v4).1 := by
  unfold putPage
  repeat' first
    | with_reducible assumption
    | with_reducible apply keeps_t1Write
    | with_reducible apply keeps_mendKeys
    | with_reducible apply keeps_markDirty
    | with_reducible apply keeps_setPte
    | with_reducible apply keeps_poisonPrivate
    | with_reducible apply keeps_summarise
    | with_reducible apply keeps_foldl
    | with_reducible apply h1
    | with_reducible rfl
    | with_reducible apply ChKeeps.of
    | with_reducible apply IslKeeps.of
    | (intro x; first | (refine (fun (hx : Keeps s0 x) => ?_) ?_; on_goal 2 => subst x) | skip)
    | lift_lets
    | split

theorem keeps_writeHead {v1 v2 v3 v4 v5 v6} (h5 : Keeps s0 v5.st) :
    Keeps s0 (writeHead v1 v2 v3 v4 v5 v6).st := by
  unfold writeHead
  repeat' first
    | with_reducible assumption
    | with_reducible apply keeps_modCh
    | with_reducible exact Keeps.refl _
    | with_reducible apply h5
    | with_reducible rfl
    | with_reducible apply ChKeeps.of
    | with_reducible apply IslKeeps.of
    | (intro x; first | (refine (fun (hx : Keeps s0 x) => ?_) ?_; on_goal 2 => subst x) | skip)
    | lift_lets
    | split

theorem keeps_putPages {v1 v2 v3 v4 v5} (h4 : Keeps s0 v4) :
    Keeps s0 (putPages v1 v2 v3 v4 v5).2.1 := by
  revert h4
  fun_induction putPages v1 v2 v3 v4 v5
  all_goals try intro h4
  all_goals repeat' first
    | with_reducible assumption
    | with_reducible apply keeps_putPage
    | with_reducible refine of_fst (by assumption) ?_
    | with_reducible apply h4
    | apply_assumption (transparency := .reducible)
    | with_reducible rfl
    | with_reducible apply ChKeeps.of
    | with_reducible apply IslKeeps.of
    | (intro x; first | (refine (fun (hx : Keeps s0 x) => ?_) ?_; on_goal 2 => subst x) | skip)
    | lift_lets
    | split

theorem keeps_appendFinish {v1 v2 v3 v4} (h1 : Keeps s0 v1) :
    Keeps s0 (appendFinish v1 v2 v3 v4) := by
  unfold appendFinish
  repeat' first
    | with_reducible assumption
    | with_reducible apply keeps_modSeq
    | with_reducible apply keeps_retire
    | with_reducible apply keeps_advanceLength
    | with_reducible apply h1
    | with_reducible rfl
    | with_reducible apply ChKeeps.of
    | with_reducible apply IslKeeps.of
    | (intro x; first | (refine (fun (hx : Keeps s0 x) => ?_) ?_; on_goal 2 => subst x) | skip)
    | lift_lets
    | split

theorem keeps_appendGo {v1 v2 v3 v4} (h1 : Keeps s0 v1) :
    Keeps s0 (appendGo v1 v2 v3 v4) := by
  unfold appendGo
  repeat' first
    | with_reducible assumption
    | with_reducible apply keeps_useKey
    | with_reducible apply keeps_retire
    | with_reducible apply keeps_putPages
    | with_reducible apply keeps_appendFinish
    | with_reducible apply keeps_setWait
    | with_reducible apply keeps_foldl_fst
    | with_reducible apply keeps_foldl_thd
    | with_reducible refine of_mid (by assumption) ?_
    | with_reducible apply h1
    | with_reducible rfl
    | with_reducible apply ChKeeps.of
    | with_reducible apply IslKeeps.of
    | (intro x; first | (refine (fun (hx : Keeps s0 x) => ?_) ?_; on_goal 2 => subst x) | (refine (fun (hx : Keeps s0 x.1) => ?_) ?_; on_goal 2 => subst x) | (refine (fun (hx : Keeps s0 x.2) => ?_) ?_; on_goal 2 => subst x) | (refine (fun (hx : Keeps s0 x.2.2) => ?_) ?_; on_goal 2 => subst x) | (refine (fun (hx : Keeps s0 x.2.1) => ?_) ?_; on_goal 2 => subst x) | skip)
    | lift_lets
    | split

theorem keeps_appendFold {α : Type} {g : AppendRun → α → AppendRun} {l : List α} {a : AppendRun} (hg : ∀ a x, Keeps s0 a.st → Keeps s0 (g a x).st)
    (h : Keeps s0 a.st) : Keeps s0 (l.foldl g a).st := by
  induction l generalizing a with
  | nil => exact h
  | cons x xs ih => exact ih (hg _ _ h)

theorem keeps_appendEffect {v1 v2 v3 v4 v5 v6 v7 v8} (h1 : Keeps s0 v1) :
    Keeps s0 (appendEffect v1 v2 v3 v4 v5 v6 v7 v8) := by
  unfold appendEffect
  extract_lets held
  split
  · exact keeps_retireSt h1
  · next t heq =>
    have ht := of_ok heq (keeps_beginPages h1)
    extract_lets a e cp hs w y
    have ha : Keeps s0 a := keeps_foldl (fun _ _ h => keeps_decRecs h) ht
    have hc : Keeps s0 cp.1 := keeps_foldl_fst (fun _ _ h => keeps_putPage h) ha
    have hw : Keeps s0 w.st := keeps_appendFold (fun _ _ h => keeps_writeHead h) hc
    clear_value cp w
    split
    · exact keeps_retire (keeps_engineFault (keeps_putPages hw))
    · exact keeps_appendGo hw

theorem keeps_appendRun {v1 v2 v3 v4 v5 v6} (h1 : Keeps s0 v1) :
    Keeps s0 (appendRun v1 v2 v3 v4 v5 v6) := by
  unfold appendRun
  extract_lets e xs s
  have hs : Keeps s0 s := keeps_useKey h1
  clear_value s
  split
  · exact keeps_retireSt h1
  · split
    · exact keeps_setWait h1
    · exact keeps_stay h1
    · split
      · exact keeps_retire h1
      · split
        · exact keeps_retireSt h1
        · split
          · exact keeps_retire h1
          · split
            · exact keeps_retireSt hs
            · split
              · exact keeps_holdRing hs
              · split
                · exact keeps_stay hs
                · split
                  · next t heq => exact keeps_retireSt (of_snd heq (keeps_readCopies hs))
                  · next ys t heq => exact keeps_appendEffect (of_snd heq (keeps_readCopies hs))

theorem keeps_execAppend {v1 v2 v3 v4} (h4 : Keeps s0 v4) :
    KX s0 (execAppend v1 v2 v3 v4) := by
  unfold execAppend
  repeat' first
    | with_reducible assumption
    | with_reducible apply keeps_underOwn
    | with_reducible apply keeps_appendGo
    | with_reducible apply keeps_runHead
    | with_reducible apply keeps_takeEnv
    | with_reducible apply keeps_retireSt
    | with_reducible apply keeps_admitUse
    | with_reducible apply keeps_appendRun
    | with_reducible refine KX.next ?_
    | with_reducible apply h4
    | with_reducible rfl
    | with_reducible apply ChKeeps.of
    | with_reducible apply IslKeeps.of
    | (intro x; first | (refine (fun (hx : Keeps s0 x) => ?_) ?_; on_goal 2 => subst x) | skip)
    | lift_lets
    | split

end Sys2Proof.Laws
end

