-- ==== Sys2Proof/Laws/KeepsTierCmds.lean ====
section
/-! SUPPORT. `Keeps` of the definitions of Sys2Proof/Machine/TierCmds.lean. -/

namespace Sys2Proof.Laws
open Sys2Proof Sys2Proof.Machine

variable {s0 : State}

theorem keeps_dropOne {v1 v2 v3} (h1 : Keeps s0 v1) :
    Keeps s0 (dropOne v1 v2 v3) := by
  unfold dropOne
  repeat' first
    | with_reducible assumption
    | with_reducible apply keeps_modMarl
    | with_reducible apply keeps_setPte
    | with_reducible apply keeps_releaseLoc
    | with_reducible apply keeps_freeSumm
    | with_reducible apply keeps_releasePage
    | with_reducible apply h1
    | with_reducible rfl
    | with_reducible apply ChKeeps.of
    | with_reducible apply IslKeeps.of
    | (intro x; first | (refine (fun (hx : Keeps s0 x) => ?_) ?_; on_goal 2 => subst x) | skip)
    | lift_lets
    | split

theorem keeps_dropGo {v1 v2 v3 v4 v5 v6} (h6 : Keeps s0 v6) :
    Keeps s0 (dropGo v1 v2 v3 v4 v5 v6) := by
  revert h6
  fun_induction dropGo v1 v2 v3 v4 v5 v6
  all_goals try intro h6
  all_goals repeat' first
    | with_reducible assumption
    | with_reducible apply keeps_retire
    | with_reducible apply keeps_setWait
    | with_reducible apply keeps_noteFull
    | with_reducible apply keeps_dropOne
    | with_reducible apply h6
    | apply_assumption (transparency := .reducible)
    | with_reducible rfl
    | with_reducible apply ChKeeps.of
    | with_reducible apply IslKeeps.of
    | (intro x; first | (refine (fun (hx : Keeps s0 x) => ?_) ?_; on_goal 2 => subst x) | skip)
    | lift_lets
    | split

theorem keeps_dropRun {v1 v2 v3 v4 v5} (h1 : Keeps s0 v1) :
    Keeps s0 (dropRun v1 v2 v3 v4 v5) := by
  unfold dropRun
  repeat' first
    | with_reducible assumption
    | with_reducible apply keeps_retireSt
    | with_reducible apply keeps_dropGo
    | with_reducible apply h1
    | with_reducible rfl
    | with_reducible apply ChKeeps.of
    | with_reducible apply IslKeeps.of
    | (intro x; first | (refine (fun (hx : Keeps s0 x) => ?_) ?_; on_goal 2 => subst x) | skip)
    | lift_lets
    | split

theorem keeps_onBlock {v1 v2 v3 v4 v5} (h1 : Keeps s0 v1) (h5 : ∀ x0 x1, Keeps s0 x0 → Keeps s0 (v5 x0 x1)) :
    Keeps s0 (onBlock v1 v2 v3 v4 v5) := by
  unfold onBlock
  repeat' first
    | with_reducible assumption
    | with_reducible apply keeps_retireSt
    | with_reducible apply h1
    | with_reducible apply h5
    | with_reducible rfl
    | with_reducible apply ChKeeps.of
    | with_reducible apply IslKeeps.of
    | (intro x; first | (refine (fun (hx : Keeps s0 x) => ?_) ?_; on_goal 2 => subst x) | skip)
    | lift_lets
    | split

theorem keeps_placeRegion {v1 v2 v3 v4} (h1 : Keeps s0 v1) :
    Keeps s0 (placeRegion v1 v2 v3 v4) := by
  unfold placeRegion
  repeat' first
    | with_reducible assumption
    | with_reducible apply keeps_retireSt
    | with_reducible apply h1
    | with_reducible rfl
    | with_reducible apply ChKeeps.of
    | with_reducible apply IslKeeps.of
    | (intro x; first | (refine (fun (hx : Keeps s0 x) => ?_) ?_; on_goal 2 => subst x) | skip)
    | lift_lets
    | split

theorem keeps_execDrop {v1 v2 v3} (h3 : Keeps s0 v3) :
    KX s0 (execDrop v1 v2 v3) := by
  unfold execDrop
  repeat' first
    | with_reducible assumption
    | with_reducible apply keeps_underOwn
    | with_reducible apply keeps_dropGo
    | with_reducible apply keeps_runHead
    | with_reducible apply keeps_retireSt
    | with_reducible apply keeps_admitUse
    | with_reducible apply keeps_dropRun
    | with_reducible apply keeps_onBlock
    | with_reducible apply keeps_placeRegion
    | with_reducible refine KX.next ?_
    | with_reducible apply h3
    | with_reducible rfl
    | with_reducible apply ChKeeps.of
    | with_reducible apply IslKeeps.of
    | (intro x; first | (refine (fun (hx : Keeps s0 x) => ?_) ?_; on_goal 2 => subst x) | skip)
    | lift_lets
    | split

theorem keeps_programPiece {v1 v2 v3 v4 v5} (h1 : Keeps s0 v1) :
    KP s0 (programPiece v1 v2 v3 v4 v5) := by
  unfold programPiece
  repeat' first
    | with_reducible assumption
    | with_reducible apply keeps_roomFor
    | with_reducible apply keeps_acceptUnit
    | with_reducible apply keeps_modObj
    | with_reducible refine KP.wait ?_
    | with_reducible refine KP.refuse ?_
    | with_reducible refine KP.ok ?_
    | with_reducible refine of_mid (by assumption) ?_
    | with_reducible refine of_some (by assumption) ?_
    | with_reducible apply h1
    | with_reducible rfl
    | with_reducible apply ChKeeps.of
    | with_reducible apply IslKeeps.of
    | (intro x; first | (refine (fun (hx : Keeps s0 x) => ?_) ?_; on_goal 2 => subst x) | skip)
    | lift_lets
    | split

theorem keeps_persistPieces {v1 v2 v3 v4 v5} (h4 : Keeps s0 v4) :
    KP s0 (persistPieces v1 v2 v3 v4 v5) := by
  revert h4
  fun_induction persistPieces v1 v2 v3 v4 v5
  all_goals try intro h4
  all_goals repeat' first
    | with_reducible assumption
    | with_reducible apply keeps_programPiece
    | with_reducible refine KP.wait ?_
    | with_reducible refine KP.refuse ?_
    | with_reducible refine KP.ok ?_
    | with_reducible refine of_progWait (by assumption) ?_
    | with_reducible refine of_progRefuse (by assumption) ?_
    | with_reducible refine of_progOk (by assumption) ?_
    | with_reducible apply h4
    | apply_assumption (transparency := .reducible)
    | with_reducible rfl
    | with_reducible apply ChKeeps.of
    | with_reducible apply IslKeeps.of
    | (intro x; first | (refine (fun (hx : Keeps s0 x) => ?_) ?_; on_goal 2 => subst x) | skip)
    | lift_lets
    | split

theorem keeps_markPages {v1 v2 v3} (h1 : Keeps s0 v1) :
    Keeps s0 (markPages v1 v2 v3) := by
  unfold markPages
  repeat' first
    | with_reducible assumption
    | with_reducible apply keeps_setPage
    | with_reducible apply keeps_foldl
    | with_reducible apply h1
    | with_reducible rfl
    | with_reducible apply ChKeeps.of
    | with_reducible apply IslKeeps.of
    | (intro x; first | (refine (fun (hx : Keeps s0 x) => ?_) ?_; on_goal 2 => subst x) | skip)
    | lift_lets
    | split

theorem keeps_unfreeze {v1 v2 v3} (h1 : Keeps s0 v1) :
    Keeps s0 (unfreeze v1 v2 v3) := by
  unfold unfreeze
  repeat' first
    | with_reducible assumption
    | with_reducible apply keeps_allocSumm
    | with_reducible apply keeps_setPte
    | with_reducible apply keeps_dropFrozen
    | with_reducible apply keeps_jSlot
    | with_reducible apply keeps_modSeq
    | with_reducible apply keeps_foldl
    | with_reducible refine of_someP (by assumption) ?_
    | with_reducible apply h1
    | with_reducible rfl
    | with_reducible apply ChKeeps.of
    | with_reducible apply IslKeeps.of
    | (intro x; first | (refine (fun (hx : Keeps s0 x) => ?_) ?_; on_goal 2 => subst x) | skip)
    | lift_lets
    | split

theorem keeps_beginMoves {v1 v2 v3 v4} (h1 : Keeps s0 v1) :
    Keeps s0 (beginMoves v1 v2 v3 v4) := by
  unfold beginMoves
  repeat' first
    | with_reducible assumption
    | with_reducible apply keeps_markPages
    | with_reducible apply keeps_unfreeze
    | with_reducible apply keeps_movesFinish
    | with_reducible apply keeps_startAll3
    | with_reducible apply keeps_setWait
    | with_reducible apply h1
    | with_reducible rfl
    | with_reducible apply ChKeeps.of
    | with_reducible apply IslKeeps.of
    | (intro x; first | (refine (fun (hx : Keeps s0 x) => ?_) ?_; on_goal 2 => subst x) | skip)
    | lift_lets
    | split

theorem keeps_execUseCountAdmit {v1 v2 v3} (h3 : Keeps s0 v3) :
    KX s0 (execUseCountAdmit v1 v2 v3) := by
  unfold execUseCountAdmit
  repeat' first
    | with_reducible assumption
    | with_reducible apply keeps_setWait
    | with_reducible apply keeps_beginMoves
    | with_reducible refine KX.next ?_
    | with_reducible apply h3
    | with_reducible rfl
    | with_reducible apply ChKeeps.of
    | with_reducible apply IslKeeps.of
    | (intro x; first | (refine (fun (hx : Keeps s0 x) => ?_) ?_; on_goal 2 => subst x) | skip)
    | lift_lets
    | split

theorem keeps_persistEnd {v1 v2 v3 v4 v5} (h1 : Keeps s0 v1) :
    Keeps s0 (persistEnd v1 v2 v3 v4 v5) := by
  unfold persistEnd
  repeat' first
    | with_reducible assumption
    | with_reducible apply keeps_retire
    | with_reducible apply keeps_evictEvent
    | with_reducible apply h1
    | with_reducible rfl
    | with_reducible apply ChKeeps.of
    | with_reducible apply IslKeeps.of
    | (intro x; first | (refine (fun (hx : Keeps s0 x) => ?_) ?_; on_goal 2 => subst x) | skip)
    | lift_lets
    | split

theorem keeps_placeRun {v1 v2 v3 v4 v5 v6 v7} (h1 : Keeps s0 v1) :
    Keeps s0 (placeRun v1 v2 v3 v4 v5 v6 v7) := by
  unfold placeRun
  repeat' first
    | with_reducible assumption
    | with_reducible apply keeps_retireSt
    | with_reducible apply keeps_retire
    | with_reducible apply keeps_jSlot
    | with_reducible apply keeps_modSeq
    | with_reducible apply keeps_beginMoves
    | with_reducible apply keeps_setWait
    | with_reducible apply h1
    | with_reducible rfl
    | with_reducible apply ChKeeps.of
    | with_reducible apply IslKeeps.of
    | (intro x; first | (refine (fun (hx : Keeps s0 x) => ?_) ?_; on_goal 2 => subst x) | skip)
    | lift_lets
    | split

theorem keeps_placeBody {v1 v2 v3 v4 v5} (h2 : Keeps s0 v2) :
    Keeps s0 (placeBody v1 v2 v3 v4 v5) := by
  unfold placeBody
  repeat' first
    | with_reducible assumption
    | with_reducible apply keeps_retireSt
    | with_reducible apply keeps_placeRegion
    | with_reducible apply keeps_onBlock
    | with_reducible apply keeps_placeRun
    | with_reducible apply keeps_setWait
    | with_reducible apply keeps_admitUse
    | with_reducible apply h2
    | with_reducible rfl
    | with_reducible apply ChKeeps.of
    | with_reducible apply IslKeeps.of
    | (intro x; first | (refine (fun (hx : Keeps s0 x) => ?_) ?_; on_goal 2 => subst x) | skip)
    | lift_lets
    | split

theorem keeps_execPromote {v1 v2 v3} (h3 : Keeps s0 v3) :
    KX s0 (execPromote v1 v2 v3) := by
  unfold execPromote
  repeat' first
    | with_reducible assumption
    | with_reducible apply keeps_runHead
    | with_reducible apply keeps_placeBody
    | with_reducible refine KX.next ?_
    | with_reducible apply h3
    | with_reducible rfl
    | with_reducible apply ChKeeps.of
    | with_reducible apply IslKeeps.of
    | (intro x; first | (refine (fun (hx : Keeps s0 x) => ?_) ?_; on_goal 2 => subst x) | skip)
    | lift_lets
    | split

theorem keeps_addEvicted {v1 v2 v3 v4} (h1 : Keeps s0 v1) :
    Keeps s0 (addEvicted v1 v2 v3 v4) := by
  unfold addEvicted
  repeat' first
    | with_reducible assumption
    | with_reducible apply keeps_modRing
    | with_reducible apply h1
    | with_reducible rfl
    | with_reducible apply ChKeeps.of
    | with_reducible apply IslKeeps.of
    | (intro x; first | (refine (fun (hx : Keeps s0 x) => ?_) ?_; on_goal 2 => subst x) | skip)
    | lift_lets
    | split

theorem keeps_execT3MoveResume {v1 v2 v3} (h3 : Keeps s0 v3) :
    KX s0 (execT3MoveResume v1 v2 v3) := by
  unfold execT3MoveResume
  repeat' first
    | with_reducible assumption
    | with_reducible apply keeps_startAll3
    | with_reducible refine KX.next ?_
    | with_reducible apply h3
    | with_reducible rfl
    | with_reducible apply ChKeeps.of
    | with_reducible apply IslKeeps.of
    | (intro x; first | (refine (fun (hx : Keeps s0 x) => ?_) ?_; on_goal 2 => subst x) | skip)
    | lift_lets
    | split

theorem keeps_execPlace {v1 v2 v3} (h3 : Keeps s0 v3) :
    KX s0 (execPlace v1 v2 v3) := by
  unfold execPlace
  repeat' first
    | with_reducible assumption
    | with_reducible apply keeps_runHead
    | with_reducible apply keeps_placeBody
    | with_reducible refine KX.next ?_
    | with_reducible apply h3
    | with_reducible rfl
    | with_reducible apply ChKeeps.of
    | with_reducible apply IslKeeps.of
    | (intro x; first | (refine (fun (hx : Keeps s0 x) => ?_) ?_; on_goal 2 => subst x) | skip)
    | lift_lets
    | split

theorem keeps_imageRecords {v1 v2} (h1 : Keeps s0 v1) :
    Keeps s0 (imageRecords v1 v2) := by
  unfold imageRecords
  repeat' first
    | with_reducible assumption
    | with_reducible apply keeps_jAppend
    | with_reducible apply keeps_modMarl
    | with_reducible apply keeps_foldl
    | with_reducible apply h1
    | with_reducible rfl
    | with_reducible apply ChKeeps.of
    | with_reducible apply IslKeeps.of
    | (intro x; first | (refine (fun (hx : Keeps s0 x) => ?_) ?_; on_goal 2 => subst x) | skip)
    | lift_lets
    | split

theorem keeps_handImage {v1 v2 v3 v4 v5 v6 v7} (h1 : Keeps s0 v1) :
    Keeps s0 (handImage v1 v2 v3 v4 v5 v6 v7) := by
  unfold handImage
  repeat' first
    | with_reducible assumption
    | with_reducible apply keeps_acceptMeta
    | with_reducible apply keeps_modMarl
    | with_reducible apply keeps_stay
    | with_reducible apply keeps_setWait
    | with_reducible apply keeps_imageRecords
    | with_reducible apply keeps_padOpens
    | with_reducible refine of_snd (by assumption) ?_
    | with_reducible apply h1
    | with_reducible rfl
    | with_reducible apply ChKeeps.of
    | with_reducible apply IslKeeps.of
    | (intro x; first | (refine (fun (hx : Keeps s0 x) => ?_) ?_; on_goal 2 => subst x) | skip)
    | lift_lets
    | split

theorem keeps_writeImage {v1 v2 v3 v4 v5 v6 v7 v8 v9 v10} (h1 : Keeps s0 v1) :
    Keeps s0 (writeImage v1 v2 v3 v4 v5 v6 v7 v8 v9 v10) := by
  unfold writeImage
  repeat' first
    | with_reducible assumption
    | with_reducible apply keeps_persistEnd
    | with_reducible apply keeps_roomFor
    | with_reducible apply keeps_stay
    | with_reducible apply keeps_addEvicted
    | with_reducible apply keeps_handImage
    | with_reducible apply keeps_modMarl
    | with_reducible refine of_mid (by assumption) ?_
    | with_reducible apply h1
    | with_reducible rfl
    | with_reducible apply ChKeeps.of
    | with_reducible apply IslKeeps.of
    | (intro x; first | (refine (fun (hx : Keeps s0 x) => ?_) ?_; on_goal 2 => subst x) | skip)
    | lift_lets
    | split

theorem keeps_giveHomes {v1 v2 v3 v4 v5 v6 v7 v8} (h7 : Keeps s0 v7) :
    Keeps s0 (giveHomes v1 v2 v3 v4 v5 v6 v7 v8).2.2.1 := by
  revert h7
  fun_induction giveHomes v1 v2 v3 v4 v5 v6 v7 v8
  all_goals try intro h7
  all_goals repeat' first
    | with_reducible assumption
    | with_reducible apply keeps_loseRead
    | with_reducible apply keeps_programFrame
    | with_reducible apply keeps_setHome
    | with_reducible apply keeps_setPage
    | with_reducible refine of_progWait (by assumption) ?_
    | with_reducible refine of_progRefuse (by assumption) ?_
    | with_reducible refine of_progOk (by assumption) ?_
    | with_reducible apply h7
    | apply_assumption (transparency := .reducible)
    | with_reducible rfl
    | with_reducible apply ChKeeps.of
    | with_reducible apply IslKeeps.of
    | (intro x; first | (refine (fun (hx : Keeps s0 x) => ?_) ?_; on_goal 2 => subst x) | skip)
    | lift_lets
    | split

theorem keeps_execDemote {v1 v2 v3} (h3 : Keeps s0 v3) :
    KX s0 (execDemote v1 v2 v3) := by
  unfold execDemote
  repeat' first
    | with_reducible assumption
    | with_reducible apply keeps_underOwn
    | with_reducible apply keeps_freezeGo
    | with_reducible apply keeps_freezeBegin
    | with_reducible apply keeps_runHead
    | with_reducible apply keeps_placeBody
    | with_reducible refine KX.next ?_
    | with_reducible apply h3
    | with_reducible rfl
    | with_reducible apply ChKeeps.of
    | with_reducible apply IslKeeps.of
    | (intro x; first | (refine (fun (hx : Keeps s0 x) => ?_) ?_; on_goal 2 => subst x) | skip)
    | lift_lets
    | split

theorem keeps_persistDirty {v1 v2 v3 v4 v5} (h5 : Keeps s0 v5) :
    KF s0 (persistDirty v1 v2 v3 v4 v5) := by
  revert h5
  fun_induction persistDirty v1 v2 v3 v4 v5
  all_goals try intro h5
  all_goals repeat' first
    | with_reducible assumption
    | with_reducible apply keeps_setHome
    | with_reducible apply keeps_recoverPieces
    | with_reducible apply keeps_losePage
    | with_reducible apply keeps_writeHome
    | with_reducible apply keeps_setPage
    | with_reducible refine KF.wait ?_
    | with_reducible refine KF.stop ?_
    | with_reducible refine KF.done ?_
    | with_reducible refine of_some (by assumption) ?_
    | with_reducible apply h5
    | apply_assumption (transparency := .reducible)
    | with_reducible rfl
    | with_reducible apply ChKeeps.of
    | with_reducible apply IslKeeps.of
    | (intro x; first | (refine (fun (hx : Keeps s0 x) => ?_) ?_; on_goal 2 => subst x) | skip)
    | lift_lets
    | split

theorem keeps_persistGo {v1 v2 v3 v4 v5 v6 v7} (h1 : Keeps s0 v1) :
    Keeps s0 (persistGo v1 v2 v3 v4 v5 v6 v7) := by
  unfold persistGo
  repeat' first
    | with_reducible assumption
    | with_reducible apply keeps_handImage
    | with_reducible apply keeps_useKey
    | with_reducible apply keeps_persistEnd
    | with_reducible apply keeps_giveHomes
    | with_reducible apply keeps_addEvicted
    | with_reducible apply keeps_setWait
    | with_reducible apply keeps_persistDirty
    | with_reducible apply keeps_writeImage
    | with_reducible refine of_3of4 (by assumption) ?_
    | with_reducible refine of_flushWait (by assumption) ?_
    | with_reducible refine of_flushStop (by assumption) ?_
    | with_reducible refine of_flushDone (by assumption) ?_
    | with_reducible apply h1
    | with_reducible rfl
    | with_reducible apply ChKeeps.of
    | with_reducible apply IslKeeps.of
    | (intro x; first | (refine (fun (hx : Keeps s0 x) => ?_) ?_; on_goal 2 => subst x) | skip)
    | lift_lets
    | split

theorem keeps_execHostMemoryRequestDone {v1 v2 v3 v4 v5 v6} (h6 : Keeps s0 v6) :
    KX s0 (execHostMemoryRequestDone v1 v2 v3 v4 v5 v6) := by
  unfold execHostMemoryRequestDone
  repeat' first
    | with_reducible assumption
    | with_reducible apply keeps_windowsStep
    | with_reducible apply keeps_move3Done
    | with_reducible refine KX.next ?_
    | with_reducible refine of_snd (by assumption) ?_
    | with_reducible apply h6
    | with_reducible rfl
    | with_reducible apply ChKeeps.of
    | with_reducible apply IslKeeps.of
    | (intro x; first | (refine (fun (hx : Keeps s0 x) => ?_) ?_; on_goal 2 => subst x) | skip)
    | lift_lets
    | split

theorem keeps_persistRun {v1 v2 v3 v4 v5 v6} (h1 : Keeps s0 v1) :
    Keeps s0 (persistRun v1 v2 v3 v4 v5 v6) := by
  unfold persistRun
  repeat' first
    | with_reducible assumption
    | with_reducible apply keeps_persistGo
    | with_reducible apply keeps_retireSt
    | with_reducible apply keeps_retire
    | with_reducible apply h1
    | with_reducible rfl
    | with_reducible apply ChKeeps.of
    | with_reducible apply IslKeeps.of
    | (intro x; first | (refine (fun (hx : Keeps s0 x) => ?_) ?_; on_goal 2 => subst x) | skip)
    | lift_lets
    | split

theorem keeps_execPageMoveEnd {v1 v2 v3 v4 v5} (h5 : Keeps s0 v5) :
    KX s0 (execPageMoveEnd v1 v2 v3 v4 v5) := by
  unfold execPageMoveEnd
  repeat' first
    | with_reducible assumption
    | with_reducible apply keeps_noteFull
    | with_reducible apply keeps_underOwn
    | with_reducible apply keeps_moveRun
    | with_reducible refine KX.next ?_
    | with_reducible apply h5
    | with_reducible rfl
    | with_reducible apply ChKeeps.of
    | with_reducible apply IslKeeps.of
    | (intro x; first | (refine (fun (hx : Keeps s0 x) => ?_) ?_; on_goal 2 => subst x) | skip)
    | lift_lets
    | split

theorem keeps_persistWaited {v1 v2 v3 v4} (h1 : Keeps s0 v1) :
    Keeps s0 (persistWaited v1 v2 v3 v4) := by
  unfold persistWaited
  repeat' first
    | with_reducible assumption
    | with_reducible apply keeps_persistGo
    | with_reducible apply h1
    | with_reducible rfl
    | with_reducible apply ChKeeps.of
    | with_reducible apply IslKeeps.of
    | (intro x; first | (refine (fun (hx : Keeps s0 x) => ?_) ?_; on_goal 2 => subst x) | skip)
    | lift_lets
    | split

end Sys2Proof.Laws
end

