-- ==== Sys2Proof/Laws/KeepsMemOps.lean ====
section
/-! SUPPORT. `Keeps` of the definitions of Sys2Proof/Machine/MemOps.lean. -/

namespace Sys2Proof.Laws
open Sys2Proof Sys2Proof.Machine

variable {s0 : State}

theorem keeps_loseLine {v1 v2 v3} (h1 : Keeps s0 v1) :
    Keeps s0 (loseLine v1 v2 v3) := by
  unfold loseLine
  repeat' first
    | with_reducible assumption
    | with_reducible apply keeps_losePage
    | with_reducible apply keeps_foldl
    | with_reducible apply h1
    | with_reducible rfl
    | with_reducible apply ChKeeps.of
    | with_reducible apply IslKeeps.of
    | (intro x; first | (refine (fun (hx : Keeps s0 x) => ?_) ?_; on_goal 2 => subst x) | skip)
    | lift_lets
    | split

theorem keeps_clearOrphan {v1 v2 v3} (h1 : Keeps s0 v1) :
    Keeps s0 (clearOrphan v1 v2 v3) := by
  unfold clearOrphan
  repeat' first
    | with_reducible assumption
    | with_reducible apply keeps_modCh
    | with_reducible apply keeps_wbPush
    | with_reducible apply keeps_modObj
    | with_reducible apply h1
    | with_reducible rfl
    | with_reducible apply ChKeeps.of
    | with_reducible apply IslKeeps.of
    | (intro x; first | (refine (fun (hx : Keeps s0 x) => ?_) ?_; on_goal 2 => subst x) | skip)
    | lift_lets
    | split

theorem keeps_markPiece {v1 v2 v3} (h1 : Keeps s0 v1) :
    Keeps s0 (markPiece v1 v2 v3) := by
  unfold markPiece
  repeat' first
    | with_reducible assumption
    | with_reducible apply keeps_wbPush
    | with_reducible apply keeps_modObj
    | with_reducible apply h1
    | with_reducible rfl
    | with_reducible apply ChKeeps.of
    | with_reducible apply IslKeeps.of
    | (intro x; first | (refine (fun (hx : Keeps s0 x) => ?_) ?_; on_goal 2 => subst x) | skip)
    | lift_lets
    | split

theorem keeps_touchWrite {v1 v2 v3 v4 v5} (h1 : Keeps s0 v1) :
    Keeps s0 (touchWrite v1 v2 v3 v4 v5) := by
  unfold touchWrite
  repeat' first
    | with_reducible assumption
    | with_reducible apply keeps_markPiece
    | with_reducible apply keeps_markDirty
    | with_reducible apply keeps_foldl
    | with_reducible apply h1
    | with_reducible rfl
    | with_reducible apply ChKeeps.of
    | with_reducible apply IslKeeps.of
    | (intro x; first | (refine (fun (hx : Keeps s0 x) => ?_) ?_; on_goal 2 => subst x) | skip)
    | lift_lets
    | split

theorem keeps_memWrite {v1 v2 v3 v4 v5 v6} (h1 : Keeps s0 v1) :
    Keeps s0 (memWrite v1 v2 v3 v4 v5 v6) := by
  unfold memWrite
  repeat' first
    | with_reducible assumption
    | with_reducible apply keeps_useKey
    | with_reducible apply keeps_clearOrphan
    | with_reducible apply keeps_touchWrite
    | with_reducible apply keeps_t1Write
    | with_reducible apply keeps_foldl
    | with_reducible apply h1
    | with_reducible rfl
    | with_reducible apply ChKeeps.of
    | with_reducible apply IslKeeps.of
    | (intro x; first | (refine (fun (hx : Keeps s0 x) => ?_) ?_; on_goal 2 => subst x) | skip)
    | lift_lets
    | split

theorem keeps_recoverPage {v1 v2 v3} (h1 : Keeps s0 v1) :
    Keeps s0 (recoverPage v1 v2 v3) := by
  unfold recoverPage
  repeat' first
    | with_reducible assumption
    | with_reducible apply keeps_useKey
    | with_reducible apply keeps_recoverPieces
    | with_reducible apply keeps_getD
    | with_reducible refine of_some (by assumption) ?_
    | with_reducible apply h1
    | with_reducible rfl
    | with_reducible apply ChKeeps.of
    | with_reducible apply IslKeeps.of
    | (intro x; first | (refine (fun (hx : Keeps s0 x) => ?_) ?_; on_goal 2 => subst x) | (refine (fun (hx : Keeps s0 x.1) => ?_) ?_; on_goal 2 => subst x) | (refine (fun (hx : Keeps s0 x.2) => ?_) ?_; on_goal 2 => subst x) | (refine (fun (hx : Keeps s0 x.2.2) => ?_) ?_; on_goal 2 => subst x) | (refine (fun (hx : Keeps s0 x.2.1) => ?_) ?_; on_goal 2 => subst x) | skip)
    | (extract_lets -underBinder +onlyGivenNames x; first | (refine (fun (hx : Keeps s0 x) => ?_) ?_; on_goal 2 => subst x) | (refine (fun (hx : Keeps s0 x.1) => ?_) ?_; on_goal 2 => subst x) | (refine (fun (hx : Keeps s0 x.2) => ?_) ?_; on_goal 2 => subst x) | (refine (fun (hx : Keeps s0 x.2.2) => ?_) ?_; on_goal 2 => subst x) | (refine (fun (hx : Keeps s0 x.2.1) => ?_) ?_; on_goal 2 => subst x) | skip)
    | split

theorem keeps_recoverRegion {v1 v2 v3} (h1 : Keeps s0 v1) :
    Keeps s0 (recoverRegion v1 v2 v3) := by
  unfold recoverRegion
  repeat' first
    | with_reducible assumption
    | with_reducible apply keeps_useKey
    | with_reducible apply keeps_mendWrite
    | with_reducible apply h1
    | with_reducible rfl
    | with_reducible apply ChKeeps.of
    | with_reducible apply IslKeeps.of
    | (intro x; first | (refine (fun (hx : Keeps s0 x) => ?_) ?_; on_goal 2 => subst x) | (refine (fun (hx : Keeps s0 x.1) => ?_) ?_; on_goal 2 => subst x) | (refine (fun (hx : Keeps s0 x.2) => ?_) ?_; on_goal 2 => subst x) | (refine (fun (hx : Keeps s0 x.2.2) => ?_) ?_; on_goal 2 => subst x) | (refine (fun (hx : Keeps s0 x.2.1) => ?_) ?_; on_goal 2 => subst x) | skip)
    | split
    | (extract_lets -underBinder +onlyGivenNames x; first | (refine (fun (hx : Keeps s0 x) => ?_) ?_; on_goal 2 => subst x) | (refine (fun (hx : Keeps s0 x.1) => ?_) ?_; on_goal 2 => subst x) | (refine (fun (hx : Keeps s0 x.2) => ?_) ?_; on_goal 2 => subst x) | (refine (fun (hx : Keeps s0 x.2.2) => ?_) ?_; on_goal 2 => subst x) | (refine (fun (hx : Keeps s0 x.2.1) => ?_) ?_; on_goal 2 => subst x) | skip)

theorem keeps_recoverLine {v1 v2 v3} (h1 : Keeps s0 v1) :
    Keeps s0 (recoverLine v1 v2 v3) := by
  unfold recoverLine
  repeat' first
    | with_reducible assumption
    | with_reducible apply keeps_recoverPage
    | with_reducible apply keeps_recoverRegion
    | with_reducible apply h1
    | with_reducible rfl
    | with_reducible apply ChKeeps.of
    | with_reducible apply IslKeeps.of
    | (intro x; first | (refine (fun (hx : Keeps s0 x) => ?_) ?_; on_goal 2 => subst x) | skip)
    | lift_lets
    | split

theorem keeps_mendRange {v1 v2 v3 v4} (h1 : Keeps s0 v1) :
    Keeps s0 (mendRange v1 v2 v3 v4) := by
  unfold mendRange
  repeat' first
    | with_reducible assumption
    | with_reducible apply keeps_recoverLine
    | with_reducible apply keeps_loseLine
    | with_reducible apply keeps_foldl
    | with_reducible apply h1
    | with_reducible rfl
    | with_reducible apply ChKeeps.of
    | with_reducible apply IslKeeps.of
    | (intro x; first | (refine (fun (hx : Keeps s0 x) => ?_) ?_; on_goal 2 => subst x) | skip)
    | lift_lets
    | split

theorem keeps_memRead {v1 v2 v3 v4 v5} (h1 : Keeps s0 v1) :
    Keeps s0 (memRead v1 v2 v3 v4 v5).2 := by
  unfold memRead
  repeat' first
    | with_reducible assumption
    | with_reducible apply keeps_useKey
    | with_reducible apply keeps_mendRange
    | with_reducible exact KOP.none
    | with_reducible refine KOP.some ?_
    | with_reducible apply h1
    | with_reducible rfl
    | with_reducible apply ChKeeps.of
    | with_reducible apply IslKeeps.of
    | (intro x; first | (refine (fun (hx : Keeps s0 x) => ?_) ?_; on_goal 2 => subst x) | skip)
    | lift_lets
    | split

end Sys2Proof.Laws
end

