-- ==== Sys2Proof/Laws/KeepsCoherOps.lean ====
section
/-! SUPPORT. `Keeps` of the definitions of Sys2Proof/Machine/CoherOps.lean. -/

namespace Sys2Proof.Laws
open Sys2Proof Sys2Proof.Machine

variable {s0 : State}

theorem keeps_poisonOnes {v1 v2} (h1 : Keeps s0 v1) :
    Keeps s0 (poisonOnes v1 v2) := by
  unfold poisonOnes
  repeat' first
    | with_reducible assumption
    | with_reducible apply keeps_emit
    | with_reducible apply h1
    | with_reducible rfl
    | with_reducible apply ChKeeps.of
    | with_reducible apply IslKeeps.of
    | (intro x; first | (refine (fun (hx : Keeps s0 x) => ?_) ?_; on_goal 2 => subst x) | skip)
    | lift_lets
    | split

theorem keeps_refuseRead {v1 v2 v3} (h1 : Keeps s0 v1) :
    Keeps s0 (refuseRead v1 v2 v3) := by
  unfold refuseRead
  repeat' first
    | with_reducible assumption
    | with_reducible apply keeps_poisonOnes
    | with_reducible apply keeps_accessErr
    | with_reducible apply h1
    | with_reducible rfl
    | with_reducible apply ChKeeps.of
    | with_reducible apply IslKeeps.of
    | (intro x; first | (refine (fun (hx : Keeps s0 x) => ?_) ?_; on_goal 2 => subst x) | skip)
    | lift_lets
    | split

theorem keeps_hostReadLine {v1 v2 v3 v4 v5} (h1 : Keeps s0 v1) :
    Keeps s0 (hostReadLine v1 v2 v3 v4 v5) := by
  unfold hostReadLine
  repeat' first
    | with_reducible assumption
    | with_reducible apply keeps_useKey
    | with_reducible apply keeps_emit
    | with_reducible apply keeps_memRead
    | with_reducible refine of_snd (by assumption) ?_
    | with_reducible apply h1
    | with_reducible rfl
    | with_reducible apply ChKeeps.of
    | with_reducible apply IslKeeps.of
    | (intro x; first | (refine (fun (hx : Keeps s0 x) => ?_) ?_; on_goal 2 => subst x) | skip)
    | lift_lets
    | split

theorem keeps_grantHold {v1 v2 v3 v4 v5} (h1 : Keeps s0 v1) :
    Keeps s0 (grantHold v1 v2 v3 v4 v5) := by
  unfold grantHold
  repeat' first
    | with_reducible assumption
    | with_reducible apply keeps_modCh
    | with_reducible apply h1
    | with_reducible rfl
    | with_reducible apply ChKeeps.of
    | with_reducible apply IslKeeps.of
    | (intro x; first | (refine (fun (hx : Keeps s0 x) => ?_) ?_; on_goal 2 => subst x) | skip)
    | lift_lets
    | split

theorem keeps_sendSnoop {v1 v2 v3} (h1 : Keeps s0 v1) :
    Keeps s0 (sendSnoop v1 v2 v3) := by
  unfold sendSnoop
  repeat' first
    | with_reducible assumption
    | with_reducible apply keeps_emit
    | with_reducible apply h1
    | with_reducible rfl
    | with_reducible apply ChKeeps.of
    | with_reducible apply IslKeeps.of
    | (intro x; first | (refine (fun (hx : Keeps s0 x) => ?_) ?_; on_goal 2 => subst x) | skip)
    | lift_lets
    | split

theorem keeps_snoopLine {v1 v2 v3 v4 v5} (h1 : Keeps s0 v1) :
    Keeps s0 (snoopLine v1 v2 v3 v4 v5) := by
  unfold snoopLine
  repeat' first
    | with_reducible assumption
    | with_reducible apply keeps_modCh
    | with_reducible apply keeps_sendSnoop
    | with_reducible apply keeps_foldl
    | with_reducible apply h1
    | with_reducible rfl
    | with_reducible apply ChKeeps.of
    | with_reducible apply IslKeeps.of
    | (intro x; first | (refine (fun (hx : Keeps s0 x) => ?_) ?_; on_goal 2 => subst x) | skip)
    | lift_lets
    | split

theorem keeps_modEntry {v1 v2 v3 v4} (h1 : Keeps s0 v1) :
    Keeps s0 (modEntry v1 v2 v3 v4) := by
  unfold modEntry
  repeat' first
    | with_reducible assumption
    | with_reducible apply keeps_modCh
    | with_reducible apply h1
    | with_reducible rfl
    | with_reducible apply ChKeeps.of
    | with_reducible apply IslKeeps.of
    | (intro x; first | (refine (fun (hx : Keeps s0 x) => ?_) ?_; on_goal 2 => subst x) | skip)
    | lift_lets
    | split

theorem keeps_joinLine {v1 v2 v3 v4} (h1 : Keeps s0 v1) :
    Keeps s0 (joinLine v1 v2 v3 v4) := by
  unfold joinLine
  repeat' first
    | with_reducible assumption
    | with_reducible apply keeps_modEntry
    | with_reducible apply keeps_modCh
    | with_reducible apply h1
    | with_reducible rfl
    | with_reducible apply ChKeeps.of
    | with_reducible apply IslKeeps.of
    | (intro x; first | (refine (fun (hx : Keeps s0 x) => ?_) ?_; on_goal 2 => subst x) | skip)
    | lift_lets
    | split

theorem keeps_wantWay {v1 v2 v3 v4} (h1 : Keeps s0 v1) :
    Keeps s0 (wantWay v1 v2 v3 v4) := by
  unfold wantWay
  repeat' first
    | with_reducible assumption
    | with_reducible apply keeps_joinLine
    | with_reducible apply keeps_snoopLine
    | with_reducible apply h1
    | with_reducible rfl
    | with_reducible apply ChKeeps.of
    | with_reducible apply IslKeeps.of
    | (intro x; first | (refine (fun (hx : Keeps s0 x) => ?_) ?_; on_goal 2 => subst x) | skip)
    | lift_lets
    | split

theorem keeps_readLine {v1 v2 v3 v4 v5 v6 v7 v8 v9} (h1 : Keeps s0 v1) :
    Keeps s0 (readLine v1 v2 v3 v4 v5 v6 v7 v8 v9).1 := by
  unfold readLine
  repeat' first
    | with_reducible assumption
    | with_reducible apply keeps_endAdm
    | with_reducible apply keeps_hostReadLine
    | with_reducible apply keeps_grantHold
    | with_reducible apply keeps_snoopLine
    | with_reducible apply keeps_wantWay
    | with_reducible apply h1
    | with_reducible rfl
    | with_reducible apply ChKeeps.of
    | with_reducible apply IslKeeps.of
    | (intro x; first | (refine (fun (hx : Keeps s0 x) => ?_) ?_; on_goal 2 => subst x) | skip)
    | lift_lets
    | split

theorem keeps_lineCount {v1 v2 v3 v4} (h1 : Keeps s0 v1) :
    Keeps s0 (lineCount v1 v2 v3 v4) := by
  unfold lineCount
  repeat' first
    | with_reducible assumption
    | with_reducible apply keeps_regionCount
    | with_reducible apply h1
    | with_reducible rfl
    | with_reducible apply ChKeeps.of
    | with_reducible apply IslKeeps.of
    | (intro x; first | (refine (fun (hx : Keeps s0 x) => ?_) ?_; on_goal 2 => subst x) | skip)
    | lift_lets
    | split

theorem keeps_readExtent {v1 v2 v3 v4 v5 v6 v7 v8 v9} (h1 : Keeps s0 v1) :
    Keeps s0 (readExtent v1 v2 v3 v4 v5 v6 v7 v8 v9).1 := by
  unfold readExtent
  repeat' first
    | with_reducible assumption
    | with_reducible apply keeps_emit
    | with_reducible apply keeps_endAdm
    | with_reducible apply keeps_refuseRead
    | with_reducible apply keeps_readLine
    | with_reducible apply keeps_lineCount
    | with_reducible refine of_fst (by assumption) ?_
    | with_reducible apply h1
    | with_reducible rfl
    | with_reducible apply ChKeeps.of
    | with_reducible apply IslKeeps.of
    | (intro x; first | (refine (fun (hx : Keeps s0 x) => ?_) ?_; on_goal 2 => subst x) | skip)
    | lift_lets
    | split

theorem keeps_dropHead {v1 v2 v3} (h1 : Keeps s0 v1) :
    Keeps s0 (dropHead v1 v2 v3) := by
  unfold dropHead
  repeat' first
    | with_reducible assumption
    | with_reducible apply keeps_modEntry
    | with_reducible apply h1
    | with_reducible rfl
    | with_reducible apply ChKeeps.of
    | with_reducible apply IslKeeps.of
    | (intro x; first | (refine (fun (hx : Keeps s0 x) => ?_) ?_; on_goal 2 => subst x) | skip)
    | lift_lets
    | split

theorem keeps_wakeDev {v1 v2} (h1 : Keeps s0 v1) :
    Keeps s0 (wakeDev v1 v2) := by
  unfold wakeDev
  repeat' first
    | with_reducible assumption
    | with_reducible apply keeps_setWait
    | with_reducible apply h1
    | with_reducible rfl
    | with_reducible apply ChKeeps.of
    | with_reducible apply IslKeeps.of
    | (intro x; first | (refine (fun (hx : Keeps s0 x) => ?_) ?_; on_goal 2 => subst x) | skip)
    | lift_lets
    | split

theorem keeps_devServe {v1 v2 v3 v4 v5} (h1 : Keeps s0 v1) :
    Keeps s0 (devServe v1 v2 v3 v4 v5).1 := by
  unfold devServe
  repeat' first
    | with_reducible assumption
    | with_reducible apply keeps_snoopLine
    | with_reducible apply keeps_wakeDev
    | with_reducible apply h1
    | with_reducible rfl
    | with_reducible apply ChKeeps.of
    | with_reducible apply IslKeeps.of
    | (intro x; first | (refine (fun (hx : Keeps s0 x) => ?_) ?_; on_goal 2 => subst x) | skip)
    | lift_lets
    | split

theorem keeps_readTarget {v1 v2 v3} (h1 : Keeps s0 v1) :
    Keeps s0 (readTarget v1 v2 v3) := by
  cases v3 with
  | unmapped => rw [readTarget]; exact keeps_refuseRead h1; all_goals intros; contradiction
  | frame c owner t1 =>
    rw [readTarget]
    exact keeps_ite (fun _ => keeps_hostReadLine h1) (fun _ => keeps_emit h1)
  | meta_ c t1 =>
    rw [readTarget]
    exact keeps_ite (fun _ => keeps_emit h1) (fun _ => keeps_emit h1)
  | extent c g t1 => rw [readTarget]; exact keeps_refuseRead h1; all_goals intros; contradiction

theorem keeps_refuseWrite {v1 v2 v3} (h1 : Keeps s0 v1) :
    Keeps s0 (refuseWrite v1 v2 v3) := by
  unfold refuseWrite
  repeat' first
    | with_reducible assumption
    | with_reducible apply keeps_emit
    | with_reducible apply keeps_accessErr
    | with_reducible apply h1
    | with_reducible rfl
    | with_reducible apply ChKeeps.of
    | with_reducible apply IslKeeps.of
    | (intro x; first | (refine (fun (hx : Keeps s0 x) => ?_) ?_; on_goal 2 => subst x) | skip)
    | lift_lets
    | split

theorem keeps_downWrite {v1 v2 v3 v4} (h1 : Keeps s0 v1) :
    Keeps s0 (downWrite v1 v2 v3 v4) := by
  unfold downWrite
  repeat' first
    | with_reducible assumption
    | with_reducible apply keeps_emit
    | with_reducible apply keeps_raiseC
    | with_reducible apply h1
    | with_reducible rfl
    | with_reducible apply ChKeeps.of
    | with_reducible apply IslKeeps.of
    | (intro x; first | (refine (fun (hx : Keeps s0 x) => ?_) ?_; on_goal 2 => subst x) | skip)
    | lift_lets
    | split

theorem keeps_hostWriteLine {v1 v2 v3 v4 v5 v6} (h1 : Keeps s0 v1) :
    Keeps s0 (hostWriteLine v1 v2 v3 v4 v5 v6) := by
  unfold hostWriteLine
  repeat' first
    | with_reducible assumption
    | with_reducible apply keeps_useKey
    | with_reducible apply keeps_memWrite
    | with_reducible apply keeps_t1EncLine
    | with_reducible apply keeps_touchWrite
    | with_reducible apply keeps_addLost
    | with_reducible apply h1
    | with_reducible rfl
    | with_reducible apply ChKeeps.of
    | with_reducible apply IslKeeps.of
    | (intro x; first | (refine (fun (hx : Keeps s0 x) => ?_) ?_; on_goal 2 => subst x) | skip)
    | lift_lets
    | split

theorem keeps_writeLine {v1 v2 v3 v4 v5 v6 v7 v8 v9 v10} (h1 : Keeps s0 v1) :
    Keeps s0 (writeLine v1 v2 v3 v4 v5 v6 v7 v8 v9 v10).1 := by
  unfold writeLine
  repeat' first
    | with_reducible assumption
    | with_reducible apply keeps_endAdm
    | with_reducible apply keeps_emit
    | with_reducible apply keeps_hostWriteLine
    | with_reducible apply keeps_snoopLine
    | with_reducible apply keeps_wantWay
    | with_reducible apply h1
    | with_reducible rfl
    | with_reducible apply ChKeeps.of
    | with_reducible apply IslKeeps.of
    | (intro x; first | (refine (fun (hx : Keeps s0 x) => ?_) ?_; on_goal 2 => subst x) | skip)
    | lift_lets
    | split

theorem keeps_writeExtent {v1 v2 v3 v4 v5 v6 v7 v8 v9 v10} (h1 : Keeps s0 v1) :
    Keeps s0 (writeExtent v1 v2 v3 v4 v5 v6 v7 v8 v9 v10).1 := by
  unfold writeExtent
  repeat' first
    | with_reducible assumption
    | with_reducible apply keeps_downWrite
    | with_reducible apply keeps_endAdm
    | with_reducible apply keeps_refuseWrite
    | with_reducible apply keeps_writeLine
    | with_reducible apply keeps_lineCount
    | with_reducible refine of_fst (by assumption) ?_
    | with_reducible apply h1
    | with_reducible rfl
    | with_reducible apply ChKeeps.of
    | with_reducible apply IslKeeps.of
    | (intro x; first | (refine (fun (hx : Keeps s0 x) => ?_) ?_; on_goal 2 => subst x) | skip)
    | lift_lets
    | split

theorem keeps_writeTarget {v1 v2 v3 v4 v5 v6} (h1 : Keeps s0 v1) :
    Keeps s0 (writeTarget v1 v2 v3 v4 v5 v6) := by
  cases v6 with
  | unmapped => rw [writeTarget]; exact keeps_refuseWrite h1; all_goals intros; contradiction
  | frame c owner t1 =>
    rw [writeTarget]
    exact keeps_ite (fun _ => keeps_emit (keeps_hostWriteLine h1)) (fun _ => keeps_downWrite h1)
  | meta_ c t1 => rw [writeTarget]; exact keeps_refuseWrite h1
  | extent c g t1 => rw [writeTarget]; exact keeps_refuseWrite h1; all_goals intros; contradiction

theorem keeps_hostServe {v1 v2 v3} (h1 : Keeps s0 v1) :
    Keeps s0 (hostServe v1 v2 v3).1 := by
  unfold hostServe
  repeat' first
    | with_reducible assumption
    | with_reducible apply keeps_refuseRead
    | with_reducible apply keeps_endAdm
    | with_reducible apply keeps_readExtent
    | with_reducible apply keeps_readTarget
    | with_reducible apply keeps_refuseWrite
    | with_reducible apply keeps_writeExtent
    | with_reducible apply keeps_writeTarget
    | with_reducible refine of_fst (by assumption) ?_
    | with_reducible apply h1
    | with_reducible rfl
    | with_reducible apply ChKeeps.of
    | with_reducible apply IslKeeps.of
    | (intro x; first | (refine (fun (hx : Keeps s0 x) => ?_) ?_; on_goal 2 => subst x) | skip)
    | lift_lets
    | split

theorem keeps_pumpLine {v1 v2 v3 v4} (h2 : Keeps s0 v2) :
    Keeps s0 (pumpLine v1 v2 v3 v4) := by
  revert h2
  fun_induction pumpLine v1 v2 v3 v4
  all_goals try intro h2
  all_goals repeat' first
    | with_reducible assumption
    | with_reducible apply keeps_modCh
    | with_reducible apply keeps_snoopLine
    | with_reducible apply keeps_dropHead
    | with_reducible apply keeps_devServe
    | with_reducible apply keeps_hostServe
    | with_reducible apply keeps_modEntry
    | with_reducible refine of_fst (by assumption) ?_
    | with_reducible apply h2
    | apply_assumption (transparency := .reducible)
    | with_reducible rfl
    | with_reducible apply ChKeeps.of
    | with_reducible apply IslKeeps.of
    | (intro x; first | (refine (fun (hx : Keeps s0 x) => ?_) ?_; on_goal 2 => subst x) | skip)
    | lift_lets
    | split

theorem keeps_arriveAt {v1 v2 v3 v4 v5} (h1 : Keeps s0 v1) :
    Keeps s0 (arriveAt v1 v2 v3 v4 v5) := by
  unfold arriveAt
  repeat' first
    | with_reducible assumption
    | with_reducible apply keeps_hostServe
    | with_reducible apply keeps_modEntry
    | with_reducible apply keeps_joinLine
    | with_reducible refine of_fst (by assumption) ?_
    | with_reducible apply h1
    | with_reducible rfl
    | with_reducible apply ChKeeps.of
    | with_reducible apply IslKeeps.of
    | (intro x; first | (refine (fun (hx : Keeps s0 x) => ?_) ?_; on_goal 2 => subst x) | skip)
    | lift_lets
    | split

theorem keeps_hostArrive {v1 v2 v3 v4 v5} (h1 : Keeps s0 v1) :
    Keeps s0 (hostArrive v1 v2 v3 v4 v5) := by
  unfold hostArrive
  repeat' first
    | with_reducible assumption
    | with_reducible apply keeps_arriveAt
    | with_reducible apply keeps_hostServe
    | with_reducible refine of_fst (by assumption) ?_
    | with_reducible apply h1
    | with_reducible rfl
    | with_reducible apply ChKeeps.of
    | with_reducible apply IslKeeps.of
    | (intro x; first | (refine (fun (hx : Keeps s0 x) => ?_) ?_; on_goal 2 => subst x) | skip)
    | lift_lets
    | split

theorem keeps_memReadReq {v1 v2 v3 v4} (h1 : Keeps s0 v1) :
    Keeps s0 (memReadReq v1 v2 v3 v4) := by
  unfold memReadReq
  repeat' first
    | with_reducible assumption
    | with_reducible apply keeps_hostArrive
    | with_reducible apply h1
    | with_reducible rfl
    | with_reducible apply ChKeeps.of
    | with_reducible apply IslKeeps.of
    | (intro x; first | (refine (fun (hx : Keeps s0 x) => ?_) ?_; on_goal 2 => subst x) | skip)
    | lift_lets
    | split

theorem keeps_serveLine {v1 v2 v3} (h1 : Keeps s0 v1) :
    Keeps s0 (serveLine v1 v2 v3) := by
  unfold serveLine
  repeat' first
    | with_reducible assumption
    | with_reducible apply keeps_pumpLine
    | with_reducible apply h1
    | with_reducible rfl
    | with_reducible apply ChKeeps.of
    | with_reducible apply IslKeeps.of
    | (intro x; first | (refine (fun (hx : Keeps s0 x) => ?_) ?_; on_goal 2 => subst x) | skip)
    | lift_lets
    | split

theorem keeps_serveLines {v1 v2} (h1 : Keeps s0 v1) :
    Keeps s0 (serveLines v1 v2) := by
  unfold serveLines
  repeat' first
    | with_reducible assumption
    | with_reducible apply keeps_serveLine
    | with_reducible apply keeps_foldl
    | with_reducible apply h1
    | with_reducible rfl
    | with_reducible apply ChKeeps.of
    | with_reducible apply IslKeeps.of
    | (intro x; first | (refine (fun (hx : Keeps s0 x) => ?_) ?_; on_goal 2 => subst x) | skip)
    | lift_lets
    | split

theorem keeps_leaveLines {v1 v2} (h1 : Keeps s0 v1) :
    Keeps s0 (leaveLines v1 v2) := by
  unfold leaveLines
  repeat' first
    | with_reducible assumption
    | with_reducible apply keeps_forCh
    | with_reducible apply keeps_serveLines
    | with_reducible apply keeps_modCh
    | with_reducible apply h1
    | with_reducible rfl
    | with_reducible apply ChKeeps.of
    | with_reducible apply IslKeeps.of
    | (intro x; first | (refine (fun (hx : Keeps s0 x) => ?_) ?_; on_goal 2 => subst x) | skip)
    | lift_lets
    | split

theorem keeps_awaitLines {v1 v2 v3} (h1 : Keeps s0 v1) :
    Keeps s0 (awaitLines v1 v2 v3) := by
  unfold awaitLines
  repeat' first
    | with_reducible assumption
    | with_reducible apply keeps_leaveLines
    | with_reducible apply keeps_joinLine
    | with_reducible apply keeps_serveLine
    | with_reducible apply keeps_foldl
    | with_reducible apply h1
    | with_reducible rfl
    | with_reducible apply ChKeeps.of
    | with_reducible apply IslKeeps.of
    | (intro x; first | (refine (fun (hx : Keeps s0 x) => ?_) ?_; on_goal 2 => subst x) | skip)
    | lift_lets
    | split

theorem keeps_memWriteReq {v1 v2 v3 v4 v5} (h1 : Keeps s0 v1) :
    Keeps s0 (memWriteReq v1 v2 v3 v4 v5) := by
  unfold memWriteReq
  repeat' first
    | with_reducible assumption
    | with_reducible apply keeps_hostArrive
    | with_reducible apply h1
    | with_reducible rfl
    | with_reducible apply ChKeeps.of
    | with_reducible apply IslKeeps.of
    | (intro x; first | (refine (fun (hx : Keeps s0 x) => ?_) ?_; on_goal 2 => subst x) | skip)
    | lift_lets
    | split

end Sys2Proof.Laws
end

