-- ==== Sys2Proof/Laws/KeepsLinkRx.lean ====
section
/-! SUPPORT. `Keeps` of the definitions of Sys2Proof/Machine/LinkRx.lean. -/

namespace Sys2Proof.Laws
open Sys2Proof Sys2Proof.Machine

variable {s0 : State}

theorem keeps_roceSend {v1 v2 v3 v4} (h1 : Keeps s0 v1) :
    Keeps s0 (roceSend v1 v2 v3 v4) := by
  unfold roceSend
  repeat' first
    | with_reducible assumption
    | with_reducible apply keeps_modLink
    | with_reducible apply keeps_emit
    | with_reducible apply h1
    | with_reducible rfl
    | with_reducible apply ChKeeps.of
    | with_reducible apply IslKeeps.of
    | (intro x; first | (refine (fun (hx : Keeps s0 x) => ?_) ?_; on_goal 2 => subst x) | skip)
    | lift_lets
    | split

theorem keeps_roceAnswer {v1 v2 v3 v4} (h1 : Keeps s0 v1) :
    Keeps s0 (roceAnswer v1 v2 v3 v4) := by
  unfold roceAnswer
  repeat' first
    | with_reducible assumption
    | with_reducible apply keeps_roceSend
    | with_reducible apply keeps_drawFree
    | with_reducible apply keeps_foldl
    | with_reducible refine of_snd (by assumption) ?_
    | with_reducible apply h1
    | with_reducible rfl
    | with_reducible apply ChKeeps.of
    | with_reducible apply IslKeeps.of
    | (intro x; first | (refine (fun (hx : Keeps s0 x) => ?_) ?_; on_goal 2 => subst x) | skip)
    | lift_lets
    | split

theorem keeps_rxAnswer {v1 v2 v3 v4 v5} (h1 : Keeps s0 v1) :
    Keeps s0 (rxAnswer v1 v2 v3 v4 v5) := by
  unfold rxAnswer
  repeat' first
    | with_reducible assumption
    | with_reducible apply keeps_roceAnswer
    | with_reducible apply keeps_sendPkts
    | with_reducible apply h1
    | with_reducible rfl
    | with_reducible apply ChKeeps.of
    | with_reducible apply IslKeeps.of
    | (intro x; first | (refine (fun (hx : Keeps s0 x) => ?_) ?_; on_goal 2 => subst x) | skip)
    | lift_lets
    | split

theorem keeps_rxKey {v1 v2 v3 v4} (h1 : Keeps s0 v1) :
    Keeps s0 (rxKey v1 v2 v3 v4) := by
  unfold rxKey
  repeat' first
    | with_reducible assumption
    | with_reducible apply keeps_useKey
    | with_reducible apply h1
    | with_reducible rfl
    | with_reducible apply ChKeeps.of
    | with_reducible apply IslKeeps.of
    | (intro x; first | (refine (fun (hx : Keeps s0 x) => ?_) ?_; on_goal 2 => subst x) | skip)
    | lift_lets
    | split

theorem keeps_rxWrite {v1 v2 v3 v4 v5} (h1 : Keeps s0 v1) :
    Keeps s0 (rxWrite v1 v2 v3 v4 v5) := by
  unfold rxWrite
  repeat' first
    | with_reducible assumption
    | with_reducible apply keeps_memWrite
    | with_reducible apply h1
    | with_reducible rfl
    | with_reducible apply ChKeeps.of
    | with_reducible apply IslKeeps.of
    | (intro x; first | (refine (fun (hx : Keeps s0 x) => ?_) ?_; on_goal 2 => subst x) | skip)
    | lift_lets
    | split

theorem keeps_rxReadLines {v1 v2 v3 v4 v5 v6} (h5 : Keeps s0 v5) :
    Keeps s0 (rxReadLines v1 v2 v3 v4 v5 v6).2 := by
  revert h5
  fun_induction rxReadLines v1 v2 v3 v4 v5 v6
  all_goals try intro h5
  all_goals repeat' first
    | with_reducible assumption
    | with_reducible apply keeps_memRead
    | with_reducible refine of_snd (by assumption) ?_
    | with_reducible apply h5
    | apply_assumption (transparency := .reducible)
    | with_reducible rfl
    | with_reducible apply ChKeeps.of
    | with_reducible apply IslKeeps.of
    | (intro x; first | (refine (fun (hx : Keeps s0 x) => ?_) ?_; on_goal 2 => subst x) | skip)
    | lift_lets
    | split

theorem keeps_rxAtomic {v1 v2 v3 v4 v5 v6 v7 v8} (h1 : Keeps s0 v1) :
    Keeps s0 (rxAtomic v1 v2 v3 v4 v5 v6 v7 v8).2 := by
  unfold rxAtomic
  split
  · next heq => exact keeps_drawFree (of_snd heq (keeps_memRead h1))
  · next bs t heq =>
    have ht := of_snd heq (keeps_memRead h1)
    exact keeps_ite (fun _ => ht) (fun _ => keeps_memWrite ht)

theorem keeps_rxPerform {v1 v2 v3 v4 v5 v6} (h1 : Keeps s0 v1) :
    Keeps s0 (rxPerform v1 v2 v3 v4 v5 v6).2 := by
  unfold rxPerform
  repeat' first
    | with_reducible assumption
    | with_reducible apply keeps_rxWrite
    | with_reducible apply keeps_t0Write
    | with_reducible apply keeps_rxReadLines
    | with_reducible apply keeps_rxAtomic
    | with_reducible apply keeps_gateAdd
    | with_reducible apply keeps_publish
    | with_reducible refine of_snd (by assumption) ?_
    | with_reducible refine of_4of4 (by assumption) ?_
    | with_reducible apply h1
    | with_reducible rfl
    | with_reducible apply ChKeeps.of
    | with_reducible apply IslKeeps.of
    | (intro x; first | (refine (fun (hx : Keeps s0 x) => ?_) ?_; on_goal 2 => subst x) | skip)
    | lift_lets
    | split

theorem keeps_rxDup {v1 v2 v3} (h1 : Keeps s0 v1) :
    Keeps s0 (rxDup v1 v2 v3).1 := by
  unfold rxDup
  repeat' first
    | with_reducible assumption
    | with_reducible apply keeps_rxAnswer
    | with_reducible apply keeps_rxKey
    | with_reducible apply keeps_rxPerform
    | with_reducible apply keeps_awaitLines
    | with_reducible refine of_snd (by assumption) ?_
    | with_reducible apply h1
    | with_reducible rfl
    | with_reducible apply ChKeeps.of
    | with_reducible apply IslKeeps.of
    | (intro x; first | (refine (fun (hx : Keeps s0 x) => ?_) ?_; on_goal 2 => subst x) | skip)
    | lift_lets
    | split

theorem keeps_rxOpen {v1 v2 v3} (h1 : Keeps s0 v1) :
    KOP s0 (rxOpen v1 v2 v3) := by
  unfold rxOpen
  extract_lets k a o fresh
  have ha : Keeps s0 a := keeps_endAdm h1
  have hf : KOP s0 fresh := by
    subst fresh
    split
    · exact KOP.none
    · exact KOP.some ha
    · exact KOP.some ha
    · exact KOP.some (keeps_regionCount ha)
  split
  · split
    · exact hf
    · exact KOP.some h1
  · split
    · exact hf
    · exact KOP.some h1

theorem keeps_rxRefused {v1 v2 v3} (h1 : Keeps s0 v1) :
    Keeps s0 (rxRefused v1 v2 v3).2 := by
  unfold rxRefused
  repeat' first
    | with_reducible assumption
    | with_reducible apply keeps_drawFree
    | with_reducible refine of_snd (by assumption) ?_
    | with_reducible apply h1
    | with_reducible rfl
    | with_reducible apply ChKeeps.of
    | with_reducible apply IslKeeps.of
    | (intro x; first | (refine (fun (hx : Keeps s0 x) => ?_) ?_; on_goal 2 => subst x) | skip)
    | lift_lets
    | split

theorem keeps_addDup {v1 v2 v3 v4 v5 v6 v7 v8} (h1 : Keeps s0 v1) :
    Keeps s0 (addDup v1 v2 v3 v4 v5 v6 v7 v8) := by
  unfold addDup
  repeat' first
    | with_reducible assumption
    | with_reducible apply keeps_modConn
    | with_reducible apply h1
    | with_reducible rfl
    | with_reducible apply ChKeeps.of
    | with_reducible apply IslKeeps.of
    | (intro x; first | (refine (fun (hx : Keeps s0 x) => ?_) ?_; on_goal 2 => subst x) | skip)
    | lift_lets
    | split

theorem keeps_rxClose {v1 v2 v3 v4 v5} (h1 : Keeps s0 v1) :
    Keeps s0 (rxClose v1 v2 v3 v4 v5) := by
  unfold rxClose
  repeat' first
    | with_reducible assumption
    | with_reducible apply keeps_endAdm
    | with_reducible apply keeps_modConn
    | with_reducible apply keeps_rxAnswer
    | with_reducible apply keeps_addDup
    | with_reducible apply h1
    | with_reducible rfl
    | with_reducible apply ChKeeps.of
    | with_reducible apply IslKeeps.of
    | (intro x; first | (refine (fun (hx : Keeps s0 x) => ?_) ?_; on_goal 2 => subst x) | skip)
    | lift_lets
    | split

theorem keeps_rxNew {v1 v2 v3} (h1 : Keeps s0 v1) :
    Keeps s0 (rxNew v1 v2 v3).1 := by
  unfold rxNew
  repeat' first
    | with_reducible assumption
    | with_reducible apply keeps_rxOpen
    | with_reducible apply keeps_rxKey
    | with_reducible apply keeps_endAdm
    | with_reducible apply keeps_rxRefused
    | with_reducible apply keeps_rxClose
    | with_reducible apply keeps_modConn
    | with_reducible apply keeps_leaveLines
    | with_reducible apply keeps_rxPerform
    | with_reducible apply keeps_awaitLines
    | with_reducible refine of_someP (by assumption) ?_
    | with_reducible refine of_snd (by assumption) ?_
    | with_reducible apply h1
    | with_reducible rfl
    | with_reducible apply ChKeeps.of
    | with_reducible apply IslKeeps.of
    | (intro x; first | (refine (fun (hx : Keeps s0 x) => ?_) ?_; on_goal 2 => subst x) | (refine (fun (hx : Keeps s0 x.1) => ?_) ?_; on_goal 2 => subst x) | (refine (fun (hx : Keeps s0 x.2) => ?_) ?_; on_goal 2 => subst x) | (refine (fun (hx : Keeps s0 x.2.2) => ?_) ?_; on_goal 2 => subst x) | (refine (fun (hx : Keeps s0 x.2.1) => ?_) ?_; on_goal 2 => subst x) | skip)
    | split
    | (extract_lets -underBinder +onlyGivenNames x; first | (refine (fun (hx : Keeps s0 x) => ?_) ?_; on_goal 2 => subst x) | (refine (fun (hx : Keeps s0 x.1) => ?_) ?_; on_goal 2 => subst x) | (refine (fun (hx : Keeps s0 x.2) => ?_) ?_; on_goal 2 => subst x) | (refine (fun (hx : Keeps s0 x.2.2) => ?_) ?_; on_goal 2 => subst x) | (refine (fun (hx : Keeps s0 x.2.1) => ?_) ?_; on_goal 2 => subst x) | skip)

theorem keeps_rxTake {v1 v2 v3} (h1 : Keeps s0 v1) :
    Keeps s0 (rxTake v1 v2 v3).1 := by
  unfold rxTake
  repeat' first
    | with_reducible assumption
    | with_reducible apply keeps_rxDup
    | with_reducible apply keeps_rxNew
    | with_reducible refine of_fst (by assumption) ?_
    | with_reducible apply h1
    | with_reducible rfl
    | with_reducible apply ChKeeps.of
    | with_reducible apply IslKeeps.of
    | (intro x; first | (refine (fun (hx : Keeps s0 x) => ?_) ?_; on_goal 2 => subst x) | skip)
    | lift_lets
    | split

theorem keeps_modRx {v1 v2 v3} (h1 : Keeps s0 v1) :
    Keeps s0 (modRx v1 v2 v3) := by
  unfold modRx
  repeat' first
    | with_reducible assumption
    | with_reducible apply keeps_emit
    | with_reducible apply keeps_modLink
    | with_reducible apply h1
    | with_reducible rfl
    | with_reducible apply ChKeeps.of
    | with_reducible apply IslKeeps.of
    | (intro x; first | (refine (fun (hx : Keeps s0 x) => ?_) ?_; on_goal 2 => subst x) | skip)
    | lift_lets
    | split

theorem keeps_rxScan {v1 v2 v3 v4 v5} (h5 : Keeps s0 v5) :
    Keeps s0 (rxScan v1 v2 v3 v4 v5) := by
  revert h5
  fun_induction rxScan v1 v2 v3 v4 v5
  all_goals try intro h5
  all_goals repeat' first
    | with_reducible assumption
    | with_reducible apply keeps_rxTake
    | with_reducible apply keeps_leaveLines
    | with_reducible apply keeps_modRx
    | with_reducible refine of_fst (by assumption) ?_
    | with_reducible apply h5
    | apply_assumption (transparency := .reducible)
    | with_reducible rfl
    | with_reducible apply ChKeeps.of
    | with_reducible apply IslKeeps.of
    | (intro x; first | (refine (fun (hx : Keeps s0 x) => ?_) ?_; on_goal 2 => subst x) | skip)
    | lift_lets
    | split

theorem keeps_rxStep {v1 v2 v3 v4} (h1 : Keeps s0 v1) :
    Keeps s0 (rxStep v1 v2 v3 v4) := by
  unfold rxStep
  repeat' first
    | with_reducible assumption
    | with_reducible apply keeps_rxScan
    | with_reducible apply keeps_takeEnv
    | with_reducible apply h1
    | with_reducible rfl
    | with_reducible apply ChKeeps.of
    | with_reducible apply IslKeeps.of
    | (intro x; first | (refine (fun (hx : Keeps s0 x) => ?_) ?_; on_goal 2 => subst x) | skip)
    | lift_lets
    | split

theorem keeps_roceSteps {v1 v2 v3 v4} (h2 : Keeps s0 v2) :
    Keeps s0 (roceSteps v1 v2 v3 v4) := by
  revert h2
  fun_induction roceSteps v1 v2 v3 v4
  all_goals try intro h2
  all_goals repeat' first
    | with_reducible assumption
    | with_reducible apply keeps_rxStep
    | with_reducible apply h2
    | apply_assumption (transparency := .reducible)
    | with_reducible rfl
    | with_reducible apply ChKeeps.of
    | with_reducible apply IslKeeps.of
    | (intro x; first | (refine (fun (hx : Keeps s0 x) => ?_) ?_; on_goal 2 => subst x) | skip)
    | lift_lets
    | split

theorem keeps_linkErr {v1 v2 v3} (h1 : Keeps s0 v1) :
    Keeps s0 (linkErr v1 v2 v3) := by
  unfold linkErr
  repeat' first
    | with_reducible assumption
    | with_reducible apply keeps_modLink
    | with_reducible apply h1
    | with_reducible rfl
    | with_reducible apply ChKeeps.of
    | with_reducible apply IslKeeps.of
    | (intro x; first | (refine (fun (hx : Keeps s0 x) => ?_) ?_; on_goal 2 => subst x) | skip)
    | lift_lets
    | split

theorem keeps_roceWake {v1} (h1 : Keeps s0 v1) :
    Keeps s0 (roceWake v1) := by
  unfold roceWake
  repeat' first
    | with_reducible assumption
    | with_reducible apply keeps_forCh
    | with_reducible apply keeps_roceSteps
    | with_reducible apply h1
    | with_reducible rfl
    | with_reducible apply ChKeeps.of
    | with_reducible apply IslKeeps.of
    | (intro x; first | (refine (fun (hx : Keeps s0 x) => ?_) ?_; on_goal 2 => subst x) | skip)
    | lift_lets
    | split

theorem keeps_wbWake {v1 v2} (h1 : Keeps s0 v1) :
    Keeps s0 (wbWake v1 v2) := by
  unfold wbWake
  repeat' first
    | with_reducible assumption
    | with_reducible apply keeps_roceWake
    | with_reducible apply keeps_serveLines
    | with_reducible apply h1
    | with_reducible rfl
    | with_reducible apply ChKeeps.of
    | with_reducible apply IslKeeps.of
    | (intro x; first | (refine (fun (hx : Keeps s0 x) => ?_) ?_; on_goal 2 => subst x) | skip)
    | lift_lets
    | split

theorem keeps_rxArrive {v1 v2 v3 v4} (h1 : Keeps s0 v1) :
    Keeps s0 (rxArrive v1 v2 v3 v4) := by
  unfold rxArrive
  repeat' first
    | with_reducible assumption
    | with_reducible apply keeps_modRx
    | with_reducible apply keeps_modConn
    | with_reducible apply keeps_linkErr
    | with_reducible apply keeps_rxRefused
    | with_reducible apply keeps_rxAnswer
    | with_reducible apply keeps_roceSend
    | with_reducible apply keeps_sendPkts
    | with_reducible refine of_snd (by assumption) ?_
    | with_reducible apply h1
    | with_reducible rfl
    | with_reducible apply ChKeeps.of
    | with_reducible apply IslKeeps.of
    | (intro x; first | (refine (fun (hx : Keeps s0 x) => ?_) ?_; on_goal 2 => subst x) | skip)
    | lift_lets
    | split

theorem keeps_endAccess {v1 v2 v3} (h1 : Keeps s0 v1) (h2 : Keeps s0 v2) :
    Keeps s0 (endAccess v1 v2 v3) := by
  unfold endAccess
  repeat' first
    | with_reducible assumption
    | with_reducible apply keeps_roceWake
    | with_reducible apply keeps_leaveLines
    | with_reducible apply h1
    | with_reducible apply h2
    | with_reducible rfl
    | with_reducible apply ChKeeps.of
    | with_reducible apply IslKeeps.of
    | (intro x; first | (refine (fun (hx : Keeps s0 x) => ?_) ?_; on_goal 2 => subst x) | skip)
    | lift_lets
    | split

theorem keeps_onLines {v1 v2 v3 v4 v5} (h1 : Keeps s0 v1) (h5 : ∀ x0, Keeps s0 x0 → Keeps s0 (v5 x0)) :
    Keeps s0 (onLines v1 v2 v3 v4 v5) := by
  unfold onLines
  repeat' first
    | with_reducible assumption
    | with_reducible apply keeps_endAccess
    | with_reducible apply keeps_awaitLines
    | with_reducible apply keeps_setWait
    | with_reducible apply h1
    | with_reducible apply h5
    | with_reducible rfl
    | with_reducible apply ChKeeps.of
    | with_reducible apply IslKeeps.of
    | (intro x; first | (refine (fun (hx : Keeps s0 x) => ?_) ?_; on_goal 2 => subst x) | skip)
    | lift_lets
    | split

theorem keeps_noteBadConn {v1 v2 v3} (h1 : Keeps s0 v1) :
    Keeps s0 (noteBadConn v1 v2 v3) := by
  unfold noteBadConn
  repeat' first
    | with_reducible assumption
    | with_reducible apply keeps_linkErr
    | with_reducible apply h1
    | with_reducible rfl
    | with_reducible apply ChKeeps.of
    | with_reducible apply IslKeeps.of
    | (intro x; first | (refine (fun (hx : Keeps s0 x) => ?_) ?_; on_goal 2 => subst x) | skip)
    | lift_lets
    | split

end Sys2Proof.Laws
end

