-- ==== Sys2Proof/Laws/KeepsFetchCmds.lean ====
section
/-! SUPPORT. `Keeps` of the definitions of Sys2Proof/Machine/FetchCmds.lean. -/

namespace Sys2Proof.Laws
open Sys2Proof Sys2Proof.Machine

variable {s0 : State}

theorem keeps_wbEnd {v1 v2} (h1 : Keeps s0 v1) :
    Keeps s0 (wbEnd v1 v2) := by
  unfold wbEnd
  repeat' first
    | with_reducible assumption
    | with_reducible apply keeps_modObj
    | with_reducible apply h1
    | with_reducible rfl
    | with_reducible apply ChKeeps.of
    | with_reducible apply IslKeeps.of
    | (intro x; first | (refine (fun (hx : Keeps s0 x) => ?_) ?_; on_goal 2 => subst x) | skip)
    | lift_lets
    | split

theorem keeps_setBusy {v1 v2 v3 v4} (h1 : Keeps s0 v1) :
    Keeps s0 (setBusy v1 v2 v3 v4) := by
  unfold setBusy
  repeat' first
    | with_reducible assumption
    | with_reducible apply keeps_setHome
    | with_reducible apply h1
    | with_reducible rfl
    | with_reducible apply ChKeeps.of
    | with_reducible apply IslKeeps.of
    | (intro x; first | (refine (fun (hx : Keeps s0 x) => ?_) ?_; on_goal 2 => subst x) | skip)
    | lift_lets
    | split

theorem keeps_wbHand {v1 v2 v3} (h1 : Keeps s0 v1) :
    Keeps s0 (wbHand v1 v2 v3) := by
  unfold wbHand
  extract_lets h s
  have hs : Keeps s0 s := keeps_useKey h1
  clear_value s
  refine keeps_ite (fun _ => keeps_wbEnd (keeps_ite (fun _ => hs) (fun _ => keeps_setBusy hs))) (fun _ => ?_)
  refine keeps_ite (fun _ => keeps_ite (fun _ => keeps_wbEnd (keeps_modObj hs)) (fun _ => ?_)) (fun _ => keeps_ite (fun _ => keeps_wbEnd hs) (fun _ =>
    keeps_ite (fun _ => keeps_wbEnd (keeps_dropHome hs)) (fun _ => keeps_ite (fun _ => keeps_wbEnd (keeps_setHome hs)) (fun _ => ?_))))
  · refine keeps_getD (fun t e => ?_) hs
    obtain ⟨u, hu, rfl⟩ := Option.map_eq_some_iff.1 e
    exact keeps_wbEnd (of_some hu (keeps_handUnit hs))
  · refine keeps_getD (fun t e => ?_) hs
    obtain ⟨u, hu, rfl⟩ := Option.map_eq_some_iff.1 e
    exact keeps_wbEnd (keeps_setBusy (of_some hu (keeps_handUnit hs)))

theorem keeps_wbBegin {v1 v2 v3} (h1 : Keeps s0 v1) :
    Keeps s0 (wbBegin v1 v2 v3) := by
  unfold wbBegin
  repeat' first
    | with_reducible assumption
    | with_reducible apply keeps_wbHand
    | with_reducible apply keeps_modObj
    | with_reducible apply h1
    | with_reducible rfl
    | with_reducible apply ChKeeps.of
    | with_reducible apply IslKeeps.of
    | (intro x; first | (refine (fun (hx : Keeps s0 x) => ?_) ?_; on_goal 2 => subst x) | (refine (fun (hx : Keeps s0 x.1) => ?_) ?_; on_goal 2 => subst x) | (refine (fun (hx : Keeps s0 x.2) => ?_) ?_; on_goal 2 => subst x) | (refine (fun (hx : Keeps s0 x.2.2) => ?_) ?_; on_goal 2 => subst x) | (refine (fun (hx : Keeps s0 x.2.1) => ?_) ?_; on_goal 2 => subst x) | skip)
    | (extract_lets -underBinder +onlyGivenNames x; first | (refine (fun (hx : Keeps s0 x) => ?_) ?_; on_goal 2 => subst x) | (refine (fun (hx : Keeps s0 x.1) => ?_) ?_; on_goal 2 => subst x) | (refine (fun (hx : Keeps s0 x.2) => ?_) ?_; on_goal 2 => subst x) | (refine (fun (hx : Keeps s0 x.2.2) => ?_) ?_; on_goal 2 => subst x) | (refine (fun (hx : Keeps s0 x.2.1) => ?_) ?_; on_goal 2 => subst x) | skip)
    | split

theorem keeps_fetchEnd {v1 v2 v3} (h1 : Keeps s0 v1.st) :
    Keeps s0 (fetchEnd v1 v2 v3) := by
  unfold fetchEnd
  repeat' first
    | with_reducible assumption
    | with_reducible apply keeps_retire
    | with_reducible exact Keeps.refl _
    | with_reducible apply h1
    | with_reducible rfl
    | with_reducible apply ChKeeps.of
    | with_reducible apply IslKeeps.of
    | (intro x; first | (refine (fun (hx : Keeps s0 x) => ?_) ?_; on_goal 2 => subst x) | skip)
    | lift_lets
    | split

theorem keeps_fetchPage {v1 v2 v3 v4 v5 v6} (h4 : Keeps s0 v4.st) :
    Keeps s0 (fetchPage v1 v2 v3 v4 v5 v6).st := by
  unfold fetchPage
  repeat' first
    | with_reducible assumption
    | with_reducible apply keeps_useKey
    | with_reducible apply keeps_readPage
    | with_reducible apply keeps_t0Write
    | with_reducible apply keeps_loseRead
    | with_reducible exact Keeps.refl _
    | with_reducible refine of_snd (by assumption) ?_
    | with_reducible apply h4
    | with_reducible rfl
    | with_reducible apply ChKeeps.of
    | with_reducible apply IslKeeps.of
    | (intro x; first | (refine (fun (hx : Keeps s0 x) => ?_) ?_; on_goal 2 => subst x) | skip)
    | lift_lets
    | split

theorem keeps_fetchFold {g : FetchRun → Nat → FetchRun} {l : List Nat} {a : FetchRun} (hg : ∀ a j, Keeps s0 a.st → Keeps s0 (g a j).st)
    (h : Keeps s0 a.st) : Keeps s0 (l.foldl g a).st := by
  induction l generalizing a with
  | nil => exact h
  | cons x xs ih => exact ih (hg _ _ h)

theorem keeps_fetchSeq {v1 v2 v3 v4 v5} (h1 : Keeps s0 v1) :
    Keeps s0 (fetchSeq v1 v2 v3 v4 v5) := by
  unfold fetchSeq
  extract_lets e o layer head lo n
  refine keeps_ite (fun _ => keeps_retireSt h1) (fun _ => keeps_ite (fun _ => keeps_retireSt h1) (fun _ => ?_))
  exact keeps_fetchEnd (keeps_fetchFold (fun a j h => keeps_fetchPage h) h1)

theorem keeps_wbPop {v1 v2} (h1 : Keeps s0 v1) :
    Keeps s0 (wbPop v1 v2) := by
  unfold wbPop
  repeat' first
    | with_reducible assumption
    | with_reducible apply keeps_modObj
    | with_reducible apply h1
    | with_reducible rfl
    | with_reducible apply ChKeeps.of
    | with_reducible apply IslKeeps.of
    | (intro x; first | (refine (fun (hx : Keeps s0 x) => ?_) ?_; on_goal 2 => subst x) | skip)
    | lift_lets
    | split

theorem keeps_takeRegion {v1 v2 v3} (h1 : Keeps s0 v1) :
    Keeps s0 (takeRegion v1 v2 v3) := by
  unfold takeRegion
  repeat' first
    | with_reducible assumption
    | with_reducible apply keeps_wbPop
    | with_reducible apply keeps_endAccess
    | with_reducible apply keeps_useKey
    | with_reducible apply keeps_awaitLines
    | with_reducible apply keeps_modObj
    | with_reducible apply keeps_wbBegin
    | with_reducible apply h1
    | with_reducible rfl
    | with_reducible apply ChKeeps.of
    | with_reducible apply IslKeeps.of
    | (intro x; first | (refine (fun (hx : Keeps s0 x) => ?_) ?_; on_goal 2 => subst x) | (refine (fun (hx : Keeps s0 x.1) => ?_) ?_; on_goal 2 => subst x) | (refine (fun (hx : Keeps s0 x.2) => ?_) ?_; on_goal 2 => subst x) | (refine (fun (hx : Keeps s0 x.2.2) => ?_) ?_; on_goal 2 => subst x) | (refine (fun (hx : Keeps s0 x.2.1) => ?_) ?_; on_goal 2 => subst x) | skip)
    | split
    | (extract_lets -underBinder +onlyGivenNames x; first | (refine (fun (hx : Keeps s0 x) => ?_) ?_; on_goal 2 => subst x) | (refine (fun (hx : Keeps s0 x.1) => ?_) ?_; on_goal 2 => subst x) | (refine (fun (hx : Keeps s0 x.2) => ?_) ?_; on_goal 2 => subst x) | (refine (fun (hx : Keeps s0 x.2.2) => ?_) ?_; on_goal 2 => subst x) | (refine (fun (hx : Keeps s0 x.2.1) => ?_) ?_; on_goal 2 => subst x) | skip)

theorem keeps_takePiece {v1 v2 v3} (h1 : Keeps s0 v1) :
    Keeps s0 (takePiece v1 v2 v3) := by
  unfold takePiece
  repeat' first
    | with_reducible assumption
    | with_reducible apply keeps_wbPop
    | with_reducible apply keeps_useKey
    | with_reducible apply keeps_dropHome
    | with_reducible apply keeps_setHome
    | with_reducible apply keeps_recoverPieces
    | with_reducible apply keeps_losePage
    | with_reducible apply keeps_setPage
    | with_reducible apply keeps_setBusy
    | with_reducible apply keeps_wbBegin
    | with_reducible refine of_some (by assumption) ?_
    | with_reducible apply h1
    | with_reducible rfl
    | with_reducible apply ChKeeps.of
    | with_reducible apply IslKeeps.of
    | (intro x; first | (refine (fun (hx : Keeps s0 x) => ?_) ?_; on_goal 2 => subst x) | skip)
    | lift_lets
    | split

theorem keeps_execWriteBackTake {v1 v2 v3 v4} (h4 : Keeps s0 v4) :
    KX s0 (execWriteBackTake v1 v2 v3 v4) := by
  unfold execWriteBackTake
  repeat' first
    | with_reducible assumption
    | with_reducible apply keeps_wbHand
    | with_reducible apply keeps_takeEnv
    | with_reducible apply keeps_wbWake
    | with_reducible apply keeps_takeRegion
    | with_reducible apply keeps_takePiece
    | with_reducible refine KX.next ?_
    | with_reducible apply h4
    | with_reducible rfl
    | with_reducible apply ChKeeps.of
    | with_reducible apply IslKeeps.of
    | (intro x; first | (refine (fun (hx : Keeps s0 x) => ?_) ?_; on_goal 2 => subst x) | (refine (fun (hx : Keeps s0 x.1) => ?_) ?_; on_goal 2 => subst x) | (refine (fun (hx : Keeps s0 x.2) => ?_) ?_; on_goal 2 => subst x) | (refine (fun (hx : Keeps s0 x.2.2) => ?_) ?_; on_goal 2 => subst x) | (refine (fun (hx : Keeps s0 x.2.1) => ?_) ?_; on_goal 2 => subst x) | skip)
    | split
    | (extract_lets -underBinder +onlyGivenNames x; first | (refine (fun (hx : Keeps s0 x) => ?_) ?_; on_goal 2 => subst x) | (refine (fun (hx : Keeps s0 x.1) => ?_) ?_; on_goal 2 => subst x) | (refine (fun (hx : Keeps s0 x.2) => ?_) ?_; on_goal 2 => subst x) | (refine (fun (hx : Keeps s0 x.2.2) => ?_) ?_; on_goal 2 => subst x) | (refine (fun (hx : Keeps s0 x.2.1) => ?_) ?_; on_goal 2 => subst x) | skip)

theorem keeps_fetchBlock {v1 v2 v3 v4 v5} (h1 : Keeps s0 v1) :
    Keeps s0 (fetchBlock v1 v2 v3 v4 v5) := by
  unfold fetchBlock
  repeat' first
    | with_reducible assumption
    | with_reducible apply keeps_retireSt
    | with_reducible apply keeps_fetchEnd
    | with_reducible apply keeps_fetchPage
    | with_reducible apply h1
    | with_reducible rfl
    | with_reducible apply ChKeeps.of
    | with_reducible apply IslKeeps.of
    | (intro x; first | (refine (fun (hx : Keeps s0 x) => ?_) ?_; on_goal 2 => subst x) | skip)
    | lift_lets
    | split

theorem keeps_persistRegion {v1 v2 v3 v4} (h1 : Keeps s0 v1) :
    Keeps s0 (persistRegion v1 v2 v3 v4) := by
  unfold persistRegion
  repeat' first
    | with_reducible assumption
    | with_reducible apply keeps_retireSt
    | with_reducible apply keeps_handImage
    | with_reducible apply keeps_useKey
    | with_reducible apply keeps_persistEnd
    | with_reducible apply keeps_onLines
    | with_reducible apply keeps_persistPieces
    | with_reducible apply keeps_stay
    | with_reducible apply keeps_addEvicted
    | with_reducible apply keeps_writeImage
    | with_reducible refine of_progWait (by assumption) ?_
    | with_reducible refine of_progRefuse (by assumption) ?_
    | with_reducible refine of_progOk (by assumption) ?_
    | with_reducible apply h1
    | with_reducible rfl
    | with_reducible apply ChKeeps.of
    | with_reducible apply IslKeeps.of
    | (intro x; first | (refine (fun (hx : Keeps s0 x) => ?_) ?_; on_goal 2 => subst x) | skip)
    | lift_lets
    | split

theorem keeps_execPersist {v1 v2 v3 v4} (h4 : Keeps s0 v4) :
    KX s0 (execPersist v1 v2 v3 v4) := by
  unfold execPersist
  repeat' first
    | with_reducible assumption
    | with_reducible apply keeps_underOwn
    | with_reducible apply keeps_takeEnv
    | with_reducible apply keeps_persistWaited
    | with_reducible apply keeps_runHead
    | with_reducible apply keeps_retireSt
    | with_reducible apply keeps_admitUse
    | with_reducible apply keeps_persistRun
    | with_reducible apply keeps_onBlock
    | with_reducible apply keeps_persistRegion
    | with_reducible refine KX.next ?_
    | with_reducible apply h4
    | with_reducible rfl
    | with_reducible apply ChKeeps.of
    | with_reducible apply IslKeeps.of
    | (intro x; first | (refine (fun (hx : Keeps s0 x) => ?_) ?_; on_goal 2 => subst x) | skip)
    | lift_lets
    | split

theorem keeps_fetchRaw {v1 v2 v3 v4} (h1 : Keeps s0 v1) :
    Keeps s0 (fetchRaw v1 v2 v3 v4) := by
  unfold fetchRaw
  extract_lets fr n dest
  refine keeps_ite (fun _ => keeps_retireSt h1) (fun _ => keeps_fetchEnd (keeps_fetchFold (fun a j h => ?_) h1))
  extract_lets x b
  have hb : Keeps s0 b.st := keeps_mendRange h
  by_cases hc : rangeBad b.st v2 x 2048 = true
  · rw [if_pos hc]; exact hb
  · rw [if_neg hc]; exact keeps_t0Write hb

theorem keeps_execPrefetch {v1 v2 v3 v4} (h4 : Keeps s0 v4) :
    KX s0 (execPrefetch v1 v2 v3 v4) := by
  unfold execPrefetch
  repeat' first
    | with_reducible assumption
    | with_reducible apply keeps_runHead
    | with_reducible apply keeps_takeEnv
    | with_reducible apply keeps_retireSt
    | with_reducible apply keeps_admitUse
    | with_reducible apply keeps_fetchSeq
    | with_reducible apply keeps_fetchBlock
    | with_reducible apply keeps_fetchRaw
    | with_reducible refine KX.next ?_
    | with_reducible apply h4
    | with_reducible rfl
    | with_reducible apply ChKeeps.of
    | with_reducible apply IslKeeps.of
    | (intro x; first | (refine (fun (hx : Keeps s0 x) => ?_) ?_; on_goal 2 => subst x) | skip)
    | lift_lets
    | split

end Sys2Proof.Laws
end

