-- ==== Sys2Proof/Laws/KeepsRegisters.lean ====
section
/-! SUPPORT. `Keeps` of the definitions of Sys2Proof/Machine/Registers.lean. -/

namespace Sys2Proof.Laws
open Sys2Proof Sys2Proof.Machine

variable {s0 : State}

theorem keeps_setLayout {v1 v2} (h1 : Keeps s0 v1) :
    Keeps s0 (setLayout v1 v2) := by
  unfold setLayout
  repeat' first
    | with_reducible assumption
    | with_reducible apply keeps_modObj
    | with_reducible apply h1
    | with_reducible rfl
    | with_reducible apply ChKeeps.of
    | with_reducible apply IslKeeps.of
    | (intro x; first | (refine (fun (hx : Keeps s0 x) => ?_) ?_; on_goal 2 => subst x) | skip)
    | lift_lets
    | split

theorem keeps_rwlPut {v1 v2 v3 v4} (h1 : Keeps s0 v1) :
    Keeps s0 (rwlPut v1 v2 v3 v4) := by
  unfold rwlPut
  repeat' first
    | with_reducible assumption
    | with_reducible apply keeps_modCh
    | with_reducible apply keeps_modLd
    | with_reducible apply keeps_modIsland
    | with_reducible apply h1
    | with_reducible rfl
    | with_reducible apply ChKeeps.of
    | with_reducible apply IslKeeps.of
    | (intro x; first | (refine (fun (hx : Keeps s0 x) => ?_) ?_; on_goal 2 => subst x) | skip)
    | lift_lets
    | split

theorem keeps_chRegAccess {v1 v2 v3 v4} (h1 : Keeps s0 v1) :
    Keeps s0 (chRegAccess v1 v2 v3 v4).2 := by
  unfold chRegAccess
  repeat' first
    | with_reducible assumption
    | with_reducible apply keeps_modLd
    | with_reducible apply h1
    | with_reducible rfl
    | with_reducible apply ChKeeps.of
    | with_reducible apply IslKeeps.of
    | (intro x; first | (refine (fun (hx : Keeps s0 x) => ?_) ?_; on_goal 2 => subst x) | skip)
    | lift_lets
    | split

theorem keeps_layWord {v1 v2} (h1 : Keeps s0 v1) :
    Keeps s0 (layWord v1 v2) := by
  unfold layWord
  repeat' first
    | with_reducible assumption
    | with_reducible apply keeps_rwlPut
    | with_reducible apply h1
    | with_reducible rfl
    | with_reducible apply ChKeeps.of
    | with_reducible apply IslKeeps.of
    | (intro x; first | (refine (fun (hx : Keeps s0 x) => ?_) ?_; on_goal 2 => subst x) | skip)
    | lift_lets
    | split

end Sys2Proof.Laws
end

