-- ==== Sys2Proof/Laws/KeepsSlipCmds.lean ====
section
/-! SUPPORT. `Keeps` of the definitions of Sys2Proof/Machine/SlipCmds.lean. -/

namespace Sys2Proof.Laws
open Sys2Proof Sys2Proof.Machine

variable {s0 : State}

theorem keeps_slipWrites {v1 v2 v3 v4 v5 v6} (h2 : Keeps s0 v2) :
    Keeps s0 (slipWrites v1 v2 v3 v4 v5 v6) := by
  revert h2
  fun_induction slipWrites v1 v2 v3 v4 v5 v6
  all_goals try intro h2
  all_goals repeat' first
    | with_reducible assumption
    | with_reducible apply keeps_retire
    | with_reducible apply keeps_setWait
    | with_reducible apply keeps_memWrite
    | with_reducible apply h2
    | apply_assumption (transparency := .reducible)
    | with_reducible rfl
    | with_reducible apply ChKeeps.of
    | with_reducible apply IslKeeps.of
    | (intro x; first | (refine (fun (hx : Keeps s0 x) => ?_) ?_; on_goal 2 => subst x) | skip)
    | lift_lets
    | split

theorem keeps_slipGo {v1 v2 v3 v4} (h1 : Keeps s0 v1) :
    Keeps s0 (slipGo v1 v2 v3 v4) := by
  unfold slipGo
  repeat' first
    | with_reducible assumption
    | with_reducible apply keeps_retireSt
    | with_reducible apply keeps_useKey
    | with_reducible apply keeps_endAccess
    | with_reducible apply keeps_slipWrites
    | with_reducible apply keeps_awaitLines
    | with_reducible apply keeps_setWait
    | with_reducible apply keeps_getD
    | with_reducible apply h1
    | with_reducible rfl
    | with_reducible apply ChKeeps.of
    | with_reducible apply IslKeeps.of
    | (intro x; first | (refine (fun (hx : Keeps s0 x) => ?_) ?_; on_goal 2 => subst x) | skip)
    | lift_lets
    | split

theorem keeps_execFrameGuardClear {v1 v2 v3} (h3 : Keeps s0 v3) :
    KX s0 (execFrameGuardClear v1 v2 v3) := by
  unfold execFrameGuardClear
  repeat' first
    | with_reducible assumption
    | with_reducible apply keeps_underOwn
    | with_reducible apply keeps_appendGo
    | with_reducible apply keeps_slipGo
    | with_reducible refine KX.next ?_
    | with_reducible apply h3
    | with_reducible rfl
    | with_reducible apply ChKeeps.of
    | with_reducible apply IslKeeps.of
    | (intro x; first | (refine (fun (hx : Keeps s0 x) => ?_) ?_; on_goal 2 => subst x) | skip)
    | lift_lets
    | split

theorem keeps_slipKeys {v1 v2} (h1 : Keeps s0 v1) :
    Keeps s0 (slipKeys v1 v2) := by
  unfold slipKeys
  repeat' first
    | with_reducible assumption
    | with_reducible apply keeps_useKey
    | with_reducible apply keeps_foldl
    | with_reducible apply h1
    | with_reducible rfl
    | with_reducible apply ChKeeps.of
    | with_reducible apply IslKeeps.of
    | (intro x; first | (refine (fun (hx : Keeps s0 x) => ?_) ?_; on_goal 2 => subst x) | skip)
    | lift_lets
    | split

theorem keeps_opRead {v1 v2 v3 v4} (h1 : Keeps s0 v1) :
    Keeps s0 (opRead v1 v2 v3 v4).2 := by
  unfold opRead
  repeat' first
    | with_reducible assumption
    | with_reducible apply keeps_memRead
    | with_reducible exact KOP.none
    | with_reducible refine KOP.some ?_
    | with_reducible refine of_snd (by assumption) ?_
    | with_reducible apply h1
    | with_reducible rfl
    | with_reducible apply ChKeeps.of
    | with_reducible apply IslKeeps.of
    | (intro x; first | (refine (fun (hx : Keeps s0 x) => ?_) ?_; on_goal 2 => subst x) | skip)
    | lift_lets
    | split

theorem keeps_sourceLines {v1 v2 v3} (h3 : Keeps s0 v3) :
    Keeps s0 (sourceLines v1 v2 v3).2 := by
  revert h3
  fun_induction sourceLines v1 v2 v3
  all_goals try intro h3
  all_goals repeat' first
    | with_reducible assumption
    | with_reducible apply keeps_opRead
    | with_reducible exact KOP.none
    | with_reducible refine KOP.some ?_
    | with_reducible refine of_snd (by assumption) ?_
    | with_reducible apply h3
    | apply_assumption (transparency := .reducible)
    | with_reducible rfl
    | with_reducible apply ChKeeps.of
    | with_reducible apply IslKeeps.of
    | (intro x; first | (refine (fun (hx : Keeps s0 x) => ?_) ?_; on_goal 2 => subst x) | skip)
    | lift_lets
    | split

theorem keeps_opWrite {v1 v2 v3 v4} (h1 : Keeps s0 v1) :
    Keeps s0 (opWrite v1 v2 v3 v4) := by
  unfold opWrite
  repeat' first
    | with_reducible assumption
    | with_reducible apply keeps_t0Write
    | with_reducible apply keeps_memWrite
    | with_reducible apply h1
    | with_reducible rfl
    | with_reducible apply ChKeeps.of
    | with_reducible apply IslKeeps.of
    | (intro x; first | (refine (fun (hx : Keeps s0 x) => ?_) ?_; on_goal 2 => subst x) | skip)
    | lift_lets
    | split

theorem keeps_reduceLines {v1 v2 v3 v4 v5 v6 v7 v8 v9 v10} (h7 : Keeps s0 v7) (h8 : Keeps s0 v8) :
    Keeps s0 (reduceLines v1 v2 v3 v4 v5 v6 v7 v8 v9 v10).st := by
  revert h7 h8
  fun_induction reduceLines v1 v2 v3 v4 v5 v6 v7 v8 v9 v10
  all_goals try intro h7 h8
  all_goals repeat' first
    | with_reducible assumption
    | with_reducible apply keeps_sourceLines
    | with_reducible apply keeps_opWrite
    | with_reducible refine of_snd (by assumption) ?_
    | with_reducible apply h7
    | with_reducible apply h8
    | apply_assumption (transparency := .reducible)
    | with_reducible rfl
    | with_reducible apply ChKeeps.of
    | with_reducible apply IslKeeps.of
    | (intro x; first | (refine (fun (hx : Keeps s0 x) => ?_) ?_; on_goal 2 => subst x) | skip)
    | lift_lets
    | split

theorem keeps_slipEnd {v1 v2 v3 v4} (h1 : Keeps s0 v1.st) :
    Keeps s0 (slipEnd v1 v2 v3 v4) := by
  unfold slipEnd
  repeat' first
    | with_reducible assumption
    | with_reducible apply keeps_retire
    | with_reducible apply keeps_t0Write
    | with_reducible apply keeps_slipWrites
    | with_reducible exact Keeps.refl _
    | with_reducible apply h1
    | with_reducible rfl
    | with_reducible apply ChKeeps.of
    | with_reducible apply IslKeeps.of
    | (intro x; first | (refine (fun (hx : Keeps s0 x) => ?_) ?_; on_goal 2 => subst x) | skip)
    | lift_lets
    | split

theorem keeps_slipAdmit {v1 v2 v3 v4 v5} (h1 : Keeps s0 v1) (h5 : ∀ x0, Keeps s0 x0 → Keeps s0 (v5 x0)) :
    Keeps s0 (slipAdmit v1 v2 v3 v4 v5) := by
  unfold slipAdmit
  repeat' first
    | with_reducible assumption
    | with_reducible apply keeps_retireSt
    | with_reducible apply keeps_setWait
    | with_reducible apply keeps_ringCount
    | with_reducible apply keeps_foldl
    | with_reducible apply h1
    | with_reducible apply h5
    | with_reducible rfl
    | with_reducible apply ChKeeps.of
    | with_reducible apply IslKeeps.of
    | (intro x; first | (refine (fun (hx : Keeps s0 x) => ?_) ?_; on_goal 2 => subst x) | skip)
    | lift_lets
    | split

theorem keeps_slipRun {v1 v2 v3 v4 v5 v6 v7 v8} (h1 : Keeps s0 v1) (h8 : ∀ x0, Keeps s0 x0 → Keeps s0 (v8 x0).st) :
    Keeps s0 (slipRun v1 v2 v3 v4 v5 v6 v7 v8) := by
  unfold slipRun
  repeat' first
    | with_reducible assumption
    | with_reducible apply keeps_onLines
    | with_reducible apply keeps_slipKeys
    | with_reducible apply keeps_retireSt
    | with_reducible apply keeps_stay
    | with_reducible apply keeps_slipEnd
    | with_reducible apply keeps_slipGo
    | with_reducible apply keeps_slipAdmit
    | with_reducible apply h1
    | with_reducible apply h8
    | with_reducible rfl
    | with_reducible apply ChKeeps.of
    | with_reducible apply IslKeeps.of
    | (intro x; first | (refine (fun (hx : Keeps s0 x) => ?_) ?_; on_goal 2 => subst x) | skip)
    | lift_lets
    | split

theorem keeps_slipEnv {v1 v2 v3} (h1 : Keeps s0 v1) :
    Keeps s0 (slipEnv v1 v2 v3) := by
  unfold slipEnv
  repeat' first
    | with_reducible assumption
    | with_reducible apply keeps_addLost
    | with_reducible apply keeps_rotKeys
    | with_reducible apply keeps_foldl
    | with_reducible apply h1
    | with_reducible rfl
    | with_reducible apply ChKeeps.of
    | with_reducible apply IslKeeps.of
    | (intro x; first | (refine (fun (hx : Keeps s0 x) => ?_) ?_; on_goal 2 => subst x) | skip)
    | lift_lets
    | split

theorem keeps_compareLines {v1 v2 v3 v4 v5} (h5 : Keeps s0 v5) :
    Keeps s0 (compareLines v1 v2 v3 v4 v5).1 := by
  revert h5
  fun_induction compareLines v1 v2 v3 v4 v5
  all_goals try intro h5
  all_goals repeat' first
    | with_reducible assumption
    | with_reducible apply keeps_opRead
    | with_reducible refine of_snd (by assumption) ?_
    | with_reducible apply h5
    | apply_assumption (transparency := .reducible)
    | with_reducible rfl
    | with_reducible apply ChKeeps.of
    | with_reducible apply IslKeeps.of
    | (intro x; first | (refine (fun (hx : Keeps s0 x) => ?_) ?_; on_goal 2 => subst x) | skip)
    | lift_lets
    | split

theorem keeps_execSlipCompare {v1 v2 v3 v4} (h4 : Keeps s0 v4) :
    KX s0 (execSlipCompare v1 v2 v3 v4) := by
  unfold execSlipCompare
  repeat' first
    | with_reducible assumption
    | with_reducible apply keeps_runHead
    | with_reducible apply keeps_retireSt
    | with_reducible apply keeps_slipRun
    | with_reducible apply keeps_slipEnv
    | with_reducible apply keeps_compareLines
    | with_reducible refine KX.next ?_
    | with_reducible refine of_fst (by assumption) ?_
    | with_reducible apply h4
    | with_reducible rfl
    | with_reducible apply ChKeeps.of
    | with_reducible apply IslKeeps.of
    | (intro x; first | (refine (fun (hx : Keeps s0 x) => ?_) ?_; on_goal 2 => subst x) | skip)
    | lift_lets
    | split

theorem keeps_mergeRows {v1 v2 v3 v4 v5 v6 v7 v8} (h1 : Keeps s0 v1) :
    Keeps s0 (mergeRows v1 v2 v3 v4 v5 v6 v7 v8).2.2 := by
  unfold mergeRows
  repeat' first
    | with_reducible assumption
    | with_reducible apply keeps_putRow
    | with_reducible apply keeps_foldl
    | with_reducible apply keeps_foldl_fst
    | with_reducible apply keeps_foldl_thd
    | with_reducible refine of_fst (by assumption) ?_
    | with_reducible apply h1
    | with_reducible rfl
    | with_reducible apply ChKeeps.of
    | with_reducible apply IslKeeps.of
    | (intro x; first | (refine (fun (hx : Keeps s0 x) => ?_) ?_; on_goal 2 => subst x) | (refine (fun (hx : Keeps s0 x.1) => ?_) ?_; on_goal 2 => subst x) | (refine (fun (hx : Keeps s0 x.2) => ?_) ?_; on_goal 2 => subst x) | (refine (fun (hx : Keeps s0 x.2.2) => ?_) ?_; on_goal 2 => subst x) | (refine (fun (hx : Keeps s0 x.2.1) => ?_) ?_; on_goal 2 => subst x) | skip)
    | lift_lets
    | split

theorem keeps_execMerge {v1 v2 v3 v4} (h4 : Keeps s0 v4) :
    KX s0 (execMerge v1 v2 v3 v4) := by
  unfold execMerge
  repeat' first
    | with_reducible assumption
    | with_reducible apply keeps_runHead
    | with_reducible apply keeps_retireSt
    | with_reducible apply keeps_retire
    | with_reducible apply keeps_mergeRows
    | with_reducible apply keeps_padTile
    | with_reducible refine KX.next ?_
    | with_reducible refine of_thd (by assumption) ?_
    | with_reducible apply h4
    | with_reducible rfl
    | with_reducible apply ChKeeps.of
    | with_reducible apply IslKeeps.of
    | (intro x; first | (refine (fun (hx : Keeps s0 x) => ?_) ?_; on_goal 2 => subst x) | (refine (fun (hx : Keeps s0 x.1) => ?_) ?_; on_goal 2 => subst x) | (refine (fun (hx : Keeps s0 x.2) => ?_) ?_; on_goal 2 => subst x) | (refine (fun (hx : Keeps s0 x.2.2) => ?_) ?_; on_goal 2 => subst x) | (refine (fun (hx : Keeps s0 x.2.1) => ?_) ?_; on_goal 2 => subst x) | skip)
    | (extract_lets -underBinder +onlyGivenNames x; first | (refine (fun (hx : Keeps s0 x) => ?_) ?_; on_goal 2 => subst x) | (refine (fun (hx : Keeps s0 x.1) => ?_) ?_; on_goal 2 => subst x) | (refine (fun (hx : Keeps s0 x.2) => ?_) ?_; on_goal 2 => subst x) | (refine (fun (hx : Keeps s0 x.2.2) => ?_) ?_; on_goal 2 => subst x) | (refine (fun (hx : Keeps s0 x.2.1) => ?_) ?_; on_goal 2 => subst x) | skip)
    | split

theorem keeps_readLines {v1 v2 v3 v4 v5} (h4 : Keeps s0 v4) :
    Keeps s0 (readLines v1 v2 v3 v4 v5).2.2 := by
  revert h4
  fun_induction readLines v1 v2 v3 v4 v5
  all_goals try intro h4
  all_goals repeat' first
    | with_reducible assumption
    | with_reducible apply keeps_opRead
    | with_reducible refine of_snd (by assumption) ?_
    | with_reducible apply h4
    | apply_assumption (transparency := .reducible)
    | with_reducible rfl
    | with_reducible apply ChKeeps.of
    | with_reducible apply IslKeeps.of
    | (intro x; first | (refine (fun (hx : Keeps s0 x) => ?_) ?_; on_goal 2 => subst x) | skip)
    | lift_lets
    | split

theorem keeps_execSlipCopy {v1 v2 v3 v4} (h4 : Keeps s0 v4) :
    KX s0 (execSlipCopy v1 v2 v3 v4) := by
  unfold execSlipCopy
  repeat' first
    | with_reducible assumption
    | with_reducible apply keeps_runHead
    | with_reducible apply keeps_retireSt
    | with_reducible apply keeps_slipRun
    | with_reducible apply keeps_slipEnv
    | with_reducible apply keeps_readLines
    | with_reducible refine KX.next ?_
    | with_reducible refine of_thd (by assumption) ?_
    | with_reducible apply h4
    | with_reducible rfl
    | with_reducible apply ChKeeps.of
    | with_reducible apply IslKeeps.of
    | (intro x; first | (refine (fun (hx : Keeps s0 x) => ?_) ?_; on_goal 2 => subst x) | skip)
    | lift_lets
    | split

theorem keeps_execSlipPublish {v1 v2 v3} (h3 : Keeps s0 v3) :
    KX s0 (execSlipPublish v1 v2 v3) := by
  unfold execSlipPublish
  repeat' first
    | with_reducible assumption
    | with_reducible apply keeps_runHead
    | with_reducible apply keeps_retireSt
    | with_reducible apply keeps_slipAdmit
    | with_reducible apply keeps_publish
    | with_reducible apply keeps_t0Write
    | with_reducible apply keeps_retire
    | with_reducible refine KX.next ?_
    | with_reducible refine of_4of4 (by assumption) ?_
    | with_reducible apply h3
    | with_reducible rfl
    | with_reducible apply ChKeeps.of
    | with_reducible apply IslKeeps.of
    | (intro x; first | (refine (fun (hx : Keeps s0 x) => ?_) ?_; on_goal 2 => subst x) | skip)
    | lift_lets
    | split

theorem keeps_execSlipReduce {v1 v2 v3 v4} (h4 : Keeps s0 v4) :
    KX s0 (execSlipReduce v1 v2 v3 v4) := by
  unfold execSlipReduce
  refine KX.next (keeps_runHead h4 (fun d t ht => ?_))
  extract_lets k list n op u es vs run
  have hr : ∀ x, Keeps s0 x → Keeps s0 (run x) := fun x hx => keeps_slipRun (keeps_slipEnv hx) (fun y hy => keeps_reduceLines hy hy)
  clear_value run
  refine keeps_ite (fun _ => hr _ ht) (fun _ => keeps_ite (fun _ => keeps_retireSt ht) (fun _ => ?_))
  split
  · exact keeps_retire ht
  · exact hr _ ht

theorem keeps_execSlipAtomic {v1 v2 v3 v4} (h4 : Keeps s0 v4) :
    KX s0 (execSlipAtomic v1 v2 v3 v4) := by
  unfold execSlipAtomic
  repeat' first
    | with_reducible assumption
    | with_reducible apply keeps_runHead
    | with_reducible apply keeps_retireSt
    | with_reducible apply keeps_slipRun
    | with_reducible apply keeps_slipEnv
    | with_reducible apply keeps_opRead
    | with_reducible apply keeps_t0Write
    | with_reducible refine KX.next ?_
    | with_reducible refine of_snd (by assumption) ?_
    | with_reducible apply h4
    | with_reducible rfl
    | with_reducible apply ChKeeps.of
    | with_reducible apply IslKeeps.of
    | (intro x; first | (refine (fun (hx : Keeps s0 x) => ?_) ?_; on_goal 2 => subst x) | (refine (fun (hx : Keeps s0 x.1) => ?_) ?_; on_goal 2 => subst x) | (refine (fun (hx : Keeps s0 x.2) => ?_) ?_; on_goal 2 => subst x) | (refine (fun (hx : Keeps s0 x.2.2) => ?_) ?_; on_goal 2 => subst x) | (refine (fun (hx : Keeps s0 x.2.1) => ?_) ?_; on_goal 2 => subst x) | skip)
    | (extract_lets -underBinder +onlyGivenNames x; first | (refine (fun (hx : Keeps s0 x) => ?_) ?_; on_goal 2 => subst x) | (refine (fun (hx : Keeps s0 x.1) => ?_) ?_; on_goal 2 => subst x) | (refine (fun (hx : Keeps s0 x.2) => ?_) ?_; on_goal 2 => subst x) | (refine (fun (hx : Keeps s0 x.2.2) => ?_) ?_; on_goal 2 => subst x) | (refine (fun (hx : Keeps s0 x.2.1) => ?_) ?_; on_goal 2 => subst x) | skip)
    | split

theorem keeps_execSlipFill {v1 v2 v3 v4} (h4 : Keeps s0 v4) :
    KX s0 (execSlipFill v1 v2 v3 v4) := by
  unfold execSlipFill
  repeat' first
    | with_reducible assumption
    | with_reducible apply keeps_runHead
    | with_reducible apply keeps_retireSt
    | with_reducible apply keeps_slipRun
    | with_reducible apply keeps_slipEnv
    | with_reducible refine KX.next ?_
    | with_reducible apply h4
    | with_reducible rfl
    | with_reducible apply ChKeeps.of
    | with_reducible apply IslKeeps.of
    | (intro x; first | (refine (fun (hx : Keeps s0 x) => ?_) ?_; on_goal 2 => subst x) | skip)
    | lift_lets
    | split

end Sys2Proof.Laws
end

