-- ==== Sys2Proof/Laws/KeepsKilnOps.lean ====
section
/-! SUPPORT. `Keeps` of the definitions of Sys2Proof/Machine/KilnOps.lean. -/

namespace Sys2Proof.Laws
open Sys2Proof Sys2Proof.Machine

variable {s0 : State}

theorem keeps_mbOut {v1 v2 v3 v4 v5} (h1 : Keeps s0 v1) :
    Keeps s0 (mbOut v1 v2 v3 v4 v5) := by
  unfold mbOut
  repeat' first
    | with_reducible assumption
    | with_reducible apply keeps_mbResult
    | with_reducible apply h1
    | with_reducible rfl
    | with_reducible apply ChKeeps.of
    | with_reducible apply IslKeeps.of
    | (intro x; first | (refine (fun (hx : Keeps s0 x) => ?_) ?_; on_goal 2 => subst x) | skip)
    | lift_lets
    | split

theorem keeps_mbSt {v1 v2 v3 v4} (h1 : Keeps s0 v1) :
    Keeps s0 (mbSt v1 v2 v3 v4) := by
  unfold mbSt
  repeat' first
    | with_reducible assumption
    | with_reducible apply keeps_mbOut
    | with_reducible apply h1
    | with_reducible rfl
    | with_reducible apply ChKeeps.of
    | with_reducible apply IslKeeps.of
    | (intro x; first | (refine (fun (hx : Keeps s0 x) => ?_) ?_; on_goal 2 => subst x) | skip)
    | lift_lets
    | split

theorem keeps_mbInvalid {v1 v2 v3} (h1 : Keeps s0 v1) :
    Keeps s0 (mbInvalid v1 v2 v3) := by
  unfold mbInvalid
  repeat' first
    | with_reducible assumption
    | with_reducible apply keeps_mbSt
    | with_reducible apply h1
    | with_reducible rfl
    | with_reducible apply ChKeeps.of
    | with_reducible apply IslKeeps.of
    | (intro x; first | (refine (fun (hx : Keeps s0 x) => ?_) ?_; on_goal 2 => subst x) | skip)
    | lift_lets
    | split

theorem keeps_dropAnswers {v1 v2} (h1 : Keeps s0 v1) :
    Keeps s0 (dropAnswers v1 v2) := by
  unfold dropAnswers
  repeat' first
    | with_reducible assumption
    | with_reducible apply keeps_forCh
    | with_reducible apply keeps_modRefPort
    | with_reducible apply h1
    | with_reducible rfl
    | with_reducible apply ChKeeps.of
    | with_reducible apply IslKeeps.of
    | (intro x; first | (refine (fun (hx : Keeps s0 x) => ?_) ?_; on_goal 2 => subst x) | skip)
    | lift_lets
    | split

theorem keeps_forTasks {v1 v2} (h1 : Keeps s0 v1) (h2 : ∀ x0 x1 x2, Keeps s0 x0 → Keeps s0 (v2 x0 x1 x2)) :
    Keeps s0 (forTasks v1 v2) := by
  unfold forTasks
  repeat' first
    | with_reducible assumption
    | with_reducible apply keeps_foldl
    | with_reducible apply h1
    | with_reducible apply h2
    | with_reducible rfl
    | with_reducible apply ChKeeps.of
    | with_reducible apply IslKeeps.of
    | (intro x; first | (refine (fun (hx : Keeps s0 x) => ?_) ?_; on_goal 2 => subst x) | skip)
    | lift_lets
    | split

theorem keeps_mbDone {v1 v2 v3 v4} (h1 : Keeps s0 v1) :
    Keeps s0 (mbDone v1 v2 v3 v4) := by
  unfold mbDone
  repeat' first
    | with_reducible assumption
    | with_reducible apply keeps_modMb
    | with_reducible apply keeps_msixReq
    | with_reducible apply h1
    | with_reducible rfl
    | with_reducible apply ChKeeps.of
    | with_reducible apply IslKeeps.of
    | (intro x; first | (refine (fun (hx : Keeps s0 x) => ?_) ?_; on_goal 2 => subst x) | skip)
    | lift_lets
    | split

theorem keeps_closeConn {v1 v2 v3} (h1 : Keeps s0 v1) :
    Keeps s0 (closeConn v1 v2 v3) := by
  unfold closeConn
  repeat' first
    | with_reducible assumption
    | with_reducible apply keeps_endAdm
    | with_reducible apply keeps_modConn
    | with_reducible apply keeps_freeNodes
    | with_reducible apply h1
    | with_reducible rfl
    | with_reducible apply ChKeeps.of
    | with_reducible apply IslKeeps.of
    | (intro x; first | (refine (fun (hx : Keeps s0 x) => ?_) ?_; on_goal 2 => subst x) | skip)
    | lift_lets
    | split

theorem keeps_closeSteps {v1} (h1 : Keeps s0 v1) :
    Keeps s0 (closeSteps v1) := by
  unfold closeSteps
  repeat' first
    | with_reducible assumption
    | with_reducible apply keeps_forTasks
    | with_reducible apply keeps_mbDone
    | with_reducible apply keeps_closeConn
    | with_reducible apply h1
    | with_reducible rfl
    | with_reducible apply ChKeeps.of
    | with_reducible apply IslKeeps.of
    | (intro x; first | (refine (fun (hx : Keeps s0 x) => ?_) ?_; on_goal 2 => subst x) | skip)
    | lift_lets
    | split

theorem keeps_endSnoops {v1 v2} (h1 : Keeps s0 v1) :
    Keeps s0 (endSnoops v1 v2) := by
  unfold endSnoops
  repeat' first
    | with_reducible assumption
    | with_reducible apply keeps_modCh
    | with_reducible apply keeps_emit
    | with_reducible apply keeps_endAdm
    | with_reducible apply keeps_downWrite
    | with_reducible apply keeps_wakeDev
    | with_reducible apply keeps_foldl
    | with_reducible apply h1
    | with_reducible rfl
    | with_reducible apply ChKeeps.of
    | with_reducible apply IslKeeps.of
    | (intro x; first | (refine (fun (hx : Keeps s0 x) => ?_) ?_; on_goal 2 => subst x) | skip)
    | lift_lets
    | split

theorem keeps_setVia {v1 v2 v3} (h1 : Keeps s0 v1) :
    Keeps s0 (setVia v1 v2 v3) := by
  unfold setVia
  repeat' first
    | with_reducible assumption
    | with_reducible apply keeps_modMb
    | with_reducible apply h1
    | with_reducible rfl
    | with_reducible apply ChKeeps.of
    | with_reducible apply IslKeeps.of
    | (intro x; first | (refine (fun (hx : Keeps s0 x) => ?_) ?_; on_goal 2 => subst x) | skip)
    | lift_lets
    | split

theorem keeps_mbEnter {v1 v2 v3 v4 v5} (h1 : Keeps s0 v1) (h5 : ∀ x0, Keeps s0 x0 → Keeps s0 (v5 x0)) :
    Keeps s0 (mbEnter v1 v2 v3 v4 v5) := by
  unfold mbEnter
  repeat' first
    | with_reducible assumption
    | with_reducible apply keeps_mbSt
    | with_reducible apply keeps_setVia
    | with_reducible apply keeps_modIsland
    | with_reducible apply h1
    | with_reducible apply h5
    | with_reducible rfl
    | with_reducible apply ChKeeps.of
    | with_reducible apply IslKeeps.of
    | (intro x; first | (refine (fun (hx : Keeps s0 x) => ?_) ?_; on_goal 2 => subst x) | skip)
    | lift_lets
    | split

theorem keeps_mbReply {v1 v2 v3 v4} (h1 : Keeps s0 v1) :
    Keeps s0 (mbReply v1 v2 v3 v4) := by
  unfold mbReply
  repeat' first
    | with_reducible assumption
    | with_reducible apply keeps_mbResult
    | with_reducible apply h1
    | with_reducible rfl
    | with_reducible apply ChKeeps.of
    | with_reducible apply IslKeeps.of
    | (intro x; first | (refine (fun (hx : Keeps s0 x) => ?_) ?_; on_goal 2 => subst x) | skip)
    | lift_lets
    | split

theorem keeps_mbOnCh {v1 v2 v3 v4 v5} (h1 : Keeps s0 v1) (h5 : ∀ x0, Keeps s0 (v5 x0)) :
    Keeps s0 (mbOnCh v1 v2 v3 v4 v5) := by
  unfold mbOnCh
  repeat' first
    | with_reducible assumption
    | with_reducible apply keeps_mbSt
    | with_reducible apply h1
    | with_reducible apply h5
    | with_reducible rfl
    | with_reducible apply ChKeeps.of
    | with_reducible apply IslKeeps.of
    | (intro x; first | (refine (fun (hx : Keeps s0 x) => ?_) ?_; on_goal 2 => subst x) | skip)
    | lift_lets
    | split

theorem keeps_endReports {v1 v2} (h1 : Keeps s0 v1) :
    Keeps s0 (endReports v1 v2) := by
  unfold endReports
  repeat' first
    | with_reducible assumption
    | with_reducible apply keeps_modRefPort
    | with_reducible apply keeps_reportAnswer
    | with_reducible apply keeps_foldl
    | with_reducible apply h1
    | with_reducible rfl
    | with_reducible apply ChKeeps.of
    | with_reducible apply IslKeeps.of
    | (intro x; first | (refine (fun (hx : Keeps s0 x) => ?_) ?_; on_goal 2 => subst x) | skip)
    | lift_lets
    | split

theorem keeps_mbTask {v1 v2 v3} (h1 : Keeps s0 v1) :
    Keeps s0 (mbTask v1 v2 v3) := by
  unfold mbTask
  repeat' first
    | with_reducible assumption
    | with_reducible apply keeps_modMb
    | with_reducible apply h1
    | with_reducible rfl
    | with_reducible apply ChKeeps.of
    | with_reducible apply IslKeeps.of
    | (intro x; first | (refine (fun (hx : Keeps s0 x) => ?_) ?_; on_goal 2 => subst x) | skip)
    | lift_lets
    | split

theorem keeps_endMedia {v1 v2} (h1 : Keeps s0 v1) :
    Keeps s0 (endMedia v1 v2) := by
  unfold endMedia
  repeat' first
    | with_reducible assumption
    | with_reducible apply keeps_forTasks
    | with_reducible apply keeps_mbDone
    | with_reducible apply h1
    | with_reducible rfl
    | with_reducible apply ChKeeps.of
    | with_reducible apply IslKeeps.of
    | (intro x; first | (refine (fun (hx : Keeps s0 x) => ?_) ?_; on_goal 2 => subst x) | skip)
    | lift_lets
    | split

theorem keeps_endLink {v1 v2} (h1 : Keeps s0 v1) :
    Keeps s0 (endLink v1 v2) := by
  unfold endLink
  repeat' first
    | with_reducible assumption
    | with_reducible apply keeps_endAdm
    | with_reducible apply keeps_modLink
    | with_reducible apply keeps_closeSteps
    | with_reducible apply keeps_windowsStep
    | with_reducible apply keeps_foldl
    | with_reducible apply keeps_getD
    | with_reducible apply h1
    | with_reducible rfl
    | with_reducible apply ChKeeps.of
    | with_reducible apply IslKeeps.of
    | (intro x; first | (refine (fun (hx : Keeps s0 x) => ?_) ?_; on_goal 2 => subst x) | skip)
    | lift_lets
    | split

theorem keeps_endRings {v1 v2} (h1 : Keeps s0 v1) :
    Keeps s0 (endRings v1 v2) := by
  unfold endRings
  repeat' first
    | with_reducible assumption
    | with_reducible apply keeps_modRing
    | with_reducible apply keeps_clearGuard
    | with_reducible apply keeps_dropUses
    | with_reducible apply keeps_foldl
    | with_reducible apply h1
    | with_reducible rfl
    | with_reducible apply ChKeeps.of
    | with_reducible apply IslKeeps.of
    | (intro x; first | (refine (fun (hx : Keeps s0 x) => ?_) ?_; on_goal 2 => subst x) | skip)
    | lift_lets
    | split

theorem keeps_endOps {v1 v2} (h1 : Keeps s0 v1) :
    Keeps s0 (endOps v1 v2) := by
  unfold endOps
  repeat' first
    | with_reducible assumption
    | with_reducible apply keeps_endMedia
    | with_reducible apply keeps_endLink
    | with_reducible apply keeps_endSnoops
    | with_reducible apply keeps_endReports
    | with_reducible apply keeps_dropAnswers
    | with_reducible apply keeps_endRings
    | with_reducible apply keeps_modMarl
    | with_reducible apply keeps_modCh
    | with_reducible apply h1
    | with_reducible rfl
    | with_reducible apply ChKeeps.of
    | with_reducible apply IslKeeps.of
    | (intro x; first | (refine (fun (hx : Keeps s0 x) => ?_) ?_; on_goal 2 => subst x) | skip)
    | lift_lets
    | split

theorem keeps_mbUnsupported {v1 v2 v3} (h1 : Keeps s0 v1) :
    Keeps s0 (mbUnsupported v1 v2 v3) := by
  unfold mbUnsupported
  repeat' first
    | with_reducible assumption
    | with_reducible apply keeps_mbSt
    | with_reducible apply h1
    | with_reducible rfl
    | with_reducible apply ChKeeps.of
    | with_reducible apply IslKeeps.of
    | (intro x; first | (refine (fun (hx : Keeps s0 x) => ?_) ?_; on_goal 2 => subst x) | skip)
    | lift_lets
    | split

theorem keeps_mbRun {v1 v2 v3 v4 v5 v6 v7} (h1 : Keeps s0 v1) (h7 : ∀ x0, Keeps s0 x0 → Keeps s0 (v7 x0)) :
    Keeps s0 (mbRun v1 v2 v3 v4 v5 v6 v7) := by
  unfold mbRun
  repeat' first
    | with_reducible assumption
    | with_reducible apply keeps_mbSt
    | with_reducible apply h1
    | with_reducible apply h7
    | with_reducible rfl
    | with_reducible apply ChKeeps.of
    | with_reducible apply IslKeeps.of
    | (intro x; first | (refine (fun (hx : Keeps s0 x) => ?_) ?_; on_goal 2 => subst x) | skip)
    | lift_lets
    | split

theorem keeps_isolateCh {v1 v2 v3} (h1 : Keeps s0 v1) :
    Keeps s0 (isolateCh v1 v2 v3) := by
  unfold isolateCh
  repeat' first
    | with_reducible assumption
    | with_reducible apply keeps_setChState
    | with_reducible apply keeps_endOps
    | with_reducible apply keeps_nandFinish
    | with_reducible apply h1
    | with_reducible rfl
    | with_reducible apply ChKeeps.of
    | with_reducible apply IslKeeps.of
    | (intro x; first | (refine (fun (hx : Keeps s0 x) => ?_) ?_; on_goal 2 => subst x) | skip)
    | lift_lets
    | split

theorem keeps_mbStart {v1 v2 v3 v4} (h1 : Keeps s0 v1) :
    Keeps s0 (mbStart v1 v2 v3 v4) := by
  unfold mbStart
  repeat' first
    | with_reducible assumption
    | with_reducible apply keeps_mbResult
    | with_reducible apply h1
    | with_reducible rfl
    | with_reducible apply ChKeeps.of
    | with_reducible apply IslKeeps.of
    | (intro x; first | (refine (fun (hx : Keeps s0 x) => ?_) ?_; on_goal 2 => subst x) | skip)
    | lift_lets
    | split

end Sys2Proof.Laws
end

