-- ==== Sys2Proof/Laws/KeepsMarlCmds.lean ====
section
/-! SUPPORT. `Keeps` of the definitions of Sys2Proof/Machine/MarlCmds.lean. -/

namespace Sys2Proof.Laws
open Sys2Proof Sys2Proof.Machine

variable {s0 : State}

theorem keeps_closeOpen {v1 v2 v3} (h1 : Keeps s0 v1) :
    Keeps s0 (closeOpen v1 v2 v3) := by
  unfold closeOpen
  repeat' first
    | with_reducible assumption
    | with_reducible apply keeps_endStripe
    | with_reducible apply keeps_shutSb
    | with_reducible apply h1
    | with_reducible rfl
    | with_reducible apply ChKeeps.of
    | with_reducible apply IslKeeps.of
    | (intro x; first | (refine (fun (hx : Keeps s0 x) => ?_) ?_; on_goal 2 => subst x) | skip)
    | lift_lets
    | split

theorem keeps_discardStep {v1 v2 v3 v4 v5 v6 v7} (h1 : Keeps s0 v1) :
    Keeps s0 (discardStep v1 v2 v3 v4 v5 v6 v7) := by
  unfold discardStep
  repeat' first
    | with_reducible assumption
    | with_reducible apply keeps_mbDone
    | with_reducible apply keeps_closeOpen
    | with_reducible apply keeps_markSb
    | with_reducible apply keeps_raiseC
    | with_reducible apply keeps_mbTask
    | with_reducible apply keeps_foldl
    | with_reducible apply h1
    | with_reducible rfl
    | with_reducible apply ChKeeps.of
    | with_reducible apply IslKeeps.of
    | (intro x; first | (refine (fun (hx : Keeps s0 x) => ?_) ?_; on_goal 2 => subst x) | skip)
    | lift_lets
    | split

theorem keeps_dieFails {v1 v2 v3} (h1 : Keeps s0 v1) :
    Keeps s0 (dieFails v1 v2 v3) := by
  unfold dieFails
  repeat' first
    | with_reducible assumption
    | with_reducible apply keeps_modTable
    | with_reducible apply keeps_modFlash
    | with_reducible apply keeps_jAppend
    | with_reducible apply keeps_markSb
    | with_reducible apply keeps_raiseC
    | with_reducible apply keeps_foldl
    | with_reducible apply h1
    | with_reducible rfl
    | with_reducible apply ChKeeps.of
    | with_reducible apply IslKeeps.of
    | (intro x; first | (refine (fun (hx : Keeps s0 x) => ?_) ?_; on_goal 2 => subst x) | skip)
    | lift_lets
    | split

theorem keeps_writeSegs {v1 v2 v3} (h3 : Keeps s0 v3) :
    Keeps s0 (writeSegs v1 v2 v3).1 := by
  revert h3
  fun_induction writeSegs v1 v2 v3
  all_goals try intro h3
  all_goals repeat' first
    | with_reducible assumption
    | with_reducible apply keeps_drawFree
    | with_reducible apply keeps_modMarl
    | with_reducible refine of_snd (by assumption) ?_
    | with_reducible apply h3
    | apply_assumption (transparency := .reducible)
    | with_reducible rfl
    | with_reducible apply ChKeeps.of
    | with_reducible apply IslKeeps.of
    | (intro x; first | (refine (fun (hx : Keeps s0 x) => ?_) ?_; on_goal 2 => subst x) | skip)
    | lift_lets
    | split

theorem keeps_beginCkpt {v1 v2} (h1 : Keeps s0 v1) :
    Keeps s0 (beginCkpt v1 v2) := by
  unfold beginCkpt
  repeat' first
    | with_reducible assumption
    | with_reducible apply keeps_writeSegs
    | with_reducible apply keeps_modMarl
    | with_reducible apply keeps_jAppend
    | with_reducible apply keeps_foldl
    | with_reducible refine of_fst (by assumption) ?_
    | with_reducible apply h1
    | with_reducible rfl
    | with_reducible apply ChKeeps.of
    | with_reducible apply IslKeeps.of
    | (intro x; first | (refine (fun (hx : Keeps s0 x) => ?_) ?_; on_goal 2 => subst x) | skip)
    | lift_lets
    | split

theorem keeps_execCheckpoint {v1 v2} (h2 : Keeps s0 v2) :
    KX s0 (execCheckpoint v1 v2) := by
  unfold execCheckpoint
  repeat' first
    | with_reducible assumption
    | with_reducible apply keeps_beginCkpt
    | with_reducible refine KX.next ?_
    | with_reducible apply h2
    | with_reducible rfl
    | with_reducible apply ChKeeps.of
    | with_reducible apply IslKeeps.of
    | (intro x; first | (refine (fun (hx : Keeps s0 x) => ?_) ?_; on_goal 2 => subst x) | skip)
    | lift_lets
    | split

theorem keeps_flushAdv {v1 v2 v3 v4 v5 v6} (h1 : Keeps s0 v1) :
    Keeps s0 (flushAdv v1 v2 v3 v4 v5 v6).1 := by
  unfold flushAdv
  repeat' first
    | with_reducible assumption
    | with_reducible apply keeps_beginCkpt
    | with_reducible apply h1
    | with_reducible rfl
    | with_reducible apply ChKeeps.of
    | with_reducible apply IslKeeps.of
    | (intro x; first | (refine (fun (hx : Keeps s0 x) => ?_) ?_; on_goal 2 => subst x) | skip)
    | lift_lets
    | split

theorem keeps_flushStep {v1 v2 v3 v4 v5 v6 v7} (h1 : Keeps s0 v1) :
    Keeps s0 (flushStep v1 v2 v3 v4 v5 v6 v7) := by
  unfold flushStep
  repeat' first
    | with_reducible assumption
    | with_reducible apply keeps_flushAdv
    | with_reducible apply keeps_mbDone
    | with_reducible apply keeps_mbTask
    | with_reducible refine of_fst (by assumption) ?_
    | with_reducible apply h1
    | with_reducible rfl
    | with_reducible apply ChKeeps.of
    | with_reducible apply IslKeeps.of
    | (intro x; first | (refine (fun (hx : Keeps s0 x) => ?_) ?_; on_goal 2 => subst x) | skip)
    | lift_lets
    | split

theorem keeps_shutConns {v1} (h1 : Keeps s0 v1) :
    Keeps s0 (shutConns v1) := by
  unfold shutConns
  repeat' first
    | with_reducible assumption
    | with_reducible apply keeps_forCh
    | with_reducible apply keeps_closeConn
    | with_reducible apply keeps_foldl
    | with_reducible apply h1
    | with_reducible rfl
    | with_reducible apply ChKeeps.of
    | with_reducible apply IslKeeps.of
    | (intro x; first | (refine (fun (hx : Keeps s0 x) => ?_) ?_; on_goal 2 => subst x) | skip)
    | lift_lets
    | split

theorem keeps_shutFlushes {v1} (h1 : Keeps s0 v1) :
    Keeps s0 (shutFlushes v1).1 := by
  unfold shutFlushes
  repeat' first
    | with_reducible assumption
    | with_reducible apply keeps_forCh
    | with_reducible apply keeps_padOpens
    | with_reducible apply h1
    | with_reducible rfl
    | with_reducible apply ChKeeps.of
    | with_reducible apply IslKeeps.of
    | (intro x; first | (refine (fun (hx : Keeps s0 x) => ?_) ?_; on_goal 2 => subst x) | skip)
    | lift_lets
    | split

theorem keeps_shutFlush {v1 v2} (h1 : Keeps s0 v1) :
    Keeps s0 (shutFlush v1 v2).1 := by
  unfold shutFlush
  repeat' first
    | with_reducible assumption
    | with_reducible apply keeps_flushAdv
    | with_reducible apply keeps_foldl
    | with_reducible apply keeps_foldl_fst
    | with_reducible apply keeps_foldl_thd
    | with_reducible refine of_fst (by assumption) ?_
    | with_reducible apply h1
    | with_reducible rfl
    | with_reducible apply ChKeeps.of
    | with_reducible apply IslKeeps.of
    | (intro x; first | (refine (fun (hx : Keeps s0 x) => ?_) ?_; on_goal 2 => subst x) | (refine (fun (hx : Keeps s0 x.1) => ?_) ?_; on_goal 2 => subst x) | (refine (fun (hx : Keeps s0 x.2) => ?_) ?_; on_goal 2 => subst x) | (refine (fun (hx : Keeps s0 x.2.2) => ?_) ?_; on_goal 2 => subst x) | (refine (fun (hx : Keeps s0 x.2.1) => ?_) ?_; on_goal 2 => subst x) | skip)
    | lift_lets
    | split

theorem keeps_shutEnd {v1 v2} (h1 : Keeps s0 v1) :
    Keeps s0 (shutEnd v1 v2) := by
  unfold shutEnd
  repeat' first
    | with_reducible assumption
    | with_reducible apply keeps_mbDone
    | with_reducible apply keeps_modIsland
    | with_reducible apply h1
    | with_reducible rfl
    | with_reducible apply ChKeeps.of
    | with_reducible apply IslKeeps.of
    | (intro x; first | (refine (fun (hx : Keeps s0 x) => ?_) ?_; on_goal 2 => subst x) | skip)
    | lift_lets
    | split

theorem keeps_shutOff {v1 v2} (h1 : Keeps s0 v1) :
    Keeps s0 (shutOff v1 v2) := by
  unfold shutOff
  repeat' first
    | with_reducible assumption
    | with_reducible apply keeps_modIsland
    | with_reducible apply keeps_forCh
    | with_reducible apply keeps_setChState
    | with_reducible apply keeps_endOps
    | with_reducible apply keeps_shutEnd
    | with_reducible apply keeps_mbTask
    | with_reducible apply h1
    | with_reducible rfl
    | with_reducible apply ChKeeps.of
    | with_reducible apply IslKeeps.of
    | (intro x; first | (refine (fun (hx : Keeps s0 x) => ?_) ?_; on_goal 2 => subst x) | skip)
    | lift_lets
    | split

theorem keeps_shutRun {v1 v2 v3 v4} (h1 : Keeps s0 v1) :
    Keeps s0 (shutRun v1 v2 v3 v4) := by
  unfold shutRun
  repeat' first
    | with_reducible assumption
    | with_reducible apply keeps_shutConns
    | with_reducible apply keeps_mbTask
    | with_reducible apply keeps_shutFlushes
    | with_reducible apply keeps_shutFlush
    | with_reducible apply keeps_shutOff
    | with_reducible refine of_fst (by assumption) ?_
    | with_reducible apply h1
    | with_reducible rfl
    | with_reducible apply ChKeeps.of
    | with_reducible apply IslKeeps.of
    | (intro x; first | (refine (fun (hx : Keeps s0 x) => ?_) ?_; on_goal 2 => subst x) | (refine (fun (hx : Keeps s0 x.1) => ?_) ?_; on_goal 2 => subst x) | (refine (fun (hx : Keeps s0 x.2) => ?_) ?_; on_goal 2 => subst x) | (refine (fun (hx : Keeps s0 x.2.2) => ?_) ?_; on_goal 2 => subst x) | (refine (fun (hx : Keeps s0 x.2.1) => ?_) ?_; on_goal 2 => subst x) | skip)
    | split
    | (extract_lets -underBinder +onlyGivenNames x; first | (refine (fun (hx : Keeps s0 x) => ?_) ?_; on_goal 2 => subst x) | (refine (fun (hx : Keeps s0 x.1) => ?_) ?_; on_goal 2 => subst x) | (refine (fun (hx : Keeps s0 x.2) => ?_) ?_; on_goal 2 => subst x) | (refine (fun (hx : Keeps s0 x.2.2) => ?_) ?_; on_goal 2 => subst x) | (refine (fun (hx : Keeps s0 x.2.1) => ?_) ?_; on_goal 2 => subst x) | skip)

theorem keeps_shutStep {v1} (h1 : Keeps s0 v1) :
    Keeps s0 (shutStep v1) := by
  unfold shutStep
  repeat' first
    | with_reducible assumption
    | with_reducible apply keeps_forTasks
    | with_reducible apply keeps_shutRun
    | with_reducible apply h1
    | with_reducible rfl
    | with_reducible apply ChKeeps.of
    | with_reducible apply IslKeeps.of
    | (intro x; first | (refine (fun (hx : Keeps s0 x) => ?_) ?_; on_goal 2 => subst x) | skip)
    | lift_lets
    | split

theorem keeps_marlTasks {v1 v2} (h1 : Keeps s0 v1) :
    Keeps s0 (marlTasks v1 v2) := by
  unfold marlTasks
  repeat' first
    | with_reducible assumption
    | with_reducible apply keeps_forTasks
    | with_reducible apply keeps_flushStep
    | with_reducible apply keeps_discardStep
    | with_reducible apply keeps_shutStep
    | with_reducible apply h1
    | with_reducible rfl
    | with_reducible apply ChKeeps.of
    | with_reducible apply IslKeeps.of
    | (intro x; first | (refine (fun (hx : Keeps s0 x) => ?_) ?_; on_goal 2 => subst x) | skip)
    | lift_lets
    | split

theorem keeps_execAnchorWrite {v1 v2} (h2 : Keeps s0 v2) :
    KX s0 (execAnchorWrite v1 v2) := by
  unfold execAnchorWrite
  repeat' first
    | with_reducible assumption
    | with_reducible apply keeps_marlTasks
    | with_reducible apply keeps_modMarl
    | with_reducible refine KX.next ?_
    | with_reducible apply h2
    | with_reducible rfl
    | with_reducible apply ChKeeps.of
    | with_reducible apply IslKeeps.of
    | (intro x; first | (refine (fun (hx : Keeps s0 x) => ?_) ?_; on_goal 2 => subst x) | skip)
    | lift_lets
    | split

theorem keeps_runMediaFlush {v1 v2 v3} (h3 : Keeps s0 v3) :
    Keeps s0 (runMediaFlush v1 v2 v3) := by
  unfold runMediaFlush
  repeat' first
    | with_reducible assumption
    | with_reducible apply keeps_mbRun
    | with_reducible apply keeps_mbOnCh
    | with_reducible apply keeps_mbSt
    | with_reducible apply keeps_padOpens
    | with_reducible apply keeps_mbStart
    | with_reducible apply keeps_marlTasks
    | with_reducible apply h3
    | with_reducible rfl
    | with_reducible apply ChKeeps.of
    | with_reducible apply IslKeeps.of
    | (intro x; first | (refine (fun (hx : Keeps s0 x) => ?_) ?_; on_goal 2 => subst x) | skip)
    | lift_lets
    | split

theorem keeps_imagesDurable {v1 v2} (h1 : Keeps s0 v1) :
    Keeps s0 (imagesDurable v1 v2) := by
  unfold imagesDurable
  refine keeps_foldl (fun t p ht => ?_) h1
  split
  · exact ht
  · refine keeps_ite (fun _ => ht) (fun _ => ?_)
    extract_lets src x old b d e
    have hd : Keeps s0 d := keeps_foldl (fun _ _ h => keeps_setMap h) (keeps_modMarl ht)
    clear_value old d
    have he : Keeps s0 e := by
      subst e
      split
      · exact keeps_mediaCheck (keeps_freeMeta (keeps_unsealRelease hd))
      · exact hd
    clear_value e
    split
    · exact he
    · split
      · exact keeps_retire (keeps_evictEvent (keeps_setWait he))
      · exact he

theorem keeps_blockRetired {v1 v2 v3 v4 v5} (h1 : Keeps s0 v1) :
    Keeps s0 (blockRetired v1 v2 v3 v4 v5) := by
  unfold blockRetired
  repeat' first
    | with_reducible assumption
    | with_reducible apply keeps_jAppend
    | with_reducible apply keeps_modTable
    | with_reducible apply keeps_modMarl
    | with_reducible apply keeps_raiseC
    | with_reducible apply h1
    | with_reducible rfl
    | with_reducible apply ChKeeps.of
    | with_reducible apply IslKeeps.of
    | (intro x; first | (refine (fun (hx : Keeps s0 x) => ?_) ?_; on_goal 2 => subst x) | skip)
    | lift_lets
    | split

theorem keeps_retireSb {v1 v2 v3 v4} (h1 : Keeps s0 v1) :
    Keeps s0 (retireSb v1 v2 v3 v4) := by
  unfold retireSb
  repeat' first
    | with_reducible assumption
    | with_reducible apply keeps_modTable
    | with_reducible apply keeps_modSb
    | with_reducible apply keeps_modMarl
    | with_reducible apply keeps_foldl
    | with_reducible apply h1
    | with_reducible rfl
    | with_reducible apply ChKeeps.of
    | with_reducible apply IslKeeps.of
    | (intro x; first | (refine (fun (hx : Keeps s0 x) => ?_) ?_; on_goal 2 => subst x) | skip)
    | lift_lets
    | split

theorem keeps_replaceMember {v1 v2 v3 v4} (h1 : Keeps s0 v1) :
    Keeps s0 (replaceMember v1 v2 v3 v4) := by
  unfold replaceMember
  repeat' first
    | with_reducible assumption
    | with_reducible apply keeps_modTable
    | with_reducible apply keeps_jAppend
    | with_reducible apply h1
    | with_reducible rfl
    | with_reducible apply ChKeeps.of
    | with_reducible apply IslKeeps.of
    | (intro x; first | (refine (fun (hx : Keeps s0 x) => ?_) ?_; on_goal 2 => subst x) | skip)
    | lift_lets
    | split

theorem keeps_retireMembers {v1 v2 v3 v4} (h1 : Keeps s0 v1) :
    Keeps s0 (retireMembers v1 v2 v3 v4) := by
  unfold retireMembers
  repeat' first
    | with_reducible assumption
    | with_reducible apply keeps_blockRetired
    | with_reducible apply keeps_retireSb
    | with_reducible apply keeps_setChState
    | with_reducible apply keeps_modSb
    | with_reducible apply keeps_replaceMember
    | with_reducible apply keeps_foldl
    | with_reducible apply h1
    | with_reducible rfl
    | with_reducible apply ChKeeps.of
    | with_reducible apply IslKeeps.of
    | (intro x; first | (refine (fun (hx : Keeps s0 x) => ?_) ?_; on_goal 2 => subst x) | skip)
    | lift_lets
    | split

theorem keeps_formatBegin {v1 v2} (h1 : Keeps s0 v1) :
    Keeps s0 (formatBegin v1 v2) := by
  unfold formatBegin
  repeat' first
    | with_reducible assumption
    | with_reducible apply keeps_modMarl
    | with_reducible apply h1
    | with_reducible rfl
    | with_reducible apply ChKeeps.of
    | with_reducible apply IslKeeps.of
    | (intro x; first | (refine (fun (hx : Keeps s0 x) => ?_) ?_; on_goal 2 => subst x) | skip)
    | lift_lets
    | split

theorem keeps_execMediaFlush {v1 v2 v3} (h3 : Keeps s0 v3) :
    KX s0 (execMediaFlush v1 v2 v3) := by
  unfold execMediaFlush
  repeat' first
    | with_reducible assumption
    | with_reducible apply keeps_mbEnter
    | with_reducible apply keeps_runMediaFlush
    | with_reducible refine KX.next ?_
    | with_reducible apply h3
    | with_reducible rfl
    | with_reducible apply ChKeeps.of
    | with_reducible apply IslKeeps.of
    | (intro x; first | (refine (fun (hx : Keeps s0 x) => ?_) ?_; on_goal 2 => subst x) | skip)
    | lift_lets
    | split

theorem keeps_markMember {v1 v2 v3 v4 v5} (h1 : Keeps s0 v1) :
    Keeps s0 (markMember v1 v2 v3 v4 v5) := by
  unfold markMember
  repeat' first
    | with_reducible assumption
    | with_reducible apply keeps_modSb
    | with_reducible apply h1
    | with_reducible rfl
    | with_reducible apply ChKeeps.of
    | with_reducible apply IslKeeps.of
    | (intro x; first | (refine (fun (hx : Keeps s0 x) => ?_) ?_; on_goal 2 => subst x) | skip)
    | lift_lets
    | split

theorem keeps_placeUnits {v1 v2 v3} (h3 : Keeps s0 v3) :
    Keeps s0 (placeUnits v1 v2 v3) := by
  revert h3
  fun_induction placeUnits v1 v2 v3
  all_goals try intro h3
  all_goals repeat' first
    | with_reducible assumption
    | with_reducible apply keeps_takePage
    | with_reducible apply keeps_stripeFull
    | with_reducible apply keeps_modMarl
    | with_reducible refine of_someP (by assumption) ?_
    | with_reducible apply h3
    | apply_assumption (transparency := .reducible)
    | with_reducible rfl
    | with_reducible apply ChKeeps.of
    | with_reducible apply IslKeeps.of
    | (intro x; first | (refine (fun (hx : Keeps s0 x) => ?_) ?_; on_goal 2 => subst x) | skip)
    | lift_lets
    | split

theorem keeps_placeWaiting {v1 v2} (h1 : Keeps s0 v1) :
    Keeps s0 (placeWaiting v1 v2) := by
  unfold placeWaiting
  repeat' first
    | with_reducible assumption
    | with_reducible apply keeps_placeUnits
    | with_reducible apply h1
    | with_reducible rfl
    | with_reducible apply ChKeeps.of
    | with_reducible apply IslKeeps.of
    | (intro x; first | (refine (fun (hx : Keeps s0 x) => ?_) ?_; on_goal 2 => subst x) | skip)
    | lift_lets
    | split

theorem keeps_execProgramFailure {v1 v2 v3 v4 v5} (h5 : Keeps s0 v5) :
    KX s0 (execProgramFailure v1 v2 v3 v4 v5) := by
  unfold execProgramFailure
  repeat' first
    | with_reducible assumption
    | with_reducible apply keeps_closeSb
    | with_reducible apply keeps_markMember
    | with_reducible apply keeps_markSb
    | with_reducible apply keeps_placeWaiting
    | with_reducible apply keeps_modMarl
    | with_reducible apply keeps_foldl
    | with_reducible refine KX.next ?_
    | with_reducible apply h5
    | with_reducible rfl
    | with_reducible apply ChKeeps.of
    | with_reducible apply IslKeeps.of
    | (intro x; first | (refine (fun (hx : Keeps s0 x) => ?_) ?_; on_goal 2 => subst x) | skip)
    | lift_lets
    | split

theorem keeps_purgeOwner {v1 v2 v3} (h1 : Keeps s0 v1) :
    Keeps s0 (purgeOwner v1 v2 v3) := by
  unfold purgeOwner
  repeat' first
    | with_reducible assumption
    | with_reducible apply keeps_mediaCheck
    | with_reducible apply keeps_jAppend
    | with_reducible apply keeps_unmapUnit
    | with_reducible apply keeps_foldl
    | with_reducible apply h1
    | with_reducible rfl
    | with_reducible apply ChKeeps.of
    | with_reducible apply IslKeeps.of
    | (intro x; first | (refine (fun (hx : Keeps s0 x) => ?_) ?_; on_goal 2 => subst x) | skip)
    | lift_lets
    | split

theorem keeps_modMHealth {v1 v2 v3} (h1 : Keeps s0 v1) :
    Keeps s0 (modMHealth v1 v2 v3) := by
  unfold modMHealth
  repeat' first
    | with_reducible assumption
    | with_reducible apply keeps_modMarl
    | with_reducible apply h1
    | with_reducible rfl
    | with_reducible apply ChKeeps.of
    | with_reducible apply IslKeeps.of
    | (intro x; first | (refine (fun (hx : Keeps s0 x) => ?_) ?_; on_goal 2 => subst x) | skip)
    | lift_lets
    | split

theorem keeps_withCap {v1 v2 v3} (h1 : Keeps s0 v1) (h3 : ∀ x0, Keeps s0 x0 → Keeps s0 (v3 x0)) :
    Keeps s0 (withCap v1 v2 v3) := by
  unfold withCap
  repeat' first
    | with_reducible assumption
    | with_reducible apply keeps_mediaCheck
    | with_reducible apply keeps_raiseC
    | with_reducible apply keeps_jAppend
    | with_reducible apply h1
    | with_reducible apply h3
    | with_reducible rfl
    | with_reducible apply ChKeeps.of
    | with_reducible apply IslKeeps.of
    | (intro x; first | (refine (fun (hx : Keeps s0 x) => ?_) ?_; on_goal 2 => subst x) | skip)
    | lift_lets
    | split

theorem keeps_openJournal {v1 v2} (h1 : Keeps s0 v1) :
    Keeps s0 (openJournal v1 v2) := by
  unfold openJournal
  repeat' first
    | with_reducible assumption
    | with_reducible apply keeps_withCap
    | with_reducible apply keeps_retireSb
    | with_reducible apply keeps_blockRetired
    | with_reducible apply keeps_modFlash
    | with_reducible apply keeps_modSb
    | with_reducible apply keeps_jAppend
    | with_reducible apply keeps_modMarl
    | with_reducible apply keeps_foldl
    | with_reducible apply keeps_getD
    | with_reducible apply h1
    | with_reducible rfl
    | with_reducible apply ChKeeps.of
    | with_reducible apply IslKeeps.of
    | (intro x; first | (refine (fun (hx : Keeps s0 x) => ?_) ?_; on_goal 2 => subst x) | (refine (fun (hx : Keeps s0 x.1) => ?_) ?_; on_goal 2 => subst x) | (refine (fun (hx : Keeps s0 x.2) => ?_) ?_; on_goal 2 => subst x) | (refine (fun (hx : Keeps s0 x.2.2) => ?_) ?_; on_goal 2 => subst x) | (refine (fun (hx : Keeps s0 x.2.1) => ?_) ?_; on_goal 2 => subst x) | skip)
    | split
    | (extract_lets -underBinder +onlyGivenNames x; first | (refine (fun (hx : Keeps s0 x) => ?_) ?_; on_goal 2 => subst x) | (refine (fun (hx : Keeps s0 x.1) => ?_) ?_; on_goal 2 => subst x) | (refine (fun (hx : Keeps s0 x.2) => ?_) ?_; on_goal 2 => subst x) | (refine (fun (hx : Keeps s0 x.2.2) => ?_) ?_; on_goal 2 => subst x) | (refine (fun (hx : Keeps s0 x.2.1) => ?_) ?_; on_goal 2 => subst x) | skip)

theorem keeps_pageDurable {v1 v2} (h1 : Keeps s0 v1) :
    Keeps s0 (pageDurable v1 v2) := by
  unfold pageDurable
  repeat' first
    | with_reducible assumption
    | with_reducible apply keeps_marlTasks
    | with_reducible apply keeps_imagesDurable
    | with_reducible apply keeps_openJournal
    | with_reducible apply keeps_modMarl
    | with_reducible apply keeps_logRing
    | with_reducible apply keeps_foldl
    | with_reducible apply h1
    | with_reducible rfl
    | with_reducible apply ChKeeps.of
    | with_reducible apply IslKeeps.of
    | (intro x; first | (refine (fun (hx : Keeps s0 x) => ?_) ?_; on_goal 2 => subst x) | skip)
    | lift_lets
    | split

theorem keeps_formatFlash {v1 v2} (h1 : Keeps s0 v1) :
    Keeps s0 (formatFlash v1 v2) := by
  unfold formatFlash
  repeat' first
    | with_reducible assumption
    | with_reducible apply keeps_drawFree
    | with_reducible apply keeps_modMarl
    | with_reducible apply keeps_foldl
    | with_reducible refine of_snd (by assumption) ?_
    | with_reducible apply h1
    | with_reducible rfl
    | with_reducible apply ChKeeps.of
    | with_reducible apply IslKeeps.of
    | (intro x; first | (refine (fun (hx : Keeps s0 x) => ?_) ?_; on_goal 2 => subst x) | skip)
    | lift_lets
    | split

theorem keeps_execEraseFailure {v1 v2 v3 v4 v5} (h5 : Keeps s0 v5) :
    KX s0 (execEraseFailure v1 v2 v3 v4 v5) := by
  unfold execEraseFailure
  repeat' first
    | with_reducible assumption
    | with_reducible apply keeps_marlTasks
    | with_reducible apply keeps_withCap
    | with_reducible apply keeps_retireMembers
    | with_reducible refine KX.next ?_
    | with_reducible apply h5
    | with_reducible rfl
    | with_reducible apply ChKeeps.of
    | with_reducible apply IslKeeps.of
    | (intro x; first | (refine (fun (hx : Keeps s0 x) => ?_) ?_; on_goal 2 => subst x) | skip)
    | lift_lets
    | split

theorem keeps_runMediaFormat {v1 v2 v3} (h3 : Keeps s0 v3) :
    Keeps s0 (runMediaFormat v1 v2 v3) := by
  unfold runMediaFormat
  repeat' first
    | with_reducible assumption
    | with_reducible apply keeps_mbRun
    | with_reducible apply keeps_mbOnCh
    | with_reducible apply keeps_mbSt
    | with_reducible apply keeps_formatBegin
    | with_reducible apply keeps_mbStart
    | with_reducible apply h3
    | with_reducible rfl
    | with_reducible apply ChKeeps.of
    | with_reducible apply IslKeeps.of
    | (intro x; first | (refine (fun (hx : Keeps s0 x) => ?_) ?_; on_goal 2 => subst x) | skip)
    | lift_lets
    | split

theorem keeps_execMediaFormat {v1 v2 v3} (h3 : Keeps s0 v3) :
    KX s0 (execMediaFormat v1 v2 v3) := by
  unfold execMediaFormat
  repeat' first
    | with_reducible assumption
    | with_reducible apply keeps_mbEnter
    | with_reducible apply keeps_runMediaFormat
    | with_reducible refine KX.next ?_
    | with_reducible apply h3
    | with_reducible rfl
    | with_reducible apply ChKeeps.of
    | with_reducible apply IslKeeps.of
    | (intro x; first | (refine (fun (hx : Keeps s0 x) => ?_) ?_; on_goal 2 => subst x) | skip)
    | lift_lets
    | split

theorem keeps_execDieTimeout {v1 v2 v3} (h3 : Keeps s0 v3) :
    KX s0 (execDieTimeout v1 v2 v3) := by
  unfold execDieTimeout
  repeat' first
    | with_reducible assumption
    | with_reducible apply keeps_dieFails
    | with_reducible refine KX.next ?_
    | with_reducible apply h3
    | with_reducible rfl
    | with_reducible apply ChKeeps.of
    | with_reducible apply IslKeeps.of
    | (intro x; first | (refine (fun (hx : Keeps s0 x) => ?_) ?_; on_goal 2 => subst x) | skip)
    | lift_lets
    | split

theorem keeps_countBits {v1 v2 v3} (h1 : Keeps s0 v1) :
    Keeps s0 (countBits v1 v2 v3) := by
  unfold countBits
  repeat' first
    | with_reducible assumption
    | with_reducible apply keeps_modMHealth
    | with_reducible apply h1
    | with_reducible rfl
    | with_reducible apply ChKeeps.of
    | with_reducible apply IslKeeps.of
    | (intro x; first | (refine (fun (hx : Keeps s0 x) => ?_) ?_; on_goal 2 => subst x) | skip)
    | lift_lets
    | split

theorem keeps_runMediaSecureDiscard {v1 v2 v3} (h3 : Keeps s0 v3) :
    Keeps s0 (runMediaSecureDiscard v1 v2 v3) := by
  unfold runMediaSecureDiscard
  repeat' first
    | with_reducible assumption
    | with_reducible apply keeps_mbRun
    | with_reducible apply keeps_mbOnCh
    | with_reducible apply keeps_mbSt
    | with_reducible apply keeps_mbStart
    | with_reducible apply keeps_clearSlots
    | with_reducible apply keeps_marlTasks
    | with_reducible apply keeps_padOpens
    | with_reducible apply keeps_foldl
    | with_reducible apply h3
    | with_reducible rfl
    | with_reducible apply ChKeeps.of
    | with_reducible apply IslKeeps.of
    | (intro x; first | (refine (fun (hx : Keeps s0 x) => ?_) ?_; on_goal 2 => subst x) | skip)
    | lift_lets
    | split

theorem keeps_mapProgrammed {v1 v2 v3} (h1 : Keeps s0 v1) :
    Keeps s0 (mapProgrammed v1 v2 v3) := by
  unfold mapProgrammed
  repeat' first
    | with_reducible assumption
    | with_reducible apply keeps_jAppend
    | with_reducible apply keeps_invalidate
    | with_reducible apply keeps_modMarl
    | with_reducible apply keeps_setMap
    | with_reducible apply h1
    | with_reducible rfl
    | with_reducible apply ChKeeps.of
    | with_reducible apply IslKeeps.of
    | (intro x; first | (refine (fun (hx : Keeps s0 x) => ?_) ?_; on_goal 2 => subst x) | skip)
    | lift_lets
    | split

theorem keeps_execStripeBlockErase {v1 v2 v3 v4} (h4 : Keeps s0 v4) :
    KX s0 (execStripeBlockErase v1 v2 v3 v4) := by
  unfold execStripeBlockErase
  repeat' first
    | with_reducible assumption
    | with_reducible apply keeps_modSb
    | with_reducible apply keeps_marlTasks
    | with_reducible apply keeps_withCap
    | with_reducible apply keeps_retireSb
    | with_reducible apply keeps_blockRetired
    | with_reducible apply keeps_foldl
    | with_reducible refine KX.next ?_
    | with_reducible apply h4
    | with_reducible rfl
    | with_reducible apply ChKeeps.of
    | with_reducible apply IslKeeps.of
    | (intro x; first | (refine (fun (hx : Keeps s0 x) => ?_) ?_; on_goal 2 => subst x) | skip)
    | lift_lets
    | split

theorem keeps_execEraseComplete {v1 v2 v3 v4} (h4 : Keeps s0 v4) :
    KX s0 (execEraseComplete v1 v2 v3 v4) := by
  unfold execEraseComplete
  repeat' first
    | with_reducible assumption
    | with_reducible apply keeps_modMarl
    | with_reducible apply keeps_jAppend
    | with_reducible apply keeps_modSb
    | with_reducible apply keeps_placeWaiting
    | with_reducible apply keeps_marlTasks
    | with_reducible apply keeps_withCap
    | with_reducible apply keeps_retireMembers
    | with_reducible refine KX.next ?_
    | with_reducible apply h4
    | with_reducible rfl
    | with_reducible apply ChKeeps.of
    | with_reducible apply IslKeeps.of
    | (intro x; first | (refine (fun (hx : Keeps s0 x) => ?_) ?_; on_goal 2 => subst x) | skip)
    | lift_lets
    | split

theorem keeps_copyUnit {v1 v2 v3 v4} (h1 : Keeps s0 v1) :
    KO s0 (copyUnit v1 v2 v3 v4) := by
  unfold copyUnit
  extract_lets m
  refine keeps_iteO (fun _ => KO.some h1) (fun _ => keeps_iteO (fun _ => KO.none) (fun _ => ?_))
  split
  · exact KO.none
  · next p t heq =>
    split
    extract_lets pg
    exact KO.some (keeps_bufPush (keeps_modMHealth (of_someP heq (keeps_takePage h1))))

theorem keeps_copyUnits {v1 v2 v3} (h3 : Keeps s0 v3) :
    Keeps s0 (copyUnits v1 v2 v3).2 := by
  revert h3
  fun_induction copyUnits v1 v2 v3
  all_goals try intro h3
  all_goals repeat' first
    | with_reducible assumption
    | with_reducible apply keeps_copyUnit
    | with_reducible refine of_some (by assumption) ?_
    | with_reducible apply h3
    | apply_assumption (transparency := .reducible)
    | with_reducible rfl
    | with_reducible apply ChKeeps.of
    | with_reducible apply IslKeeps.of
    | (intro x; first | (refine (fun (hx : Keeps s0 x) => ?_) ?_; on_goal 2 => subst x) | skip)
    | lift_lets
    | split

theorem keeps_execTemperatureSample {v1 v2 v3} (h3 : Keeps s0 v3) :
    KX s0 (execTemperatureSample v1 v2 v3) := by
  unfold execTemperatureSample
  repeat' first
    | with_reducible assumption
    | with_reducible apply keeps_modMarl
    | with_reducible apply keeps_modMHealth
    | with_reducible refine KX.next ?_
    | with_reducible apply h3
    | with_reducible rfl
    | with_reducible apply ChKeeps.of
    | with_reducible apply IslKeeps.of
    | (intro x; first | (refine (fun (hx : Keeps s0 x) => ?_) ?_; on_goal 2 => subst x) | skip)
    | lift_lets
    | split

theorem keeps_stripeDone {v1 v2 v3 v4} (h1 : Keeps s0 v1) :
    Keeps s0 (stripeDone v1 v2 v3 v4) := by
  unfold stripeDone
  repeat' first
    | with_reducible assumption
    | with_reducible apply keeps_mapProgrammed
    | with_reducible apply keeps_imageRecords
    | with_reducible apply keeps_closeIfDone
    | with_reducible apply keeps_modMarl
    | with_reducible apply keeps_foldl
    | with_reducible apply h1
    | with_reducible rfl
    | with_reducible apply ChKeeps.of
    | with_reducible apply IslKeeps.of
    | (intro x; first | (refine (fun (hx : Keeps s0 x) => ?_) ?_; on_goal 2 => subst x) | skip)
    | lift_lets
    | split

theorem keeps_execStripeProgrammed {v1 v2 v3 v4} (h4 : Keeps s0 v4) :
    KX s0 (execStripeProgrammed v1 v2 v3 v4) := by
  unfold execStripeProgrammed
  repeat' first
    | with_reducible assumption
    | with_reducible apply keeps_marlTasks
    | with_reducible apply keeps_placeWaiting
    | with_reducible apply keeps_stripeDone
    | with_reducible refine KX.next ?_
    | with_reducible apply h4
    | with_reducible rfl
    | with_reducible apply ChKeeps.of
    | with_reducible apply IslKeeps.of
    | (intro x; first | (refine (fun (hx : Keeps s0 x) => ?_) ?_; on_goal 2 => subst x) | skip)
    | lift_lets
    | split

theorem keeps_countSteps {v1 v2 v3} (h1 : Keeps s0 v1) :
    Keeps s0 (countSteps v1 v2 v3) := by
  unfold countSteps
  repeat' first
    | with_reducible assumption
    | with_reducible apply keeps_modMHealth
    | with_reducible apply h1
    | with_reducible rfl
    | with_reducible apply ChKeeps.of
    | with_reducible apply IslKeeps.of
    | (intro x; first | (refine (fun (hx : Keeps s0 x) => ?_) ?_; on_goal 2 => subst x) | skip)
    | lift_lets
    | split

theorem keeps_execDieParameterChange {v1 v2 v3} (h3 : Keeps s0 v3) :
    KX s0 (execDieParameterChange v1 v2 v3) := by
  unfold execDieParameterChange
  repeat' first
    | with_reducible assumption
    | with_reducible apply keeps_dieFails
    | with_reducible refine KX.next ?_
    | with_reducible apply h3
    | with_reducible rfl
    | with_reducible apply ChKeeps.of
    | with_reducible apply IslKeeps.of
    | (intro x; first | (refine (fun (hx : Keeps s0 x) => ?_) ?_; on_goal 2 => subst x) | skip)
    | lift_lets
    | split

theorem keeps_execMediaSecureDiscard {v1 v2 v3} (h3 : Keeps s0 v3) :
    KX s0 (execMediaSecureDiscard v1 v2 v3) := by
  unfold execMediaSecureDiscard
  repeat' first
    | with_reducible assumption
    | with_reducible apply keeps_mbEnter
    | with_reducible apply keeps_runMediaSecureDiscard
    | with_reducible refine KX.next ?_
    | with_reducible apply h3
    | with_reducible rfl
    | with_reducible apply ChKeeps.of
    | with_reducible apply IslKeeps.of
    | (intro x; first | (refine (fun (hx : Keeps s0 x) => ?_) ?_; on_goal 2 => subst x) | skip)
    | lift_lets
    | split

theorem keeps_execJournalPageProgrammed {v1 v2} (h2 : Keeps s0 v2) :
    KX s0 (execJournalPageProgrammed v1 v2) := by
  unfold execJournalPageProgrammed
  repeat' first
    | with_reducible assumption
    | with_reducible apply keeps_pageDurable
    | with_reducible refine KX.next ?_
    | with_reducible apply h2
    | with_reducible rfl
    | with_reducible apply ChKeeps.of
    | with_reducible apply IslKeeps.of
    | (intro x; first | (refine (fun (hx : Keeps s0 x) => ?_) ?_; on_goal 2 => subst x) | skip)
    | lift_lets
    | split

theorem keeps_runMediaDiscard {v1 v2 v3} (h3 : Keeps s0 v3) :
    Keeps s0 (runMediaDiscard v1 v2 v3) := by
  unfold runMediaDiscard
  repeat' first
    | with_reducible assumption
    | with_reducible apply keeps_mbRun
    | with_reducible apply keeps_mbOnCh
    | with_reducible apply keeps_mbSt
    | with_reducible apply keeps_clearSlots
    | with_reducible apply keeps_mbStart
    | with_reducible apply keeps_foldl
    | with_reducible apply h3
    | with_reducible rfl
    | with_reducible apply ChKeeps.of
    | with_reducible apply IslKeeps.of
    | (intro x; first | (refine (fun (hx : Keeps s0 x) => ?_) ?_; on_goal 2 => subst x) | skip)
    | lift_lets
    | split

theorem keeps_execStripePad {v1 v2 v3 v4} (h4 : Keeps s0 v4) :
    KX s0 (execStripePad v1 v2 v3 v4) := by
  unfold execStripePad
  repeat' first
    | with_reducible assumption
    | with_reducible apply keeps_endStripe
    | with_reducible refine KX.next ?_
    | with_reducible apply h4
    | with_reducible rfl
    | with_reducible apply ChKeeps.of
    | with_reducible apply IslKeeps.of
    | (intro x; first | (refine (fun (hx : Keeps s0 x) => ?_) ?_; on_goal 2 => subst x) | skip)
    | lift_lets
    | split

theorem keeps_execNandReadComplete {v1 v2 v3 v4} (h4 : Keeps s0 v4) :
    KX s0 (execNandReadComplete v1 v2 v3 v4) := by
  unfold execNandReadComplete
  repeat' first
    | with_reducible assumption
    | with_reducible apply keeps_modMarl
    | with_reducible apply keeps_countSteps
    | with_reducible apply keeps_countBits
    | with_reducible apply keeps_markSb
    | with_reducible apply keeps_markMember
    | with_reducible apply keeps_modMHealth
    | with_reducible apply keeps_modFlash
    | with_reducible apply keeps_raiseC
    | with_reducible refine KX.next ?_
    | with_reducible apply h4
    | with_reducible rfl
    | with_reducible apply ChKeeps.of
    | with_reducible apply IslKeeps.of
    | (intro x; first | (refine (fun (hx : Keeps s0 x) => ?_) ?_; on_goal 2 => subst x) | (refine (fun (hx : Keeps s0 x.1) => ?_) ?_; on_goal 2 => subst x) | (refine (fun (hx : Keeps s0 x.2) => ?_) ?_; on_goal 2 => subst x) | (refine (fun (hx : Keeps s0 x.2.2) => ?_) ?_; on_goal 2 => subst x) | (refine (fun (hx : Keeps s0 x.2.1) => ?_) ?_; on_goal 2 => subst x) | skip)
    | split
    | (extract_lets -underBinder +onlyGivenNames x; first | (refine (fun (hx : Keeps s0 x) => ?_) ?_; on_goal 2 => subst x) | (refine (fun (hx : Keeps s0 x.1) => ?_) ?_; on_goal 2 => subst x) | (refine (fun (hx : Keeps s0 x.2) => ?_) ?_; on_goal 2 => subst x) | (refine (fun (hx : Keeps s0 x.2.2) => ?_) ?_; on_goal 2 => subst x) | (refine (fun (hx : Keeps s0 x.2.1) => ?_) ?_; on_goal 2 => subst x) | skip)

theorem keeps_execMediaDiscard {v1 v2 v3} (h3 : Keeps s0 v3) :
    KX s0 (execMediaDiscard v1 v2 v3) := by
  unfold execMediaDiscard
  repeat' first
    | with_reducible assumption
    | with_reducible apply keeps_mbEnter
    | with_reducible apply keeps_runMediaDiscard
    | with_reducible refine KX.next ?_
    | with_reducible apply h3
    | with_reducible rfl
    | with_reducible apply ChKeeps.of
    | with_reducible apply IslKeeps.of
    | (intro x; first | (refine (fun (hx : Keeps s0 x) => ?_) ?_; on_goal 2 => subst x) | skip)
    | lift_lets
    | split

theorem keeps_execCollection {v1 v2} (h2 : Keeps s0 v2) :
    KX s0 (execCollection v1 v2) := by
  unfold execCollection
  repeat' first
    | with_reducible assumption
    | with_reducible apply keeps_copyUnits
    | with_reducible apply keeps_modMarl
    | with_reducible refine KX.next ?_
    | with_reducible refine of_snd (by assumption) ?_
    | with_reducible apply h2
    | with_reducible rfl
    | with_reducible apply ChKeeps.of
    | with_reducible apply IslKeeps.of
    | (intro x; first | (refine (fun (hx : Keeps s0 x) => ?_) ?_; on_goal 2 => subst x) | skip)
    | lift_lets
    | split

end Sys2Proof.Laws
end

