-- ==== Sys2Proof/Laws/KeepsRegionCmds.lean ====
section
/-! SUPPORT. `Keeps` of the definitions of Sys2Proof/Machine/RegionCmds.lean. -/

namespace Sys2Proof.Laws
open Sys2Proof Sys2Proof.Machine

variable {s0 : State}

theorem keeps_mbFmOnly {v1 v2 v3 v4} (h1 : Keeps s0 v1) (h4 : Keeps s0 v4) :
    Keeps s0 (mbFmOnly v1 v2 v3 v4) := by
  unfold mbFmOnly
  repeat' first
    | with_reducible assumption
    | with_reducible apply keeps_mbSt
    | with_reducible apply h1
    | with_reducible apply h4
    | with_reducible rfl
    | with_reducible apply ChKeeps.of
    | with_reducible apply IslKeeps.of
    | (intro x; first | (refine (fun (hx : Keeps s0 x) => ?_) ?_; on_goal 2 => subst x) | skip)
    | lift_lets
    | split

theorem keeps_runRegionCreate {v1 v2 v3} (h3 : Keeps s0 v3) :
    Keeps s0 (runRegionCreate v1 v2 v3) := by
  unfold runRegionCreate
  repeat' first
    | with_reducible assumption
    | with_reducible apply keeps_mbRun
    | with_reducible apply keeps_mbFmOnly
    | with_reducible apply keeps_mbSt
    | with_reducible apply keeps_allocNodes
    | with_reducible apply keeps_modRegion
    | with_reducible apply keeps_jAppend
    | with_reducible apply keeps_mbOut
    | with_reducible refine of_some (by assumption) ?_
    | with_reducible apply h3
    | with_reducible rfl
    | with_reducible apply ChKeeps.of
    | with_reducible apply IslKeeps.of
    | (intro x; first | (refine (fun (hx : Keeps s0 x) => ?_) ?_; on_goal 2 => subst x) | skip)
    | lift_lets
    | split

theorem keeps_mbOnRegion {v1 v2 v3 v4 v5} (h1 : Keeps s0 v1) (h5 : ∀ x0, Keeps s0 (v5 x0)) :
    Keeps s0 (mbOnRegion v1 v2 v3 v4 v5) := by
  unfold mbOnRegion
  repeat' first
    | with_reducible assumption
    | with_reducible apply keeps_mbSt
    | with_reducible apply h1
    | with_reducible apply h5
    | with_reducible rfl
    | with_reducible apply ChKeeps.of
    | with_reducible apply IslKeeps.of
    | (intro x; first | (refine (fun (hx : Keeps s0 x) => ?_) ?_; on_goal 2 => subst x) | skip)
    | lift_lets
    | split

theorem keeps_freeRunUnit {v1 v2 v3} (h1 : Keeps s0 v1) :
    Keeps s0 (freeRunUnit v1 v2 v3) := by
  unfold freeRunUnit
  repeat' first
    | with_reducible assumption
    | with_reducible apply keeps_clearSlots
    | with_reducible apply keeps_release
    | with_reducible apply keeps_setMap
    | with_reducible apply h1
    | with_reducible rfl
    | with_reducible apply ChKeeps.of
    | with_reducible apply IslKeeps.of
    | (intro x; first | (refine (fun (hx : Keeps s0 x) => ?_) ?_; on_goal 2 => subst x) | skip)
    | lift_lets
    | split

theorem keeps_releaseUnits {v1 v2} (h1 : Keeps s0 v1) :
    Keeps s0 (releaseUnits v1 v2) := by
  unfold releaseUnits
  repeat' first
    | with_reducible assumption
    | with_reducible apply keeps_forCh
    | with_reducible apply keeps_freeImage
    | with_reducible apply keeps_freeRunUnit
    | with_reducible apply keeps_modRegion
    | with_reducible apply keeps_foldl
    | with_reducible apply h1
    | with_reducible rfl
    | with_reducible apply ChKeeps.of
    | with_reducible apply IslKeeps.of
    | (intro x; first | (refine (fun (hx : Keeps s0 x) => ?_) ?_; on_goal 2 => subst x) | skip)
    | lift_lets
    | split

theorem keeps_releaseEnds {v1 v2} (h1 : Keeps s0 v1) :
    Keeps s0 (releaseEnds v1 v2) := by
  unfold releaseEnds
  repeat' first
    | with_reducible assumption
    | with_reducible apply keeps_freeNodes
    | with_reducible apply keeps_modRegion
    | with_reducible apply keeps_jAppend
    | with_reducible apply keeps_raiseD
    | with_reducible apply keeps_forTasks
    | with_reducible apply keeps_mbDone
    | with_reducible apply h1
    | with_reducible rfl
    | with_reducible apply ChKeeps.of
    | with_reducible apply IslKeeps.of
    | (intro x; first | (refine (fun (hx : Keeps s0 x) => ?_) ?_; on_goal 2 => subst x) | skip)
    | lift_lets
    | split

theorem keeps_finishRelease {v1 v2} (h1 : Keeps s0 v1) :
    Keeps s0 (finishRelease v1 v2) := by
  unfold finishRelease
  repeat' first
    | with_reducible assumption
    | with_reducible apply keeps_releaseUnits
    | with_reducible apply keeps_releaseEnds
    | with_reducible apply keeps_forCh
    | with_reducible apply keeps_noteFull
    | with_reducible apply h1
    | with_reducible rfl
    | with_reducible apply ChKeeps.of
    | with_reducible apply IslKeeps.of
    | (intro x; first | (refine (fun (hx : Keeps s0 x) => ?_) ?_; on_goal 2 => subst x) | skip)
    | lift_lets
    | split

theorem keeps_addReg {v1 v2 v3 v4 v5 v6} (h1 : Keeps s0 v1) :
    Keeps s0 (addReg v1 v2 v3 v4 v5 v6).2 := by
  unfold addReg
  repeat' first
    | with_reducible assumption
    | with_reducible apply keeps_modRegion
    | with_reducible apply h1
    | with_reducible rfl
    | with_reducible apply ChKeeps.of
    | with_reducible apply IslKeeps.of
    | (intro x; first | (refine (fun (hx : Keeps s0 x) => ?_) ?_; on_goal 2 => subst x) | skip)
    | lift_lets
    | split

theorem keeps_snoopLd {v1 v2 v3 v4} (h1 : Keeps s0 v1) :
    Keeps s0 (snoopLd v1 v2 v3 v4) := by
  unfold snoopLd
  repeat' first
    | with_reducible assumption
    | with_reducible apply keeps_serveLine
    | with_reducible apply keeps_joinLine
    | with_reducible apply keeps_foldl
    | with_reducible apply h1
    | with_reducible rfl
    | with_reducible apply ChKeeps.of
    | with_reducible apply IslKeeps.of
    | (intro x; first | (refine (fun (hx : Keeps s0 x) => ?_) ?_; on_goal 2 => subst x) | skip)
    | lift_lets
    | split

theorem keeps_grantStep {v1 v2} (h1 : Keeps s0 v1) :
    Keeps s0 (grantStep v1 v2) := by
  unfold grantStep
  repeat' first
    | with_reducible assumption
    | with_reducible apply keeps_snoopLd
    | with_reducible apply keeps_modIsland
    | with_reducible apply keeps_mbReply
    | with_reducible apply h1
    | with_reducible rfl
    | with_reducible apply ChKeeps.of
    | with_reducible apply IslKeeps.of
    | (intro x; first | (refine (fun (hx : Keeps s0 x) => ?_) ?_; on_goal 2 => subst x) | skip)
    | lift_lets
    | split

theorem keeps_grantsStep {v1} (h1 : Keeps s0 v1) :
    Keeps s0 (grantsStep v1) := by
  unfold grantsStep
  repeat' first
    | with_reducible assumption
    | with_reducible apply keeps_grantStep
    | with_reducible apply keeps_foldl
    | with_reducible apply h1
    | with_reducible rfl
    | with_reducible apply ChKeeps.of
    | with_reducible apply IslKeeps.of
    | (intro x; first | (refine (fun (hx : Keeps s0 x) => ?_) ?_; on_goal 2 => subst x) | skip)
    | lift_lets
    | split

theorem keeps_revokeEnds {v1 v2 v3} (h1 : Keeps s0 v1) :
    Keeps s0 (revokeEnds v1 v2 v3) := by
  unfold revokeEnds
  repeat' first
    | with_reducible assumption
    | with_reducible apply keeps_modRegion
    | with_reducible apply keeps_raiseD
    | with_reducible apply keeps_addReg
    | with_reducible apply keeps_forTasks
    | with_reducible apply keeps_mbDone
    | with_reducible apply keeps_grantsStep
    | with_reducible apply keeps_foldl
    | with_reducible refine of_snd (by assumption) ?_
    | with_reducible apply h1
    | with_reducible rfl
    | with_reducible apply ChKeeps.of
    | with_reducible apply IslKeeps.of
    | (intro x; first | (refine (fun (hx : Keeps s0 x) => ?_) ?_; on_goal 2 => subst x) | skip)
    | lift_lets
    | split

theorem keeps_revokeStep {v1 v2 v3} (h2 : Keeps s0 v2) :
    Keeps s0 (revokeStep v1 v2 v3) := by
  revert h2
  fun_induction revokeStep v1 v2 v3
  all_goals try intro h2
  all_goals repeat' first
    | with_reducible assumption
    | with_reducible apply keeps_finishRelease
    | with_reducible apply keeps_modRegion
    | with_reducible apply keeps_revokeEnds
    | with_reducible apply h2
    | apply_assumption (transparency := .reducible)
    | with_reducible rfl
    | with_reducible apply ChKeeps.of
    | with_reducible apply IslKeeps.of
    | (intro x; first | (refine (fun (hx : Keeps s0 x) => ?_) ?_; on_goal 2 => subst x) | skip)
    | lift_lets
    | split

theorem keeps_startRevoke {v1 v2 v3 v4} (h1 : Keeps s0 v1) :
    Keeps s0 (startRevoke v1 v2 v3 v4) := by
  unfold startRevoke
  repeat' first
    | with_reducible assumption
    | with_reducible apply keeps_modRegion
    | with_reducible apply keeps_revokeStep
    | with_reducible apply h1
    | with_reducible rfl
    | with_reducible apply ChKeeps.of
    | with_reducible apply IslKeeps.of
    | (intro x; first | (refine (fun (hx : Keeps s0 x) => ?_) ?_; on_goal 2 => subst x) | skip)
    | lift_lets
    | split

theorem keeps_runRegionRelease {v1 v2 v3} (h3 : Keeps s0 v3) :
    Keeps s0 (runRegionRelease v1 v2 v3) := by
  unfold runRegionRelease
  repeat' first
    | with_reducible assumption
    | with_reducible apply keeps_mbRun
    | with_reducible apply keeps_mbFmOnly
    | with_reducible apply keeps_mbOnRegion
    | with_reducible apply keeps_mbSt
    | with_reducible apply keeps_mbStart
    | with_reducible apply keeps_modRegion
    | with_reducible apply keeps_startRevoke
    | with_reducible apply h3
    | with_reducible rfl
    | with_reducible apply ChKeeps.of
    | with_reducible apply IslKeeps.of
    | (intro x; first | (refine (fun (hx : Keeps s0 x) => ?_) ?_; on_goal 2 => subst x) | skip)
    | lift_lets
    | split

theorem keeps_execRegionRelease {v1 v2 v3} (h3 : Keeps s0 v3) :
    KX s0 (execRegionRelease v1 v2 v3) := by
  unfold execRegionRelease
  repeat' first
    | with_reducible assumption
    | with_reducible apply keeps_mbEnter
    | with_reducible apply keeps_runRegionRelease
    | with_reducible refine KX.next ?_
    | with_reducible apply h3
    | with_reducible rfl
    | with_reducible apply ChKeeps.of
    | with_reducible apply IslKeeps.of
    | (intro x; first | (refine (fun (hx : Keeps s0 x) => ?_) ?_; on_goal 2 => subst x) | skip)
    | lift_lets
    | split

theorem keeps_runRegionPublish {v1 v2 v3} (h3 : Keeps s0 v3) :
    Keeps s0 (runRegionPublish v1 v2 v3) := by
  unfold runRegionPublish
  repeat' first
    | with_reducible assumption
    | with_reducible apply keeps_mbRun
    | with_reducible apply keeps_mbSt
    | with_reducible apply keeps_mbOnRegion
    | with_reducible apply keeps_modIsland
    | with_reducible apply keeps_publish
    | with_reducible apply keeps_mbOut
    | with_reducible refine of_4of4 (by assumption) ?_
    | with_reducible apply h3
    | with_reducible rfl
    | with_reducible apply ChKeeps.of
    | with_reducible apply IslKeeps.of
    | (intro x; first | (refine (fun (hx : Keeps s0 x) => ?_) ?_; on_goal 2 => subst x) | skip)
    | lift_lets
    | split

theorem keeps_execRegionPublish {v1 v2 v3} (h3 : Keeps s0 v3) :
    KX s0 (execRegionPublish v1 v2 v3) := by
  unfold execRegionPublish
  repeat' first
    | with_reducible assumption
    | with_reducible apply keeps_mbEnter
    | with_reducible apply keeps_runRegionPublish
    | with_reducible refine KX.next ?_
    | with_reducible apply h3
    | with_reducible rfl
    | with_reducible apply ChKeeps.of
    | with_reducible apply IslKeeps.of
    | (intro x; first | (refine (fun (hx : Keeps s0 x) => ?_) ?_; on_goal 2 => subst x) | skip)
    | lift_lets
    | split

theorem keeps_runRegionRevoke {v1 v2 v3} (h3 : Keeps s0 v3) :
    Keeps s0 (runRegionRevoke v1 v2 v3) := by
  unfold runRegionRevoke
  repeat' first
    | with_reducible assumption
    | with_reducible apply keeps_mbRun
    | with_reducible apply keeps_mbFmOnly
    | with_reducible apply keeps_mbOnRegion
    | with_reducible apply keeps_mbSt
    | with_reducible apply keeps_mbStart
    | with_reducible apply keeps_startRevoke
    | with_reducible apply h3
    | with_reducible rfl
    | with_reducible apply ChKeeps.of
    | with_reducible apply IslKeeps.of
    | (intro x; first | (refine (fun (hx : Keeps s0 x) => ?_) ?_; on_goal 2 => subst x) | skip)
    | lift_lets
    | split

theorem keeps_execRegionRevoke {v1 v2 v3} (h3 : Keeps s0 v3) :
    KX s0 (execRegionRevoke v1 v2 v3) := by
  unfold execRegionRevoke
  repeat' first
    | with_reducible assumption
    | with_reducible apply keeps_mbEnter
    | with_reducible apply keeps_runRegionRevoke
    | with_reducible refine KX.next ?_
    | with_reducible apply h3
    | with_reducible rfl
    | with_reducible apply ChKeeps.of
    | with_reducible apply IslKeeps.of
    | (intro x; first | (refine (fun (hx : Keeps s0 x) => ?_) ?_; on_goal 2 => subst x) | skip)
    | lift_lets
    | split

theorem keeps_runRegionQuery {v1 v2 v3} (h3 : Keeps s0 v3) :
    Keeps s0 (runRegionQuery v1 v2 v3) := by
  unfold runRegionQuery
  repeat' first
    | with_reducible assumption
    | with_reducible apply keeps_mbRun
    | with_reducible apply keeps_mbOut
    | with_reducible apply h3
    | with_reducible rfl
    | with_reducible apply ChKeeps.of
    | with_reducible apply IslKeeps.of
    | (intro x; first | (refine (fun (hx : Keeps s0 x) => ?_) ?_; on_goal 2 => subst x) | skip)
    | lift_lets
    | split

theorem keeps_execRegionQuery {v1 v2 v3} (h3 : Keeps s0 v3) :
    KX s0 (execRegionQuery v1 v2 v3) := by
  unfold execRegionQuery
  repeat' first
    | with_reducible assumption
    | with_reducible apply keeps_mbEnter
    | with_reducible apply keeps_runRegionQuery
    | with_reducible refine KX.next ?_
    | with_reducible apply h3
    | with_reducible rfl
    | with_reducible apply ChKeeps.of
    | with_reducible apply IslKeeps.of
    | (intro x; first | (refine (fun (hx : Keeps s0 x) => ?_) ?_; on_goal 2 => subst x) | skip)
    | lift_lets
    | split

theorem keeps_execRevocationDrainEnd {v1 v2} (h2 : Keeps s0 v2) :
    KX s0 (execRevocationDrainEnd v1 v2) := by
  unfold execRevocationDrainEnd
  repeat' first
    | with_reducible assumption
    | with_reducible apply keeps_revokeStep
    | with_reducible refine KX.next ?_
    | with_reducible apply h2
    | with_reducible rfl
    | with_reducible apply ChKeeps.of
    | with_reducible apply IslKeeps.of
    | (intro x; first | (refine (fun (hx : Keeps s0 x) => ?_) ?_; on_goal 2 => subst x) | skip)
    | lift_lets
    | split

theorem keeps_runRegionRegister {v1 v2 v3} (h3 : Keeps s0 v3) :
    Keeps s0 (runRegionRegister v1 v2 v3) := by
  unfold runRegionRegister
  repeat' first
    | with_reducible assumption
    | with_reducible apply keeps_mbRun
    | with_reducible apply keeps_mbFmOnly
    | with_reducible apply keeps_mbOnRegion
    | with_reducible apply keeps_mbSt
    | with_reducible apply keeps_modRegion
    | with_reducible apply keeps_mbOut
    | with_reducible apply keeps_addReg
    | with_reducible refine of_snd (by assumption) ?_
    | with_reducible apply h3
    | with_reducible rfl
    | with_reducible apply ChKeeps.of
    | with_reducible apply IslKeeps.of
    | (intro x; first | (refine (fun (hx : Keeps s0 x) => ?_) ?_; on_goal 2 => subst x) | skip)
    | lift_lets
    | split

theorem keeps_execRegionRegister {v1 v2 v3} (h3 : Keeps s0 v3) :
    KX s0 (execRegionRegister v1 v2 v3) := by
  unfold execRegionRegister
  repeat' first
    | with_reducible assumption
    | with_reducible apply keeps_mbEnter
    | with_reducible apply keeps_runRegionRegister
    | with_reducible refine KX.next ?_
    | with_reducible apply h3
    | with_reducible rfl
    | with_reducible apply ChKeeps.of
    | with_reducible apply IslKeeps.of
    | (intro x; first | (refine (fun (hx : Keeps s0 x) => ?_) ?_; on_goal 2 => subst x) | skip)
    | lift_lets
    | split

theorem keeps_runRegionSetHome {v1 v2 v3} (h3 : Keeps s0 v3) :
    Keeps s0 (runRegionSetHome v1 v2 v3) := by
  unfold runRegionSetHome
  repeat' first
    | with_reducible assumption
    | with_reducible apply keeps_mbRun
    | with_reducible apply keeps_mbFmOnly
    | with_reducible apply keeps_mbOnRegion
    | with_reducible apply keeps_mbSt
    | with_reducible apply keeps_modRegion
    | with_reducible apply keeps_setMap
    | with_reducible apply keeps_foldl
    | with_reducible apply h3
    | with_reducible rfl
    | with_reducible apply ChKeeps.of
    | with_reducible apply IslKeeps.of
    | (intro x; first | (refine (fun (hx : Keeps s0 x) => ?_) ?_; on_goal 2 => subst x) | skip)
    | lift_lets
    | split

theorem keeps_execRegionSetHome {v1 v2 v3} (h3 : Keeps s0 v3) :
    KX s0 (execRegionSetHome v1 v2 v3) := by
  unfold execRegionSetHome
  repeat' first
    | with_reducible assumption
    | with_reducible apply keeps_mbEnter
    | with_reducible apply keeps_runRegionSetHome
    | with_reducible refine KX.next ?_
    | with_reducible apply h3
    | with_reducible rfl
    | with_reducible apply ChKeeps.of
    | with_reducible apply IslKeeps.of
    | (intro x; first | (refine (fun (hx : Keeps s0 x) => ?_) ?_; on_goal 2 => subst x) | skip)
    | lift_lets
    | split

theorem keeps_execRegionCreate {v1 v2 v3} (h3 : Keeps s0 v3) :
    KX s0 (execRegionCreate v1 v2 v3) := by
  unfold execRegionCreate
  repeat' first
    | with_reducible assumption
    | with_reducible apply keeps_mbEnter
    | with_reducible apply keeps_runRegionCreate
    | with_reducible refine KX.next ?_
    | with_reducible apply h3
    | with_reducible rfl
    | with_reducible apply ChKeeps.of
    | with_reducible apply IslKeeps.of
    | (intro x; first | (refine (fun (hx : Keeps s0 x) => ?_) ?_; on_goal 2 => subst x) | skip)
    | lift_lets
    | split

theorem keeps_releasesStep {v1} (h1 : Keeps s0 v1) :
    Keeps s0 (releasesStep v1) := by
  unfold releasesStep
  repeat' first
    | with_reducible assumption
    | with_reducible apply keeps_finishRelease
    | with_reducible apply keeps_foldl
    | with_reducible apply h1
    | with_reducible rfl
    | with_reducible apply ChKeeps.of
    | with_reducible apply IslKeeps.of
    | (intro x; first | (refine (fun (hx : Keeps s0 x) => ?_) ?_; on_goal 2 => subst x) | skip)
    | lift_lets
    | split

end Sys2Proof.Laws
end

