-- ==== Sys2Proof/Laws/KeepsRingCmds.lean ====
section
/-! SUPPORT. `Keeps` of the definitions of Sys2Proof/Machine/RingCmds.lean. -/

namespace Sys2Proof.Laws
open Sys2Proof Sys2Proof.Machine

variable {s0 : State}

theorem keeps_modPace {v1 v2 v3} (h1 : Keeps s0 v1) :
    Keeps s0 (modPace v1 v2 v3) := by
  unfold modPace
  repeat' first
    | with_reducible assumption
    | with_reducible apply keeps_modCh
    | with_reducible apply h1
    | with_reducible rfl
    | with_reducible apply ChKeeps.of
    | with_reducible apply IslKeeps.of
    | (intro x; first | (refine (fun (hx : Keeps s0 x) => ?_) ?_; on_goal 2 => subst x) | skip)
    | lift_lets
    | split

theorem keeps_execRefclkLoss {v1 v2} (h2 : Keeps s0 v2) :
    KX s0 (execRefclkLoss v1 v2) := by
  unfold execRefclkLoss
  repeat' first
    | with_reducible assumption
    | with_reducible apply keeps_modPace
    | with_reducible refine KX.next ?_
    | with_reducible apply h2
    | with_reducible rfl
    | with_reducible apply ChKeeps.of
    | with_reducible apply IslKeeps.of
    | (intro x; first | (refine (fun (hx : Keeps s0 x) => ?_) ?_; on_goal 2 => subst x) | skip)
    | lift_lets
    | split

theorem keeps_chanWrite {v1 v2 v3 v4 v5} (h1 : Keeps s0 v1) (h5 : ∀ x0, Keeps s0 x0 → Keeps s0 (v5 x0)) :
    Keeps s0 (chanWrite v1 v2 v3 v4 v5) := by
  unfold chanWrite
  repeat' first
    | with_reducible assumption
    | with_reducible apply keeps_accessErr
    | with_reducible apply keeps_raiseC
    | with_reducible apply h1
    | with_reducible apply h5
    | with_reducible rfl
    | with_reducible apply ChKeeps.of
    | with_reducible apply IslKeeps.of
    | (intro x; first | (refine (fun (hx : Keeps s0 x) => ?_) ?_; on_goal 2 => subst x) | skip)
    | lift_lets
    | split

theorem keeps_holdWrite {v1 v2 v3 v4} (h1 : Keeps s0 v1) :
    Keeps s0 (holdWrite v1 v2 v3 v4) := by
  unfold holdWrite
  repeat' first
    | with_reducible assumption
    | with_reducible apply keeps_modIsland
    | with_reducible apply h1
    | with_reducible rfl
    | with_reducible apply ChKeeps.of
    | with_reducible apply IslKeeps.of
    | (intro x; first | (refine (fun (hx : Keeps s0 x) => ?_) ?_; on_goal 2 => subst x) | skip)
    | lift_lets
    | split

theorem keeps_stopRing {v1 v2 v3} (h1 : Keeps s0 v1) :
    Keeps s0 (stopRing v1 v2 v3) := by
  unfold stopRing
  repeat' first
    | with_reducible assumption
    | with_reducible apply keeps_modRing
    | with_reducible apply keeps_abortRest
    | with_reducible apply keeps_retire1
    | with_reducible apply h1
    | with_reducible rfl
    | with_reducible apply ChKeeps.of
    | with_reducible apply IslKeeps.of
    | (intro x; first | (refine (fun (hx : Keeps s0 x) => ?_) ?_; on_goal 2 => subst x) | skip)
    | lift_lets
    | split

theorem keeps_ringCfgWrite {v1 v2 v3 v4} (h1 : Keeps s0 v1) :
    Keeps s0 (ringCfgWrite v1 v2 v3 v4) := by
  unfold ringCfgWrite
  repeat' first
    | with_reducible assumption
    | with_reducible apply keeps_modRing
    | with_reducible apply keeps_stopRing
    | with_reducible apply h1
    | with_reducible rfl
    | with_reducible apply ChKeeps.of
    | with_reducible apply IslKeeps.of
    | (intro x; first | (refine (fun (hx : Keeps s0 x) => ?_) ?_; on_goal 2 => subst x) | skip)
    | lift_lets
    | split

theorem keeps_ringCfgHost {v1 v2 v3 v4 v5} (h1 : Keeps s0 v1) :
    Keeps s0 (ringCfgHost v1 v2 v3 v4 v5) := by
  unfold ringCfgHost
  repeat' first
    | with_reducible assumption
    | with_reducible apply keeps_chanWrite
    | with_reducible apply keeps_holdWrite
    | with_reducible apply keeps_ringCfgWrite
    | with_reducible apply h1
    | with_reducible rfl
    | with_reducible apply ChKeeps.of
    | with_reducible apply IslKeeps.of
    | (intro x; first | (refine (fun (hx : Keeps s0 x) => ?_) ?_; on_goal 2 => subst x) | skip)
    | lift_lets
    | split

theorem keeps_execRingStopWrite {v1 v2 v3 v4 v5} (h5 : Keeps s0 v5) :
    KX s0 (execRingStopWrite v1 v2 v3 v4 v5) := by
  unfold execRingStopWrite
  repeat' first
    | with_reducible assumption
    | with_reducible apply keeps_ringCfgHost
    | with_reducible refine KX.next ?_
    | with_reducible apply h5
    | with_reducible rfl
    | with_reducible apply ChKeeps.of
    | with_reducible apply IslKeeps.of
    | (intro x; first | (refine (fun (hx : Keeps s0 x) => ?_) ?_; on_goal 2 => subst x) | skip)
    | lift_lets
    | split

theorem keeps_srSeedSet {v1 v2 v3} (h1 : Keeps s0 v1) :
    Keeps s0 (srSeedSet v1 v2 v3) := by
  unfold srSeedSet
  repeat' first
    | with_reducible assumption
    | with_reducible apply keeps_modCh
    | with_reducible apply h1
    | with_reducible rfl
    | with_reducible apply ChKeeps.of
    | with_reducible apply IslKeeps.of
    | (intro x; first | (refine (fun (hx : Keeps s0 x) => ?_) ?_; on_goal 2 => subst x) | skip)
    | lift_lets
    | split

theorem keeps_execSrSeedWrite {v1 v2 v3 v4} (h4 : Keeps s0 v4) :
    KX s0 (execSrSeedWrite v1 v2 v3 v4) := by
  unfold execSrSeedWrite
  repeat' first
    | with_reducible assumption
    | with_reducible apply keeps_chanWrite
    | with_reducible apply keeps_srSeedSet
    | with_reducible refine KX.next ?_
    | with_reducible apply h4
    | with_reducible rfl
    | with_reducible apply ChKeeps.of
    | with_reducible apply IslKeeps.of
    | (intro x; first | (refine (fun (hx : Keeps s0 x) => ?_) ?_; on_goal 2 => subst x) | skip)
    | lift_lets
    | split

theorem keeps_execPaceWindowEnd {v1 v2 v3} (h3 : Keeps s0 v3) :
    KX s0 (execPaceWindowEnd v1 v2 v3) := by
  unfold execPaceWindowEnd
  repeat' first
    | with_reducible assumption
    | with_reducible apply keeps_modPace
    | with_reducible refine KX.next ?_
    | with_reducible apply h3
    | with_reducible rfl
    | with_reducible apply ChKeeps.of
    | with_reducible apply IslKeeps.of
    | (intro x; first | (refine (fun (hx : Keeps s0 x) => ?_) ?_; on_goal 2 => subst x) | skip)
    | lift_lets
    | split

theorem keeps_execGateAddWrite {v1 v2 v3 v4 v5} (h5 : Keeps s0 v5) :
    KX s0 (execGateAddWrite v1 v2 v3 v4 v5) := by
  unfold execGateAddWrite
  repeat' first
    | with_reducible assumption
    | with_reducible apply keeps_chanWrite
    | with_reducible apply keeps_gateAdd
    | with_reducible refine KX.next ?_
    | with_reducible apply h5
    | with_reducible rfl
    | with_reducible apply ChKeeps.of
    | with_reducible apply IslKeeps.of
    | (intro x; first | (refine (fun (hx : Keeps s0 x) => ?_) ?_; on_goal 2 => subst x) | skip)
    | lift_lets
    | split

theorem keeps_execGateAddArrival {v1 v2} (h2 : Keeps s0 v2) :
    KX s0 (execGateAddArrival v1 v2) := by
  unfold execGateAddArrival
  repeat' first
    | with_reducible assumption
    | with_reducible apply keeps_modCh
    | with_reducible apply keeps_gateAdd
    | with_reducible refine KX.next ?_
    | with_reducible apply h2
    | with_reducible rfl
    | with_reducible apply ChKeeps.of
    | with_reducible apply IslKeeps.of
    | (intro x; first | (refine (fun (hx : Keeps s0 x) => ?_) ?_; on_goal 2 => subst x) | skip)
    | lift_lets
    | split

theorem keeps_execGateSetWrite {v1 v2 v3 v4 v5} (h5 : Keeps s0 v5) :
    KX s0 (execGateSetWrite v1 v2 v3 v4 v5) := by
  unfold execGateSetWrite
  repeat' first
    | with_reducible assumption
    | with_reducible apply keeps_chanWrite
    | with_reducible apply keeps_gateSet
    | with_reducible refine KX.next ?_
    | with_reducible apply h5
    | with_reducible rfl
    | with_reducible apply ChKeeps.of
    | with_reducible apply IslKeeps.of
    | (intro x; first | (refine (fun (hx : Keeps s0 x) => ?_) ?_; on_goal 2 => subst x) | skip)
    | lift_lets
    | split

theorem keeps_execRingDisableWrite {v1 v2 v3 v4 v5} (h5 : Keeps s0 v5) :
    KX s0 (execRingDisableWrite v1 v2 v3 v4 v5) := by
  unfold execRingDisableWrite
  repeat' first
    | with_reducible assumption
    | with_reducible apply keeps_ringCfgHost
    | with_reducible refine KX.next ?_
    | with_reducible apply h5
    | with_reducible rfl
    | with_reducible apply ChKeeps.of
    | with_reducible apply IslKeeps.of
    | (intro x; first | (refine (fun (hx : Keeps s0 x) => ?_) ?_; on_goal 2 => subst x) | skip)
    | lift_lets
    | split

theorem keeps_logProgress {v1 v2} (h1 : Keeps s0 v1) :
    Keeps s0 (logProgress v1 v2) := by
  unfold logProgress
  repeat' first
    | with_reducible assumption
    | with_reducible apply keeps_modCh
    | with_reducible apply keeps_releasesStep
    | with_reducible apply keeps_logRing
    | with_reducible apply keeps_foldl
    | with_reducible apply h1
    | with_reducible rfl
    | with_reducible apply ChKeeps.of
    | with_reducible apply IslKeeps.of
    | (intro x; first | (refine (fun (hx : Keeps s0 x) => ?_) ?_; on_goal 2 => subst x) | skip)
    | lift_lets
    | split

theorem keeps_execReleaseRecordWrite {v1 v2} (h2 : Keeps s0 v2) :
    KX s0 (execReleaseRecordWrite v1 v2) := by
  unfold execReleaseRecordWrite
  repeat' first
    | with_reducible assumption
    | with_reducible apply keeps_logProgress
    | with_reducible apply keeps_modCh
    | with_reducible apply keeps_noteFull
    | with_reducible apply keeps_t0Write
    | with_reducible refine KX.next ?_
    | with_reducible apply h2
    | with_reducible rfl
    | with_reducible apply ChKeeps.of
    | with_reducible apply IslKeeps.of
    | (intro x; first | (refine (fun (hx : Keeps s0 x) => ?_) ?_; on_goal 2 => subst x) | (refine (fun (hx : Keeps s0 x.1) => ?_) ?_; on_goal 2 => subst x) | (refine (fun (hx : Keeps s0 x.2) => ?_) ?_; on_goal 2 => subst x) | (refine (fun (hx : Keeps s0 x.2.2) => ?_) ?_; on_goal 2 => subst x) | (refine (fun (hx : Keeps s0 x.2.1) => ?_) ?_; on_goal 2 => subst x) | skip)
    | split
    | (extract_lets -underBinder +onlyGivenNames x; first | (refine (fun (hx : Keeps s0 x) => ?_) ?_; on_goal 2 => subst x) | (refine (fun (hx : Keeps s0 x.1) => ?_) ?_; on_goal 2 => subst x) | (refine (fun (hx : Keeps s0 x.2) => ?_) ?_; on_goal 2 => subst x) | (refine (fun (hx : Keeps s0 x.2.2) => ?_) ?_; on_goal 2 => subst x) | (refine (fun (hx : Keeps s0 x.2.1) => ?_) ?_; on_goal 2 => subst x) | skip)

theorem keeps_execGateWaitRelease {v1 v2 v3} (h3 : Keeps s0 v3) :
    KX s0 (execGateWaitRelease v1 v2 v3) := by
  unfold execGateWaitRelease
  repeat' first
    | with_reducible assumption
    | with_reducible apply keeps_setWait
    | with_reducible refine KX.next ?_
    | with_reducible apply h3
    | with_reducible rfl
    | with_reducible apply ChKeeps.of
    | with_reducible apply IslKeeps.of
    | (intro x; first | (refine (fun (hx : Keeps s0 x) => ?_) ?_; on_goal 2 => subst x) | skip)
    | lift_lets
    | split

theorem keeps_relCfgWrite {v1 v2 v3} (h1 : Keeps s0 v1) :
    Keeps s0 (relCfgWrite v1 v2 v3) := by
  unfold relCfgWrite
  repeat' first
    | with_reducible assumption
    | with_reducible apply keeps_modCh
    | with_reducible apply keeps_logProgress
    | with_reducible apply h1
    | with_reducible rfl
    | with_reducible apply ChKeeps.of
    | with_reducible apply IslKeeps.of
    | (intro x; first | (refine (fun (hx : Keeps s0 x) => ?_) ?_; on_goal 2 => subst x) | skip)
    | lift_lets
    | split

theorem keeps_execReleaseLogEnableWrite {v1 v2 v3 v4} (h4 : Keeps s0 v4) :
    KX s0 (execReleaseLogEnableWrite v1 v2 v3 v4) := by
  unfold execReleaseLogEnableWrite
  repeat' first
    | with_reducible assumption
    | with_reducible apply keeps_chanWrite
    | with_reducible apply keeps_holdWrite
    | with_reducible apply keeps_relCfgWrite
    | with_reducible refine KX.next ?_
    | with_reducible apply h4
    | with_reducible rfl
    | with_reducible apply ChKeeps.of
    | with_reducible apply IslKeeps.of
    | (intro x; first | (refine (fun (hx : Keeps s0 x) => ?_) ?_; on_goal 2 => subst x) | skip)
    | lift_lets
    | split

theorem keeps_paceCtrlWrite {v1 v2 v3} (h1 : Keeps s0 v1) :
    Keeps s0 (paceCtrlWrite v1 v2 v3) := by
  unfold paceCtrlWrite
  repeat' first
    | with_reducible assumption
    | with_reducible apply keeps_modPace
    | with_reducible apply h1
    | with_reducible rfl
    | with_reducible apply ChKeeps.of
    | with_reducible apply IslKeeps.of
    | (intro x; first | (refine (fun (hx : Keeps s0 x) => ?_) ?_; on_goal 2 => subst x) | skip)
    | lift_lets
    | split

theorem keeps_ringTailSet {v1 v2 v3 v4} (h1 : Keeps s0 v1) :
    Keeps s0 (ringTailSet v1 v2 v3 v4) := by
  unfold ringTailSet
  repeat' first
    | with_reducible assumption
    | with_reducible apply keeps_modRing
    | with_reducible apply keeps_abortRest
    | with_reducible apply h1
    | with_reducible rfl
    | with_reducible apply ChKeeps.of
    | with_reducible apply IslKeeps.of
    | (intro x; first | (refine (fun (hx : Keeps s0 x) => ?_) ?_; on_goal 2 => subst x) | skip)
    | lift_lets
    | split

theorem keeps_execRingEnableWrite {v1 v2 v3 v4 v5} (h5 : Keeps s0 v5) :
    KX s0 (execRingEnableWrite v1 v2 v3 v4 v5) := by
  unfold execRingEnableWrite
  repeat' first
    | with_reducible assumption
    | with_reducible apply keeps_ringCfgHost
    | with_reducible refine KX.next ?_
    | with_reducible apply h5
    | with_reducible rfl
    | with_reducible apply ChKeeps.of
    | with_reducible apply IslKeeps.of
    | (intro x; first | (refine (fun (hx : Keeps s0 x) => ?_) ?_; on_goal 2 => subst x) | skip)
    | lift_lets
    | split

theorem keeps_execNop {v1 v2 v3} (h3 : Keeps s0 v3) :
    KX s0 (execNop v1 v2 v3) := by
  unfold execNop
  repeat' first
    | with_reducible assumption
    | with_reducible apply keeps_runHead
    | with_reducible apply keeps_retireSt
    | with_reducible refine KX.next ?_
    | with_reducible apply h3
    | with_reducible rfl
    | with_reducible apply ChKeeps.of
    | with_reducible apply IslKeeps.of
    | (intro x; first | (refine (fun (hx : Keeps s0 x) => ?_) ?_; on_goal 2 => subst x) | skip)
    | lift_lets
    | split

theorem keeps_execRefclkReturn {v1 v2} (h2 : Keeps s0 v2) :
    KX s0 (execRefclkReturn v1 v2) := by
  unfold execRefclkReturn
  repeat' first
    | with_reducible assumption
    | with_reducible apply keeps_modPace
    | with_reducible refine KX.next ?_
    | with_reducible apply h2
    | with_reducible rfl
    | with_reducible apply ChKeeps.of
    | with_reducible apply IslKeeps.of
    | (intro x; first | (refine (fun (hx : Keeps s0 x) => ?_) ?_; on_goal 2 => subst x) | skip)
    | lift_lets
    | split

theorem keeps_execRingTailWrite {v1 v2 v3 v4 v5} (h5 : Keeps s0 v5) :
    KX s0 (execRingTailWrite v1 v2 v3 v4 v5) := by
  unfold execRingTailWrite
  repeat' first
    | with_reducible assumption
    | with_reducible apply keeps_chanWrite
    | with_reducible apply keeps_ringTailSet
    | with_reducible refine KX.next ?_
    | with_reducible apply h5
    | with_reducible rfl
    | with_reducible apply ChKeeps.of
    | with_reducible apply IslKeeps.of
    | (intro x; first | (refine (fun (hx : Keeps s0 x) => ?_) ?_; on_goal 2 => subst x) | skip)
    | lift_lets
    | split

theorem keeps_execClearLow {v1 v2 v3 v4} (h4 : Keeps s0 v4) :
    KX s0 (execClearLow v1 v2 v3 v4) := by
  unfold execClearLow
  repeat' first
    | with_reducible assumption
    | with_reducible apply keeps_chanWrite
    | with_reducible apply keeps_paceCtrlWrite
    | with_reducible refine KX.next ?_
    | with_reducible apply h4
    | with_reducible rfl
    | with_reducible apply ChKeeps.of
    | with_reducible apply IslKeeps.of
    | (intro x; first | (refine (fun (hx : Keeps s0 x) => ?_) ?_; on_goal 2 => subst x) | skip)
    | lift_lets
    | split

theorem keeps_execIslandPaceWindowEnd {v1 v2} (h2 : Keeps s0 v2) :
    KX s0 (execIslandPaceWindowEnd v1 v2) := by
  unfold execIslandPaceWindowEnd
  repeat' first
    | with_reducible assumption
    | with_reducible apply keeps_modIsland
    | with_reducible refine KX.next ?_
    | with_reducible apply h2
    | with_reducible rfl
    | with_reducible apply ChKeeps.of
    | with_reducible apply IslKeeps.of
    | (intro x; first | (refine (fun (hx : Keeps s0 x) => ?_) ?_; on_goal 2 => subst x) | skip)
    | lift_lets
    | split

end Sys2Proof.Laws
end

