-- ==== Sys2Proof/Laws/KeepsHostMem.lean ====
section
/-! SUPPORT. `Keeps` of the definitions of Sys2Proof/Machine/HostMem.lean. -/

namespace Sys2Proof.Laws
open Sys2Proof Sys2Proof.Machine

variable {s0 : State}

theorem keeps_snoopEnds {v1 v2 v3} (h1 : Keeps s0 v1) :
    Keeps s0 (snoopEnds v1 v2 v3) := by
  unfold snoopEnds
  repeat' first
    | with_reducible assumption
    | with_reducible apply keeps_modEntry
    | with_reducible apply keeps_grantsStep
    | with_reducible apply keeps_roceWake
    | with_reducible apply keeps_serveLine
    | with_reducible apply h1
    | with_reducible rfl
    | with_reducible apply ChKeeps.of
    | with_reducible apply IslKeeps.of
    | (intro x; first | (refine (fun (hx : Keeps s0 x) => ?_) ?_; on_goal 2 => subst x) | skip)
    | lift_lets
    | split

theorem keeps_snoopAnswer {v1 v2 v3 v4} (h1 : Keeps s0 v1) :
    Keeps s0 (snoopAnswer v1 v2 v3 v4) := by
  unfold snoopAnswer
  repeat' first
    | with_reducible assumption
    | with_reducible apply keeps_modCh
    | with_reducible apply keeps_modEntry
    | with_reducible apply keeps_sendSnoop
    | with_reducible apply keeps_snoopEnds
    | with_reducible apply h1
    | with_reducible rfl
    | with_reducible apply ChKeeps.of
    | with_reducible apply IslKeeps.of
    | (intro x; first | (refine (fun (hx : Keeps s0 x) => ?_) ?_; on_goal 2 => subst x) | skip)
    | lift_lets
    | split

theorem keeps_execBirsp {v1 v2 v3 v4} (h4 : Keeps s0 v4) :
    KX s0 (execBirsp v1 v2 v3 v4) := by
  unfold execBirsp
  repeat' first
    | with_reducible assumption
    | with_reducible apply keeps_snoopAnswer
    | with_reducible refine KX.next ?_
    | with_reducible apply h4
    | with_reducible rfl
    | with_reducible apply ChKeeps.of
    | with_reducible apply IslKeeps.of
    | (intro x; first | (refine (fun (hx : Keeps s0 x) => ?_) ?_; on_goal 2 => subst x) | skip)
    | lift_lets
    | split

theorem keeps_lapseOn {v1 v2 v3} (h1 : Keeps s0 v1) :
    Keeps s0 (lapseOn v1 v2 v3) := by
  unfold lapseOn
  repeat' first
    | with_reducible assumption
    | with_reducible apply keeps_modCh
    | with_reducible apply keeps_modLd
    | with_reducible apply keeps_snoopAnswer
    | with_reducible apply keeps_raiseC
    | with_reducible apply keeps_foldl
    | with_reducible apply h1
    | with_reducible rfl
    | with_reducible apply ChKeeps.of
    | with_reducible apply IslKeeps.of
    | (intro x; first | (refine (fun (hx : Keeps s0 x) => ?_) ?_; on_goal 2 => subst x) | skip)
    | lift_lets
    | split

theorem keeps_lapse {v1 v2} (h1 : Keeps s0 v1) :
    Keeps s0 (lapse v1 v2) := by
  unfold lapse
  repeat' first
    | with_reducible assumption
    | with_reducible apply keeps_grantsStep
    | with_reducible apply keeps_forCh
    | with_reducible apply keeps_modLd
    | with_reducible apply keeps_lapseOn
    | with_reducible apply h1
    | with_reducible rfl
    | with_reducible apply ChKeeps.of
    | with_reducible apply IslKeeps.of
    | (intro x; first | (refine (fun (hx : Keeps s0 x) => ?_) ?_; on_goal 2 => subst x) | skip)
    | lift_lets
    | split

theorem keeps_execT0WindowRead {v1 v2 v3 v4} (h4 : Keeps s0 v4) :
    KX s0 (execT0WindowRead v1 v2 v3 v4) := by
  unfold execT0WindowRead
  repeat' first
    | with_reducible assumption
    | with_reducible apply keeps_emit
    | with_reducible apply keeps_accessErr
    | with_reducible refine KX.next ?_
    | with_reducible apply h4
    | with_reducible rfl
    | with_reducible apply ChKeeps.of
    | with_reducible apply IslKeeps.of
    | (intro x; first | (refine (fun (hx : Keeps s0 x) => ?_) ?_; on_goal 2 => subst x) | skip)
    | lift_lets
    | split

theorem keeps_execCxlMemWrite {v1 v2 v3 v4 v5} (h5 : Keeps s0 v5) :
    KX s0 (execCxlMemWrite v1 v2 v3 v4 v5) := by
  unfold execCxlMemWrite
  repeat' first
    | with_reducible assumption
    | with_reducible apply keeps_memWriteReq
    | with_reducible refine KX.next ?_
    | with_reducible apply h5
    | with_reducible rfl
    | with_reducible apply ChKeeps.of
    | with_reducible apply IslKeeps.of
    | (intro x; first | (refine (fun (hx : Keeps s0 x) => ?_) ?_; on_goal 2 => subst x) | skip)
    | lift_lets
    | split

theorem keeps_t0Piece {v1 v2 v3 v4} (h1 : Keeps s0 v1) :
    Keeps s0 (t0Piece v1 v2 v3 v4) := by
  unfold t0Piece
  repeat' first
    | with_reducible assumption
    | with_reducible apply keeps_accessErr
    | with_reducible apply keeps_raiseC
    | with_reducible apply keeps_t0Write
    | with_reducible apply h1
    | with_reducible rfl
    | with_reducible apply ChKeeps.of
    | with_reducible apply IslKeeps.of
    | (intro x; first | (refine (fun (hx : Keeps s0 x) => ?_) ?_; on_goal 2 => subst x) | skip)
    | lift_lets
    | split

theorem keeps_execCxlMemRead {v1 v2 v3 v4 v5} (h5 : Keeps s0 v5) :
    KX s0 (execCxlMemRead v1 v2 v3 v4 v5) := by
  unfold execCxlMemRead
  repeat' first
    | with_reducible assumption
    | with_reducible apply keeps_memReadReq
    | with_reducible apply keeps_takeEnv
    | with_reducible refine KX.next ?_
    | with_reducible apply h5
    | with_reducible rfl
    | with_reducible apply ChKeeps.of
    | with_reducible apply IslKeeps.of
    | (intro x; first | (refine (fun (hx : Keeps s0 x) => ?_) ?_; on_goal 2 => subst x) | skip)
    | lift_lets
    | split

theorem keeps_execBiSnoopTimeout {v1 v2 v3 v4} (h4 : Keeps s0 v4) :
    KX s0 (execBiSnoopTimeout v1 v2 v3 v4) := by
  unfold execBiSnoopTimeout
  repeat' first
    | with_reducible assumption
    | with_reducible apply keeps_lapse
    | with_reducible refine KX.next ?_
    | with_reducible apply h4
    | with_reducible rfl
    | with_reducible apply ChKeeps.of
    | with_reducible apply IslKeeps.of
    | (intro x; first | (refine (fun (hx : Keeps s0 x) => ?_) ?_; on_goal 2 => subst x) | skip)
    | lift_lets
    | split

theorem keeps_execT0WindowWrite {v1 v2 v3 v4} (h4 : Keeps s0 v4) :
    KX s0 (execT0WindowWrite v1 v2 v3 v4) := by
  unfold execT0WindowWrite
  repeat' first
    | with_reducible assumption
    | with_reducible apply keeps_t0Piece
    | with_reducible apply keeps_foldl
    | with_reducible refine KX.next ?_
    | with_reducible apply h4
    | with_reducible rfl
    | with_reducible apply ChKeeps.of
    | with_reducible apply IslKeeps.of
    | (intro x; first | (refine (fun (hx : Keeps s0 x) => ?_) ?_; on_goal 2 => subst x) | skip)
    | lift_lets
    | split

theorem keeps_execBiconflict {v1 v2 v3 v4} (h4 : Keeps s0 v4) :
    KX s0 (execBiconflict v1 v2 v3 v4) := by
  unfold execBiconflict
  repeat' first
    | with_reducible assumption
    | with_reducible apply keeps_emit
    | with_reducible refine KX.next ?_
    | with_reducible apply h4
    | with_reducible rfl
    | with_reducible apply ChKeeps.of
    | with_reducible apply IslKeeps.of
    | (intro x; first | (refine (fun (hx : Keeps s0 x) => ?_) ?_; on_goal 2 => subst x) | skip)
    | lift_lets
    | split

end Sys2Proof.Laws
end

