-- ==== Sys2Proof/Laws/KeepsHostCmds.lean ====
section
/-! SUPPORT. `Keeps` of the definitions of Sys2Proof/Machine/HostCmds.lean. -/

namespace Sys2Proof.Laws
open Sys2Proof Sys2Proof.Machine

variable {s0 : State}

theorem keeps_cxlCmd {v1 v2 v3 v4 v5} (h1 : Keeps s0 v1) (h5 : ∀ x0, Keeps s0 x0 → Keeps s0 (v5 x0)) :
    Keeps s0 (cxlCmd v1 v2 v3 v4 v5) := by
  unfold cxlCmd
  repeat' first
    | with_reducible assumption
    | with_reducible apply keeps_mbEnter
    | with_reducible apply keeps_mbRun
    | with_reducible apply h1
    | with_reducible apply h5
    | with_reducible rfl
    | with_reducible apply ChKeeps.of
    | with_reducible apply IslKeeps.of
    | (intro x; first | (refine (fun (hx : Keeps s0 x) => ?_) ?_; on_goal 2 => subst x) | skip)
    | lift_lets
    | split

theorem keeps_cxlLd {v1 v2 v3 v4} (h1 : Keeps s0 v1) (h4 : ∀ x0, Keeps s0 (v4 x0)) :
    Keeps s0 (cxlLd v1 v2 v3 v4) := by
  unfold cxlLd
  repeat' first
    | with_reducible assumption
    | with_reducible apply keeps_mbUnsupported
    | with_reducible apply h1
    | with_reducible apply h4
    | with_reducible rfl
    | with_reducible apply ChKeeps.of
    | with_reducible apply IslKeeps.of
    | (intro x; first | (refine (fun (hx : Keeps s0 x) => ?_) ?_; on_goal 2 => subst x) | skip)
    | lift_lets
    | split

theorem keeps_runClearPoison {v1 v2 v3 v4} (h4 : Keeps s0 v4) :
    Keeps s0 (runClearPoison v1 v2 v3 v4) := by
  unfold runClearPoison
  refine keeps_cxlLd h4 (fun l => ?_)
  extract_lets write
  have hw : ∀ c o a, Keeps s0 (write c o a) := fun c o a =>
    keeps_ite (fun _ => keeps_modIsland (fun _ => IslKeeps.of rfl rfl) h4) (fun _ => keeps_mbReply (keeps_hostWriteLine (keeps_clearOrphan h4)))
  clear_value write
  split
  · exact keeps_ite (fun _ => hw _ _ _) (fun _ => keeps_mbInvalid h4)
  · exact keeps_ite (fun _ => hw _ _ _) (fun _ => keeps_mbInvalid h4)
  · exact keeps_mbInvalid h4

theorem keeps_execClearPoison {v1 v2 v3 v4} (h4 : Keeps s0 v4) :
    KX s0 (execClearPoison v1 v2 v3 v4) := by
  unfold execClearPoison
  repeat' first
    | with_reducible assumption
    | with_reducible apply keeps_cxlCmd
    | with_reducible apply keeps_runClearPoison
    | with_reducible refine KX.next ?_
    | with_reducible apply h4
    | with_reducible rfl
    | with_reducible apply ChKeeps.of
    | with_reducible apply IslKeeps.of
    | (intro x; first | (refine (fun (hx : Keeps s0 x) => ?_) ?_; on_goal 2 => subst x) | skip)
    | lift_lets
    | split

theorem keeps_clearMailboxes {v1 v2} (h1 : Keeps s0 v1) :
    Keeps s0 (clearMailboxes v1 v2) := by
  unfold clearMailboxes
  repeat' first
    | with_reducible assumption
    | with_reducible apply keeps_modIsland
    | with_reducible apply h1
    | with_reducible rfl
    | with_reducible apply ChKeeps.of
    | with_reducible apply IslKeeps.of
    | (intro x; first | (refine (fun (hx : Keeps s0 x) => ?_) ?_; on_goal 2 => subst x) | skip)
    | lift_lets
    | split

theorem keeps_resetFunction {v1 v2} (h1 : Keeps s0 v1) :
    Keeps s0 (resetFunction v1 v2) := by
  unfold resetFunction
  repeat' first
    | with_reducible assumption
    | with_reducible apply keeps_clearMailboxes
    | with_reducible apply keeps_modLd
    | with_reducible apply h1
    | with_reducible rfl
    | with_reducible apply ChKeeps.of
    | with_reducible apply IslKeeps.of
    | (intro x; first | (refine (fun (hx : Keeps s0 x) => ?_) ?_; on_goal 2 => subst x) | skip)
    | lift_lets
    | split

theorem keeps_cxlFm {v1 v2 v3 v4} (h1 : Keeps s0 v1) (h4 : Keeps s0 v4) :
    Keeps s0 (cxlFm v1 v2 v3 v4) := by
  unfold cxlFm
  repeat' first
    | with_reducible assumption
    | with_reducible apply keeps_mbUnsupported
    | with_reducible apply h1
    | with_reducible apply h4
    | with_reducible rfl
    | with_reducible apply ChKeeps.of
    | with_reducible apply IslKeeps.of
    | (intro x; first | (refine (fun (hx : Keeps s0 x) => ?_) ?_; on_goal 2 => subst x) | skip)
    | lift_lets
    | split

theorem keeps_runDcdInfo {v1 v2} (h2 : Keeps s0 v2) :
    Keeps s0 (runDcdInfo v1 v2) := by
  unfold runDcdInfo
  repeat' first
    | with_reducible assumption
    | with_reducible apply keeps_cxlFm
    | with_reducible apply keeps_mbReply
    | with_reducible apply h2
    | with_reducible rfl
    | with_reducible apply ChKeeps.of
    | with_reducible apply IslKeeps.of
    | (intro x; first | (refine (fun (hx : Keeps s0 x) => ?_) ?_; on_goal 2 => subst x) | skip)
    | lift_lets
    | split

theorem keeps_execGetDcdInfo {v1 v2} (h2 : Keeps s0 v2) :
    KX s0 (execGetDcdInfo v1 v2) := by
  unfold execGetDcdInfo
  repeat' first
    | with_reducible assumption
    | with_reducible apply keeps_cxlCmd
    | with_reducible apply keeps_runDcdInfo
    | with_reducible refine KX.next ?_
    | with_reducible apply h2
    | with_reducible rfl
    | with_reducible apply ChKeeps.of
    | with_reducible apply IslKeeps.of
    | (intro x; first | (refine (fun (hx : Keeps s0 x) => ?_) ?_; on_goal 2 => subst x) | skip)
    | lift_lets
    | split

theorem keeps_leaveGrant {v1 v2 v3} (h1 : Keeps s0 v1) :
    Keeps s0 (leaveGrant v1 v2 v3) := by
  unfold leaveGrant
  repeat' first
    | with_reducible assumption
    | with_reducible apply keeps_modIsland
    | with_reducible apply keeps_startRevoke
    | with_reducible apply h1
    | with_reducible rfl
    | with_reducible apply ChKeeps.of
    | with_reducible apply IslKeeps.of
    | (intro x; first | (refine (fun (hx : Keeps s0 x) => ?_) ?_; on_goal 2 => subst x) | skip)
    | lift_lets
    | split

theorem keeps_runReleaseDc {v1 v2 v3} (h3 : Keeps s0 v3) :
    Keeps s0 (runReleaseDc v1 v2 v3) := by
  unfold runReleaseDc
  repeat' first
    | with_reducible assumption
    | with_reducible apply keeps_cxlLd
    | with_reducible apply keeps_mbInvalid
    | with_reducible apply keeps_leaveGrant
    | with_reducible apply keeps_grantsStep
    | with_reducible apply keeps_foldl
    | with_reducible apply h3
    | with_reducible rfl
    | with_reducible apply ChKeeps.of
    | with_reducible apply IslKeeps.of
    | (intro x; first | (refine (fun (hx : Keeps s0 x) => ?_) ?_; on_goal 2 => subst x) | skip)
    | lift_lets
    | split

theorem keeps_clearDecoders {v1 v2} (h1 : Keeps s0 v1) :
    Keeps s0 (clearDecoders v1 v2) := by
  unfold clearDecoders
  repeat' first
    | with_reducible assumption
    | with_reducible apply keeps_modLd
    | with_reducible apply h1
    | with_reducible rfl
    | with_reducible apply ChKeeps.of
    | with_reducible apply IslKeeps.of
    | (intro x; first | (refine (fun (hx : Keeps s0 x) => ?_) ?_; on_goal 2 => subst x) | skip)
    | lift_lets
    | split

theorem keeps_hostDown {v1} (h1 : Keeps s0 v1) :
    Keeps s0 (hostDown v1) := by
  unfold hostDown
  repeat' first
    | with_reducible assumption
    | with_reducible apply keeps_modHost
    | with_reducible apply keeps_lapse
    | with_reducible apply keeps_clearDecoders
    | with_reducible apply keeps_resetFunction
    | with_reducible apply keeps_foldl
    | with_reducible apply h1
    | with_reducible rfl
    | with_reducible apply ChKeeps.of
    | with_reducible apply IslKeeps.of
    | (intro x; first | (refine (fun (hx : Keeps s0 x) => ?_) ?_; on_goal 2 => subst x) | skip)
    | lift_lets
    | split

theorem keeps_execHostLinkDown {v1 v2} (h2 : Keeps s0 v2) :
    KX s0 (execHostLinkDown v1 v2) := by
  unfold execHostLinkDown
  repeat' first
    | with_reducible assumption
    | with_reducible apply keeps_hostDown
    | with_reducible refine KX.next ?_
    | with_reducible apply h2
    | with_reducible rfl
    | with_reducible apply ChKeeps.of
    | with_reducible apply IslKeeps.of
    | (intro x; first | (refine (fun (hx : Keeps s0 x) => ?_) ?_; on_goal 2 => subst x) | skip)
    | lift_lets
    | split

theorem keeps_acceptGrant {v1 v2 v3} (h1 : Keeps s0 v1) :
    Keeps s0 (acceptGrant v1 v2 v3) := by
  unfold acceptGrant
  repeat' first
    | with_reducible assumption
    | with_reducible apply keeps_modIsland
    | with_reducible apply keeps_addReg
    | with_reducible refine of_snd (by assumption) ?_
    | with_reducible apply h1
    | with_reducible rfl
    | with_reducible apply ChKeeps.of
    | with_reducible apply IslKeeps.of
    | (intro x; first | (refine (fun (hx : Keeps s0 x) => ?_) ?_; on_goal 2 => subst x) | skip)
    | lift_lets
    | split

theorem keeps_runAddDcResponse {v1 v2 v3} (h3 : Keeps s0 v3) :
    Keeps s0 (runAddDcResponse v1 v2 v3) := by
  unfold runAddDcResponse
  repeat' first
    | with_reducible assumption
    | with_reducible apply keeps_cxlLd
    | with_reducible apply keeps_mbInvalid
    | with_reducible apply keeps_acceptGrant
    | with_reducible apply keeps_mbReply
    | with_reducible apply keeps_modIsland
    | with_reducible apply keeps_foldl
    | with_reducible apply h3
    | with_reducible rfl
    | with_reducible apply ChKeeps.of
    | with_reducible apply IslKeeps.of
    | (intro x; first | (refine (fun (hx : Keeps s0 x) => ?_) ?_; on_goal 2 => subst x) | skip)
    | lift_lets
    | split

theorem keeps_execAddDcResponse {v1 v2 v3} (h3 : Keeps s0 v3) :
    KX s0 (execAddDcResponse v1 v2 v3) := by
  unfold execAddDcResponse
  repeat' first
    | with_reducible assumption
    | with_reducible apply keeps_cxlCmd
    | with_reducible apply keeps_runAddDcResponse
    | with_reducible refine KX.next ?_
    | with_reducible apply h3
    | with_reducible rfl
    | with_reducible apply ChKeeps.of
    | with_reducible apply IslKeeps.of
    | (intro x; first | (refine (fun (hx : Keeps s0 x) => ?_) ?_; on_goal 2 => subst x) | skip)
    | lift_lets
    | split

theorem keeps_runSupportedLogs {v1 v2} (h2 : Keeps s0 v2) :
    Keeps s0 (runSupportedLogs v1 v2) := by
  unfold runSupportedLogs
  repeat' first
    | with_reducible assumption
    | with_reducible apply keeps_mbReply
    | with_reducible apply h2
    | with_reducible rfl
    | with_reducible apply ChKeeps.of
    | with_reducible apply IslKeeps.of
    | (intro x; first | (refine (fun (hx : Keeps s0 x) => ?_) ?_; on_goal 2 => subst x) | skip)
    | lift_lets
    | split

theorem keeps_runGetLog {v1 v2 v3 v4 v5} (h5 : Keeps s0 v5) :
    Keeps s0 (runGetLog v1 v2 v3 v4 v5) := by
  unfold runGetLog
  repeat' first
    | with_reducible assumption
    | with_reducible apply keeps_mbReply
    | with_reducible apply keeps_mbInvalid
    | with_reducible apply h5
    | with_reducible rfl
    | with_reducible apply ChKeeps.of
    | with_reducible apply IslKeeps.of
    | (intro x; first | (refine (fun (hx : Keeps s0 x) => ?_) ?_; on_goal 2 => subst x) | skip)
    | lift_lets
    | split

theorem keeps_execGetLog {v1 v2 v3 v4 v5} (h5 : Keeps s0 v5) :
    KX s0 (execGetLog v1 v2 v3 v4 v5) := by
  unfold execGetLog
  repeat' first
    | with_reducible assumption
    | with_reducible apply keeps_cxlCmd
    | with_reducible apply keeps_runGetLog
    | with_reducible refine KX.next ?_
    | with_reducible apply h5
    | with_reducible rfl
    | with_reducible apply ChKeeps.of
    | with_reducible apply IslKeeps.of
    | (intro x; first | (refine (fun (hx : Keeps s0 x) => ?_) ?_; on_goal 2 => subst x) | skip)
    | lift_lets
    | split

theorem keeps_commitDecoder {v1 v2 v3 v4} (h4 : Keeps s0 v4) :
    Keeps s0 (commitDecoder v1 v2 v3 v4) := by
  unfold commitDecoder
  repeat' first
    | with_reducible assumption
    | with_reducible apply keeps_modLd
    | with_reducible apply h4
    | with_reducible rfl
    | with_reducible apply ChKeeps.of
    | with_reducible apply IslKeeps.of
    | (intro x; first | (refine (fun (hx : Keeps s0 x) => ?_) ?_; on_goal 2 => subst x) | skip)
    | lift_lets
    | split

theorem keeps_msixFlush {v1 v2 v3} (h1 : Keeps s0 v1) :
    Keeps s0 (msixFlush v1 v2 v3) := by
  unfold msixFlush
  repeat' first
    | with_reducible assumption
    | with_reducible apply keeps_emit
    | with_reducible apply keeps_modLd
    | with_reducible apply h1
    | with_reducible rfl
    | with_reducible apply ChKeeps.of
    | with_reducible apply IslKeeps.of
    | (intro x; first | (refine (fun (hx : Keeps s0 x) => ?_) ?_; on_goal 2 => subst x) | skip)
    | lift_lets
    | split

theorem keeps_unmaskVec {v1 v2 v3} (h1 : Keeps s0 v1) :
    Keeps s0 (unmaskVec v1 v2 v3) := by
  unfold unmaskVec
  repeat' first
    | with_reducible assumption
    | with_reducible apply keeps_msixFlush
    | with_reducible apply keeps_modLd
    | with_reducible apply h1
    | with_reducible rfl
    | with_reducible apply ChKeeps.of
    | with_reducible apply IslKeeps.of
    | (intro x; first | (refine (fun (hx : Keeps s0 x) => ?_) ?_; on_goal 2 => subst x) | skip)
    | lift_lets
    | split

theorem keeps_execMsixUnmask {v1 v2 v3} (h3 : Keeps s0 v3) :
    KX s0 (execMsixUnmask v1 v2 v3) := by
  unfold execMsixUnmask
  repeat' first
    | with_reducible assumption
    | with_reducible apply keeps_unmaskVec
    | with_reducible apply keeps_modLd
    | with_reducible apply keeps_msixFlush
    | with_reducible apply keeps_foldl
    | with_reducible refine KX.next ?_
    | with_reducible apply h3
    | with_reducible rfl
    | with_reducible apply ChKeeps.of
    | with_reducible apply IslKeeps.of
    | (intro x; first | (refine (fun (hx : Keeps s0 x) => ?_) ?_; on_goal 2 => subst x) | skip)
    | lift_lets
    | split

theorem keeps_runExtentList {v1 v2 v3 v4} (h4 : Keeps s0 v4) :
    Keeps s0 (runExtentList v1 v2 v3 v4) := by
  unfold runExtentList
  repeat' first
    | with_reducible assumption
    | with_reducible apply keeps_cxlLd
    | with_reducible apply keeps_mbReply
    | with_reducible apply h4
    | with_reducible rfl
    | with_reducible apply ChKeeps.of
    | with_reducible apply IslKeeps.of
    | (intro x; first | (refine (fun (hx : Keeps s0 x) => ?_) ?_; on_goal 2 => subst x) | skip)
    | lift_lets
    | split

theorem keeps_execGetDcExtentList {v1 v2 v3 v4} (h4 : Keeps s0 v4) :
    KX s0 (execGetDcExtentList v1 v2 v3 v4) := by
  unfold execGetDcExtentList
  repeat' first
    | with_reducible assumption
    | with_reducible apply keeps_cxlCmd
    | with_reducible apply keeps_runExtentList
    | with_reducible refine KX.next ?_
    | with_reducible apply h4
    | with_reducible rfl
    | with_reducible apply ChKeeps.of
    | with_reducible apply IslKeeps.of
    | (intro x; first | (refine (fun (hx : Keeps s0 x) => ?_) ?_; on_goal 2 => subst x) | skip)
    | lift_lets
    | split

theorem keeps_execHdmDecoderCommit {v1 v2 v3 v4} (h4 : Keeps s0 v4) :
    KX s0 (execHdmDecoderCommit v1 v2 v3 v4) := by
  unfold execHdmDecoderCommit
  repeat' first
    | with_reducible assumption
    | with_reducible apply keeps_modIsland
    | with_reducible apply keeps_commitDecoder
    | with_reducible refine KX.next ?_
    | with_reducible apply h4
    | with_reducible rfl
    | with_reducible apply ChKeeps.of
    | with_reducible apply IslKeeps.of
    | (intro x; first | (refine (fun (hx : Keeps s0 x) => ?_) ?_; on_goal 2 => subst x) | skip)
    | lift_lets
    | split

theorem keeps_fillBacking {v1 v2 v3 v4 v5} (h1 : Keeps s0 v1) :
    Keeps s0 (fillBacking v1 v2 v3 v4 v5) := by
  unfold fillBacking
  repeat' first
    | with_reducible assumption
    | with_reducible apply keeps_t1Write
    | with_reducible apply keeps_addLost
    | with_reducible apply keeps_modObj
    | with_reducible apply keeps_foldl
    | with_reducible apply h1
    | with_reducible rfl
    | with_reducible apply ChKeeps.of
    | with_reducible apply IslKeeps.of
    | (intro x; first | (refine (fun (hx : Keeps s0 x) => ?_) ?_; on_goal 2 => subst x) | skip)
    | lift_lets
    | split

theorem keeps_runPoisonList {v1 v2 v3 v4} (h4 : Keeps s0 v4) :
    Keeps s0 (runPoisonList v1 v2 v3 v4) := by
  unfold runPoisonList
  repeat' first
    | with_reducible assumption
    | with_reducible apply keeps_cxlLd
    | with_reducible apply keeps_mbReply
    | with_reducible apply h4
    | with_reducible rfl
    | with_reducible apply ChKeeps.of
    | with_reducible apply IslKeeps.of
    | (intro x; first | (refine (fun (hx : Keeps s0 x) => ?_) ?_; on_goal 2 => subst x) | skip)
    | lift_lets
    | split

theorem keeps_runBgStatus {v1 v2} (h2 : Keeps s0 v2) :
    Keeps s0 (runBgStatus v1 v2) := by
  unfold runBgStatus
  repeat' first
    | with_reducible assumption
    | with_reducible apply keeps_mbReply
    | with_reducible apply h2
    | with_reducible rfl
    | with_reducible apply ChKeeps.of
    | with_reducible apply IslKeeps.of
    | (intro x; first | (refine (fun (hx : Keeps s0 x) => ?_) ?_; on_goal 2 => subst x) | skip)
    | lift_lets
    | split

theorem keeps_execBackgroundOperationStatus {v1 v2} (h2 : Keeps s0 v2) :
    KX s0 (execBackgroundOperationStatus v1 v2) := by
  unfold execBackgroundOperationStatus
  repeat' first
    | with_reducible assumption
    | with_reducible apply keeps_cxlCmd
    | with_reducible apply keeps_runBgStatus
    | with_reducible refine KX.next ?_
    | with_reducible apply h2
    | with_reducible rfl
    | with_reducible apply ChKeeps.of
    | with_reducible apply IslKeeps.of
    | (intro x; first | (refine (fun (hx : Keeps s0 x) => ?_) ?_; on_goal 2 => subst x) | skip)
    | lift_lets
    | split

theorem keeps_dcNote {v1 v2 v3 v4 v5} (h1 : Keeps s0 v1) :
    Keeps s0 (dcNote v1 v2 v3 v4 v5) := by
  unfold dcNote
  repeat' first
    | with_reducible assumption
    | with_reducible apply keeps_emit
    | with_reducible apply keeps_modLd
    | with_reducible apply keeps_foldl
    | with_reducible apply h1
    | with_reducible rfl
    | with_reducible apply ChKeeps.of
    | with_reducible apply IslKeeps.of
    | (intro x; first | (refine (fun (hx : Keeps s0 x) => ?_) ?_; on_goal 2 => subst x) | skip)
    | lift_lets
    | split

theorem keeps_runDcAdd {v1 v2 v3 v4 v5 v6 v7} (h7 : Keeps s0 v7) :
    Keeps s0 (runDcAdd v1 v2 v3 v4 v5 v6 v7) := by
  unfold runDcAdd
  repeat' first
    | with_reducible assumption
    | with_reducible apply keeps_cxlFm
    | with_reducible apply keeps_raiseS
    | with_reducible apply keeps_mbSt
    | with_reducible apply keeps_fillBacking
    | with_reducible apply keeps_mbReply
    | with_reducible apply keeps_dcNote
    | with_reducible apply keeps_modIsland
    | with_reducible apply h7
    | with_reducible rfl
    | with_reducible apply ChKeeps.of
    | with_reducible apply IslKeeps.of
    | (intro x; first | (refine (fun (hx : Keeps s0 x) => ?_) ?_; on_goal 2 => subst x) | skip)
    | lift_lets
    | split

theorem keeps_execInitiateDcAdd {v1 v2 v3 v4 v5 v6 v7} (h7 : Keeps s0 v7) :
    KX s0 (execInitiateDcAdd v1 v2 v3 v4 v5 v6 v7) := by
  unfold execInitiateDcAdd
  repeat' first
    | with_reducible assumption
    | with_reducible apply keeps_cxlCmd
    | with_reducible apply keeps_runDcAdd
    | with_reducible refine KX.next ?_
    | with_reducible apply h7
    | with_reducible rfl
    | with_reducible apply ChKeeps.of
    | with_reducible apply IslKeeps.of
    | (intro x; first | (refine (fun (hx : Keeps s0 x) => ?_) ?_; on_goal 2 => subst x) | skip)
    | lift_lets
    | split

theorem keeps_runGetEvents {v1 v2 v3} (h3 : Keeps s0 v3) :
    Keeps s0 (runGetEvents v1 v2 v3) := by
  unfold runGetEvents
  repeat' first
    | with_reducible assumption
    | with_reducible apply keeps_cxlLd
    | with_reducible apply keeps_mbReply
    | with_reducible apply keeps_mbInvalid
    | with_reducible apply h3
    | with_reducible rfl
    | with_reducible apply ChKeeps.of
    | with_reducible apply IslKeeps.of
    | (intro x; first | (refine (fun (hx : Keeps s0 x) => ?_) ?_; on_goal 2 => subst x) | skip)
    | lift_lets
    | split

theorem keeps_execGetEventRecords {v1 v2 v3} (h3 : Keeps s0 v3) :
    KX s0 (execGetEventRecords v1 v2 v3) := by
  unfold execGetEventRecords
  repeat' first
    | with_reducible assumption
    | with_reducible apply keeps_cxlCmd
    | with_reducible apply keeps_runGetEvents
    | with_reducible refine KX.next ?_
    | with_reducible apply h3
    | with_reducible rfl
    | with_reducible apply ChKeeps.of
    | with_reducible apply IslKeeps.of
    | (intro x; first | (refine (fun (hx : Keeps s0 x) => ?_) ?_; on_goal 2 => subst x) | skip)
    | lift_lets
    | split

theorem keeps_execGlobalPersistentFlush {v1 v2} (h2 : Keeps s0 v2) :
    KX s0 (execGlobalPersistentFlush v1 v2) := by
  unfold execGlobalPersistentFlush
  repeat' first
    | with_reducible assumption
    | with_reducible apply keeps_emit
    | with_reducible refine KX.next ?_
    | with_reducible apply h2
    | with_reducible rfl
    | with_reducible apply ChKeeps.of
    | with_reducible apply IslKeeps.of
    | (intro x; first | (refine (fun (hx : Keeps s0 x) => ?_) ?_; on_goal 2 => subst x) | skip)
    | lift_lets
    | split

theorem keeps_execBadRegisterAccess {v1 v2 v3 v4 v5} (h5 : Keeps s0 v5) :
    KX s0 (execBadRegisterAccess v1 v2 v3 v4 v5) := by
  unfold execBadRegisterAccess
  repeat' first
    | with_reducible assumption
    | with_reducible apply keeps_emit
    | with_reducible apply keeps_modLd
    | with_reducible apply keeps_accessErr
    | with_reducible refine KX.next ?_
    | with_reducible apply h5
    | with_reducible rfl
    | with_reducible apply ChKeeps.of
    | with_reducible apply IslKeeps.of
    | (intro x; first | (refine (fun (hx : Keeps s0 x) => ?_) ?_; on_goal 2 => subst x) | skip)
    | lift_lets
    | split

theorem keeps_runDcRelease {v1 v2 v3 v4 v5 v6} (h6 : Keeps s0 v6) :
    Keeps s0 (runDcRelease v1 v2 v3 v4 v5 v6) := by
  unfold runDcRelease
  repeat' first
    | with_reducible assumption
    | with_reducible apply keeps_cxlFm
    | with_reducible apply keeps_mbInvalid
    | with_reducible apply keeps_dcNote
    | with_reducible apply keeps_grantsStep
    | with_reducible apply keeps_leaveGrant
    | with_reducible apply keeps_mbReply
    | with_reducible apply keeps_modIsland
    | with_reducible apply h6
    | with_reducible rfl
    | with_reducible apply ChKeeps.of
    | with_reducible apply IslKeeps.of
    | (intro x; first | (refine (fun (hx : Keeps s0 x) => ?_) ?_; on_goal 2 => subst x) | skip)
    | lift_lets
    | split

theorem keeps_execInitiateDcRelease {v1 v2 v3 v4 v5 v6} (h6 : Keeps s0 v6) :
    KX s0 (execInitiateDcRelease v1 v2 v3 v4 v5 v6) := by
  unfold execInitiateDcRelease
  repeat' first
    | with_reducible assumption
    | with_reducible apply keeps_cxlCmd
    | with_reducible apply keeps_runDcRelease
    | with_reducible refine KX.next ?_
    | with_reducible apply h6
    | with_reducible rfl
    | with_reducible apply ChKeeps.of
    | with_reducible apply IslKeeps.of
    | (intro x; first | (refine (fun (hx : Keeps s0 x) => ?_) ?_; on_goal 2 => subst x) | skip)
    | lift_lets
    | split

theorem keeps_execLdBind {v1 v2} (h2 : Keeps s0 v2) :
    KX s0 (execLdBind v1 v2) := by
  unfold execLdBind
  repeat' first
    | with_reducible assumption
    | with_reducible apply keeps_modLd
    | with_reducible refine KX.next ?_
    | with_reducible apply h2
    | with_reducible rfl
    | with_reducible apply ChKeeps.of
    | with_reducible apply IslKeeps.of
    | (intro x; first | (refine (fun (hx : Keeps s0 x) => ?_) ?_; on_goal 2 => subst x) | skip)
    | lift_lets
    | split

theorem keeps_runClearEvents {v1 v2 v3 v4} (h4 : Keeps s0 v4) :
    Keeps s0 (runClearEvents v1 v2 v3 v4) := by
  unfold runClearEvents
  repeat' first
    | with_reducible assumption
    | with_reducible apply keeps_cxlLd
    | with_reducible apply keeps_mbReply
    | with_reducible apply keeps_modLd
    | with_reducible apply keeps_mbInvalid
    | with_reducible apply h4
    | with_reducible rfl
    | with_reducible apply ChKeeps.of
    | with_reducible apply IslKeeps.of
    | (intro x; first | (refine (fun (hx : Keeps s0 x) => ?_) ?_; on_goal 2 => subst x) | skip)
    | lift_lets
    | split

theorem keeps_runLdInfo {v1 v2} (h2 : Keeps s0 v2) :
    Keeps s0 (runLdInfo v1 v2) := by
  unfold runLdInfo
  repeat' first
    | with_reducible assumption
    | with_reducible apply keeps_cxlFm
    | with_reducible apply keeps_mbReply
    | with_reducible apply h2
    | with_reducible rfl
    | with_reducible apply ChKeeps.of
    | with_reducible apply IslKeeps.of
    | (intro x; first | (refine (fun (hx : Keeps s0 x) => ?_) ?_; on_goal 2 => subst x) | skip)
    | lift_lets
    | split

theorem keeps_execGetLdInfo {v1 v2} (h2 : Keeps s0 v2) :
    KX s0 (execGetLdInfo v1 v2) := by
  unfold execGetLdInfo
  repeat' first
    | with_reducible assumption
    | with_reducible apply keeps_cxlCmd
    | with_reducible apply keeps_runLdInfo
    | with_reducible refine KX.next ?_
    | with_reducible apply h2
    | with_reducible rfl
    | with_reducible apply ChKeeps.of
    | with_reducible apply IslKeeps.of
    | (intro x; first | (refine (fun (hx : Keeps s0 x) => ?_) ?_; on_goal 2 => subst x) | skip)
    | lift_lets
    | split

theorem keeps_execGetSupportedLogs {v1 v2} (h2 : Keeps s0 v2) :
    KX s0 (execGetSupportedLogs v1 v2) := by
  unfold execGetSupportedLogs
  repeat' first
    | with_reducible assumption
    | with_reducible apply keeps_cxlCmd
    | with_reducible apply keeps_runSupportedLogs
    | with_reducible refine KX.next ?_
    | with_reducible apply h2
    | with_reducible rfl
    | with_reducible apply ChKeeps.of
    | with_reducible apply IslKeeps.of
    | (intro x; first | (refine (fun (hx : Keeps s0 x) => ?_) ?_; on_goal 2 => subst x) | skip)
    | lift_lets
    | split

theorem keeps_execGetPoisonList {v1 v2 v3 v4} (h4 : Keeps s0 v4) :
    KX s0 (execGetPoisonList v1 v2 v3 v4) := by
  unfold execGetPoisonList
  repeat' first
    | with_reducible assumption
    | with_reducible apply keeps_cxlCmd
    | with_reducible apply keeps_runPoisonList
    | with_reducible refine KX.next ?_
    | with_reducible apply h4
    | with_reducible rfl
    | with_reducible apply ChKeeps.of
    | with_reducible apply IslKeeps.of
    | (intro x; first | (refine (fun (hx : Keeps s0 x) => ?_) ?_; on_goal 2 => subst x) | skip)
    | lift_lets
    | split

theorem keeps_execReleaseDynamicCapacity {v1 v2 v3} (h3 : Keeps s0 v3) :
    KX s0 (execReleaseDynamicCapacity v1 v2 v3) := by
  unfold execReleaseDynamicCapacity
  repeat' first
    | with_reducible assumption
    | with_reducible apply keeps_cxlCmd
    | with_reducible apply keeps_runReleaseDc
    | with_reducible refine KX.next ?_
    | with_reducible apply h3
    | with_reducible rfl
    | with_reducible apply ChKeeps.of
    | with_reducible apply IslKeeps.of
    | (intro x; first | (refine (fun (hx : Keeps s0 x) => ?_) ?_; on_goal 2 => subst x) | skip)
    | lift_lets
    | split

theorem keeps_maskVec {v1 v2 v3} (h1 : Keeps s0 v1) :
    Keeps s0 (maskVec v1 v2 v3) := by
  unfold maskVec
  repeat' first
    | with_reducible assumption
    | with_reducible apply keeps_modLd
    | with_reducible apply h1
    | with_reducible rfl
    | with_reducible apply ChKeeps.of
    | with_reducible apply IslKeeps.of
    | (intro x; first | (refine (fun (hx : Keeps s0 x) => ?_) ?_; on_goal 2 => subst x) | skip)
    | lift_lets
    | split

theorem keeps_execHostLinkUp {v1 v2 v3} (h3 : Keeps s0 v3) :
    KX s0 (execHostLinkUp v1 v2 v3) := by
  unfold execHostLinkUp
  repeat' first
    | with_reducible assumption
    | with_reducible apply keeps_modHost
    | with_reducible apply keeps_modLd
    | with_reducible apply keeps_foldl
    | with_reducible refine KX.next ?_
    | with_reducible apply h3
    | with_reducible rfl
    | with_reducible apply ChKeeps.of
    | with_reducible apply IslKeeps.of
    | (intro x; first | (refine (fun (hx : Keeps s0 x) => ?_) ?_; on_goal 2 => subst x) | skip)
    | lift_lets
    | split

theorem keeps_execCxlReset {v1 v2} (h2 : Keeps s0 v2) :
    KX s0 (execCxlReset v1 v2) := by
  unfold execCxlReset
  repeat' first
    | with_reducible assumption
    | with_reducible apply keeps_modLd
    | with_reducible apply keeps_lapse
    | with_reducible apply keeps_clearDecoders
    | with_reducible apply keeps_resetFunction
    | with_reducible apply keeps_forCh
    | with_reducible apply keeps_stopRing
    | with_reducible apply keeps_foldl
    | with_reducible refine KX.next ?_
    | with_reducible apply h2
    | with_reducible rfl
    | with_reducible apply ChKeeps.of
    | with_reducible apply IslKeeps.of
    | (intro x; first | (refine (fun (hx : Keeps s0 x) => ?_) ?_; on_goal 2 => subst x) | skip)
    | lift_lets
    | split

theorem keeps_execSetLdAllocations {v1 v2} (h2 : Keeps s0 v2) :
    KX s0 (execSetLdAllocations v1 v2) := by
  unfold execSetLdAllocations
  repeat' first
    | with_reducible assumption
    | with_reducible apply keeps_cxlCmd
    | with_reducible apply keeps_mbUnsupported
    | with_reducible refine KX.next ?_
    | with_reducible apply h2
    | with_reducible rfl
    | with_reducible apply ChKeeps.of
    | with_reducible apply IslKeeps.of
    | (intro x; first | (refine (fun (hx : Keeps s0 x) => ?_) ?_; on_goal 2 => subst x) | skip)
    | lift_lets
    | split

theorem keeps_runDcConfig {v1 v2} (h2 : Keeps s0 v2) :
    Keeps s0 (runDcConfig v1 v2) := by
  unfold runDcConfig
  repeat' first
    | with_reducible assumption
    | with_reducible apply keeps_cxlLd
    | with_reducible apply keeps_mbReply
    | with_reducible apply h2
    | with_reducible rfl
    | with_reducible apply ChKeeps.of
    | with_reducible apply IslKeeps.of
    | (intro x; first | (refine (fun (hx : Keeps s0 x) => ?_) ?_; on_goal 2 => subst x) | skip)
    | lift_lets
    | split

theorem keeps_execGetDcConfiguration {v1 v2} (h2 : Keeps s0 v2) :
    KX s0 (execGetDcConfiguration v1 v2) := by
  unfold execGetDcConfiguration
  repeat' first
    | with_reducible assumption
    | with_reducible apply keeps_cxlCmd
    | with_reducible apply keeps_runDcConfig
    | with_reducible refine KX.next ?_
    | with_reducible apply h2
    | with_reducible rfl
    | with_reducible apply ChKeeps.of
    | with_reducible apply IslKeeps.of
    | (intro x; first | (refine (fun (hx : Keeps s0 x) => ?_) ?_; on_goal 2 => subst x) | skip)
    | lift_lets
    | split

theorem keeps_execRequestAbortBackground {v1 v2} (h2 : Keeps s0 v2) :
    KX s0 (execRequestAbortBackground v1 v2) := by
  unfold execRequestAbortBackground
  repeat' first
    | with_reducible assumption
    | with_reducible apply keeps_cxlCmd
    | with_reducible apply keeps_mbUnsupported
    | with_reducible refine KX.next ?_
    | with_reducible apply h2
    | with_reducible rfl
    | with_reducible apply ChKeeps.of
    | with_reducible apply IslKeeps.of
    | (intro x; first | (refine (fun (hx : Keeps s0 x) => ?_) ?_; on_goal 2 => subst x) | skip)
    | lift_lets
    | split

theorem keeps_execFlr {v1 v2} (h2 : Keeps s0 v2) :
    KX s0 (execFlr v1 v2) := by
  unfold execFlr
  repeat' first
    | with_reducible assumption
    | with_reducible apply keeps_modLd
    | with_reducible apply keeps_lapse
    | with_reducible apply keeps_resetFunction
    | with_reducible refine KX.next ?_
    | with_reducible apply h2
    | with_reducible rfl
    | with_reducible apply ChKeeps.of
    | with_reducible apply IslKeeps.of
    | (intro x; first | (refine (fun (hx : Keeps s0 x) => ?_) ?_; on_goal 2 => subst x) | skip)
    | lift_lets
    | split

theorem keeps_runIdentify {v1 v2} (h2 : Keeps s0 v2) :
    Keeps s0 (runIdentify v1 v2) := by
  unfold runIdentify
  repeat' first
    | with_reducible assumption
    | with_reducible apply keeps_mbReply
    | with_reducible apply h2
    | with_reducible rfl
    | with_reducible apply ChKeeps.of
    | with_reducible apply IslKeeps.of
    | (intro x; first | (refine (fun (hx : Keeps s0 x) => ?_) ?_; on_goal 2 => subst x) | skip)
    | lift_lets
    | split

theorem keeps_execLdUnbind {v1 v2} (h2 : Keeps s0 v2) :
    KX s0 (execLdUnbind v1 v2) := by
  unfold execLdUnbind
  repeat' first
    | with_reducible assumption
    | with_reducible apply keeps_lapse
    | with_reducible apply keeps_modLd
    | with_reducible refine KX.next ?_
    | with_reducible apply h2
    | with_reducible rfl
    | with_reducible apply ChKeeps.of
    | with_reducible apply IslKeeps.of
    | (intro x; first | (refine (fun (hx : Keeps s0 x) => ?_) ?_; on_goal 2 => subst x) | skip)
    | lift_lets
    | split

theorem keeps_execClearEventRecords {v1 v2 v3 v4} (h4 : Keeps s0 v4) :
    KX s0 (execClearEventRecords v1 v2 v3 v4) := by
  unfold execClearEventRecords
  repeat' first
    | with_reducible assumption
    | with_reducible apply keeps_cxlCmd
    | with_reducible apply keeps_runClearEvents
    | with_reducible refine KX.next ?_
    | with_reducible apply h4
    | with_reducible rfl
    | with_reducible apply ChKeeps.of
    | with_reducible apply IslKeeps.of
    | (intro x; first | (refine (fun (hx : Keeps s0 x) => ?_) ?_; on_goal 2 => subst x) | skip)
    | lift_lets
    | split

theorem keeps_execIdentifyMemoryDevice {v1 v2} (h2 : Keeps s0 v2) :
    KX s0 (execIdentifyMemoryDevice v1 v2) := by
  unfold execIdentifyMemoryDevice
  repeat' first
    | with_reducible assumption
    | with_reducible apply keeps_cxlCmd
    | with_reducible apply keeps_runIdentify
    | with_reducible refine KX.next ?_
    | with_reducible apply h2
    | with_reducible rfl
    | with_reducible apply ChKeeps.of
    | with_reducible apply IslKeeps.of
    | (intro x; first | (refine (fun (hx : Keeps s0 x) => ?_) ?_; on_goal 2 => subst x) | skip)
    | lift_lets
    | split

end Sys2Proof.Laws
end

