-- ==== Sys2Proof/Laws/KeepsLinkCmds.lean ====
section
/-! SUPPORT. `Keeps` of the definitions of Sys2Proof/Machine/LinkCmds.lean. -/

namespace Sys2Proof.Laws
open Sys2Proof Sys2Proof.Machine

variable {s0 : State}

theorem keeps_sqFinish {v1 v2 v3 v4 v5 v6 v7 v8 v9 v10 v11 v12} (h1 : Keeps s0 v1) :
    Keeps s0 (sqFinish v1 v2 v3 v4 v5 v6 v7 v8 v9 v10 v11 v12) := by
  unfold sqFinish
  repeat' first
    | with_reducible assumption
    | with_reducible apply keeps_t0Write
    | with_reducible apply keeps_modConn
    | with_reducible apply keeps_gateAddTo
    | with_reducible refine of_fst (by assumption) ?_
    | with_reducible apply h1
    | with_reducible rfl
    | with_reducible apply ChKeeps.of
    | with_reducible apply IslKeeps.of
    | (intro x; first | (refine (fun (hx : Keeps s0 x) => ?_) ?_; on_goal 2 => subst x) | skip)
    | lift_lets
    | split

theorem keeps_linkDown {v1 v2 v3} (h1 : Keeps s0 v1) :
    Keeps s0 (linkDown v1 v2 v3) := by
  unfold linkDown
  repeat' first
    | with_reducible assumption
    | with_reducible apply keeps_modLink
    | with_reducible apply keeps_raiseC
    | with_reducible apply h1
    | with_reducible rfl
    | with_reducible apply ChKeeps.of
    | with_reducible apply IslKeeps.of
    | (intro x; first | (refine (fun (hx : Keeps s0 x) => ?_) ?_; on_goal 2 => subst x) | skip)
    | lift_lets
    | split

theorem keeps_execLinkLossOfSignal {v1 v2} (h2 : Keeps s0 v2) :
    KX s0 (execLinkLossOfSignal v1 v2) := by
  unfold execLinkLossOfSignal
  repeat' first
    | with_reducible assumption
    | with_reducible apply keeps_linkDown
    | with_reducible refine KX.next ?_
    | with_reducible apply h2
    | with_reducible rfl
    | with_reducible apply ChKeeps.of
    | with_reducible apply IslKeeps.of
    | (intro x; first | (refine (fun (hx : Keeps s0 x) => ?_) ?_; on_goal 2 => subst x) | skip)
    | lift_lets
    | split

theorem keeps_linkCmd {v1 v2 v3 v4 v5 v6 v7} (h1 : Keeps s0 v1) (h7 : ∀ x0 x1, Keeps s0 x0 → Keeps s0 (v7 x0 x1)) :
    Keeps s0 (linkCmd v1 v2 v3 v4 v5 v6 v7) := by
  unfold linkCmd
  repeat' first
    | with_reducible assumption
    | with_reducible apply keeps_mbRun
    | with_reducible apply keeps_mbOnCh
    | with_reducible apply h1
    | with_reducible apply h7
    | with_reducible rfl
    | with_reducible apply ChKeeps.of
    | with_reducible apply IslKeeps.of
    | (intro x; first | (refine (fun (hx : Keeps s0 x) => ?_) ?_; on_goal 2 => subst x) | skip)
    | lift_lets
    | split

theorem keeps_dropSends {v1 v2 v3} (h1 : Keeps s0 v1) :
    Keeps s0 (dropSends v1 v2 v3) := by
  unfold dropSends
  repeat' first
    | with_reducible assumption
    | with_reducible apply keeps_modLink
    | with_reducible apply h1
    | with_reducible rfl
    | with_reducible apply ChKeeps.of
    | with_reducible apply IslKeeps.of
    | (intro x; first | (refine (fun (hx : Keeps s0 x) => ?_) ?_; on_goal 2 => subst x) | skip)
    | lift_lets
    | split

theorem keeps_dropOut {v1 v2 v3 v4} (h1 : Keeps s0 v1) :
    Keeps s0 (dropOut v1 v2 v3 v4) := by
  unfold dropOut
  repeat' first
    | with_reducible assumption
    | with_reducible apply keeps_modConn
    | with_reducible apply h1
    | with_reducible rfl
    | with_reducible apply ChKeeps.of
    | with_reducible apply IslKeeps.of
    | (intro x; first | (refine (fun (hx : Keeps s0 x) => ?_) ?_; on_goal 2 => subst x) | skip)
    | lift_lets
    | split

theorem keeps_outFails {v1 v2 v3 v4 v5 v6} (h1 : Keeps s0 v1) :
    Keeps s0 (outFails v1 v2 v3 v4 v5 v6) := by
  unfold outFails
  repeat' first
    | with_reducible assumption
    | with_reducible apply keeps_dropOut
    | with_reducible apply keeps_sqFinish
    | with_reducible apply keeps_move3Done
    | with_reducible refine of_snd (by assumption) ?_
    | with_reducible apply h1
    | with_reducible rfl
    | with_reducible apply ChKeeps.of
    | with_reducible apply IslKeeps.of
    | (intro x; first | (refine (fun (hx : Keeps s0 x) => ?_) ?_; on_goal 2 => subst x) | skip)
    | lift_lets
    | split

theorem keeps_resetSnd {v1 v2 v3 v4} (h1 : Keeps s0 v1) :
    Keeps s0 (resetSnd v1 v2 v3 v4) := by
  unfold resetSnd
  repeat' first
    | with_reducible assumption
    | with_reducible apply keeps_dropSends
    | with_reducible apply keeps_outFails
    | with_reducible apply keeps_modConn
    | with_reducible apply keeps_foldl
    | with_reducible apply h1
    | with_reducible rfl
    | with_reducible apply ChKeeps.of
    | with_reducible apply IslKeeps.of
    | (intro x; first | (refine (fun (hx : Keeps s0 x) => ?_) ?_; on_goal 2 => subst x) | skip)
    | lift_lets
    | split

theorem keeps_resetRcv {v1 v2 v3 v4} (h1 : Keeps s0 v1) :
    Keeps s0 (resetRcv v1 v2 v3 v4) := by
  unfold resetRcv
  repeat' first
    | with_reducible assumption
    | with_reducible apply keeps_endAdm
    | with_reducible apply keeps_wbWake
    | with_reducible apply keeps_leaveLines
    | with_reducible apply keeps_modRx
    | with_reducible apply keeps_modConn
    | with_reducible apply h1
    | with_reducible rfl
    | with_reducible apply ChKeeps.of
    | with_reducible apply IslKeeps.of
    | (intro x; first | (refine (fun (hx : Keeps s0 x) => ?_) ?_; on_goal 2 => subst x) | skip)
    | lift_lets
    | split

theorem keeps_linkRest {v1} (h1 : Keeps s0 v1) :
    Keeps s0 (linkRest v1) := by
  unfold linkRest
  repeat' first
    | with_reducible assumption
    | with_reducible apply keeps_shutStep
    | with_reducible apply keeps_closeSteps
    | with_reducible apply h1
    | with_reducible rfl
    | with_reducible apply ChKeeps.of
    | with_reducible apply IslKeeps.of
    | (intro x; first | (refine (fun (hx : Keeps s0 x) => ?_) ?_; on_goal 2 => subst x) | skip)
    | lift_lets
    | split

theorem keeps_runLinkConnReset {v1 v2 v3} (h3 : Keeps s0 v3) :
    Keeps s0 (runLinkConnReset v1 v2 v3) := by
  unfold runLinkConnReset
  repeat' first
    | with_reducible assumption
    | with_reducible apply keeps_linkCmd
    | with_reducible apply keeps_mbSt
    | with_reducible apply keeps_resetSnd
    | with_reducible apply keeps_resetRcv
    | with_reducible apply keeps_linkRest
    | with_reducible apply keeps_windowsStep
    | with_reducible apply keeps_sendFlit
    | with_reducible apply h3
    | with_reducible rfl
    | with_reducible apply ChKeeps.of
    | with_reducible apply IslKeeps.of
    | (intro x; first | (refine (fun (hx : Keeps s0 x) => ?_) ?_; on_goal 2 => subst x) | skip)
    | lift_lets
    | split

theorem keeps_execLinkConnReset {v1 v2 v3} (h3 : Keeps s0 v3) :
    KX s0 (execLinkConnReset v1 v2 v3) := by
  unfold execLinkConnReset
  repeat' first
    | with_reducible assumption
    | with_reducible apply keeps_mbEnter
    | with_reducible apply keeps_runLinkConnReset
    | with_reducible refine KX.next ?_
    | with_reducible apply h3
    | with_reducible rfl
    | with_reducible apply ChKeeps.of
    | with_reducible apply IslKeeps.of
    | (intro x; first | (refine (fun (hx : Keeps s0 x) => ?_) ?_; on_goal 2 => subst x) | skip)
    | lift_lets
    | split

theorem keeps_runLinkWindowSet {v1 v2 v3} (h3 : Keeps s0 v3) :
    Keeps s0 (runLinkWindowSet v1 v2 v3) := by
  unfold runLinkWindowSet
  repeat' first
    | with_reducible assumption
    | with_reducible apply keeps_linkCmd
    | with_reducible apply keeps_mbSt
    | with_reducible apply keeps_windowsStep
    | with_reducible apply keeps_modLink
    | with_reducible apply keeps_allocNodes
    | with_reducible apply keeps_setWindow
    | with_reducible refine of_some (by assumption) ?_
    | with_reducible apply h3
    | with_reducible rfl
    | with_reducible apply ChKeeps.of
    | with_reducible apply IslKeeps.of
    | (intro x; first | (refine (fun (hx : Keeps s0 x) => ?_) ?_; on_goal 2 => subst x) | skip)
    | lift_lets
    | split

theorem keeps_execLinkWindowSet {v1 v2 v3} (h3 : Keeps s0 v3) :
    KX s0 (execLinkWindowSet v1 v2 v3) := by
  unfold execLinkWindowSet
  repeat' first
    | with_reducible assumption
    | with_reducible apply keeps_mbEnter
    | with_reducible apply keeps_runLinkWindowSet
    | with_reducible refine KX.next ?_
    | with_reducible apply h3
    | with_reducible rfl
    | with_reducible apply ChKeeps.of
    | with_reducible apply IslKeeps.of
    | (intro x; first | (refine (fun (hx : Keeps s0 x) => ?_) ?_; on_goal 2 => subst x) | skip)
    | lift_lets
    | split

theorem keeps_noteCorrected {v1 v2 v3} (h1 : Keeps s0 v1) :
    Keeps s0 (noteCorrected v1 v2 v3) := by
  unfold noteCorrected
  repeat' first
    | with_reducible assumption
    | with_reducible apply keeps_modLink
    | with_reducible apply h1
    | with_reducible rfl
    | with_reducible apply ChKeeps.of
    | with_reducible apply IslKeeps.of
    | (intro x; first | (refine (fun (hx : Keeps s0 x) => ?_) ?_; on_goal 2 => subst x) | skip)
    | lift_lets
    | split

theorem keeps_roceCnp {v1 v2 v3} (h1 : Keeps s0 v1) :
    Keeps s0 (roceCnp v1 v2 v3) := by
  unfold roceCnp
  repeat' first
    | with_reducible assumption
    | with_reducible apply keeps_roceSend
    | with_reducible apply keeps_modConn
    | with_reducible apply keeps_drawFree
    | with_reducible refine of_snd (by assumption) ?_
    | with_reducible apply h1
    | with_reducible rfl
    | with_reducible apply ChKeeps.of
    | with_reducible apply IslKeeps.of
    | (intro x; first | (refine (fun (hx : Keeps s0 x) => ?_) ?_; on_goal 2 => subst x) | skip)
    | lift_lets
    | split

theorem keeps_roceTake {v1 v2 v3 v4} (h1 : Keeps s0 v1) :
    Keeps s0 (roceTake v1 v2 v3 v4) := by
  unfold roceTake
  repeat' first
    | with_reducible assumption
    | with_reducible apply keeps_linkErr
    | with_reducible apply keeps_roceCnp
    | with_reducible apply keeps_rxArrive
    | with_reducible apply keeps_noteBadConn
    | with_reducible apply keeps_linkRest
    | with_reducible apply keeps_roceSteps
    | with_reducible apply h1
    | with_reducible rfl
    | with_reducible apply ChKeeps.of
    | with_reducible apply IslKeeps.of
    | (intro x; first | (refine (fun (hx : Keeps s0 x) => ?_) ?_; on_goal 2 => subst x) | skip)
    | lift_lets
    | split

theorem keeps_roceArrive {v1 v2 v3 v4 v5} (h1 : Keeps s0 v1) :
    Keeps s0 (roceArrive v1 v2 v3 v4 v5) := by
  unfold roceArrive
  repeat' first
    | with_reducible assumption
    | with_reducible apply keeps_noteCorrected
    | with_reducible apply keeps_roceTake
    | with_reducible apply h1
    | with_reducible rfl
    | with_reducible apply ChKeeps.of
    | with_reducible apply IslKeeps.of
    | (intro x; first | (refine (fun (hx : Keeps s0 x) => ?_) ?_; on_goal 2 => subst x) | skip)
    | lift_lets
    | split

theorem keeps_execFetchadd {v1 v2 v3 v4} (h4 : Keeps s0 v4) :
    KX s0 (execFetchadd v1 v2 v3 v4) := by
  unfold execFetchadd
  repeat' first
    | with_reducible assumption
    | with_reducible apply keeps_roceArrive
    | with_reducible refine KX.next ?_
    | with_reducible apply h4
    | with_reducible rfl
    | with_reducible apply ChKeeps.of
    | with_reducible apply IslKeeps.of
    | (intro x; first | (refine (fun (hx : Keeps s0 x) => ?_) ?_; on_goal 2 => subst x) | skip)
    | lift_lets
    | split

theorem keeps_modOut {v1 v2 v3 v4 v5} (h1 : Keeps s0 v1) :
    Keeps s0 (modOut v1 v2 v3 v4 v5) := by
  unfold modOut
  repeat' first
    | with_reducible assumption
    | with_reducible apply keeps_modConn
    | with_reducible apply h1
    | with_reducible rfl
    | with_reducible apply ChKeeps.of
    | with_reducible apply IslKeeps.of
    | (intro x; first | (refine (fun (hx : Keeps s0 x) => ?_) ?_; on_goal 2 => subst x) | skip)
    | lift_lets
    | split

theorem keeps_outEnds {v1 v2 v3 v4 v5 v6 v7} (h1 : Keeps s0 v1) :
    Keeps s0 (outEnds v1 v2 v3 v4 v5 v6 v7).2 := by
  unfold outEnds
  extract_lets st t d found u
  have ht : Keeps s0 t := keeps_dropOut h1
  clear_value t
  split
  · exact keeps_sqFinish (keeps_ite (fun _ => keeps_t0Write ht) (fun _ => ht))
  · split
    · extract_lets y
      have hy : Keeps s0 y.2 := keeps_move3Done ht
      split
      · exact hy
      · exact keeps_move3Done h1
    · exact ht

theorem keeps_readArrives {v1 v2 v3 v4 v5 v6} (h1 : Keeps s0 v1) :
    Keeps s0 (readArrives v1 v2 v3 v4 v5 v6).2 := by
  unfold readArrives
  split
  · exact h1
  · extract_lets bs a b
    have ha : Keeps s0 a := keeps_modOut h1
    have hb : Keeps s0 b := by
      subst b
      split
      · exact keeps_t0Write ha
      · exact ha
    clear_value a b
    split
    · exact hb
    · exact keeps_outEnds hb

theorem keeps_respTake {v1 v2 v3} (h1 : Keeps s0 v1) :
    Keeps s0 (respTake v1 v2 v3).2 := by
  unfold respTake
  extract_lets h
  split
  · exact h1
  · split
    · exact keeps_readArrives h1
    · exact keeps_outEnds h1

theorem keeps_respScan {v1 v2 v3 v4} (h4 : Keeps s0 v4) :
    Keeps s0 (respScan v1 v2 v3 v4) := by
  revert h4
  fun_induction respScan v1 v2 v3 v4
  all_goals try intro h4
  all_goals repeat' first
    | with_reducible assumption
    | with_reducible apply keeps_respTake
    | with_reducible apply keeps_modLink
    | with_reducible refine of_snd (by assumption) ?_
    | with_reducible apply h4
    | apply_assumption (transparency := .reducible)
    | with_reducible rfl
    | with_reducible apply ChKeeps.of
    | with_reducible apply IslKeeps.of
    | (intro x; first | (refine (fun (hx : Keeps s0 x) => ?_) ?_; on_goal 2 => subst x) | skip)
    | lift_lets
    | split

theorem keeps_execPacketReceive {v1 v2 v3 v4 v5} (h5 : Keeps s0 v5) :
    KX s0 (execPacketReceive v1 v2 v3 v4 v5) := by
  unfold execPacketReceive
  repeat' first
    | with_reducible assumption
    | with_reducible apply keeps_noteCorrected
    | with_reducible apply keeps_linkErr
    | with_reducible apply keeps_modLink
    | with_reducible apply keeps_noteBadConn
    | with_reducible apply keeps_rxArrive
    | with_reducible refine KX.next ?_
    | with_reducible apply h5
    | with_reducible rfl
    | with_reducible apply ChKeeps.of
    | with_reducible apply IslKeeps.of
    | (intro x; first | (refine (fun (hx : Keeps s0 x) => ?_) ?_; on_goal 2 => subst x) | skip)
    | lift_lets
    | split

theorem keeps_runLinkConnClose {v1 v2 v3} (h3 : Keeps s0 v3) :
    Keeps s0 (runLinkConnClose v1 v2 v3) := by
  unfold runLinkConnClose
  repeat' first
    | with_reducible assumption
    | with_reducible apply keeps_linkCmd
    | with_reducible apply keeps_mbSt
    | with_reducible apply keeps_linkRest
    | with_reducible apply keeps_mbStart
    | with_reducible apply h3
    | with_reducible rfl
    | with_reducible apply ChKeeps.of
    | with_reducible apply IslKeeps.of
    | (intro x; first | (refine (fun (hx : Keeps s0 x) => ?_) ?_; on_goal 2 => subst x) | skip)
    | lift_lets
    | split

theorem keeps_linkEnable {v1 v2 v3} (h1 : Keeps s0 v1) :
    Keeps s0 (linkEnable v1 v2 v3) := by
  unfold linkEnable
  repeat' first
    | with_reducible assumption
    | with_reducible apply keeps_modLink
    | with_reducible apply keeps_emit
    | with_reducible apply keeps_linkDown
    | with_reducible apply h1
    | with_reducible rfl
    | with_reducible apply ChKeeps.of
    | with_reducible apply IslKeeps.of
    | (intro x; first | (refine (fun (hx : Keeps s0 x) => ?_) ?_; on_goal 2 => subst x) | skip)
    | lift_lets
    | split

theorem keeps_execLinkEnableWrite {v1 v2 v3 v4} (h4 : Keeps s0 v4) :
    KX s0 (execLinkEnableWrite v1 v2 v3 v4) := by
  unfold execLinkEnableWrite
  repeat' first
    | with_reducible assumption
    | with_reducible apply keeps_chanWrite
    | with_reducible apply keeps_holdWrite
    | with_reducible apply keeps_linkEnable
    | with_reducible refine KX.next ?_
    | with_reducible apply h4
    | with_reducible rfl
    | with_reducible apply ChKeeps.of
    | with_reducible apply IslKeeps.of
    | (intro x; first | (refine (fun (hx : Keeps s0 x) => ?_) ?_; on_goal 2 => subst x) | skip)
    | lift_lets
    | split

theorem keeps_execRoceUnsupportedRequest {v1 v2 v3} (h3 : Keeps s0 v3) :
    KX s0 (execRoceUnsupportedRequest v1 v2 v3) := by
  unfold execRoceUnsupportedRequest
  repeat' first
    | with_reducible assumption
    | with_reducible apply keeps_roceArrive
    | with_reducible refine KX.next ?_
    | with_reducible apply h3
    | with_reducible rfl
    | with_reducible apply ChKeeps.of
    | with_reducible apply IslKeeps.of
    | (intro x; first | (refine (fun (hx : Keeps s0 x) => ?_) ?_; on_goal 2 => subst x) | skip)
    | lift_lets
    | split

theorem keeps_serveNative {v1 v2 v3 v4} (h1 : Keeps s0 v1) :
    Keeps s0 (serveNative v1 v2 v3 v4) := by
  unfold serveNative
  repeat' first
    | with_reducible assumption
    | with_reducible apply keeps_linkRest
    | with_reducible apply keeps_rxStep
    | with_reducible apply h1
    | with_reducible rfl
    | with_reducible apply ChKeeps.of
    | with_reducible apply IslKeeps.of
    | (intro x; first | (refine (fun (hx : Keeps s0 x) => ?_) ?_; on_goal 2 => subst x) | skip)
    | lift_lets
    | split

theorem keeps_execAdd16 {v1 v2 v3} (h3 : Keeps s0 v3) :
    KX s0 (execAdd16 v1 v2 v3) := by
  unfold execAdd16
  repeat' first
    | with_reducible assumption
    | with_reducible apply keeps_serveNative
    | with_reducible refine KX.next ?_
    | with_reducible apply h3
    | with_reducible rfl
    | with_reducible apply ChKeeps.of
    | with_reducible apply IslKeeps.of
    | (intro x; first | (refine (fun (hx : Keeps s0 x) => ?_) ?_; on_goal 2 => subst x) | skip)
    | lift_lets
    | split

theorem keeps_linkDegraded {v1 v2 v3} (h1 : Keeps s0 v1) :
    Keeps s0 (linkDegraded v1 v2 v3) := by
  unfold linkDegraded
  repeat' first
    | with_reducible assumption
    | with_reducible apply keeps_raiseC
    | with_reducible apply keeps_setChState
    | with_reducible apply h1
    | with_reducible rfl
    | with_reducible apply ChKeeps.of
    | with_reducible apply IslKeeps.of
    | (intro x; first | (refine (fun (hx : Keeps s0 x) => ?_) ?_; on_goal 2 => subst x) | skip)
    | lift_lets
    | split

theorem keeps_execAdd8 {v1 v2 v3} (h3 : Keeps s0 v3) :
    KX s0 (execAdd8 v1 v2 v3) := by
  unfold execAdd8
  repeat' first
    | with_reducible assumption
    | with_reducible apply keeps_serveNative
    | with_reducible refine KX.next ?_
    | with_reducible apply h3
    | with_reducible rfl
    | with_reducible apply ChKeeps.of
    | with_reducible apply IslKeeps.of
    | (intro x; first | (refine (fun (hx : Keeps s0 x) => ?_) ?_; on_goal 2 => subst x) | skip)
    | lift_lets
    | split

theorem keeps_execWrite {v1 v2 v3} (h3 : Keeps s0 v3) :
    KX s0 (execWrite v1 v2 v3) := by
  unfold execWrite
  repeat' first
    | with_reducible assumption
    | with_reducible apply keeps_serveNative
    | with_reducible refine KX.next ?_
    | with_reducible apply h3
    | with_reducible rfl
    | with_reducible apply ChKeeps.of
    | with_reducible apply IslKeeps.of
    | (intro x; first | (refine (fun (hx : Keeps s0 x) => ?_) ?_; on_goal 2 => subst x) | skip)
    | lift_lets
    | split

theorem keeps_runLinkConnSet {v1 v2 v3} (h3 : Keeps s0 v3) :
    Keeps s0 (runLinkConnSet v1 v2 v3) := by
  unfold runLinkConnSet
  repeat' first
    | with_reducible assumption
    | with_reducible apply keeps_linkCmd
    | with_reducible apply keeps_mbSt
    | with_reducible apply keeps_allocNodes
    | with_reducible apply keeps_modConn
    | with_reducible refine of_some (by assumption) ?_
    | with_reducible apply h3
    | with_reducible rfl
    | with_reducible apply ChKeeps.of
    | with_reducible apply IslKeeps.of
    | (intro x; first | (refine (fun (hx : Keeps s0 x) => ?_) ?_; on_goal 2 => subst x) | skip)
    | lift_lets
    | split

theorem keeps_execRdmaReadRequest {v1 v2 v3 v4} (h4 : Keeps s0 v4) :
    KX s0 (execRdmaReadRequest v1 v2 v3 v4) := by
  unfold execRdmaReadRequest
  repeat' first
    | with_reducible assumption
    | with_reducible apply keeps_roceArrive
    | with_reducible refine KX.next ?_
    | with_reducible apply h4
    | with_reducible rfl
    | with_reducible apply ChKeeps.of
    | with_reducible apply IslKeeps.of
    | (intro x; first | (refine (fun (hx : Keeps s0 x) => ?_) ?_; on_goal 2 => subst x) | skip)
    | lift_lets
    | split

theorem keeps_laneSpared {v1 v2 v3} (h1 : Keeps s0 v1) :
    Keeps s0 (laneSpared v1 v2 v3) := by
  unfold laneSpared
  repeat' first
    | with_reducible assumption
    | with_reducible apply keeps_modLink
    | with_reducible apply keeps_raiseC
    | with_reducible apply keeps_raiseSpare
    | with_reducible apply h1
    | with_reducible rfl
    | with_reducible apply ChKeeps.of
    | with_reducible apply IslKeeps.of
    | (intro x; first | (refine (fun (hx : Keeps s0 x) => ?_) ?_; on_goal 2 => subst x) | skip)
    | lift_lets
    | split

theorem keeps_linkAtWidth {v1 v2} (h1 : Keeps s0 v1) :
    Keeps s0 (linkAtWidth v1 v2) := by
  unfold linkAtWidth
  repeat' first
    | with_reducible assumption
    | with_reducible apply keeps_modLink
    | with_reducible apply keeps_laneSpared
    | with_reducible apply keeps_linkDegraded
    | with_reducible apply h1
    | with_reducible rfl
    | with_reducible apply ChKeeps.of
    | with_reducible apply IslKeeps.of
    | (intro x; first | (refine (fun (hx : Keeps s0 x) => ?_) ?_; on_goal 2 => subst x) | skip)
    | lift_lets
    | split

theorem keeps_resend {v1 v2 v3 v4} (h1 : Keeps s0 v1) :
    Keeps s0 (resend v1 v2 v3 v4) := by
  unfold resend
  repeat' first
    | with_reducible assumption
    | with_reducible apply keeps_sendPkts
    | with_reducible apply keeps_modOut
    | with_reducible apply h1
    | with_reducible rfl
    | with_reducible apply ChKeeps.of
    | with_reducible apply IslKeeps.of
    | (intro x; first | (refine (fun (hx : Keeps s0 x) => ?_) ?_; on_goal 2 => subst x) | skip)
    | lift_lets
    | split

theorem keeps_execRetransmitWaitEnd {v1 v2 v3 v4} (h4 : Keeps s0 v4) :
    KX s0 (execRetransmitWaitEnd v1 v2 v3 v4) := by
  unfold execRetransmitWaitEnd
  repeat' first
    | with_reducible assumption
    | with_reducible apply keeps_resend
    | with_reducible refine KX.next ?_
    | with_reducible apply h4
    | with_reducible rfl
    | with_reducible apply ChKeeps.of
    | with_reducible apply IslKeeps.of
    | (intro x; first | (refine (fun (hx : Keeps s0 x) => ?_) ?_; on_goal 2 => subst x) | skip)
    | lift_lets
    | split

theorem keeps_execNakSeq {v1 v2} (h2 : Keeps s0 v2) :
    KX s0 (execNakSeq v1 v2) := by
  unfold execNakSeq
  repeat' first
    | with_reducible assumption
    | with_reducible apply keeps_modLink
    | with_reducible apply keeps_resend
    | with_reducible apply keeps_foldl
    | with_reducible refine KX.next ?_
    | with_reducible apply h2
    | with_reducible rfl
    | with_reducible apply ChKeeps.of
    | with_reducible apply IslKeeps.of
    | (intro x; first | (refine (fun (hx : Keeps s0 x) => ?_) ?_; on_goal 2 => subst x) | (refine (fun (hx : Keeps s0 x.1) => ?_) ?_; on_goal 2 => subst x) | (refine (fun (hx : Keeps s0 x.2) => ?_) ?_; on_goal 2 => subst x) | (refine (fun (hx : Keeps s0 x.2.2) => ?_) ?_; on_goal 2 => subst x) | (refine (fun (hx : Keeps s0 x.2.1) => ?_) ?_; on_goal 2 => subst x) | skip)
    | (extract_lets -underBinder +onlyGivenNames x; first | (refine (fun (hx : Keeps s0 x) => ?_) ?_; on_goal 2 => subst x) | (refine (fun (hx : Keeps s0 x.1) => ?_) ?_; on_goal 2 => subst x) | (refine (fun (hx : Keeps s0 x.2) => ?_) ?_; on_goal 2 => subst x) | (refine (fun (hx : Keeps s0 x.2.2) => ?_) ?_; on_goal 2 => subst x) | (refine (fun (hx : Keeps s0 x.2.1) => ?_) ?_; on_goal 2 => subst x) | skip)
    | split

theorem keeps_runLinkConnQuery {v1 v2 v3} (h3 : Keeps s0 v3) :
    Keeps s0 (runLinkConnQuery v1 v2 v3) := by
  unfold runLinkConnQuery
  repeat' first
    | with_reducible assumption
    | with_reducible apply keeps_linkCmd
    | with_reducible apply keeps_mbSt
    | with_reducible apply keeps_mbOut
    | with_reducible apply h3
    | with_reducible rfl
    | with_reducible apply ChKeeps.of
    | with_reducible apply IslKeeps.of
    | (intro x; first | (refine (fun (hx : Keeps s0 x) => ?_) ?_; on_goal 2 => subst x) | skip)
    | lift_lets
    | split

theorem keeps_execCas8 {v1 v2 v3} (h3 : Keeps s0 v3) :
    KX s0 (execCas8 v1 v2 v3) := by
  unfold execCas8
  repeat' first
    | with_reducible assumption
    | with_reducible apply keeps_serveNative
    | with_reducible refine KX.next ?_
    | with_reducible apply h3
    | with_reducible rfl
    | with_reducible apply ChKeeps.of
    | with_reducible apply IslKeeps.of
    | (intro x; first | (refine (fun (hx : Keeps s0 x) => ?_) ?_; on_goal 2 => subst x) | skip)
    | lift_lets
    | split

theorem keeps_respStep {v1 v2 v3} (h1 : Keeps s0 v1) :
    Keeps s0 (respStep v1 v2 v3) := by
  unfold respStep
  repeat' first
    | with_reducible assumption
    | with_reducible apply keeps_linkRest
    | with_reducible apply keeps_windowsStep
    | with_reducible apply keeps_respScan
    | with_reducible apply h1
    | with_reducible rfl
    | with_reducible apply ChKeeps.of
    | with_reducible apply IslKeeps.of
    | (intro x; first | (refine (fun (hx : Keeps s0 x) => ?_) ?_; on_goal 2 => subst x) | skip)
    | lift_lets
    | split

theorem keeps_execAck {v1 v2} (h2 : Keeps s0 v2) :
    KX s0 (execAck v1 v2) := by
  unfold execAck
  repeat' first
    | with_reducible assumption
    | with_reducible apply keeps_respStep
    | with_reducible refine KX.next ?_
    | with_reducible apply h2
    | with_reducible rfl
    | with_reducible apply ChKeeps.of
    | with_reducible apply IslKeeps.of
    | (intro x; first | (refine (fun (hx : Keeps s0 x) => ?_) ?_; on_goal 2 => subst x) | skip)
    | lift_lets
    | split

theorem keeps_runLinkKeySet {v1 v2 v3} (h3 : Keeps s0 v3) :
    Keeps s0 (runLinkKeySet v1 v2 v3) := by
  unfold runLinkKeySet
  repeat' first
    | with_reducible assumption
    | with_reducible apply keeps_linkCmd
    | with_reducible apply keeps_mbSt
    | with_reducible apply keeps_modLink
    | with_reducible apply h3
    | with_reducible rfl
    | with_reducible apply ChKeeps.of
    | with_reducible apply IslKeeps.of
    | (intro x; first | (refine (fun (hx : Keeps s0 x) => ?_) ?_; on_goal 2 => subst x) | skip)
    | lift_lets
    | split

theorem keeps_execLinkTrainingDone {v1 v2 v3 v4} (h4 : Keeps s0 v4) :
    KX s0 (execLinkTrainingDone v1 v2 v3 v4) := by
  unfold execLinkTrainingDone
  repeat' first
    | with_reducible assumption
    | with_reducible apply keeps_modLink
    | with_reducible apply keeps_linkDown
    | with_reducible apply keeps_linkErr
    | with_reducible apply keeps_linkAtWidth
    | with_reducible apply keeps_pump
    | with_reducible apply keeps_raiseC
    | with_reducible refine KX.next ?_
    | with_reducible apply h4
    | with_reducible rfl
    | with_reducible apply ChKeeps.of
    | with_reducible apply IslKeeps.of
    | (intro x; first | (refine (fun (hx : Keeps s0 x) => ?_) ?_; on_goal 2 => subst x) | skip)
    | lift_lets
    | split

theorem keeps_sqTailSet {v1 v2 v3 v4} (h1 : Keeps s0 v1) :
    Keeps s0 (sqTailSet v1 v2 v3 v4) := by
  unfold sqTailSet
  repeat' first
    | with_reducible assumption
    | with_reducible apply keeps_modConn
    | with_reducible apply h1
    | with_reducible rfl
    | with_reducible apply ChKeeps.of
    | with_reducible apply IslKeeps.of
    | (intro x; first | (refine (fun (hx : Keeps s0 x) => ?_) ?_; on_goal 2 => subst x) | skip)
    | lift_lets
    | split

theorem keeps_execReadReq {v1 v2 v3} (h3 : Keeps s0 v3) :
    KX s0 (execReadReq v1 v2 v3) := by
  unfold execReadReq
  repeat' first
    | with_reducible assumption
    | with_reducible apply keeps_serveNative
    | with_reducible refine KX.next ?_
    | with_reducible apply h3
    | with_reducible rfl
    | with_reducible apply ChKeeps.of
    | with_reducible apply IslKeeps.of
    | (intro x; first | (refine (fun (hx : Keeps s0 x) => ?_) ?_; on_goal 2 => subst x) | skip)
    | lift_lets
    | split

theorem keeps_execRdmaWrite {v1 v2 v3 v4} (h4 : Keeps s0 v4) :
    KX s0 (execRdmaWrite v1 v2 v3 v4) := by
  unfold execRdmaWrite
  repeat' first
    | with_reducible assumption
    | with_reducible apply keeps_roceArrive
    | with_reducible refine KX.next ?_
    | with_reducible apply h4
    | with_reducible rfl
    | with_reducible apply ChKeeps.of
    | with_reducible apply IslKeeps.of
    | (intro x; first | (refine (fun (hx : Keeps s0 x) => ?_) ?_; on_goal 2 => subst x) | skip)
    | lift_lets
    | split

theorem keeps_execDuplicateLast {v1 v2 v3} (h3 : Keeps s0 v3) :
    KX s0 (execDuplicateLast v1 v2 v3) := by
  unfold execDuplicateLast
  repeat' first
    | with_reducible assumption
    | with_reducible apply keeps_linkRest
    | with_reducible apply keeps_rxStep
    | with_reducible refine KX.next ?_
    | with_reducible apply h3
    | with_reducible rfl
    | with_reducible apply ChKeeps.of
    | with_reducible apply IslKeeps.of
    | (intro x; first | (refine (fun (hx : Keeps s0 x) => ?_) ?_; on_goal 2 => subst x) | skip)
    | lift_lets
    | split

theorem keeps_execPauseFrame {v1 v2 v3 v4} (h4 : Keeps s0 v4) :
    KX s0 (execPauseFrame v1 v2 v3 v4) := by
  unfold execPauseFrame
  repeat' first
    | with_reducible assumption
    | with_reducible apply keeps_modLink
    | with_reducible apply keeps_emit
    | with_reducible apply keeps_foldl
    | with_reducible refine KX.next ?_
    | with_reducible apply h4
    | with_reducible rfl
    | with_reducible apply ChKeeps.of
    | with_reducible apply IslKeeps.of
    | (intro x; first | (refine (fun (hx : Keeps s0 x) => ?_) ?_; on_goal 2 => subst x) | skip)
    | lift_lets
    | split

theorem keeps_execSqTailWrite {v1 v2 v3 v4 v5} (h5 : Keeps s0 v5) :
    KX s0 (execSqTailWrite v1 v2 v3 v4 v5) := by
  unfold execSqTailWrite
  repeat' first
    | with_reducible assumption
    | with_reducible apply keeps_chanWrite
    | with_reducible apply keeps_sqTailSet
    | with_reducible refine KX.next ?_
    | with_reducible apply h5
    | with_reducible rfl
    | with_reducible apply ChKeeps.of
    | with_reducible apply IslKeeps.of
    | (intro x; first | (refine (fun (hx : Keeps s0 x) => ?_) ?_; on_goal 2 => subst x) | skip)
    | lift_lets
    | split

theorem keeps_execLinkRetrainDone {v1 v2} (h2 : Keeps s0 v2) :
    KX s0 (execLinkRetrainDone v1 v2) := by
  unfold execLinkRetrainDone
  repeat' first
    | with_reducible assumption
    | with_reducible apply keeps_linkDown
    | with_reducible apply keeps_linkErr
    | with_reducible apply keeps_pump
    | with_reducible apply keeps_linkAtWidth
    | with_reducible refine KX.next ?_
    | with_reducible apply h2
    | with_reducible rfl
    | with_reducible apply ChKeeps.of
    | with_reducible apply IslKeeps.of
    | (intro x; first | (refine (fun (hx : Keeps s0 x) => ?_) ?_; on_goal 2 => subst x) | skip)
    | lift_lets
    | split

theorem keeps_execControlFlit {v1 v2 v3} (h3 : Keeps s0 v3) :
    KX s0 (execControlFlit v1 v2 v3) := by
  unfold execControlFlit
  repeat' first
    | with_reducible assumption
    | with_reducible apply keeps_raiseC
    | with_reducible refine KX.next ?_
    | with_reducible apply h3
    | with_reducible rfl
    | with_reducible apply ChKeeps.of
    | with_reducible apply IslKeeps.of
    | (intro x; first | (refine (fun (hx : Keeps s0 x) => ?_) ?_; on_goal 2 => subst x) | skip)
    | lift_lets
    | split

theorem keeps_execReadResp {v1 v2} (h2 : Keeps s0 v2) :
    KX s0 (execReadResp v1 v2) := by
  unfold execReadResp
  repeat' first
    | with_reducible assumption
    | with_reducible apply keeps_respStep
    | with_reducible refine KX.next ?_
    | with_reducible apply h2
    | with_reducible rfl
    | with_reducible apply ChKeeps.of
    | with_reducible apply IslKeeps.of
    | (intro x; first | (refine (fun (hx : Keeps s0 x) => ?_) ?_; on_goal 2 => subst x) | skip)
    | lift_lets
    | split

theorem keeps_execUncorrectableFlit {v1 v2} (h2 : Keeps s0 v2) :
    KX s0 (execUncorrectableFlit v1 v2) := by
  unfold execUncorrectableFlit
  repeat' first
    | with_reducible assumption
    | with_reducible apply keeps_modLink
    | with_reducible refine KX.next ?_
    | with_reducible apply h2
    | with_reducible rfl
    | with_reducible apply ChKeeps.of
    | with_reducible apply IslKeeps.of
    | (intro x; first | (refine (fun (hx : Keeps s0 x) => ?_) ?_; on_goal 2 => subst x) | skip)
    | lift_lets
    | split

theorem keeps_execLinkRetrainTimeout {v1 v2} (h2 : Keeps s0 v2) :
    KX s0 (execLinkRetrainTimeout v1 v2) := by
  unfold execLinkRetrainTimeout
  repeat' first
    | with_reducible assumption
    | with_reducible apply keeps_linkDown
    | with_reducible apply keeps_linkErr
    | with_reducible refine KX.next ?_
    | with_reducible apply h2
    | with_reducible rfl
    | with_reducible apply ChKeeps.of
    | with_reducible apply IslKeeps.of
    | (intro x; first | (refine (fun (hx : Keeps s0 x) => ?_) ?_; on_goal 2 => subst x) | skip)
    | lift_lets
    | split

theorem keeps_connError {v1 v2 v3 v4} (h1 : Keeps s0 v1) :
    Keeps s0 (connError v1 v2 v3 v4) := by
  unfold connError
  repeat' first
    | with_reducible assumption
    | with_reducible apply keeps_modConn
    | with_reducible apply keeps_dropSends
    | with_reducible apply keeps_outFails
    | with_reducible apply keeps_modHealth
    | with_reducible apply keeps_raiseC
    | with_reducible apply keeps_foldl
    | with_reducible apply h1
    | with_reducible rfl
    | with_reducible apply ChKeeps.of
    | with_reducible apply IslKeeps.of
    | (intro x; first | (refine (fun (hx : Keeps s0 x) => ?_) ?_; on_goal 2 => subst x) | skip)
    | lift_lets
    | split

theorem keeps_execCmpswap {v1 v2 v3 v4} (h4 : Keeps s0 v4) :
    KX s0 (execCmpswap v1 v2 v3 v4) := by
  unfold execCmpswap
  repeat' first
    | with_reducible assumption
    | with_reducible apply keeps_roceArrive
    | with_reducible refine KX.next ?_
    | with_reducible apply h4
    | with_reducible rfl
    | with_reducible apply ChKeeps.of
    | with_reducible apply IslKeeps.of
    | (intro x; first | (refine (fun (hx : Keeps s0 x) => ?_) ?_; on_goal 2 => subst x) | skip)
    | lift_lets
    | split

theorem keeps_execCas16 {v1 v2 v3} (h3 : Keeps s0 v3) :
    KX s0 (execCas16 v1 v2 v3) := by
  unfold execCas16
  repeat' first
    | with_reducible assumption
    | with_reducible apply keeps_serveNative
    | with_reducible refine KX.next ?_
    | with_reducible apply h3
    | with_reducible rfl
    | with_reducible apply ChKeeps.of
    | with_reducible apply IslKeeps.of
    | (intro x; first | (refine (fun (hx : Keeps s0 x) => ?_) ?_; on_goal 2 => subst x) | skip)
    | lift_lets
    | split

theorem keeps_execLinkLaneFailure {v1 v2 v3} (h3 : Keeps s0 v3) :
    KX s0 (execLinkLaneFailure v1 v2 v3) := by
  unfold execLinkLaneFailure
  repeat' first
    | with_reducible assumption
    | with_reducible apply keeps_linkDown
    | with_reducible apply keeps_modLink
    | with_reducible refine KX.next ?_
    | with_reducible apply h3
    | with_reducible rfl
    | with_reducible apply ChKeeps.of
    | with_reducible apply IslKeeps.of
    | (intro x; first | (refine (fun (hx : Keeps s0 x) => ?_) ?_; on_goal 2 => subst x) | skip)
    | lift_lets
    | split

theorem keeps_execLinkKeySet {v1 v2 v3} (h3 : Keeps s0 v3) :
    KX s0 (execLinkKeySet v1 v2 v3) := by
  unfold execLinkKeySet
  repeat' first
    | with_reducible assumption
    | with_reducible apply keeps_mbEnter
    | with_reducible apply keeps_runLinkKeySet
    | with_reducible refine KX.next ?_
    | with_reducible apply h3
    | with_reducible rfl
    | with_reducible apply ChKeeps.of
    | with_reducible apply IslKeeps.of
    | (intro x; first | (refine (fun (hx : Keeps s0 x) => ?_) ?_; on_goal 2 => subst x) | skip)
    | lift_lets
    | split

theorem keeps_execOperationTimerExpiry {v1 v2 v3 v4} (h4 : Keeps s0 v4) :
    KX s0 (execOperationTimerExpiry v1 v2 v3 v4) := by
  unfold execOperationTimerExpiry
  repeat' first
    | with_reducible assumption
    | with_reducible apply keeps_modOut
    | with_reducible apply keeps_linkRest
    | with_reducible apply keeps_windowsStep
    | with_reducible apply keeps_connError
    | with_reducible refine KX.next ?_
    | with_reducible apply h4
    | with_reducible rfl
    | with_reducible apply ChKeeps.of
    | with_reducible apply IslKeeps.of
    | (intro x; first | (refine (fun (hx : Keeps s0 x) => ?_) ?_; on_goal 2 => subst x) | skip)
    | lift_lets
    | split

theorem keeps_execLinkConnSet {v1 v2 v3} (h3 : Keeps s0 v3) :
    KX s0 (execLinkConnSet v1 v2 v3) := by
  unfold execLinkConnSet
  repeat' first
    | with_reducible assumption
    | with_reducible apply keeps_mbEnter
    | with_reducible apply keeps_runLinkConnSet
    | with_reducible refine KX.next ?_
    | with_reducible apply h3
    | with_reducible rfl
    | with_reducible apply ChKeeps.of
    | with_reducible apply IslKeeps.of
    | (intro x; first | (refine (fun (hx : Keeps s0 x) => ?_) ?_; on_goal 2 => subst x) | skip)
    | lift_lets
    | split

theorem keeps_sqRefuse {v1 v2 v3 v4 v5 v6 v7} (h1 : Keeps s0 v1) :
    Keeps s0 (sqRefuse v1 v2 v3 v4 v5 v6 v7) := by
  unfold sqRefuse
  repeat' first
    | with_reducible assumption
    | with_reducible apply keeps_sqFinish
    | with_reducible apply h1
    | with_reducible rfl
    | with_reducible apply ChKeeps.of
    | with_reducible apply IslKeeps.of
    | (intro x; first | (refine (fun (hx : Keeps s0 x) => ?_) ?_; on_goal 2 => subst x) | skip)
    | lift_lets
    | split

theorem keeps_execSendQueueIssue {v1 v2 v3} (h3 : Keeps s0 v3) :
    KX s0 (execSendQueueIssue v1 v2 v3) := by
  unfold execSendQueueIssue
  repeat' first
    | with_reducible assumption
    | with_reducible apply keeps_modConn
    | with_reducible apply keeps_sqRefuse
    | with_reducible apply keeps_startOp
    | with_reducible refine KX.next ?_
    | with_reducible apply h3
    | with_reducible rfl
    | with_reducible apply ChKeeps.of
    | with_reducible apply IslKeeps.of
    | (intro x; first | (refine (fun (hx : Keeps s0 x) => ?_) ?_; on_goal 2 => subst x) | skip)
    | lift_lets
    | split

theorem keeps_execLinkConnClose {v1 v2 v3} (h3 : Keeps s0 v3) :
    KX s0 (execLinkConnClose v1 v2 v3) := by
  unfold execLinkConnClose
  repeat' first
    | with_reducible assumption
    | with_reducible apply keeps_mbEnter
    | with_reducible apply keeps_runLinkConnClose
    | with_reducible refine KX.next ?_
    | with_reducible apply h3
    | with_reducible rfl
    | with_reducible apply ChKeeps.of
    | with_reducible apply IslKeeps.of
    | (intro x; first | (refine (fun (hx : Keeps s0 x) => ?_) ?_; on_goal 2 => subst x) | skip)
    | lift_lets
    | split

theorem keeps_execCreditAdvertised {v1 v2 v3} (h3 : Keeps s0 v3) :
    KX s0 (execCreditAdvertised v1 v2 v3) := by
  unfold execCreditAdvertised
  repeat' first
    | with_reducible assumption
    | with_reducible apply keeps_pump
    | with_reducible apply keeps_modLink
    | with_reducible refine KX.next ?_
    | with_reducible apply h3
    | with_reducible rfl
    | with_reducible apply ChKeeps.of
    | with_reducible apply IslKeeps.of
    | (intro x; first | (refine (fun (hx : Keeps s0 x) => ?_) ?_; on_goal 2 => subst x) | skip)
    | lift_lets
    | split

theorem keeps_execAtomicResp {v1 v2} (h2 : Keeps s0 v2) :
    KX s0 (execAtomicResp v1 v2) := by
  unfold execAtomicResp
  repeat' first
    | with_reducible assumption
    | with_reducible apply keeps_respStep
    | with_reducible refine KX.next ?_
    | with_reducible apply h2
    | with_reducible rfl
    | with_reducible apply ChKeeps.of
    | with_reducible apply IslKeeps.of
    | (intro x; first | (refine (fun (hx : Keeps s0 x) => ?_) ?_; on_goal 2 => subst x) | skip)
    | lift_lets
    | split

theorem keeps_execLinkConnQuery {v1 v2 v3} (h3 : Keeps s0 v3) :
    KX s0 (execLinkConnQuery v1 v2 v3) := by
  unfold execLinkConnQuery
  repeat' first
    | with_reducible assumption
    | with_reducible apply keeps_mbEnter
    | with_reducible apply keeps_runLinkConnQuery
    | with_reducible refine KX.next ?_
    | with_reducible apply h3
    | with_reducible rfl
    | with_reducible apply ChKeeps.of
    | with_reducible apply IslKeeps.of
    | (intro x; first | (refine (fun (hx : Keeps s0 x) => ?_) ?_; on_goal 2 => subst x) | skip)
    | lift_lets
    | split

end Sys2Proof.Laws
end

