-- ==== Sys2Proof/Laws/KeepsRegCmds.lean ====
section
/-! SUPPORT. `Keeps` of the definitions of Sys2Proof/Machine/RegCmds.lean. -/

namespace Sys2Proof.Laws
open Sys2Proof Sys2Proof.Machine

variable {s0 : State}

theorem keeps_ringRegWrite {v1 v2 v3 v4 v5} (h1 : Keeps s0 v1) :
    Keeps s0 (ringRegWrite v1 v2 v3 v4 v5) := by
  unfold ringRegWrite
  repeat' first
    | with_reducible assumption
    | with_reducible apply keeps_modRing
    | with_reducible apply keeps_ringCfgWrite
    | with_reducible apply keeps_ringTailSet
    | with_reducible apply h1
    | with_reducible rfl
    | with_reducible apply ChKeeps.of
    | with_reducible apply IslKeeps.of
    | (intro x; first | (refine (fun (hx : Keeps s0 x) => ?_) ?_; on_goal 2 => subst x) | skip)
    | lift_lets
    | split

theorem keeps_apWrite {v1 v2 v3 v4 v5} (h1 : Keeps s0 v1) :
    Keeps s0 (apWrite v1 v2 v3 v4 v5) := by
  unfold apWrite
  repeat' first
    | with_reducible assumption
    | with_reducible apply keeps_modLink
    | with_reducible apply h1
    | with_reducible rfl
    | with_reducible apply ChKeeps.of
    | with_reducible apply IslKeeps.of
    | (intro x; first | (refine (fun (hx : Keeps s0 x) => ?_) ?_; on_goal 2 => subst x) | skip)
    | lift_lets
    | split

theorem keeps_chRegWrite {v1 v2 v3 v4} (h1 : Keeps s0 v1) :
    Keeps s0 (chRegWrite v1 v2 v3 v4) := by
  rw [chRegWrite.eq_1]
  refine keeps_ite (fun _ => h1) (fun _ => ?_)
  refine keeps_ite (fun _ => keeps_paceCtrlWrite h1) (fun _ => ?_)
  refine keeps_ite (fun _ => keeps_srSeedSet h1) (fun _ => ?_)
  refine keeps_ite (fun _ => keeps_ite (fun _ => h1) (fun _ => keeps_modCh (fun _ => ChKeeps.of rfl rfl) h1)) (fun _ => ?_)
  refine keeps_ite (fun _ => keeps_relCfgWrite h1) (fun _ => ?_)
  refine keeps_ite (fun _ => keeps_logProgress (keeps_modCh (fun _ => ChKeeps.of rfl rfl) h1)) (fun _ => ?_)
  refine keeps_ite (fun _ => ?_) (fun _ => ?_)
  · split
    · exact keeps_ringRegWrite h1
    · exact h1
  refine keeps_ite (fun _ => keeps_linkEnable h1) (fun _ => ?_)
  refine keeps_ite (fun _ => keeps_modLink h1) (fun _ => ?_)
  refine keeps_ite (fun _ => keeps_apWrite h1) (fun _ => ?_)
  refine keeps_ite (fun _ => ?_) (fun _ => ?_)
  · split
    · exact keeps_ringTailSet h1
    · exact h1
  refine keeps_ite (fun _ => keeps_sqTailSet h1) (fun _ => ?_)
  refine keeps_ite (fun _ => keeps_gateSet h1) (fun _ => ?_)
  exact keeps_ite (fun _ => keeps_gateAdd h1) (fun _ => h1)

theorem keeps_applyHeld {v1} (h1 : Keeps s0 v1) :
    Keeps s0 (applyHeld v1) := by
  unfold applyHeld
  repeat' first
    | with_reducible assumption
    | with_reducible apply keeps_chRegWrite
    | with_reducible apply keeps_modIsland
    | with_reducible apply keeps_foldl
    | with_reducible apply h1
    | with_reducible rfl
    | with_reducible apply ChKeeps.of
    | with_reducible apply IslKeeps.of
    | (intro x; first | (refine (fun (hx : Keeps s0 x) => ?_) ?_; on_goal 2 => subst x) | skip)
    | lift_lets
    | split

theorem keeps_execRingDrainEnd {v1 v2 v3} (h3 : Keeps s0 v3) :
    KX s0 (execRingDrainEnd v1 v2 v3) := by
  unfold execRingDrainEnd
  repeat' first
    | with_reducible assumption
    | with_reducible apply keeps_shutStep
    | with_reducible apply keeps_modRing
    | with_reducible refine KX.next ?_
    | with_reducible apply h3
    | with_reducible rfl
    | with_reducible apply ChKeeps.of
    | with_reducible apply IslKeeps.of
    | (intro x; first | (refine (fun (hx : Keeps s0 x) => ?_) ?_; on_goal 2 => subst x) | skip)
    | lift_lets
    | split

theorem keeps_funcMaskSet {v1 v2 v3} (h1 : Keeps s0 v1) :
    Keeps s0 (funcMaskSet v1 v2 v3) := by
  unfold funcMaskSet
  repeat' first
    | with_reducible assumption
    | with_reducible apply keeps_modLd
    | with_reducible apply keeps_msixFlush
    | with_reducible apply keeps_foldl
    | with_reducible apply h1
    | with_reducible rfl
    | with_reducible apply ChKeeps.of
    | with_reducible apply IslKeeps.of
    | (intro x; first | (refine (fun (hx : Keeps s0 x) => ?_) ?_; on_goal 2 => subst x) | skip)
    | lift_lets
    | split

theorem keeps_doeWrite {v1 v2 v3 v4} (h1 : Keeps s0 v1) :
    Keeps s0 (doeWrite v1 v2 v3 v4) := by
  unfold doeWrite
  repeat' first
    | with_reducible assumption
    | with_reducible apply keeps_modLd
    | with_reducible apply h1
    | with_reducible rfl
    | with_reducible apply ChKeeps.of
    | with_reducible apply IslKeeps.of
    | (intro x; first | (refine (fun (hx : Keeps s0 x) => ?_) ?_; on_goal 2 => subst x) | skip)
    | lift_lets
    | split

theorem keeps_cfgWrite {v1 v2 v3 v4} (h1 : Keeps s0 v1) :
    Keeps s0 (cfgWrite v1 v2 v3 v4) := by
  unfold cfgWrite
  repeat' first
    | with_reducible assumption
    | with_reducible apply keeps_modLd
    | with_reducible apply keeps_doeWrite
    | with_reducible apply keeps_funcMaskSet
    | with_reducible apply h1
    | with_reducible rfl
    | with_reducible apply ChKeeps.of
    | with_reducible apply IslKeeps.of
    | (intro x; first | (refine (fun (hx : Keeps s0 x) => ?_) ?_; on_goal 2 => subst x) | skip)
    | lift_lets
    | split

theorem keeps_compWrite {v1 v2 v3 v4} (h1 : Keeps s0 v1) :
    Keeps s0 (compWrite v1 v2 v3 v4) := by
  unfold compWrite
  repeat' first
    | with_reducible assumption
    | with_reducible apply keeps_modLd
    | with_reducible apply h1
    | with_reducible rfl
    | with_reducible apply ChKeeps.of
    | with_reducible apply IslKeeps.of
    | (intro x; first | (refine (fun (hx : Keeps s0 x) => ?_) ?_; on_goal 2 => subst x) | skip)
    | lift_lets
    | split

theorem keeps_devWrite {v1 v2 v3 v4} (h1 : Keeps s0 v1) :
    Keeps s0 (devWrite v1 v2 v3 v4) := by
  unfold devWrite
  repeat' first
    | with_reducible assumption
    | with_reducible apply keeps_modMb
    | with_reducible apply h1
    | with_reducible rfl
    | with_reducible apply ChKeeps.of
    | with_reducible apply IslKeeps.of
    | (intro x; first | (refine (fun (hx : Keeps s0 x) => ?_) ?_; on_goal 2 => subst x) | skip)
    | lift_lets
    | split

theorem keeps_ldRegWrite {v1 v2 v3 v4} (h1 : Keeps s0 v1) :
    Keeps s0 (ldRegWrite v1 v2 v3 v4) := by
  unfold ldRegWrite
  extract_lets setQ
  refine keeps_ite (fun _ => keeps_modLd h1) (fun _ => keeps_ite (fun _ => ?_) (fun _ => keeps_ite (fun _ => ?_) (fun _ => h1)))
  · refine keeps_modIsland (fun _ => islKeeps_evq (fun hq => ⟨hq.1, ?_⟩)) h1
    show fld v4.toNat 8 0 < 512
    unfold fld
    exact Nat.mod_lt _ (by decide)
  · exact keeps_modIsland (fun _ => islKeeps_evq (fun hq => hq)) h1

theorem keeps_msixWrite {v1 v2 v3 v4} (h1 : Keeps s0 v1) :
    Keeps s0 (msixWrite v1 v2 v3 v4) := by
  unfold msixWrite
  repeat' first
    | with_reducible assumption
    | with_reducible apply keeps_modLd
    | with_reducible apply keeps_maskVec
    | with_reducible apply keeps_unmaskVec
    | with_reducible apply h1
    | with_reducible rfl
    | with_reducible apply ChKeeps.of
    | with_reducible apply IslKeeps.of
    | (intro x; first | (refine (fun (hx : Keeps s0 x) => ?_) ?_; on_goal 2 => subst x) | skip)
    | lift_lets
    | split

theorem keeps_wordWrite {v1 v2 v3 v4} (h1 : Keeps s0 v1) :
    Keeps s0 (wordWrite v1 v2 v3 v4) := by
  unfold wordWrite
  repeat' first
    | with_reducible assumption
    | with_reducible apply keeps_cfgWrite
    | with_reducible apply keeps_chanWrite
    | with_reducible apply keeps_holdWrite
    | with_reducible apply keeps_chRegWrite
    | with_reducible apply keeps_compWrite
    | with_reducible apply keeps_devWrite
    | with_reducible apply keeps_ldRegWrite
    | with_reducible apply keeps_msixWrite
    | with_reducible apply h1
    | with_reducible rfl
    | with_reducible apply ChKeeps.of
    | with_reducible apply IslKeeps.of
    | (intro x; first | (refine (fun (hx : Keeps s0 x) => ?_) ?_; on_goal 2 => subst x) | skip)
    | lift_lets
    | split

theorem keeps_execRegisterWrite {v1 v2 v3 v4} (h4 : Keeps s0 v4) :
    KX s0 (execRegisterWrite v1 v2 v3 v4) := by
  unfold execRegisterWrite
  repeat' first
    | with_reducible assumption
    | with_reducible apply keeps_wordWrite
    | with_reducible refine KX.next ?_
    | with_reducible apply h4
    | with_reducible rfl
    | with_reducible apply ChKeeps.of
    | with_reducible apply IslKeeps.of
    | (intro x; first | (refine (fun (hx : Keeps s0 x) => ?_) ?_; on_goal 2 => subst x) | skip)
    | lift_lets
    | split

end Sys2Proof.Laws
end

