-- ==== Sys2Proof/Laws/KeepsSecCmds.lean ====
section
/-! SUPPORT. `Keeps` of the definitions of Sys2Proof/Machine/SecCmds.lean. -/

namespace Sys2Proof.Laws
open Sys2Proof Sys2Proof.Machine

variable {s0 : State}

theorem keeps_runKeyQuery {v1 v2 v3} (h3 : Keeps s0 v3) :
    Keeps s0 (runKeyQuery v1 v2 v3) := by
  unfold runKeyQuery
  repeat' first
    | with_reducible assumption
    | with_reducible apply keeps_mbRun
    | with_reducible apply keeps_mbSt
    | with_reducible apply keeps_mbOut
    | with_reducible apply h3
    | with_reducible rfl
    | with_reducible apply ChKeeps.of
    | with_reducible apply IslKeeps.of
    | (intro x; first | (refine (fun (hx : Keeps s0 x) => ?_) ?_; on_goal 2 => subst x) | skip)
    | lift_lets
    | split

theorem keeps_keyLogAppend {v1 v2} (h1 : Keeps s0 v1) :
    Keeps s0 (keyLogAppend v1 v2) := by
  unfold keyLogAppend
  repeat' first
    | with_reducible assumption
    | with_reducible apply keeps_modIsland
    | with_reducible apply h1
    | with_reducible rfl
    | with_reducible apply ChKeeps.of
    | with_reducible apply IslKeeps.of
    | (intro x; first | (refine (fun (hx : Keeps s0 x) => ?_) ?_; on_goal 2 => subst x) | skip)
    | lift_lets
    | split

theorem keeps_purgeDone {v1 v2} (h1 : Keeps s0 v1) :
    Keeps s0 (purgeDone v1 v2) := by
  unfold purgeDone
  repeat' first
    | with_reducible assumption
    | with_reducible apply keeps_modKey
    | with_reducible apply keeps_keyLogAppend
    | with_reducible apply h1
    | with_reducible rfl
    | with_reducible apply ChKeeps.of
    | with_reducible apply IslKeeps.of
    | (intro x; first | (refine (fun (hx : Keeps s0 x) => ?_) ?_; on_goal 2 => subst x) | skip)
    | lift_lets
    | split

theorem keeps_destroyFinish {v1 v2 v3 v4} (h1 : Keeps s0 v1) :
    Keeps s0 (destroyFinish v1 v2 v3 v4) := by
  unfold destroyFinish
  repeat' first
    | with_reducible assumption
    | with_reducible apply keeps_keyLogAppend
    | with_reducible apply keeps_modKey
    | with_reducible apply keeps_raiseD
    | with_reducible apply keeps_purgeDone
    | with_reducible apply keeps_mbSt
    | with_reducible apply keeps_modIsland
    | with_reducible apply h1
    | with_reducible rfl
    | with_reducible apply ChKeeps.of
    | with_reducible apply IslKeeps.of
    | (intro x; first | (refine (fun (hx : Keeps s0 x) => ?_) ?_; on_goal 2 => subst x) | skip)
    | lift_lets
    | split

theorem keeps_runKeyDestroy {v1 v2 v3 v4} (h4 : Keeps s0 v4) :
    Keeps s0 (runKeyDestroy v1 v2 v3 v4) := by
  unfold runKeyDestroy
  repeat' first
    | with_reducible assumption
    | with_reducible apply keeps_mbRun
    | with_reducible apply keeps_mbSt
    | with_reducible apply keeps_modIsland
    | with_reducible apply keeps_forCh
    | with_reducible apply keeps_purgeCache
    | with_reducible apply keeps_destroyFinish
    | with_reducible apply h4
    | with_reducible rfl
    | with_reducible apply ChKeeps.of
    | with_reducible apply IslKeeps.of
    | (intro x; first | (refine (fun (hx : Keeps s0 x) => ?_) ?_; on_goal 2 => subst x) | skip)
    | lift_lets
    | split

theorem keeps_execKeyDestroy {v1 v2 v3 v4} (h4 : Keeps s0 v4) :
    KX s0 (execKeyDestroy v1 v2 v3 v4) := by
  unfold execKeyDestroy
  repeat' first
    | with_reducible assumption
    | with_reducible apply keeps_mbEnter
    | with_reducible apply keeps_runKeyDestroy
    | with_reducible refine KX.next ?_
    | with_reducible apply h4
    | with_reducible rfl
    | with_reducible apply ChKeeps.of
    | with_reducible apply IslKeeps.of
    | (intro x; first | (refine (fun (hx : Keeps s0 x) => ?_) ?_; on_goal 2 => subst x) | skip)
    | lift_lets
    | split

theorem keeps_ownerPurgeStep {v1 v2 v3} (h1 : Keeps s0 v1) :
    Keeps s0 (ownerPurgeStep v1 v2 v3) := by
  unfold ownerPurgeStep
  repeat' first
    | with_reducible assumption
    | with_reducible apply keeps_purgeDone
    | with_reducible apply keeps_modKey
    | with_reducible apply keeps_purgeOwner
    | with_reducible apply h1
    | with_reducible rfl
    | with_reducible apply ChKeeps.of
    | with_reducible apply IslKeeps.of
    | (intro x; first | (refine (fun (hx : Keeps s0 x) => ?_) ?_; on_goal 2 => subst x) | skip)
    | lift_lets
    | split

theorem keeps_spdmSend {v1 v2 v3} (h1 : Keeps s0 v1) :
    Keeps s0 (spdmSend v1 v2 v3) := by
  unfold spdmSend
  repeat' first
    | with_reducible assumption
    | with_reducible apply keeps_emit
    | with_reducible apply h1
    | with_reducible rfl
    | with_reducible apply ChKeeps.of
    | with_reducible apply IslKeeps.of
    | (intro x; first | (refine (fun (hx : Keeps s0 x) => ?_) ?_; on_goal 2 => subst x) | skip)
    | lift_lets
    | split

theorem keeps_spdmErr {v1 v2 v3} (h1 : Keeps s0 v1) :
    Keeps s0 (spdmErr v1 v2 v3) := by
  unfold spdmErr
  repeat' first
    | with_reducible assumption
    | with_reducible apply keeps_spdmSend
    | with_reducible apply h1
    | with_reducible rfl
    | with_reducible apply ChKeeps.of
    | with_reducible apply IslKeeps.of
    | (intro x; first | (refine (fun (hx : Keeps s0 x) => ?_) ?_; on_goal 2 => subst x) | skip)
    | lift_lets
    | split

theorem keeps_free32 {v1} (h1 : Keeps s0 v1) :
    Keeps s0 (free32 v1).2 := by
  unfold free32
  repeat' first
    | with_reducible assumption
    | with_reducible apply keeps_drawFree
    | with_reducible refine of_snd (by assumption) ?_
    | with_reducible apply h1
    | with_reducible rfl
    | with_reducible apply ChKeeps.of
    | with_reducible apply IslKeeps.of
    | (intro x; first | (refine (fun (hx : Keeps s0 x) => ?_) ?_; on_goal 2 => subst x) | skip)
    | lift_lets
    | split

theorem keeps_spdmSign {v1 v2 v3} (h1 : Keeps s0 v1) :
    Keeps s0 (spdmSign v1 v2 v3).2 := by
  unfold spdmSign
  repeat' first
    | with_reducible assumption
    | with_reducible apply keeps_free32
    | with_reducible refine of_snd (by assumption) ?_
    | with_reducible apply h1
    | with_reducible rfl
    | with_reducible apply ChKeeps.of
    | with_reducible apply IslKeeps.of
    | (intro x; first | (refine (fun (hx : Keeps s0 x) => ?_) ?_; on_goal 2 => subst x) | skip)
    | lift_lets
    | split

theorem keeps_execKeyExchange {v1 v2 v3} (h3 : Keeps s0 v3) :
    KX s0 (execKeyExchange v1 v2 v3) := by
  unfold execKeyExchange
  repeat' first
    | with_reducible assumption
    | with_reducible apply keeps_spdmErr
    | with_reducible apply keeps_free32
    | with_reducible apply keeps_spdmSign
    | with_reducible apply keeps_spdmSend
    | with_reducible apply keeps_modHost
    | with_reducible refine KX.next ?_
    | with_reducible refine of_snd (by assumption) ?_
    | with_reducible apply h3
    | with_reducible rfl
    | with_reducible apply ChKeeps.of
    | with_reducible apply IslKeeps.of
    | (intro x; first | (refine (fun (hx : Keeps s0 x) => ?_) ?_; on_goal 2 => subst x) | skip)
    | lift_lets
    | split

theorem keeps_purgeTimeout {v1 v2 v3} (h1 : Keeps s0 v1) :
    Keeps s0 (purgeTimeout v1 v2 v3) := by
  unfold purgeTimeout
  repeat' first
    | with_reducible assumption
    | with_reducible apply keeps_purgeCache
    | with_reducible apply keeps_isolateCh
    | with_reducible apply keeps_destroyFinish
    | with_reducible apply keeps_modIsland
    | with_reducible apply h1
    | with_reducible rfl
    | with_reducible apply ChKeeps.of
    | with_reducible apply IslKeeps.of
    | (intro x; first | (refine (fun (hx : Keeps s0 x) => ?_) ?_; on_goal 2 => subst x) | skip)
    | lift_lets
    | split

theorem keeps_execIdeIntegrityFail {v1 v2} (h2 : Keeps s0 v2) :
    KX s0 (execIdeIntegrityFail v1 v2) := by
  unfold execIdeIntegrityFail
  repeat' first
    | with_reducible assumption
    | with_reducible apply keeps_modHost
    | with_reducible apply keeps_hostDown
    | with_reducible refine KX.next ?_
    | with_reducible apply h2
    | with_reducible rfl
    | with_reducible apply ChKeeps.of
    | with_reducible apply IslKeeps.of
    | (intro x; first | (refine (fun (hx : Keeps s0 x) => ?_) ?_; on_goal 2 => subst x) | skip)
    | lift_lets
    | split

theorem keeps_execKeyStorageCheck {v1 v2} (h2 : Keeps s0 v2) :
    KX s0 (execKeyStorageCheck v1 v2) := by
  unfold execKeyStorageCheck
  repeat' first
    | with_reducible assumption
    | with_reducible apply keeps_keyFails
    | with_reducible apply keeps_foldl
    | with_reducible refine KX.next ?_
    | with_reducible apply h2
    | with_reducible rfl
    | with_reducible apply ChKeeps.of
    | with_reducible apply IslKeeps.of
    | (intro x; first | (refine (fun (hx : Keeps s0 x) => ?_) ?_; on_goal 2 => subst x) | skip)
    | lift_lets
    | split

theorem keeps_modFw {v1 : State} {f : Firmware → Firmware} (hf : ∀ x, x.minSvn.toNat ≤ (f x).minSvn.toNat) (h1 : Keeps s0 v1) :
    Keeps s0 (modFw v1 f) := keeps_modIsland (fun x => ⟨hf x.fw, id⟩) h1

theorem keeps_fwRestart {v1 v2} (h1 : Keeps s0 v1) :
    Keeps s0 (fwRestart v1 v2) := by
  unfold fwRestart
  repeat' first
    | with_reducible assumption
    | (with_reducible refine keeps_modFw (fun x => ?_) ?_; on_goal 1 => (first | exact Nat.le_refl _ | exact le_raisedSvn | (dsimp only; split <;> exact Nat.le_refl _)))
    | with_reducible apply keeps_modIsland
    | with_reducible apply h1
    | with_reducible rfl
    | with_reducible apply ChKeeps.of
    | with_reducible apply IslKeeps.of
    | (intro x; first | (refine (fun (hx : Keeps s0 x) => ?_) ?_; on_goal 2 => subst x) | skip)
    | lift_lets
    | split

theorem keeps_runFirmwareRecover {v1 v2 v3} (h3 : Keeps s0 v3) :
    Keeps s0 (runFirmwareRecover v1 v2 v3) := by
  unfold runFirmwareRecover
  repeat' first
    | with_reducible assumption
    | with_reducible apply keeps_mbRun
    | with_reducible apply keeps_mbSt
    | (with_reducible refine keeps_modFw (fun x => ?_) ?_; on_goal 1 => (first | exact Nat.le_refl _ | exact le_raisedSvn | (dsimp only; split <;> exact Nat.le_refl _)))
    | with_reducible apply keeps_fwRestart
    | with_reducible apply h3
    | with_reducible rfl
    | with_reducible apply ChKeeps.of
    | with_reducible apply IslKeeps.of
    | (intro x; first | (refine (fun (hx : Keeps s0 x) => ?_) ?_; on_goal 2 => subst x) | skip)
    | lift_lets
    | split

theorem keeps_execFirmwareRecover {v1 v2 v3} (h3 : Keeps s0 v3) :
    KX s0 (execFirmwareRecover v1 v2 v3) := by
  unfold execFirmwareRecover
  repeat' first
    | with_reducible assumption
    | with_reducible apply keeps_mbEnter
    | with_reducible apply keeps_runFirmwareRecover
    | with_reducible refine KX.next ?_
    | with_reducible apply h3
    | with_reducible rfl
    | with_reducible apply ChKeeps.of
    | with_reducible apply IslKeeps.of
    | (intro x; first | (refine (fun (hx : Keeps s0 x) => ?_) ?_; on_goal 2 => subst x) | skip)
    | lift_lets
    | split

theorem keeps_runKeyLoad {v1 v2 v3} (h3 : Keeps s0 v3) :
    Keeps s0 (runKeyLoad v1 v2 v3) := by
  unfold runKeyLoad
  repeat' first
    | with_reducible assumption
    | with_reducible apply keeps_mbRun
    | with_reducible apply keeps_mbSt
    | with_reducible apply keeps_keyLogAppend
    | with_reducible apply keeps_modKey
    | with_reducible apply h3
    | with_reducible rfl
    | with_reducible apply ChKeeps.of
    | with_reducible apply IslKeeps.of
    | (intro x; first | (refine (fun (hx : Keeps s0 x) => ?_) ?_; on_goal 2 => subst x) | skip)
    | lift_lets
    | split

theorem keeps_runFirmwareActivate {v1 v2 v3} (h3 : Keeps s0 v3) :
    Keeps s0 (runFirmwareActivate v1 v2 v3) := by
  unfold runFirmwareActivate
  repeat' first
    | with_reducible assumption
    | with_reducible apply keeps_mbRun
    | with_reducible apply keeps_mbSt
    | with_reducible apply keeps_mbStart
    | (with_reducible refine keeps_modFw (fun x => ?_) ?_; on_goal 1 => (first | exact Nat.le_refl _ | exact le_raisedSvn | (dsimp only; split <;> exact Nat.le_refl _)))
    | with_reducible apply keeps_fwRestart
    | with_reducible apply h3
    | with_reducible rfl
    | with_reducible apply ChKeeps.of
    | with_reducible apply IslKeeps.of
    | (intro x; first | (refine (fun (hx : Keeps s0 x) => ?_) ?_; on_goal 2 => subst x) | skip)
    | lift_lets
    | split

theorem keeps_execFirmwareActivate {v1 v2 v3} (h3 : Keeps s0 v3) :
    KX s0 (execFirmwareActivate v1 v2 v3) := by
  unfold execFirmwareActivate
  repeat' first
    | with_reducible assumption
    | with_reducible apply keeps_mbEnter
    | with_reducible apply keeps_runFirmwareActivate
    | with_reducible refine KX.next ?_
    | with_reducible apply h3
    | with_reducible rfl
    | with_reducible apply ChKeeps.of
    | with_reducible apply IslKeeps.of
    | (intro x; first | (refine (fun (hx : Keeps s0 x) => ?_) ?_; on_goal 2 => subst x) | skip)
    | lift_lets
    | split

theorem keeps_setTalk {v1 v2 v3} (h1 : Keeps s0 v1) :
    Keeps s0 (setTalk v1 v2 v3) := by
  unfold setTalk
  repeat' first
    | with_reducible assumption
    | with_reducible apply keeps_modHost
    | with_reducible apply h1
    | with_reducible rfl
    | with_reducible apply ChKeeps.of
    | with_reducible apply IslKeeps.of
    | (intro x; first | (refine (fun (hx : Keeps s0 x) => ?_) ?_; on_goal 2 => subst x) | skip)
    | lift_lets
    | split

theorem keeps_execKeyLoad {v1 v2 v3} (h3 : Keeps s0 v3) :
    KX s0 (execKeyLoad v1 v2 v3) := by
  unfold execKeyLoad
  repeat' first
    | with_reducible assumption
    | with_reducible apply keeps_mbEnter
    | with_reducible apply keeps_runKeyLoad
    | with_reducible refine KX.next ?_
    | with_reducible apply h3
    | with_reducible rfl
    | with_reducible apply ChKeeps.of
    | with_reducible apply IslKeeps.of
    | (intro x; first | (refine (fun (hx : Keeps s0 x) => ?_) ?_; on_goal 2 => subst x) | skip)
    | lift_lets
    | split

theorem keeps_spdmChallenge {v1 v2 v3} (h1 : Keeps s0 v1) :
    Keeps s0 (spdmChallenge v1 v2 v3) := by
  unfold spdmChallenge
  repeat' first
    | with_reducible assumption
    | with_reducible apply keeps_free32
    | with_reducible apply keeps_spdmSign
    | with_reducible apply keeps_spdmSend
    | with_reducible apply keeps_setTalk
    | with_reducible refine of_snd (by assumption) ?_
    | with_reducible apply h1
    | with_reducible rfl
    | with_reducible apply ChKeeps.of
    | with_reducible apply IslKeeps.of
    | (intro x; first | (refine (fun (hx : Keeps s0 x) => ?_) ?_; on_goal 2 => subst x) | skip)
    | lift_lets
    | split

theorem keeps_execSpdmRequest {v1 v2 v3} (h3 : Keeps s0 v3) :
    KX s0 (execSpdmRequest v1 v2 v3) := by
  unfold execSpdmRequest
  repeat' first
    | with_reducible assumption
    | with_reducible apply keeps_spdmErr
    | with_reducible apply keeps_spdmChallenge
    | with_reducible apply keeps_spdmSend
    | with_reducible apply keeps_setTalk
    | with_reducible apply keeps_modHost
    | with_reducible refine KX.next ?_
    | with_reducible apply h3
    | with_reducible rfl
    | with_reducible apply ChKeeps.of
    | with_reducible apply IslKeeps.of
    | (intro x; first | (refine (fun (hx : Keeps s0 x) => ?_) ?_; on_goal 2 => subst x) | skip)
    | lift_lets
    | split

theorem keeps_runFirmwareUpdate {v1 v2 v3} (h3 : Keeps s0 v3) :
    Keeps s0 (runFirmwareUpdate v1 v2 v3) := by
  unfold runFirmwareUpdate
  refine keeps_mbRun h3 (fun t ht => ?_)
  extract_lets
  repeat' with_reducible first
    | exact keeps_mbSt ht
    | refine keeps_ite (fun _ => ?_) (fun _ => ?_)
  with_reducible refine keeps_mbSt (keeps_modFw (fun x => ?_) ht)
  split <;> exact Nat.le_refl _

theorem keeps_execOwnerPurge {v1 v2 v3} (h3 : Keeps s0 v3) :
    KX s0 (execOwnerPurge v1 v2 v3) := by
  unfold execOwnerPurge
  repeat' first
    | with_reducible assumption
    | with_reducible apply keeps_ownerPurgeStep
    | with_reducible refine KX.next ?_
    | with_reducible apply h3
    | with_reducible rfl
    | with_reducible apply ChKeeps.of
    | with_reducible apply IslKeeps.of
    | (intro x; first | (refine (fun (hx : Keeps s0 x) => ?_) ?_; on_goal 2 => subst x) | skip)
    | lift_lets
    | split

theorem keeps_execIdeKm {v1 v2 v3} (h3 : Keeps s0 v3) :
    KX s0 (execIdeKm v1 v2 v3) := by
  unfold execIdeKm
  repeat' first
    | with_reducible assumption
    | with_reducible apply keeps_emit
    | with_reducible apply keeps_modHost
    | with_reducible refine KX.next ?_
    | with_reducible apply h3
    | with_reducible rfl
    | with_reducible apply ChKeeps.of
    | with_reducible apply IslKeeps.of
    | (intro x; first | (refine (fun (hx : Keeps s0 x) => ?_) ?_; on_goal 2 => subst x) | skip)
    | lift_lets
    | split

theorem keeps_execFirmwareUpdate {v1 v2 v3} (h3 : Keeps s0 v3) :
    KX s0 (execFirmwareUpdate v1 v2 v3) := by
  unfold execFirmwareUpdate
  repeat' first
    | with_reducible assumption
    | with_reducible apply keeps_mbEnter
    | with_reducible apply keeps_runFirmwareUpdate
    | with_reducible refine KX.next ?_
    | with_reducible apply h3
    | with_reducible rfl
    | with_reducible apply ChKeeps.of
    | with_reducible apply IslKeeps.of
    | (intro x; first | (refine (fun (hx : Keeps s0 x) => ?_) ?_; on_goal 2 => subst x) | skip)
    | lift_lets
    | split

theorem keeps_execGetMeasurements {v1 v2 v3} (h3 : Keeps s0 v3) :
    KX s0 (execGetMeasurements v1 v2 v3) := by
  unfold execGetMeasurements
  repeat' first
    | with_reducible assumption
    | with_reducible apply keeps_spdmErr
    | with_reducible apply keeps_free32
    | with_reducible apply keeps_spdmSign
    | with_reducible apply keeps_spdmSend
    | with_reducible apply keeps_setTalk
    | with_reducible refine KX.next ?_
    | with_reducible refine of_snd (by assumption) ?_
    | with_reducible apply h3
    | with_reducible rfl
    | with_reducible apply ChKeeps.of
    | with_reducible apply IslKeeps.of
    | (intro x; first | (refine (fun (hx : Keeps s0 x) => ?_) ?_; on_goal 2 => subst x) | skip)
    | lift_lets
    | split

theorem keeps_execKeyQuery {v1 v2 v3} (h3 : Keeps s0 v3) :
    KX s0 (execKeyQuery v1 v2 v3) := by
  unfold execKeyQuery
  repeat' first
    | with_reducible assumption
    | with_reducible apply keeps_mbEnter
    | with_reducible apply keeps_runKeyQuery
    | with_reducible refine KX.next ?_
    | with_reducible apply h3
    | with_reducible rfl
    | with_reducible apply ChKeeps.of
    | with_reducible apply IslKeeps.of
    | (intro x; first | (refine (fun (hx : Keeps s0 x) => ?_) ?_; on_goal 2 => subst x) | skip)
    | lift_lets
    | split

theorem keeps_fwLoad {v1 v2 v3} (h1 : Keeps s0 v1) :
    Keeps s0 (fwLoad v1 v2 v3) := by
  unfold fwLoad
  repeat' first
    | with_reducible assumption
    | (with_reducible refine keeps_modFw (fun x => ?_) ?_; on_goal 1 => (first | exact Nat.le_refl _ | exact le_raisedSvn | (dsimp only; split <;> exact Nat.le_refl _)))
    | with_reducible apply h1
    | with_reducible rfl
    | with_reducible apply ChKeeps.of
    | with_reducible apply IslKeeps.of
    | (intro x; first | (refine (fun (hx : Keeps s0 x) => ?_) ?_; on_goal 2 => subst x) | skip)
    | lift_lets
    | split

end Sys2Proof.Laws
end

