-- ==== Sys2Proof/Laws/KeepsStartOps.lean ====
section
/-! SUPPORT. `Keeps` of the definitions of Sys2Proof/Machine/StartOps.lean. -/

namespace Sys2Proof.Laws
open Sys2Proof Sys2Proof.Machine

variable {s0 : State}

theorem keeps_dropUnit {v1 v2 v3} (h2 : Keeps s0 v2) :
    Keeps s0 (dropUnit v1 v2 v3) := by
  unfold dropUnit
  repeat' first
    | with_reducible assumption
    | with_reducible apply keeps_setMap
    | with_reducible apply keeps_jAppend
    | with_reducible apply keeps_invalidate
    | with_reducible apply h2
    | with_reducible rfl
    | with_reducible apply ChKeeps.of
    | with_reducible apply IslKeeps.of
    | (intro x; first | (refine (fun (hx : Keeps s0 x) => ?_) ?_; on_goal 2 => subst x) | skip)
    | lift_lets
    | split

theorem keeps_modTest {v1 v2} (h1 : Keeps s0 v1) :
    Keeps s0 (modTest v1 v2) := by
  unfold modTest
  repeat' first
    | with_reducible assumption
    | with_reducible apply keeps_modIsland
    | with_reducible apply h1
    | with_reducible rfl
    | with_reducible apply ChKeeps.of
    | with_reducible apply IslKeeps.of
    | (intro x; first | (refine (fun (hx : Keeps s0 x) => ?_) ?_; on_goal 2 => subst x) | skip)
    | lift_lets
    | split

theorem keeps_modSupply {v1 v2} (h1 : Keeps s0 v1) :
    Keeps s0 (modSupply v1 v2) := by
  unfold modSupply
  repeat' first
    | with_reducible assumption
    | with_reducible apply keeps_modIsland
    | with_reducible apply h1
    | with_reducible rfl
    | with_reducible apply ChKeeps.of
    | with_reducible apply IslKeeps.of
    | (intro x; first | (refine (fun (hx : Keeps s0 x) => ?_) ?_; on_goal 2 => subst x) | skip)
    | lift_lets
    | split

theorem keeps_needTest {v1 v2} (h1 : Keeps s0 v1) :
    Keeps s0 (needTest v1 v2) := by
  unfold needTest
  repeat' first
    | with_reducible assumption
    | with_reducible apply keeps_modTest
    | with_reducible apply keeps_emit
    | with_reducible apply keeps_modSupply
    | with_reducible apply h1
    | with_reducible rfl
    | with_reducible apply ChKeeps.of
    | with_reducible apply IslKeeps.of
    | (intro x; first | (refine (fun (hx : Keeps s0 x) => ?_) ?_; on_goal 2 => subst x) | skip)
    | lift_lets
    | split

theorem keeps_rebuildRegion {v1 v2} (h1 : Keeps s0 v1) :
    Keeps s0 (rebuildRegion v1 v2) := by
  unfold rebuildRegion
  repeat' first
    | with_reducible assumption
    | with_reducible apply keeps_modRegion
    | with_reducible apply keeps_drawFree
    | with_reducible apply keeps_allocNodes
    | with_reducible apply keeps_getD
    | with_reducible refine of_snd (by assumption) ?_
    | with_reducible refine of_some (by assumption) ?_
    | with_reducible apply h1
    | with_reducible rfl
    | with_reducible apply ChKeeps.of
    | with_reducible apply IslKeeps.of
    | (intro x; first | (refine (fun (hx : Keeps s0 x) => ?_) ?_; on_goal 2 => subst x) | (refine (fun (hx : Keeps s0 x.1) => ?_) ?_; on_goal 2 => subst x) | (refine (fun (hx : Keeps s0 x.2) => ?_) ?_; on_goal 2 => subst x) | (refine (fun (hx : Keeps s0 x.2.2) => ?_) ?_; on_goal 2 => subst x) | (refine (fun (hx : Keeps s0 x.2.1) => ?_) ?_; on_goal 2 => subst x) | skip)
    | (extract_lets -underBinder +onlyGivenNames x; first | (refine (fun (hx : Keeps s0 x) => ?_) ?_; on_goal 2 => subst x) | (refine (fun (hx : Keeps s0 x.1) => ?_) ?_; on_goal 2 => subst x) | (refine (fun (hx : Keeps s0 x.2) => ?_) ?_; on_goal 2 => subst x) | (refine (fun (hx : Keeps s0 x.2.2) => ?_) ?_; on_goal 2 => subst x) | (refine (fun (hx : Keeps s0 x.2.1) => ?_) ?_; on_goal 2 => subst x) | skip)
    | split

theorem keeps_repoint {v1 v2 v3} (h2 : Keeps s0 v2.1) :
    Keeps s0 (repoint v1 v2 v3).1 := by
  unfold repoint
  repeat' first
    | with_reducible assumption
    | with_reducible apply keeps_jAppend
    | with_reducible apply keeps_invalidate
    | with_reducible apply keeps_setMap
    | with_reducible exact Keeps.refl _
    | with_reducible apply h2
    | with_reducible rfl
    | with_reducible apply ChKeeps.of
    | with_reducible apply IslKeeps.of
    | (intro x; first | (refine (fun (hx : Keeps s0 x) => ?_) ?_; on_goal 2 => subst x) | skip)
    | lift_lets
    | split

theorem keeps_restoreClose {v1 v2 v3 v4} (h2 : Keeps s0 v2.1) :
    Keeps s0 (restoreClose v1 v2 v3 v4).1 := by
  rw [restoreClose.eq_1]
  with_reducible refine keeps_closeSeq (keeps_setSeq h2)

theorem keeps_restoreSeq {v1 v2 v3 v4 v5 v6 v7} (h1 : Keeps s0 v1) :
    Keeps s0 (restoreSeq v1 v2 v3 v4 v5 v6 v7) := by
  unfold restoreSeq
  repeat' first
    | with_reducible assumption
    | with_reducible apply keeps_setSeq
    | with_reducible apply keeps_modObj
    | with_reducible apply keeps_modMarl
    | with_reducible apply keeps_allocRun
    | with_reducible apply keeps_allocNodes
    | with_reducible apply keeps_modSeq
    | with_reducible apply keeps_foldl
    | with_reducible apply keeps_getD
    | with_reducible refine of_some (by assumption) ?_
    | with_reducible apply h1
    | with_reducible rfl
    | with_reducible apply ChKeeps.of
    | with_reducible apply IslKeeps.of
    | (intro x; first | (refine (fun (hx : Keeps s0 x) => ?_) ?_; on_goal 2 => subst x) | skip)
    | lift_lets
    | split

theorem keeps_restoreSlot {v1 v2 v3} (h2 : Keeps s0 v2.1) :
    Keeps s0 (restoreSlot v1 v2 v3).1 := by
  rw [restoreSlot.eq_1]
  split
  · exact keeps_setSeq h2
  · exact keeps_setSeq h2
  · exact keeps_restoreClose h2
  · split
    · exact keeps_ite (fun _ => keeps_restoreSeq h2) (fun _ => keeps_jSlot (keeps_restoreSeq h2))
    · exact keeps_restoreClose h2

theorem keeps_rebuildRegions {v1} (h1 : Keeps s0 v1) :
    Keeps s0 (rebuildRegions v1) := by
  unfold rebuildRegions
  repeat' first
    | with_reducible assumption
    | with_reducible apply keeps_modIsland
    | with_reducible apply keeps_rebuildRegion
    | with_reducible apply keeps_foldl
    | with_reducible apply h1
    | with_reducible rfl
    | with_reducible apply ChKeeps.of
    | with_reducible apply IslKeeps.of
    | (intro x; first | (refine (fun (hx : Keeps s0 x) => ?_) ?_; on_goal 2 => subst x) | skip)
    | lift_lets
    | split

theorem keeps_resetDone {v1 v2} (h1 : Keeps s0 v1) :
    Keeps s0 (resetDone v1 v2) := by
  unfold resetDone
  repeat' first
    | with_reducible assumption
    | with_reducible apply keeps_forTasks
    | with_reducible apply keeps_mbDone
    | with_reducible apply h1
    | with_reducible rfl
    | with_reducible apply ChKeeps.of
    | with_reducible apply IslKeeps.of
    | (intro x; first | (refine (fun (hx : Keeps s0 x) => ?_) ?_; on_goal 2 => subst x) | skip)
    | lift_lets
    | split

theorem keeps_bumpGen {v1} (h1 : Keeps s0 v1) :
    Keeps s0 (bumpGen v1) := by
  unfold bumpGen
  repeat' first
    | with_reducible assumption
    | with_reducible apply keeps_modIsland
    | with_reducible apply keeps_raiseD
    | with_reducible apply h1
    | with_reducible rfl
    | with_reducible apply ChKeeps.of
    | with_reducible apply IslKeeps.of
    | (intro x; first | (refine (fun (hx : Keeps s0 x) => ?_) ?_; on_goal 2 => subst x) | skip)
    | lift_lets
    | split

theorem keeps_freeStored {v1 v2 v3 v4 v5} (h1 : Keeps s0 v1) :
    Keeps s0 (freeStored v1 v2 v3 v4 v5) := by
  unfold freeStored
  repeat' first
    | with_reducible assumption
    | with_reducible apply keeps_freeBlock
    | with_reducible apply keeps_setRec
    | with_reducible apply keeps_setPb
    | with_reducible apply keeps_foldl
    | with_reducible apply h1
    | with_reducible rfl
    | with_reducible apply ChKeeps.of
    | with_reducible apply IslKeeps.of
    | (intro x; first | (refine (fun (hx : Keeps s0 x) => ?_) ?_; on_goal 2 => subst x) | skip)
    | lift_lets
    | split

theorem keeps_drawMdKey {v1 v2} (h1 : Keeps s0 v1) :
    Keeps s0 (drawMdKey v1 v2) := by
  unfold drawMdKey
  repeat' first
    | with_reducible assumption
    | with_reducible apply keeps_drawFree
    | with_reducible apply keeps_modCh
    | with_reducible refine of_snd (by assumption) ?_
    | with_reducible apply h1
    | with_reducible rfl
    | with_reducible apply ChKeeps.of
    | with_reducible apply IslKeeps.of
    | (intro x; first | (refine (fun (hx : Keeps s0 x) => ?_) ?_; on_goal 2 => subst x) | skip)
    | lift_lets
    | split

theorem keeps_engineSpared {v1 v2 v3} (h1 : Keeps s0 v1) :
    Keeps s0 (engineSpared v1 v2 v3) := by
  unfold engineSpared
  repeat' first
    | with_reducible assumption
    | with_reducible apply keeps_raiseSpare
    | with_reducible apply h1
    | with_reducible rfl
    | with_reducible apply ChKeeps.of
    | with_reducible apply IslKeeps.of
    | (intro x; first | (refine (fun (hx : Keeps s0 x) => ?_) ?_; on_goal 2 => subst x) | skip)
    | lift_lets
    | split

theorem keeps_startMarks {v1 v2 v3} (h1 : Keeps s0 v1) :
    Keeps s0 (startMarks v1 v2 v3) := by
  unfold startMarks
  repeat' first
    | with_reducible assumption
    | with_reducible apply keeps_modCh
    | with_reducible apply keeps_engineSpared
    | with_reducible apply keeps_raiseSpare
    | with_reducible apply keeps_foldl
    | with_reducible apply keeps_getD
    | with_reducible apply h1
    | with_reducible rfl
    | with_reducible apply ChKeeps.of
    | with_reducible apply IslKeeps.of
    | (intro x; first | (refine (fun (hx : Keeps s0 x) => ?_) ?_; on_goal 2 => subst x) | skip)
    | lift_lets
    | split

theorem keeps_becomeAbsent {v1 v2} (h1 : Keeps s0 v1) :
    Keeps s0 (becomeAbsent v1 v2) := by
  unfold becomeAbsent
  repeat' first
    | with_reducible assumption
    | with_reducible apply keeps_setChState
    | with_reducible apply keeps_modIsland
    | with_reducible apply h1
    | with_reducible rfl
    | with_reducible apply ChKeeps.of
    | with_reducible apply IslKeeps.of
    | (intro x; first | (refine (fun (hx : Keeps s0 x) => ?_) ?_; on_goal 2 => subst x) | skip)
    | lift_lets
    | split

theorem keeps_startSieve {v1 v2 v3} (h1 : Keeps s0 v1) :
    Keeps s0 (startSieve v1 v2 v3) := by
  unfold startSieve
  repeat' first
    | with_reducible assumption
    | with_reducible apply keeps_modSieve
    | with_reducible apply keeps_rowFails
    | with_reducible apply keeps_spareAll
    | with_reducible apply keeps_foldl
    | with_reducible apply h1
    | with_reducible rfl
    | with_reducible apply ChKeeps.of
    | with_reducible apply IslKeeps.of
    | (intro x; first | (refine (fun (hx : Keeps s0 x) => ?_) ?_; on_goal 2 => subst x) | skip)
    | lift_lets
    | split

theorem keeps_marlTrained {v1 v2 v3} (h1 : Keeps s0 v1) :
    Keeps s0 (marlTrained v1 v2 v3) := by
  unfold marlTrained
  repeat' first
    | with_reducible assumption
    | with_reducible apply keeps_modMarl
    | with_reducible apply keeps_getD
    | with_reducible apply h1
    | with_reducible rfl
    | with_reducible apply ChKeeps.of
    | with_reducible apply IslKeeps.of
    | (intro x; first | (refine (fun (hx : Keeps s0 x) => ?_) ?_; on_goal 2 => subst x) | skip)
    | lift_lets
    | split

theorem keeps_discarded {v1 v2 v3} (h1 : Keeps s0 v1) :
    Keeps s0 (discarded v1 v2 v3) := by
  unfold discarded
  repeat' first
    | with_reducible assumption
    | with_reducible apply keeps_modCh
    | with_reducible apply keeps_raiseC
    | with_reducible apply h1
    | with_reducible rfl
    | with_reducible apply ChKeeps.of
    | with_reducible apply IslKeeps.of
    | (intro x; first | (refine (fun (hx : Keeps s0 x) => ?_) ?_; on_goal 2 => subst x) | skip)
    | lift_lets
    | split

theorem keeps_scanOpen {v1 v2 v3 v4} (h3 : Keeps s0 v3.1) :
    Keeps s0 (scanOpen v1 v2 v3 v4).1 := by
  unfold scanOpen
  repeat' first
    | with_reducible assumption
    | with_reducible apply keeps_repoint
    | with_reducible apply keeps_markSb
    | with_reducible apply keeps_closeSb
    | with_reducible apply keeps_foldl
    | with_reducible apply keeps_foldl_fst
    | with_reducible apply keeps_foldl_thd
    | with_reducible exact Keeps.refl _
    | with_reducible refine of_fst (by assumption) ?_
    | with_reducible apply h3
    | with_reducible rfl
    | with_reducible apply ChKeeps.of
    | with_reducible apply IslKeeps.of
    | (intro x; first | (refine (fun (hx : Keeps s0 x) => ?_) ?_; on_goal 2 => subst x) | (refine (fun (hx : Keeps s0 x.1) => ?_) ?_; on_goal 2 => subst x) | (refine (fun (hx : Keeps s0 x.2) => ?_) ?_; on_goal 2 => subst x) | (refine (fun (hx : Keeps s0 x.2.2) => ?_) ?_; on_goal 2 => subst x) | (refine (fun (hx : Keeps s0 x.2.1) => ?_) ?_; on_goal 2 => subst x) | skip)
    | lift_lets
    | split

theorem keeps_recoverMarl {v1 v2 v3 v4} (h1 : Keeps s0 v1) :
    Keeps s0 (recoverMarl v1 v2 v3 v4) := by
  unfold recoverMarl
  repeat' first
    | with_reducible assumption
    | with_reducible apply keeps_modMarl
    | with_reducible apply keeps_openJournal
    | with_reducible apply keeps_markSb
    | with_reducible apply keeps_scanOpen
    | with_reducible apply keeps_dropUnit
    | with_reducible apply keeps_mediaCheck
    | with_reducible apply keeps_raiseC
    | with_reducible apply keeps_foldl
    | with_reducible apply keeps_foldl_fst
    | with_reducible apply keeps_foldl_thd
    | with_reducible refine of_fst (by assumption) ?_
    | with_reducible apply h1
    | with_reducible rfl
    | with_reducible apply ChKeeps.of
    | with_reducible apply IslKeeps.of
    | (intro x; first | (refine (fun (hx : Keeps s0 x) => ?_) ?_; on_goal 2 => subst x) | (refine (fun (hx : Keeps s0 x.1) => ?_) ?_; on_goal 2 => subst x) | (refine (fun (hx : Keeps s0 x.2) => ?_) ?_; on_goal 2 => subst x) | (refine (fun (hx : Keeps s0 x.2.2) => ?_) ?_; on_goal 2 => subst x) | (refine (fun (hx : Keeps s0 x.2.1) => ?_) ?_; on_goal 2 => subst x) | skip)
    | lift_lets
    | split

theorem keeps_restoreBlock {v1 v2 v3 v4 v5 v6 v7} (h1 : Keeps s0 v1) :
    Keeps s0 (restoreBlock v1 v2 v3 v4 v5 v6 v7) := by
  rw [restoreBlock.eq_1]
  refine keeps_foldl (fun t e ht => ?_) (keeps_setPb (keeps_getD (keeps_allocRun h1) h1))
  split
  · next i u heq =>
    have ho : KOP s0 ((smGet? v6 e.2.summIdx.toNat).bind (fun u => allocSumm t v2 u)) := by
      cases smGet? v6 e.2.summIdx.toNat with
      | none => exact KOP.none
      | some w => exact keeps_allocSumm ht
    exact keeps_setRec (ho _ _ heq)
  · exact keeps_setRec ht

theorem keeps_restoreBlocks {v1 v2} (h1 : Keeps s0 v1) :
    Keeps s0 (restoreBlocks v1 v2) := by
  rw [restoreBlocks.eq_1]
  refine keeps_foldl (fun t x ht => ?_) (keeps_foldl (fun t x ht => ?_) h1)
  · split
    · exact keeps_ite (fun _ => keeps_restoreBlock ht) (fun _ => ht)
    · exact ht
  · split
    · exact keeps_ite (fun _ => ht) (fun _ => keeps_freeStored ht)
    · exact ht

theorem keeps_startObjects {v1 v2 v3} (h1 : Keeps s0 v1) :
    Keeps s0 (startObjects v1 v2 v3) := by
  unfold startObjects
  repeat' first
    | with_reducible assumption
    | with_reducible apply keeps_setLayout
    | with_reducible apply keeps_marlTrained
    | with_reducible apply keeps_modFlash
    | with_reducible apply keeps_discarded
    | with_reducible apply keeps_recoverMarl
    | with_reducible apply keeps_restoreSlot
    | with_reducible apply keeps_restoreBlocks
    | with_reducible apply keeps_ownerPurgeStep
    | with_reducible apply keeps_foldl
    | with_reducible apply keeps_foldl_fst
    | with_reducible apply keeps_foldl_thd
    | with_reducible refine of_fst (by assumption) ?_
    | with_reducible apply h1
    | with_reducible rfl
    | with_reducible apply ChKeeps.of
    | with_reducible apply IslKeeps.of
    | (intro x; first | (refine (fun (hx : Keeps s0 x) => ?_) ?_; on_goal 2 => subst x) | (refine (fun (hx : Keeps s0 x.1) => ?_) ?_; on_goal 2 => subst x) | (refine (fun (hx : Keeps s0 x.2) => ?_) ?_; on_goal 2 => subst x) | (refine (fun (hx : Keeps s0 x.2.2) => ?_) ?_; on_goal 2 => subst x) | (refine (fun (hx : Keeps s0 x.2.1) => ?_) ?_; on_goal 2 => subst x) | skip)
    | lift_lets
    | split

theorem keeps_startCh {v1 v2 v3 v4} (h1 : Keeps s0 v1) :
    Keeps s0 (startCh v1 v2 v3 v4) := by
  unfold startCh
  repeat' first
    | with_reducible assumption
    | with_reducible apply keeps_modSupply
    | with_reducible apply keeps_startMarks
    | with_reducible apply keeps_setChState
    | with_reducible apply keeps_becomeAbsent
    | with_reducible apply keeps_startSieve
    | with_reducible apply keeps_drawFree
    | with_reducible apply keeps_drawMdKey
    | with_reducible apply keeps_srSeedSet
    | with_reducible apply keeps_startObjects
    | with_reducible refine of_snd (by assumption) ?_
    | with_reducible apply h1
    | with_reducible rfl
    | with_reducible apply ChKeeps.of
    | with_reducible apply IslKeeps.of
    | (intro x; first | (refine (fun (hx : Keeps s0 x) => ?_) ?_; on_goal 2 => subst x) | skip)
    | lift_lets
    | split

theorem keeps_shutTested {v1} (h1 : Keeps s0 v1) :
    Keeps s0 (shutTested v1) := by
  unfold shutTested
  repeat' first
    | with_reducible assumption
    | with_reducible apply keeps_forTasks
    | with_reducible apply keeps_shutEnd
    | with_reducible apply h1
    | with_reducible rfl
    | with_reducible apply ChKeeps.of
    | with_reducible apply IslKeeps.of
    | (intro x; first | (refine (fun (hx : Keeps s0 x) => ?_) ?_; on_goal 2 => subst x) | skip)
    | lift_lets
    | split

theorem keeps_dropLanes {v1 v2} (h1 : Keeps s0 v1) :
    Keeps s0 (dropLanes v1 v2) := by
  unfold dropLanes
  repeat' first
    | with_reducible assumption
    | with_reducible apply keeps_modCh
    | with_reducible apply h1
    | with_reducible rfl
    | with_reducible apply ChKeeps.of
    | with_reducible apply IslKeeps.of
    | (intro x; first | (refine (fun (hx : Keeps s0 x) => ?_) ?_; on_goal 2 => subst x) | skip)
    | lift_lets
    | split

theorem keeps_testEnds {v1} (h1 : Keeps s0 v1) :
    Keeps s0 (testEnds v1) := by
  unfold testEnds
  repeat' first
    | with_reducible assumption
    | with_reducible apply keeps_modTest
    | with_reducible apply keeps_shutTested
    | with_reducible apply keeps_raiseD
    | with_reducible apply keeps_forCh
    | with_reducible apply keeps_dropLanes
    | with_reducible apply h1
    | with_reducible rfl
    | with_reducible apply ChKeeps.of
    | with_reducible apply IslKeeps.of
    | (intro x; first | (refine (fun (hx : Keeps s0 x) => ?_) ?_; on_goal 2 => subst x) | skip)
    | lift_lets
    | split

theorem keeps_beginStarts {v1 v2} (h1 : Keeps s0 v1) :
    Keeps s0 (beginStarts v1 v2) := by
  unfold beginStarts
  repeat' first
    | with_reducible assumption
    | with_reducible apply keeps_modTest
    | with_reducible apply keeps_needTest
    | with_reducible apply h1
    | with_reducible rfl
    | with_reducible apply ChKeeps.of
    | with_reducible apply IslKeeps.of
    | (intro x; first | (refine (fun (hx : Keeps s0 x) => ?_) ?_; on_goal 2 => subst x) | skip)
    | lift_lets
    | split

theorem keeps_modDev {v1 v2} (h1 : Keeps s0 v1) :
    Keeps s0 (modDev v1 v2) := by
  unfold modDev
  repeat' first
    | with_reducible assumption
    | with_reducible apply keeps_modIsland
    | with_reducible apply h1
    | with_reducible rfl
    | with_reducible apply ChKeeps.of
    | with_reducible apply IslKeeps.of
    | (intro x; first | (refine (fun (hx : Keeps s0 x) => ?_) ?_; on_goal 2 => subst x) | skip)
    | lift_lets
    | split

theorem keeps_abortTest {v1 v2} (h1 : Keeps s0 v1) :
    Keeps s0 (abortTest v1 v2) := by
  unfold abortTest
  repeat' first
    | with_reducible assumption
    | with_reducible apply keeps_modDev
    | with_reducible apply keeps_modTest
    | with_reducible apply keeps_shutTested
    | with_reducible apply h1
    | with_reducible rfl
    | with_reducible apply ChKeeps.of
    | with_reducible apply IslKeeps.of
    | (intro x; first | (refine (fun (hx : Keeps s0 x) => ?_) ?_; on_goal 2 => subst x) | skip)
    | lift_lets
    | split

theorem keeps_putCaps {v1} (h1 : Keeps s0 v1) :
    Keeps s0 (putCaps v1) := by
  unfold putCaps
  repeat' first
    | with_reducible assumption
    | with_reducible apply keeps_modLd
    | with_reducible apply keeps_foldl
    | with_reducible apply h1
    | with_reducible rfl
    | with_reducible apply ChKeeps.of
    | with_reducible apply IslKeeps.of
    | (intro x; first | (refine (fun (hx : Keeps s0 x) => ?_) ?_; on_goal 2 => subst x) | skip)
    | lift_lets
    | split

theorem keeps_dropResult {v1 v2} (h1 : Keeps s0 v1) :
    Keeps s0 (dropResult v1 v2) := by
  unfold dropResult
  repeat' first
    | with_reducible assumption
    | with_reducible apply keeps_modTest
    | with_reducible apply h1
    | with_reducible rfl
    | with_reducible apply ChKeeps.of
    | with_reducible apply IslKeeps.of
    | (intro x; first | (refine (fun (hx : Keeps s0 x) => ?_) ?_; on_goal 2 => subst x) | skip)
    | lift_lets
    | split

theorem keeps_startNow {v1 v2 v3} (h1 : Keeps s0 v1) :
    Keeps s0 (startNow v1 v2 v3) := by
  unfold startNow
  repeat' first
    | with_reducible assumption
    | with_reducible apply keeps_modTest
    | with_reducible apply keeps_resetDone
    | with_reducible apply keeps_startCh
    | with_reducible apply h1
    | with_reducible rfl
    | with_reducible apply ChKeeps.of
    | with_reducible apply IslKeeps.of
    | (intro x; first | (refine (fun (hx : Keeps s0 x) => ?_) ?_; on_goal 2 => subst x) | skip)
    | lift_lets
    | split

theorem keeps_resetCh {v1 v2 v3} (h1 : Keeps s0 v1) :
    Keeps s0 (resetCh v1 v2 v3) := by
  unfold resetCh
  extract_lets x warn obj
  refine keeps_setCh (fun hm => ?_) h1
  simp only [chMemOk, Bool.and_eq_true] at hm ⊢
  refine ⟨rfl, ?_⟩
  cases v3
  · rfl
  · exact hm.2

end Sys2Proof.Laws
end

