-- ==== Sys2Proof/Laws/KeepsCommitOps.lean ====
section
/-! SUPPORT. `Keeps` of the definitions of Sys2Proof/Machine/CommitOps.lean. -/

namespace Sys2Proof.Laws
open Sys2Proof Sys2Proof.Machine

variable {s0 : State}

theorem keeps_setStaging {v1 v2 v3} (h1 : Keeps s0 v1) :
    Keeps s0 (setStaging v1 v2 v3) := by
  unfold setStaging
  repeat' first
    | with_reducible assumption
    | with_reducible apply keeps_modIsland
    | with_reducible apply h1
    | with_reducible rfl
    | with_reducible apply ChKeeps.of
    | with_reducible apply IslKeeps.of
    | (intro x; first | (refine (fun (hx : Keeps s0 x) => ?_) ?_; on_goal 2 => subst x) | skip)
    | lift_lets
    | split

theorem keeps_layAll {v1 v2} (h1 : Keeps s0 v1) :
    Keeps s0 (layAll v1 v2) := by
  unfold layAll
  repeat' first
    | with_reducible assumption
    | with_reducible apply keeps_forCh
    | with_reducible apply keeps_layWord
    | with_reducible apply keeps_setLayout
    | with_reducible apply keeps_foldl
    | with_reducible apply h1
    | with_reducible rfl
    | with_reducible apply ChKeeps.of
    | with_reducible apply IslKeeps.of
    | (intro x; first | (refine (fun (hx : Keeps s0 x) => ?_) ?_; on_goal 2 => subst x) | skip)
    | lift_lets
    | split

theorem keeps_keepSettings {v1} (h1 : Keeps s0 v1) :
    Keeps s0 (keepSettings v1) := by
  unfold keepSettings
  repeat' first
    | with_reducible assumption
    | with_reducible apply keeps_forCh
    | with_reducible apply keeps_modRing
    | with_reducible apply keeps_foldl
    | with_reducible apply h1
    | with_reducible rfl
    | with_reducible apply ChKeeps.of
    | with_reducible apply IslKeeps.of
    | (intro x; first | (refine (fun (hx : Keeps s0 x) => ?_) ?_; on_goal 2 => subst x) | skip)
    | lift_lets
    | split

theorem keeps_broadcast {v1 v2} (h1 : Keeps s0 v1) :
    Keeps s0 (broadcast v1 v2) := by
  unfold broadcast
  extract_lets t u
  have hu : Keeps s0 u := keeps_forCh (keeps_layAll (keeps_keepSettings h1)) (fun _ _ h => keeps_modCh (fun _ => ChKeeps.clear rfl rfl) h)
  exact keeps_putCaps (keeps_bumpGen hu)

theorem keeps_commitRun {v1 v2 v3} (h1 : Keeps s0 v1) :
    Keeps s0 (commitRun v1 v2 v3) := by
  unfold commitRun
  repeat' first
    | with_reducible assumption
    | with_reducible apply keeps_modIsland
    | with_reducible apply keeps_setStaging
    | with_reducible apply keeps_broadcast
    | with_reducible apply keeps_applyHeld
    | with_reducible apply keeps_mbOut
    | with_reducible apply h1
    | with_reducible rfl
    | with_reducible apply ChKeeps.of
    | with_reducible apply IslKeeps.of
    | (intro x; first | (refine (fun (hx : Keeps s0 x) => ?_) ?_; on_goal 2 => subst x) | skip)
    | lift_lets
    | split

theorem keeps_startUp {v1} (h1 : Keeps s0 v1) :
    Keeps s0 (startUp v1) := by
  unfold startUp
  repeat' first
    | with_reducible assumption
    | with_reducible apply keeps_broadcast
    | with_reducible apply keeps_modIsland
    | with_reducible apply h1
    | with_reducible rfl
    | with_reducible apply ChKeeps.of
    | with_reducible apply IslKeeps.of
    | (intro x; first | (refine (fun (hx : Keeps s0 x) => ?_) ?_; on_goal 2 => subst x) | skip)
    | lift_lets
    | split

end Sys2Proof.Laws
end

