-- ==== Sys2Proof/Laws/KeepsHealthOps.lean ====
section
/-! SUPPORT. `Keeps` of the definitions of Sys2Proof/Machine/HealthOps.lean. -/

namespace Sys2Proof.Laws
open Sys2Proof Sys2Proof.Machine

variable {s0 : State}

theorem keeps_pushSection {v1 v2} (h1 : Keeps s0 v1) :
    Keeps s0 (pushSection v1 v2) := by
  unfold pushSection
  repeat' first
    | with_reducible assumption
    | with_reducible apply keeps_modHealth
    | with_reducible apply keeps_modIsland
    | with_reducible apply h1
    | with_reducible rfl
    | with_reducible apply ChKeeps.of
    | with_reducible apply IslKeeps.of
    | (intro x; first | (refine (fun (hx : Keeps s0 x) => ?_) ?_; on_goal 2 => subst x) | skip)
    | lift_lets
    | split

theorem keeps_staleSection {v1 v2} (h1 : Keeps s0 v1) :
    Keeps s0 (staleSection v1 v2) := by
  unfold staleSection
  repeat' first
    | with_reducible assumption
    | with_reducible apply keeps_modIsland
    | with_reducible apply h1
    | with_reducible rfl
    | with_reducible apply ChKeeps.of
    | with_reducible apply IslKeeps.of
    | (intro x; first | (refine (fun (hx : Keeps s0 x) => ?_) ?_; on_goal 2 => subst x) | skip)
    | lift_lets
    | split

end Sys2Proof.Laws
end

