-- ==== Sys2Proof/Laws/KeepsKilnCmds.lean ====
section
/-! SUPPORT. `Keeps` of the definitions of Sys2Proof/Machine/KilnCmds.lean. -/

namespace Sys2Proof.Laws
open Sys2Proof Sys2Proof.Machine

variable {s0 : State}

theorem keeps_runCxlMessage {v1 v2 v3 v4} (h4 : Keeps s0 v4) :
    Keeps s0 (runCxlMessage v1 v2 v3 v4) := by
  unfold runCxlMessage
  repeat' first
    | with_reducible assumption
    | with_reducible apply keeps_mbRun
    | with_reducible apply keeps_runIdentify
    | with_reducible apply keeps_runSupportedLogs
    | with_reducible apply keeps_runDcConfig
    | with_reducible apply keeps_runBgStatus
    | with_reducible apply keeps_runLdInfo
    | with_reducible apply keeps_runDcdInfo
    | with_reducible apply keeps_runGetLog
    | with_reducible apply keeps_runPoisonList
    | with_reducible apply keeps_runClearPoison
    | with_reducible apply keeps_runGetEvents
    | with_reducible apply keeps_runClearEvents
    | with_reducible apply keeps_runExtentList
    | with_reducible apply keeps_runAddDcResponse
    | with_reducible apply keeps_runReleaseDc
    | with_reducible apply keeps_mbInvalid
    | with_reducible apply keeps_runDcAdd
    | with_reducible apply keeps_runDcRelease
    | with_reducible apply keeps_mbUnsupported
    | with_reducible apply h4
    | with_reducible rfl
    | with_reducible apply ChKeeps.of
    | with_reducible apply IslKeeps.of
    | (intro x; first | (refine (fun (hx : Keeps s0 x) => ?_) ?_; on_goal 2 => subst x) | skip)
    | lift_lets
    | split

theorem keeps_dropCommit {v1} (h1 : Keeps s0 v1) :
    Keeps s0 (dropCommit v1) := by
  unfold dropCommit
  repeat' first
    | with_reducible assumption
    | with_reducible apply keeps_modIsland
    | with_reducible apply keeps_applyHeld
    | with_reducible apply keeps_mbSt
    | with_reducible apply h1
    | with_reducible rfl
    | with_reducible apply ChKeeps.of
    | with_reducible apply IslKeeps.of
    | (intro x; first | (refine (fun (hx : Keeps s0 x) => ?_) ?_; on_goal 2 => subst x) | skip)
    | lift_lets
    | split

theorem keeps_healthReply {v1 v2 v3 v4} (h1 : Keeps s0 v1) :
    Keeps s0 (healthReply v1 v2 v3 v4) := by
  unfold healthReply
  repeat' first
    | with_reducible assumption
    | with_reducible apply keeps_mbOut
    | with_reducible apply h1
    | with_reducible rfl
    | with_reducible apply ChKeeps.of
    | with_reducible apply IslKeeps.of
    | (intro x; first | (refine (fun (hx : Keeps s0 x) => ?_) ?_; on_goal 2 => subst x) | skip)
    | lift_lets
    | split

theorem keeps_pollTimeout {v1 v2} (h1 : Keeps s0 v1) :
    Keeps s0 (pollTimeout v1 v2) := by
  unfold pollTimeout
  repeat' first
    | with_reducible assumption
    | with_reducible apply keeps_staleSection
    | with_reducible apply keeps_modIsland
    | with_reducible apply keeps_healthReply
    | with_reducible apply h1
    | with_reducible rfl
    | with_reducible apply ChKeeps.of
    | with_reducible apply IslKeeps.of
    | (intro x; first | (refine (fun (hx : Keeps s0 x) => ?_) ?_; on_goal 2 => subst x) | skip)
    | lift_lets
    | split

theorem keeps_tripRelease {v1} (h1 : Keeps s0 v1) :
    Keeps s0 (tripRelease v1) := by
  unfold tripRelease
  repeat' first
    | with_reducible assumption
    | with_reducible apply keeps_modSupply
    | with_reducible apply h1
    | with_reducible rfl
    | with_reducible apply ChKeeps.of
    | with_reducible apply IslKeeps.of
    | (intro x; first | (refine (fun (hx : Keeps s0 x) => ?_) ?_; on_goal 2 => subst x) | skip)
    | lift_lets
    | split

theorem keeps_runSelfTestQuery {v1 v2 v3} (h3 : Keeps s0 v3) :
    Keeps s0 (runSelfTestQuery v1 v2 v3) := by
  unfold runSelfTestQuery
  repeat' first
    | with_reducible assumption
    | with_reducible apply keeps_mbRun
    | with_reducible apply keeps_mbOut
    | with_reducible apply h3
    | with_reducible rfl
    | with_reducible apply ChKeeps.of
    | with_reducible apply IslKeeps.of
    | (intro x; first | (refine (fun (hx : Keeps s0 x) => ?_) ?_; on_goal 2 => subst x) | skip)
    | lift_lets
    | split

theorem keeps_runCommitApply {v1 v2 v3} (h3 : Keeps s0 v3) :
    Keeps s0 (runCommitApply v1 v2 v3) := by
  unfold runCommitApply
  repeat' first
    | with_reducible assumption
    | with_reducible apply keeps_mbRun
    | with_reducible apply keeps_mbOut
    | with_reducible apply keeps_commitRun
    | with_reducible apply keeps_modIsland
    | with_reducible apply h3
    | with_reducible rfl
    | with_reducible apply ChKeeps.of
    | with_reducible apply IslKeeps.of
    | (intro x; first | (refine (fun (hx : Keeps s0 x) => ?_) ?_; on_goal 2 => subst x) | skip)
    | lift_lets
    | split

theorem keeps_execCommitApply {v1 v2 v3} (h3 : Keeps s0 v3) :
    KX s0 (execCommitApply v1 v2 v3) := by
  unfold execCommitApply
  repeat' first
    | with_reducible assumption
    | with_reducible apply keeps_mbEnter
    | with_reducible apply keeps_runCommitApply
    | with_reducible refine KX.next ?_
    | with_reducible apply h3
    | with_reducible rfl
    | with_reducible apply ChKeeps.of
    | with_reducible apply IslKeeps.of
    | (intro x; first | (refine (fun (hx : Keeps s0 x) => ?_) ?_; on_goal 2 => subst x) | skip)
    | lift_lets
    | split

theorem keeps_runStageClear {v1 v2 v3} (h3 : Keeps s0 v3) :
    Keeps s0 (runStageClear v1 v2 v3) := by
  unfold runStageClear
  repeat' first
    | with_reducible assumption
    | with_reducible apply keeps_mbRun
    | with_reducible apply keeps_mbSt
    | with_reducible apply keeps_setStaging
    | with_reducible apply h3
    | with_reducible rfl
    | with_reducible apply ChKeeps.of
    | with_reducible apply IslKeeps.of
    | (intro x; first | (refine (fun (hx : Keeps s0 x) => ?_) ?_; on_goal 2 => subst x) | skip)
    | lift_lets
    | split

theorem keeps_execStageClear {v1 v2 v3} (h3 : Keeps s0 v3) :
    KX s0 (execStageClear v1 v2 v3) := by
  unfold execStageClear
  repeat' first
    | with_reducible assumption
    | with_reducible apply keeps_mbEnter
    | with_reducible apply keeps_runStageClear
    | with_reducible refine KX.next ?_
    | with_reducible apply h3
    | with_reducible rfl
    | with_reducible apply ChKeeps.of
    | with_reducible apply IslKeeps.of
    | (intro x; first | (refine (fun (hx : Keeps s0 x) => ?_) ?_; on_goal 2 => subst x) | skip)
    | lift_lets
    | split

theorem keeps_runCapRead {v1 v2 v3} (h3 : Keeps s0 v3) :
    Keeps s0 (runCapRead v1 v2 v3) := by
  unfold runCapRead
  repeat' first
    | with_reducible assumption
    | with_reducible apply keeps_mbRun
    | with_reducible apply keeps_mbSt
    | with_reducible apply keeps_mbOut
    | with_reducible apply h3
    | with_reducible rfl
    | with_reducible apply ChKeeps.of
    | with_reducible apply IslKeeps.of
    | (intro x; first | (refine (fun (hx : Keeps s0 x) => ?_) ?_; on_goal 2 => subst x) | skip)
    | lift_lets
    | split

theorem keeps_execCapRead {v1 v2 v3} (h3 : Keeps s0 v3) :
    KX s0 (execCapRead v1 v2 v3) := by
  unfold execCapRead
  repeat' first
    | with_reducible assumption
    | with_reducible apply keeps_mbEnter
    | with_reducible apply keeps_runCapRead
    | with_reducible refine KX.next ?_
    | with_reducible apply h3
    | with_reducible rfl
    | with_reducible apply ChKeeps.of
    | with_reducible apply IslKeeps.of
    | (intro x; first | (refine (fun (hx : Keeps s0 x) => ?_) ?_; on_goal 2 => subst x) | skip)
    | lift_lets
    | split

theorem keeps_engineMap {v1 v2} (h1 : Keeps s0 v1) :
    Keeps s0 (engineMap v1 v2) := by
  unfold engineMap
  repeat' first
    | with_reducible assumption
    | with_reducible apply keeps_modCh
    | with_reducible apply keeps_engineSpared
    | with_reducible apply keeps_bumpGen
    | with_reducible apply keeps_isolateCh
    | with_reducible apply keeps_setChState
    | with_reducible apply keeps_putCaps
    | with_reducible apply h1
    | with_reducible rfl
    | with_reducible apply ChKeeps.of
    | with_reducible apply IslKeeps.of
    | (intro x; first | (refine (fun (hx : Keeps s0 x) => ?_) ?_; on_goal 2 => subst x) | skip)
    | lift_lets
    | split

theorem keeps_runGetIdentity {v1 v2 v3} (h3 : Keeps s0 v3) :
    Keeps s0 (runGetIdentity v1 v2 v3) := by
  unfold runGetIdentity
  repeat' first
    | with_reducible assumption
    | with_reducible apply keeps_mbRun
    | with_reducible apply keeps_mbOut
    | with_reducible apply h3
    | with_reducible rfl
    | with_reducible apply ChKeeps.of
    | with_reducible apply IslKeeps.of
    | (intro x; first | (refine (fun (hx : Keeps s0 x) => ?_) ?_; on_goal 2 => subst x) | skip)
    | lift_lets
    | split

theorem keeps_runGetHealth {v1 v2 v3 v4} (h4 : Keeps s0 v4) :
    Keeps s0 (runGetHealth v1 v2 v3 v4) := by
  unfold runGetHealth
  repeat' first
    | with_reducible assumption
    | with_reducible apply keeps_mbRun
    | with_reducible apply keeps_mbSt
    | with_reducible apply keeps_forCh
    | with_reducible apply keeps_pushSection
    | with_reducible apply keeps_healthReply
    | with_reducible apply keeps_modIsland
    | with_reducible apply h4
    | with_reducible rfl
    | with_reducible apply ChKeeps.of
    | with_reducible apply IslKeeps.of
    | (intro x; first | (refine (fun (hx : Keeps s0 x) => ?_) ?_; on_goal 2 => subst x) | skip)
    | lift_lets
    | split

theorem keeps_runSetTime {v1 v2 v3} (h3 : Keeps s0 v3) :
    Keeps s0 (runSetTime v1 v2 v3) := by
  unfold runSetTime
  repeat' first
    | with_reducible assumption
    | with_reducible apply keeps_mbRun
    | with_reducible apply keeps_mbSt
    | with_reducible apply keeps_modIsland
    | with_reducible apply h3
    | with_reducible rfl
    | with_reducible apply ChKeeps.of
    | with_reducible apply IslKeeps.of
    | (intro x; first | (refine (fun (hx : Keeps s0 x) => ?_) ?_; on_goal 2 => subst x) | skip)
    | lift_lets
    | split

theorem keeps_runShutdown {v1 v2 v3} (h3 : Keeps s0 v3) :
    Keeps s0 (runShutdown v1 v2 v3) := by
  unfold runShutdown
  repeat' first
    | with_reducible assumption
    | with_reducible apply keeps_mbRun
    | with_reducible apply keeps_mbSt
    | with_reducible apply keeps_mbStart
    | with_reducible apply keeps_forCh
    | with_reducible apply keeps_stopRing
    | with_reducible apply keeps_shutRun
    | with_reducible apply keeps_foldl
    | with_reducible apply h3
    | with_reducible rfl
    | with_reducible apply ChKeeps.of
    | with_reducible apply IslKeeps.of
    | (intro x; first | (refine (fun (hx : Keeps s0 x) => ?_) ?_; on_goal 2 => subst x) | skip)
    | lift_lets
    | split

theorem keeps_runStageWrite {v1 v2 v3} (h3 : Keeps s0 v3) :
    Keeps s0 (runStageWrite v1 v2 v3) := by
  unfold runStageWrite
  repeat' first
    | with_reducible assumption
    | with_reducible apply keeps_mbRun
    | with_reducible apply keeps_mbOut
    | with_reducible apply keeps_setStaging
    | with_reducible apply h3
    | with_reducible rfl
    | with_reducible apply ChKeeps.of
    | with_reducible apply IslKeeps.of
    | (intro x; first | (refine (fun (hx : Keeps s0 x) => ?_) ?_; on_goal 2 => subst x) | skip)
    | lift_lets
    | split

theorem keeps_runStageRead {v1 v2 v3} (h3 : Keeps s0 v3) :
    Keeps s0 (runStageRead v1 v2 v3) := by
  unfold runStageRead
  repeat' first
    | with_reducible assumption
    | with_reducible apply keeps_mbRun
    | with_reducible apply keeps_mbOut
    | with_reducible apply h3
    | with_reducible rfl
    | with_reducible apply ChKeeps.of
    | with_reducible apply IslKeeps.of
    | (intro x; first | (refine (fun (hx : Keeps s0 x) => ?_) ?_; on_goal 2 => subst x) | skip)
    | lift_lets
    | split

theorem keeps_runCommitCheck {v1 v2 v3} (h3 : Keeps s0 v3) :
    Keeps s0 (runCommitCheck v1 v2 v3) := by
  unfold runCommitCheck
  repeat' first
    | with_reducible assumption
    | with_reducible apply keeps_mbRun
    | with_reducible apply keeps_mbOut
    | with_reducible apply h3
    | with_reducible rfl
    | with_reducible apply ChKeeps.of
    | with_reducible apply IslKeeps.of
    | (intro x; first | (refine (fun (hx : Keeps s0 x) => ?_) ?_; on_goal 2 => subst x) | skip)
    | lift_lets
    | split

theorem keeps_runCommitQuery {v1 v2 v3} (h3 : Keeps s0 v3) :
    Keeps s0 (runCommitQuery v1 v2 v3) := by
  unfold runCommitQuery
  repeat' first
    | with_reducible assumption
    | with_reducible apply keeps_mbRun
    | with_reducible apply keeps_mbOut
    | with_reducible apply h3
    | with_reducible rfl
    | with_reducible apply ChKeeps.of
    | with_reducible apply IslKeeps.of
    | (intro x; first | (refine (fun (hx : Keeps s0 x) => ?_) ?_; on_goal 2 => subst x) | skip)
    | lift_lets
    | split

theorem keeps_runEventRead {v1 v2 v3} (h3 : Keeps s0 v3) :
    Keeps s0 (runEventRead v1 v2 v3) := by
  unfold runEventRead
  refine keeps_mbRun h3 (fun t ht => ?_)
  dsimp only
  refine keeps_ite (fun _ => keeps_mbSt ht) (fun _ => keeps_mbOut (keeps_ite (fun _ => ?_) (fun _ => ht)))
  exact keeps_modIsland (fun _ => islKeeps_evq (fun hq => ⟨hq.1, Nat.mod_lt _ (by decide)⟩)) ht

theorem keeps_runChannelIsolate {v1 v2 v3} (h3 : Keeps s0 v3) :
    Keeps s0 (runChannelIsolate v1 v2 v3) := by
  unfold runChannelIsolate
  repeat' first
    | with_reducible assumption
    | with_reducible apply keeps_mbRun
    | with_reducible apply keeps_mbOnCh
    | with_reducible apply keeps_mbSt
    | with_reducible apply keeps_isolateCh
    | with_reducible apply h3
    | with_reducible rfl
    | with_reducible apply ChKeeps.of
    | with_reducible apply IslKeeps.of
    | (intro x; first | (refine (fun (hx : Keeps s0 x) => ?_) ?_; on_goal 2 => subst x) | skip)
    | lift_lets
    | split

theorem keeps_runChannelReset {v1 v2 v3 v4} (h4 : Keeps s0 v4) :
    Keeps s0 (runChannelReset v1 v2 v3 v4) := by
  unfold runChannelReset
  repeat' first
    | with_reducible assumption
    | with_reducible apply keeps_mbRun
    | with_reducible apply keeps_mbOnCh
    | with_reducible apply keeps_mbSt
    | with_reducible apply keeps_tripRelease
    | with_reducible apply keeps_mbStart
    | with_reducible apply keeps_needTest
    | with_reducible apply keeps_modTest
    | with_reducible apply keeps_resetCh
    | with_reducible apply keeps_linkDown
    | with_reducible apply keeps_isolateCh
    | with_reducible apply keeps_startNow
    | with_reducible apply keeps_beginStarts
    | with_reducible apply h4
    | with_reducible rfl
    | with_reducible apply ChKeeps.of
    | with_reducible apply IslKeeps.of
    | (intro x; first | (refine (fun (hx : Keeps s0 x) => ?_) ?_; on_goal 2 => subst x) | skip)
    | lift_lets
    | split

theorem keeps_runMessage {v1 v2 v3 v4 v5 v6} (h6 : Keeps s0 v6) :
    Keeps s0 (runMessage v1 v2 v3 v4 v5 v6) := by
  unfold runMessage
  repeat' first
    | with_reducible assumption
    | with_reducible apply keeps_runGetIdentity
    | with_reducible apply keeps_runGetHealth
    | with_reducible apply keeps_runSetTime
    | with_reducible apply keeps_runSelfTestQuery
    | with_reducible apply keeps_runShutdown
    | with_reducible apply keeps_runStageWrite
    | with_reducible apply keeps_runStageRead
    | with_reducible apply keeps_runStageClear
    | with_reducible apply keeps_runCommitCheck
    | with_reducible apply keeps_runCommitApply
    | with_reducible apply keeps_runCommitQuery
    | with_reducible apply keeps_runCapRead
    | with_reducible apply keeps_runEventRead
    | with_reducible apply keeps_runChannelIsolate
    | with_reducible apply keeps_runChannelReset
    | with_reducible apply keeps_runMediaFormat
    | with_reducible apply keeps_runMediaFlush
    | with_reducible apply keeps_runMediaDiscard
    | with_reducible apply keeps_runMediaSecureDiscard
    | with_reducible apply keeps_runRegionCreate
    | with_reducible apply keeps_runRegionSetHome
    | with_reducible apply keeps_runRegionRegister
    | with_reducible apply keeps_runRegionRevoke
    | with_reducible apply keeps_runRegionRelease
    | with_reducible apply keeps_runRegionPublish
    | with_reducible apply keeps_runRegionQuery
    | with_reducible apply keeps_runLinkConnSet
    | with_reducible apply keeps_runLinkConnReset
    | with_reducible apply keeps_runLinkConnClose
    | with_reducible apply keeps_runLinkConnQuery
    | with_reducible apply keeps_runLinkWindowSet
    | with_reducible apply keeps_runLinkKeySet
    | with_reducible apply keeps_runKeyLoad
    | with_reducible apply keeps_runKeyDestroy
    | with_reducible apply keeps_runKeyQuery
    | with_reducible apply keeps_runFirmwareUpdate
    | with_reducible apply keeps_runFirmwareActivate
    | with_reducible apply keeps_runFirmwareRecover
    | with_reducible apply keeps_mbRun
    | with_reducible apply keeps_mbSt
    | with_reducible apply keeps_runCxlMessage
    | with_reducible apply h6
    | with_reducible rfl
    | with_reducible apply ChKeeps.of
    | with_reducible apply IslKeeps.of
    | (intro x; first | (refine (fun (hx : Keeps s0 x) => ?_) ?_; on_goal 2 => subst x) | skip)
    | lift_lets
    | split

theorem keeps_waitRun {i : Instr} {x : Nat × (State → State)} {v1 : State} (e : waitRun i = some x) (h1 : Keeps s0 v1) : Keeps s0 (x.2 v1) := by
  cases i
  case mctpMessage ep msg => cases msg <;> first | (cases e; exact keeps_runMessage h1) | cases e
  all_goals
    unfold waitRun at e
    dsimp only at e
    cases e
  all_goals first
    | with_reducible exact keeps_runGetIdentity h1
    | with_reducible exact keeps_runGetHealth h1
    | with_reducible exact keeps_runSetTime h1
    | with_reducible exact keeps_runSelfTestQuery h1
    | with_reducible exact keeps_runShutdown h1
    | with_reducible exact keeps_runStageWrite h1
    | with_reducible exact keeps_runStageRead h1
    | with_reducible exact keeps_runStageClear h1
    | with_reducible exact keeps_runCommitCheck h1
    | with_reducible exact keeps_runCommitApply h1
    | with_reducible exact keeps_runCommitQuery h1
    | with_reducible exact keeps_runCapRead h1
    | with_reducible exact keeps_runEventRead h1
    | with_reducible exact keeps_runChannelIsolate h1
    | with_reducible exact keeps_runChannelReset h1
    | with_reducible exact keeps_runMediaFormat h1
    | with_reducible exact keeps_runMediaFlush h1
    | with_reducible exact keeps_runMediaDiscard h1
    | with_reducible exact keeps_runMediaSecureDiscard h1
    | with_reducible exact keeps_runRegionCreate h1
    | with_reducible exact keeps_runRegionSetHome h1
    | with_reducible exact keeps_runRegionRegister h1
    | with_reducible exact keeps_runRegionRevoke h1
    | with_reducible exact keeps_runRegionRelease h1
    | with_reducible exact keeps_runRegionPublish h1
    | with_reducible exact keeps_runRegionQuery h1
    | with_reducible exact keeps_runLinkConnSet h1
    | with_reducible exact keeps_runLinkConnReset h1
    | with_reducible exact keeps_runLinkConnClose h1
    | with_reducible exact keeps_runLinkConnQuery h1
    | with_reducible exact keeps_runLinkWindowSet h1
    | with_reducible exact keeps_runLinkKeySet h1
    | with_reducible exact keeps_runKeyLoad h1
    | with_reducible exact keeps_runKeyDestroy h1
    | with_reducible exact keeps_runKeyQuery h1
    | with_reducible exact keeps_runFirmwareUpdate h1
    | with_reducible exact keeps_runFirmwareActivate h1
    | with_reducible exact keeps_runFirmwareRecover h1
    | (with_reducible refine keeps_mbRun h1 (fun t ht => ?_)
       first
        | with_reducible exact keeps_runIdentify ht
        | with_reducible exact keeps_runSupportedLogs ht
        | with_reducible exact keeps_runGetLog ht
        | with_reducible exact keeps_runPoisonList ht
        | with_reducible exact keeps_runClearPoison ht
        | with_reducible exact keeps_runGetEvents ht
        | with_reducible exact keeps_runClearEvents ht
        | with_reducible exact keeps_runDcConfig ht
        | with_reducible exact keeps_runExtentList ht
        | with_reducible exact keeps_runAddDcResponse ht
        | with_reducible exact keeps_runReleaseDc ht
        | with_reducible exact keeps_runBgStatus ht
        | with_reducible exact keeps_runLdInfo ht
        | with_reducible exact keeps_runDcdInfo ht
        | with_reducible exact keeps_runDcAdd ht
        | with_reducible exact keeps_runDcRelease ht
        | with_reducible exact keeps_mbUnsupported ht
      )

theorem keeps_runWaiting {v1 v2} (h1 : Keeps s0 v1) :
    Keeps s0 (runWaiting v1 v2) := by
  unfold runWaiting
  split
  · exact keeps_commitDecoder h1
  · split
    · next x heq =>
      refine keeps_waitRun heq ?_
      split
      · exact keeps_setVia h1
      · exact h1
    · exact h1

theorem keeps_dispatchWaiting {v1 v2} (h2 : Keeps s0 v2) :
    Keeps s0 (dispatchWaiting v1 v2) := by
  revert h2
  fun_induction dispatchWaiting v1 v2
  all_goals try intro h2
  all_goals repeat' first
    | with_reducible assumption
    | with_reducible apply keeps_runWaiting
    | with_reducible apply keeps_modIsland
    | with_reducible apply h2
    | apply_assumption (transparency := .reducible)
    | with_reducible rfl
    | with_reducible apply ChKeeps.of
    | with_reducible apply IslKeeps.of
    | (intro x; first | (refine (fun (hx : Keeps s0 x) => ?_) ?_; on_goal 2 => subst x) | skip)
    | lift_lets
    | split

theorem keeps_mbDispatch {v1} (h1 : Keeps s0 v1) :
    Keeps s0 (mbDispatch v1) := by
  unfold mbDispatch
  repeat' first
    | with_reducible assumption
    | with_reducible apply keeps_dispatchWaiting
    | with_reducible apply h1
    | with_reducible rfl
    | with_reducible apply ChKeeps.of
    | with_reducible apply IslKeeps.of
    | (intro x; first | (refine (fun (hx : Keeps s0 x) => ?_) ?_; on_goal 2 => subst x) | skip)
    | lift_lets
    | split

theorem keeps_execRegionAdmissionResume {v1 v2 v3} (h3 : Keeps s0 v3) :
    KX s0 (execRegionAdmissionResume v1 v2 v3) := by
  unfold execRegionAdmissionResume
  repeat' first
    | with_reducible assumption
    | with_reducible apply keeps_setWait
    | with_reducible apply keeps_mbDispatch
    | with_reducible apply keeps_forCh
    | with_reducible apply keeps_wbWake
    | with_reducible refine KX.next ?_
    | with_reducible apply h3
    | with_reducible rfl
    | with_reducible apply ChKeeps.of
    | with_reducible apply IslKeeps.of
    | (intro x; first | (refine (fun (hx : Keeps s0 x) => ?_) ?_; on_goal 2 => subst x) | skip)
    | lift_lets
    | split

theorem keeps_execCommitQuery {v1 v2 v3} (h3 : Keeps s0 v3) :
    KX s0 (execCommitQuery v1 v2 v3) := by
  unfold execCommitQuery
  repeat' first
    | with_reducible assumption
    | with_reducible apply keeps_mbEnter
    | with_reducible apply keeps_runCommitQuery
    | with_reducible refine KX.next ?_
    | with_reducible apply h3
    | with_reducible rfl
    | with_reducible apply ChKeeps.of
    | with_reducible apply IslKeeps.of
    | (intro x; first | (refine (fun (hx : Keeps s0 x) => ?_) ?_; on_goal 2 => subst x) | skip)
    | lift_lets
    | split

theorem keeps_execSetTime {v1 v2 v3} (h3 : Keeps s0 v3) :
    KX s0 (execSetTime v1 v2 v3) := by
  unfold execSetTime
  repeat' first
    | with_reducible assumption
    | with_reducible apply keeps_mbEnter
    | with_reducible apply keeps_runSetTime
    | with_reducible refine KX.next ?_
    | with_reducible apply h3
    | with_reducible rfl
    | with_reducible apply ChKeeps.of
    | with_reducible apply IslKeeps.of
    | (intro x; first | (refine (fun (hx : Keeps s0 x) => ?_) ?_; on_goal 2 => subst x) | skip)
    | lift_lets
    | split

theorem keeps_enterRecovery {v1 v2} (h1 : Keeps s0 v1) :
    Keeps s0 (enterRecovery v1 v2) := by
  unfold enterRecovery
  repeat' first
    | with_reducible assumption
    | with_reducible apply keeps_raiseD
    | with_reducible apply keeps_modIsland
    | with_reducible apply h1
    | with_reducible rfl
    | with_reducible apply ChKeeps.of
    | with_reducible apply IslKeeps.of
    | (intro x; first | (refine (fun (hx : Keeps s0 x) => ?_) ?_; on_goal 2 => subst x) | skip)
    | lift_lets
    | split

theorem keeps_commitStep {v1} (h1 : Keeps s0 v1) :
    Keeps s0 (commitStep v1) := by
  unfold commitStep
  repeat' first
    | with_reducible assumption
    | with_reducible apply keeps_commitRun
    | with_reducible apply h1
    | with_reducible rfl
    | with_reducible apply ChKeeps.of
    | with_reducible apply IslKeeps.of
    | (intro x; first | (refine (fun (hx : Keeps s0 x) => ?_) ?_; on_goal 2 => subst x) | skip)
    | lift_lets
    | split

theorem keeps_execCommitFenceStands {v1} (h1 : Keeps s0 v1) :
    KX s0 (execCommitFenceStands v1) := by
  unfold execCommitFenceStands
  repeat' first
    | with_reducible assumption
    | with_reducible apply keeps_mbDispatch
    | with_reducible apply keeps_commitStep
    | with_reducible refine KX.next ?_
    | with_reducible apply h1
    | with_reducible rfl
    | with_reducible apply ChKeeps.of
    | with_reducible apply IslKeeps.of
    | (intro x; first | (refine (fun (hx : Keeps s0 x) => ?_) ?_; on_goal 2 => subst x) | skip)
    | lift_lets
    | split

theorem keeps_mediaStep {v1} (h1 : Keeps s0 v1) :
    Keeps s0 (mediaStep v1) := by
  unfold mediaStep
  repeat' first
    | with_reducible assumption
    | with_reducible apply keeps_forTasks
    | with_reducible apply keeps_formatFlash
    | with_reducible apply keeps_mbDone
    | with_reducible apply h1
    | with_reducible rfl
    | with_reducible apply ChKeeps.of
    | with_reducible apply IslKeeps.of
    | (intro x; first | (refine (fun (hx : Keeps s0 x) => ?_) ?_; on_goal 2 => subst x) | skip)
    | lift_lets
    | split

theorem keeps_tick {v1} (h1 : Keeps s0 v1) :
    Keeps s0 (tick v1) := by
  unfold tick
  repeat' first
    | with_reducible assumption
    | with_reducible apply keeps_mbDispatch
    | with_reducible apply keeps_shutStep
    | with_reducible apply keeps_mediaStep
    | with_reducible apply h1
    | with_reducible rfl
    | with_reducible apply ChKeeps.of
    | with_reducible apply IslKeeps.of
    | (intro x; first | (refine (fun (hx : Keeps s0 x) => ?_) ?_; on_goal 2 => subst x) | skip)
    | lift_lets
    | split

theorem keeps_execKeyPurgeTimeout {v1 v2 v3} (h3 : Keeps s0 v3) :
    KX s0 (execKeyPurgeTimeout v1 v2 v3) := by
  unfold execKeyPurgeTimeout
  repeat' first
    | with_reducible assumption
    | with_reducible apply keeps_mbDispatch
    | with_reducible apply keeps_purgeTimeout
    | with_reducible refine KX.next ?_
    | with_reducible apply h3
    | with_reducible rfl
    | with_reducible apply ChKeeps.of
    | with_reducible apply IslKeeps.of
    | (intro x; first | (refine (fun (hx : Keeps s0 x) => ?_) ?_; on_goal 2 => subst x) | skip)
    | lift_lets
    | split

theorem keeps_execEngineMapCommit {v1 v2} (h2 : Keeps s0 v2) :
    KX s0 (execEngineMapCommit v1 v2) := by
  unfold execEngineMapCommit
  repeat' first
    | with_reducible assumption
    | with_reducible apply keeps_engineMap
    | with_reducible refine KX.next ?_
    | with_reducible apply h2
    | with_reducible rfl
    | with_reducible apply ChKeeps.of
    | with_reducible apply IslKeeps.of
    | (intro x; first | (refine (fun (hx : Keeps s0 x) => ?_) ?_; on_goal 2 => subst x) | skip)
    | lift_lets
    | split

theorem le_raisedSvn {f : Firmware} : f.minSvn.toNat ≤ (raisedSvn f).toNat := by
  unfold raisedSvn
  split
  · have h := f.minSvn.isLt
    rw [BitVec.toNat_ofNat, Nat.mod_eq_of_lt (by omega)]
    exact Nat.le_max_left _ _
  · exact Nat.le_refl _

theorem keeps_fwRuns {v1} (h1 : Keeps s0 v1) :
    Keeps s0 (fwRuns v1) := by
  unfold fwRuns
  repeat' first
    | with_reducible assumption
    | (with_reducible refine keeps_modFw (fun x => ?_) ?_; on_goal 1 => (first | exact Nat.le_refl _ | exact le_raisedSvn | (dsimp only; split <;> exact Nat.le_refl _)))
    | with_reducible apply keeps_forTasks
    | with_reducible apply keeps_raiseD
    | with_reducible apply keeps_mbDone
    | with_reducible apply h1
    | with_reducible rfl
    | with_reducible apply ChKeeps.of
    | with_reducible apply IslKeeps.of
    | (intro x; first | (refine (fun (hx : Keeps s0 x) => ?_) ?_; on_goal 2 => subst x) | skip)
    | lift_lets
    | split

theorem keeps_regulatorsOn {v1} (h1 : Keeps s0 v1) :
    Keeps s0 (regulatorsOn v1) := by
  unfold regulatorsOn
  repeat' first
    | with_reducible assumption
    | with_reducible apply keeps_emit
    | with_reducible apply h1
    | with_reducible rfl
    | with_reducible apply ChKeeps.of
    | with_reducible apply IslKeeps.of
    | (intro x; first | (refine (fun (hx : Keeps s0 x) => ?_) ?_; on_goal 2 => subst x) | skip)
    | lift_lets
    | split

theorem keeps_bootInto {v1 v2} (h1 : Keeps s0 v1) :
    Keeps s0 (bootInto v1 v2) := by
  unfold bootInto
  repeat' first
    | with_reducible assumption
    | with_reducible apply keeps_fwLoad
    | with_reducible apply keeps_startUp
    | with_reducible apply keeps_fwRuns
    | with_reducible apply keeps_modIsland
    | with_reducible apply keeps_beginStarts
    | with_reducible apply keeps_regulatorsOn
    | with_reducible apply h1
    | with_reducible rfl
    | with_reducible apply ChKeeps.of
    | with_reducible apply IslKeeps.of
    | (intro x; first | (refine (fun (hx : Keeps s0 x) => ?_) ?_; on_goal 2 => subst x) | skip)
    | lift_lets
    | split

theorem keeps_endActivates {v1} (h1 : Keeps s0 v1) :
    Keeps s0 (endActivates v1) := by
  unfold endActivates
  repeat' first
    | with_reducible assumption
    | with_reducible apply keeps_forTasks
    | with_reducible apply keeps_mbDone
    | with_reducible apply h1
    | with_reducible rfl
    | with_reducible apply ChKeeps.of
    | with_reducible apply IslKeeps.of
    | (intro x; first | (refine (fun (hx : Keeps s0 x) => ?_) ?_; on_goal 2 => subst x) | skip)
    | lift_lets
    | split

theorem keeps_execBoot {v1} (h1 : Keeps s0 v1) :
    KX s0 (execBoot v1) := by
  unfold execBoot
  repeat' first
    | with_reducible assumption
    | with_reducible apply keeps_mbDispatch
    | with_reducible apply keeps_commitStep
    | with_reducible apply keeps_bootInto
    | with_reducible apply keeps_endActivates
    | with_reducible apply keeps_enterRecovery
    | with_reducible refine KX.next ?_
    | with_reducible apply h1
    | with_reducible rfl
    | with_reducible apply ChKeeps.of
    | with_reducible apply IslKeeps.of
    | (intro x; first | (refine (fun (hx : Keeps s0 x) => ?_) ?_; on_goal 2 => subst x) | skip)
    | lift_lets
    | split

theorem keeps_execI3cAddressAssign {v1 v2} (h2 : Keeps s0 v2) :
    KX s0 (execI3cAddressAssign v1 v2) := by
  unfold execI3cAddressAssign
  repeat' first
    | with_reducible assumption
    | with_reducible apply keeps_modHost
    | with_reducible refine KX.next ?_
    | with_reducible apply h2
    | with_reducible rfl
    | with_reducible apply ChKeeps.of
    | with_reducible apply IslKeeps.of
    | (intro x; first | (refine (fun (hx : Keeps s0 x) => ?_) ?_; on_goal 2 => subst x) | skip)
    | lift_lets
    | split

theorem keeps_execShutdown {v1 v2 v3} (h3 : Keeps s0 v3) :
    KX s0 (execShutdown v1 v2 v3) := by
  unfold execShutdown
  repeat' first
    | with_reducible assumption
    | with_reducible apply keeps_mbEnter
    | with_reducible apply keeps_runShutdown
    | with_reducible refine KX.next ?_
    | with_reducible apply h3
    | with_reducible rfl
    | with_reducible apply ChKeeps.of
    | with_reducible apply IslKeeps.of
    | (intro x; first | (refine (fun (hx : Keeps s0 x) => ?_) ?_; on_goal 2 => subst x) | skip)
    | lift_lets
    | split

theorem keeps_execGetIdentity {v1 v2 v3} (h3 : Keeps s0 v3) :
    KX s0 (execGetIdentity v1 v2 v3) := by
  unfold execGetIdentity
  repeat' first
    | with_reducible assumption
    | with_reducible apply keeps_mbEnter
    | with_reducible apply keeps_runGetIdentity
    | with_reducible refine KX.next ?_
    | with_reducible apply h3
    | with_reducible rfl
    | with_reducible apply ChKeeps.of
    | with_reducible apply IslKeeps.of
    | (intro x; first | (refine (fun (hx : Keeps s0 x) => ?_) ?_; on_goal 2 => subst x) | skip)
    | lift_lets
    | split

theorem keeps_execChannelIsolate {v1 v2 v3} (h3 : Keeps s0 v3) :
    KX s0 (execChannelIsolate v1 v2 v3) := by
  unfold execChannelIsolate
  repeat' first
    | with_reducible assumption
    | with_reducible apply keeps_mbEnter
    | with_reducible apply keeps_runChannelIsolate
    | with_reducible refine KX.next ?_
    | with_reducible apply h3
    | with_reducible rfl
    | with_reducible apply ChKeeps.of
    | with_reducible apply IslKeeps.of
    | (intro x; first | (refine (fun (hx : Keeps s0 x) => ?_) ?_; on_goal 2 => subst x) | skip)
    | lift_lets
    | split

theorem keeps_mctpControl {v1 v2 v3 v4} (h1 : Keeps s0 v1) :
    Keeps s0 (mctpControl v1 v2 v3 v4) := by
  unfold mctpControl
  repeat' first
    | with_reducible assumption
    | with_reducible apply keeps_emit
    | with_reducible apply keeps_modHost
    | with_reducible apply keeps_getD
    | with_reducible apply h1
    | with_reducible rfl
    | with_reducible apply ChKeeps.of
    | with_reducible apply IslKeeps.of
    | (intro x; first | (refine (fun (hx : Keeps s0 x) => ?_) ?_; on_goal 2 => subst x) | skip)
    | lift_lets
    | split

theorem keeps_execStageWrite {v1 v2 v3} (h3 : Keeps s0 v3) :
    KX s0 (execStageWrite v1 v2 v3) := by
  unfold execStageWrite
  repeat' first
    | with_reducible assumption
    | with_reducible apply keeps_mbEnter
    | with_reducible apply keeps_runStageWrite
    | with_reducible refine KX.next ?_
    | with_reducible apply h3
    | with_reducible rfl
    | with_reducible apply ChKeeps.of
    | with_reducible apply IslKeeps.of
    | (intro x; first | (refine (fun (hx : Keeps s0 x) => ?_) ?_; on_goal 2 => subst x) | skip)
    | lift_lets
    | split

theorem keeps_execSelfTestQuery {v1 v2 v3} (h3 : Keeps s0 v3) :
    KX s0 (execSelfTestQuery v1 v2 v3) := by
  unfold execSelfTestQuery
  repeat' first
    | with_reducible assumption
    | with_reducible apply keeps_mbEnter
    | with_reducible apply keeps_runSelfTestQuery
    | with_reducible refine KX.next ?_
    | with_reducible apply h3
    | with_reducible rfl
    | with_reducible apply ChKeeps.of
    | with_reducible apply IslKeeps.of
    | (intro x; first | (refine (fun (hx : Keeps s0 x) => ?_) ?_; on_goal 2 => subst x) | skip)
    | lift_lets
    | split

theorem keeps_execMctpMessage {v1 v2 v3} (h3 : Keeps s0 v3) :
    KX s0 (execMctpMessage v1 v2 v3) := by
  unfold execMctpMessage
  repeat' first
    | with_reducible assumption
    | with_reducible apply keeps_mctpControl
    | with_reducible apply keeps_mbEnter
    | with_reducible apply keeps_runMessage
    | with_reducible apply keeps_emit
    | with_reducible refine KX.next ?_
    | with_reducible apply h3
    | with_reducible rfl
    | with_reducible apply ChKeeps.of
    | with_reducible apply IslKeeps.of
    | (intro x; first | (refine (fun (hx : Keeps s0 x) => ?_) ?_; on_goal 2 => subst x) | skip)
    | lift_lets
    | split

theorem keeps_execStageRead {v1 v2 v3} (h3 : Keeps s0 v3) :
    KX s0 (execStageRead v1 v2 v3) := by
  unfold execStageRead
  repeat' first
    | with_reducible assumption
    | with_reducible apply keeps_mbEnter
    | with_reducible apply keeps_runStageRead
    | with_reducible refine KX.next ?_
    | with_reducible apply h3
    | with_reducible rfl
    | with_reducible apply ChKeeps.of
    | with_reducible apply IslKeeps.of
    | (intro x; first | (refine (fun (hx : Keeps s0 x) => ?_) ?_; on_goal 2 => subst x) | skip)
    | lift_lets
    | split

theorem keeps_execHealthPollTimeout {v1 v2} (h2 : Keeps s0 v2) :
    KX s0 (execHealthPollTimeout v1 v2) := by
  unfold execHealthPollTimeout
  repeat' first
    | with_reducible assumption
    | with_reducible apply keeps_mbDispatch
    | with_reducible apply keeps_pollTimeout
    | with_reducible refine KX.next ?_
    | with_reducible apply h2
    | with_reducible rfl
    | with_reducible apply ChKeeps.of
    | with_reducible apply IslKeeps.of
    | (intro x; first | (refine (fun (hx : Keeps s0 x) => ?_) ?_; on_goal 2 => subst x) | skip)
    | lift_lets
    | split

theorem keeps_execChannelReset {v1 v2 v3 v4} (h4 : Keeps s0 v4) :
    KX s0 (execChannelReset v1 v2 v3 v4) := by
  unfold execChannelReset
  repeat' first
    | with_reducible assumption
    | with_reducible apply keeps_mbEnter
    | with_reducible apply keeps_runChannelReset
    | with_reducible refine KX.next ?_
    | with_reducible apply h4
    | with_reducible rfl
    | with_reducible apply ChKeeps.of
    | with_reducible apply IslKeeps.of
    | (intro x; first | (refine (fun (hx : Keeps s0 x) => ?_) ?_; on_goal 2 => subst x) | skip)
    | lift_lets
    | split

theorem keeps_execGetHealth {v1 v2 v3 v4} (h4 : Keeps s0 v4) :
    KX s0 (execGetHealth v1 v2 v3 v4) := by
  unfold execGetHealth
  repeat' first
    | with_reducible assumption
    | with_reducible apply keeps_mbEnter
    | with_reducible apply keeps_runGetHealth
    | with_reducible refine KX.next ?_
    | with_reducible apply h4
    | with_reducible rfl
    | with_reducible apply ChKeeps.of
    | with_reducible apply IslKeeps.of
    | (intro x; first | (refine (fun (hx : Keeps s0 x) => ?_) ?_; on_goal 2 => subst x) | skip)
    | lift_lets
    | split

theorem keeps_execCommitCheck {v1 v2 v3} (h3 : Keeps s0 v3) :
    KX s0 (execCommitCheck v1 v2 v3) := by
  unfold execCommitCheck
  repeat' first
    | with_reducible assumption
    | with_reducible apply keeps_mbEnter
    | with_reducible apply keeps_runCommitCheck
    | with_reducible refine KX.next ?_
    | with_reducible apply h3
    | with_reducible rfl
    | with_reducible apply ChKeeps.of
    | with_reducible apply IslKeeps.of
    | (intro x; first | (refine (fun (hx : Keeps s0 x) => ?_) ?_; on_goal 2 => subst x) | skip)
    | lift_lets
    | split

theorem keeps_execEventRead {v1 v2 v3} (h3 : Keeps s0 v3) :
    KX s0 (execEventRead v1 v2 v3) := by
  unfold execEventRead
  repeat' first
    | with_reducible assumption
    | with_reducible apply keeps_mbEnter
    | with_reducible apply keeps_runEventRead
    | with_reducible refine KX.next ?_
    | with_reducible apply h3
    | with_reducible rfl
    | with_reducible apply ChKeeps.of
    | with_reducible apply IslKeeps.of
    | (intro x; first | (refine (fun (hx : Keeps s0 x) => ?_) ?_; on_goal 2 => subst x) | skip)
    | lift_lets
    | split

theorem keeps_execFirmwareWatchdogExpiry {v1} (h1 : Keeps s0 v1) :
    KX s0 (execFirmwareWatchdogExpiry v1) := by
  unfold execFirmwareWatchdogExpiry
  repeat' first
    | with_reducible assumption
    | with_reducible apply keeps_mbDispatch
    | with_reducible apply keeps_dropCommit
    | with_reducible apply keeps_enterRecovery
    | with_reducible refine KX.next ?_
    | with_reducible apply h1
    | with_reducible rfl
    | with_reducible apply ChKeeps.of
    | with_reducible apply IslKeeps.of
    | (intro x; first | (refine (fun (hx : Keeps s0 x) => ?_) ?_; on_goal 2 => subst x) | skip)
    | lift_lets
    | split

end Sys2Proof.Laws
end

