-- ==== Sys2Proof/Laws/KeepsSieveCmds.lean ====
section
/-! SUPPORT. `Keeps` of the definitions of Sys2Proof/Machine/SieveCmds.lean. -/

namespace Sys2Proof.Laws
open Sys2Proof Sys2Proof.Machine

variable {s0 : State}

theorem keeps_dropIndex {v1 v2 v3 v4} (h1 : Keeps s0 v1) :
    Keeps s0 (dropIndex v1 v2 v3 v4).2 := by
  unfold dropIndex
  repeat' first
    | with_reducible assumption
    | with_reducible apply keeps_modSieve
    | with_reducible apply h1
    | with_reducible rfl
    | with_reducible apply ChKeeps.of
    | with_reducible apply IslKeeps.of
    | (intro x; first | (refine (fun (hx : Keeps s0 x) => ?_) ?_; on_goal 2 => subst x) | skip)
    | lift_lets
    | split

theorem keeps_execSieveBlockRemoval {v1 v2} (h2 : Keeps s0 v2) :
    KX s0 (execSieveBlockRemoval v1 v2) := by
  unfold execSieveBlockRemoval
  repeat' first
    | with_reducible assumption
    | with_reducible apply keeps_removeBlock
    | with_reducible apply keeps_modRefPort
    | with_reducible refine KX.next ?_
    | with_reducible apply h2
    | with_reducible rfl
    | with_reducible apply ChKeeps.of
    | with_reducible apply IslKeeps.of
    | (intro x; first | (refine (fun (hx : Keeps s0 x) => ?_) ?_; on_goal 2 => subst x) | skip)
    | lift_lets
    | split

theorem keeps_execSieveHash {v1 v2 v3} (h3 : Keeps s0 v3) :
    KX s0 (execSieveHash v1 v2 v3) := by
  unfold execSieveHash
  repeat' first
    | with_reducible assumption
    | with_reducible apply keeps_runHead
    | with_reducible apply keeps_retireSt
    | with_reducible apply keeps_t0Write
    | with_reducible refine KX.next ?_
    | with_reducible apply h3
    | with_reducible rfl
    | with_reducible apply ChKeeps.of
    | with_reducible apply IslKeeps.of
    | (intro x; first | (refine (fun (hx : Keeps s0 x) => ?_) ?_; on_goal 2 => subst x) | skip)
    | lift_lets
    | split

theorem keeps_probeEnd {v1 v2 v3 v4 v5 v6 v7} (h1 : Keeps s0 v1) :
    Keeps s0 (probeEnd v1 v2 v3 v4 v5 v6 v7) := by
  unfold probeEnd
  repeat' first
    | with_reducible assumption
    | with_reducible apply keeps_retire
    | with_reducible apply keeps_t0Write
    | with_reducible apply h1
    | with_reducible rfl
    | with_reducible apply ChKeeps.of
    | with_reducible apply IslKeeps.of
    | (intro x; first | (refine (fun (hx : Keeps s0 x) => ?_) ?_; on_goal 2 => subst x) | skip)
    | lift_lets
    | split

theorem keeps_probeSearched {v1 v2 v3 v4 v5} (h1 : Keeps s0 v1) :
    Keeps s0 (probeSearched v1 v2 v3 v4 v5) := by
  unfold probeSearched
  repeat' first
    | with_reducible assumption
    | with_reducible apply keeps_probeEnd
    | with_reducible apply keeps_emit
    | with_reducible apply keeps_setWait
    | with_reducible apply h1
    | with_reducible rfl
    | with_reducible apply ChKeeps.of
    | with_reducible apply IslKeeps.of
    | (intro x; first | (refine (fun (hx : Keeps s0 x) => ?_) ?_; on_goal 2 => subst x) | skip)
    | lift_lets
    | split

theorem keeps_removeRun {v1 v2 v3 v4} (h1 : Keeps s0 v1) :
    Keeps s0 (removeRun v1 v2 v3 v4) := by
  unfold removeRun
  repeat' first
    | with_reducible assumption
    | with_reducible apply keeps_modSieve
    | with_reducible apply keeps_retire
    | with_reducible apply keeps_setWait
    | with_reducible apply keeps_reportAll
    | with_reducible apply h1
    | with_reducible rfl
    | with_reducible apply ChKeeps.of
    | with_reducible apply IslKeeps.of
    | (intro x; first | (refine (fun (hx : Keeps s0 x) => ?_) ?_; on_goal 2 => subst x) | skip)
    | lift_lets
    | split

theorem keeps_insertPlaced {v1 v2 v3 v4} (h1 : Keeps s0 v1) :
    Keeps s0 (insertPlaced v1 v2 v3 v4) := by
  unfold insertPlaced
  repeat' first
    | with_reducible assumption
    | with_reducible apply keeps_setWait
    | with_reducible apply keeps_reportRow
    | with_reducible apply h1
    | with_reducible rfl
    | with_reducible apply ChKeeps.of
    | with_reducible apply IslKeeps.of
    | (intro x; first | (refine (fun (hx : Keeps s0 x) => ?_) ?_; on_goal 2 => subst x) | skip)
    | lift_lets
    | split

theorem keeps_insertPlan {v1 v2 v3 v4} (h1 : Keeps s0 v1) :
    Keeps s0 (insertPlan v1 v2 v3 v4) := by
  unfold insertPlan
  repeat' first
    | with_reducible assumption
    | with_reducible apply keeps_spareHoles
    | with_reducible apply keeps_retireSt
    | with_reducible apply keeps_sendPair
    | with_reducible apply keeps_insertPlaced
    | with_reducible apply h1
    | with_reducible rfl
    | with_reducible apply ChKeeps.of
    | with_reducible apply IslKeeps.of
    | (intro x; first | (refine (fun (hx : Keeps s0 x) => ?_) ?_; on_goal 2 => subst x) | skip)
    | lift_lets
    | split

theorem keeps_pairDone {v1 v2 v3 v4 v5} (h1 : ∀ x0 x1, Keeps s0 x0 → Keeps s0 (v1 x0 x1)) (h2 : Keeps s0 v2) :
    Keeps s0 (pairDone v1 v2 v3 v4 v5) := by
  unfold pairDone
  repeat' first
    | with_reducible assumption
    | with_reducible apply keeps_probeSearched
    | with_reducible apply keeps_retireSt
    | with_reducible apply keeps_retire
    | with_reducible apply keeps_removeRun
    | with_reducible apply keeps_modSieve
    | with_reducible apply keeps_insertPlan
    | with_reducible apply keeps_setWait
    | with_reducible apply h1
    | with_reducible apply h2
    | with_reducible rfl
    | with_reducible apply ChKeeps.of
    | with_reducible apply IslKeeps.of
    | (intro x; first | (refine (fun (hx : Keeps s0 x) => ?_) ?_; on_goal 2 => subst x) | skip)
    | lift_lets
    | split

theorem keeps_leaderGo {v1 v2 v3 v4} (h3 : Keeps s0 v3) :
    Keeps s0 (leaderGo v1 v2 v3 v4) := by
  induction v1 generalizing v3 v4 with
  | zero => exact h3
  | succ n ih =>
    rw [leaderGo]
    split
    · exact keeps_setWait (keeps_sendPair h3)
    · exact keeps_pairDone (fun _ _ h => ih h) (keeps_sendPair h3)

theorem keeps_candLeader {v1 v2 v3 v4} (h1 : Keeps s0 v1) :
    Keeps s0 (candLeader v1 v2 v3 v4) := by
  unfold candLeader
  repeat' first
    | with_reducible assumption
    | with_reducible apply keeps_leaderGo
    | with_reducible apply keeps_pairDone
    | with_reducible apply h1
    | with_reducible rfl
    | with_reducible apply ChKeeps.of
    | with_reducible apply IslKeeps.of
    | (intro x; first | (refine (fun (hx : Keeps s0 x) => ?_) ?_; on_goal 2 => subst x) | skip)
    | lift_lets
    | split

theorem keeps_pairEnds {v1 v2} (h1 : Keeps s0 v1) :
    Keeps s0 (pairEnds v1 v2) := by
  unfold pairEnds
  repeat' first
    | with_reducible assumption
    | with_reducible apply keeps_retireSt
    | with_reducible apply keeps_setWait
    | with_reducible apply h1
    | with_reducible rfl
    | with_reducible apply ChKeeps.of
    | with_reducible apply IslKeeps.of
    | (intro x; first | (refine (fun (hx : Keeps s0 x) => ?_) ?_; on_goal 2 => subst x) | skip)
    | lift_lets
    | split

theorem keeps_onPair {v1 v2 v3 v4 v5} (h1 : Keeps s0 v1) (h5 : ∀ x0 x1, Keeps s0 x0 → Keeps s0 (v5 x0 x1)) :
    Keeps s0 (onPair v1 v2 v3 v4 v5) := by
  unfold onPair
  repeat' first
    | with_reducible assumption
    | with_reducible apply keeps_underOwn
    | with_reducible apply keeps_pairEnds
    | with_reducible apply h1
    | with_reducible apply h5
    | with_reducible rfl
    | with_reducible apply ChKeeps.of
    | with_reducible apply IslKeeps.of
    | (intro x; first | (refine (fun (hx : Keeps s0 x) => ?_) ?_; on_goal 2 => subst x) | skip)
    | lift_lets
    | split

theorem keeps_execMark {v1 v2 v3} (h3 : Keeps s0 v3) :
    KX s0 (execMark v1 v2 v3) := by
  unfold execMark
  repeat' first
    | with_reducible assumption
    | with_reducible apply keeps_onPair
    | with_reducible apply keeps_retire
    | with_reducible apply keeps_setWait
    | with_reducible apply keeps_modSieve
    | with_reducible refine KX.next ?_
    | with_reducible apply h3
    | with_reducible rfl
    | with_reducible apply ChKeeps.of
    | with_reducible apply IslKeeps.of
    | (intro x; first | (refine (fun (hx : Keeps s0 x) => ?_) ?_; on_goal 2 => subst x) | skip)
    | lift_lets
    | split

theorem keeps_execSieveRowSpareIn {v1 v2 v3} (h3 : Keeps s0 v3) :
    KX s0 (execSieveRowSpareIn v1 v2 v3) := by
  unfold execSieveRowSpareIn
  repeat' first
    | with_reducible assumption
    | with_reducible apply keeps_spareIn
    | with_reducible refine KX.next ?_
    | with_reducible apply h3
    | with_reducible rfl
    | with_reducible apply ChKeeps.of
    | with_reducible apply IslKeeps.of
    | (intro x; first | (refine (fun (hx : Keeps s0 x) => ?_) ?_; on_goal 2 => subst x) | skip)
    | lift_lets
    | split

theorem keeps_pairGo {v1 v2 v3} (h2 : Keeps s0 v2) :
    Keeps s0 (pairGo v1 v2 v3) := by
  unfold pairGo
  repeat' first
    | with_reducible assumption
    | with_reducible apply keeps_leaderGo
    | with_reducible apply keeps_setWait
    | with_reducible apply h2
    | with_reducible rfl
    | with_reducible apply ChKeeps.of
    | with_reducible apply IslKeeps.of
    | (intro x; first | (refine (fun (hx : Keeps s0 x) => ?_) ?_; on_goal 2 => subst x) | skip)
    | lift_lets
    | split

theorem keeps_execSieveSetFlags {v1 v2 v3} (h3 : Keeps s0 v3) :
    KX s0 (execSieveSetFlags v1 v2 v3) := by
  unfold execSieveSetFlags
  repeat' first
    | with_reducible assumption
    | with_reducible apply keeps_runHead
    | with_reducible apply keeps_retireSt
    | with_reducible apply keeps_modSieve
    | with_reducible apply keeps_sendPair
    | with_reducible apply keeps_retire
    | with_reducible apply keeps_setWait
    | with_reducible apply keeps_pairGo
    | with_reducible apply keeps_foldl
    | with_reducible refine KX.next ?_
    | with_reducible apply h3
    | with_reducible rfl
    | with_reducible apply ChKeeps.of
    | with_reducible apply IslKeeps.of
    | (intro x; first | (refine (fun (hx : Keeps s0 x) => ?_) ?_; on_goal 2 => subst x) | skip)
    | lift_lets
    | split

theorem keeps_execPlaceFrame {v1 v2 v3} (h3 : Keeps s0 v3) :
    KX s0 (execPlaceFrame v1 v2 v3) := by
  unfold execPlaceFrame
  repeat' first
    | with_reducible assumption
    | with_reducible apply keeps_onPair
    | with_reducible apply keeps_retireSt
    | with_reducible apply keeps_insertPlaced
    | with_reducible refine KX.next ?_
    | with_reducible apply h3
    | with_reducible rfl
    | with_reducible apply ChKeeps.of
    | with_reducible apply IslKeeps.of
    | (intro x; first | (refine (fun (hx : Keeps s0 x) => ?_) ?_; on_goal 2 => subst x) | skip)
    | lift_lets
    | split

theorem keeps_execSieveRemove {v1 v2 v3} (h3 : Keeps s0 v3) :
    KX s0 (execSieveRemove v1 v2 v3) := by
  unfold execSieveRemove
  repeat' first
    | with_reducible assumption
    | with_reducible apply keeps_runHead
    | with_reducible apply keeps_retireSt
    | with_reducible apply keeps_sendDrops
    | with_reducible apply keeps_removeRun
    | with_reducible apply keeps_setWait
    | with_reducible apply keeps_pairGo
    | with_reducible refine KX.next ?_
    | with_reducible apply h3
    | with_reducible rfl
    | with_reducible apply ChKeeps.of
    | with_reducible apply IslKeeps.of
    | (intro x; first | (refine (fun (hx : Keeps s0 x) => ?_) ?_; on_goal 2 => subst x) | skip)
    | lift_lets
    | split

theorem keeps_execShiftRowCopy {v1 v2} (h2 : Keeps s0 v2) :
    KX s0 (execShiftRowCopy v1 v2) := by
  unfold execShiftRowCopy
  repeat' first
    | with_reducible assumption
    | with_reducible apply keeps_modSieve
    | with_reducible refine KX.next ?_
    | with_reducible apply h2
    | with_reducible rfl
    | with_reducible apply ChKeeps.of
    | with_reducible apply IslKeeps.of
    | (intro x; first | (refine (fun (hx : Keeps s0 x) => ?_) ?_; on_goal 2 => subst x) | skip)
    | lift_lets
    | split

theorem keeps_execSieveRead {v1 v2 v3} (h3 : Keeps s0 v3) :
    KX s0 (execSieveRead v1 v2 v3) := by
  unfold execSieveRead
  repeat' first
    | with_reducible assumption
    | with_reducible apply keeps_runHead
    | with_reducible apply keeps_retireSt
    | with_reducible apply keeps_t0Write
    | with_reducible refine KX.next ?_
    | with_reducible apply h3
    | with_reducible rfl
    | with_reducible apply ChKeeps.of
    | with_reducible apply IslKeeps.of
    | (intro x; first | (refine (fun (hx : Keeps s0 x) => ?_) ?_; on_goal 2 => subst x) | skip)
    | lift_lets
    | split

theorem keeps_execLateCascadeFrame {v1 v2 v3} (h3 : Keeps s0 v3) :
    KX s0 (execLateCascadeFrame v1 v2 v3) := by
  unfold execLateCascadeFrame
  repeat' first
    | with_reducible assumption
    | with_reducible refine KX.next ?_
    | with_reducible apply h3
    | with_reducible rfl
    | with_reducible apply ChKeeps.of
    | with_reducible apply IslKeeps.of
    | (intro x; first | (refine (fun (hx : Keeps s0 x) => ?_) ?_; on_goal 2 => subst x) | skip)
    | lift_lets
    | split

theorem keeps_execSieveInsertResume {v1 v2} (h2 : Keeps s0 v2) :
    KX s0 (execSieveInsertResume v1 v2) := by
  unfold execSieveInsertResume
  repeat' first
    | with_reducible assumption
    | with_reducible apply keeps_setWait
    | with_reducible refine KX.next ?_
    | with_reducible apply h2
    | with_reducible rfl
    | with_reducible apply ChKeeps.of
    | with_reducible apply IslKeeps.of
    | (intro x; first | (refine (fun (hx : Keeps s0 x) => ?_) ?_; on_goal 2 => subst x) | skip)
    | lift_lets
    | split

theorem keeps_candFollower {v1 v2 v3 v4} (h1 : Keeps s0 v1) :
    Keeps s0 (candFollower v1 v2 v3 v4) := by
  unfold candFollower
  repeat' first
    | with_reducible assumption
    | with_reducible apply keeps_pairGo
    | with_reducible apply keeps_pairDone
    | with_reducible apply keeps_sendPair
    | with_reducible apply keeps_setWait
    | with_reducible apply h1
    | with_reducible rfl
    | with_reducible apply ChKeeps.of
    | with_reducible apply IslKeeps.of
    | (intro x; first | (refine (fun (hx : Keeps s0 x) => ?_) ?_; on_goal 2 => subst x) | skip)
    | lift_lets
    | split

theorem keeps_cascadeError {v1 v2 v3 v4 v5 v6 v7} (h1 : Keeps s0 v1) :
    Keeps s0 (cascadeError v1 v2 v3 v4 v5 v6 v7) := by
  unfold cascadeError
  repeat' first
    | with_reducible assumption
    | with_reducible apply keeps_emit
    | with_reducible apply keeps_raiseC
    | with_reducible apply keeps_drawFree
    | with_reducible apply keeps_probeEnd
    | with_reducible refine of_snd (by assumption) ?_
    | with_reducible apply h1
    | with_reducible rfl
    | with_reducible apply ChKeeps.of
    | with_reducible apply IslKeeps.of
    | (intro x; first | (refine (fun (hx : Keeps s0 x) => ?_) ?_; on_goal 2 => subst x) | skip)
    | lift_lets
    | split

theorem keeps_execCascadeTimeout {v1 v2} (h2 : Keeps s0 v2) :
    KX s0 (execCascadeTimeout v1 v2) := by
  unfold execCascadeTimeout
  repeat' first
    | with_reducible assumption
    | with_reducible apply keeps_underOwn
    | with_reducible apply keeps_drawFree
    | with_reducible apply keeps_cascadeError
    | with_reducible refine KX.next ?_
    | with_reducible refine of_snd (by assumption) ?_
    | with_reducible apply h2
    | with_reducible rfl
    | with_reducible apply ChKeeps.of
    | with_reducible apply IslKeeps.of
    | (intro x; first | (refine (fun (hx : Keeps s0 x) => ?_) ?_; on_goal 2 => subst x) | skip)
    | lift_lets
    | split

theorem keeps_execCascadeFrame {v1 v2 v3} (h3 : Keeps s0 v3) :
    KX s0 (execCascadeFrame v1 v2 v3) := by
  unfold execCascadeFrame
  repeat' first
    | with_reducible assumption
    | with_reducible apply keeps_underOwn
    | with_reducible apply keeps_cascadeError
    | with_reducible apply keeps_probeEnd
    | with_reducible apply keeps_emit
    | with_reducible refine KX.next ?_
    | with_reducible apply h3
    | with_reducible rfl
    | with_reducible apply ChKeeps.of
    | with_reducible apply IslKeeps.of
    | (intro x; first | (refine (fun (hx : Keeps s0 x) => ?_) ?_; on_goal 2 => subst x) | skip)
    | lift_lets
    | split

theorem keeps_execShiftLanding {v1 v2} (h2 : Keeps s0 v2) :
    KX s0 (execShiftLanding v1 v2) := by
  unfold execShiftLanding
  repeat' first
    | with_reducible assumption
    | with_reducible apply keeps_modSieve
    | with_reducible refine KX.next ?_
    | with_reducible apply h2
    | with_reducible rfl
    | with_reducible apply ChKeeps.of
    | with_reducible apply IslKeeps.of
    | (intro x; first | (refine (fun (hx : Keeps s0 x) => ?_) ?_; on_goal 2 => subst x) | skip)
    | lift_lets
    | split

theorem keeps_execSieveInsert {v1 v2 v3} (h3 : Keeps s0 v3) :
    KX s0 (execSieveInsert v1 v2 v3) := by
  unfold execSieveInsert
  repeat' first
    | with_reducible assumption
    | with_reducible apply keeps_runHead
    | with_reducible apply keeps_retireSt
    | with_reducible apply keeps_setWait
    | with_reducible apply keeps_retire
    | with_reducible apply keeps_insertPlan
    | with_reducible apply keeps_pairGo
    | with_reducible refine KX.next ?_
    | with_reducible apply h3
    | with_reducible rfl
    | with_reducible apply ChKeeps.of
    | with_reducible apply IslKeeps.of
    | (intro x; first | (refine (fun (hx : Keeps s0 x) => ?_) ?_; on_goal 2 => subst x) | skip)
    | lift_lets
    | split

theorem keeps_execSieveProbe {v1 v2 v3} (h3 : Keeps s0 v3) :
    KX s0 (execSieveProbe v1 v2 v3) := by
  unfold execSieveProbe
  repeat' first
    | with_reducible assumption
    | with_reducible apply keeps_runHead
    | with_reducible apply keeps_retireSt
    | with_reducible apply keeps_probeSearched
    | with_reducible apply keeps_pairGo
    | with_reducible refine KX.next ?_
    | with_reducible apply h3
    | with_reducible rfl
    | with_reducible apply ChKeeps.of
    | with_reducible apply IslKeeps.of
    | (intro x; first | (refine (fun (hx : Keeps s0 x) => ?_) ?_; on_goal 2 => subst x) | skip)
    | lift_lets
    | split

theorem keeps_execDropFrame {v1 v2 v3} (h3 : Keeps s0 v3) :
    KX s0 (execDropFrame v1 v2 v3) := by
  unfold execDropFrame
  repeat' first
    | with_reducible assumption
    | with_reducible apply keeps_onPair
    | with_reducible apply keeps_retire
    | with_reducible apply keeps_setWait
    | with_reducible apply keeps_reportAll
    | with_reducible apply keeps_dropIndex
    | with_reducible refine KX.next ?_
    | with_reducible refine of_snd (by assumption) ?_
    | with_reducible apply h3
    | with_reducible rfl
    | with_reducible apply ChKeeps.of
    | with_reducible apply IslKeeps.of
    | (intro x; first | (refine (fun (hx : Keeps s0 x) => ?_) ?_; on_goal 2 => subst x) | skip)
    | lift_lets
    | split

theorem keeps_execCand {v1 v2 v3} (h3 : Keeps s0 v3) :
    KX s0 (execCand v1 v2 v3) := by
  unfold execCand
  repeat' first
    | with_reducible assumption
    | with_reducible apply keeps_onPair
    | with_reducible apply keeps_candLeader
    | with_reducible apply keeps_candFollower
    | with_reducible refine KX.next ?_
    | with_reducible apply h3
    | with_reducible rfl
    | with_reducible apply ChKeeps.of
    | with_reducible apply IslKeeps.of
    | (intro x; first | (refine (fun (hx : Keeps s0 x) => ?_) ?_; on_goal 2 => subst x) | skip)
    | lift_lets
    | split

end Sys2Proof.Laws
end

