-- ==== Sys2Proof/Laws/KeepsScrubCmds.lean ====
section
/-! SUPPORT. `Keeps` of the definitions of Sys2Proof/Machine/ScrubCmds.lean. -/

namespace Sys2Proof.Laws
open Sys2Proof Sys2Proof.Machine

variable {s0 : State}

theorem keeps_rowFailsUp {v1 v2 v3} (h1 : Keeps s0 v1) :
    Keeps s0 (rowFailsUp v1 v2 v3) := by
  unfold rowFailsUp
  repeat' first
    | with_reducible assumption
    | with_reducible apply keeps_rowFails
    | with_reducible apply keeps_isolateCh
    | with_reducible apply keeps_setChState
    | with_reducible apply h1
    | with_reducible rfl
    | with_reducible apply ChKeeps.of
    | with_reducible apply IslKeeps.of
    | (intro x; first | (refine (fun (hx : Keeps s0 x) => ?_) ?_; on_goal 2 => subst x) | skip)
    | lift_lets
    | split

theorem keeps_scrubFix {v1 v2 v3} (h1 : Keeps s0 v1) :
    Keeps s0 (scrubFix v1 v2 v3) := by
  unfold scrubFix
  repeat' first
    | with_reducible assumption
    | with_reducible apply keeps_modSieve
    | with_reducible apply keeps_rowFailsUp
    | with_reducible apply h1
    | with_reducible rfl
    | with_reducible apply ChKeeps.of
    | with_reducible apply IslKeeps.of
    | (intro x; first | (refine (fun (hx : Keeps s0 x) => ?_) ?_; on_goal 2 => subst x) | skip)
    | lift_lets
    | split

theorem keeps_scrubLose {v1 v2 v3 v4} (h1 : Keeps s0 v1) :
    Keeps s0 (scrubLose v1 v2 v3 v4) := by
  unfold scrubLose
  repeat' first
    | with_reducible assumption
    | with_reducible apply keeps_modSieve
    | with_reducible apply keeps_sendDrops
    | with_reducible apply keeps_raiseC
    | with_reducible apply keeps_reportRow
    | with_reducible apply keeps_drawFree
    | with_reducible refine of_snd (by assumption) ?_
    | with_reducible apply h1
    | with_reducible rfl
    | with_reducible apply ChKeeps.of
    | with_reducible apply IslKeeps.of
    | (intro x; first | (refine (fun (hx : Keeps s0 x) => ?_) ?_; on_goal 2 => subst x) | skip)
    | lift_lets
    | split

theorem keeps_scrubRow {v1 v2 v3 v4 v5} (h1 : Keeps s0 v1) :
    Keeps s0 (scrubRow v1 v2 v3 v4 v5) := by
  unfold scrubRow
  repeat' first
    | with_reducible assumption
    | with_reducible apply keeps_scrubLose
    | with_reducible apply keeps_scrubFix
    | with_reducible apply h1
    | with_reducible rfl
    | with_reducible apply ChKeeps.of
    | with_reducible apply IslKeeps.of
    | (intro x; first | (refine (fun (hx : Keeps s0 x) => ?_) ?_; on_goal 2 => subst x) | skip)
    | lift_lets
    | split

theorem keeps_execScrubVisit {v1 v2 v3 v4} (h4 : Keeps s0 v4) :
    KX s0 (execScrubVisit v1 v2 v3 v4) := by
  unfold execScrubVisit
  repeat' first
    | with_reducible assumption
    | with_reducible apply keeps_modSieve
    | with_reducible apply keeps_scrubRow
    | with_reducible refine KX.next ?_
    | with_reducible apply h4
    | with_reducible rfl
    | with_reducible apply ChKeeps.of
    | with_reducible apply IslKeeps.of
    | (intro x; first | (refine (fun (hx : Keeps s0 x) => ?_) ?_; on_goal 2 => subst x) | skip)
    | lift_lets
    | split

end Sys2Proof.Laws
end

