-- ==== Sys2Proof/Laws/KeepsSupplyCmds.lean ====
section
/-! SUPPORT. `Keeps` of the definitions of Sys2Proof/Machine/SupplyCmds.lean. -/

namespace Sys2Proof.Laws
open Sys2Proof Sys2Proof.Machine

variable {s0 : State}

theorem keeps_joinTemps {v1 v2 v3 v4} (h1 : Keeps s0 v1) :
    Keeps s0 (joinTemps v1 v2 v3 v4) := by
  unfold joinTemps
  repeat' first
    | with_reducible assumption
    | with_reducible apply keeps_modHealth
    | with_reducible apply keeps_modDev
    | with_reducible apply keeps_modTest
    | with_reducible apply h1
    | with_reducible rfl
    | with_reducible apply ChKeeps.of
    | with_reducible apply IslKeeps.of
    | (intro x; first | (refine (fun (hx : Keeps s0 x) => ?_) ?_; on_goal 2 => subst x) | skip)
    | lift_lets
    | split

theorem keeps_startFlush {v1} (h1 : Keeps s0 v1) :
    Keeps s0 (startFlush v1) := by
  unfold startFlush
  repeat' first
    | with_reducible assumption
    | with_reducible apply keeps_forCh
    | with_reducible apply keeps_modMarl
    | with_reducible apply keeps_padOpens
    | with_reducible apply h1
    | with_reducible rfl
    | with_reducible apply ChKeeps.of
    | with_reducible apply IslKeeps.of
    | (intro x; first | (refine (fun (hx : Keeps s0 x) => ?_) ?_; on_goal 2 => subst x) | skip)
    | lift_lets
    | split

theorem keeps_tripFinish {v1} (h1 : Keeps s0 v1) :
    Keeps s0 (tripFinish v1) := by
  unfold tripFinish
  repeat' first
    | with_reducible assumption
    | with_reducible apply keeps_forCh
    | with_reducible apply keeps_isolateCh
    | with_reducible apply keeps_modMarl
    | with_reducible apply keeps_modSupply
    | with_reducible apply h1
    | with_reducible rfl
    | with_reducible apply ChKeeps.of
    | with_reducible apply IslKeeps.of
    | (intro x; first | (refine (fun (hx : Keeps s0 x) => ?_) ?_; on_goal 2 => subst x) | skip)
    | lift_lets
    | split

theorem keeps_tripCheck {v1} (h1 : Keeps s0 v1) :
    Keeps s0 (tripCheck v1) := by
  unfold tripCheck
  repeat' first
    | with_reducible assumption
    | with_reducible apply keeps_tripFinish
    | with_reducible apply h1
    | with_reducible rfl
    | with_reducible apply ChKeeps.of
    | with_reducible apply IslKeeps.of
    | (intro x; first | (refine (fun (hx : Keeps s0 x) => ?_) ?_; on_goal 2 => subst x) | skip)
    | lift_lets
    | split

theorem keeps_execThermalTrip {v1 v2 v3} (h3 : Keeps s0 v3) :
    KX s0 (execThermalTrip v1 v2 v3) := by
  unfold execThermalTrip
  repeat' first
    | with_reducible assumption
    | with_reducible apply keeps_joinTemps
    | with_reducible apply keeps_modCh
    | with_reducible apply keeps_forCh
    | with_reducible apply keeps_modDev
    | with_reducible apply keeps_abortTest
    | with_reducible apply keeps_dropResult
    | with_reducible apply keeps_startFlush
    | with_reducible apply keeps_tripCheck
    | with_reducible apply keeps_modSupply
    | with_reducible refine KX.next ?_
    | with_reducible apply h3
    | with_reducible rfl
    | with_reducible apply ChKeeps.of
    | with_reducible apply IslKeeps.of
    | (intro x; first | (refine (fun (hx : Keeps s0 x) => ?_) ?_; on_goal 2 => subst x) | skip)
    | lift_lets
    | split

theorem keeps_execSelfTestGroupEnd {v1 v2 v3} (h3 : Keeps s0 v3) :
    KX s0 (execSelfTestGroupEnd v1 v2 v3) := by
  unfold execSelfTestGroupEnd
  repeat' first
    | with_reducible assumption
    | with_reducible apply keeps_modTest
    | with_reducible apply keeps_dropLanes
    | with_reducible apply keeps_testEnds
    | with_reducible refine KX.next ?_
    | with_reducible apply h3
    | with_reducible rfl
    | with_reducible apply ChKeeps.of
    | with_reducible apply IslKeeps.of
    | (intro x; first | (refine (fun (hx : Keeps s0 x) => ?_) ?_; on_goal 2 => subst x) | skip)
    | lift_lets
    | split

theorem keeps_destroyAfterReset {v1} (h1 : Keeps s0 v1) :
    Keeps s0 (destroyAfterReset v1) := by
  unfold destroyAfterReset
  repeat' first
    | with_reducible assumption
    | with_reducible apply keeps_destroyFinish
    | with_reducible apply h1
    | with_reducible rfl
    | with_reducible apply ChKeeps.of
    | with_reducible apply IslKeeps.of
    | (intro x; first | (refine (fun (hx : Keeps s0 x) => ?_) ?_; on_goal 2 => subst x) | skip)
    | lift_lets
    | split

theorem keeps_ioSet {v1 v2} (h1 : Keeps s0 v1) :
    Keeps s0 (ioSet v1 v2) := by
  unfold ioSet
  repeat' first
    | with_reducible assumption
    | with_reducible apply keeps_modSupply
    | with_reducible apply keeps_mbDispatch
    | with_reducible apply keeps_purgeDone
    | with_reducible apply keeps_foldl
    | with_reducible apply h1
    | with_reducible rfl
    | with_reducible apply ChKeeps.of
    | with_reducible apply IslKeeps.of
    | (intro x; first | (refine (fun (hx : Keeps s0 x) => ?_) ?_; on_goal 2 => subst x) | skip)
    | lift_lets
    | split

theorem keeps_vcoreSample {v1 v2 v3} (h1 : Keeps s0 v1) :
    Keeps s0 (vcoreSample v1 v2 v3) := by
  unfold vcoreSample
  repeat' first
    | with_reducible assumption
    | with_reducible apply keeps_modDev
    | with_reducible apply keeps_modSupply
    | with_reducible apply h1
    | with_reducible rfl
    | with_reducible apply ChKeeps.of
    | with_reducible apply IslKeeps.of
    | (intro x; first | (refine (fun (hx : Keeps s0 x) => ?_) ?_; on_goal 2 => subst x) | skip)
    | lift_lets
    | split

theorem keeps_supplyThrottle {v1 v2} (h1 : Keeps s0 v1) :
    Keeps s0 (supplyThrottle v1 v2) := by
  unfold supplyThrottle
  repeat' first
    | with_reducible assumption
    | with_reducible apply keeps_forCh
    | with_reducible apply keeps_modCh
    | with_reducible apply h1
    | with_reducible rfl
    | with_reducible apply ChKeeps.of
    | with_reducible apply IslKeeps.of
    | (intro x; first | (refine (fun (hx : Keeps s0 x) => ?_) ?_; on_goal 2 => subst x) | skip)
    | lift_lets
    | split

theorem keeps_warnOn {v1 v2 v3} (h1 : Keeps s0 v1) :
    Keeps s0 (warnOn v1 v2 v3) := by
  unfold warnOn
  repeat' first
    | with_reducible assumption
    | with_reducible apply keeps_modSupply
    | with_reducible apply keeps_vcoreSample
    | with_reducible apply keeps_modDev
    | with_reducible apply keeps_startFlush
    | with_reducible apply keeps_supplyThrottle
    | with_reducible apply keeps_raiseD
    | with_reducible apply keeps_forCh
    | with_reducible apply keeps_sendFlit
    | with_reducible apply keeps_abortTest
    | with_reducible apply h1
    | with_reducible rfl
    | with_reducible apply ChKeeps.of
    | with_reducible apply IslKeeps.of
    | (intro x; first | (refine (fun (hx : Keeps s0 x) => ?_) ?_; on_goal 2 => subst x) | skip)
    | lift_lets
    | split

theorem keeps_execSupplyWarn {v1 v2 v3} (h3 : Keeps s0 v3) :
    KX s0 (execSupplyWarn v1 v2 v3) := by
  unfold execSupplyWarn
  repeat' first
    | with_reducible assumption
    | with_reducible apply keeps_ioSet
    | with_reducible apply keeps_warnOn
    | with_reducible refine KX.next ?_
    | with_reducible apply h3
    | with_reducible rfl
    | with_reducible apply ChKeeps.of
    | with_reducible apply IslKeeps.of
    | (intro x; first | (refine (fun (hx : Keeps s0 x) => ?_) ?_; on_goal 2 => subst x) | skip)
    | lift_lets
    | split

theorem keeps_execWarnAckTimeout {v1 v2} (h2 : Keeps s0 v2) :
    KX s0 (execWarnAckTimeout v1 v2) := by
  unfold execWarnAckTimeout
  repeat' first
    | with_reducible assumption
    | with_reducible apply keeps_modSupply
    | with_reducible apply keeps_tripCheck
    | with_reducible apply keeps_isolateCh
    | with_reducible apply keeps_modMarl
    | with_reducible refine KX.next ?_
    | with_reducible apply h2
    | with_reducible rfl
    | with_reducible apply ChKeeps.of
    | with_reducible apply IslKeeps.of
    | (intro x; first | (refine (fun (hx : Keeps s0 x) => ?_) ?_; on_goal 2 => subst x) | skip)
    | lift_lets
    | split

theorem keeps_execStackLaneFailure {v1 v2 v3} (h3 : Keeps s0 v3) :
    KX s0 (execStackLaneFailure v1 v2 v3) := by
  unfold execStackLaneFailure
  repeat' first
    | with_reducible assumption
    | with_reducible apply keeps_modCh
    | with_reducible apply keeps_isolateCh
    | with_reducible apply keeps_setChState
    | with_reducible apply keeps_raiseSpare
    | with_reducible apply keeps_modHealth
    | with_reducible refine KX.next ?_
    | with_reducible apply h3
    | with_reducible rfl
    | with_reducible apply ChKeeps.of
    | with_reducible apply IslKeeps.of
    | (intro x; first | (refine (fun (hx : Keeps s0 x) => ?_) ?_; on_goal 2 => subst x) | skip)
    | lift_lets
    | split

theorem keeps_unhold {v1 v2} (h1 : Keeps s0 v1) :
    Keeps s0 (unhold v1 v2) := by
  unfold unhold
  repeat' first
    | with_reducible assumption
    | with_reducible apply keeps_modMarl
    | with_reducible apply keeps_marlTasks
    | with_reducible apply keeps_openJournal
    | with_reducible apply h1
    | with_reducible rfl
    | with_reducible apply ChKeeps.of
    | with_reducible apply IslKeeps.of
    | (intro x; first | (refine (fun (hx : Keeps s0 x) => ?_) ?_; on_goal 2 => subst x) | skip)
    | lift_lets
    | split

theorem keeps_endChTasks {v1} (h1 : Keeps s0 v1) :
    Keeps s0 (endChTasks v1) := by
  unfold endChTasks
  repeat' first
    | with_reducible assumption
    | with_reducible apply keeps_forTasks
    | with_reducible apply keeps_mbDone
    | with_reducible apply h1
    | with_reducible rfl
    | with_reducible apply ChKeeps.of
    | with_reducible apply IslKeeps.of
    | (intro x; first | (refine (fun (hx : Keeps s0 x) => ?_) ?_; on_goal 2 => subst x) | skip)
    | lift_lets
    | split

theorem keeps_flushPage {v1 v2} (h1 : Keeps s0 v1) :
    Keeps s0 (flushPage v1 v2) := by
  unfold flushPage
  repeat' first
    | with_reducible assumption
    | with_reducible apply keeps_pageDurable
    | with_reducible apply h1
    | with_reducible rfl
    | with_reducible apply ChKeeps.of
    | with_reducible apply IslKeeps.of
    | (intro x; first | (refine (fun (hx : Keeps s0 x) => ?_) ?_; on_goal 2 => subst x) | skip)
    | lift_lets
    | split

theorem keeps_execFlushComplete {v1 v2} (h2 : Keeps s0 v2) :
    KX s0 (execFlushComplete v1 v2) := by
  unfold execFlushComplete
  repeat' first
    | with_reducible assumption
    | with_reducible apply keeps_flushPage
    | with_reducible apply keeps_modMarl
    | with_reducible apply keeps_unhold
    | with_reducible apply keeps_tripCheck
    | with_reducible apply keeps_modSupply
    | with_reducible refine KX.next ?_
    | with_reducible apply h2
    | with_reducible rfl
    | with_reducible apply ChKeeps.of
    | with_reducible apply IslKeeps.of
    | (intro x; first | (refine (fun (hx : Keeps s0 x) => ?_) ?_; on_goal 2 => subst x) | skip)
    | lift_lets
    | split

theorem keeps_execThermalTripBound {v1} (h1 : Keeps s0 v1) :
    KX s0 (execThermalTripBound v1) := by
  unfold execThermalTripBound
  repeat' first
    | with_reducible assumption
    | with_reducible apply keeps_tripFinish
    | with_reducible refine KX.next ?_
    | with_reducible apply h1
    | with_reducible rfl
    | with_reducible apply ChKeeps.of
    | with_reducible apply IslKeeps.of
    | (intro x; first | (refine (fun (hx : Keeps s0 x) => ?_) ?_; on_goal 2 => subst x) | skip)
    | lift_lets
    | split

theorem keeps_coldState {v1} (h1 : Keeps s0 v1) :
    Keeps s0 (coldState v1) := by
  refine h1.trans ⟨rfl, le_rfl, rfl, List.prefix_refl _, le_rfl, fun _ c => ?_, fun _ => ?_⟩
  · have e : (coldState v1).ch c = coldCh v1 c := by simp [State.ch, coldState]
    rw [e]; rfl
  · have e : (coldState v1).island.evq = Island.reset.evq := rfl
    rw [EvqOk, e]; decide

theorem keeps_execVaonReset {v1} (h1 : Keeps s0 v1) :
    KX s0 (execVaonReset v1) := by
  unfold execVaonReset
  repeat' first
    | with_reducible assumption
    | with_reducible apply keeps_rebuildRegions
    | with_reducible apply keeps_coldState
    | with_reducible refine KX.next ?_
    | with_reducible apply h1
    | with_reducible rfl
    | with_reducible apply ChKeeps.of
    | with_reducible apply IslKeeps.of
    | (intro x; first | (refine (fun (hx : Keeps s0 x) => ?_) ?_; on_goal 2 => subst x) | skip)
    | lift_lets
    | split

theorem keeps_setpointTo {v1 v2} (h1 : Keeps s0 v1) :
    Keeps s0 (setpointTo v1 v2) := by
  unfold setpointTo
  repeat' first
    | with_reducible assumption
    | with_reducible apply keeps_emit
    | with_reducible apply keeps_modSupply
    | with_reducible apply h1
    | with_reducible rfl
    | with_reducible apply ChKeeps.of
    | with_reducible apply IslKeeps.of
    | (intro x; first | (refine (fun (hx : Keeps s0 x) => ?_) ?_; on_goal 2 => subst x) | skip)
    | lift_lets
    | split

theorem keeps_execChannelStart {v1 v2 v3} (h3 : Keeps s0 v3) :
    KX s0 (execChannelStart v1 v2 v3) := by
  unfold execChannelStart
  repeat' first
    | with_reducible assumption
    | with_reducible apply keeps_startNow
    | with_reducible refine KX.next ?_
    | with_reducible apply h3
    | with_reducible rfl
    | with_reducible apply ChKeeps.of
    | with_reducible apply IslKeeps.of
    | (intro x; first | (refine (fun (hx : Keeps s0 x) => ?_) ?_; on_goal 2 => subst x) | skip)
    | lift_lets
    | split

theorem keeps_execSupplyReset {v1 v2} (h2 : Keeps s0 v2) :
    KX s0 (execSupplyReset v1 v2) := by
  unfold execSupplyReset
  repeat' first
    | with_reducible assumption
    | with_reducible apply keeps_modDev
    | with_reducible apply keeps_modSupply
    | with_reducible apply keeps_abortTest
    | with_reducible apply keeps_dropResult
    | with_reducible apply keeps_forCh
    | with_reducible apply keeps_modCh
    | with_reducible apply keeps_resetCh
    | with_reducible apply keeps_endOps
    | with_reducible apply keeps_mbDispatch
    | with_reducible apply keeps_destroyAfterReset
    | with_reducible apply keeps_endChTasks
    | with_reducible apply keeps_rebuildRegions
    | with_reducible refine KX.next ?_
    | with_reducible apply h2
    | with_reducible rfl
    | with_reducible apply ChKeeps.of
    | with_reducible apply IslKeeps.of
    | (intro x; first | (refine (fun (hx : Keeps s0 x) => ?_) ?_; on_goal 2 => subst x) | skip)
    | lift_lets
    | split

theorem keeps_groupClears {v1 v2} (h1 : Keeps s0 v1) :
    Keeps s0 (groupClears v1 v2) := by
  unfold groupClears
  exact keeps_ite (fun _ => h1) (fun _ => keeps_modCh (fun _ => ChKeeps.clear rfl rfl) h1)

theorem keeps_execRegulatorAlert {v1 v2 v3 v4} (h4 : Keeps s0 v4) :
    KX s0 (execRegulatorAlert v1 v2 v3 v4) := by
  unfold execRegulatorAlert
  repeat' first
    | with_reducible assumption
    | with_reducible apply keeps_emit
    | with_reducible apply keeps_warnOn
    | with_reducible refine KX.next ?_
    | with_reducible apply h4
    | with_reducible rfl
    | with_reducible apply ChKeeps.of
    | with_reducible apply IslKeeps.of
    | (intro x; first | (refine (fun (hx : Keeps s0 x) => ?_) ?_; on_goal 2 => subst x) | skip)
    | lift_lets
    | split

theorem keeps_execThermalSample {v1 v2 v3 v4 v5} (h5 : Keeps s0 v5) :
    KX s0 (execThermalSample v1 v2 v3 v4 v5) := by
  unfold execThermalSample
  repeat' first
    | with_reducible assumption
    | with_reducible apply keeps_joinTemps
    | with_reducible apply keeps_modCh
    | with_reducible apply keeps_modHealth
    | with_reducible apply keeps_modDev
    | with_reducible apply keeps_abortTest
    | with_reducible apply keeps_raiseD
    | with_reducible refine KX.next ?_
    | with_reducible apply h5
    | with_reducible rfl
    | with_reducible apply ChKeeps.of
    | with_reducible apply IslKeeps.of
    | (intro x; first | (refine (fun (hx : Keeps s0 x) => ?_) ?_; on_goal 2 => subst x) | skip)
    | lift_lets
    | split

theorem keeps_execGovernorWindow {v1 v2 v3} (h3 : Keeps s0 v3) :
    KX s0 (execGovernorWindow v1 v2 v3) := by
  unfold execGovernorWindow
  repeat' first
    | with_reducible assumption
    | with_reducible apply keeps_vcoreSample
    | with_reducible apply keeps_modSupply
    | with_reducible apply keeps_modDev
    | with_reducible apply keeps_forCh
    | with_reducible apply keeps_modCh
    | with_reducible apply keeps_setpointTo
    | with_reducible refine KX.next ?_
    | with_reducible apply h3
    | with_reducible rfl
    | with_reducible apply ChKeeps.of
    | with_reducible apply IslKeeps.of
    | (intro x; first | (refine (fun (hx : Keeps s0 x) => ?_) ?_; on_goal 2 => subst x) | skip)
    | lift_lets
    | split

theorem keeps_execFatalFault {v1 v2} (h2 : Keeps s0 v2) :
    KX s0 (execFatalFault v1 v2) := by
  unfold execFatalFault
  repeat' first
    | with_reducible assumption
    | with_reducible apply keeps_isolateCh
    | with_reducible refine KX.next ?_
    | with_reducible apply h2
    | with_reducible rfl
    | with_reducible apply ChKeeps.of
    | with_reducible apply IslKeeps.of
    | (intro x; first | (refine (fun (hx : Keeps s0 x) => ?_) ?_; on_goal 2 => subst x) | skip)
    | lift_lets
    | split

theorem keeps_execSelfTestGroupStart {v1 v2} (h2 : Keeps s0 v2) :
    KX s0 (execSelfTestGroupStart v1 v2) := by
  unfold execSelfTestGroupStart
  repeat' first
    | with_reducible assumption
    | with_reducible apply keeps_groupClears
    | with_reducible apply keeps_modTest
    | with_reducible refine KX.next ?_
    | with_reducible apply h2
    | with_reducible rfl
    | with_reducible apply ChKeeps.of
    | with_reducible apply IslKeeps.of
    | (intro x; first | (refine (fun (hx : Keeps s0 x) => ?_) ?_; on_goal 2 => subst x) | skip)
    | lift_lets
    | split

theorem keeps_execSupplyOk {v1 v2 v3} (h3 : Keeps s0 v3) :
    KX s0 (execSupplyOk v1 v2 v3) := by
  unfold execSupplyOk
  repeat' first
    | with_reducible assumption
    | with_reducible apply keeps_ioSet
    | with_reducible apply keeps_modSupply
    | with_reducible apply keeps_vcoreSample
    | with_reducible apply keeps_raiseD
    | with_reducible apply keeps_supplyThrottle
    | with_reducible apply keeps_forCh
    | with_reducible apply keeps_unhold
    | with_reducible refine KX.next ?_
    | with_reducible apply h3
    | with_reducible rfl
    | with_reducible apply ChKeeps.of
    | with_reducible apply IslKeeps.of
    | (intro x; first | (refine (fun (hx : Keeps s0 x) => ?_) ?_; on_goal 2 => subst x) | skip)
    | lift_lets
    | split

theorem keeps_execColdStart {v1} (h1 : Keeps s0 v1) :
    KX s0 (execColdStart v1) := by
  unfold execColdStart
  repeat' first
    | with_reducible assumption
    | with_reducible apply keeps_modIsland
    | with_reducible apply keeps_modSupply
    | with_reducible apply keeps_foldl
    | with_reducible refine KX.next ?_
    | with_reducible apply h1
    | with_reducible rfl
    | with_reducible apply ChKeeps.of
    | with_reducible apply IslKeeps.of
    | (intro x; first | (refine (fun (hx : Keeps s0 x) => ?_) ?_; on_goal 2 => subst x) | skip)
    | lift_lets
    | split

theorem keeps_execSelfTestWindowCheck {v1 v2 v3} (h3 : Keeps s0 v3) :
    KX s0 (execSelfTestWindowCheck v1 v2 v3) := by
  unfold execSelfTestWindowCheck
  repeat' first
    | with_reducible assumption
    | with_reducible apply keeps_modTest
    | with_reducible apply keeps_modDev
    | with_reducible refine KX.next ?_
    | with_reducible apply h3
    | with_reducible rfl
    | with_reducible apply ChKeeps.of
    | with_reducible apply IslKeeps.of
    | (intro x; first | (refine (fun (hx : Keeps s0 x) => ?_) ?_; on_goal 2 => subst x) | skip)
    | lift_lets
    | split

theorem keeps_execSupplyRestored {v1} (h1 : Keeps s0 v1) :
    KX s0 (execSupplyRestored v1) := by
  unfold execSupplyRestored
  repeat' first
    | with_reducible assumption
    | with_reducible apply keeps_modSupply
    | with_reducible apply keeps_beginStarts
    | with_reducible refine KX.next ?_
    | with_reducible apply h1
    | with_reducible rfl
    | with_reducible apply ChKeeps.of
    | with_reducible apply IslKeeps.of
    | (intro x; first | (refine (fun (hx : Keeps s0 x) => ?_) ?_; on_goal 2 => subst x) | skip)
    | lift_lets
    | split

end Sys2Proof.Laws
end

