-- ==== Sys2Proof/Tests/Slice0.lean ====
section
/-! SUPPORT. Small tests of the model, and for each statement with hypotheses states and operands that meet them. -/

namespace Sys2Proof.Tests
-- One test at a time: each waits for the kernel's check of everything before it, and a thread that waits keeps its stack.
set_option Elab.async false
open Sys2Proof Sys2Proof.Machine

/-! ## States of the tests -/

/-- A device that runs: Kiln in Running, the host link up in CXL mode, every channel Ready and assigned to logical device 0, owner 0's key loaded. -/
def dev : State :=
  { State.reset with
    host := { State.reset.host with up := true, cxl := true, flit256 := true }
    island := { State.reset.island with
      kiln := .running, supply := { State.reset.island.supply with aon := true }, chAssign := Vector.replicate 12 0x80000000, keySlots := [(0, { KeySlot.none with state := .loaded })] }
    chans := Vector.replicate 12 { Channel.reset with state := .ready } }

/-- A descriptor: its opcode, no wait, no add, and its fields, each a lowest bit and a value. -/
def desc (op : Nat) (fs : List (Nat × Nat)) : Nat :=
  at_ 120 8 op + at_ 104 12 0xFFF + at_ 56 12 0xFFF + (fs.map (fun f => f.2 * 2 ^ f.1)).sum

/-- A state whose ring `r` of channel 0 is enabled with one descriptor, at 1 MiB of T0. -/
def head (r : Ring) (op : Nat) (fs : List (Nat × Nat)) (s : State := dev) : State :=
  t0Write (modRing s 0 r (fun g => { g with base := 0x100, cplBase := 0x101, enable := true, tail := 1 })) 0 0x100000 (natLe (desc op fs) 128)

/-- A ring of channel 0 with what its head descriptor waits for. -/
def waiting (r : Ring) (w : RingWait) (s : State := dev) : State :=
  modRing s 0 r (fun g => { g with enable := true, tail := 1, wait := w })

/-! ## Witnesses: for each statement with hypotheses, states and operands that meet those of each clause -/

theorem witness_StepRunsFrontOfQueue : { dev with pending := [.boot] }.pending = .boot :: [] ∧ dev.pending = [] := ⟨rfl, rfl⟩

theorem witness_CommandsLeaveTheQueue : ∃ t, exec .coldStart dev = .next t := ⟨_, rfl⟩

theorem witness_StepsKeepMemoryCanonical : (∀ c : Ch, chMemOk ((head 0 0 []).ch c) = true) ∧ ∃ t, Sys2Proof.Machine.step (head 0 0 []) = .next t :=
  ⟨by decide +kernel, _, rfl⟩

theorem witness_StepsKeepEventQueueIndices :
    (∀ n : Fin 17, dev.island.evq[n].prod < 512 ∧ dev.island.evq[n].cons < 512) ∧ ∃ t, Sys2Proof.Machine.step dev = .next t :=
  ⟨by decide +kernel, _, rfl⟩

theorem witness_MinSvnNeverFalls : ∃ t, Sys2Proof.Machine.step dev = .next t := ⟨_, rfl⟩

/-- A move of nothing. -/
def noMove : MoveCtx :=
  { opcode := 0x11, kind := 0, obj := 0, whole := false, toTier := 1, cls := 0, pgate := 0xFFF, owner := 0, tag := 0, useSlot := none, moves := [],
    acted := 0, skipped := 0, evicted := 0, status := 0, detail := 0, stopped := false }

/-- A size of 6 with areas apart, and a size of 5; a move under way on ring 4. -/
theorem witness_HostRingWritesTakeEffect :
    let s := waiting 4 (.moves noMove)
    hostReaches dev 0 0 = true ∧ (dev.ring 0 0).draining = false ∧ fenced dev 0 = false ∧ (dev.ring 0 0).enable = false ∧ (dev.ring 0 0).stop = false ∧
    (0x80060000#32).getLsbD 30 = false ∧ (0x80050000#32).getLsbD 30 = false ∧
    hostReaches s 0 0 = true ∧ (s.ring 0 4).draining = false ∧ (s.ring 0 4).enable = true ∧ (s.ring 0 4).wait = .moves noMove := by
  decide +kernel

/-- CXL.io down; a channel of no device; a channel that is Off. -/
theorem witness_HostWritesTurnedAway :
    let unassigned : State := { dev with island := { dev.island with chAssign := Vector.replicate 12 0 } }
    let off : State := { dev with chans := Vector.replicate 12 Channel.reset }
    ioUp State.reset 0 = false ∧ ioUp unassigned 0 = true ∧ ldOfCh unassigned 0 ≠ some 0 ∧ ioUp off 0 = true ∧ ldOfCh off 0 = some 0 ∧ isUp off 0 = false := by
  decide +kernel

/-- The highest gate; the least and the greatest size of the release log. -/
theorem witness_GateAndSeedWritesTakeEffect :
    hostReaches dev 0 11 = true ∧ 4094 < 4095 ∧ fenced dev 11 = false ∧ (dev.ch 11).rel.enable = false ∧
    6 ≤ (0x80060000#32).toNat / 2 ^ 16 % 2 ^ 5 ∧ (0x80100000#32).toNat / 2 ^ 16 % 2 ^ 5 ≤ 16 := by decide +kernel

/-- A ring that waits for gate 5 to reach 1, set to 1 and set to 0; a wait that has been satisfied. -/
theorem witness_GateChangeReleasesWaiters :
    let s := modRing (head 4 0 []) 0 4 (fun g => { g with wait := .gate false })
    let d := desc 0 [] - at_ 104 12 0xFFF + at_ 104 12 5 + at_ 72 32 1
    let u := t0Write s 0 0x100000 (natLe d 128)
    let h := hdrOf (headDesc u 0 4)
    (u.ring 0 4).wait = .gate false ∧ h.waitGate = 5 ∧
    gateMet (gateCount (gateSet u 0 5 1) 0 5) (BitVec.ofNat 32 h.waitCount) = true ∧
    gateMet (gateCount (gateSet u 0 5 0) 0 5) (BitVec.ofNat 32 h.waitCount) = false ∧
    ((waiting 4 (.gate true)).ring 0 4).wait = .gate true := by decide +kernel

theorem witness_CompletionRecordIsWritten : chMemOk ((head 0 0 []).ch 0) = true := by decide +kernel

/-- An opcode of another ring, and an accepted opcode with ADD_CH 12, gates 4,095 and a reserved bit. -/
theorem witness_HeaderIsCheckedBeforeTheWait :
    let bad := head 0 0x40 []
    let t (fs : List (Nat × Nat)) := hdrOf (headDesc (head 0 1 fs) 0 0)
    ringTakes bad 0 0 = true ∧ (bad.ring 0 0).wait = .idle ∧ opcodeOn 0x40 0 = false ∧ opcodeOn 1 0 = true ∧
    12 ≤ (t [(68, 12)]).addCh ∧ (t [(23, 1)]).reserved ≠ 0 ∧ (t []).opcode = 1 := by decide +kernel

/-- Each event of the statement. -/
theorem witness_GateEventsAndNop :
    let q : State := modCh dev 0 (fun ch => { ch with gateQ := [{ gate := 4094, amount := 1 }] })
    let d := modRing dev 0 3 (fun g => { g with draining := true })
    runsNow (head 0 0 []) 0 0 0x00 = true ∧ fld (headDesc (head 0 0 []) 0 0) 1023 128 = 0 ∧
    isUp dev 0 = true ∧ ((waiting 2 (.gate true)).ring 0 2).wait = .gate true ∧ (q.ch 0).gateQ = { gate := 4094, amount := 1 } :: [] ∧ isUp q 0 = true ∧
    (dev.ch 0).pace.refclk = true ∧ (d.ring 0 3).draining = true ∧ (d.ring 0 3).head = (d.ring 0 3).tail ∧ (d.ring 0 3).wait = .idle ∧
    (∀ mb : Mbox, (d.mb mb).bg = none) := by decide +kernel

/-- A head descriptor that has not begun, and one that waits at a gate, in a ring of 64 entries with 63 descriptors. -/
theorem witness_StopAbortsWhatWaits :
    let s (w : RingWait) : State := modRing dev 0 1 (fun g => { g with enable := true, head := 1, tail := 0, wait := w })
    hostReaches (s .idle) 0 0 = true ∧ ((s .idle).ring 0 1).enable = true ∧ ((s .idle).ring 0 1).draining = false ∧ ((s .idle).ring 0 1).wait = .idle ∧
    ((s (.gate false)).ring 0 1).head ≠ ((s (.gate false)).ring 0 1).tail ∧ ((s (.gate false)).ring 0 1).wait = .gate false ∧
    ((s .idle).ring 0 1).sizeLog2.toNat ≤ 12 ∧ ((s .idle).ring 0 1).head.toNat < 2 ^ ((s .idle).ring 0 1).sizeLog2.toNat ∧
    ((s .idle).ring 0 1).tail.toNat < 2 ^ ((s .idle).ring 0 1).sizeLog2.toNat ∧ fenced (s .idle) 0 = false := by decide +kernel


/-! ### Attention, append, prefetch -/

/-- A sequence of slot 0 of channel 0, Active, of two BF16 layers and heads, with so many positions. -/
def seqOf (len : Nat) : SeqEntry :=
  { SeqEntry.free with state := .active, layersM1 := 1, headsM1 := 1, kFmt := 1, vFmt := 1, length := BitVec.ofNat 29 len, written := decide (len ≠ 0) }

/-- The device with a sequence in slot 0 of channel 0. -/
def withSeq (len : Nat) : State := setSeq dev 0 0 (seqOf len)

/-- A private page of T1, whole. -/
def privPage : Pte := { Pte.empty with kind := .priv, tier := 1, fill := 64, pgate := 0xFFF, summIdx := 1 }

/-- An `Attend` of the last position: one query row, BF16 in and out, pages 0 to 0. -/
def attendFields : List (Nat × Nat) := [(968, 1), (962, 1), (931, 63), (792, 1), (787, 1), (763, 0x200000), (739, 0x210000)]

/-- The run of an attention descriptor. -/
def runOf (s : State) (env : Env) : State × AttnCtx × AttnStop :=
  let d := headDesc s 0 0
  let u := countUse (takeEnv s 0 env) 0 0 0
  let p := attendParams u 0 d
  runSeq u 0 0 env (attnStart p [] [0] (hdrOf d).tag)

/-- The hypotheses of an `Attend`. -/
def attendOk (s : State) (env : Env) : Bool :=
  let d := headDesc s 0 0
  let s1 := takeEnv s 0 env
  let u := countUse s1 0 0 0
  runsNow s 0 0 0x01 && freshHead s1 0 0 && (handleOf (fld d 1023 976)).slot == 0 && (seqCheck s1 0 (handleOf (fld d 1023 976)) false).isNone &&
    !lhBad s1 0 0 (fld d 975 968) (fld d 967 962) && fld d 700 384 == 0 && fld d 383 128 == 0 && !useFull s1 0 0 &&
    (attnBad u 0 (attendParams u 0 d) true).isNone && keyLoaded u (seqAt u 0 0).owner.toNat

/-- A sequence of no pages, of the highest layer and head; a page under gate 5; an engine fault before tile 0. -/
theorem witness_AttendRunsItsTiles :
    let s := head 0 1 attendFields (withSeq 64)
    let w := head 0 1 attendFields (setPte (withSeq 64) 0 (pteKey 0 1 1 0) { privPage with pgate := 5 })
    attendOk s Env.clean = true ∧ (runOf s Env.clean).2.2 = .go ∧ attendOk w Env.clean = true ∧ (runOf w Env.clean).2.2 = .wait 5 ∧
    attendOk s { lost := [], fault := some 0 } = true ∧ (runOf s { lost := [], fault := some 0 }).2.2 = .stop .engineFault 0 := by decide +kernel

/-- The hypotheses of a batch descriptor of one sequence. -/
def batchOk (grist : Bool) (s : State) : Bool :=
  let d := headDesc s 0 0
  let n := if grist then 8 else 16
  match batchPlan (takeEnv s 0 Env.clean) 0 grist d [0] (fld d 879 856) (fld d 855 832) with
  | .ok (p :: ps) =>
    let slots := (p :: ps).map (fun x => x.slot)
    let y0 := runSeq ((dedup slots).foldl (fun t x => countUse t 0 0 x) (takeEnv s 0 Env.clean)) 0 0 Env.clean (attnStart p ps slots (hdrOf d).tag)
    let y := runSubs y0.2.1.subs y0.1 0 0 Env.clean y0.2.1
    runsNow s 0 0 (if grist then 0x02 else 0x03) && fld d 1023 1018 == 0 && inT0 (fld d 1012 989) n && !touchesPriv (fld d 1012 989) n &&
      !batchBad grist d && (batchKeyless (takeEnv s 0 Env.clean) 0 (p :: ps)).isNone && freshHead (takeEnv s 0 Env.clean) 0 0 && !(dedup slots).any (useFull (takeEnv s 0 Env.clean) 0) && y0.2.2 == .go && y.2.2 == .go
  | _ => false

/-- A grist batch and a ragged batch, of one sequence each, with the greatest layer and head; an engine at a gate whose change has come. -/
theorem witness_BatchAttentionRuns :
    let f : List (Nat × Nat) := [(989, 0x100200), (981, 1), (975, 1), (885, 1), (880, 1), (856, 0x200000), (832, 0x210000)]
    let x := (runOf (head 0 1 attendFields (setPte (withSeq 64) 0 (pteKey 0 1 1 0) { privPage with pgate := 5 })) Env.clean).2.1
    let w := waiting 0 (.presence 5 true x) (withSeq 64)
    let y0 := runSeq (takeEnv w 0 Env.clean) 0 0 Env.clean x
    batchOk true (head 0 2 (f ++ [(1013, 0)]) (withSeq 64)) = true ∧ batchOk false (t0Write (head 0 3 f (withSeq 64)) 0 0x100200 (natLe (at_ 52 28 64) 16)) = true ∧
    (w.ring 0 0).wait = .presence 5 true x ∧ (w.ring 0 0).old = none ∧ isUp w 0 = true ∧ y0.2.2 = .go ∧ (runSubs y0.2.1.subs y0.1 0 0 Env.clean y0.2.1).2.2 = .go := by decide +kernel

/-- An `Append` and a Slip descriptor with no write left. -/
def noAppend : AppendCtx := { slot := 0, pages := [], rewrites := false, flags := 0 }
def noSlip : SlipCtx := { ch := 0, owner := 0, addr := 0, lines := [], cpl := cplSt .ok }

/-- The pages with their frames, where the list gives them all. -/
def framesOf (x : Except Cpl (List AppendPage)) : Option (List AppendPage) :=
  match x with
  | .ok zs => some zs
  | _ => none

/-- The first append of a sequence, of one slot into a page that takes frame 64 of class 2; the waits of the other clauses. -/
theorem witness_AppendWritesAndAdvances :
    let s0 := setSeq dev 0 0 { seqOf 0 with headsM1 := 0 }
    let s1 := t0Write (modObj s0 0 (fun o => { o with poolBase := 1 })) 0 0x120000 (natLe 64 8)
    let s := head 3 4 [(968, 1), (927, 1), (903, 0x110000), (879, 0x120000), (876, 3)] s1
    let d := headDesc s 0 3
    let v := takeEnv s 0 Env.clean
    let u := countUse v 0 3 0
    let k := useKey u 0 (seqAt u 0 0).owner.toNat
    let e := seqAt u 0 0
    let xs := appendPages u 0 d 0
    let ys := (framesOf (appendFrames u 0 d e xs)).getD []
    let frz := setSeq (waiting 5 (.freeze 0 noMove)) 0 0 { seqOf 0 with useCount := 1 }
    let rel (en : Bool) (full : Bool) : State := modCh dev 0 (fun ch => { ch with rel := { ch.rel with
      enable := en, sizeLog2 := 6, tail := if full then 1 else 0, queue := [{ tier := 1, cls := 0, loc := 3, rings := [] }] } })
    let rec_ : Release := { tier := 1, cls := 0, loc := 3, rings := [] }
    (runsNow s 0 3 0x04 = true ∧ freshHead v 0 3 = true ∧ seqCheck v 0 (handleOf (fld d 1023 976)) false = none ∧ apLayer d < layersOf (seqAt v 0 0) ∧
      (seqAt v 0 0).posBase.toNat ≤ apPos0 d ∧ (fmtOf (fld d 931 927)).map (fun f => f.a) = some true ∧ fld d 871 128 = 0 ∧ fld d 878 876 < 6 ∧
      inT0 (fld d 926 903) (headsOf e * apN d * 2 * roundUp (vecBytes (fmtD (fld d 931 927)) (headDimOf e.headDim.toNat)) 64) = true ∧
      useFull v 0 0 = false ∧ apPos0 d + apN d ≤ 268435456 ∧ e.length.toNat < 268435456 ∧ appendInFlight u 0 d xs = none ∧
      xs.findSome? (appendPageBad u 0 d e) = none ∧ appendFillBad u 0 d e xs = false ∧
      (framesOf (appendFrames u 0 d e xs)).isSome = true ∧ keyHere k 0 e.owner.toNat = true ∧
      ys.any (fun x => x.use == .copy && changeWaits k 0 (some 3) (pbIndexOf (fld (pteAt k 0 x.key).loc.toNat 39 0)).slot) = false ∧
      ys.any (copyGuarded k 0 d) = false ∧ (readCopies 0 d e ys k).1 = some []) ∧
    ((waiting 4 .useFull).ring 0 4).wait = .useFull ∧ (frz.ring 0 5).wait = .freeze 0 noMove ∧ (seqAt frz 0 0).useCount.toNat ≤ 1 ∧
    ((waiting 3 (.guardPages noAppend)).ring 0 3).wait = .guardPages noAppend ∧ isUp (waiting 3 (.guardPages noAppend)) 0 = true ∧
    ((waiting 6 (.guardWrites noSlip)).ring 0 6).wait = .guardWrites noSlip ∧ isUp (waiting 6 (.guardWrites noSlip)) 0 = true ∧
    takeClear ((rel true false).ch 0).rel.queue = some (rec_, []) ∧ ((rel false false).ch 0).rel.enable = false ∧
    ((rel true false).ch 0).rel.enable = true ∧ relRoom ((rel true false).ch 0).rel ≠ 0 ∧ relRoom ((rel true true).ch 0).rel = 0 := by decide +kernel

/-- A sequence's page range, a Live block's record, and a raw frame: destinations that fit exactly. -/
theorem witness_PrefetchCopies :
    let s := head 5 0x10 [(966, 1), (960, 1), (938, 0), (916, 0), (892, 0x200000), (868, 0x8000)] (withSeq 64)
    let d := headDesc s 0 5
    let v := takeEnv s 0 Env.clean
    let u := countUse v 0 5 0
    let b := setPb dev 0 3 { PbSlot.free with used := true, state := .live, kFmt := 1, vFmt := 1 }
    let s2 := head 5 0x10 [(976, 3), (974, 1), (892, 0x200000), (868, 0x8000)] b
    let d2 := headDesc s2 0 5
    let v2 := takeEnv s2 0 Env.clean
    let s3 := head 5 0x10 [(974, 2), (892, 0x200000), (868, 2048), (842, 3)] (modObj dev 0 (fun o => { o with poolBase := 1 }))
    let d3 := headDesc s3 0 5
    (runsNow s 0 5 0x10 = true ∧ fld d 975 974 = 0 ∧ freshHead v 0 5 = true ∧ seqCheck v 0 (handleOf (fld d 1023 976)) false = none ∧
      fld d 973 966 < layersOf (seqAt v 0 0) ∧ fld d 965 960 < headsOf (seqAt v 0 0) ∧ fld d 959 938 ≤ fld d 937 916 ∧ fld d 867 128 = 0 ∧ useFull v 0 0 = false ∧
      fetchBad d (seqObj u 0 0).size = false ∧ keyLoaded u (seqObj u 0 0).owner = true) ∧
    (runsNow s2 0 5 0x10 = true ∧ fld d2 975 974 = 1 ∧ fld (fld d2 1023 976) 47 40 = 0 ∧ fld d2 959 916 = 0 ∧ fld d2 867 128 = 0 ∧
      (pbIndexOf (fld d2 1023 976)).home = 0 ∧ pbLive v2 (fld d2 1023 976) = true ∧ fld d2 973 966 < (pbObj v2 0 3).layers ∧ fld d2 965 960 < (pbObj v2 0 3).heads ∧
      fetchBad d2 (pbObj v2 0 3).size = false ∧ keyLoaded v2 (pbObj v2 0 3).owner = true) ∧
    (runsNow s3 0 5 0x10 = true ∧ fld d3 975 974 = 2 ∧ fld d3 1023 976 = 0 ∧ fld d3 973 916 = 0 ∧ fld d3 829 128 = 0 ∧ fetchBad d3 2048 = false ∧
      (fld d3 867 842 + (fld d3 841 830 + 1)) * 2048 ≤ poolBase (takeEnv s3 0 Env.clean) 0) := by decide +kernel

/-! ### Slip -/

/-- An operand of 80 bits: SPACE, channel, REF, address. -/
def slipVal (space ch ref addr : Nat) : Nat := at_ 78 2 space + at_ 74 4 ch + at_ 42 32 ref + at_ 0 40 addr

/-- An operand in use. -/
def useOf (v len right : Nat) : SlipUse := { op := slipOp v, len, right }

/-- Region 1 with 2 MiB in channel 0, which ring 6 of channel 0 may use in every way, published at version 4. -/
def withRegion : State :=
  modRegion { modObj dev 0 (fun o => { o with mdBase := 1, poolBase := 1 }) with island := { dev.island with
      grants := [{ ld := 0, part := 0, dpa := 0, len := 0x200000, region := 1, ch := 0, t1 := 0, owner := 0, live := true, leaving := false, by_ := 0 }] } } 1
    (fun g => { g with
      state := .live, version := 4,
      regs := [(0, { valid := true, revoked := false, kind := 2, rights := 15, unit := 0, conn := 0, regEp := 0, revEp := 0 })] })

/-- A Slip operation that has read and writes these lines. -/
def planOf (s : State) (us : List SlipUse) (xs : List (List Byte)) : SlipPlan := { lines := xs, cpl := cplSt .ok, st := slipAt (slipEnv s us Env.clean) 0 6 us }

/-- A fill, a copy to the end of channel 11's T0, a compare, a reduction of one source, and an atomic of 16 bytes in a region. -/
theorem witness_SlipOperationsRun :
    let a := slipVal 0 0 0 0x200000
    let b := slipVal 0 11 0 0xDFFFC0
    let f := head 6 0x21 [(944, a), (832, 64)]
    let y := head 6 0x22 [(944, b), (864, a), (832, 64)]
    let p := head 6 0x23 [(944, b), (864, a), (832, 64)]
    let q := t0Write (head 6 0x24 [(944, b), (915, 0x120000), (883, 64)]) 0 0x120000 (natLe a 16)
    let v := slipVal 2 0 1 0x1FFFF0
    let w := head 6 0x26 [(944, v), (943, 1), (662, 0x120000)] withRegion
    (runsNow f 0 6 0x21 = true ∧ (slipOp a).bad = false ∧ lenBad 64 = false ∧ fld (headDesc f 0 6) 863 832 = 64 ∧ fld (headDesc f 0 6) 943 864 = 0 ∧
      fld (headDesc f 0 6) 767 128 = 0 ∧ slipClear (slipEnv f [useOf a 64 1] Env.clean) 0 6 [useOf a 64 1] (some (useOf a 64 1)) false [] = true ∧
      slipFree (planOf f [useOf a 64 1] [List.replicate 64 0]) (useOf a 64 1) = true) ∧
    (runsNow y 0 6 0x22 = true ∧ (slipOp b).bad = false ∧ fld (headDesc y 0 6) 831 128 = 0 ∧ fld (headDesc y 0 6) 1023 944 = b ∧ fld (headDesc y 0 6) 943 864 = a ∧
      slipClear (slipEnv y [useOf b 64 1, useOf a 64 0] Env.clean) 0 6 [useOf b 64 1, useOf a 64 0] (some (useOf b 64 1)) false [] = true ∧
      slipFree (planOf y [useOf b 64 1, useOf a 64 0] [List.replicate 64 0]) (useOf b 64 1) = true) ∧
    (runsNow p 0 6 0x23 = true ∧ fld (headDesc p 0 6) 831 128 = 0 ∧
      slipClear (slipEnv p [useOf b 64 0, useOf a 64 0] Env.clean) 0 6 [useOf b 64 0, useOf a 64 0] none false [] = true) ∧
    (runsNow q 0 6 0x24 = true ∧ fld (headDesc q 0 6) 943 939 = 0 ∧ fld (t0Num q 0 0x120000 16) 79 0 = a ∧ sourceBad [t0Num q 0 0x120000 16] = none ∧ fld (headDesc q 0 6) 938 915 = 0x120000 ∧
      fld (headDesc q 0 6) 914 883 = 64 ∧ fld (headDesc q 0 6) 880 879 ≠ 3 ∧ fld (headDesc q 0 6) 878 128 = 0 ∧
      slipClear (slipEnv q [useOf b 64 1, useOf a 64 0] Env.clean) 0 6 [useOf b 64 1, useOf a 64 0] (some (useOf b 64 1)) false [(0x120000, 16)] = true ∧
      slipFree (planOf q [useOf b 64 1, useOf a 64 0] [List.replicate 64 0]) (useOf b 64 1) = true) ∧
    (runsNow w 0 6 0x26 = true ∧ (slipOp v).bad = false ∧ (slipOp v).space ≠ 0 ∧ (slipOp v).addr % 16 = 0 ∧ fld (headDesc w 0 6) 685 662 % 16 = 0 ∧
      fld (headDesc w 0 6) 941 814 < 2 ^ (8 * 16) ∧ bit (headDesc w 0 6) 943 = true ∧ bit (headDesc w 0 6) 942 = false ∧ fld (headDesc w 0 6) 813 686 = 0 ∧
      fld (headDesc w 0 6) 661 128 = 0 ∧
      slipClear (slipEnv w [useOf v 16 2] Env.clean) 0 6 [useOf v 16 2] (some (useOf v 16 2)) true [(0x120000, 16)] = true ∧
      slipFree (planOf w [useOf v 16 2] [List.replicate 16 0]) (useOf v 16 2) = true ∧
      (opRead (slipAt (slipEnv w [useOf v 16 2] Env.clean) 0 6 [useOf v 16 2]) (slipOp v) 0 16).1.isSome = true) := by decide +kernel

/-- Overlapping ranges of one channel, and the last line of the highest channel's T0. -/
theorem witness_SlipOnStagingMemory :
    let o := head 6 0x22 [(944, slipVal 0 0 0 0x200040), (864, slipVal 0 0 0 0x200000), (832, 128)]
    let p := head 6 0x23 [(944, slipVal 0 11 0 0xDFFFC0), (864, slipVal 0 0 0 0), (832, 64)]
    (runsNow o 0 6 0x22 = true ∧ freshHead o 0 6 = true ∧ (slipOp (fld (headDesc o 0 6) 1023 944)).bad = false ∧ (slipOp (fld (headDesc o 0 6) 943 864)).bad = false ∧
      (slipOp (fld (headDesc o 0 6) 1023 944)).ch = (0 : Ch).val ∧ fld (headDesc o 0 6) 863 832 = 128 ∧ fld (headDesc o 0 6) 831 128 = 0 ∧
      inT0 0x200040 128 = true ∧ touchesPriv 0x200040 128 = false ∧ inT0 0x200000 128 = true ∧ touchesPriv 0x200000 128 = false) ∧
    (runsNow p 0 6 0x23 = true ∧ freshHead p 0 6 = true ∧ (slipOp (fld (headDesc p 0 6) 1023 944)).ch = (11 : Ch).val ∧ isUp p 11 = true ∧
      (slipOp (fld (headDesc p 0 6) 1023 944)).bad = false ∧ (slipOp (fld (headDesc p 0 6) 943 864)).bad = false ∧
      inT0 0xDFFFC0 64 = true ∧ touchesPriv 0xDFFFC0 64 = false ∧ inT0 0 64 = true ∧ touchesPriv 0 64 = false) := by decide +kernel

/-- A publish whose EXPECT is the version, and one that is not; a merge of one partial of one row at the edge of T0. -/
theorem witness_PublishesAndMergesRun :
    let s (expect : Nat) := head 6 0x25 [(992, 1), (928, expect), (840, 0x120000)] withRegion
    let m := t0Write (head 6 0x20 [(995, 0x120000), (971, 0x300000), (951, 1), (946, 1)]) 0 0x120000 (natLe 0x200000 4)
    let size := (tileLayout 1 64 (fmtD 1)).size
    (runsNow (s 4) 0 6 0x25 = true ∧ freshHead (s 4) 0 6 = true ∧ fld (headDesc (s 4) 0 6) 863 840 % 16 = 0 ∧ fld (headDesc (s 4) 0 6) 839 128 = 0 ∧
      regionCheck (s 4) (fld (headDesc (s 4) 0 6) 1023 992) = none ∧ admitTest (regionAt (s 4) 1) 2 0 0 rightPublish = .ok 0 ∧ inT0 0x120000 16 = true ∧
      touchesPriv 0x120000 16 = false ∧ (regionAt (s 4) 1).version = BitVec.ofNat 64 (fld (headDesc (s 4) 0 6) 991 928) ∧
      runsNow (s 5) 0 6 0x25 = true ∧ (regionAt (s 5) 1).version ≠ BitVec.ofNat 64 (fld (headDesc (s 5) 0 6) 991 928)) ∧
    (runsNow m 0 6 0x20 = true ∧ fld (headDesc m 0 6) 945 128 = 0 ∧ fld (headDesc m 0 6) 958 956 < 5 ∧
      outFmt (fld (headDesc m 0 6) 955 951) = some (fmtD 1) ∧ outFmt (fld (headDesc m 0 6) 950 946) = some (fmtD 1) ∧
      inT0 0x120000 4 = true ∧ touchesPriv 0x120000 4 = false ∧ fld (headDesc m 0 6) 994 971 % 64 = 0 ∧ inT0 0x300000 size = true ∧ touchesPriv 0x300000 size = false ∧
      (mergeList m 0 0x120000 1).any (partialBad size) = false ∧ mergeList m 0 0x120000 1 = [0x200000] ∧ chOf (fld 0x200000 31 28) = some 0) := by decide +kernel

/-! ### The Sieve -/

/-- A row of a key and a block. -/
def rowOf (key pb : Nat) : SieveRow := { SieveRow.none with key := BitVec.ofNat 128 key, valid := true, pb := BitVec.ofNat 40 pb }

/-- A pending row that goes down from index 2 to hole 4. -/
def pendOf (moved : Nat) : PendRow :=
  { row := rowOf 7 3, target := 2, down := true, edge := 2, hole := 4, total := 2, direct := false, moved, cur := 4 - moved, prev := none }

/-- The device with these array rows, their mirrors, and a pending row. -/
def withRows (rows : List (Nat × SieveRow)) (pend : Option PendRow) : State :=
  modSieve (modCh dev 0 (fun ch => { ch with cfg := { ch.cfg with sieveMask := Vector.replicate 4 0x0000FFFF } })) 0 (fun x => { x with rows := rows, mirror := rows, pend := pend })

/-- Two array rows of one key, a pending row above, between and below them, and no pending row; lowest index 0. -/
theorem witness_SearchFindsTheLowestMatch :
    let rows := [(3, rowOf 7 1), (131071, rowOf 7 2)]
    let s := withRows rows none
    let u := withRows rows (some { pendOf 0 with target := 3 })
    smWf SieveRow.none (s.ch 0).sieve.rows = true ∧ (s.ch 0).sieve.pend = none ∧
    searchFrom (s.ch 0).sieve 0 (probeTest s 0 7 0 0) = some (3, rowOf 7 1) ∧ searchFrom (s.ch 0).sieve 131071 (probeTest s 0 7 0 3) = some (131071, rowOf 7 2) ∧
    searchFrom (s.ch 0).sieve 0 (probeTest s 0 8 0 0) = none ∧ smWf SieveRow.none (u.ch 0).sieve.rows = true ∧ (pendOf 0).row.valid = true ∧
    searchFrom (u.ch 0).sieve 0 (probeTest u 0 7 0 0) = some (3, rowOf 7 3) := by decide +kernel

/-- The least body of each descriptor; an insert of a live block whose key is in the array, and one whose key is not. -/
theorem witness_SieveDescriptorsRun :
    let b := setPb (withRows [(3, rowOf 7 1)] none) 0 1 { PbSlot.free with used := true, state := .live }
    let h := head 7 0x30 [(977, 0x200000), (953, 0x210000)]
    let p := head 7 0x31 [(976, 0x200000), (952, 0x210000)]
    let i := head 7 0x32 [(896, 7), (833, 1)] b
    let j := head 7 0x32 [(896, 8), (833, 1)] b
    let m := head 7 0x33 [(838, 2)] b
    let f := head 7 0x34 [(838, 0)] b
    let e := head 7 0x35 [(1007, 131071), (971, 0x200000)]
    pairRole dev 0 = 0 ∧ pairRole b 0 = 0 ∧
    (runsNow h 0 7 0x30 = true ∧ bit (headDesc h 0 7) 1017 = false ∧ fld (headDesc h 0 7) 696 128 = 0 ∧ fld (headDesc h 0 7) 952 825 = 0 ∧
      inT0 0x200000 256 = true ∧ touchesPriv 0x200000 256 = false ∧ inT0 0x210000 16 = true ∧ touchesPriv 0x210000 16 = false) ∧
    (runsNow p 0 7 0x31 = true ∧ bit (headDesc p 0 7) 951 = false ∧ fld (headDesc p 0 7) 942 128 = 0) ∧
    (runsNow i 0 7 0x32 = true ∧ fld (headDesc i 0 7) 832 128 = 0 ∧ (i.ch 0).sieve.pend = none ∧ (pbIndexOf (fld (headDesc i 0 7) 872 833)).home = (0 : Ch).val ∧
      isUp i 0 = true ∧ pbLive i (fld (headDesc i 0 7) 872 833) = true ∧
      searchFrom (i.ch 0).sieve 0 (dupTest (BitVec.ofNat 128 (fld (headDesc i 0 7) 1023 896)) (fld (headDesc i 0 7) 895 880)) = some (3, rowOf 7 1) ∧
      runsNow j 0 7 0x32 = true ∧
      searchFrom (j.ch 0).sieve 0 (dupTest (BitVec.ofNat 128 (fld (headDesc j 0 7) 1023 896)) (fld (headDesc j 0 7) 895 880)) = none ∧
      (planInsert (j.ch 0).sieve (insertRow (headDesc j 0 7)) (fld (headDesc j 0 7) 879 876) (bit (headDesc j 0 7) 875)).isSome = true) ∧
    (runsNow m 0 7 0x33 = true ∧ fld (headDesc m 0 7) 839 838 ≠ 3 ∧ fld (headDesc m 0 7) 834 128 = 0 ∧ fld (headDesc m 0 7) 836 835 = 0) ∧
    (runsNow f 0 7 0x34 = true ∧ fld (headDesc f 0 7) 839 838 ≠ 3 ∧ fld (headDesc f 0 7) 834 128 = 0 ∧ bit (headDesc f 0 7) 837 = false) ∧
    (runsNow e 0 7 0x35 = true ∧ fld (headDesc e 0 7) 970 128 = 0 ∧ fld (headDesc e 0 7) 1023 1007 + (fld (headDesc e 0 7) 1006 995 + 1) ≤ 131072 ∧
      inT0 0x200000 32 = true ∧ touchesPriv 0x200000 32 = false) := by decide +kernel

/-- A downward shift after its last copy. -/
theorem witness_ShiftLandsItsRow :
    let s := withRows [(2, rowOf 1 1), (3, rowOf 1 1), (4, rowOf 2 2)] (some (pendOf 2))
    (s.ch 0).sieve.pend = some (pendOf 2) ∧ isUp s 0 = true ∧ (pendOf 2).total ≤ (pendOf 2).moved ∧ (s.ch 0).sieve.unusable = [] ∧
    smWf SieveRow.none (s.ch 0).sieve.rows = true ∧ smWf SieveRow.none (s.ch 0).sieve.mirror = true ∧
    ({ pendOf 2 with direct := true } : PendRow).direct = true := by decide +kernel

theorem witness_RemovalTakesEveryMatch :
    smWf SieveRow.none [(2, rowOf 1 1), (131071, rowOf 2 2)] = true ∧ ((withRows [(2, rowOf 1 1)] (some (pendOf 0))).ch 0).sieve.pend = some (pendOf 0) := by
  decide +kernel

/-- A probe that waits for frames: entry 1 under search. -/
def probeCtx : ProbeCtx := { recs := [], resAddr := 0x200000, casSeq := 5, keys := [], entry := 1, x := 0, trips := 0 }

/-- Each event of the statement where it can arise: the shift with rows left, the last scrub index, a waiting spare, a request, a report, a sweep that waits
for channel 11, a sound cascade frame; and for each paired descriptor a frame of even parity of its TYPE, a frame of odd parity, and one of another TYPE. -/
theorem witness_SieveEventsRun :
    let a := withRows [] (some (pendOf 1))
    let scrub := modSieve (withRows [(131071, rowOf 1 1)] none) 0 (fun x => { x with scrubPos := 131071 })
    let rq := modRefPort dev 0 (fun p => { p with removals := [(1, 5)] })
    let rep : Report := { from_ := 0, answer := true, insert := true, pb := 1 }
    let rp := modRefPort dev 0 (fun p => { p with reports := [rep] })
    let ru := modRefPort rp 0 (fun p => { p with reports := [] })
    let sw := modRefPort dev 0 (fun p => { p with sweep := some { blocks := [], q := [], waiting := [11] } })
    let cas := waiting 7 (.cascade probeCtx)
    let good : BitVec 74 := BitVec.ofNat 74 (at_ 65 8 5)
    let pr (op : Nat) (fs : List (Nat × Nat)) : State := modRing (head 7 op fs) 0 7 (fun g => { g with wait := .paired probeCtx })
    let fr (type a par : Nat) : Nat := (BitVec.ofNat 40 (at_ 37 3 type + at_ 19 18 a + par)).toNat
    (((waiting 7 .insertWait).ring 0 7).wait = .insertWait ∧ ((waiting 7 .insertWait).ch 0).sieve.pend = none ∧
      (a.ch 0).sieve.pend = some (pendOf 1) ∧ isUp a 0 = true ∧ (pendOf 1).moved < (pendOf 1).total) ∧
    (isUp scrub 0 = true ∧ scrubSkips (modSieve scrub 0 (fun x => { x with scrubPos := 0 })) 0 131071 = false ∧
      ({ rowAt (scrub.ch 0).sieve 131071 with transit := false } : SieveRow) = smGet SieveRow.none (scrub.ch 0).sieve.mirror 131071) ∧
    ((dev.ring 0 7).wait = .idle ∧ (dev.ch 0).sieve.pend = none ∧ (rq.ring 0 7).wait = .idle ∧ (rq.ch 0).obj.port.removals = (1, 5) :: [] ∧
      (rp.ch 0).obj.port.reports = [rep] ∧ isUp rp 0 = true ∧ logFull ru 0 = false ∧ changeWaits ru 0 none (pbIndexOf rep.pb.toNat).slot = false) ∧
    ((sw.ch 0).obj.port.sweep = some { blocks := [], q := [], waiting := [11] } ∧ (11 : Ch).val ∈ [11] ∧ isUp sw 11 = true) ∧
    ((cas.ring 0 7).wait = .cascade probeCtx ∧ popcount good.toNat 74 % 2 = 0 ∧ bit good.toNat 73 = false ∧ fld good.toNat 72 65 = probeCtx.casSeq.toNat) ∧
    (((pr 0x31 []).ring 0 7).wait = .paired probeCtx ∧ fld (headDesc (pr 0x31 []) 0 7) 127 120 = 0x31 ∧ popcount (fr 1 0 1) 40 % 2 = 0 ∧ fld (fr 1 0 1) 39 37 = 1) ∧
    (((pr 0x32 []).ring 0 7).wait = .paired probeCtx ∧ fld (headDesc (pr 0x32 []) 0 7) 127 120 = 0x32 ∧ probeCtx.entry = 1 ∧
      popcount (fr 2 0x3FFFF 1) 40 % 2 = 0 ∧ fld (fr 2 0x3FFFF 1) 36 19 = 0x3FFFF ∧ popcount (fr 2 0x1FFFF 0) 40 % 2 = 0) ∧
    (fld (headDesc (pr 0x33 [(838, 1)]) 0 7) 127 120 = 0x33 ∧ fld (headDesc (pr 0x33 [(838, 1)]) 0 7) 839 838 = 1 ∧ popcount (fr 3 0x3FFFF 0) 40 % 2 = 0 ∧
      popcount (fr 3 0x1FFFF 1) 40 % 2 = 0 ∧ fld (fr 3 0x1FFFF 1) 36 19 ≠ 0x3FFFF ∧ probeCtx.recs = []) ∧
    (fld (headDesc (pr 0x34 [(838, 1)]) 0 7) 127 120 = 0x34 ∧ fld (headDesc (pr 0x34 [(838, 1)]) 0 7) 839 838 = 1 ∧ popcount (fr 4 0x3FFFF 1) 40 % 2 = 0 ∧
      fld (fr 4 0x3FFFF 1) 36 19 = 0x3FFFF) ∧
    (popcount (fr 1 0 0) 40 % 2 ≠ 0 ∧ fld (fr 2 0 0) 39 37 ≠ 1 ∧ fld (fr 1 0 0) 39 37 ≠ 2 ∧ fld (fr 1 0 0) 39 37 ≠ 3 ∧ fld (fr 1 0 0) 39 37 ≠ 4) := by decide +kernel

/-! ### Objects -/

/-- A body fault; then every check passed, on the highest slot, Active, Retired, Free with nodes, and Free in a pool of none. -/
theorem witness_SeqOpenGoesByState :
    let f : List (Nat × Nat) := [(976, 0xFFFFF), (898, 1), (893, 1)]
    let s (e : SeqEntry) : State := head 8 0x40 f (setSeq dev 0 0xFFFFF e)
    let d := headDesc (s SeqEntry.free) 0 8
    let none_ := head 8 0x40 f (modCh dev 0 (fun ch => { ch with cfg := { ch.cfg with objCfg := 0xA4700000 } }))
    let bad := head 8 0x40 [(864, 1), (898, 1), (893, 1)]
    (runsNow (s SeqEntry.free) 0 8 0x40 = true ∧ smWf SeqEntry.free ((s SeqEntry.free).ch 0).obj.seqs = true ∧
      runsNow bad 0 8 0x40 = true ∧ openBad bad 0 (headDesc bad 0 8) = some .badField) ∧
    ((handleOf (fld d 1023 976)).home = (0 : Ch).val ∧ (handleOf (fld d 1023 976)).slot < seqSlots (s SeqEntry.free) 0 ∧ (handleOf (fld d 1023 976)).gen = 0 ∧
      fld d 864 128 = 0 ∧ fld d 942 915 % 64 = 0 ∧ fld d 945 943 < 5 ∧ bit d 891 = false ∧ fld d 890 887 = 0 ∧ fld d 886 865 = 0 ∧
      formatsOk (fld d 945 943) (fld d 902 898) (fld d 897 893) = true ∧ keyInCh (s SeqEntry.free) 0 (fld d 914 903) = true) ∧
    (seqAt (s { seqOf 0 with gen := 0xFFFF }) 0 0xFFFFF).state = .active ∧ (seqAt (s { SeqEntry.free with state := .retired }) 0 0xFFFFF).state = .retired ∧
    (seqAt (s SeqEntry.free) 0 0xFFFFF).state = .free ∧ (allocRun (s SeqEntry.free) 0 (dirNodes 1 1 0xFFFFF)).isSome = true ∧
    (runsNow none_ 0 8 0x40 = true ∧ (allocRun none_ 0 (dirNodes 1 1 0xFFFFF)).isNone = true) := by decide +kernel

/-- Each status of the list, and a Frozen sequence that a SeqClose accepts. -/
theorem witness_HandleChecksComeInOrder :
    let s (e : SeqEntry) (v : Nat) : State := head 8 0x44 [(976, v)] (setSeq dev 0 0 e)
    let st (e : SeqEntry) (v : Nat) : Option St := seqCheck (s e v) 0 (handleOf (fld (headDesc (s e v) 0 8) 1023 976)) false
    freshHead (s (seqOf 0) 0) 0 8 = true ∧ runsNow (s (seqOf 0) 0) 0 8 0x44 = true ∧
    st (seqOf 0) (handleBits 0 12 0) = some .outOfRange ∧ st (seqOf 0) (handleBits 0 0 0x100000) = some .outOfRange ∧
    st (seqOf 0) (handleBits 0 11 0xFFFFF) = some .wrongChannel ∧ st { SeqEntry.free with state := .retired } 0 = some .slotRetired ∧
    st (seqOf 0) (handleBits 0xFFFF 0 0) = some .staleHandle ∧ st { seqOf 0 with state := .frozen } 0 = some .seqFrozen ∧
    seqCheck (s { seqOf 0 with state := .frozen } 0) 0 { gen := 0, home := 0, slot := 0 } true = none ∧
    runsNow (head 8 0x42 []) 0 8 0x42 = true ∧ runsNow (head 8 0x45 []) 0 8 0x45 = true ∧ runsNow (head 8 0x41 []) 0 8 0x41 = true ∧
    runsNow (head 8 0x46 []) 0 8 0x46 = true ∧ fld (headDesc (head 8 0x46 []) 0 8) 975 974 = 0 := by decide +kernel

/-- A close at USE_COUNT 0, a close that waits, and generations 0, 0xFFFE and 0xFFFF. -/
theorem witness_CloseAndItsEndAdvanceTheGeneration :
    let s := head 8 0x41 [] (withSeq 64)
    let w := waiting 8 (.closeDrain 0) (withSeq 64)
    let full := setPte w 0 (pteKey 0 1 1 0) privPage
    let dropping := modRing s 0 8 (fun g => { g with wait := .dropping [pteKey 0 1 1 0] 0 0 })
    (runsNow s 0 8 0x41 = true ∧ seqCheck s 0 (handleOf (fld (headDesc s 0 8) 1023 976)) true = none ∧ fld (headDesc s 0 8) 975 128 = 0) ∧
    (isUp w 0 = true ∧ (w.ring 0 8).wait = .closeDrain 0 ∧ (seqAt w 0 0).useCount = 0 ∧ (∀ q : Ring, q ≠ 8 → (w.ring 0 q).wait = .idle)) ∧
    closeFree 0 8 0 ((seqPtes full 0 0).map (fun k => k.1)) full = true ∧ (seqPtes full 0 0).length = 1 ∧
    (isUp dropping 0 = true ∧ (dropping.ring 0 8).wait = .dropping [pteKey 0 1 1 0] 0 0 ∧ fld (headDesc dropping 0 8) 127 120 = 0x41) ∧
    (∀ g : Fin 3, smWf SeqEntry.free ((setSeq dev 0 0 { seqOf 0 with gen := #v[0, 0xFFFE, 0xFFFF][g] }).ch 0).obj.seqs = true) := by decide +kernel

/-- Each descriptor of the statement in a state where it is carried out. -/
theorem witness_ObjectDescriptorsRun :
    let full := [0, 1].foldl (fun t l => [0, 1].foldl (fun t h => setPte t 0 (pteKey 0 l h 0) { privPage with summIdx := BitVec.ofNat 24 (2 * l + h) }) t) (withSeq 64)
    let b := head 8 0x44 [(930, 5), (762, 0xFFFFFFFFFF)] full
    let ub := countUse b 0 8 0
    let p := setPb (withSeq 0) 0 3 { PbSlot.free with used := true, state := .live, layersM1 := 1, headsM1 := 1, kFmt := 1, vFmt := 1 }
    let a := head 8 0x42 [(936, 3)] p
    let ua := countUse a 0 8 0
    let u := head 8 0x45 [(968, 0), (960, 1), (954, 0), (948, 1)] (setPte (setSeq dev 0 0 { seqOf 64 with lossOk := true }) 0 (pteKey 0 1 1 0) privPage)
    let ud := modRing u 0 8 (fun g => { g with wait := .dropping [pteKey 0 1 1 0] 1 0 })
    let uu := countUse u 0 8 0
    let t := head 8 0x46 [(966, 0), (958, 1), (952, 0), (946, 1)] (withSeq 64)
    let n := head 8 0x47 [(940, 0x200000), (964, 4095)]
    let w := head 8 0x43 [(991, 1)]
    (freshHead b 0 8 = true ∧ runsNow b 0 8 0x44 = true ∧ seqCheck b 0 (handleOf (fld (headDesc b 0 8) 1023 976)) false = none ∧ useFull b 0 0 = false ∧
      fld (headDesc b 0 8) 975 954 = 0 ∧ (seqAt b 0 0).posBase.toNat ≤ 0 ∧ 64 ≤ (seqAt b 0 0).length.toNat ∧ fld (headDesc b 0 8) 761 128 = 0 ∧
      createBad ub 0 (headDesc b 0 8) 0 = none ∧ (pairsOf 2 2).any (fun x => appendHolds ub 0 (pteKey 0 x.1 x.2 0)) = false) ∧
    (runsNow a 0 8 0x42 = true ∧ freshHead a 0 8 = true ∧ fld (headDesc a 0 8) 935 128 = 0 ∧ fld (headDesc a 0 8) 975 936 = 3 ∧ attachBad ua 0 0 3 = none ∧
      (pairsOf 2 2).any (fun x => appendHolds ua 0 (pteKey 0 x.1 x.2 0)) = false ∧
      changeWaits ua 0 (some 8) (pbIndexOf 3).slot = false ∧
      (growMaps ua 0 0 ((pairsOf 2 2).map (fun x => (x.1, x.2, 0)))).isSome = true) ∧
    (runsNow u 0 8 0x45 = true ∧ rangeOut (pruneRange (headDesc u 0 8)) 2 2 = false ∧ fld (headDesc u 0 8) 902 128 = 0 ∧ (seqAt u 0 0).lossOk = true ∧
      (pruneEnds 0 8 0 false ((entriesIn uu 0 0 (pruneRange (headDesc u 0 8))).map (fun k => k.1)) 0 0 uu).isSome = true ∧
      (entriesIn uu 0 0 (pruneRange (headDesc u 0 8))).length = 1) ∧
    (isUp ud 0 = true ∧ (ud.ring 0 8).wait = .dropping [pteKey 0 1 1 0] 1 0 ∧ fld (headDesc ud 0 8) 127 120 = 0x45) ∧
    (runsNow t 0 8 0x46 = true ∧ fld (headDesc t 0 8) 975 974 = 0 ∧ rangeOut (protectRange (headDesc t 0 8)) 2 2 = false ∧ fld (headDesc t 0 8) 899 128 = 0) ∧
    (runsNow n 0 8 0x47 = true ∧ fld (headDesc n 0 8) 937 128 = 0 ∧ fld (headDesc n 0 8) 1023 1000 + (fld (headDesc n 0 8) 999 976 + 1) ≤ summSlots n 0 ∧
      fld (headDesc n 0 8) 963 940 % 64 = 0 ∧ inT0 0x200000 (8 * 4096) = true ∧ touchesPriv 0x200000 (8 * 4096) = false) ∧
    (runsNow w 0 8 0x43 = true ∧ fld (headDesc w 0 8) 990 128 = 0 ∧ bit (headDesc w 0 8) 991 = true ∧ fld (headDesc w 0 8) 1023 992 = 0) := by decide +kernel

/-- One held change of each kind, and a scan that is due. -/
theorem witness_HeldChangesAndScansRun :
    let rep : Report := { from_ := 0, answer := true, insert := true, pb := 1 }
    let s (h : HeldChange) : State := modRefPort (waiting 8 .held) 0 (fun p => { p with held := [h] })
    let fl := modCh (s (.poison 3 5)) 0 (fun ch => { ch with rel := { ch.rel with enable := true, sizeLog2 := 6, tail := 1, queue := [{ tier := 1, cls := 0, loc := 3, rings := [] }] } })
    let q := modRefPort dev 0 (fun p => { p with scans := [{ pb := 1, layer := 255, head := 63 }] })
    ((s (.report rep)).ch 0).obj.port.held = .report rep :: [] ∧ ((s (.ring 8)).ch 0).obj.port.held = .ring (8 : Ring).val :: [] ∧
    ((s (.ring 8)).ring 0 8).wait = .held ∧ ((s (.poison 3 5)).ch 0).obj.port.held = .poison 3 5 :: [] ∧ ((s (.poison 3 5)).ch 0).obj.port.sweep = none ∧
    logFull (s (.poison 3 5)) 0 = false ∧ logFull fl 0 = true ∧ (fl.ch 0).obj.port.sweep = none ∧ (fl.ch 0).obj.port.held = [.poison 3 5] ∧
    isUp (s (.report rep)) 0 = true ∧ (q.ch 0).obj.port.scans = { pb := 1, layer := 255, head := 63 } :: [] := by decide +kernel

/-- Neighbours at the edges of the ranges: 0, subnormal, the least normal, the greatest finite, infinity and NaN. -/
theorem witness_TilthRanksByClassThenMassThenAge :
    (0x00800000#32).toNat ≤ (0x7F7FFFFF#32).toNat ∧ (0x7F7FFFFF#32).toNat < 0x7F800000 ∧ (0x007FFFFF#32).toNat < 0x00800000 ∧ 0x7F800000 < (0x7F800001#32).toNat := by
  decide +kernel

/-- A record of a block at each count where the rule changes. -/
theorem witness_ReferenceCountsStick :
    let b := setPb dev 0 3 { PbSlot.free with used := true, state := .live }
    let s (n : Nat) : State := setRec b 0 (recKey 3 0 0) { Pte.empty with kind := .priv, refcnt := BitVec.ofNat 16 n }
    (∀ n : Fin 5, smWf Pte.empty ((s #v[0, 1, 65533, 65534, 65535][n]).ch 0).obj.pbRecs = true ∧
      (recAt (s #v[0, 1, 65533, 65534, 65535][n]) 0 (recKey 3 0 0)).refcnt.toNat = #v[0, 1, 65533, 65534, 65535][n]) ∧
    smWf PbSlot.free ((s 0).ch 0).obj.pbs = true ∧ recKey 3 0 0 ∈ pbRecKeys (s 0) 0 3 := by decide +kernel

/-! ### Tiers -/

/-- A channel with a small formatted T2, in pooled mode or not, 4 MiB of T1 frames, and the device's sequence. -/
def media (pooled : Bool) (s : State) : State :=
  modMarl (modObj (modCh s 0 (fun ch => { ch with cfg := { ch.cfg with tierCfg := if pooled then 0x80000000 else 0 } })) 0 (fun o => { o with mdBase := 2, poolBase := 2 })) 0
    (fun m => { m with
      dies := 16, pagesPerBlock := 4, capCeil := 3000,
      flash := { m.flash with formatted := true, sbPerGrp := [100], capFmt := 3300 } })

/-- The sequence with one page of layer 0, head 0. -/
def pageIn (p : Pte) (e : SeqEntry) : State := setPte (setSeq dev 0 0 e) 0 (pteKey 0 0 0 0) p

/-- A page in unit 5 of T2. -/
def t2Page : Pte := { privPage with tier := 2, cls := 3, loc := 5 }

/-- A page summary. -/
def summOf : Summ :=
  { mass := 0, knorm := 0, touch := 0, tilth := 0, protect := 0, ownerKind := false, ownerRef := 0, layer := 0, head := 0, pn := 0, keyScale := 0, massN := 0, mean := [] }

/-- The hypotheses of a `Place`, `Promote` or `Demote` of a sequence. -/
def placeOk (op : Nat) (s : State) : Bool :=
  let d := headDesc s 0 4
  let u := countUse s 0 4 0
  let o := seqObj u 0 0
  let ps := objPages u 0 o (placeSpan d o.layers o.heads true)
  let acts := ps.filter (fun p => !moveSkips u 0 op (placeTo d) false p.2.2)
  let n := (acts.filter (fun p => !goesHome u 0 op (placeTo d) p.2.2)).length
  runsNow s 0 4 op && freshHead s 0 4 && fld d 975 974 == 0 && fld d 859 128 == 0 && !useFull s 0 0 && (handleOf (fld d 1023 976)).slot == 0 &&
    (seqCheck s 0 (handleOf (fld d 1023 976)) (op == 0x12)).isNone && !freezing s 0 0 && !placeBad1 op d true &&
    !spanBad (placeSpan d o.layers o.heads true) o.layers o.heads && (placeBad3 u 0 op d o).isNone && acts.length == 1 && inT0 (fld d 895 872) (8 * n) &&
    (listBad u 0 d o (placeList u 0 d n)).isNone && keyLoaded u o.owner

/-- The context of the one page that moves. -/
def placeCtxOf (op : Nat) (s : State) : MoveCtx :=
  let d := headDesc s 0 4
  let u := countUse s 0 4 0
  let o := seqObj u 0 0
  placeCtx op d 0 o 0 (planMoves u 0 4 op d o (objPages u 0 o (placeSpan d o.layers o.heads true)) (placeList u 0 d 1))

/-- What a write-back of dirty pieces, and what a program has come to, where it is done. -/
def flushed (x : Flush) : Option State :=
  match x with
  | .done s => some s
  | _ => none
def progDone (x : Prog) : Option State :=
  match x with
  | .ok s _ => some s
  | _ => none

/-- The three opcodes with one page, a whole `Demote`, a `Drop`, and one that waited. -/
theorem witness_PlacementsBegin :
    let list (v : Nat) (s : State) : State := t0Write s 0 0x120000 (natLe v 8)
    let f (to_ : Nat) : List (Nat × Nat) := [(899, to_), (896, 3), (872, 0x120000), (860, 4094), (957, 1), (945, 1)]
    let one := seqOf 64
    let p := head 4 0x11 (f 1) (list 8 (media false (pageIn t2Page one)))
    let q := head 4 0x12 (f 1) (list 8 (media true (pageIn t2Page one)))
    let m := head 4 0x13 (f 2) (list 5 (media false (pageIn privPage one)))
    let z := head 4 0x13 [(973, 1), (899, 2), (896, 3), (872, 0x120000), (860, 0xFFF)] (list 5 (media false (pageIn privPage one)))
    let r := head 4 0x14 [(973, 1), (860, 0xFFF)] (pageIn privPage { one with lossOk := true })
    let dr := headDesc r 0 4
    let rd := modRing r 0 4 (fun g => { g with wait := .dropping [pteKey 0 0 0 0] 0 0 })
    placeOk 0x11 p = true ∧ freezes (placeCtxOf 0x11 p) = false ∧ placeOk 0x12 q = true ∧ freezes (placeCtxOf 0x12 q) = false ∧
    placeOk 0x13 m = true ∧ freezes (placeCtxOf 0x13 m) = false ∧ placeOk 0x13 z = true ∧ freezes (placeCtxOf 0x13 z) = true ∧
    (runsNow r 0 4 0x14 = true ∧ freshHead r 0 4 = true ∧ fld dr 975 974 = 0 ∧ fld dr 859 128 = 0 ∧ useFull r 0 0 = false ∧
      seqCheck r 0 (handleOf (fld dr 1023 976)) true = none ∧ placeBad1 0x14 dr true = false ∧ spanBad (placeSpan dr 2 2 true) 2 2 = false ∧
      (seqAt r 0 0).lossOk = true ∧
      (entriesIn r 0 0 (placeSpan dr 2 2 true)).length = 1 ∧ logFullFor r 0 4 = false ∧ dropWaits r 0 4 (pteKey 0 0 0 0) = false) ∧
    (isUp rd 0 = true ∧ (rd.ring 0 4).wait = .dropping [pteKey 0 0 0 0] 0 0 ∧ fld (headDesc rd 0 4) 127 120 = 0x14) := by decide +kernel

/-- A `Persist` of a sequence, one of a region with a dirty piece, and one that waited. -/
theorem witness_PlacementsBegin_persist :
    let one := seqOf 64
    let n := head 4 0x15 [(973, 1), (860, 0xFFF)] (media false (pageIn t2Page one))
    let dn := headDesc n 0 4
    let nw := modRing n 0 4 (fun g => { g with wait := .persistGo [] })
    let nt := takeEnv n 0 Env.clean
    let nu := countUse nt 0 4 0
    let no := seqObj nu 0 0
    let nk := useKey nu 0 no.owner
    let pages := imagePages (objPages nk 0 no (placeSpan dn 2 2 true)) true
    let given := giveHomes 0 (placeCls dn) no.owner no.size (pages.map (fun p => p.1)) [] nk 0
    let reg := head 4 0x15 [(976, 1), (974, 2), (973, 1), (860, 0xFFF)] (modRegion (media true (modObj dev 0 (fun o => { o with dirtyMap := [0] }))) 1
      (fun g => { g with state := .live, runs := [{ ch := 0, t1Base := 0, len := 0x200000, lu := 0 }] }))
    let dg := headDesc reg 0 4
    let ru := takeEnv reg 0 Env.clean
    let rk := useKey ru 0 (regionAt ru 1).owner.toNat
    let ps := persistPieces 0 (regionAt ru 1).owner.toNat (dirtyPieces rk 0 (regionAt ru 1)) rk 0
    (runsNow n 0 4 0x15 = true ∧ freshHead nt 0 4 = true ∧ fld dn 975 974 = 0 ∧ seqCheck nt 0 (handleOf (fld dn 1023 976)) false = none ∧ fld dn 859 128 = 0 ∧
      useFull nt 0 0 = false ∧ placeBad1 0x15 dn true = false ∧ placeWhole dn = true ∧ hasT2 (nu.marl 0) = true ∧ (nu.marl 0).readonly = false ∧
      keyLoaded nu no.owner = true ∧ persistBad nu 0 (placeTo dn) no (objPages nu 0 no (placeSpan dn 2 2 true)) = none ∧
      listBad nu 0 dn no [] = none ∧ isPooled nu 0 = false ∧ inT0 (fld dn 895 872) 0 = true ∧
      homesOwn nu 0 (placeCls dn) (imagePages (objPages nu 0 no (placeSpan dn 2 2 true)) true) [] = none ∧ handing nu 0 4 = none ∧ pages.length = 1 ∧
      keyHere nk 0 no.owner = true ∧ given.1 = [] ∧ given.2.1 = none ∧
      (flushed (persistDirty 0 no.owner no.size (pages.map (fun p => (p.1, false, p.2.1))) (addEvicted given.2.2.1 0 4 given.2.2.2))).isSome = true) ∧
    (runsNow reg 0 4 0x15 = true ∧ fld dg 975 974 = 2 ∧ fld dg 1023 1008 = 0 ∧ fld dg 859 128 = 0 ∧ fld dg 1007 976 = 1 ∧ regionCheck ru 1 = none ∧
      fld dg 972 901 = 0 ∧ placeWhole dg = true) ∧
    (toTierOk 0x15 (placeTo dg) = true ∧ placeCls dg < 6 ∧ placeGate dg = 0xFFF ∧ isPooled ru 0 = true ∧ hasT2 (ru.marl 0) = true ∧
      (ru.marl 0).readonly = false ∧ handing ru 0 4 = none ∧ keyHere rk 0 (regionAt ru 1).owner.toNat = true ∧
      linesReady rk (.ring 0 4) ((dirtyPieces rk 0 (regionAt ru 1)).flatMap (fun p => (linesOf (4096 * p.1) 4096).map (fun x => (0, x, false)))) = true ∧
      devOn rk (.ring 0 4) = false ∧ (dirtyPieces rk 0 (regionAt ru 1)).length = 1 ∧
      (progDone ps).any (fun t => (pageWithin t 0 (regionUnits t 0 (regionAt ru 1))).isNone) = true) ∧
    (isUp nw 0 = true ∧ (nw.ring 0 4).wait = .persistGo []) := by decide +kernel

/-- One move of the page, under way. -/
def moveOf (opcode to_ : Nat) (dest : BitVec 45) (wait3 : Bool) : MoveCtx :=
  { noMove with
    opcode := BitVec.ofNat 8 opcode, toTier := BitVec.ofNat 2 to_, cls := 3, pgate := 4094,
    moves := [{ key := pteKey 0 0 0 0, isPb := false, dest, homed := false, ended := false, wait3, later := false }] }

/-- A page that is skipped, one that is lost, one that goes to T1, one that goes to T2; a move to a host-memory window, and its answer. -/
theorem witness_PageMovesEnd :
    let st (p : Pte) (x : MoveCtx) : State := modRing (media false (pageIn p (seqOf 64))) 0 4 (fun g => { g with enable := true, tail := 1, wait := .moves x })
    let mv (x : MoveCtx) : Move := x.moves.headD { key := 0, isPb := false, dest := 0, homed := false, ended := true, wait3 := false, later := false }
    let x1 := moveOf 0x11 1 8 false
    let x2 := moveOf 0x13 2 5 false
    let skip := st privPage x1
    let down := st { privPage with loc := 16 } x2
    let unit : FlashPage := { kind := 0, stream := 1, gc := false, owner := 0, slots := 0xFF, lu := 5, wseq := 0, prev := 0, lost := 0, xor := 0, data := [] }
    let up := modMarl (st t2Page x1) 0 (fun m => { m with map := [(5, { MapEntry.none with slots := 0xFF })], buffer := [{ pua := 0, issued := true, page := unit, stale := false }] })
    let lost := addLost down 0 [512]
    let noKey : State := { down with island := { down.island with keySlots := [] } }
    let env (s : State) : State := takeEnv s 0 Env.clean
    let keyed (s : State) : State := useKey (env s) 0 0
    let x3 := moveOf 0x11 3 0 false
    let y3 := moveOf 0x11 3 0 true
    let win (x : MoveCtx) : State := modLd (modCh (st { privPage with loc := 16 } x) 0 (fun ch => { ch with link := { ch.link with
      windows := [(0, BitVec.ofNat 128 (at_ 127 1 1 + at_ 126 1 1 + at_ 45 33 8))] } })) 0 (fun d => { d with busMaster := true })
    (((skip.ring 0 4).wait = .moves x1 ∧ x1.moves[0]? = some (mv x1) ∧ (mv x1).ended = false ∧ (mv x1).wait3 = false ∧ moveT3 skip 0 x1 (mv x1) = false ∧ inTable x1 0 = true ∧
      logFull skip 0 = false ∧ journalOver skip 0 = false ∧
      moveBlocked (env skip) 0 4 (mv x1) = false ∧ moveSkips (env skip) 0 0x11 1 false (moveRef (env skip) 0 x1 (mv x1)).pte = true)) ∧
    ((down.ring 0 4).wait = .moves x2 ∧ moveT3 down 0 x2 (mv x2) = false ∧ moveBlocked (env down) 0 4 (mv x2) = false ∧
      moveSkips (env down) 0 0x13 2 false (moveRef (env down) 0 x2 (mv x2)).pte = false ∧ keyHere (keyed down) 0 x2.owner.toNat = true ∧ (mv x2).homed = false ∧
      (readPage (keyed down) 0 (moveRef (env down) 0 x2 (mv x2)) (moveSize (env down) 0 x2)).1.isSome = true ∧ x2.toTier = 2 ∧
      (progDone (programFrame down 0 (placeStream x2) 0 3 5 [] (movedKeys x2))).isSome = true) ∧
    ((readPage (keyed lost) 0 (moveRef (env lost) 0 x2 (mv x2)) (moveSize (env lost) 0 x2)).1.isNone = true ∧ keyHere (keyed lost) 0 0 = true ∧
      moveSkips (env noKey) 0 0x13 2 false (moveRef (env noKey) 0 x2 (mv x2)).pte = false ∧ keyHere (keyed noKey) 0 0 = false) ∧
    (moveSkips (env up) 0 0x11 1 false (moveRef (env up) 0 x1 (mv x1)).pte = false ∧ x1.toTier = 1 ∧ guarded up 0 8 16 = false ∧
      (readPage (keyed up) 0 (moveRef (env up) 0 x1 (mv x1)) (moveSize (env up) 0 x1)).1.isSome = true) ∧
    (((win x3).ring 0 4).wait = .moves x3 ∧ x3.moves = [mv x3] ∧ (mv x3).ended = false ∧ (mv x3).wait3 = false ∧ x3.toTier = 3 ∧ moveT3 (win x3) 0 x3 (mv x3) = true ∧ inTable x3 0 = true ∧ idleMoves3 (win x3) 0 5 = [] ∧
      logFull (useKey (win x3) 0 0) 0 = false ∧ keyHere (useKey (win x3) 0 0) 0 x3.owner.toNat = true ∧
      moveBlocked (win x3) 0 4 (mv x3) = false ∧ moveSkips (win x3) 0 0x11 3 false (moveRef (win x3) 0 x3 (mv x3)).pte = false ∧
      (windowAt (win x3) 0 (t3Window (mv x3).dest)).valid = true ∧ (windowAt (win x3) 0 (t3Window (mv x3).dest)).host = true ∧
      t3Offset (mv x3).dest + ceilDiv (moveSize (win x3) 0 x3) 2048 ≤ (windowAt (win x3) 0 (t3Window (mv x3).dest)).len ∧
      (readPage (useKey (win x3) 0 0) 0 (moveRef (win x3) 0 x3 (mv x3)) (moveSize (win x3) 0 x3)).1.isSome = true ∧ ldOfCh (win x3) 0 = some 0 ∧ ((win x3).ld 0).busMaster = true) ∧
    (((win y3).ring 0 4).wait = .moves y3 ∧ y3.moves[0]? = some (mv y3) ∧ (mv y3).wait3 = true ∧
      (windowAt (win y3) 0 (t3Window (moveLoc3 (win y3) 0 y3 (mv y3)))).host = true ∧ y3.stopped = false ∧ y3.toTier = 3 ∧ logFull (win y3) 0 = false) := by decide +kernel

/-- A page that carries the highest gate, in pooled mode, under a `Promote` from T2. -/
theorem witness_MoveEndWritesItsRecord :
    let s := media true (pageIn { t2Page with pgate := 4094 } (seqOf 64))
    let x := moveOf 0x12 1 8 false
    smWf Pte.empty (s.ch 0).obj.ptes = true ∧ smWf Pte.empty (s.ch 0).obj.pbRecs = true ∧ smWf (0 : Word32) (s.ch 0).gates = true ∧
    smWf HomeEntry.none (s.ch 0).obj.homes = true ∧ x.pgate ≠ 0xFFF ∧ (pageAt s 0 false (pteKey 0 0 0 0)).kind ≠ .empty ∧ isPooled s 0 = true := by decide +kernel

/-- A dirty piece of a homed page, and a dirty region piece, each the only entry of the queue; a write-back in flight that Marl accepts, one whose
acceptance waits, and one of a region. -/
theorem witness_WriteBackTakesTheHead :
    let pg : Pte := { privPage with dirty := 1 }
    let e : WbEntry := { region := false, piece := 0, ref := 1, stamp := 0 }
    let g : WbEntry := { region := true, piece := 0, ref := 0, stamp := 0 }
    let h : HomeEntry := { homed := true, wbBusy := false, home := 5, cls := 3 }
    let run : HomeRun := { ch := 0, t1Base := 0, len := 0x200000, lu := 7 }
    let s := modObj (media true (pageIn pg (seqOf 64))) 0 (fun o => { o with wbq := [e], summs := [(1, summOf)], homes := [(1, h)] })
    let t := modRegion (modObj (media true dev) 0 (fun o => { o with wbq := [g], dirtyMap := [0] })) 1 (fun g => { g with state := .live, runs := [run] })
    let k := useKey (wbPop (takeEnv s 0 Env.clean) 0) 0 0
    let tk := useKey (takeEnv t 0 Env.clean) 0 0
    let x : WbRun := { region := false, ref := 1, unit := 0, owner := 0, lu := 5, mask := 255, off := 0, bytes := [], home := 5 }
    let y : WbRun := { x with region := true, ref := 0, lu := 7, mask := 3, home := 0 }
    let flight (x : WbRun) (few : Bool) : State := modFlash (modObj (if x.region then t else s) 0 (fun o => { o with wbRun := some x })) 0
      (fun f => { f with sbPerGrp := if few then [1] else [100] })
    let handed (x : WbRun) (few : Bool) : Option State := handUnit (useKey (flight x few) 0 0) 0 0 x.owner x.lu x.mask x.off x.region x.bytes
    ((s.ch 0).obj.wbq = e :: [] ∧ isUp s 0 = true ∧ (s.ch 0).obj.wbRun = none ∧ takeDue s 0 e true = true ∧ smGet? ((wbPop s 0).ch 0).obj.summs 1 = some summOf ∧
      summOf.ownerKind = false ∧ (summPage (wbPop s 0) 0 summOf).2 = pteKey 0 0 0 0 ∧ pteAt (wbPop s 0) 0 (pteKey 0 0 0 0) = pg ∧ pg.tier = 1 ∧
      pg.summIdx.toNat = 1 ∧ homeAt (wbPop s 0) 0 1 = h ∧ h.homed = true ∧ pg.dirty.getLsbD 0 = true ∧ keyHere k 0 0 = true ∧
      (k.marl 0).readonly = false ∧ homeSealed k 0 h = false ∧
      orphanPieces k 0 (pageRefOf k 0 false (pteKey 0 0 0 0) 0) (seqObj (wbPop s 0) 0 0).size [0, 1, 2, 3] = false ∧
      (recoverPieces k 0 (pageRefOf k 0 false (pteKey 0 0 0 0) 0) (seqObj (wbPop s 0) 0 0).size [0, 1, 2, 3]).isSome = true) ∧
    ((t.ch 0).obj.wbq = g :: [] ∧ takeDue t 0 g true = true ∧ runAt t 0 0 = some (1, run) ∧ 0 ∈ (tk.ch 0).obj.dirtyMap ∧ pieceBad tk 0 0 = false ∧ keyHere tk 0 0 = true ∧ (tk.marl 0).readonly = false ∧
      linesReady tk (.wb 0) ((linesOf 0 4096).map (fun y => (0, y, false))) = true ∧ devOn tk (.wb 0) = false ∧ (mapAt tk 0 (runUnit run 0).1).sealed = false) ∧
    (((flight x false).ch 0).obj.wbRun = some x ∧ keyHere (useKey (flight x false) 0 0) 0 0 = true ∧ ((useKey (flight x false) 0 0).marl 0).readonly = false ∧
      (homeAt (flight x false) 0 1).homed = true ∧ (homeAt (flight x false) 0 1).home = x.home ∧ homeSealed (useKey (flight x false) 0 0) 0 (homeAt (flight x false) 0 1) = false ∧
      (handed x false).isSome = true ∧ (handed x true).isNone = true) ∧
    ((handed y false).isSome = true ∧ keyHere (useKey (flight y false) 0 0) 0 0 = true ∧ (mapAt (useKey (flight y false) 0 0) 0 y.lu).sealed = false ∧ regionNoRoom (useKey (flight y false) 0 0) 0 y.lu = false) := by decide +kernel

/-! ### The host's registers and memory -/

/-- A ring of channel 11 that is off, one that is on; a register access of 8 bytes at 4 and one of 3 bytes. -/
theorem witness_RegisterWritesRun :
    hostReaches dev 0 11 = true ∧ fenced dev 11 = false ∧ (dev.ring 11 8).enable = false ∧ (dev.ring 11 8).stop = false ∧
    hostReaches (waiting 4 .idle) 0 0 = true ∧ ((waiting 4 .idle).ring 0 4).enable = true ∧ ioUp dev 0 = true ∧ ioUp State.reset 0 = false ∧ 2047 < 2048 ∧
    ¬ ((8 = 4 ∨ 8 = 8) ∧ 4 % 8 = 0) ∧ ¬ ((3 = 4 ∨ 3 = 8) ∧ 3 % 3 = 0) := by decide +kernel

/-- The two words of an access of 8 bytes at ACCESS_ERR and the word before it. -/
theorem witness_RegisterWritesRun_pair :
    0x20008 % 8 = 0 ∧ ∃ t : State, exec (.registerWrite 0 0x20008 (.word 0)) dev = .next t ∧ ioUp dev 0 = true ∧ ioUp t 0 = true :=
  ⟨by decide, _, rfl, by decide +kernel, by decide +kernel⟩

theorem witness_RegisterWriteAgreesWithItsRow :
    4094 < 4095 ∧ 4095 < 4096 ∧ (0x80060001#32).getLsbD 31 = true ∧ (0xC0060002#32).getLsbD 30 = true ∧ (0x40060000#32).getLsbD 31 = false ∧
    (0x2#32).getLsbD 1 = true := by decide +kernel

/-- Logical device 0 with 1 GiB of static partition: a frame window and a metadata window of 2 MiB, one extent of partition 0 and one of partition 3,
in a region that admits the device. -/
def hostMem : State :=
  let g (part dpa t1 : Nat) : Grant := { ld := 0, part, dpa, len := 0x200000, region := 1, ch := 0, t1, owner := 0, live := true, leaving := false, by_ := 0 }
  modLd { withRegion with island := { withRegion.island with
      regions := smPut withRegion.island.regions 1 { Region.free with
        state := .live, regs := [(0, { valid := true, revoked := false, kind := 0, rights := 15, unit := 0, conn := 0, regEp := 0, revEp := 0 })] }
      grants := [g 0 (2 ^ 30) 0, g 3 (2 ^ 30 + 3 * 2 ^ 40) 0x200000] } } 0
    (fun d => { d with
      cfg := 0x1C001000,
      win := #v[BitVec.ofNat 128 (at_ 127 1 1 + at_ 32 16 1), BitVec.ofNat 128 (at_ 127 1 1 + at_ 125 2 1 + at_ 76 20 1 + at_ 48 16 1 + at_ 32 16 1),
                0, 0, 0, 0, 0, 0, 0, 0, 0, 0, 0, 0, 0, 0] })

/-- The first line above the windows, the last of the static partition, and the first above the extents; the metadata window. -/
theorem witness_UnmappedAndReadOnlyAccesses :
    memEnabled hostMem 0 = true ∧
    (∀ i : Fin 3, let a := #v[0x400000, 2 ^ 30 - 64, 2 ^ 30 + 0x200000][i]
      (∀ w ∈ winsOf hostMem 0, w.valid = true → a < staticLen hostMem 0 → ¬ (w.dpa ≤ a ∧ a < w.dpa + w.len)) ∧
      (inDb hostMem 0 a = true → (hostMem.ld 0).lapsed = false) ∧
      (∀ g ∈ hostMem.island.grants, g.live = true → g.ld = (0 : Ld).val → (g.part < 2 ∨ hostMem.host.flit256 = true) → staticLen hostMem 0 ≤ a → ¬ (g.dpa ≤ a ∧ a < g.dpa + g.len))) ∧
    targetOf hostMem 0 0x3FFFC0 = .meta_ 0 0x3FFFC0 := by decide +kernel

/-- The first line of partition 2, which nothing maps, and the last line of partition 3; a rate and width that the port has. -/
theorem witness_LapsedAccesses :
    let s := modLd hostMem 0 (fun d => { d with lapsed := true })
    memEnabled s 0 = true ∧ (s.ld 0).lapsed = true ∧
    staticLen s 0 + 2 * 2 ^ 40 ≤ (2 ^ 30 + 2 * 2 ^ 40) / 64 * 64 ∧ (2 ^ 30 + 2 * 2 ^ 40) / 64 * 64 < staticLen s 0 + 4 * 2 ^ 40 ∧
    staticLen s 0 + 2 * 2 ^ 40 ≤ (2 ^ 30 + 4 * 2 ^ 40 - 64) / 64 * 64 ∧ (2 ^ 30 + 4 * 2 ^ 40 - 64) / 64 * 64 < staticLen s 0 + 4 * 2 ^ 40 ∧
    trains s 4 4 = true ∧ trains s 16 16 = true ∧ (0 : Ld) ∈ lds s ∧ ({ s with build := { s.build with mld := true } } : State).build.mld = true := by decide +kernel

/-- Each kind of line that the statement names, at the ends of its window or extent; outstanding snoops. -/
theorem witness_HostMemoryAccessesRun :
    let ext (a part : Nat) : Bool := match targetOf hostMem 0 a with
      | .extent c g _ => c == 0 && g.part == part && g.region.toNat == 1
      | _ => false
    let u := takeEnv hostMem 0 Env.clean
    let k := useKey u 0 0
    let sn := modCh dev 0 (fun ch => { ch with snoops := [{ line := 5, lds := [0], data := true, done := false, next := [.dev (.wb 0) false] }] })
    memEnabled hostMem 0 = true ∧ isUp hostMem 0 = true ∧ targetOf hostMem 0 0x1FFFC0 = .frame 0 0 0x1FFFC0 ∧ keyHere k 0 0 = true ∧ keyHere (useKey hostMem 0 0) 0 0 = true ∧
    (0x1FFFC0 / 64) ∉ (k.ch 0).t1Orphan ∧ (memRead k 0 0 0x1FFFC0 64).1.isSome = true ∧ targetOf hostMem 0 0x200000 = .meta_ 0 0x200000 ∧
    ext (2 ^ 30) 0 = true ∧ ext (2 ^ 30 + 3 * 2 ^ 40) 3 = true ∧ admitTest (regionAt hostMem 1) 0 0 0 rightRead = .ok 0 ∧
    admitTest (regionAt hostMem 1) 0 0 0 rightWrite = .ok 0 ∧ (hostMem.ld 0).lapsed = false ∧ entryAt hostMem 0 0 = none ∧ entryAt hostMem 0 0x8000 = none ∧
    wbHolds (regionCount hostMem 1 0) 0 false 0 64 = false ∧ wbHolds (regionCount hostMem 1 0) 0 false 0 63 = false ∧ wbHolds (regionCount hostMem 1 0) 0 false 0x200000 64 = false ∧
    readNeed (regionCount u 1 0) 0 0 0x8000 true = .go ∧ writeNeed (regionCount hostMem 1 0) 0 0 0x8000 = .go ∧
    (snoopsOut sn 0).any (fun x => x.1 == 5) = true ∧
    (snoopsOut sn 0).any (fun x => x.1 == 5 && x.2.1 == (0 : Ld).val) = true := by decide +kernel

/-- The last line before the private areas, one within them, and the first bytes of T0, in channel 11. -/
theorem witness_T0WindowReadsWhatItWrote :
    hostReaches dev 0 11 = true ∧ chMemOk (dev.ch 11) = true ∧ touchesPriv 0xDFFFC0 64 = false ∧ 0xDFFFC0 / 64 = (0xDFFFC0 + 64 - 1) / 64 ∧
    touchesPriv 0xE00000 4 = true ∧ touchesPriv 0 4 = false ∧ 0 / 64 = (0 + 4 - 1) / 64 ∧ 60 / 64 = (60 + 4 - 1) / 64 ∧
    4 ≤ (List.replicate 64 (0 : Byte)).length ∧ 60 / 64 ≠ (60 + 64 - 1) / 64 := by decide +kernel

theorem witness_HostPortEventsRun :
    let p := modLd dev 0 (fun d => { d with pba := [2047] })
    ({ dev with build := { dev.build with mld := true } } : State).build.mld = true ∧ dev.host.cxl = true ∧ ioUp dev 0 = true ∧ ioUp p 0 = true ∧ ldFenced dev 0 = false ∧ 16 ∈ [1, 2, 3, 4, 6, 8, 12, 16] ∧
    16384 ∈ [256, 512, 1024, 2048, 4096, 8192, 16384] ∧ decoderBase dev 0 7 + decoderSpan { base := 0, size := 2 ^ 42, skip := 0, ways := 1, gran := 256 } ≤
      staticLen dev 0 + 4 * 2 ^ 40 ∧
    decoderOk dev 0 7 { base := 0, size := 2 ^ 42, skip := 0, ways := 5, gran := 256 } = false ∧ (p.ld 0).pba.contains 2047 = true ∧ (p.ld 0).funcMask = false ∧ (dev.ld 0).pba.contains 2047 = false := by
  decide +kernel

/-- Mailbox 0 of logical device 0, the device's own and so the fabric manager's in SLD mode, serves every opcode; an offer, grants, an event record, an extent
that passes R325 and one that does not. -/
theorem witness_CxlCommandsAnswer :
    let offer : Grant := { ld := 0, part := 0, dpa := 2 ^ 30, len := 0x200000, region := 1, ch := 0, t1 := 0, owner := 0, live := false, leaving := false, by_ := 33 }
    let s := { hostMem with island := { hostMem.island with grants := [offer, { offer with live := true, dpa := 2 ^ 30 + 0x200000, t1 := 0x200000 }] } }
    let tag := BitVec.ofNat 128 (at_ 96 32 1)
    let ev := modLd dev 0 (fun d => { d with dcLog := [(7, 0, 0, 0)] })
    (∀ i : Fin 18, mbServes hostMem 0 #v[0x4000, 0x0400, 0x0401, 0x4300, 0x4302, 0x0100, 0x0101, 0x4800, 0x4801, 0x4802, 0x4803, 0x0002, 0x0005, 0x5402, 0x5400, 0x5600,
      0x5604, 0x5605][i] = true) ∧ mbLd 0 = some 0 ∧ mbFm hostMem 0 = true ∧ targetOf hostMem 0 0x1FFFC0 = .frame 0 0 0x1FFFC0 ∧ isUp hostMem 0 = true ∧
    [7].all (fun h => (ev.ld 0).dcLog.any (fun e => e.1 == h)) = true ∧
    [((2 ^ 30 : Nat), 0x200000)].all (fun e => (s.island.grants.filter (fun g => !g.live && g.ld == 0)).any (fun g => g.dpa == e.1 && g.len == e.2)) = true ∧
    [((2 ^ 30 + 0x200000 : Nat), 0x200000)].all (fun e => (s.island.grants.filter (fun g => g.live && !g.leaving && g.ld == 0)).any (fun g => g.dpa == e.1 && g.len == e.2)) = true ∧
    wbHolds hostMem 0 false 0x1FFFC0 64 = false ∧ extentBad hostMem 0 1 0 0 0 = some .badField ∧ extentBad withRegion 0 0 0x200000 0x200000 tag = none ∧ mbServes withRegion 0 0x5604 = true ∧ mbFm withRegion 0 = true ∧ chOf (fld tag.toNat 95 92) = some 0 ∧
    runAt withRegion 0 (fld tag.toNat 91 76 * 0x200000) = none ∧
    s.island.grants.find? (fun g => g.ld == 0 && g.dpa == 2 ^ 30 && g.len == 0x200000 && !g.leaving) = some offer := by decide +kernel

/-- The part of a log that has no bytes. -/
theorem witness_CxlCommandsAnswer_log : 0 + 0 ≤ (Config.cxlLog celUuid).length := Nat.zero_le _
/-! ### Kiln, security and regions -/

/-- A staged word: OBJ_CFG of channel 0 at its reset value. -/
def objWord : Staged := { ld := 0, off := 0x100500, mask := 0xFFFFFFFF, value := 0xA4702000 }

/-- A state with words staged at mailbox 0. -/
def staged (s : State) : State := { s with island := { s.island with staging := s.island.staging.set 0 [objWord] } }

/-- A channel that is Absent though its stack interface is connected. -/
def gone (s : State) (c : Ch) : State := modCh s c (fun ch => { ch with state := .absent })

/-- Mailbox 0, logical device 0's own and the fabric manager's in SLD mode, and the sideband; payloads at the bounds of their checks; a fence that stands and
one that does not; a channel that is up and one that has left the present set; a commit and a poll that wait. -/
theorem witness_KilnCommandsRun :
    let busy := staged (waiting 8 .sweep)
    let cm : Commit := { mb := 0, words := [objWord], chans := [0] }
    let waits : State := { dev with island := { dev.island with commit := some cm } }
    let held : State := { waits with island := { waits.island with kiln := .booting } }
    let poll : HealthPoll := { mb := 32, off := 0, len := 64, wait := [11] }
    let polled : State := { dev with island := { dev.island with poll := some poll } }
    (∀ i : Fin 8, mbServesRec dev 0 #v[0xC000, 0xC001, 0xC003, 0xC015, 0xC020, 0xC021, 0xC030, 0xC031][i] = true) ∧
    (∀ i : Fin 6, mbServes dev 0 #v[0xC002, 0xC010, 0xC011, 0xC012, 0xC013, 0xC014][i] = true) ∧ mbServes dev sidebandMb 0xC004 = true ∧
    (dev.mb 0).bg = none ∧ (dev.mb sidebandMb).bg = none ∧
    (let inp := natLe 28668 2 ++ natLe 4 2
     inp.length = 4 ∧ bnum inp 0 2 + bnum inp 2 2 ≤ 28672 ∧ bnum inp 2 2 ≤ 4096) ∧
    (let inp := natLe 1 8 ++ natLe 0 16
     2 ≤ inp.length ∧ inp.length = 8 + 16 * bnum inp 0 2) ∧
    (staged dev).island.staging[0] ≠ [] ∧ mbServes (staged dev) 0 0xC014 = true ∧ mbServes busy 0 0xC014 = true ∧ busy.island.staging[0] ≠ [] ∧
    fenceStands (staged dev) ((affectedChs (staged dev) [objWord]).map (fun c => c.val)) = true ∧
    fenceStands busy ((affectedChs busy [objWord]).map (fun c => c.val)) = false ∧
    (let inp := natLe 0 1 ++ natLe 0x7000 2 ++ natLe 0x1000 2
     inp.length = 5 ∧ (lds dev).find? (fun l => l.val == bnum inp 0 1) = some 0 ∧ mbNamesLd dev 0 0 = true ∧ 0x1000 ≤ bnum inp 1 2 ∧
       bnum inp 1 2 + bnum inp 3 2 ≤ 0x8000 ∧ bnum inp 3 2 ≤ 4096) ∧
    bnum ([63, 0, 1] : List Byte) 2 1 ≤ 1 ∧ chOf (bnum ([11] : List Byte) 0 1) = some 11 ∧ mbNamesCh dev 0 11 = true ∧ (dev.ch 11).state ≠ .absent ∧
    (dev.ch 11).connected = true ∧ ((tripRelease (mbStart dev 0 0xC031 (.chReset 11))).ch 11).state ≠ .absent ∧
    ((gone dev 11).ch 11).connected = true ∧ ((tripRelease (mbStart (gone dev 11) 0 0xC031 (.chReset 11))).ch 11).state = .absent ∧
    waits.island.commit = some cm ∧ waits.island.kiln = .running ∧ fenceStands waits cm.chans = true ∧ cm.mb < 33 ∧ held.island.commit = some cm ∧ held.island.kiln ≠ .running ∧
    polled.island.poll = some poll ∧ poll.mb < 33 ∧ poll.wait.contains (11 : Ch).val = true := by decide +kernel

/-- The highest key slot, Empty and Loaded; the last bytes of the firmware area; complete images; a purge and a destruction that wait for channel 11; Kiln
booting and running; a slot whose map commit is due. -/
theorem witness_SecurityCommandsRun :
    let img : FwCopy := { bytes := [(12, 0), (13, 0), (14, 0), (15, 0)], pages := [0], begun := true }
    let up : State := { dev with island := { dev.island with fw := { dev.island.fw with copyB := img, recovery := img } } }
    let key (k : KeySlot) (s : State) : State := modKey s 4095 (fun _ => k)
    let loaded := key { KeySlot.none with state := .loaded } dev
    let purging := key { KeySlot.none with state := .purging, purge := [11] } dev
    let d : KeyDestroying := { mb := 32, slot := 4095, wait := [11], isolated := 0 }
    let destroying : State := { dev with island := { dev.island with destroy := some d } }
    let boot : State := { dev with island := { dev.island with kiln := .booting } }
    let map := modCh dev 0 (fun ch => { ch with eng := { ch.eng with mapDue := [0] } })
    let slot := natLe 4095 2
    let last := natLe 0x3FFFFF 4
    (∀ i : Fin 4, mbServes dev 0 #v[0xC070, 0xC072, 0xC080, 0xC081][i] = true) ∧ mbServesRec loaded 0 0xC071 = true ∧ mbServesRec dev 0 0xC082 = true ∧
    (slot ++ List.replicate 145 0).length = 147 ∧ bnum slot 0 2 < 4096 ∧ mbNamesKey dev 0 4095 = true ∧ (keySlot dev 4095).state = .empty ∧
    slot.length = 2 ∧ mbNamesKey loaded 0 4095 = true ∧ (keySlot loaded 4095).state = .loaded ∧
    4 ≤ (last ++ [0]).length ∧ (last ++ [0]).length ≤ 4092 ∧ mbFm dev 0 = true ∧ bnum (last ++ [0]) 0 4 + ((last ++ [0]).length - 4) ≤ 0x400000 ∧
    mbServes up 0 0xC081 = true ∧ mbFm up 0 = true ∧ (up.mb 0).bg = none ∧ fwComplete (fwIdle up.island.fw) = true ∧
    5 ≤ (last ++ [0, 0]).length ∧ bnum (last ++ [0, 0]) 0 4 + ((last ++ [0, 0]).length - 5) ≤ 0x400000 ∧ bnum (last ++ [0, 0]) 4 1 = 0 ∧
    bnum ([0, 16, 0, 0, 1] : List Byte) 4 1 = 1 ∧ bnum ([0, 16, 0, 0, 1] : List Byte) 0 4 = 4096 ∧ fwComplete (fwProgram up.island.fw.recovery 4096 []) = true ∧
    (isUp purging 11 = true ∧ (keySlot purging 4095).purge.contains (11 : Ch).val = true) ∧
    (destroying.island.destroy = some d ∧ d.mb < 33 ∧ d.wait.contains (11 : Ch).val = true) ∧
    (boot.island.supply.aon = true ∧ boot.island.kiln = .booting ∧ dev.island.supply.aon = true ∧ dev.island.kiln = .running) ∧
    ((map.ch 0).eng.mapDue ≠ [] ∧ map.island.commit = none ∧ map.island.kiln = .running) := by decide +kernel

/-- Each endpoint that a transport serves in SLD mode (logical device 0 and I3C) and one of MLD mode; an open session; an active stream. -/
theorem witness_MessagesAreAnswered :
    let mld : State := { dev with build := { dev.build with mld := true } }
    let open_ := modHost dev (fun h => { h with sessions := [(3, .i3c)] })
    let ide := modHost dev (fun h => { h with ideLinkMem := { keys := [((⟨true, 0⟩, 1), 0, 0)], active := [(⟨true, 0⟩, 1)], skid := false, insecure := false } })
    epUp dev (.host 0) = true ∧ epUp dev .i3c = true ∧ epUp mld .fm = true ∧ (0 : Byte).toNat ∉ [1, 2, 4, 5] ∧ (255 : Byte).toNat ∉ [1, 2, 4, 5] ∧
    ([] : List Byte).length ≤ 4096 ∧ mbServesRec dev (epMb (.host 0)) 0xC000 = true ∧ epMb .i3c = sidebandMb ∧ mbServesRec dev sidebandMb 0xC000 = true ∧
    epMb (.host 0) ≠ sidebandMb ∧ mbServes dev (epMb .i3c) 0xC002 = true ∧ (5 : Byte).toNat ≤ 5 ∧ (1 : Byte).toNat ≤ 1 ∧ dev.host.sessions.length < 8 ∧
    spdmPlain dev.build { version := 0x10, code := 0x84, param1 := 0, param2 := 0, data := [], session := none } = some [0x10, 0x04, 0, 0, 0, 1, 0x00, 0x12] ∧
    (0xFE : Byte).toNat ∈ [0xE5, 0xE8, 0xE9, 0xEC, 0xFE] ∧ (3, Endpoint.i3c) ∈ open_.host.sessions ∧ (0x85 : Byte).toNat ∉ [0x81, 0x82, 0x83, 0x84, 0xE1, 0xE3, 0xE5, 0xE8, 0xE9, 0xEC, 0xFE] ∧
    open_.host.sessions.find? (fun x => x.1 == 3) = some (3, .i3c) ∧ epUp open_ .i3c = true ∧ (ideGet ide.host .linkMem).active ≠ [] ∧
    sidebandUp dev = true ∧ (0x58 : BitVec 7) = 0x58 + dev.build.strap.setWidth 7 := by decide +kernel

/-- A region Live at index 1 with a KIND 1 registration; a pooled channel; each command at a bound of its payload. -/
theorem witness_RegionAndConnectionCommandsRun :
    let s := modRegion (modObj (media true dev) 0 (fun o => { o with poolBase := 2 })) 1 (fun g => { g with
      state := .live, regs := [(0, { valid := true, revoked := false, kind := 1, rights := 15, unit := 0, conn := 0, regEp := 0, revEp := 0 }),
        (1, { valid := true, revoked := false, kind := 0, rights := 15, unit := 0, conn := 0, regEp := 0, revEp := 0 })] })
    let create := natLe 65535 2 ++ natLe 0 1 ++ natLe 4095 2
    let home := natLe 1 4 ++ natLe 0 1 ++ natLe 1 2 ++ natLe 1 2 ++ natLe 128 4
    let reg := natLe 1 4 ++ natLe 1 1 ++ natLe 0 1 ++ natLe 0 2 ++ natLe 15 1
    let reg2 := natLe 1 4 ++ natLe 2 1 ++ natLe 11 1 ++ natLe 0 2 ++ natLe 15 1
    let drain := modRegion dev 1 (fun g => { g with revokes := [{ regs := [0], point := true, again := [] }] })
    let adm := modRing s 0 6 (fun g => { g with wait := .drain 1 0 })
    let conn := modConn s 0 255 (fun k => { k with state := .ready })
    let connIn := natLe 0 1 ++ natLe 255 2 ++ natLe 0 43
    (∀ i : Fin 13, mbServes s 0 #v[0xC050, 0xC051, 0xC052, 0xC053, 0xC054, 0xC055, 0xC056, 0xC060, 0xC061, 0xC062, 0xC063, 0xC064, 0xC065][i] = true) ∧
    mbFm s 0 = true ∧ (s.mb 0).bg = none ∧
    (create.length = 5 ∧ chOf (bnum create 2 1) = some 0 ∧ bnum create 3 2 < 4096 ∧ (regionAt s (bnum create 0 2)).state = .free ∧ isUp s 0 = true ∧
      hasT2 (s.marl 0) = true ∧ (allocNodes s 0 [.region (bnum create 0 2)]).isSome = true) ∧
    (regionCheck s 1 = none ∧ home.length = 13 ∧ chOf (bnum home 4 1) = some 0 ∧ homeBad s 1 0 (bnum home 5 2) (bnum home 7 2) (bnum home 9 4) = none) ∧
    (reg.length = 9 ∧ regFieldsOk (bnum reg 4 1) (bnum reg 5 1) (bnum reg 6 2) (bnum reg 8 1) = true ∧
      regIndex (regionAt s 1) (bnum reg 4 1) (bnum reg 5 1) (bnum reg 6 2) = some 0 ∧ (smGet? (regionAt s 1).regs 0).any (fun x => x.revoked) = false ∧
      regFieldsOk (bnum reg2 4 1) (bnum reg2 5 1) (bnum reg2 6 2) (bnum reg2 8 1) = true ∧
      regIndex (regionAt s 1) (bnum reg2 4 1) (bnum reg2 5 1) (bnum reg2 6 2) = none ∧ bnum reg2 4 1 ≠ 0 ∧ regsValid (regionAt s 1) < 128) ∧
    ((natLe 1 4 ++ natLe 0 1).length = 5 ∧ (smGet? (regionAt s 1).regs (bnum (natLe 1 4 ++ natLe 0 1) 4 1)).any (fun x => x.valid) = true ∧ (natLe 1 4).length = 4 ∧
      s.island.grants.any (fun g => g.live && g.region == BitVec.ofNat 32 (bnum (natLe 1 4) 0 4)) = false) ∧
    (mbLd 0 = some 0 ∧ admitTest (regionAt s 1) 0 0 0 rightPublish = .ok 0 ∧ (natLe 1 4 ++ natLe 0 16).length = 20) ∧
    (mbNamesCh s 0 0 = true ∧ connIn.length = 46 ∧ connBad s 0 connIn = false ∧ (connAt s 0 255).state = .closed ∧ (allocNodes s 0 (connNodes 255)).isSome = true) ∧
    (mbServes conn 0 0xC061 = true ∧ 255 < connCount conn 0 ∧ 0 < 3 ∧ 3 < 4 ∧ (connAt conn 0 255).state ≠ .closed) ∧
    ((windowOf (BitVec.ofNat 128 0)).valid = false ∧ (windowOf (BitVec.ofNat 128 (2 ^ 127))).valid = true ∧ (windowAt s 0 4095).valid = false ∧
      (allocNodes s 0 ((List.range 16).map (fun j => .window j))).isSome = true ∧ fld 0 40 16 = 0 ∧ fld 0 62 61 ≠ 3) ∧
    ((regionAt drain 1).revokes ≠ [] ∧ (adm.ring 0 6).wait = .drain 1 0 ∧ drainOf (regionAt adm 1) 0 ≠ 0xFFFFFF) := by decide +kernel

/-! ### Media, supply and links -/

/-- A small T2 with no supply hold. -/
def flash0 : State := modMarl (media false dev) 0 (fun m => { m with hold := false })

/-- A page of unit 5, in stream 1. -/
def unitPage : FlashPage := { kind := 0, stream := 1, gc := false, owner := 0, slots := 0xFF, lu := 5, wseq := 0, prev := puaNone, lost := 0, xor := 0, data := [] }

/-- A closed stripe block, with the rest of its entry as a free one has it. -/
def closedSbInfo : SbInfo := { SbInfo.fresh with state := .closed }

/-- An issued stripe, and one of which no member takes the next program; a part-filled stripe; a marked stripe block to collect, and one collected and ready for its erase, with the
journal's record of it durable; a journal of twelve stripe blocks; a durable checkpoint; a full journal page, and one that a checkpoint waits for; a mapped unit, on good
dies and on a failed one; a stripe block under erase; the last die; both sampling bounds; and the media commands, with an empty run and one at
the end of the exported units, and a format and a discard under way. -/
theorem witness_MediaCommandsRun :
    let m0 := flash0.marl 0
    let w (f : Marl → Marl) : Marl := f m0
    let prog := w (fun m => { m with buffer := [{ pua := 0, issued := true, page := unitPage, stale := false }] })
    let part : OpenSb := { stream := 0, group := 0, sb := 5, stripe := 0, filled := 1 }
    let pad := w (fun m => { m with opens := [part] })
    let old := modMarl flash0 0 (fun m => { m with marked := [7], table := { m.table with sbs := [(7, closedSbInfo)] } })
    let due := w (fun m => { m with due := [sbKey 0 7], flash := { m.flash with jnext := 1 } })
    let long := w (fun m => { m with flash := { m.flash with jcount := 1000 } })
    let ck := w (fun m => { m with ckptStep := 1, flash := { m.flash with jnext := 2 } })
    let full := w (fun m => { m with jbuf := List.replicate 510 .pad })
    let wants := modMarl flash0 0 (fun m => { m with jbuf := [.pad], ckptStep := 1, flash := { m.flash with jnext := 1 } })
    let mapped := modMarl flash0 0 (fun m => { m with map := [(5, { MapEntry.none with mapped := true, pua := 1 })] })
    let dead := modMarl mapped 0 (fun m => { m with table := { m.table with failed := [1] } })
    let erase := modMarl flash0 0 (fun m => { m with table := { m.table with sbs := [(sbKey 0 7, { closedSbInfo with erasing := true })] } })
    let e := luExport m0
    let fmt := mbStart flash0 0 0xC040 (.mediaFormat 0)
    let dis := mbStart flash0 0 0xC042 (.mediaDiscard 0)
    isUp flash0 0 = true ∧ hasT2 m0 = true ∧ oldestStripe prog 1 0 = some 0 ∧ jFull prog = false ∧ m0.hold = false ∧
    openOf pad 0 0 = some part ∧ 0 < part.filled ∧
    gcRun old 0 = true ∧ victim (old.marl 0) = some 7 ∧
    eraseReady due (sbKey 0 7) = true ∧ (sbAt due (sbKey 0 7)).erasing = false ∧ groupOk due 0 = true ∧
    journalLong long = true ∧ ck.ckptStep ≠ 0 ∧ ck.ckptStep < durableJseq ck ∧
    full.jbuf ≠ [] ∧ jPageRecords ≤ full.jbuf.length ∧ jWaiter wants 0 = true ∧ (wants.marl 0).jbuf ≠ [] ∧
    (mapAt mapped 0 5).mapped = true ∧ (mapped.marl 0).table.failed.contains (puaDie (mapAt mapped 0 5).pua) = false ∧
    isUp dead 0 = true ∧ (mapAt dead 0 5).mapped = true ∧ (dead.marl 0).table.failed.contains (puaDie (mapAt dead 0 5).pua) = true ∧
    isUp erase 0 = true ∧ (sbAt (erase.marl 0) (sbKey 0 7)).erasing = true ∧
    15 < 16 * groups m0 ∧ m0.table.failed.contains 15 = false ∧
    2 ^ 16 ≤ (w (fun m => { m with work := 65536 })).work ∧ 2 ^ 20 ≤ (w (fun m => { m with reads := 1048576 })).reads ∧
    chOf (bnum (natLe 0 1 ++ natLe 0 4 ++ natLe 1 4) 0 1) = some 0 ∧ mbNamesCh flash0 0 0 = true ∧ (flash0.mb 0).bg = none ∧
    mbServes flash0 0 0xC040 = true ∧ 16 ≤ m0.dies ∧ mediaInUse flash0 0 = false ∧ mbServes flash0 0 0xC041 = true ∧ bnum ([0, 1] : List Byte) 1 1 ≤ 1 ∧
    mbServes flash0 0 0xC042 = true ∧ mbServes flash0 0 0xC043 = true ∧
    (natLe 0 1 ++ natLe 0 4 ++ natLe 1 4).length = 9 ∧ discardBad flash0 0 0 1 = none ∧ discardBad flash0 0 e 0 = none ∧ 0 < e ∧
    discardBad flash0 0 (e - 1) 1 = none ∧
    ((fmt.mb 0).bg = some (.mediaFormat 0) ∧ (dis.mb 0).bg = some (.mediaDiscard 0) ∧ ∀ x : Mbox, x ≠ 0 → (fmt.mb x).bg = none ∧ (dis.mb x).bg = none) := by decide +kernel
/-- A device in a supply warning of VCORE. -/
def warned : State := modSupply dev (fun y => { y with warn := 1#8 <<< (railCode .vcore).val })

/-- A device with a supply and self-test state. -/
def testing (f : SelfTest → SelfTest) : State := modTest dev f

/-- A channel of the device with stack lanes already failed. -/
def lanesLost (lanes : List Nat) (half : Bool) : State := modCh dev 11 (fun ch => { ch with eng := { ch.eng with lanes, half } })

/-- Supply events each where it can arise; starts from Off and from another state; the window's bounds; the last group and group 0; a lane whose
failure loses both halves, one, and none. -/
theorem witness_SupplyStartsAndTestsRun :
    let y := dev.island.supply
    let s2 := modSupply dev (fun y => { y with ackDue := [11] })
    let fl := modMarl dev 11 (fun m => { m with flushing := true })
    let down := modSupply dev (fun y => { y with down := [.vcore] })
    let cold := modSupply dev (fun y => { y with aon := false })
    let trip := modSupply dev (fun y => { y with tripping := true })
    let st := testing (fun x => { x with starts := [11], state := 0 })
    let win := testing (fun x => { x with state := 2 })
    let grp := testing (fun x => { x with state := 1, todo := [11], running := [] })
    let grp0 := testing (fun x => { x with state := 1, todo := [0], running := [] })
    let both := lanesLost [0, 1, 1032] true
    let one := lanesLost [0] false
    let spare := lanesLost [] false
    y.aon = true ∧ inWarn dev .vcore = false ∧ y.warn = 0 ∧ y.rising = 0 ∧ y.rising.getLsbD (railCode .vcore) = false ∧ inWarn warned .vsram = false ∧ warned.island.supply.warn ≠ 0 ∧
    s2.island.supply.ackDue.contains (11 : Ch).val = true ∧ inWarn warned .vcore = true ∧ (fl.marl 11).flushing = true ∧
    y.down.contains Rail.vcore = false ∧ y.down.contains Rail.vsram = false ∧ down.island.supply.down ≠ [] ∧ inWarn down .vcore = false ∧ inWarn down .vsram = false ∧
    cold.island.supply.aon = false ∧ (115 : Int) ≤ 115 ∧ y.tripping = false ∧ y.thermtrip = false ∧ trip.island.supply.tripping = true ∧ isUp dev 11 = true ∧
    st.island.supply.aon = true ∧ st.island.kiln ≠ .booting ∧ st.island.selfTest.starts.contains (11 : Ch).val = true ∧ st.island.selfTest.state = 0 ∧
    st.island.supply.down = [] ∧ (st.ch 11).state ≠ .off ∧
    ((modCh st 11 (fun ch => { ch with state := .off })).ch 11).state = .off ∧ st.island.supply.warn = 0 ∧
    win.island.selfTest.state = 2 ∧ win.island.supply.down = [] ∧ win.island.supply.rising = 0 ∧ (720 ≤ 720 ∧ 800 ≤ 800 ∧ (85 : Int) ≤ 85) ∧
    (let x := grp.island.selfTest
     let n := fld grp.island.stCfg.toNat 31 30 + 1
     x.state = 1 ∧ x.todo.head? = some (11 : Ch).val ∧ x.running.length < n ∧ x.running.contains (11 - n) = false) ∧
    (let x := grp0.island.selfTest
     x.state = 1 ∧ x.todo.head? = some (0 : Ch).val ∧ x.running.length < fld grp0.island.stCfg.toNat 31 30 + 1 ∧ 0 < fld grp0.island.stCfg.toNat 31 30 + 1) ∧
    (testing (fun x => { x with running := [11] })).island.selfTest.running.contains (11 : Ch).val = true ∧
    isUp both 11 = true ∧ (both.ch 11).eng.lanes.contains 1033 = false ∧ stackLost ([0, 1, 1032] ++ [1033]) = true ∧
    isUp one 11 = true ∧ (one.ch 11).eng.lanes.contains 1 = false ∧ stackLost ([0] ++ [1]) = false ∧ stackHalf ([0] ++ [1]) = true ∧ (one.ch 11).eng.half = false ∧
    isUp spare 11 = true ∧ (spare.ch 11).eng.lanes.contains 2063 = false ∧ stackHalf ([] ++ [2063]) = false ∧ laneCount ([] ++ [2063]) (2063 / 129) = 1 := by decide +kernel

/-- A millivolt on the near side of each level; a trip of a channel that runs again while the pin stands; a test outside each bound of its window. -/
theorem witness_SupplyStartsAndTestsRun_bounds :
    let hot := modSupply dev (fun y => { y with thermtrip := true })
    let grp := testing (fun x => { x with state := 1, todo := [11], running := [] })
    (Rail.vcore ≠ .vaonIo ∧ 100 * 679 < warnLevel .vcore ∧ 100 * 1139 < warnLevel .vnand ∧ 100 * 3134 < warnLevel (.phy 2) ∧
      warnLevel .vcore + 2000 < 100 * 701 ∧ warnLevel (.stack 1) + 2000 < 100 * 401 ∧ 619 < 620 ∧ 699 < 700) ∧
    (hot.island.supply.thermtrip = true ∧ hot.island.supply.tripping = false ∧ allCh.any (isUp hot) = true) ∧
    (grp.island.selfTest.atShut = false ∧ 719 < 720 ∧ 800 < 801 ∧ (85 : Int) < 86) := by decide +kernel

/-- A present channel with both rails valid. -/
theorem witness_ThermalLevelFollowsTheTemperature :
    dev.island.supply.aon = true ∧ dev.island.supply.down = [] ∧ isPresent dev 11 = true := by decide +kernel

/-- A power limit at the top of its field, where the governor stands still, and below it. -/
theorem witness_GovernorLevelAppliesToEveryChannel :
    let low : State := { dev with build := { dev.build with powerW := 600 } }
    dev.island.supply.aon = true ∧ 820 ≤ limitW dev ∧ limitW low < 820 := by decide +kernel
/-- Connection 255 of channel 0, Ready with every right and a send queue of 16 entries at 2 MiB of T0; its peer's connection is 7. -/
def linkConn : Conn :=
  { Conn.closed with
    state := .ready, rcvNext := 5, rcvCount := 1
    params := { Conn.closed.params with peerConn := 7, t0Rd := true, t0Wr := true, gateAdd := true, sqBase := 0x200, cplBase := 0x201, sqLog2 := 4 } }

/-- A port of channel 0 that is up, with that connection. -/
def linkUp (s : State) : State := modLink s 0 (fun p => { p with state := .up, width := 4, conns := [(255, linkConn)] })

/-- An Ethernet-compatible port that is up, with that connection. -/
def ethUp : State := linkUp (modCh dev 0 (fun ch => { ch with cfg := { ch.cfg with linkCfg := ch.cfg.linkCfg ||| 0x80000000 } }))

/-- A header to connection 255: operation, PSN, and the rest. -/
def hdrOf (opc psn : Nat) (f : PktHdr → PktHdr := id) : BitVec 256 :=
  pktBits (f { pktHdr 0 with ver := 1, opc, first := true, last := true, dst := 255, src := 7, psn })

/-- The last connection; a port in training, up, and retraining; both protocols; a response of the peer's connection; a packet with no credit and one with a bad CRC. -/
theorem witness_LinkPortEventsRun :
    let up := linkUp dev
    let st (p : PortState) (s : State) : State := modLink s 0 (fun q => { q with state := p })
    let h := pktHdr (hdrOf 0x81 9)
    let h4 := pktHdr (hdrOf 0x84 9)
    hostReaches up 0 0 = true ∧ fenced up 0 = false ∧ (up.ch 0).link.state = .up ∧ (dev.ch 0).link.state = .down ∧ 255 < connCount up 0 ∧
    (connAt up 0 255).state ≠ .closed ∧ (connAt up 0 255).params.sqLog2 ≠ 0 ∧
    ((st .training up).ch 0).link.state = .training ∧ ((st .training up).ch 0).pace.refclk = true ∧ isEthernet (st .training up) 0 = false ∧
    ((st .training ethUp).ch 0).link.state = .training ∧ ((st .training ethUp).ch 0).pace.refclk = true ∧ isEthernet (st .training ethUp) 0 = true ∧
    isEthernet up 0 = false ∧ (up.ch 0).link.laneFailed.getLsbD 4 = false ∧ (ethUp.ch 0).link.state = .up ∧ isEthernet ethUp 0 = true ∧
    (ethUp.ch 0).link.laneFailed.getLsbD 3 = false ∧ ((st .retraining up).ch 0).link.state = .retraining ∧
    h.ver = 1 ∧ 0x81 ≤ h.opc ∧ h.opc ≤ 0x84 ∧ (connAt up 0 h.dst).state ≠ .closed ∧ h.src = (connAt up 0 h.dst).params.peerConn.toNat ∧
    h4.ver = 1 ∧ h4.opc ≤ 0x84 ∧ h4.src = (connAt up 0 h4.dst).params.peerConn.toNat ∧
    ({ crc := packetCrc { hdr := hdrOf 0x81 9, payload := [] } + 1, corrected := 0, credit := true } : LinkFrame).crc ≠ packetCrc { hdr := hdrOf 0x81 9, payload := [] } := by
  decide +kernel

/-- A PSN equal to RCV_NEXT, ahead by 1 and by 4,095, behind by the one PSN counted, by one more, and by half of the PSN space. -/
theorem witness_RequestPacketsAreClassifiedByPsn :
    let s := noteCorrected (linkUp dev) 0 3
    let psns : List Nat := [5, 6, 5 + 4095, 4, 3, (5 + (2 ^ 32 - 2 ^ 31)) % 2 ^ 32]
    (psns.all (fun p => [1, 2, 3, 4, 5, 6].all (fun o =>
      let h := pktHdr (hdrOf o p)
      decide ((s.ch 0).link.state = .up ∧ isEthernet s 0 = false ∧ h.ver = 1 ∧ 1 ≤ h.opc ∧ h.opc ≤ 6 ∧ (connAt s 0 h.dst).state = .ready ∧
        h.src = (connAt s 0 h.dst).params.peerConn.toNat ∧ h.psn = p)))) = true ∧
    (connAt s 0 255).rcvNext = 5 ∧ 6 = ((5 + 1) % 2 ^ 32 : Nat) ∧ 5 + 4095 = ((5 + 4095) % 2 ^ 32 : Nat) ∧ 4 = ((5 + (2 ^ 32 - 1)) % 2 ^ 32 : Nat) ∧ 3 = ((5 + (2 ^ 32 - 2)) % 2 ^ 32 : Nat) ∧
    1 ≤ (connAt s 0 255).rcvCount ∧ (connAt s 0 255).rcvCount < 2 := by decide +kernel

/-- The receiver with one packet of an operation at its front. -/
def rxOf (s : State) (hdr : BitVec 256) (payload : List Byte) : State :=
  modLink s 0 (fun p => { p with rx := [.native false { hdr, payload }], apLo := [(0, 0xE0000000)], apHi := [(0, 0)] })

/-- The hypotheses of a native request that is applied: operation `i`, admitted with `adm`. -/
def requestRuns (s : State) (hdr : BitVec 256) (payload : List Byte) (i : Nat) (adm : Option (Nat × Nat)) : Bool :=
  let s1 := takeEnv (rxOf s hdr payload) 0 Env.clean
  let q := reqNative false { hdr, payload }
  let u : RxOp := { refused := none, tgtKind := BitVec.ofNat 2 q.kind, tgtId := BitVec.ofNat 32 q.id, addr := q.addr, pkts := 0, left := q.total, adm := adm }
  let s2 := match adm with
    | some a => regionCount s1 a.1 a.2
    | none => s1
  let s3 := rxKey s2 0 u.tgtKind.toNat u.tgtId.toNat
  (pktHdr hdr).opc == i && q.first && (connAt s1 0 q.conn).rx.isNone && decide (rxAdmit s1 0 q = .ok adm) && (rxNext s3 0 q u).isNone &&
    !rxHolds s3 0 q u.tgtKind.toNat u.addr && linesReady s3 (.rx 0 q.conn) (rxLines 0 q u.tgtKind.toNat u.addr)

/-- Region 1 with a registration of connection 255 of channel 0's link port. -/
def linkRegion : State :=
  modRegion (linkUp withRegion) 1 (fun g => { g with regs := [(0, { valid := true, revoked := false, kind := 1, rights := 15, unit := 0, conn := 255, regEp := 0, revEp := 0 })] })

/-- A send-queue entry: operation, kind, identifier, address, T0 address, READ length. -/
def sqOf (op kind ident addr t0 rlen : Nat) : Nat :=
  at_ 504 8 op + at_ 490 12 0xFFF + at_ 408 2 kind + at_ 376 32 ident + at_ 336 40 addr + at_ 312 24 t0 + at_ 298 14 rlen

/-- An outstanding operation of that connection's entry 0. -/
def outOf (opc : Nat) : OutOp :=
  { first := 9, last := 9, src := .entry (BitVec.ofNat 512 (sqOf 1 1 0 0 0x140000 0)) 0 true, packets := [{ hdr := hdrOf opc 9, payload := [] }], retries := 0, waiting := false, read := [] }

/-- The record of a read of aperture 0 at the PSN of a duplicate. -/
def dup0 : DupRec := { psn := 4, lstat := 0, applied := true, word := 0, opc := 2, tgtKind := 1, tgtId := 0, addr := 0, len := 64, gen := 0, reg := none, data := [] }

/-- Whether a duplicate read with a record meets what the statement asks of one served from memory, with the key of its region's owner there or not. -/
def dupReads (up : State) (d : DupRec) (key : Bool) : Bool :=
  let p : Packet := { hdr := hdrOf 2 4, payload := [] }
  let s : State := modLink up 0 (fun q => { q with
    conns := [(255, { linkConn with dups := [d] })], rx := [.native true p], apLo := [(0, 0xE0000000)], apHi := [(0, 0)] })
  let s1 := takeEnv s 0 Env.clean
  let q := reqNative true p
  let q2 := { q with op := reqOpOf d.opc.toNat, kind := d.tgtKind.toNat, id := d.tgtId.toNat }
  let q3 := { q2 with addr := d.addr, len := d.len, total := d.len, first := true, bad := false, deny := false }
  let s2 := rxKey s1 0 q3.kind q3.id
  let here := keyHere s2 0 (regionAt s2 (regIdx q3.id)).owner.toNat
  (connAt s1 0 q.conn).dups.find? (fun d => d.psn == q.psn) == some d && d.opc == 2 && dupLstat s1 0 q2 d == d.lstat.toNat &&
    (match rxAdmit s1 0 q3 with | .ok _ => true | _ => false) &&
    (if key then (q3.kind != 0 || here) && linesReady s2 (.rx 0 q3.conn) (rxLines 0 q3 q3.kind q3.addr) else q3.kind == 0 && !here)

/-- Every native operation: a write and a read of an aperture, an add to the last gate, and the other atomics on the last bytes of a region, a write whose operation goes on, and a
compare-and-swap that publishes; a duplicate with its record; each kind of response; a NAK_SEQ; an entry of each kind of operation; an operation
whose timer runs, with and without a try left, and one that waits; and each RoCEv2 operation. -/
theorem witness_LinkOperationsRun :
    let up := linkUp dev
    let line : List Byte := natLe 7 64
    let outs (opc : Nat) (rsp : Nat) (payload : List Byte) : State := modLink up 0 (fun p => { p with
      conns := [(255, { linkConn with outs := [outOf opc] })], rsp := [{ hdr := hdrOf rsp 9, payload }] })
    let found (opc rsp : Nat) : Bool := (connAt (outs opc rsp line) 0 255).outs.find? (fun o => o.last == 9 && answers rsp (outHdr o).opc) == some (outOf opc)
    let k : Conn := { linkConn with sqTail := 1 }
    let sq (d : Nat) : State := t0Write (modLink up 0 (fun p => { p with conns := [(255, k)] })) 0 0x200000 (natLe d 64)
    let roce (o : Nat) : RocePkt := { eth := { tags := 1, options := false, fragment := false, udp := 4791 }, qpn := 0x100FF, opcode := BitVec.ofNat 8 o, psn := 5, ce := false, icrcOk := true, corrected := 0, rkey := 0, va := 0, len := 0, payload := [], arg1 := 0, swap := 0 }
    let dup : DupRec := { psn := 4, lstat := 0, applied := true, word := 0, opc := 1, tgtKind := 1, tgtId := 0, addr := 0, len := 64, gen := 0, reg := none, data := [] }
    let rdup : DupRec := { dup0 with tgtKind := 0, tgtId := 1, reg := some 0 }
    let again : State := modLink up 0 (fun p => { p with conns := [(255, { linkConn with dups := [dup] })], rx := [.native true { hdr := hdrOf 1 4, payload := line }] })
    let wait : State := modLink up 0 (fun p => { p with conns := [(255, { linkConn with outs := [{ outOf 1 with waiting := true }] })] })
    requestRuns up (hdrOf 1 4 (fun h => { h with kind := 1, plen := 64 })) line 1 none = true ∧
    requestRuns up (hdrOf 1 4 (fun h => { h with kind := 1, plen := 64, last := false })) line 1 none = true ∧
    requestRuns up (hdrOf 2 4 (fun h => { h with kind := 1, rlen := 63 })) [] 2 none = true ∧
    requestRuns up (hdrOf 3 4 (fun h => { h with kind := 2, addr := 8 * 4094, plen := 16 })) (natLe 1 16) 3 none = true ∧
    requestRuns linkRegion (hdrOf 4 4 (fun h => { h with kind := 0, id := 1, addr := 0x1FFFF0, plen := 16 })) (natLe 1 16) 4 (some (1, 0)) = true ∧
    requestRuns linkRegion (hdrOf 5 4 (fun h => { h with kind := 0, id := 1, addr := 0x1FFFF8, plen := 32 })) (natLe 1 32) 5 (some (1, 0)) = true ∧
    requestRuns linkRegion (hdrOf 6 4 (fun h => { h with kind := 0, id := 1, addr := 0x1FFFF0, plen := 32 })) (natLe 1 32) 6 (some (1, 0)) = true ∧
    requestRuns linkRegion (hdrOf 6 4 (fun h => { h with kind := 3, id := 1, plen := 32 })) (natLe (4 * 2 ^ 64 + 5 * 2 ^ 192) 32) 6 (some (1, 0)) = true ∧
    (again.ch 0).link.rx = [.native true { hdr := hdrOf 1 4, payload := line }] ∧
    (connAt (takeEnv again 0 Env.clean) 0 255).dups.find? (fun d => d.psn == (reqNative true { hdr := hdrOf 1 4, payload := line }).psn) = some dup ∧ dup.opc ≠ 2 ∧
    dupReads up { dup0 with lstat := 0 } true = true ∧ dupReads up { dup0 with lstat := 7 } true = true ∧ dupReads up { dup0 with tgtId := 0x3F } true = false ∧
    dupReads linkRegion rdup true = true ∧ dupReads { linkRegion with island := { linkRegion.island with keyRot := [0] } } rdup false = true ∧
    found 1 0x81 = true ∧ found 2 0x82 = true ∧ found 4 0x83 = true ∧ 3 ≤ (outHdr (outOf 4)).opc ∧
    (readArrives (outs 2 0x82 line) 0 255 (outOf 2) (pktHdr (hdrOf 0x82 9)) line).1 = true ∧
    (outs 1 0x84 []).chans[0].link.rsp.zipIdx.find? (fun x => (pktHdr x.1.hdr).opc == 0x84) = some ({ hdr := hdrOf 0x84 9, payload := [] }, 0) ∧
    ([sqOf 1 1 0 0 0x140000 0, sqOf 2 1 0 0 0x140000 16383, sqOf 3 2 0 0 0x140000 0, sqOf 4 0 1 0 0x140000 0].all (fun d =>
      let s := sq d
      let d' := sqEntry s 0 k k.sqIssue
      d' == d && sqReady s 0 k d' && (entryBad d').isNone && !issueWaits s 0 k && !windowFull k (if entryOp d' = .write then packetsFor (entryLen d') else 1))) = true ∧
    isUp up 0 = true ∧ k.state = .ready ∧ k.params.sqLog2 ≠ 0 ∧ k.sqIssue ≠ k.sqTail ∧ isEthernet (sq 0) 0 = false ∧
    (connAt (outs 1 0x81 []) 0 255).outs.find? (fun o => o.first == (9#32).toNat && timerRuns (outs 1 0x81 []) 0 255 o) = some (outOf 1) ∧
    (outOf 1).retries < fld (up.ch 0).cfg.linkCfg.toNat 21 18 ∧
    (connAt wait 0 255).outs.find? (fun o => o.first == (9#32).toNat && o.waiting) = some { outOf 1 with waiting := true } ∧
    (ethUp.ch 0).link.state = .up ∧ isEthernet ethUp 0 = true ∧ ethOk (roce 6).eth = true ∧ ethOk { (roce 6).eth with tags := 2 } = false ∧ ethOk { (roce 6).eth with udp := 4790 } = false ∧
    (connAt ethUp 0 (roceConn (roce 6))).state = .ready ∧ (connAt ethUp 0 (roceConn { roce 6 with qpn := 0 })).state = .closed ∧ (roce 6).icrcOk = true ∧
    { roce 6 with icrcOk := false }.icrcOk = false ∧ (connAt ethUp 0 254).state = .closed ∧ { roce 6 with ce := true }.ce = true ∧
    (roce 0x06).opcode.toNat = 0x06 ∧ (roce 0x0A).opcode.toNat = 0x0A ∧ (roce 0x0C).opcode.toNat = 0x0C ∧ (roce 0x13).opcode.toNat = 0x13 ∧ (roce 0x14).opcode.toNat = 0x14 ∧
    roceSupported 0 = false ∧ roceSupported 0xFF = false := by decide +kernel

/-! ### Examples of the specification and of the standards it names -/

/-- The two pages of R222's example at the reset weights, and the second with PROTECT 1. -/
theorem test_tilth_examples :
    let cfg : Word32 := (dev.ch 0).cfg.tilthCfg
    tilthScore cfg 0x3F400000 0 1000000 = 0x22EC ∧ tilthScore cfg 0x3CA3D70A 0 3000 = 0x23B4 ∧ tilthScore cfg 0x3CA3D70A 1 3000 = 0xA3B4 := by decide +kernel

/-- The FP4-S16 block of 03_number_formats.md (its values to the nearest 1/1024). -/
theorem test_fp4_s16_block :
    let r := encodeVec (fmtD 0x0E) false 0 [.fin false 307 (-10), .fin true 1229 (-10), .fin false 2765 (-10), .fin false 51 (-10), .fin false 1024 (-10), .fin true 2150 (-10), .fin false 0 (-10), .fin false 819 (-10), .fin false 1536 (-10), .fin true 461 (-10), .fin false 2253 (-10), .fin false 102 (-10), .fin true 922 (-10), .fin false 1843 (-10), .fin false 614 (-10), .fin true 2458 (-10)]
    r.elems = [0xD1, 0x07, 0xE4, 0x30, 0xA5, 0x06, 0x6C, 0xF3] ∧ r.scales = [0x2F] := by decide +kernel

/-- The page sizes of R61's example: MXFP4 at 128, FP8 E4M3 at 64. -/
theorem test_page_sizes :
    (pageLayout (fmtD 0x0A) (fmtD 0x0A) 128).size = 8704 ∧ (pageLayout (fmtD 0x03) (fmtD 0x03) 64).size = 8192 := by decide +kernel

/-- R62's example: page 156 of a ring with one sink page and 65 ring pages. -/
theorem test_ring_entry : pageEntry { SeqEntry.free with ring := true, sinkPages := 1, ringPages := 65 } 156 = 27 := by decide +kernel

/-- R74's example: the nodes of a block of 64 layers and 8 KV heads. -/
theorem test_block_nodes : (pbNodes 64 8 0).length = 3 := by decide +kernel

/-- Check values of CRC-32C (RFC 3720's polynomial, "123456789") and of SM3 ("abc", GB/T 32905). -/
theorem test_check_values :
    crc32c [0x31, 0x32, 0x33, 0x34, 0x35, 0x36, 0x37, 0x38, 0x39] = 0xE3069283 ∧
    beNat (sm3 [0x61, 0x62, 0x63]) = 0x66c7f0f462eeedd9d1f2d46bdc10e4e24167c4875cf2f7a2297da02b8f4ba8e0 := by decide +kernel

/-- The example of SM4 in GB/T 32907, both ways. -/
theorem test_sm4 :
    let k : BitVec 128 := 0x0123456789abcdeffedcba9876543210
    sm4Enc k k = 0x681edf34d206965e86b3e94f536e4246 ∧ sm4Dec k 0x681edf34d206965e86b3e94f536e4246 = k := by decide +kernel

/-- The examples of GB/T 32918.5 on the recommended curve: the public key, the signature of "message digest", the ciphertext of "encryption standard". -/
def sm2Key : Nat := 0x3945208F7B2144B13F36E38AC6D39F95889393692860B51A42FB81EF4DF7C5B8

theorem test_sm2_sign :
    sm2Pub sm2Key = natBe 0x09F9DF311E5421A150DD7D161E4BC5C672179FAD1833FC076BB08FF356F35020 32 ++ natBe 0xCCEA490CE26775A52DC6EA718CC1AA600AED05FBF35E084A6632F6072DA9AD13 32 ∧
    sm2Verify (sm2Pub sm2Key) [0x6D, 0x65, 0x73, 0x73, 0x61, 0x67, 0x65, 0x20, 0x64, 0x69, 0x67, 0x65, 0x73, 0x74]
      (natBe 0xF5A03B0648D2C4630EEAC513E1BB81A15944DA3827D5B74143AC7EACEEE720B3 32 ++ natBe 0xB1B6AA29DF212FD8763182BC0D421CA1BB9038FD1F7F42D4840B69C485BBC1AA 32) = true ∧
    sm2Verify (sm2Pub sm2Key) [0x6D]
      (natBe 0xF5A03B0648D2C4630EEAC513E1BB81A15944DA3827D5B74143AC7EACEEE720B3 32 ++ natBe 0xB1B6AA29DF212FD8763182BC0D421CA1BB9038FD1F7F42D4840B69C485BBC1AA 32) = false := by
  decide +kernel

theorem test_sm2_decrypt :
    let c1 : List Byte := natBe 0x04EBFC718E8D1798620432268E77FEB6415E2EDE0E073C0F4F640ECD2E149A73 32 ++ natBe 0xE858F9D81E5430A57B36DAAB8F950A3C64E6EE6A63094D99283AFF767E124DF0 32
    let c3 : List Byte := natBe 0x59983C18F809E262923C53AEC295D30383B54E39D609D160AFCB1908D0BD8766 32
    let c2 : List Byte := natBe 0x21886CA989CA9C7D58087307CA93092D651EFA 19
    sm2Decrypt sm2Key ([4] ++ c1 ++ c3 ++ c2) = some (natBe 0x656E6372797074696F6E207374616E64617264 19) ∧
    sm2Decrypt sm2Key ([4] ++ c1 ++ c3 ++ natBe 0 19) = none := by decide +kernel

/-! ### Ill-formed commands -/

/-- A time of no faults, and a start with nothing found. -/
def start0 : StartReport := { stackOk := true, lanes := [], dies := { buses := 0, dies := [] }, anchorOk := false, badJournal := [], badPages := [] }

/-- A die of bus 7, target 15. -/
def die0 : DieFound := { bus := 7, target := 15, crcOk := true, dataBytes := 16384, spareBytes := 0, pages := 4, blocks := 4, planes := 1, wholeLine := true, bad := [3] }

/-- A RoCEv2 packet of the last connection that the field of R376 can name, with the greatest length. -/
def roce0 : RocePkt := { eth := { tags := 1, options := false, fragment := false, udp := 4791 }, qpn := 0x10FFF, opcode := 0x0C, psn := 0, ce := false, icrcOk := true, corrected := 0, rkey := 0, va := 0, len := 2 ^ 32 - 1, payload := [], arg1 := 0, swap := 0 }

/-- Current-sense pairs and rails at 0. -/
def sense0 : PowerSense := { core := 0, sram := 0, nand := 0, stk := 0, phy := 0, sramMv := 0, nandMv := 0 }

/-- A line beyond T1. -/
def badEnv : Env := { lost := [1250000000], fault := none }

/-- Every check refuses a term one step outside its bound: engines, rings and registers. -/
theorem test_wellFormed_rings :
    ([.attend 0 0 badEnv, .append 0 0 badEnv, .prefetch 0 4 badEnv, .persist 0 4 badEnv, .merge 0 6 badEnv, .slipFill 0 6 badEnv, .slipCopy 0 6 badEnv,
      .slipCompare 0 6 badEnv, .slipReduce 0 6 badEnv, .slipAtomic 0 6 badEnv, .attendGrist 0 0 badEnv, .attendRagged 0 0 badEnv, .presenceGateRelease 0 0 badEnv,
      .pageMoveEnd 0 4 4096 .clean, .pageMoveEnd 0 4 0 badEnv, .gateSetWrite 0 0 4096 0, .gateAddWrite 0 0 4096 0, .sqTailWrite 0 0 4096 0,
      .registerWrite 0 2 (.word 0), .registerWrite 0 0x1001000 (.word 0), .registerWrite 0 4 (.pair 0 0), .registerWrite 0 0x1001000 (.pair 0 0),
      .badRegisterAccess 0 0x400000 1 false, .badRegisterAccess 0 0 0 false, .badRegisterAccess 0 0 65 false, .badRegisterAccess 0 8 4 true,
      .badRegisterAccess 0 8 8 true, .writeBackTake 0 true badEnv, .sieveRowSpareIn 0 131072, .revocationDrainEnd 0x10000] : List Instr).all (fun i => !wellFormed i) = true := by
  decide +kernel

/-- The same of the host port, the sideband and the mailboxes. -/
theorem test_wellFormed_host :
    ([.cxlMemRead 0 1 false .clean, .cxlMemRead 0 (2 ^ 52) false .clean, .cxlMemRead 0 0 false badEnv, .cxlMemWrite 0 0 (zeros 63) 0, .cxlMemWrite 0 32 (zeros 64) 0,
      .t0WindowRead 0 0 3, .t0WindowRead 0 32 33, .t0WindowWrite 0 61 (zeros 3), .birsp 0 0 1250000000, .biconflict 0 0 1250000000, .biSnoopTimeout 0 0 1250000000,
      .hostLinkUp { gtps := 128, width := 16 } true, .hostLinkUp { gtps := 64, width := 2 } true, .hdmDecoderCommit 0 0 { base := 0, size := 0, skip := 0, ways := 0, gran := 0 },
      .msixUnmask 0 (some 2048), .mctpMessage .fm (.secured 0x10000), .mctpMessage .fm (.other 0x07), .mctpMessage .fm (.fmApi 0 (zeros 4097) start0 []),
      .mctpMessage .i3c (.cci 0 (zeros 4097) start0 []), .ideKm 0x10000 (.kSetStop .linkIo ⟨true, 0⟩), .clearPoison 0 1 (zeros 64), .clearPoison 0 0 (zeros 63)] : List Instr).all
      (fun i => !wellFormed i) = true ∧
    (let l := zeros 4097
     let b : List Instr := [.getIdentity 0 l, .getHealth 0 l [], .setTime 0 l, .selfTestQuery 0 l, .shutdown 0 l, .stageWrite 0 l, .stageRead 0 l, .stageClear 0 l,
      .commitCheck 0 l, .commitApply 0 l, .commitQuery 0 l, .capRead 0 l, .eventRead 0 l, .channelIsolate 0 l, .channelReset 0 l start0, .mediaFormat 0 l, .mediaFlush 0 l,
      .mediaDiscard 0 l, .mediaSecureDiscard 0 l, .regionCreate 0 l, .regionSetHome 0 l, .regionRegister 0 l, .regionRevoke 0 l, .regionRelease 0 l, .regionPublish 0 l,
      .regionQuery 0 l, .linkConnSet 0 l, .linkConnReset 0 l, .linkConnClose 0 l, .linkConnQuery 0 l, .linkWindowSet 0 l, .linkKeySet 0 l, .keyLoad 0 l, .keyDestroy 0 l [],
      .keyQuery 0 l, .firmwareUpdate 0 l, .firmwareActivate 0 l, .firmwareRecover 0 l]
     b.all (fun i => !wellFormed i) = true) := by decide +kernel

/-- The same of Marl, the island and the links. -/
theorem test_wellFormed_units :
    ([.channelReset 0 [] { start0 with lanes := [2064] }, .channelStart 0 { start0 with lanes := [2064] },
      .channelStart 0 { start0 with dies := { buses := 0xFF, dies := [{ die0 with bus := 8 }] } }, .channelStart 0 { start0 with dies := { buses := 0xFF, dies := [{ die0 with target := 16 }] } },
      .channelStart 0 { start0 with dies := { buses := 0xFF, dies := [{ die0 with planes := 0 }] } }, .channelStart 0 { start0 with dies := { buses := 0xFF, dies := [{ die0 with bad := [4] }] } },
      .channelStart 0 { start0 with dies := { buses := 0xFF, dies := [die0, die0] } },
      .ownerPurge 0 4096, .keyPurgeTimeout 0 4096, .keyStorageCheck [4096], .stripeProgrammed 0 0 8, .stripePad 0 0 8, .programFailure 0 0 8 0, .programFailure 0 0 0 16,
      .eraseFailure 0 8 0 [], .eraseFailure 0 0 16384 [], .eraseFailure 0 0 0 [16], .nandReadComplete 0 (2 ^ 32) .lost, .dieTimeout 0 128, .dieParameterChange 0 128,
      .stripeBlockErase 0 8 0, .stripeBlockErase 0 0 16384, .eraseComplete 0 8 0, .eraseComplete 0 0 16384, .selfTestWindowCheck 0x10000 0,
      .selfTestGroupEnd 0 { GroupRec.pass with t0Banks := 33 }, .selfTestGroupEnd 0 { GroupRec.pass with stackLanes := [2064] },
      .selfTestGroupEnd 0 { GroupRec.pass with sieveRows := [135168] }, .stackLaneFailure 0 2064, .supplyWarn .vcore 0x10000, .supplyOk .vcore 0x10000,
      .supplyReset { rail := .vaon, mv := 700 }, .supplyReset { rail := .vsram, mv := 0x10000 }, .regulatorAlert .vcore true 0x10000, .governorWindow { sense0 with core := 501 } 0, .governorWindow sense0 0x10000, .governorWindow { sense0 with nandMv := 0x10000 } 0,
      .packetReceive 0 0 (zeros 63) { crc := 0, corrected := 0, credit := true }, .packetReceive 0 0 (zeros 4160) { crc := 0, corrected := 0, credit := true },
      .write 0 badEnv, .readReq 0 badEnv, .add8 0 badEnv, .add16 0 badEnv, .cas8 0 badEnv, .cas16 0 badEnv, .duplicateLast 0 badEnv, .sendQueueIssue 0 4096,
      .operationTimerExpiry 0 4096 0, .retransmitWaitEnd 0 4096 0, .rdmaWrite 0 { roce0 with len := 2 ^ 32 } .clean, .rdmaReadRequest 0 { roce0 with len := 2 ^ 32 } .clean,
      .cmpswap 0 { roce0 with len := 2 ^ 32 } .clean, .fetchadd 0 { roce0 with len := 2 ^ 32 } .clean, .roceUnsupportedRequest 0 { roce0 with len := 2 ^ 32 },
      .pauseFrame 0 8 0, .pauseFrame 0 0 0x10000, .globalPersistentFlush 3] : List Instr).all (fun i => !wellFormed i) = true := by decide +kernel

/-- Terms at the bounds are well formed. -/
theorem test_wellFormed_bounds :
    ([.attend 0 0 { lost := [1249999999], fault := none }, .pageMoveEnd 0 4 4095 .clean, .registerWrite 0 0x1000FFC (.word 0), .registerWrite 0 0x1000FF8 (.pair 0 0),
      .badRegisterAccess 0 0x3FFFFF 64 false, .badRegisterAccess 0 4 8 true, .cxlMemRead 0 (2 ^ 52 - 64) true .clean, .t0WindowRead 0 60 4, .t0WindowWrite 0 0 (zeros 64),
      .msixUnmask 7 (some 2047), .mctpMessage .fm (.other 0x7E), .setTime 0 (zeros 4096), .channelStart 0 { start0 with lanes := [2063], dies := { buses := 0xFF, dies := [die0] } },
      .packetReceive 0 0 (zeros 4096) { crc := 0, corrected := 0, credit := true }, .packetReceive 0 0 (zeros 16) { crc := 0, corrected := 0, credit := true },
      .rdmaReadRequest 0 roce0 .clean, .governorWindow { sense0 with core := 500, sramMv := 0xFFFF } 0xFFFF, .t0WindowWrite 0 60 (zeros 65), .globalPersistentFlush 2] : List Instr).all (fun i => wellFormed i) = true := by decide +kernel

/-- The state that a command answers. -/
def after (i : Instr) (s : State) : State :=
  match exec i s with
  | .next t => t
  | _ => s

/-- A rise of VAON shows the five later rails in WARN and reads LAST_EPOCH from the half of the key log that the sound copy of its header names, up to the
first record whose CHECK fails (R447, R498); the monitor's first good report of VNAND only takes
it out of WARN. -/
theorem test_coldStart_reads :
    let bare : KeyLogRec := { type := 4, slot := 7, epoch := 5, chans := 0, rseq := 3 }
    let sound : KeyLogRec := { bare with check := crc32c (klBytes bare) }
    let torn : KeyLogRec := { bare with epoch := 9 }
    let s : State := modSupply (modIsland dev (fun i => { i with
      keyLog := { active := false, hdr0 := { KeyHdr.of false 0 with crc := 1 }, hdr1 := .of true 1, half0 := [], half1 := [sound, torn, sound], rseq := 4 } }))
      (fun y => { y with aon := false })
    let t := after .coldStart s
    let u := after (.supplyOk .vnand 1200) t
    t.island.supply.warn = 0x3B ∧ Sys2Proof.Machine.warned t = false ∧ (keySlot t 7).lastEpoch = 5 ∧ u.island.supply.warn = 0x33 ∧
    u.island.evq = t.island.evq := by decide +kernel

/-- THERMTRIP_N is low while asserted and released else; ALERT_N follows queue 16 (R506). -/
theorem test_pins :
    pinThermtripN (modSupply dev (fun y => { y with thermtrip := true })) = some false ∧ pinThermtripN dev = none ∧ pinShdnDone dev = some false ∧
    pinAlertN dev = none ∧ pinAlertN (raiseD dev 0x0107 sevFatal [1]) = some false := by decide +kernel

end Sys2Proof.Tests
end

section
/-! SUPPORT. Where a write of a register lands (R8, R312 to R314), and the statement about registers without a row of their own. -/

namespace Sys2Proof.Proofs
open Sys2Proof Sys2Proof.Machine

variable {s : State} {l : Ld} {c : Ch} {v : Word32}

/-! ## Bit fields -/

/-- The field of a word's lowest bits is the word cut to their number. -/
theorem ofNat_fld_low {n : Nat} (v : BitVec n) (k : Nat) : BitVec.ofNat (k + 1) (fld v.toNat k 0) = v.setWidth (k + 1) := by
  apply BitVec.eq_of_toNat_eq
  simp [fld]

/-- A field of 32 bits placed at bit 32. -/
theorem at_32_32 (x : Nat) : at_ 32 32 x = x % 2 ^ 32 * 2 ^ 32 := by
  simp [at_, Nat.shiftLeft_eq]

/-! ## Where an offset lands -/

/-- An offset of a channel's block names that channel (R312). -/
@[simp] theorem chBlockOf_chBar {o : Nat} (ho : o < 0x20000) : chBlockOf (chBar c o) = some (c, o) := by
  have hge : ¬ chBar c o < 0x100000 := by unfold chBar; omega
  have hdiv : (chBar c o - 0x100000) / 0x20000 = c.val := by unfold chBar; omega
  have hmod : (chBar c o - 0x100000) % 0x20000 = o := by unfold chBar; omega
  simp [chBlockOf, hge, hdiv, hmod, chOf, c.isLt]

/-- Offsets below the channel blocks name no channel (R312). -/
theorem chBlockOf_below {off : Nat} (h : off < 0x100000) : chBlockOf off = none := by
  simp [chBlockOf, h]

/-- An aligned write of a word, where CXL.io reaches the function (R8). -/
theorem exec_word_aligned {off : Nat} (hio : ioUp s l = true) (h4 : off % 4 = 0) :
    exec (.registerWrite l off (.word v)) s = .next (wordWrite s l off v) := by
  show execRegisterWrite l off (.word v) s = _
  simp [execRegisterWrite, hio, h4]

/-- A write that reaches a channel on which no fence is raised is one of the channel block's registers. -/
theorem exec_word_channel {o : Nat} (hr : hostReaches s l c = true) (hf : fenced s c = false) (ho : o < 0x20000) (h4 : o % 4 = 0) :
    exec (.registerWrite l (chBar c o) (.word v)) s = .next (chRegWrite s c o v) := by
  have hio : ioUp s l = true := by
    simp only [hostReaches, Bool.and_eq_true] at hr
    exact hr.1.1
  have hal : chBar c o % 4 = 0 := by unfold chBar; omega
  have hcfg : ¬ cfgSpace ≤ chBar c o := by unfold chBar cfgSpace; omega
  rw [exec_word_aligned hio hal]
  simp [wordWrite, hcfg, ho, chanWrite_reaches hr, hf]

/-- A write in the logical-device block is one of its registers. -/
theorem exec_word_ld {o : Nat} (hio : ioUp s l = true) (ho : o < 0x10000) (h4 : o % 4 = 0) :
    exec (.registerWrite l (ldBlock + o) (.word v)) s = .next (ldRegWrite s l o v) := by
  have hB : ldBlock = 0x20000 := rfl
  rw [exec_word_aligned hio (by omega), wordWrite, if_neg (by unfold cfgSpace; omega), chBlockOf_below (by omega)]
  dsimp only
  rw [if_neg (by omega), if_neg (by omega), if_pos (by omega), Nat.add_sub_cancel_left]

/-- A write in the MSI-X table is one of a vector's words. -/
theorem exec_word_msix {o : Nat} (hio : ioUp s l = true) (ho : o < 0x8000) (h4 : o % 4 = 0) :
    exec (.registerWrite l (ldBlock + 0x10000 + o) (.word v)) s = .next (msixWrite s l o v) := by
  have hB : ldBlock = 0x20000 := rfl
  rw [exec_word_aligned hio (by omega), wordWrite, if_neg (by unfold cfgSpace; omega), chBlockOf_below (by omega)]
  dsimp only
  rw [if_neg (by omega), if_neg (by omega), if_neg (by omega), if_pos (by omega), Nat.add_sub_cancel_left]

/-! ## The channel block -/

/-- A word of a ring's block in the channel block (R139). -/
theorem chRegWrite_ring (r : Sys2Proof.Ring) {o x : Nat} (hx : x = 0x600 + 0x20 * r.val + o) (ho : o < 0x20) (h4 : o % 4 = 0) :
    chRegWrite s c x v = ringRegWrite s c r o v := by
  have hr := r.isLt
  have hdiv : (x - 0x600) / 0x20 = r.val := by omega
  have hmod : (x - 0x600) % 0x20 = o := by omega
  have hring : ringOf r.val = some r := by simp [ringOf, hr]
  unfold chRegWrite
  rw [if_neg (by omega), if_neg (by omega), if_neg (by omega), if_neg (by omega), if_neg (by omega), if_neg (by omega), if_pos (by omega),
    hdiv, hmod, hring]

/-- BASE and CPL_BASE of a ring that neither runs nor stops take bits 23:12 (R139). -/
theorem ringRegWrite_bases_off {r : Sys2Proof.Ring} (he : (s.ring c r).enable = false) (hs : (s.ring c r).stop = false) :
    ringRegWrite s c r 0 v = modRing s c r (fun g => { g with base := BitVec.ofNat 12 (fld v.toNat 23 12) }) ∧
    ringRegWrite s c r 4 v = modRing s c r (fun g => { g with cplBase := BitVec.ofNat 12 (fld v.toNat 23 12) }) := by
  simp [ringRegWrite, he, hs]

/-- BASE and CPL_BASE of a ring that runs or stops ignore the write (R139). -/
theorem ringRegWrite_bases_on {r : Sys2Proof.Ring} (h : (s.ring c r).enable = true ∨ (s.ring c r).stop = true) :
    ringRegWrite s c r 0 v = s ∧ ringRegWrite s c r 4 v = s := by
  simp [ringRegWrite, h]

/-- TAIL of the release log takes bits 15:0 and lets what waits for room go on (R237). -/
theorem chRegWrite_relTail :
    chRegWrite s c 0x54C v = logProgress (modCh s c (fun ch => { ch with rel := { ch.rel with tail := v.setWidth 16 } })) c := by
  rw [← ofNat_fld_low v 15]
  simp [chRegWrite]

/-- Read-only registers, RWL registers, and offsets without a register ignore a direct write (R8, R9). -/
theorem chRegWrite_ignored : ∀ o ∈ ([0x000, 0x400, 0x408, 0x500, 0x504, 0x520, 0x530, 0x800, 0x810, 0x820, 0x900, 0x6000, 0x1FFFC] : List Nat),
    o < 0x20000 ∧ o % 4 = 0 ∧ chRegWrite s c o v = s := by
  simp [chRegWrite, numGates]

/-! ## The MSI-X table -/

/-- The four words of a vector (R339, R340). -/
theorem msixWrite_words (vec : Nat) :
    let e := smGet ((0, 0) : BitVec 64 × Word32) (s.ld l).vecs vec
    let put (a : BitVec 64 × Word32) : State := modLd s l (fun d => { d with vecs := smSet (0, 0) d.vecs vec a })
    msixWrite s l (16 * vec) v = put (BitVec.ofNat 64 (e.1.toNat / 2 ^ 32 % 2 ^ 32 * 2 ^ 32 + v.toNat), e.2) ∧
    msixWrite s l (4 + 16 * vec) v = put (BitVec.ofNat 64 (v.toNat % 2 ^ 32 * 2 ^ 32 + e.1.toNat % 2 ^ 32), e.2) ∧
    msixWrite s l (8 + 16 * vec) v = put (e.1, v) ∧
    msixWrite s l (12 + 16 * vec) v = if v.getLsbD 0 then maskVec s l vec else unmaskVec s l vec := by
  have hword (k : Nat) (hk : k < 16) : (k + 16 * vec) / 16 = vec ∧ (k + 16 * vec) % 16 = k := by omega
  have hlow : (16 * vec) / 16 = vec ∧ (16 * vec) % 16 = 0 := by omega
  refine ⟨?_, ?_, ?_, ?_⟩
  · simp only [msixWrite, hlow, at_32_32, if_true]
  · simp [msixWrite, hword, at_32_32]
  · simp [msixWrite, hword]
  · simp [msixWrite, hword, bit, BitVec.getLsbD]

/-! ## Accesses of 8 bytes and of a wrong size or alignment -/

/-- A write of 8 bytes does nothing where CXL.io does not reach the function, and else is that of its two words, the lower first (R8; log 161). -/
theorem exec_pair {off : Nat} {w : Word32} {t : State} (h8 : off % 8 = 0) (h : exec (.registerWrite l off (.word v)) s = .next t) :
    (ioUp s l = false → exec (.registerWrite l off (.pair v w)) s = .next s) ∧
    (ioUp s l = true → ioUp t l = true →
      exec (.registerWrite l off (.pair v w)) s = exec (.registerWrite l (off + 4) (.word w)) t) := by
  have hpair : exec (.registerWrite l off (.pair v w)) s = execRegisterWrite l off (.pair v w) s := rfl
  refine ⟨fun hio => by simp [hpair, execRegisterWrite, hio], fun hio ht => ?_⟩
  have hlow : t = wordWrite s l off v := by
    rw [exec_word_aligned hio (by omega)] at h
    exact (Host.Outcome.next.inj h).symm
  rw [exec_word_aligned ht (by omega), hlow, hpair]
  simp [execRegisterWrite, hio, h8]

/-- An access not naturally aligned, or not of 4 or 8 bytes (R312, R315; log 150). -/
theorem exec_badRegisterAccess {off size : Nat} (w : Bool) (hio : ioUp s l = true) (hbad : ¬ ((size = 4 ∨ size = 8) ∧ off % size = 0)) :
    exec (.badRegisterAccess l off size w) s =
      let t := modLd (modLd s l (fun d => { d with access := d.access ||| 1 })) l (fun d => { d with aer := d.aer ||| 0x100000 })
      .next (if w then t else emit t (.readData l.val (List.replicate size 0xFF))) := by
  have hup : s.host.up = true := by
    simp only [ioUp, Bool.and_eq_true] at hio
    exact hio.1.1
  show execBadRegisterAccess l off size w s = _
  unfold execBadRegisterAccess
  rw [if_neg (by simp only [hup]; simpa using hbad), if_neg (by simp [hio])]
  rfl

/-- Settles O42: each clause is where the offset lands, then what the register there takes. -/
theorem registerWritesRun : Obligations.RegisterWritesRun := by
  refine ⟨fun l c r v s hr hf => ?channel, fun l v s hio => ?device, fun l off v w s t h8 h => exec_pair h8 h,
    fun l off size s hio hbad => ⟨exec_badRegisterAccess true hio hbad, exec_badRegisterAccess false hio hbad⟩⟩
  case channel =>
    have hlt := r.isLt
    have base : exec (.registerWrite l (chBar c (0x600 + 0x20 * r.val)) (.word v)) s = .next (ringRegWrite s c r 0 v) := by
      rw [exec_word_channel hr hf (by omega) (by omega), chRegWrite_ring r (o := 0) (by omega) (by omega) (by omega)]
    have cplBase : exec (.registerWrite l (chBar c (0x604 + 0x20 * r.val)) (.word v)) s = .next (ringRegWrite s c r 4 v) := by
      rw [exec_word_channel hr hf (by omega) (by omega), chRegWrite_ring r (o := 4) (by omega) (by omega) (by omega)]
    refine ⟨fun he hs => ?_, fun hon => ?_, ?_, ?_, ?_, fun o ho => ?_⟩
    · obtain ⟨h0, h4⟩ := ringRegWrite_bases_off (v := v) he hs
      exact ⟨h0 ▸ base, h4 ▸ cplBase⟩
    · obtain ⟨h0, h4⟩ := ringRegWrite_bases_on (v := v) hon
      exact ⟨base.trans (congrArg _ h0), cplBase.trans (congrArg _ h4)⟩
    · exact exec_word_channel hr hf (by omega) (by omega)
    · exact (exec_word_channel hr hf (by omega) (by omega)).trans (congrArg _ chRegWrite_relTail)
    · exact exec_word_channel hr hf (by omega) (by omega)
    · obtain ⟨hlt, h4, hsame⟩ := chRegWrite_ignored (s := s) (c := c) (v := v) o ho
      exact (exec_word_channel hr hf hlt h4).trans (congrArg _ hsame)
  case device =>
    refine ⟨exec_word_ld (o := 0x0C) hio (by omega) (by omega), exec_word_ld (o := 0x24) hio (by omega) (by omega),
      exec_word_ld (o := 0x28) hio (by omega) (by omega), fun vec hvec => ?_⟩
    obtain ⟨hlo, hhi, hdata, hmask⟩ := msixWrite_words (s := s) (l := l) (v := v) vec
    have word (k : Nat) (hk : k < 16) (h4 : k % 4 = 0) :
        exec (.registerWrite l (0x30000 + k + 16 * vec) (.word v)) s = .next (msixWrite s l (k + 16 * vec) v) := by
      rw [Nat.add_assoc]
      exact exec_word_msix hio (by omega) (by omega)
    exact ⟨(word 12 (by omega) (by omega)).trans (congrArg _ hmask),
      (exec_word_msix hio (by omega) (by omega)).trans (congrArg _ hlo),
      (word 4 (by omega) (by omega)).trans (congrArg _ hhi),
      (word 8 (by omega) (by omega)).trans (congrArg _ hdata)⟩

end Sys2Proof.Proofs
end

section
/-! SUPPORT. Kiln's own mailbox commands where nothing is in their way (R399 to R429), and the statement about them. -/

namespace Sys2Proof.Proofs
open Sys2Proof Sys2Proof.Machine

variable {s t : State} {mb : Mbox} {inp : List Byte}

/-! ## From the arrival of a command to its effect -/

/-- A command written into a mailbox that Kiln serves answers what its run comes to. -/
theorem next_of_served {op : Nat} {i : Instr} {run : State → State} (h : mbServesRec s mb op = true) (hv : viaOf i = none) (hrun : run s = t) :
    (.next (mbEnter s mb op i run) : Host.Outcome State Fault Refusal) = .next t := by
  rw [mbEnter_serves h i run hv, hrun]

/-- A foreground command that Recovery serves too, of a good length, has its effect. -/
theorem mbRun_rec_fg {op : Nat} {lenOk : Bool} (hl : lenOk = true) (k : State → State) : mbRun s mb op true false lenOk k = k s :=
  mbRun_rec (bg := false) hl (by simp) k

/-- A foreground command of a good length has its effect where Kiln is not in Recovery. -/
theorem mbRun_serves_fg {op : Nat} {lenOk : Bool} (h : mbServes s mb op = true) (hl : lenOk = true) (k : State → State) :
    mbRun s mb op false false lenOk k = k s :=
  mbRun_serves (bg := false) h hl (by simp) k

/-- A command on a channel, given by its number, that its mailbox may name. -/
theorem mbOnCh_of_chOf {op n : Nat} {c : Ch} (hc : chOf n = some c) (hn : mbNamesCh s mb c = true) (k : Ch → State) : mbOnCh s mb op n k = k c := by
  simp [mbOnCh, hc, hn]

/-! ## Commands with checks of their own -/

/-- `GetHealth` of a part of the log (R427). -/
theorem runGetHealth_inRange {answered : List Ch} (hl : inp.length = 4) (hr : bnum inp 0 2 + bnum inp 2 2 ≤ 28672) (hn : bnum inp 2 2 ≤ 4096) :
    runGetHealth mb inp answered s =
      let ps := presentChs s
      let t := forCh s (ps.filter (fun c => answered.contains c)) pushSection
      let left := (ps.filter (fun c => !answered.contains c)).map (fun c => c.val)
      if left.isEmpty then mbOut t mb 0xC001 .ok (bsub (healthLog t mb) (bnum inp 0 2) (bnum inp 2 2))
      else modIsland t (fun i => { i with poll := some { mb := mb.val, off := bnum inp 0 2, len := bnum inp 2 2, wait := left } }) := by
  rw [runGetHealth, mbRun_rec_fg (by simp [hl])]
  dsimp only
  rw [if_neg (by omega), if_neg (by omega)]
  rfl

/-- `Shutdown` from the sideband starts with its step 1 (R463). -/
theorem runShutdown_sideband (h : mbServes s sidebandMb 0xC004 = true) (hb : (s.mb sidebandMb).bg = none) :
    runShutdown sidebandMb [] s =
      let t := mbStart s sidebandMb 0xC004 (.shutdown 1 [])
      shutRun (forCh t (allCh.filter (isUp t)) (fun t c =>
        allRings.foldl (fun u r => if (u.ring c r).enable ∧ !(u.ring c r).draining then stopRing u c r else u) t)) sidebandMb 1 [] := by
  rw [runShutdown, mbRun_serves h List.isEmpty_nil (fun _ => hb)]
  exact if_neg (not_not.2 rfl)

/-- `CommitApply` by its staged set and its fence (R415). -/
theorem runCommitApply_cases (h : mbServes s mb 0xC014 = true) :
    let ws := s.island.staging[mb]
    let cs := (affectedChs s ws).map (fun c => c.val)
    (ws = [] → runCommitApply mb [] s = mbOut s mb 0xC014 .ok (natLe s.island.commitGen.toNat 4)) ∧
    (ws ≠ [] → fenceStands s cs = true → runCommitApply mb [] s = commitRun s mb ws) ∧
    (ws ≠ [] → fenceStands s cs = false →
      runCommitApply mb [] s = modIsland s (fun i => { i with commit := some { mb := mb.val, words := ws, chans := cs } })) := by
  rw [runCommitApply, mbRun_serves_fg h List.isEmpty_nil]
  refine ⟨fun hw => ?_, fun hw hf => ?_, fun hw hf => ?_⟩
  · exact if_pos (List.isEmpty_iff.2 hw)
  · exact (if_neg (mt List.isEmpty_iff.1 hw)).trans (if_pos hf)
  · exact (if_neg (mt List.isEmpty_iff.1 hw)).trans (if_neg (Bool.eq_false_iff.1 hf))

/-- `CapRead` within the capability list of a logical device that the mailbox may name (R420). -/
theorem runCapRead_inRange {l : Ld} (hl : inp.length = 5) (hfind : (lds s).find? (fun l => l.val == bnum inp 0 1) = some l)
    (hn : mbNamesLd s mb l = true) (hlo : 0x1000 ≤ bnum inp 1 2) (hhi : bnum inp 1 2 + bnum inp 3 2 ≤ 0x8000) (hlen : bnum inp 3 2 ≤ 4096) :
    runCapRead mb inp s = mbOut s mb 0xC020 .ok (smRead (s.ld l).capBytes (bnum inp 1 2) (bnum inp 3 2)) := by
  rw [runCapRead, mbRun_rec_fg (by simp [hl])]
  simp only [hfind, hn]
  rw [if_neg (by simp), if_neg (by omega), if_neg (by omega)]

/-- `EventRead` with a defined CONSUME (R424). -/
theorem runEventRead_defined (hl : inp.length = 3) (hc : bnum inp 2 1 ≤ 1) :
    runEventRead mb inp s =
      let q := mbQueue mb
      let rs := (evWaiting s.island.evq[q]).take (min 63 (bnum inp 0 2))
      let t := if bnum inp 2 1 = 1 then
          modIsland s (fun i => { i with evq := i.evq.set q { i.evq[q] with cons := (i.evq[q].cons + rs.length) % 512 } })
        else s
      mbOut t mb 0xC021 .ok (natLe rs.length 8 ++ rs.flatMap evBytes) := by
  rw [runEventRead, mbRun_rec_fg (by simp [hl])]
  exact if_neg (by omega)

/-- `ChannelIsolate` of a channel that is there (R429). -/
theorem runChannelIsolate_present {c : Ch} (hl : inp.length = 1) (hc : chOf (bnum inp 0 1) = some c) (hn : mbNamesCh s mb c = true)
    (hs : (s.ch c).state ≠ .absent) : runChannelIsolate mb inp s = mbSt (isolateCh s c 3) mb 0xC030 .ok := by
  rw [runChannelIsolate, mbRun_rec_fg (by simp [hl]), mbOnCh_of_chOf hc hn, if_neg hs]

/-- `ChannelReset` of a connected channel: one that has left the present set is tested first, another is reset and starts where the stored result is
valid, no rail is down and no warning keeps it Off (R429, R466, R498). -/
theorem runChannelReset_connected {c : Ch} (start : StartReport) (hl : inp.length = 1) (hc : chOf (bnum inp 0 1) = some c)
    (hn : mbNamesCh s mb c = true) (hb : (s.mb mb).bg = none) (hcon : (s.ch c).connected = true) :
    let t := tripRelease (mbStart s mb 0xC031 (.chReset c.val))
    let stays := (t.ch c).state == .off && t.island.supply.warn != 0
    let u := resetCh (linkDown (if stays then t else isolateCh t c 5) c 0) c true
    ((t.ch c).state = .absent →
      runChannelReset mb inp (some start) s = needTest (modTest t (fun x => { x with starts := ascGroups (x.starts ++ [c.val]) })) [c.val]) ∧
    ((t.ch c).state ≠ .absent →
      runChannelReset mb inp (some start) s =
        if u.island.selfTest.valid && u.island.supply.down.isEmpty && !stays then startNow u c start else beginStarts u [c]) := by
  rw [runChannelReset, mbRun_rec (by simp [hl]) (fun _ => hb), mbOnCh_of_chOf hc hn, if_neg (by simp [hcon])]
  generalize tripRelease (mbStart s mb 0xC031 (.chReset c.val)) = t
  intro _ stays u
  refine ⟨fun habs => if_pos habs, fun hpres => (if_neg hpres).trans ?_⟩
  show (match some start, u.island.selfTest.valid && u.island.supply.down.isEmpty && !stays with
    | some st, true => startNow u c st
    | _, _ => beginStarts u [c]) = _
  cases u.island.selfTest.valid && u.island.supply.down.isEmpty && !stays <;> rfl

/-! ## Events of commands under way -/

/-- A commit that waits goes on where its fence stands and Kiln runs (R415). -/
theorem commitStep_runs {m : Commit} (hm : s.island.commit = some m) (hk : s.island.kiln = .running) (hf : fenceStands s m.chans = true)
    (h : m.mb < 33) : commitStep s = commitRun s ⟨m.mb, h⟩ m.words := by
  simp [commitStep, hm, hk, hf, h]

/-- No commit goes on while Kiln does not run (R400, R437). -/
theorem commitStep_waits (hk : s.island.kiln ≠ .running) : commitStep s = s := by
  unfold commitStep
  split
  · rfl
  · exact if_neg (fun h => hk h.1)

/-- A polled channel that does not answer is stale; the last one ends the poll with its reply (R427). -/
theorem pollTimeout_polled {c : Ch} {p : HealthPoll} (h : p.mb < 33) (hp : s.island.poll = some p) (hw : p.wait.contains c.val = true) :
    pollTimeout s c =
      let t := staleSection s c
      let left := p.wait.filter (fun x => x != c.val)
      if left.isEmpty then
        let u := modIsland t (fun i => { i with poll := none })
        mbOut u ⟨p.mb, h⟩ 0xC001 .ok (bsub (healthLog u ⟨p.mb, h⟩) p.off p.len)
      else modIsland t (fun i => { i with poll := some { p with wait := left } }) := by
  simp only [pollTimeout, hp, hw, h, healthReply, dif_pos, Bool.not_true, Bool.false_eq_true, if_false]

/-- Settles O50: each clause is a command that arrives where Kiln serves it, then what its run comes to. -/
theorem kilnCommandsRun : Obligations.KilnCommandsRun := by
  refine ⟨fun mb inp s => ⟨?getIdentity, ?getHealth, ?setTime, ?selfTestQuery, ?shutdown, ?stageWrite, ?stageRead, ?stageClear, ?commitCheck,
    ?commitApply, ?commitQuery, ?capRead, ?eventRead, ?channels⟩, fun s m hm => ⟨?fenceRunning, ?fenceHalted⟩, ?pollTimeout⟩
  case getIdentity => rintro h rfl; exact next_of_served h rfl (mbRun_rec_fg rfl _)
  case getHealth =>
    intro h hl hr hn answered
    exact next_of_served h rfl (runGetHealth_inRange hl hr hn)
  case setTime => intro h hl; exact next_of_served (mbServes_rec h).1 rfl (mbRun_serves_fg h (by simp [hl]) _)
  case selfTestQuery => rintro h rfl; exact next_of_served h rfl (mbRun_rec_fg rfl _)
  case shutdown => rintro rfl h rfl hb; exact next_of_served (mbServes_rec h).1 rfl (runShutdown_sideband h hb)
  case stageWrite => intro h h2 hl; exact next_of_served (mbServes_rec h).1 rfl (mbRun_serves_fg h (by simp [h2, ← hl]) _)
  case stageRead => intro h hl; exact next_of_served (mbServes_rec h).1 rfl (mbRun_serves_fg h (by simp [hl]) _)
  case stageClear => rintro h rfl; exact next_of_served (mbServes_rec h).1 rfl (mbRun_serves_fg h rfl _)
  case commitCheck => rintro h rfl; exact next_of_served (mbServes_rec h).1 rfl (mbRun_serves_fg h rfl _)
  case commitApply =>
    rintro h rfl
    obtain ⟨hempty, hstands, hwaits⟩ := runCommitApply_cases h
    have served {t : State} (hrun : runCommitApply mb [] s = t) : exec (.commitApply mb []) s = .next t :=
      next_of_served (mbServes_rec h).1 rfl hrun
    exact ⟨fun hw => served (hempty hw), fun hw hf => served (hstands hw hf), fun hw hf => served (hwaits hw hf)⟩
  case commitQuery => rintro h rfl; exact next_of_served h rfl (mbRun_rec_fg rfl _)
  case capRead =>
    intro h hl l hfind hn hlo hhi hlen
    exact next_of_served h rfl (runCapRead_inRange hl hfind hn hlo hhi hlen)
  case eventRead => intro h hl hc; exact next_of_served h rfl (runEventRead_defined hl hc)
  case channels =>
    intro hl c hc hn
    refine ⟨fun h hs => next_of_served h rfl (runChannelIsolate_present hl hc hn hs), fun h hb hcon start => ?_⟩
    obtain ⟨habsent, hpresent⟩ := runChannelReset_connected start hl hc hn hb hcon
    exact ⟨fun hs => next_of_served h rfl (habsent hs), fun hs => next_of_served h rfl (hpresent hs)⟩
  case fenceRunning =>
    intro hk hf h
    exact congrArg (fun t => Host.Outcome.next (mbDispatch t)) (commitStep_runs hm hk hf h)
  case fenceHalted => intro hk; exact congrArg (fun t => Host.Outcome.next (mbDispatch t)) (commitStep_waits hk)
  case pollTimeout =>
    intro c s p h hp hw
    exact congrArg (fun t => Host.Outcome.next (mbDispatch t)) (pollTimeout_polled h hp hw)

end Sys2Proof.Proofs
end

section
/-! SUPPORT. Where a host write to a channel block ends that does not reach the channel (R21, R313, R338, R459), and the statement about it. -/

namespace Sys2Proof.Proofs
open Sys2Proof Sys2Proof.Machine

variable {s : State} {l : Ld} {c : Ch}

/-! ## The checks of a host write, in their order -/

/-- No write arrives while CXL.io does not reach the device (R338, R459). -/
theorem chanWrite_ioDown (hio : ioUp s l = false) (off : Nat) (k : State → State) : chanWrite s l c off k = s := by
  simp [chanWrite, hio]

/-- On a channel of another logical device, or of none, only UNASSIGNED_CH is set (R313). -/
theorem chanWrite_unassigned (hio : ioUp s l = true) (hl : ldOfCh s c ≠ some l) (off : Nat) (k : State → State) :
    chanWrite s l c off k = accessErr s l aeUnassigned := by
  simp [chanWrite, hio, hl]

/-- On an assigned channel that is not Ready or Degraded the write is dropped with EV_CHANNEL_DOWN_ACCESS (R21). -/
theorem chanWrite_channelDown (hio : ioUp s l = true) (hl : ldOfCh s c = some l) (hup : isUp s c = false) (off : Nat) (k : State → State) :
    chanWrite s l c off k = raiseC s c 0x0201 sevWarn (natLe l.val 1 ++ natLe off 8) := by
  simp [chanWrite, hio, hl, hup]

/-! ## The host-write commands of a channel block -/

/-- RING_CFG is the third word of a ring's 32-byte block, which starts at 0x600 (R139). -/
theorem ringCfgOff_eq (r : Sys2Proof.Ring) : ringCfgOff r = 0x608 + 0x20 * r.val := by
  unfold ringCfgOff
  omega

/-- Each host-write command to a channel block is a checked write at the offset of its register. -/
theorem exec_hostWrite_eq_chanWrite (l : Ld) (c : Ch) (r : Sys2Proof.Ring) (g : Nat) (v : Word32) (s : State) :
    ∀ x ∈ ([(.ringTailWrite l c r v, 0x1000 + 4 * r.val), (.ringEnableWrite l c r v, ringCfgOff r), (.ringStopWrite l c r v, ringCfgOff r),
            (.ringDisableWrite l c r v, ringCfgOff r), (.gateSetWrite l c g v, 0x10000 + 4 * g), (.gateAddWrite l c g v, 0x14000 + 4 * g),
            (.clearLow l c v, 0x404), (.srSeedWrite l c v, 0x510), (.releaseLogEnableWrite l c v, 0x544), (.linkEnableWrite l c v, 0xA00),
            (.sqTailWrite l c g v, 0x2000 + 4 * g)] : List (Instr × Nat)),
      ∃ k : State → State, exec x.1 s = .next (chanWrite s l c (chBar c x.2) k) := by
  simp only [List.forall_mem_cons]
  exact ⟨⟨_, rfl⟩, ⟨_, rfl⟩, ⟨_, rfl⟩, ⟨_, rfl⟩, ⟨_, rfl⟩, ⟨_, rfl⟩, ⟨_, rfl⟩, ⟨_, rfl⟩, ⟨_, rfl⟩, ⟨_, rfl⟩, ⟨_, rfl⟩, nofun⟩

/-- Settles O10: each of the commands is a checked write, which ends at the first check that fails. -/
theorem hostWritesTurnedAway : Obligations.HostWritesTurnedAway := by
  intro l c r g v s down x hx
  rw [← ringCfgOff_eq] at hx
  obtain ⟨k, hk⟩ := exec_hostWrite_eq_chanWrite l c r g v s x hx
  rw [hk]
  refine ⟨fun hio => ?ioDown, fun hio hl => ?unassigned, fun hio hl hup => ?channelDown⟩
  case ioDown => exact congrArg _ (chanWrite_ioDown hio _ k)
  case unassigned => exact congrArg _ (chanWrite_unassigned hio hl _ k)
  case channelDown => exact congrArg _ (chanWrite_channelDown hio hl hup _ k)

end Sys2Proof.Proofs
end

section
/-! SUPPORT. The sequence table under the object commands of ring 8: which descriptors reach their checks, what a write of a slot leaves, how a slot opens
and closes (R50 to R55, R170), and the statements about them. -/

namespace Sys2Proof.Proofs
open Sys2Proof Sys2Proof.Machine Sys2Proof.Laws

variable {s : State} {c : Ch} {r : Sys2Proof.Ring} {slot op : Nat} {st : St}

/-! ## The descriptor at HEAD -/

/-- A ring whose HEAD descriptor nothing holds back is in no wait. -/
theorem runsNow_idle (h : runsNow s c r op = true) : (s.ring c r).wait = .idle := by
  simp only [runsNow, Bool.and_eq_true, beq_iff_eq] at h
  obtain ⟨⟨⟨⟨⟨⟨⟨-, hidle⟩, -⟩, -⟩, -⟩, -⟩, -⟩, -⟩ := h
  exact hidle

/-- A ring in no wait has no entries left to act on. -/
theorem droppingOf_idle (h : (s.ring c r).wait = .idle) (op : Nat) : droppingOf s c r op = none := by
  simp [droppingOf, h]

/-- A descriptor that waits between two entries has those left to act on, under its own opcode. -/
theorem droppingOf_dropping {ks : List Nat} {a b : Nat} (hup : isUp s c = true) (h : (s.ring c r).wait = .dropping ks a b)
    (hop : fld (headDesc s c r) 127 120 = op) : droppingOf s c r op = some (ks, a, b) := by
  simp [droppingOf, h, hup, hop]

/-- A descriptor that has not been admitted before has its handle checked (R54). -/
theorem admitCheck_fresh (h : freshHead s c r = true) (x : Handle) (frozenOk : Bool) : admitCheck s c r x frozenOk = seqCheck s c x frozenOk := by
  simp only [freshHead, Bool.not_eq_true'] at h
  simp [admitCheck, h]

/-! ## What events and the journal leave of the channels -/

/-- A message request changes no channel. -/
@[simp] theorem msixReq_chans (l : Ld) (vec : Nat) : (msixReq s l vec).chans = s.chans := by
  unfold msixReq
  split
  · rfl
  · split <;> rfl

/-- A record's signal changes no channel. -/
@[simp] theorem evSignal_chans (n : Fin 17) (sev : BitVec 2) : (evSignal s n sev).chans = s.chans := by
  unfold evSignal
  split
  · split
    · exact msixReq_chans _ _
    · rfl
  · split <;> rfl

/-- A record put into a queue changes no channel. -/
@[simp] theorem evWrite_chans (n : Fin 17) (x : EvRec) : (evWrite s n x).chans = s.chans := evSignal_chans _ _

/-- A dropped record changes no channel. -/
@[simp] theorem evDrop_chans (n : Fin 17) : (evDrop s n).chans = s.chans := rfl

/-- A record appended, dropped, or put after an overflow record changes no channel (R423). -/
@[simp] theorem evAppend_chans (n : Fin 17) (x : EvRec) : (evAppend s n x).chans = s.chans := by
  unfold evAppend
  dsimp only
  by_cases hfull : evFull s.island.evq[n] = true
  · rw [if_pos hfull, evDrop_chans]
  · by_cases hdrops : s.island.evq[n].drops = 0
    · rw [if_neg hfull, if_pos hdrops, evWrite_chans]
    · rw [if_neg hfull, if_neg hdrops, apply_ite State.chans]
      simp

/-- An event changes no channel (R422 to R424). -/
@[simp] theorem raiseOn_chans (qs : List (Fin 17)) (code : BitVec 16) (sev : BitVec 2) (d : Option Ch) (ld : Nat) (detail : List Byte) :
    (raiseOn s qs code sev d ld detail).chans = s.chans := by
  unfold raiseOn
  dsimp only
  exact List.foldlRecOn (motive := fun t : State => t.chans = s.chans) qs _ rfl (fun t ht n _ => (evAppend_chans n _).trans ht)

/-- An event of scope C changes no channel. -/
@[simp] theorem ch_raiseC (d : Ch) (code : BitVec 16) (sev : BitVec 2) (detail : List Byte) : (raiseC s c code sev detail).ch d = s.ch d := by
  simp only [State.ch, raiseC, raiseOn_chans]

/-- A journal record changes no object table. -/
@[simp] theorem jAppend_obj (d : Ch) (x : JRec) : ((jAppend s c x).ch d).obj = (s.ch d).obj := by
  unfold jAppend
  split
  · exact modMarl_ch_obj s c d _
  · rfl

/-- A SLOT record changes no object table (R55). -/
@[simp] theorem jSlot_obj (d : Ch) : ((jSlot s c slot).ch d).obj = (s.ch d).obj := by
  unfold jSlot
  dsimp only
  split <;> simp

/-! ## Reads of the sequence table -/

/-- What a slot reads is in the channel's object tables alone. -/
theorem seqAt_congr {t : State} (h : (t.ch c).obj.seqs = (s.ch c).obj.seqs) (k : Nat) : seqAt t c k = seqAt s c k := by
  simp only [seqAt, h]

/-- A SLOT record changes no slot. -/
@[simp] theorem seqAt_jSlot (k : Nat) : seqAt (jSlot s c slot) c k = seqAt s c k := seqAt_congr (by rw [jSlot_obj]) k

/-- An event changes no slot. -/
@[simp] theorem seqAt_raiseC (code : BitVec 16) (sev : BitVec 2) (detail : List Byte) (k : Nat) :
    seqAt (raiseC s c code sev detail) c k = seqAt s c k := seqAt_congr (by rw [ch_raiseC]) k

/-- A slot after a write of one of them, on a canonical table. -/
theorem seqAt_setSeq (h : smWf SeqEntry.free (s.ch c).obj.seqs = true) (e : SeqEntry) (k : Nat) :
    seqAt (setSeq s c slot e) c k = if k = slot then e else seqAt s c k := by
  have hr := (wf_iff.1 h).1
  simp only [seqAt, setSeq, modObj, ch_modCh_same]
  exact get_set hr

/-- Another channel's objects after a change of this one's. -/
theorem obj_modObj_ne {x : Ch} (h : x ≠ c) (f : Objects → Objects) : ((modObj s c f).ch x).obj = (s.ch x).obj := by
  simp [modObj, h]

/-! ## Nodes -/

/-- Taking nodes for a directory changes no sequence, and no other channel's objects. -/
theorem allocRun_frame {t : State} {ks : List NodeKey} (h : allocRun s c ks = some t) :
    (t.ch c).obj.seqs = (s.ch c).obj.seqs ∧ ∀ x : Ch, x ≠ c → (t.ch x).obj = (s.ch x).obj := by
  unfold allocRun at h
  dsimp only at h
  split at h
  · cases h
    exact ⟨by simp [modObj], fun x hx => obj_modObj_ne hx _⟩
  · cases h

/-! ## The checks of a handle (R54) -/

/-- Each of the descriptors that name a sequence ends at the check of its handle that fails. -/
theorem exec_seqDescriptors_handleBad (hfresh : freshHead s c r = true)
    (hbad : seqCheck s c (handleOf (fld (headDesc s c r) 1023 976)) false = some st) :
    (runsNow s c r 0x44 = true → exec (.blockCreate c r) s = .next (retire s c r (cplSt st))) ∧
    (runsNow s c r 0x42 = true → exec (.attach c r) s = .next (retire s c r (cplSt st))) ∧
    (runsNow s c r 0x45 = true → exec (.prune c r) s = .next (retire s c r (cplSt st))) ∧
    (runsNow s c r 0x46 = true → fld (headDesc s c r) 975 974 = 0 → exec (.setProtect c r) s = .next (retire s c r (cplSt st))) := by
  have hcheck := (admitCheck_fresh hfresh (handleOf (fld (headDesc s c r) 1023 976)) false).trans hbad
  refine ⟨fun hrun => ?blockCreate, fun hrun => ?attach, fun hrun => ?prune, fun hrun hkind => ?setProtect⟩
  case blockCreate =>
    show execBlockCreate c r s = _
    rw [execBlockCreate, runHead_runs hrun]
    simp only [hcheck]; rfl
  case attach =>
    show execAttach c r s = _
    rw [execAttach, runHead_runs hrun]
    simp only [hcheck]; rfl
  case prune =>
    show execPrune c r s = _
    rw [execPrune, droppingOf_idle (runsNow_idle hrun), runHead_runs hrun]
    simp only [hcheck]; rfl
  case setProtect =>
    show execSetProtect c r s = _
    rw [execSetProtect, runHead_runs hrun]
    simp only [hcheck, hkind]; rfl

/-- A `SeqClose` ends at the check of its handle that fails; a Frozen sequence passes (R50). -/
theorem exec_seqClose_handleBad (hrun : runsNow s c r 0x41 = true)
    (hbad : seqCheck s c (handleOf (fld (headDesc s c r) 1023 976)) true = some st) :
    exec (.seqClose c r) s = .next (retire s c r (cplSt st)) := by
  show execSeqClose c r s = _
  rw [execSeqClose, droppingOf_idle (runsNow_idle hrun), runHead_runs hrun]
  simp only [hbad]; rfl

/-- Settles O32: the checks of R54 are the first of each body. -/
theorem handleChecksComeInOrder : Obligations.HandleChecksComeInOrder := by
  intro c r s hfresh d h e status st
  have hstatus (frozenOk : Bool) : status frozenOk = seqCheck s c h frozenOk := by
    cases frozenOk <;> simp [status, seqCheck, seqSlots, e]
  simp only [hstatus]
  exact ⟨fun hbad => exec_seqDescriptors_handleBad hfresh hbad, fun hbad hrun => exec_seqClose_handleBad hrun hbad⟩

/-! ## SeqOpen (R51, R170) -/

/-- A `SeqOpen` ends at the check that fails. -/
theorem exec_seqOpen_bad (hrun : runsNow s c r 0x40 = true) (hbad : openBad s c (headDesc s c r) = some st) :
    exec (.seqOpen c r) s = .next (retire s c r (cplSt st)) := by
  show execSeqOpen c r s = _
  rw [execSeqOpen, runHead_runs hrun]
  simp only [hbad]; rfl

/-- A `SeqOpen` that passes its checks has its effect. -/
theorem exec_seqOpen_good (hrun : runsNow s c r 0x40 = true) (hgood : openBad s c (headDesc s c r) = none) :
    exec (.seqOpen c r) s = .next (openRun s c r (headDesc s c r)) := by
  show execSeqOpen c r s = _
  rw [execSeqOpen, runHead_runs hrun]
  simp only [hgood]

/-- What a `SeqOpen` answers for the state of its slot (R51). -/
def openBadState : SlotState → Option St
  | .free => none
  | .retired => some .slotRetired
  | _ => some .slotBusy

/-- Where every other check of R170 passes, the slot's state decides. -/
theorem openBad_byState {d : Nat} (hhome : (handleOf (fld d 1023 976)).home = c.val) (hslot : (handleOf (fld d 1023 976)).slot < seqSlots s c)
    (hgen : (handleOf (fld d 1023 976)).gen = 0) (hresv : fld d 864 128 = 0) (hpos : fld d 942 915 % 64 = 0) (hhd : fld d 945 943 < 5)
    (hring : if bit d 891 then fld d 942 915 = 0 ∧ 2 ≤ fld d 886 865 else fld d 890 887 = 0 ∧ fld d 886 865 = 0)
    (hfmt : formatsOk (fld d 945 943) (fld d 902 898) (fld d 897 893) = true) (hkey : keyInCh s c (fld d 914 903) = true) :
    openBad s c d = openBadState (seqAt s c (handleOf (fld d 1023 976)).slot).state := by
  have hc := c.isLt
  have hrange : ¬ (12 ≤ (handleOf (fld d 1023 976)).home ∨ seqSlots s c ≤ (handleOf (fld d 1023 976)).slot) := by omega
  have hbody : ¬ (resv d 864 128 = true ∨ (handleOf (fld d 1023 976)).gen ≠ 0 ∨ fld d 942 915 % 64 ≠ 0 ∨
      (bit d 891 = true ∧ (fld d 942 915 ≠ 0 ∨ fld d 886 865 < 2)) ∨ ((!bit d 891) = true ∧ (fld d 890 887 ≠ 0 ∨ fld d 886 865 ≠ 0))) := by
    cases hb : bit d 891
    · simp only [hb, Bool.false_eq_true, if_false] at hring
      simp [resv, hresv, hgen, hpos, hring]
    · simp only [hb, if_true] at hring
      have hspan : ¬ fld d 886 865 < 2 := by omega
      simp [resv, hresv, hgen, hring.1, hspan]
  unfold openBad
  dsimp only
  rw [if_neg hrange, if_neg (not_not.2 hhome), if_neg hbody, if_neg (by omega), if_neg (by simp [hfmt]), if_neg (by simp [hkey])]
  rfl

/-- A field cut to its own width is the field. -/
theorem toNat_ofNat_fld (d hi lo : Nat) {n : Nat} (h : hi + 1 - lo = n) : (BitVec.ofNat n (fld d hi lo)).toNat = fld d hi lo := by
  subst h
  simp [fld]

/-- A `SeqOpen` of a pool with too few nodes fails (R170). -/
theorem openRun_nodesFull {d : Nat}
    (h : allocRun s c (dirNodes (fld d 959 952 + 1) (fld d 951 946 + 1) (handleOf (fld d 1023 976)).slot) = none) :
    openRun s c r d = retire s c r (cplSt .nodesFull) := by
  rw [openRun, h]
  rfl

/-- The entry that a `SeqOpen` writes, once its directory's nodes are taken. -/
def openedEntry (t : State) (c : Ch) (d : Nat) (gen : BitVec 16) : SeqEntry :=
  { openEntry d gen with dirNode := BitVec.ofNat 24 (nodeOf t c (.dir (handleOf (fld d 1023 976)).slot 0)) }

/-- A `SeqOpen` whose nodes fit writes its entry and its SLOT record and retires with the handle (R169). -/
theorem openRun_opens {d : Nat} {t : State}
    (h : allocRun s c (dirNodes (fld d 959 952 + 1) (fld d 951 946 + 1) (handleOf (fld d 1023 976)).slot) = some t) :
    let slot := (handleOf (fld d 1023 976)).slot
    let gen := (seqAt s c slot).gen
    openRun s c r d = retire (jSlot (setSeq t c slot (openedEntry t c d gen)) c slot) c r (cplRes .ok (handleBits gen.toNat c.val slot)) := by
  rw [openRun, h]
  rfl

/-- Settles O31: the checks end a SeqOpen, the slot's state is the last of them, and the entry that it writes is the body's. -/
theorem seqOpenGoesByState : Obligations.SeqOpenGoesByState := by
  intro c r s hrun hwf d h e pos ring fails
  have hfail (st : St) (hbad : openBad s c d = some st) : fails st := exec_seqOpen_bad hrun hbad
  refine ⟨hfail, fun hhome hslot hgen hresv hpos hhd hring hfmt hkey => ?_⟩
  have hstate : openBad s c d = openBadState e.state := openBad_byState hhome hslot hgen hresv hpos hhd hring hfmt hkey
  have hpass (hfree : e.state = .free) : exec (.seqOpen c r) s = .next (openRun s c r d) :=
    exec_seqOpen_good hrun (hstate.trans (congrArg openBadState hfree))
  refine ⟨?busy, fun hretired => hfail _ (hstate.trans (congrArg openBadState hretired)),
    fun hfree hnone => (hpass hfree).trans (congrArg _ (openRun_nodesFull hnone)), fun hfree hsome => ?opens⟩
  case busy => rintro (h' | h' | h') <;> exact hfail _ (hstate.trans (congrArg openBadState h'))
  case opens =>
    obtain ⟨t, ht⟩ := Option.ne_none_iff_exists'.1 hsome
    obtain ⟨hseqs, hother⟩ := allocRun_frame ht
    have hread (k : Nat) : seqAt (jSlot (setSeq t c h.slot (openedEntry t c d e.gen)) c h.slot) c k =
        if k = h.slot then openedEntry t c d e.gen else seqAt s c k := by
      rw [seqAt_jSlot, seqAt_setSeq (hseqs ▸ hwf), seqAt_congr hseqs]
    refine ⟨jSlot (setSeq t c h.slot (openedEntry t c d e.gen)) c h.slot, (hpass hfree).trans (congrArg _ (openRun_opens ht)), ?_⟩
    dsimp only
    rw [hread, if_pos rfl]
    refine ⟨rfl, rfl, toNat_ofNat_fld d 942 915 rfl, rfl, toNat_ofNat_fld d 975 960 rfl, toNat_ofNat_fld d 959 952 rfl, toNat_ofNat_fld d 951 946 rfl,
      toNat_ofNat_fld d 945 943 rfl, toNat_ofNat_fld d 902 898 rfl, toNat_ofNat_fld d 897 893 rfl, toNat_ofNat_fld d 914 903 rfl, rfl, rfl,
      fun k hk => (hread k).trans (if_neg hk), fun x hx => ?_⟩
    rw [jSlot_obj, setSeq, obj_modObj_ne hx, hother x hx]

/-! ## SeqClose (R52, R53) -/

/-- A `SeqClose` that passes its checks marks its slot Closing, and waits while an admitted descriptor names it (R52, R53). -/
theorem exec_seqClose_marks (hrun : runsNow s c r 0x41 = true) (hgood : seqCheck s c (handleOf (fld (headDesc s c r) 1023 976)) true = none)
    (hresv : fld (headDesc s c r) 975 128 = 0) :
    let slot := (handleOf (fld (headDesc s c r) 1023 976)).slot
    let t := jSlot (modSeq s c slot (fun e => { e with state := .closing })) c slot
    exec (.seqClose c r) s = .next (if (seqAt t c slot).useCount = 0 then closeRetire t c r slot else setWait t c r (.closeDrain slot)) := by
  show execSeqClose c r s = _
  rw [execSeqClose, droppingOf_idle (runsNow_idle hrun), runHead_runs hrun]
  simp only [hgood, resv, hresv]
  rfl

/-- A close that nothing makes wait releases each of its entries, then the rest, and ends its slot. -/
theorem closeGo_free {ks : List Nat} (h : closeFree c r slot ks s = true) :
    closeGo c r slot ks s = retire (closeEnd (releaseRest (ks.foldl (fun t k => releaseEntry t c slot k) s) c slot) c slot) c r (cplSt .ok) := by
  induction ks generalizing s with
  | nil =>
    simp only [closeFree, Bool.not_eq_true'] at h
    simp only [closeGo, h, Bool.false_eq_true, if_false, List.foldl_nil]
    rfl
  | cons k ks ih =>
    simp only [closeFree, Bool.and_eq_true, Bool.not_eq_true'] at h
    obtain ⟨⟨hlog, hsweep⟩, hrest⟩ := h
    simp only [closeGo, hlog, hsweep, Bool.false_eq_true, if_false, List.foldl_cons]
    exact ih hrest

/-- What SEQ_CLOSE_RELEASE does at one ring (R53). -/
def releaseAtRing (c : Ch) (t : State) (r : Sys2Proof.Ring) : State :=
  match (t.ring c r).wait with
  | .closeDrain slot => if isUp t c && (seqAt t c slot).useCount == 0 then closeRetire t c r slot else t
  | _ => t

/-- SEQ_CLOSE_RELEASE goes over the rings in order. -/
theorem exec_seqCloseRelease_rings (c : Ch) (s : State) : exec (.seqCloseRelease c) s = .next (allRings.foldl (releaseAtRing c) s) := rfl

/-- A ring without a close that waits is left alone. -/
theorem releaseAtRing_other (h : ∀ k : Nat, (s.ring c r).wait ≠ .closeDrain k) : releaseAtRing c s r = s := by
  unfold releaseAtRing
  split
  · next k hk => exact absurd hk (h k)
  · rfl

/-- A close that waited begins to release once no admitted descriptor names its slot. -/
theorem releaseAtRing_drained (hup : isUp s c = true) (hwait : (s.ring c r).wait = .closeDrain slot) (huse : (seqAt s c slot).useCount = 0) :
    releaseAtRing c s r = closeRetire s c r slot := by
  simp [releaseAtRing, hwait, hup, huse]

/-- Where only ring 8 has a close that waits, the release of closes is that ring's. -/
theorem exec_seqCloseRelease (hup : isUp s c = true) (hwait : (s.ring c 8).wait = .closeDrain slot) (huse : (seqAt s c slot).useCount = 0)
    (hother : ∀ q : Sys2Proof.Ring, q ≠ 8 → ∀ k : Nat, (s.ring c q).wait ≠ .closeDrain k) :
    exec (.seqCloseRelease c) s = .next (closeRetire s c 8 slot) := by
  have hrings : allRings = [0, 1, 2, 3, 4, 5, 6, 7] ++ [8] := rfl
  have hbefore : List.foldl (releaseAtRing c) s [0, 1, 2, 3, 4, 5, 6, 7] = s :=
    List.foldlRecOn (motive := fun t => t = s) _ _ rfl fun t ht q hq => by
      rw [ht]
      exact releaseAtRing_other (hother q (by rintro rfl; revert hq; decide))
  rw [exec_seqCloseRelease_rings, hrings, List.foldl_append, hbefore]
  exact congrArg _ (releaseAtRing_drained hup hwait huse)

/-- The last step of a close: the slot is Free with the next generation, or Retired where that would wrap (R52, R80). -/
theorem closeEnd_seqAt (hwf : smWf SeqEntry.free (s.ch c).obj.seqs = true) (k : Nat) :
    seqAt (closeEnd s c slot) c k =
      if k = slot then
        if (seqAt s c slot).gen = 0xFFFF then { SeqEntry.free with gen := 0xFFFF, state := .retired }
        else { SeqEntry.free with gen := (seqAt s c slot).gen + 1 }
      else seqAt s c k := by
  unfold closeEnd
  dsimp only
  by_cases hgen : (seqAt s c slot).gen = 0xFFFF
  · rw [if_pos hgen, if_pos hgen, seqAt_raiseC, seqAt_jSlot, seqAt_setSeq hwf]
  · rw [if_neg hgen, if_neg hgen, seqAt_jSlot, seqAt_setSeq hwf]

/-- Settles O33: the mark, the wait and its end are the rows' own; the releases go in order; the last step writes one slot. -/
theorem closeAndItsEndAdvanceTheGeneration : Obligations.CloseAndItsEndAdvanceTheGeneration := by
  refine ⟨fun c r s hrun hgood hresv => exec_seqClose_marks hrun hgood hresv,
    fun c s slot hup hwait huse hother => exec_seqCloseRelease hup hwait huse hother,
    fun c r s slot hfree => ?releases, fun c r s ks a b hup hwait hop => ?resumes, fun c s slot hwf => ?ends⟩
  case releases =>
    rw [closeRetire, closeGo_free hfree, List.foldl_map]
    rfl
  case resumes =>
    show execSeqClose c r s = _
    rw [execSeqClose, droppingOf_dropping hup hwait hop]
  case ends =>
    intro e t
    exact ⟨(closeEnd_seqAt hwf slot).trans (if_pos rfl), fun k hk => (closeEnd_seqAt hwf k).trans (if_neg hk)⟩

end Sys2Proof.Proofs
end

section
/-! SUPPORT. An attention engine from its descriptor's admission to its end: the sequences left stay as they are while one runs (R109, R128, R157), a
descriptor admitted for the first time is counted (R53), a run ends in a retire or a wait (R164), and the statement about Attend. -/

namespace Sys2Proof.Proofs
open Sys2Proof Sys2Proof.Machine Sys2Proof.Laws

variable {s : State} {c : Ch} {r : Sys2Proof.Ring} {env : Env} {x : AttnCtx}

/-! ## The run of one sequence leaves the sequences after it -/

/-- A page dropped from the rows of a tile leaves the sequences that are left. -/
@[simp] theorem dropRows_subs (elig : List (List Nat)) (f : RowAcc → RowAcc) : (dropRows x elig f).subs = x.subs := rfl

/-- A page folded into the rows of a tile leaves the sequences that are left. -/
@[simp] theorem foldPage_subs (page : Nat) (ref : PageRef) (elig : List (List Nat)) (bytes : List Byte) :
    (foldPage s c x page ref elig bytes).subs = x.subs := rfl

/-- A page staged leaves the sequences that are left. -/
@[simp] theorem stagePage_subs (bytes : List Byte) : (stagePage s c r x bytes).2.subs = x.subs := rfl

/-- The start of a row tile leaves the sequences that are left. -/
@[simp] theorem tileBegin_subs : (tileBegin s c x).subs = x.subs := rfl

/-- The end of a row tile leaves the sequences that are left. -/
@[simp] theorem tileEnd_subs : (tileEnd s c x).2.subs = x.subs := by
  unfold tileEnd
  exact List.foldlRecOn (motive := fun a : State × AttnCtx => a.2.subs = x.subs) _ _ rfl (fun a ha _ _ => ha)

/-- The visit of a page, whatever it meets there, leaves the sequences that are left. -/
@[simp] theorem visitPage_subs (page : Nat) : (visitPage s c r x page).2.1.subs = x.subs := by
  unfold visitPage
  dsimp only
  repeat' split
  all_goals simp

/-- The visit of pages leaves the sequences that are left. -/
@[simp] theorem visitPages_subs (ps : List Nat) : (visitPages ps s c r x).2.1.subs = x.subs := by
  induction ps generalizing s x with
  | nil => rfl
  | cons p ps ih =>
    have hpage : (visitPage s c r x p).2.1.subs = x.subs := visitPage_subs p
    unfold visitPages
    split
    · next hgo => rw [ih, ← hpage, hgo]
    · next _ _ _ _ hstays => rw [← hpage, hstays]

/-- Row tiles leave the sequences that are left. -/
@[simp] theorem runTiles_subs (n : Nat) : (runTiles n s c r env x).2.1.subs = x.subs := by
  induction n generalizing s x with
  | zero => rfl
  | succ n ih =>
    unfold runTiles
    split
    · rfl
    · extract_lets y
      have hbegin : y.subs = x.subs := by unfold y; split <;> simp
      have hpages : (visitPages y.todo s c r y).2.1.subs = x.subs := (visitPages_subs _).trans hbegin
      split
      · next hgo => rw [ih, tileEnd_subs, ← hpages, hgo]
      · exact hpages

/-- The run of a sequence leaves the sequences after it (R157). -/
@[simp] theorem runSeq_subs : (runSeq s c r env x).2.1.subs = x.subs := by
  unfold runSeq
  extract_lets sel y
  have hselect : y.subs = x.subs := by unfold y; split <;> rfl
  have htiles : (runTiles (tilesOf y.cur - y.tile) s c r env y).2.1.subs = x.subs := (runTiles_subs _).trans hselect
  split
  · next hgo =>
    rw [hgo] at htiles
    split <;> exact htiles
  · exact htiles

/-! ## How a run ends -/

/-- The end of an attention descriptor at what its run comes to: it retires with ST_OK, waits at a page's gate, or retires with what stopped it, and with
the flags of its rows and the lowest COVERAGE (R128, R153, R164). -/
def attnEnd (c : Ch) (r : Sys2Proof.Ring) (y : State × AttnCtx × AttnStop) : State :=
  let cpl : Cpl := { status := 0, flags := y.2.1.flags, minCov := y.2.1.minCov, detail := 0, result := 0 }
  match y.2.2 with
  | .go => retire y.1 c r cpl
  | .wait g => setWait y.1 c r (.presence g false y.2.1)
  | .stop e n => retire y.1 c r { cpl with status := stBits e, detail := BitVec.ofNat 32 n }

/-- Where the current sequence runs to its end, the descriptor ends as those after it do (R157). -/
theorem runAttn_seqGoes (h : (runSeq s c r env x).2.2 = .go) :
    runAttn s c r env x =
      attnEnd c r (runSubs (runSeq s c r env x).2.1.subs (runSeq s c r env x).1 c r env (runSeq s c r env x).2.1) := by
  unfold runAttn
  split
  · next hgo => rw [hgo]; rfl
  · next hstays => exact (hstays _ _ (Prod.ext rfl (Prod.ext rfl h))).elim

/-- Where the current sequence waits or stops, so does the descriptor. -/
theorem runAttn_seqStays (h : (runSeq s c r env x).2.2 ≠ .go) : runAttn s c r env x = attnEnd c r (runSeq s c r env x) := by
  unfold runAttn
  split
  · next hgo => exact absurd (by rw [hgo]) h
  · rfl

/-- A descriptor of one sequence ends as that sequence does. -/
theorem runAttn_lastSeq (hlast : x.subs = []) : runAttn s c r env x = attnEnd c r (runSeq s c r env x) := by
  by_cases h : (runSeq s c r env x).2.2 = .go
  · rw [runAttn_seqGoes h, runSeq_subs, hlast, runSubs, ← h]
  · exact runAttn_seqStays h

/-! ## Admission and Attend (R53, R153) -/

/-- A descriptor not admitted before, none of whose slots is full, is counted in each of them and goes on (R53). -/
theorem admitUse_fresh {slots : List Nat} (hfresh : freshHead s c r = true) (hroom : slots.any (useFull s c) = false) (k : State → State) :
    admitUse s c r slots k = k (slots.foldl (fun t slot => countUse t c r slot) s) := by
  simp only [freshHead, wasAdmitted, Bool.not_eq_true', Bool.or_eq_false_iff, Bool.not_eq_false'] at hfresh
  obtain ⟨⟨-, huncounted⟩, -⟩ := hfresh
  simp [admitUse, huncounted, hroom]

/-- An Attend that passes its checks is counted and runs its sequence, with the LENGTH of its admission (R57). -/
theorem exec_attend_runs (hrun : runsNow s c r 0x01 = true) :
    let d := headDesc s c r
    let s1 := takeEnv s c env
    let h := handleOf (fld d 1023 976)
    let u := countUse s1 c r h.slot
    let p := attendParams u c d
    freshHead s1 c r = true → seqCheck s1 c h false = none → lhBad s1 c h.slot (fld d 975 968) (fld d 967 962) = false →
    fld d 700 384 = 0 → (fld d 961 959 = 4 ∨ fld d 383 128 = 0) → useFull s1 c h.slot = false → attnBad u c p true = none →
    keyLoaded u (seqAt u c h.slot).owner.toNat = true →
    exec (.attend c r env) s = .next (runAttn u c r env (attnStart p [] [h.slot] (hdrOf d).tag)) := by
  intro d s1 h u p hfresh hhandle hlh hresv htree hroom hattn hkey
  have hbody : ¬ (resv d 700 384 = true ∨ fld d 961 959 ≠ 4 ∧ resv d 383 128 = true) := by
    rcases htree with htree | htree <;> simp [resv, hresv, htree]
  have hadmit := admitUse_fresh (slots := [h.slot]) hfresh (by simp [hroom])
  show execAttend c r env s = _
  rw [execAttend, runHead_runs hrun]
  dsimp only
  rw [admitCheck_fresh hfresh, hhandle]
  dsimp only
  rw [hlh, if_neg Bool.false_ne_true, if_neg hbody, hadmit]
  dsimp only [List.foldl_cons, List.foldl_nil]
  rw [hattn]
  exact congrArg _ (if_neg (by rw [hkey]; decide))

/-- Settles O18: the sequence of an admitted Attend runs alone, and the descriptor ends as it does. -/
theorem attendRunsItsTiles : Obligations.AttendRunsItsTiles := by
  intro c r env s hrun d s1 h u p hfresh hhandle hlh hresv htree hroom hattn hkey y cpl
  have hexec : exec (.attend c r env) s = .next (attnEnd c r y) :=
    (exec_attend_runs hrun hfresh hhandle hlh hresv htree hroom hattn hkey).trans (congrArg _ (runAttn_lastSeq rfl))
  refine ⟨fun hgo => ?retires, fun g hwait => ?waits, fun e n hstop => ?stops⟩
  case retires => rw [hexec, attnEnd, hgo]
  case waits => rw [hexec, attnEnd, hwait]
  case stops => rw [hexec, attnEnd, hstop]

end Sys2Proof.Proofs
end

section
/-! SUPPORT. Gates and the life of a descriptor: what a change of a gate leaves of its channel and of each ring's wait (R145, R148), what one retire
does to its ring, to T0 and to the gates (R141, R147, R151), how a stopped ring ends its descriptors (R173), and the statements about them. -/

namespace Sys2Proof.Proofs
open Sys2Proof Sys2Proof.Machine Sys2Proof.Laws

variable {s : State} {c : Ch} {r : Sys2Proof.Ring} {g : Nat} {v : Word32}

/-! ## Changes of a channel -/

/-- A channel put back as it is. -/
theorem setCh_ch : setCh s c (s.ch c) = s := by
  simp [setCh, State.ch]

/-- Two changes of a channel are one. -/
theorem modCh_modCh (f h : Channel → Channel) : modCh (modCh s c f) c h = modCh s c (fun ch => h (f ch)) := by
  simp [modCh, setCh, State.ch]

/-- Two changes of a ring are one. -/
theorem modRing_modRing (f h : RingState → RingState) : modRing (modRing s c r f) c r h = modRing s c r (fun x => h (f x)) := by
  simp [modRing, modCh_modCh]

/-- A change of a ring is what it makes of the ring as it stands. -/
theorem modRing_congr {f h : RingState → RingState} (heq : f (s.ring c r) = h (s.ring c r)) : modRing s c r f = modRing s c r h := by
  show modRing s c r (fun _ => f (s.ring c r)) = modRing s c r (fun _ => h (s.ring c r))
  rw [heq]

/-- A change that leaves a ring as it stands is none. -/
theorem modRing_self {f : RingState → RingState} (h : f (s.ring c r) = s.ring c r) : modRing s c r f = s := by
  have hset : modRing s c r f = setCh s c (s.ch c) := by
    rw [modRing_congr (h := id) h]
    simp [modRing, modCh]
  rw [hset, setCh_ch]

/-- All nine rings are listed. -/
theorem mem_allRings (r : Sys2Proof.Ring) : r ∈ allRings := by
  revert r
  decide

/-! ## The waits that a change of a gate satisfies (R145, R148, R164) -/

/-- Where a wait of a descriptor with header `h` stands once gate `g` has changed to the count `n`. -/
def latchedWait (h : Hdr) (g : Nat) (n : Word32) : RingWait → RingWait
  | .gate false => .gate (decide (h.waitGate = g ∧ gateMet n (BitVec.ofNat 32 h.waitCount) = true))
  | .presence k false x => .presence k (decide (k = g)) x
  | w => w

/-- A change of a gate, noted at a ring, changes that ring's wait alone. -/
theorem latchRing_eq_setWait :
    latchRing s c g r = setWait s c r (latchedWait (hdrOf (headDesc s c r)) g (gateCount s c g) (s.ring c r).wait) := by
  have hsame {w : RingWait} (hw : (s.ring c r).wait = w) : s = setWait s c r w := by
    rw [setWait, modRing_self (by rw [← hw])]
  unfold latchRing
  dsimp only
  split
  · next hw =>
    simp only [hw, latchedWait]
    split
    · next hmet => rw [decide_eq_true hmet]
    · next hmet => rw [decide_eq_false hmet]; exact hsame hw
  · next hw =>
    simp only [hw, latchedWait]
    split
    · next hgate => rw [decide_eq_true hgate]
    · next hgate => rw [decide_eq_false hgate]; exact hsame hw
  · next hgate hpres =>
    rw [latchedWait.eq_3 _ _ _ _ hgate hpres]
    exact hsame rfl

/-- A change of another ring's wait leaves the descriptor at a ring's HEAD. -/
theorem headDesc_setWait_ne {q : Sys2Proof.Ring} (h : r ≠ q) (w : RingWait) : headDesc (setWait s c q w) c r = headDesc s c r := by
  simp [setWait, headDesc, descAt, t0Num, t0Read, h]

/-- A change of a gate, noted at each of some rings. -/
theorem ring_latchRings {l : List Sys2Proof.Ring} (hl : l.Nodup) :
    (l.foldl (fun t q => latchRing t c g q) s).ring c r =
      if r ∈ l then { s.ring c r with wait := latchedWait (hdrOf (headDesc s c r)) g (gateCount s c g) (s.ring c r).wait } else s.ring c r := by
  induction l generalizing s with
  | nil => rfl
  | cons q l ih =>
    obtain ⟨hq, hl⟩ := List.nodup_cons.1 hl
    rw [List.foldl_cons, ih hl, latchRing_eq_setWait]
    by_cases h : r = q
    · subst h
      simp [hq, setWait]
    · rw [headDesc_setWait_ne h]
      simp [h, setWait, gateCount]

/-- A change of a gate, noted at rings, changes nothing of the state but the channel's rings. -/
theorem latchRings_modCh (l : List Sys2Proof.Ring) :
    ∃ rs, l.foldl (fun t q => latchRing t c g q) s = modCh s c (fun ch => { ch with rings := rs }) := by
  induction l generalizing s with
  | nil => exact ⟨(s.ch c).rings, setCh_ch.symm⟩
  | cons q l ih =>
    obtain ⟨rs, hrs⟩ := ih (s := latchRing s c g q)
    refine ⟨rs, ?_⟩
    rw [List.foldl_cons, hrs, latchRing_eq_setWait, setWait, modRing, modCh_modCh]

/-- A set of a gate changes nothing of the state but the channel's gates, its rings and its link port. -/
theorem gateSet_modCh (s : State) (c : Ch) (g : Nat) (v : Word32) :
    ∃ rs l, gateSet s c g v = modCh s c (fun ch => { ch with gates := smSet 0 ch.gates g v, rings := rs, link := l }) := by
  obtain ⟨rs, hrs⟩ := latchRings_modCh (s := modCh s c (fun ch => { ch with gates := smSet 0 ch.gates g v })) (c := c) (g := g) allRings
  exact ⟨rs, _, by rw [gateSet, hrs, latchConns, modCh_modCh, modCh_modCh]; rfl⟩

/-- The gates after a set of one of them. -/
theorem gates_gateSet : ((gateSet s c g v).ch c).gates = smSet 0 (s.ch c).gates g v := by
  obtain ⟨rs, l, h⟩ := gateSet_modCh s c g v
  rw [h, ch_modCh_same]

/-- Another channel after a set of a gate. -/
theorem ch_gateSet_ne {d : Ch} (h : d ≠ c) : (gateSet s c g v).ch d = s.ch d := by
  obtain ⟨rs, l, hs⟩ := gateSet_modCh s c g v
  rw [hs, ch_modCh_ne _ h]

/-- A ring after a set of a gate: its wait re-evaluates, under the new count (R145, R148). -/
theorem ring_gateSet : (gateSet s c g v).ring c r =
    { s.ring c r with wait := latchedWait (hdrOf (headDesc s c r)) g (gateCount (gateSet s c g v) c g) (s.ring c r).wait } := by
  have hconns (t : State) : (latchConns t c g).ring c r = t.ring c r := by simp [State.ring, latchConns]
  have hcount : gateCount (gateSet s c g v) c g = gateCount (modCh s c (fun ch => { ch with gates := smSet 0 ch.gates g v })) c g := by
    simp [gateCount, gates_gateSet]
  rw [hcount]
  rw [gateSet, hconns, ring_latchRings (by decide), if_pos (mem_allRings r)]
  simp [State.ring, headDesc, descAt, t0Num, t0Read]

/-- Settles O12: each ring's wait is re-evaluated once, by the count that the gate then has. -/
theorem gateChangeReleasesWaiters : Obligations.GateChangeReleasesWaiters := by
  intro s c g v r t h
  have hwait : (t.ring c r).wait = latchedWait h g (gateCount t c g) (s.ring c r).wait := by rw [ring_gateSet]
  refine ⟨fun hw hg hm => ?satisfied, fun hw => ?stays, fun hw hnot => ?waits, fun d hd => ch_gateSet_ne hd⟩
  case satisfied => simp [hwait, hw, latchedWait, hg, hm]
  case stays => simp [hwait, hw, latchedWait]
  case waits =>
    rcases hnot with hg | hm
    · simp [hwait, hw, latchedWait, hg]
    · simp [hwait, hw, latchedWait, hm]

/-! ## What a retire leaves in its ring, in T0 and in the gates (R141, R147, R151) -/

/-- Two states whose channels differ in their object tables alone. -/
def SameButObjects (s t : State) : Prop := ∀ d : Ch, ∃ o, t.ch d = { s.ch d with obj := o }

/-- A change of the objects of a channel. -/
theorem SameButObjects.modObj {t : State} (h : SameButObjects s t) (f : Objects → Objects) : SameButObjects s (modObj t c f) := by
  intro d
  obtain ⟨o, ho⟩ := h d
  by_cases hd : d = c
  · subst hd
    exact ⟨f o, by simp [Machine.modObj, ho]⟩
  · exact ⟨o, by simp [Machine.modObj, hd, ho]⟩

/-- The end of a descriptor's counts in USE_COUNT and in DRAIN changes object tables, the island, and its ring's lists (R53, R359). -/
theorem dropUses_eq : ∃ u, dropUses s c r = modRing u c r (fun g => { g with inUse := [], regs := [] }) ∧ SameButObjects s u := by
  refine ⟨_, rfl, ?_⟩
  refine List.foldlRecOn (motive := SameButObjects s) _ _ ?_ (fun t ht x _ => ht)
  exact List.foldlRecOn (motive := SameButObjects s) _ _ (fun d => ⟨(s.ch d).obj, rfl⟩) (fun t ht x _ => ht.modObj _)

/-- The state once a descriptor's completion record is written and its guards are cleared, before its add (R147). -/
def recorded (s : State) (c : Ch) (r : Sys2Proof.Ring) (h : Hdr) (x : Cpl) : State :=
  modRefPort (clearGuard (writeCpl (dropUses s c r) c r h x) c r) c (fun p => { p with held := p.held.filter (fun y => y != .ring r.val) })

/-- The completion that a retire records: ADD_REFUSED is set where an add that is due is refused (R146). -/
def markRefused (s : State) (c : Ch) (h : Hdr) (x : Cpl) (adds : Bool) : Cpl :=
  if adds && addsGate h x && addRefused s c h then { x with flags := x.flags ||| flAddRefused } else x

/-- A retire's channels are those of its record, and of its add where one is due: its message changes none. -/
theorem retire1_chans (x : Cpl) (adds : Bool) :
    let h := hdrOf (headDesc s c r)
    let u := recorded s c r h (markRefused s c h x adds)
    (retire1 s c r x adds).chans = (if adds && addsGate h x then (gateAddTo u c h.addCh h.addGate h.addAmount).1 else u).chans := by
  intro h u
  have hmsg (t : State) (l : Option Ld) (vec : Nat) : (if h.irq then (match l with | some l => msixReq t l vec | none => t) else t).chans = t.chans := by
    split
    · split
      · exact msixReq_chans _ _
      · rfl
    · rfl
  exact hmsg _ _ _

/-- A free value drawn changes no channel. -/
@[simp] theorem ch_drawFree (d : Ch) : (drawFree s).2.ch d = s.ch d := rfl

/-- A free value drawn changes no ring. -/
@[simp] theorem ring_drawFree (d : Ch) (q : Sys2Proof.Ring) : (drawFree s).2.ring d q = s.ring d q := rfl

/-- The end of a guard changes no ring. -/
@[simp] theorem ring_clearGuard (d : Ch) (q : Sys2Proof.Ring) (n : Nat) : (clearGuard s c n).ring d q = s.ring d q := by
  by_cases h : d = c
  · subst h
    simp [clearGuard, State.ring]
  · simp [clearGuard, State.ring, h]

/-- A ring after the record of its descriptor: the next entry is at HEAD, and nothing waits (R141). -/
def ringAdvanced (g : RingState) : RingState :=
  { g with head := BitVec.ofNat 12 ((g.head.toNat + 1) % ringSize g), retired := g.retired + 1,
           phase := if (g.head.toNat + 1) % ringSize g = 0 then !g.phase else g.phase, wait := .idle, old := none, evicted := 0 }

/-- A completion record's ring. -/
theorem ring_writeCpl (h : Hdr) (x : Cpl) : (writeCpl s c r h x).ring c r = ringAdvanced (s.ring c r) := by
  simp [writeCpl, ringAdvanced]

/-- A completion record in T0 (R151). -/
theorem t0_writeCpl (h : Hdr) (x : Cpl) : ((writeCpl s c r h x).ch c).t0 =
    smBytes (s.ch c).t0 ((s.ring c r).cplBase.toNat * 4096 + 32 * (s.ring c r).head.toNat)
      (cplRecord (s.ring c r).phase h x ((s.ring c r).retired + 1) ((drawFree s).1.setWidth 32)) := by
  simp [writeCpl, t0Write]

/-- A completion record of one channel changes no other. -/
theorem ch_writeCpl_ne {d : Ch} (hd : d ≠ c) (h : Hdr) (x : Cpl) : (writeCpl s c r h x).ch d = s.ch d := by
  simp [writeCpl, t0Write, hd]

/-- The ring of a descriptor whose record is written (R141, R147). -/
theorem ring_recorded (h : Hdr) (x : Cpl) :
    (recorded s c r h x).ring c r = ringAdvanced { s.ring c r with inUse := [], regs := [] } := by
  obtain ⟨u, hu, hsame⟩ := dropUses_eq (s := s) (c := c) (r := r)
  obtain ⟨o, ho⟩ := hsame c
  have hring : u.ring c r = s.ring c r := by simp [State.ring, ho]
  simp [recorded, modRefPort, ring_writeCpl, hu, hring]

/-- T0 of a channel once a descriptor's record is written in it (R151). -/
theorem t0_recorded (h : Hdr) (x : Cpl) : ∃ elapsed : Word32, ((recorded s c r h x).ch c).t0 =
    smBytes (s.ch c).t0 ((s.ring c r).cplBase.toNat * 4096 + 32 * (s.ring c r).head.toNat)
      (cplRecord (s.ring c r).phase h x ((s.ring c r).retired + 1) elapsed) := by
  obtain ⟨u, hu, hsame⟩ := dropUses_eq (s := s) (c := c) (r := r)
  obtain ⟨o, ho⟩ := hsame c
  have hring : u.ring c r = s.ring c r := by simp [State.ring, ho]
  refine ⟨(drawFree (dropUses s c r)).1.setWidth 32, ?_⟩
  simp [recorded, modRefPort, clearGuard, t0_writeCpl, hu, hring, ho]

/-- Another channel once a descriptor's record is written: its object tables alone may differ. -/
theorem ch_recorded_ne {d : Ch} (hd : d ≠ c) (h : Hdr) (x : Cpl) : ∃ o, (recorded s c r h x).ch d = { s.ch d with obj := o } := by
  obtain ⟨u, hu, hsame⟩ := dropUses_eq (s := s) (c := c) (r := r)
  obtain ⟨o, ho⟩ := hsame d
  exact ⟨o, by simp [recorded, modRefPort, modObj, clearGuard, ch_writeCpl_ne hd, hu, hd, ho]⟩

/-- The record of a descriptor changes no gate and queues no gate add (R143). -/
theorem gates_recorded (d : Ch) (h : Hdr) (x : Cpl) :
    ((recorded s c r h x).ch d).gates = (s.ch d).gates ∧ ((recorded s c r h x).ch d).gateQ = (s.ch d).gateQ := by
  by_cases hd : d = c
  · subst hd
    obtain ⟨u, hu, hsame⟩ := dropUses_eq (s := s) (c := d) (r := r)
    obtain ⟨o, ho⟩ := hsame d
    simp [recorded, modRefPort, clearGuard, writeCpl, hu, ho]
  · obtain ⟨o, ho⟩ := ch_recorded_ne (s := s) (r := r) hd h x
    simp [ho]

/-- A gate add leaves the state, sets a gate of its own channel, or queues an add at another (R21, R146). -/
theorem gateAddTo_cases (dst n : Nat) :
    (gateAddTo s c dst g n).1 = s ∨ (∃ v, (gateAddTo s c dst g n).1 = gateSet s c g v) ∨
    ∃ d q, (gateAddTo s c dst g n).1 = modCh s d (fun ch => { ch with gateQ := q }) := by
  unfold gateAddTo
  split
  · exact .inl rfl
  · split
    · exact .inl rfl
    · split
      · exact .inr (.inl ⟨_, rfl⟩)
      · split
        · exact .inr (.inr ⟨_, _, rfl⟩)
        · exact .inl rfl

/-- A change of a channel's queue of gate adds, seen from any channel. -/
theorem ch_modCh_gateQ (d b : Ch) (q : List GateAdd) :
    ∃ q', (modCh s d (fun ch => { ch with gateQ := q })).ch b = { s.ch b with gateQ := q' } := by
  by_cases hb : b = d
  · subst hb
    exact ⟨q, ch_modCh_same _ _ _⟩
  · exact ⟨(s.ch b).gateQ, ch_modCh_ne _ hb _⟩

/-- A gate add changes no ring in no wait. -/
theorem ring_gateAddTo_idle (dst n : Nat) (hidle : (s.ring c r).wait = .idle) : (gateAddTo s c dst g n).1.ring c r = s.ring c r := by
  rcases gateAddTo_cases (s := s) (c := c) (g := g) dst n with h | ⟨v, h⟩ | ⟨d, q, h⟩
  · rw [h]
  · rw [h, ring_gateSet, hidle]
    simp only [latchedWait, ← hidle]
  · obtain ⟨q', hq⟩ := ch_modCh_gateQ (s := s) d c q
    rw [h, State.ring, hq]
    rfl

/-- A gate add changes no byte of T0. -/
theorem t0_gateAddTo (b : Ch) (dst n : Nat) : ((gateAddTo s c dst g n).1.ch b).t0 = (s.ch b).t0 := by
  rcases gateAddTo_cases (s := s) (c := c) (g := g) dst n with h | ⟨v, h⟩ | ⟨d, q, h⟩
  · rw [h]
  · rw [h]
    by_cases hb : b = c
    · subst hb
      obtain ⟨rs, l, hset⟩ := gateSet_modCh s b g v
      rw [hset, ch_modCh_same]
    · rw [ch_gateSet_ne hb]
  · obtain ⟨q', hq⟩ := ch_modCh_gateQ (s := s) d b q
    rw [h, hq]

/-- A ring after one retire of its descriptor (R141, R147). -/
theorem ring_retire1 (x : Cpl) (adds : Bool) :
    (retire1 s c r x adds).ring c r = ringAdvanced { s.ring c r with inUse := [], regs := [] } := by
  rw [State.ring, State.ch, retire1_chans]
  split
  · exact (ring_gateAddTo_idle _ _ (by rw [ring_recorded]; rfl)).trans (ring_recorded _ _)
  · exact ring_recorded _ _

/-- T0 after one retire is that of its record. -/
theorem t0_retire1 (x : Cpl) (adds : Bool) (b : Ch) :
    ((retire1 s c r x adds).ch b).t0 =
      ((recorded s c r (hdrOf (headDesc s c r)) (markRefused s c (hdrOf (headDesc s c r)) x adds)).ch b).t0 := by
  rw [State.ch, retire1_chans]
  split
  · exact t0_gateAddTo b _ _
  · rfl

/-- Settles O13: the fields of the ring that a retire leaves. -/
theorem retireAdvancesHead : Obligations.RetireAdvancesHead := by
  intro s c r x adds g t hd
  have hring : t = ringAdvanced { g with inUse := [], regs := [] } := ring_retire1 x adds
  rw [hring]
  exact ⟨rfl, rfl, rfl, rfl, rfl, rfl, rfl, rfl, rfl, rfl, rfl, rfl, rfl⟩

/-! ## The completion record (R151) -/

/-- A number laid out in `k` bytes has `k` bytes. -/
@[simp] theorem natLe_length (n k : Nat) : (natLe n k).length = k := by
  induction k generalizing n with
  | zero => rfl
  | succ k ih => simp [natLe, ih]

/-- Settles O14: the record is 32 bytes of one write of T0, and nothing after it in the retire writes T0. -/
theorem completionRecordIsWritten : Obligations.CompletionRecordIsWritten := by
  intro s c r x adds hmem g h at0 refused t
  have hrising : smRising none (s.ch c).t0 = true := by
    simp only [chMemOk, Bool.and_eq_true] at hmem
    exact (wf_iff.1 hmem.1).1
  obtain ⟨elapsed, hrec⟩ := t0_recorded (s := s) (c := c) (r := r) h (markRefused s c h x adds)
  have ht0 : (t.ch c).t0 = smBytes (s.ch c).t0 at0 (cplRecord g.phase h (markRefused s c h x adds) (g.retired + 1) elapsed) :=
    (t0_retire1 x adds c).trans hrec
  have hlen : (cplRecord g.phase h (markRefused s c h x adds) (g.retired + 1) elapsed).length = 32 := natLe_length _ _
  refine ⟨⟨elapsed, ?record⟩, fun a ha => ?outside, fun d hd => ?other⟩
  case record =>
    have hread := read_bytes (a := at0) (bs := cplRecord g.phase h (markRefused s c h x adds) (g.retired + 1) elapsed) hrising
    rw [hlen] at hread
    rw [t0Read, ht0, hread]
    rfl
  case outside => rw [ht0, get_bytes hrising, dif_neg (by rw [hlen]; omega)]
  case other =>
    obtain ⟨o, ho⟩ := ch_recorded_ne (s := s) (r := r) hd h (markRefused s c h x adds)
    exact (t0_retire1 x adds d).trans (by rw [ho])

/-! ## The checks of a header (R143) -/

/-- An opcode that a ring does not accept is refused under the `Nop` row (R143; log 20). -/
theorem exec_nop_badOpcode (ht : ringTakes s c r = true) (hidle : (s.ring c r).wait = .idle)
    (hbad : opcodeOn (hdrOf (headDesc s c r)).opcode r.val = false) :
    exec (.nop c r) s = .next (retireAs s c r (cplSt .badOpcode) false) := by
  show execNop c r s = _
  simp [execNop, runHead, ht, hidle, hbad, headerBad]

/-- A field of the header that R143 does not allow is refused under every row of its opcode. -/
theorem runHead_badField (ht : ringTakes s c r = true) (hidle : (s.ring c r).wait = .idle) {h : Hdr} (hh : hdrOf (headDesc s c r) = h)
    (hop : opcodeOn h.opcode r.val = true)
    (hbad : 12 ≤ h.addCh ∨ (h.waitGate ≠ 0xFFF ∧ 4094 < h.waitGate) ∨ (h.addGate ≠ 0xFFF ∧ 4094 < h.addGate) ∨ h.reserved ≠ 0)
    (body : Nat → State → State) : runHead s c r h.opcode body = retireAs s c r (cplSt .badField) false := by
  have hfield : headerBad h r.val = some .badField := by
    rw [headerBad, if_neg (by simp [hop])]
    exact if_pos hbad
  simp [runHead, ht, hidle, hh, hop, hfield]

/-- Settles O15: the header is checked first, and a retire without the add changes no gate. -/
theorem headerIsCheckedBeforeTheWait : Obligations.HeaderIsCheckedBeforeTheWait := by
  intro s c r ht hidle h
  refine ⟨fun hbad => exec_nop_badOpcode ht hidle hbad, fun hop hbad body => runHead_badField ht hidle rfl hop hbad body, fun x d => ?noAdd⟩
  case noAdd =>
    rw [State.ch, retire1_chans]
    exact gates_recorded d _ _

end Sys2Proof.Proofs
end

section
/-! SUPPORT. Host writes that reach a channel, and the events of gates, waits and pace windows: what each takes (R139, R140, R146, R148, R173, R174,
R39, R104, R237), STOP to the end of a ring's descriptors (R173), and the statements about them. -/

namespace Sys2Proof.Proofs
open Sys2Proof Sys2Proof.Machine Sys2Proof.Laws

variable {s : State} {l : Ld} {c : Ch} {r : Sys2Proof.Ring} {v : Word32}

/-! ## Words -/

/-- A bit of a word. -/
theorem bit_toNat (i : Nat) : bit v.toNat i = v.getLsbD i := rfl

/-- Two words that agree on the bits of a field have the same field. -/
theorem ofNat_field_congr {w : Word32} {lo n : Nat} (h : ∀ i < n, v.getLsbD (lo + i) = w.getLsbD (lo + i)) :
    BitVec.ofNat n (v.toNat / 2 ^ lo) = BitVec.ofNat n (w.toNat / 2 ^ lo) := by
  refine BitVec.eq_of_getLsbD_eq fun i hi => ?_
  simp only [BitVec.getLsbD_ofNat, hi, decide_true, Bool.true_and, Nat.testBit_div_two_pow]
  rw [Nat.add_comm]
  exact h i hi

/-- Bits set outside a field leave the field. -/
theorem ofNat_field_or {m : Word32} {lo n : Nat} (h : ∀ i < n, m.getLsbD (lo + i) = false) :
    BitVec.ofNat n ((v ||| m).toNat / 2 ^ lo) = BitVec.ofNat n (v.toNat / 2 ^ lo) :=
  ofNat_field_congr fun i hi => by rw [BitVec.getLsbD_or, h i hi, Bool.or_false]

/-- Bits cleared outside a field leave the field. -/
theorem ofNat_field_and {m : Word32} {lo n : Nat} (h : ∀ i < n, m.getLsbD (lo + i) = true) :
    BitVec.ofNat n ((v &&& m).toNat / 2 ^ lo) = BitVec.ofNat n (v.toNat / 2 ^ lo) :=
  ofNat_field_congr fun i hi => by rw [BitVec.getLsbD_and, h i hi, Bool.and_true]

/-- SIZE_LOG2 of a RING_CFG word. -/
theorem ofNat_fld_size (n : Nat) : BitVec.ofNat 4 (fld n 19 16) = BitVec.ofNat 4 (n / 2 ^ 16) := by
  apply BitVec.eq_of_toNat_eq
  simp [fld, Nat.shiftRight_eq_div_pow]

/-! ## RING_CFG (R139, R173, R174) -/

/-- A write of RING_CFG takes IRQ_VEC, and SIZE_LOG2 where the ring neither runs nor stops. -/
def cfgFields (g : RingState) (v : Word32) : RingState :=
  { g with irqVec := BitVec.ofNat 11 v.toNat, sizeLog2 := if g.enable || g.stop then g.sizeLog2 else BitVec.ofNat 4 (fld v.toNat 19 16) }

/-- A write of RING_CFG on a running ring: ENABLE 0 stops it and clears ENABLE, STOP 1 stops it (R173, R174). -/
theorem ringCfgWrite_running (hd : (s.ring c r).draining = false) (he : (s.ring c r).enable = true) :
    ringCfgWrite s c r v =
      let u := modRing s c r (fun g => { g with irqVec := BitVec.ofNat 11 v.toNat })
      if v.getLsbD 31 = false then modRing (stopRing u c r) c r (fun g => { g with enable := false })
      else if v.getLsbD 30 = true then stopRing u c r else u := by
  have hfields : modRing s c r (fun g => cfgFields g v) = modRing s c r (fun g => { g with irqVec := BitVec.ofNat 11 v.toNat }) :=
    modRing_congr (by simp [cfgFields, he])
  unfold cfgFields at hfields
  simp only [ringCfgWrite, hd, he, hfields, bit_toNat, Bool.false_eq_true, if_false, if_true, Bool.not_eq_true']

/-- The areas of the other rings after a change of this one. -/
theorem otherAreas_modRing (f : RingState → RingState) : otherAreas (modRing s c r f) c (some r) = otherAreas s c (some r) := by
  have hother {q : Sys2Proof.Ring} (hq : (some q != some r) = true) : (modRing s c r f).ring c q = s.ring c q :=
    ring_modRing_ne _ _ (by simpa using hq) _
  have hfilter : allRings.filter (fun q => some q != some r && ((modRing s c r f).ring c q).enable) =
      allRings.filter (fun q => some q != some r && (s.ring c q).enable) := by
    refine List.filter_congr fun q _ => ?_
    by_cases hq : (some q != some r) = true
    · rw [hother hq]
    · rw [Bool.not_eq_true] at hq
      rw [hq, Bool.false_and, Bool.false_and]
  unfold otherAreas
  rw [hfilter]
  refine List.flatMap_congr fun q hq => ?_
  have hqr := (List.mem_filter.1 hq).2
  rw [Bool.and_eq_true] at hqr
  rw [hother hqr.1]

/-- A write of RING_CFG with ENABLE 1 and STOP 0 on a ring that neither runs nor stops: it starts where its size and areas are allowed (R139). -/
theorem ringCfgWrite_starts (hd : (s.ring c r).draining = false) (he : (s.ring c r).enable = false) (hs : (s.ring c r).stop = false)
    (h30 : v.getLsbD 30 = false) (h31 : v.getLsbD 31 = true) :
    let g1 := cfgFields (s.ring c r) v
    ringCfgWrite s c r v = modRing s c r (fun _ =>
      if decide (6 ≤ g1.sizeLog2.toNat ∧ g1.sizeLog2.toNat ≤ 12) && areasOk (ringAreas g1) (otherAreas s c (some r)) then
        { g1 with enable := true, cfgErr := false, head := 0, tail := 0, retired := 0, phase := true, wait := .idle }
      else { g1 with cfgErr := true }) := by
  intro g1
  have hring : (modRing s c r (fun g => cfgFields g v)).ring c r = g1 := ring_modRing_same _ _ _ _
  have hothers := otherAreas_modRing (s := s) (c := c) (r := r) (fun g => cfgFields g v)
  have hwrite : ringCfgWrite s c r v =
      let u := modRing s c r (fun g => cfgFields g v)
      if decide (6 ≤ (u.ring c r).sizeLog2.toNat ∧ (u.ring c r).sizeLog2.toNat ≤ 12) && areasOk (ringAreas (u.ring c r)) (otherAreas u c (some r)) then
        modRing u c r (fun g => { g with enable := true, cfgErr := false, head := 0, tail := 0, retired := 0, phase := true, wait := .idle })
      else modRing u c r (fun g => { g with cfgErr := true }) := by
    simp only [ringCfgWrite, hd, he, hs, bit_toNat, h30, h31, Bool.false_eq_true, if_false, if_true]
    rfl
  simp only [hwrite, hring, hothers, modRing_modRing]
  by_cases hgood : (decide (6 ≤ g1.sizeLog2.toNat ∧ g1.sizeLog2.toNat ≤ 12) && areasOk (ringAreas g1) (otherAreas s c (some r))) = true
  · simp only [hgood, if_true]
    exact modRing_congr rfl
  · simp only [hgood, Bool.false_eq_true, if_false]
    exact modRing_congr rfl

/-- A host write of RING_CFG to a channel that it reaches, where no fence holds it (R415). -/
theorem ringCfgHost_reaches (hr : hostReaches s l c = true) (hf : (fenced s c && v.getLsbD 31 && !(s.ring c r).enable) = false) :
    ringCfgHost s l c r v = ringCfgWrite s c r v := by
  rw [ringCfgHost, chanWrite_reaches hr, bit_toNat, hf]
  rfl

/-- STOP leaves a descriptor that executes in its moves to run to its retire (R173). -/
theorem stopRing_moves {x : MoveCtx} (hw : (s.ring c r).wait = .moves x) :
    stopRing s c r = modRing s c r (fun g => { g with stop := true, draining := true }) := by
  simp [stopRing, hw]

/-- STOP ends a descriptor that waits on its header gate, or has not begun, and every later one (R173). -/
theorem stopRing_waits (hw : (s.ring c r).wait = .idle ∨ ∃ b, (s.ring c r).wait = .gate b) :
    stopRing s c r = abortRest (modRing s c r (fun g => { g with stop := true, draining := true })) c r := by
  rcases hw with hw | ⟨b, hw⟩ <;> simp [stopRing, hw]

/-- RING_TAIL takes TAIL modulo the ring's size where no stop is under way (R140). -/
theorem ringTailSet_takes (hd : ¬ ((s.ring c r).draining = true ∧ (s.ring c r).wait = .idle)) :
    ringTailSet s c r v = modRing s c r (fun g => { g with tail := BitVec.ofNat 12 (v.toNat % 2 ^ 12 % 2 ^ g.sizeLog2.toNat) }) := by
  have hrun : ((s.ring c r).draining && (s.ring c r).wait == .idle) = false := by simpa using hd
  simp only [ringTailSet, ring_modRing_same, hrun, Bool.false_eq_true, if_false]
  simp [fld, ringSize]

/-- Settles O9: each write reaches the ring, and takes what its bits and the ring's state give. -/
theorem hostRingWritesTakeEffect : Obligations.HostRingWritesTakeEffect := by
  refine ⟨fun l c r v s hr hd => ?tail, fun l c r v s hr hf hd he hs h30 => ?enable, fun l c r v s x hr hd he hw => ?running⟩
  case tail =>
    show execRingTailWrite l c r v s = _
    rw [execRingTailWrite, chanWrite_reaches hr, ringTailSet_takes hd]
  case enable =>
    have hirq : BitVec.ofNat 11 (v ||| 0x80000000).toNat = BitVec.ofNat 11 v.toNat := by simp
    have hsize : BitVec.ofNat 4 ((v ||| 0x80000000).toNat / 2 ^ 16) = BitVec.ofNat 4 (v.toNat / 2 ^ 16) := ofNat_field_or (by decide)
    have hfields : cfgFields (s.ring c r) (v ||| 0x80000000) =
        { s.ring c r with irqVec := BitVec.ofNat 11 v.toNat, sizeLog2 := BitVec.ofNat 4 (v.toNat / 2 ^ 16) } := by
      simp only [cfgFields, he, hs, Bool.or_self, Bool.false_eq_true, if_false, ofNat_fld_size, hirq, hsize]
    have h30' : (v ||| 0x80000000).getLsbD 30 = false := by rw [BitVec.getLsbD_or, h30]; rfl
    have h31 : (v ||| 0x80000000).getLsbD 31 = true := by simp
    show execRingEnableWrite l c r v s = _
    rw [execRingEnableWrite, ringCfgHost_reaches hr (by simp [hf]), ringCfgWrite_starts hd he hs h30' h31, hfields]
  case running =>
    have hwait (f : RingState → RingState) (hf : (f (s.ring c r)).wait = (s.ring c r).wait) : ((modRing s c r f).ring c r).wait = .moves x := by
      rw [ring_modRing_same, hf, hw]
    refine ⟨fun h31 => ?stop, ?disable⟩
    case stop =>
      have hirq : BitVec.ofNat 11 (v ||| 0x40000000).toNat = BitVec.ofNat 11 v.toNat := by simp
      have h31' : (v ||| 0x40000000).getLsbD 31 = true := by rw [BitVec.getLsbD_or, h31]; rfl
      have h30 : (v ||| 0x40000000).getLsbD 30 = true := by simp
      show execRingStopWrite l c r v s = _
      rw [execRingStopWrite, ringCfgHost_reaches hr (by simp [he]), ringCfgWrite_running hd he, h31', h30, hirq]
      simp only [Bool.true_eq_false, if_false, if_true]
      rw [stopRing_moves (hwait _ rfl), modRing_modRing]
    case disable =>
      have hirq : BitVec.ofNat 11 (v &&& 0x7FFFFFFF).toNat = BitVec.ofNat 11 v.toNat := by
        simpa only [Nat.pow_zero, Nat.div_one] using ofNat_field_and (v := v) (m := 0x7FFFFFFF) (lo := 0) (n := 11) (by decide)
      have h31 : (v &&& 0x7FFFFFFF).getLsbD 31 = false := by simp
      show execRingDisableWrite l c r v s = _
      rw [execRingDisableWrite, ringCfgHost_reaches hr (by simp [he]), ringCfgWrite_running hd he, h31, hirq]
      simp only [if_true]
      rw [stopRing_moves (hwait _ rfl), modRing_modRing, modRing_modRing]

end Sys2Proof.Proofs
end

section
/-! SUPPORT. STOP to the end of a ring's descriptors (R173), the other host writes and events of rings, gates and pace windows (R39, R40, R104, R145,
R146, R148, R237), the registers after reset, and the statements about them. -/

namespace Sys2Proof.Proofs
open Sys2Proof Sys2Proof.Machine Sys2Proof.Laws

variable {s : State} {l : Ld} {c : Ch} {r : Sys2Proof.Ring} {v : Word32}

/-! ## The descriptors of a stopped ring (R173) -/

/-- A ring of which `n` descriptors have retired one after the other (R141). -/
structure Advanced (n : Nat) (g t : RingState) : Prop where
  head : t.head.toNat = (g.head.toNat + n) % ringSize g
  retired : t.retired = g.retired + BitVec.ofNat 32 n
  wait : t.wait = if n = 0 then g.wait else .idle
  tail : t.tail = g.tail
  stop : t.stop = g.stop
  draining : t.draining = g.draining
  sizeLog2 : t.sizeLog2 = g.sizeLog2

/-- One retire more. -/
theorem Advanced.succ {n : Nat} {g t : RingState} (hsize : g.sizeLog2.toNat ≤ 12)
    (h : Advanced n (ringAdvanced { g with inUse := [], regs := [] }) t) : Advanced (n + 1) g t := by
  have hpow : 2 ^ g.sizeLog2.toNat ≤ 2 ^ 12 := Nat.pow_le_pow_right (by omega) hsize
  have hpos : 0 < 2 ^ g.sizeLog2.toNat := Nat.two_pow_pos _
  obtain ⟨hhead, hretired, hwait, htail, hstop, hdraining, hsz⟩ := h
  refine ⟨?head, ?retired, ?wait, htail, hstop, hdraining, hsz⟩
  case head =>
    have hlt : (g.head.toNat + 1) % 2 ^ g.sizeLog2.toNat < 2 ^ 12 := (Nat.mod_lt _ hpos).trans_le hpow
    rw [hhead]
    simp only [ringAdvanced, ringSize, BitVec.toNat_ofNat, Nat.mod_eq_of_lt hlt, Nat.mod_add_mod]
    congr 1
    omega
  case retired =>
    rw [hretired]
    simp only [ringAdvanced]
    rw [BitVec.add_assoc, Nat.add_comm n 1, BitVec.ofNat_add]
    rfl
  case wait =>
    rw [hwait, if_neg (Nat.succ_ne_zero n)]
    split <;> rfl

/-- A stopped ring's descriptors, one retire each (R173). -/
theorem ring_abortSome (n : Nat) (hsize : (s.ring c r).sizeLog2.toNat ≤ 12) (hhead : (s.ring c r).head.toNat < ringSize (s.ring c r)) :
    Advanced n (s.ring c r) ((abortSome n s c r).ring c r) := by
  induction n generalizing s with
  | zero => exact ⟨(Nat.mod_eq_of_lt hhead).symm, (BitVec.add_zero _).symm, rfl, rfl, rfl, rfl, rfl⟩
  | succ n ih =>
    have hring := ring_retire1 (s := s) (c := c) (r := r) (cplSt .aborted) true
    have hpow : 2 ^ (s.ring c r).sizeLog2.toNat ≤ 2 ^ 12 := Nat.pow_le_pow_right (by omega) hsize
    have hlt : ((s.ring c r).head.toNat + 1) % ringSize (s.ring c r) < ringSize (s.ring c r) := Nat.mod_lt _ (Nat.two_pow_pos _)
    have hrest := ih (s := retire1 s c r (cplSt .aborted) true) (by rw [hring]; exact hsize)
      (by rw [hring]; exact (BitVec.toNat_ofNat ..).trans_lt ((Nat.mod_le _ _).trans_lt hlt))
    rw [hring] at hrest
    exact hrest.succ hsize

/-- From HEAD on, as many entries as stand before TAIL lead to TAIL. -/
theorem head_add_fill {h t n : Nat} (hh : h < n) (ht : t < n) : (h + (t + n - h) % n) % n = t := by
  rw [Nat.add_mod_mod, show h + (t + n - h) = t + n by omega, Nat.add_mod_right, Nat.mod_eq_of_lt ht]

/-- A ring whose descriptors up to TAIL have all ended (R173). -/
theorem ring_abortRest {g : RingState} (hg : s.ring c r = g) (hsize : g.sizeLog2.toNat ≤ 12) (hhead : g.head.toNat < ringSize g)
    (htail : g.tail.toNat < ringSize g) (hwait : g.wait = .idle ∨ g.head ≠ g.tail) :
    let t := (abortRest s c r).ring c r
    t.head = g.tail ∧ t.tail = g.tail ∧ t.wait = .idle ∧ t.stop = g.stop ∧ t.draining = g.draining ∧
      t.retired = g.retired + BitVec.ofNat 32 (ringFill g) := by
  subst hg
  obtain ⟨hhd, hret, hwt, htl, hstop, hdrain, -⟩ := ring_abortSome (ringFill (s.ring c r)) hsize hhead
  have hfill : ringFill (s.ring c r) = 0 → (s.ring c r).head = (s.ring c r).tail := fun h => by
    have := head_add_fill hhead htail
    rw [← ringFill, h, Nat.add_zero, Nat.mod_eq_of_lt hhead] at this
    exact BitVec.eq_of_toNat_eq this
  refine ⟨BitVec.eq_of_toNat_eq (hhd.trans (head_add_fill hhead htail)), htl, hwt.trans ?_, hstop, hdrain, hret⟩
  split
  · next hnone => exact hwait.resolve_right (fun h => h (hfill hnone))
  · rfl

/-- Settles O17: STOP marks the ring, then ends as many descriptors as stand before TAIL. -/
theorem stopAbortsWhatWaits : Obligations.StopAbortsWhatWaits := by
  intro l c r v s hr g he hd hw hsize hhead htail hf
  let w := v ||| 0x40000000
  let u := modRing s c r (fun g => { g with irqVec := BitVec.ofNat 11 w.toNat })
  let m := modRing u c r (fun g => { g with stop := true, draining := true })
  have hm : m.ring c r = { g with irqVec := BitVec.ofNat 11 w.toNat, stop := true, draining := true } := by
    simp only [m, u, ring_modRing_same]
    rfl
  have hstop : stopRing u c r = abortRest m c r := by
    refine stopRing_waits ?_
    rw [ring_modRing_same]
    exact hw.imp id (fun h => h.2)
  have h30 : (v ||| 0x40000000).getLsbD 30 = true := by simp
  have hexec : exec (.ringStopWrite l c r v) s =
      .next (if w.getLsbD 31 = false then modRing (abortRest m c r) c r (fun g => { g with enable := false }) else abortRest m c r) := by
    show execRingStopWrite l c r v s = _
    rw [execRingStopWrite, ringCfgHost_reaches hr (by simp [hf]), ringCfgWrite_running hd he, ← hstop]
    simp only [h30, if_true]
    rfl
  obtain ⟨hhd, htl, hwt, hst, hdr, hret⟩ := ring_abortRest hm hsize hhead htail (hw.imp id (fun h => h.1))
  refine ⟨_, hexec, ?_⟩
  split
  · rw [ring_modRing_same]
    exact ⟨hhd, htl, hwt, hst, hdr, hret⟩
  · exact ⟨hhd, htl, hwt, hst, hdr, hret⟩

/-! ## Gate windows, pace meter, rounding seed and release log (R39, R104, R146, R148, R237) -/

/-- A host write in the gate windows to a channel that it reaches: a set, or an add to the count as it stands (R146, R148). -/
theorem exec_gateWrites (hr : hostReaches s l c = true) {g : Nat} (hg : g < numGates) :
    exec (.gateSetWrite l c g v) s = .next (gateSet s c g v) ∧ exec (.gateAddWrite l c g v) s = .next (gateAdd s c g v) := by
  refine ⟨?set, ?add⟩
  case set =>
    show execGateSetWrite l c g v s = _
    rw [execGateSetWrite, chanWrite_reaches hr, if_pos hg]
  case add =>
    show execGateAddWrite l c g v s = _
    rw [execGateAddWrite, chanWrite_reaches hr, if_pos hg]

/-- The release log starts with a size that R237 allows. -/
theorem relCfgWrite_starts (he : (s.ch c).rel.enable = false) (h31 : v.getLsbD 31 = true)
    (hlo : 6 ≤ fld v.toNat 20 16) (hhi : fld v.toNat 20 16 ≤ 16) :
    relCfgWrite s c v = modCh s c (fun ch =>
      { ch with rel := { ch.rel with enable := true, sizeLog2 := BitVec.ofNat 5 (fld v.toNat 20 16), head := 0, tail := 0 } }) := by
  have hsize : (BitVec.ofNat 5 (fld v.toNat 20 16)).toNat = fld v.toNat 20 16 := Nat.mod_eq_of_lt (by omega)
  simp [relCfgWrite, he, bit_toNat, h31, hsize, hlo, hhi]

/-- Settles O11: each write reaches its register, and a forced bit leaves the fields beside it. -/
theorem gateAndSeedWritesTakeEffect : Obligations.GateAndSeedWritesTakeEffect := by
  refine ⟨fun l c g v s hr hg => exec_gateWrites hr hg, fun l c v s hr => ⟨?clearLow, ?seed⟩, fun l c v s hr hf he hlo hhi => ?log⟩
  case clearLow =>
    have h0 : bit (v ||| 2).toNat 0 = v.getLsbD 0 := by rw [bit_toNat]; simp
    have h1 : bit (v ||| 2).toNat 1 = true := by rw [bit_toNat]; simp
    show execClearLow l c v s = _
    rw [execClearLow, chanWrite_reaches hr, paceCtrlWrite, h0, h1]
    rfl
  case seed =>
    show execSrSeedWrite l c v s = _
    rw [execSrSeedWrite, chanWrite_reaches hr]
    rfl
  case log =>
    have hfield : fld (v ||| 0x80000000).toNat 20 16 = v.toNat / 2 ^ 16 % 2 ^ 5 := by
      have := congrArg BitVec.toNat (ofNat_field_or (v := v) (m := 0x80000000) (lo := 16) (n := 5) (by decide))
      simpa only [BitVec.toNat_ofNat, fld, Nat.shiftRight_eq_div_pow] using this
    show execReleaseLogEnableWrite l c v s = _
    rw [execReleaseLogEnableWrite, chanWrite_reaches hr, if_neg (by simp [hf]),
      relCfgWrite_starts he (by simp) (by rw [hfield]; exact hlo) (by rw [hfield]; exact hhi), hfield]
    have hcut : BitVec.ofNat 5 (v.toNat / 2 ^ 16 % 2 ^ 5) = BitVec.ofNat 5 (v.toNat / 2 ^ 16) := by
      apply BitVec.eq_of_toNat_eq
      simp
    rw [hcut]

/-! ## `Nop` and the events of gates, pace windows and drains (R40, R145, R146, R152, R173) -/

/-- With no background command in any mailbox, nothing waits for a ring's drain (R463). -/
theorem shutStep_noTask (h : ∀ mb : Mbox, (s.mb mb).bg = none) : shutStep s = s := by
  unfold shutStep forTasks
  refine List.foldlRecOn (motive := fun t => t = s) _ _ rfl fun t ht mb _ => ?_
  rw [ht, h mb]

/-- Settles O16: the row of each event, where the event can arise. -/
theorem gateEventsAndNop : Obligations.GateEventsAndNop := by
  refine ⟨fun c r s hrun hbody => ?nop, fun c r s hup hw => ?release, fun c s a rest hq hup => ?arrival, fun c steps s hclk => ?window,
    fun c s => ⟨rfl, rfl⟩, fun steps s => rfl, fun c r s hd hht hw hbg => ?drained⟩
  case nop =>
    show execNop c r s = _
    rw [execNop, runHead_runs hrun]
    simp [resv, hbody, retireSt]
  case release =>
    show execGateWaitRelease c r s = _
    simp [execGateWaitRelease, hup, hw]
  case arrival =>
    have hup' : isUp (modCh s c (fun ch => { ch with gateQ := rest })) c = true := by
      rw [isUp, ch_modCh_same]
      exact hup
    show execGateAddArrival c s = _
    simp [execGateAddArrival, hq, hup']
  case window =>
    show execPaceWindowEnd c steps s = _
    simp [execPaceWindowEnd, modPace, modCh, hclk]
  case drained =>
    show execRingDrainEnd c r s = _
    simp only [execRingDrainEnd, hd, hht, hw, BEq.rfl, Bool.and_self, if_true]
    exact congrArg _ (shutStep_noTask hbg)

/-! ## Reset (R10) -/

/-- Every channel after reset. -/
theorem ch_reset (c : Ch) : State.reset.ch c = Channel.reset := by
  simp [State.reset, State.ch]

/-- Settles O8: every channel, ring and queue of the reset state is its own reset value. -/
theorem resetRegisterValues : Obligations.ResetRegisterValues := by
  refine ⟨rfl, rfl, fun c => ?pace, fun c r => ?ring, fun c g => ?gate, fun c n => ?slot, fun c => ?log, fun n => ?queue, fun c a => ?t0⟩
  case pace =>
    rw [ch_reset]
    exact ⟨rfl, rfl, rfl, rfl, rfl⟩
  case ring =>
    have hring : State.reset.ring c r = RingState.reset := by simp [State.ring, ch_reset, Channel.reset]
    rw [hring]
    exact ⟨rfl, rfl, rfl, rfl, rfl, rfl, rfl, rfl, rfl⟩
  case gate =>
    rw [gateCount, ch_reset]
    rfl
  case slot =>
    rw [seqAt, ch_reset]
    exact ⟨rfl, rfl⟩
  case log =>
    rw [ch_reset]
    exact ⟨rfl, rfl⟩
  case queue => simp [State.reset, Island.reset, EvQueue.reset]
  case t0 =>
    rw [ch_reset]
    rfl

end Sys2Proof.Proofs
end

section
/-! SUPPORT. A register write and the rows of the registers that have one of their own (R139, R314): the refutation of their agreement in every state. The
event that a write to a channel that is down records names the register's offset (R21, R338), and RING_TAIL has two, its register and its doorbell. -/

namespace Sys2Proof.Proofs
open Sys2Proof Sys2Proof.Machine

/-- The device after reset with CXL.io up and channel 0, which is Off, assigned to logical device 0. -/
def assignedOff : State :=
  modHost (modIsland State.reset (fun i => { i with chAssign := i.chAssign.set 0 0x80000000 })) (fun h => { h with up := true })

/-- The details of the records that wait in the event queue of logical device 0 after a command. -/
def waitingDetails : Host.Outcome State Fault Refusal → List (List Byte)
  | .next t => (evWaiting t.island.evq[(0 : Fin 17)]).map (fun x => x.detail)
  | _ => []

/-- A write of RING_TAIL of ring 0 at its register, to a channel that is down, records offset 0x10_060C. -/
theorem waitingDetails_registerWrite :
    waitingDetails (exec (.registerWrite 0 0x10060C (.word 0)) assignedOff) = [bsub (natLe 0 1 ++ natLe 0x10060C 8) 0 32] := by
  decide

/-- RING_TAIL_WRITE of ring 0, to a channel that is down, records the offset of the doorbell, 0x10_1000. -/
theorem waitingDetails_ringTailWrite :
    waitingDetails (exec (.ringTailWrite 0 0 0 0) assignedOff) = [bsub (natLe 0 1 ++ natLe 0x101000 8) 0 32] := by
  decide

/-- Refutes O43: on a channel that is down, a write of RING_TAIL at its register (0x60C of ring 0) and RING_TAIL_WRITE record different offsets in
EV_CHANNEL_DOWN_ACCESS. -/
theorem not_registerWriteAgreesWithItsRow : ¬ Obligations.RegisterWriteAgreesWithItsRow := by
  intro h
  obtain ⟨-, -, -, -, htail, -⟩ := h 0 0 0 0 0 0 assignedOff (by decide) (by decide)
  have hdetails := congrArg waitingDetails htail
  rw [waitingDetails_ringTailWrite] at hdetails
  exact absurd (waitingDetails_registerWrite.symm.trans hdetails) (by decide)

end Sys2Proof.Proofs
end

section
/-! SUPPORT. The end of a page move (R163, R240, R242, R253, R254): what a release leaves alone, the page tables under a write of one page, the home of a
page that moves, and the statement about the record. -/

namespace Sys2Proof.Proofs
open Sys2Proof Sys2Proof.Machine Sys2Proof.Laws

variable {s t u : State} {c : Ch}

/-! ## A release changes Marl and the release log alone (R237, R272) -/

/-- Two states whose channels differ in their flash managers and release logs alone. -/
def SameButMarl (s t : State) : Prop := ∀ d : Ch, ∃ m l, t.ch d = { s.ch d with marl := m, rel := l }

theorem SameButMarl.refl (s : State) : SameButMarl s s := fun d => ⟨(s.ch d).marl, (s.ch d).rel, rfl⟩

theorem SameButMarl.trans (h : SameButMarl s t) (k : SameButMarl t u) : SameButMarl s u := by
  intro d
  obtain ⟨m, l, hd⟩ := h d
  obtain ⟨m', l', kd⟩ := k d
  exact ⟨m', l', by rw [kd, hd]⟩

/-- A change of a channel's flash manager and release log. -/
theorem sameButMarl_modCh (f : Channel → Marl) (g : Channel → RelLog) :
    SameButMarl s (modCh s c (fun ch => { ch with marl := f ch, rel := g ch })) := by
  intro d
  by_cases hd : d = c
  · subst hd
    exact ⟨_, _, ch_modCh_same _ _ _⟩
  · exact ⟨(s.ch d).marl, (s.ch d).rel, ch_modCh_ne _ hd _⟩

theorem sameButMarl_modMarl (f : Marl → Marl) : SameButMarl s (modMarl s c f) :=
  sameButMarl_modCh (fun ch => f ch.marl) (fun ch => ch.rel)

theorem sameButMarl_release (tier : BitVec 2) (cls : BitVec 3) (loc : BitVec 45) : SameButMarl s (release s c tier cls loc) :=
  sameButMarl_modCh (fun ch => ch.marl) _

theorem sameButMarl_raiseC (code : BitVec 16) (sev : BitVec 2) (detail : List Byte) : SameButMarl s (raiseC s c code sev detail) :=
  fun d => ⟨(s.ch d).marl, (s.ch d).rel, ch_raiseC d code sev detail⟩

theorem sameButMarl_jAppend (x : JRec) : SameButMarl s (jAppend s c x) := by
  unfold jAppend
  split
  · exact sameButMarl_modMarl _
  · exact .refl s

/-- A turn of the media's state, with its journal record and its event. -/
theorem sameButMarl_turn (f : Marl → Marl) (x : JRec) (code : BitVec 16) (sev : BitVec 2) (detail : List Byte) :
    SameButMarl s (raiseC (jAppend (modMarl s c f) c x) c code sev detail) :=
  ((sameButMarl_modMarl f).trans (sameButMarl_jAppend x)).trans (sameButMarl_raiseC code sev detail)

theorem sameButMarl_mediaCheck : SameButMarl s (mediaCheck s c) := by
  unfold mediaCheck
  extract_lets m n lowered low m1 left m2 journaled ceil entered m3 logged full
  have hlow : SameButMarl s low := by
    unfold low
    split
    · exact (sameButMarl_modMarl _).trans (sameButMarl_jAppend _)
    · exact .refl s
  have hfull : SameButMarl s full := sameButMarl_turn _ _ _ _ _
  clear_value low full
  split
  · exact .refl s
  · split
    · split
      · exact hlow.trans (sameButMarl_turn _ _ _ _ _)
      · exact hlow
    · split
      · split
        · exact hfull.trans (sameButMarl_turn _ _ _ _ _)
        · exact hfull
      · exact .refl s

theorem sameButMarl_clearSlots (lu mask : Nat) (secure : Bool) : SameButMarl s (clearSlots s c lu mask secure) := by
  have hinvalid (w : State) (p : BitVec 33) : SameButMarl w (invalidate w c p) := by
    unfold invalidate
    split
    · exact .refl w
    · exact sameButMarl_modMarl _
  have hunmap : SameButMarl s (unmapUnit s c lu secure) :=
    (((sameButMarl_modMarl _).trans (sameButMarl_modMarl _)).trans (hinvalid _ _)).trans (sameButMarl_jAppend _)
  unfold clearSlots
  dsimp only
  split
  · exact sameButMarl_modMarl _
  · split
    · exact .refl s
    · exact hunmap.trans sameButMarl_mediaCheck

/-- A page's location released. -/
theorem sameButMarl_releaseLoc (tier : BitVec 2) (cls : BitVec 3) (loc : BitVec 45) : SameButMarl s (releaseLoc s c tier cls loc) := by
  have hT2 : SameButMarl s (releaseT2 s c cls.toNat loc).1 := by
    unfold releaseT2
    dsimp only
    split
    · exact .refl s
    · exact List.foldlRecOn (motive := SameButMarl s) _ _ (.refl s) (fun w hw _ _ => hw.trans (sameButMarl_clearSlots _ _ _))
  unfold releaseLoc
  dsimp only
  split
  · exact .refl s
  · split
    · split
      · exact hT2
      · exact hT2.trans (sameButMarl_release _ _ _)
    · exact sameButMarl_release _ _ _

/-! ## Pages -/

/-- Whether a channel's page tables have the canonical form. -/
def TablesOk (s : State) (c : Ch) : Prop := smWf Pte.empty (s.ch c).obj.ptes = true ∧ smWf Pte.empty (s.ch c).obj.pbRecs = true

/-- Two states with the same page tables of a channel. -/
def SamePages (s t : State) (c : Ch) : Prop := (t.ch c).obj.ptes = (s.ch c).obj.ptes ∧ (t.ch c).obj.pbRecs = (s.ch c).obj.pbRecs

/-- A page is read from the page tables alone. -/
theorem SamePages.pageAt (h : SamePages s t c) (b : Bool) (k : Nat) : pageAt t c b k = pageAt s c b k := by
  simp [Machine.pageAt, pteAt, recAt, h.1, h.2]

theorem SamePages.tablesOk (h : SamePages s t c) (hs : TablesOk s c) : TablesOk t c := by
  rw [TablesOk, h.1, h.2]
  exact hs

/-- Where flash managers alone differ, pages are the same. -/
theorem SameButMarl.samePages (h : SameButMarl s t) : SamePages s t c := by
  obtain ⟨m, l, hc⟩ := h c
  simp [SamePages, hc]

/-- A page of the tables after a write of one of them. -/
theorem pageAt_setPage (h : TablesOk s c) (b : Bool) (k : Nat) (e : Pte) (b' : Bool) (k' : Nat) :
    pageAt (setPage s c b k e) c b' k' = if (b', k') = (b, k) then e else pageAt s c b' k' := by
  have hptes := (wf_iff.1 h.1).1
  have hrecs := (wf_iff.1 h.2).1
  cases b <;> cases b' <;> simp [pageAt, setPage, setPte, setRec, pteAt, recAt, modObj, get_set hptes, get_set hrecs]

/-- A write of a page keeps the canonical form of the tables. -/
theorem tablesOk_setPage (h : TablesOk s c) (b : Bool) (k : Nat) (e : Pte) : TablesOk (setPage s c b k e) c := by
  cases b
  · exact ⟨by simpa [setPage, setPte, modObj] using set_wf h.1, by simpa [setPage, setPte, modObj] using h.2⟩
  · exact ⟨by simpa [setPage, setRec, modObj] using h.1, by simpa [setPage, setRec, modObj] using set_wf h.2⟩

/-- A change of the objects that leaves the page tables. -/
theorem samePages_modObj {f : Objects → Objects} (hptes : ∀ o, (f o).ptes = o.ptes) (hrecs : ∀ o, (f o).pbRecs = o.pbRecs) :
    SamePages s (modObj s c f) c := by
  simp [SamePages, modObj, hptes, hrecs]

theorem SamePages.trans (h : SamePages s t c) (k : SamePages t u c) : SamePages s u c := ⟨k.1.trans h.1, k.2.trans h.2⟩

/-! ## Homes (R241, R242) -/

/-- A home is read from the home table alone. -/
theorem homeAt_congr (h : (t.ch c).obj.homes = (s.ch c).obj.homes) (i : Nat) : homeAt t c i = homeAt s c i := by
  simp only [homeAt, h]

/-- The home table after a write of one entry, on a canonical table. -/
theorem homeAt_setHome (h : smWf HomeEntry.none (s.ch c).obj.homes = true) (i : Nat) (e : HomeEntry) (k : Nat) :
    homeAt (setHome s c i e) c k = if k = i then e else homeAt s c k := by
  simp [homeAt, setHome, modObj, get_set (wf_iff.1 h).1]

/-- Where flash managers alone differ, home tables are the same. -/
theorem SameButMarl.homes (h : SameButMarl s t) : (t.ch c).obj.homes = (s.ch c).obj.homes := by
  obtain ⟨m, l, hc⟩ := h c
  rw [hc]

/-- A home dropped: its entry is clear, whether it was set or not (R242). -/
theorem homeAt_dropHome (h : smWf HomeEntry.none (s.ch c).obj.homes = true) (i : Nat) :
    homeAt (dropHome s c i) c i = if (homeAt s c i).homed = true then HomeEntry.none else homeAt s c i := by
  unfold dropHome
  dsimp only
  split
  · rw [homeAt_setHome (by rw [(sameButMarl_releaseLoc _ _ _).homes]; exact h), if_pos rfl]
  · rfl

/-- A home dropped leaves the pages. -/
theorem samePages_dropHome (i : Nat) : SamePages s (dropHome s c i) c := by
  unfold dropHome
  dsimp only
  split
  · exact (sameButMarl_releaseLoc _ _ _).samePages.trans (samePages_modObj (fun _ => rfl) (fun _ => rfl))
  · exact ⟨rfl, rfl⟩

/-! ## The record update of a move that succeeds (R163, R254) -/

/-- What a successful move writes to its page. -/
def movedPage (s : State) (c : Ch) (x : MoveCtx) (m : Move) : Pte :=
  { pageAt s c m.isPb m.key with tier := x.toTier, cls := x.cls, loc := m.dest, dirty := 0 }

variable {x : MoveCtx} {m : Move}

/-- A successful move's pages are those of its write: a release, and a home set or dropped, leave them. -/
theorem samePages_moveDone : SamePages (setPage s c m.isPb m.key (movedPage s c x m)) (moveDone s c x m) c := by
  unfold moveDone
  dsimp only
  split
  · exact samePages_modObj (fun _ => rfl) (fun _ => rfl)
  · unfold releasePage
    dsimp only
    split
    · exact (sameButMarl_releaseLoc _ _ _).samePages.trans (samePages_dropHome _)
    · exact (sameButMarl_releaseLoc _ _ _).samePages

/-- Another page after a successful move, and the page itself (R163). -/
theorem pageAt_moveDone (h : TablesOk s c) (b : Bool) (k : Nat) :
    pageAt (moveDone s c x m) c b k = if (b, k) = (m.isPb, m.key) then movedPage s c x m else pageAt s c b k := by
  rw [samePages_moveDone.pageAt, pageAt_setPage h]

/-- A successful move keeps the canonical form of the tables. -/
theorem tablesOk_moveDone (h : TablesOk s c) : TablesOk (moveDone s c x m) c :=
  samePages_moveDone.tablesOk (tablesOk_setPage h _ _ _)

/-- A write of a page changes neither a gate, nor a home, nor the configuration. -/
theorem setPage_rest (b : Bool) (k : Nat) (e : Pte) :
    ((setPage s c b k e).ch c).gates = (s.ch c).gates ∧ ((setPage s c b k e).ch c).obj.homes = (s.ch c).obj.homes ∧
    ((setPage s c b k e).ch c).cfg = (s.ch c).cfg := by
  cases b <;> simp [setPage, setPte, setRec, modObj]

/-- Where flash managers alone differ, gates and configuration are the same. -/
theorem SameButMarl.gates_cfg (h : SameButMarl s t) : (t.ch c).gates = (s.ch c).gates ∧ (t.ch c).cfg = (s.ch c).cfg := by
  obtain ⟨m, l, hc⟩ := h c
  simp [hc]

/-- A page released changes no gate. -/
theorem gates_releasePage (e : Pte) : ((releasePage s c e).ch c).gates = (s.ch c).gates := by
  have hdrop (w : State) (i : Nat) : ((dropHome w c i).ch c).gates = (w.ch c).gates := by
    unfold dropHome
    dsimp only
    split
    · rw [setHome, modObj_ch_gates]
      exact (sameButMarl_releaseLoc _ _ _).gates_cfg.1
    · rfl
  unfold releasePage
  dsimp only
  split
  · exact (hdrop _ _).trans (sameButMarl_releaseLoc _ _ _).gates_cfg.1
  · exact (sameButMarl_releaseLoc _ _ _).gates_cfg.1

/-- A successful move's record update changes no gate. -/
theorem gates_moveDone : ((moveDone s c x m).ch c).gates = (s.ch c).gates := by
  have hpage := (setPage_rest (s := s) (c := c) m.isPb m.key (movedPage s c x m)).1
  unfold movedPage at hpage
  unfold moveDone
  dsimp only
  split
  · rw [setHome, modObj_ch_gates]
    exact hpage
  · exact (gates_releasePage _).trans hpage

/-- In pooled mode a page moved by `Promote` from T2 keeps its old location as its home, and every other page moved has none (R242, R254). -/
theorem homeAt_moveDone (hpool : isPooled s c = true) (h : smWf HomeEntry.none (s.ch c).obj.homes = true) :
    let e := pageAt s c m.isPb m.key
    homeAt (moveDone s c x m) c e.summIdx.toNat =
      if x.opcode.toNat = 0x12 ∧ e.tier = 2 ∧ x.toTier = 1 then { homed := true, wbBusy := false, home := e.loc.setWidth 35, cls := e.cls }
      else if (homeAt s c e.summIdx.toNat).homed = true then HomeEntry.none else homeAt s c e.summIdx.toNat := by
  intro e
  obtain ⟨-, hhomes, hcfg⟩ := setPage_rest (s := s) (c := c) m.isPb m.key (movedPage s c x m)
  have hpromote : (isPooled s c = true ∧ x.opcode.toNat = opPromote ∧ e.tier = 2 ∧ x.toTier = 1) ↔
      (x.opcode.toNat = 0x12 ∧ e.tier = 2 ∧ x.toTier = 1) := and_iff_right hpool
  unfold movedPage at hhomes hcfg
  unfold moveDone
  dsimp only
  by_cases hp : x.opcode.toNat = 0x12 ∧ e.tier = 2 ∧ x.toTier = 1
  · rw [if_pos (hpromote.2 hp), if_pos hp, homeAt_setHome (by rw [hhomes]; exact h), if_pos rfl]
  · rw [if_neg (mt hpromote.1 hp), if_neg hp]
    unfold releasePage
    dsimp only
    have hrel := sameButMarl_releaseLoc (s := setPage s c m.isPb m.key { e with tier := x.toTier, cls := x.cls, loc := m.dest, dirty := 0 }) (c := c)
      e.tier e.cls e.loc
    have hsame := hrel.homes.trans hhomes
    rw [if_pos (by rw [isPooled, hrel.gates_cfg.2, hcfg]; exact hpool), homeAt_dropHome (by rw [hsame]; exact h), homeAt_congr hsame]

/-! ## PGATE cleared and the gate raised (R163) -/

/-- A set of a gate changes no object. -/
theorem obj_gateSet (g : Nat) (v : Word32) : ((gateSet s c g v).ch c).obj = (s.ch c).obj := by
  obtain ⟨rs, l, h⟩ := gateSet_modCh s c g v
  rw [h, ch_modCh_same]

/-- The end of a move of a descriptor with PGATE_SET, on a page that is there. -/
theorem gateEnd_eq (hg : x.pgate ≠ 0xFFF) (he : (pageAt s c m.isPb m.key).kind ≠ .empty) :
    gateEnd s c x m = gateAdd (setPage s c m.isPb m.key { pageAt s c m.isPb m.key with pgate := 0xFFF }) c x.pgate.toNat 1 := by
  unfold gateEnd
  dsimp only
  rw [if_neg hg, if_neg he]

/-- Another page after the end of a move, and the page itself. -/
theorem pageAt_gateEnd (hg : x.pgate ≠ 0xFFF) (he : (pageAt s c m.isPb m.key).kind ≠ .empty) (h : TablesOk s c) (b : Bool) (k : Nat) :
    pageAt (gateEnd s c x m) c b k =
      if (b, k) = (m.isPb, m.key) then { pageAt s c m.isPb m.key with pgate := 0xFFF } else pageAt s c b k := by
  have hobj (w : State) (v : Word32) : SamePages w (gateAdd w c x.pgate.toNat v) c := by
    simp [SamePages, gateAdd, obj_gateSet]
  rw [gateEnd_eq hg he, (hobj _ _).pageAt, pageAt_setPage h]

/-- The gates after the end of a move, on canonical gates. -/
theorem gateCount_gateEnd (hg : x.pgate ≠ 0xFFF) (he : (pageAt s c m.isPb m.key).kind ≠ .empty) (h : smWf (0 : Word32) (s.ch c).gates = true) (g : Nat) :
    gateCount (gateEnd s c x m) c g = if g = x.pgate.toNat then gateCount s c g + 1 else gateCount s c g := by
  have hgates := (setPage_rest (s := s) (c := c) m.isPb m.key { pageAt s c m.isPb m.key with pgate := 0xFFF }).1
  rw [gateEnd_eq hg he, gateAdd, gateCount, gates_gateSet, hgates, get_set (wf_iff.1 h).1]
  split
  · next hk => rw [hk, gateCount, gateCount, hgates]
  · rfl

/-- The homes after the end of a move. -/
theorem homeAt_gateEnd (hg : x.pgate ≠ 0xFFF) (he : (pageAt s c m.isPb m.key).kind ≠ .empty) (i : Nat) :
    homeAt (gateEnd s c x m) c i = homeAt s c i := by
  refine homeAt_congr ?_ i
  rw [gateEnd_eq hg he, gateAdd, obj_gateSet]
  exact (setPage_rest _ _ _).2.1

/-- Settles O40: the record update of a move that succeeds, then for every move PGATE and its gate. -/
theorem moveEndWritesItsRecord : Obligations.MoveEndWritesItsRecord := by
  intro s c x m hptes hrecs hgates hhomes e t u hg he
  have hok : TablesOk s c := ⟨hptes, hrecs⟩
  have hokD : TablesOk (moveDone s c x m) c := tablesOk_moveDone hok
  have hpageD : pageAt (moveDone s c x m) c m.isPb m.key = movedPage s c x m := (pageAt_moveDone hok _ _).trans (if_pos rfl)
  have heD : (pageAt (moveDone s c x m) c m.isPb m.key).kind ≠ .empty := by
    rw [hpageD]
    exact he
  have hcountU (g : Nat) : gateCount u c g = if g = x.pgate.toNat then gateCount s c g + 1 else gateCount s c g := gateCount_gateEnd hg he hgates g
  have hcountT (g : Nat) : gateCount t c g = if g = x.pgate.toNat then gateCount s c g + 1 else gateCount s c g := by
    have h := gateCount_gateEnd hg heD (by rw [gates_moveDone]; exact hgates) g
    rwa [show gateCount (moveDone s c x m) c g = gateCount s c g by simp only [gateCount, gates_moveDone]] at h
  refine ⟨?moved, ?failed, fun g => ⟨hcountT g, (hcountU g).trans (hcountT g).symm⟩, fun b k hk => ⟨?otherMoved, ?otherFailed⟩, fun hpool => ?home⟩
  case moved =>
    rw [pageAt_gateEnd hg heD hokD, if_pos rfl, hpageD]
    rfl
  case failed => exact (pageAt_gateEnd hg he hok _ _).trans (if_pos rfl)
  case otherMoved => rw [pageAt_gateEnd hg heD hokD, if_neg hk, pageAt_moveDone hok, if_neg hk]
  case otherFailed => exact (pageAt_gateEnd hg he hok _ _).trans (if_neg hk)
  case home => exact (homeAt_gateEnd hg heD _).trans (homeAt_moveDone hpool hhomes)

end Sys2Proof.Proofs
end

section
/-! SUPPORT. Batches (R157 to R161): a batch whose sequences all pass runs them in list order, an engine goes on from the page that it waited for (R164),
the buckets' page counts (R157), and the statements about them. -/

namespace Sys2Proof.Proofs
open Sys2Proof Sys2Proof.Machine Sys2Proof.Laws

variable {s : State} {c : Ch} {r : Sys2Proof.Ring} {env : Env} {x : AttnCtx} {d : Nat} {grist : Bool}

/-! ## Batches -/

/-- A run in which no sequence waits or stops retires with the flags and the lowest COVERAGE of all (R157). -/
theorem runAttn_goes (hfirst : (runSeq s c r env x).2.2 = .go) :
    let y := runSubs (runSeq s c r env x).2.1.subs (runSeq s c r env x).1 c r env (runSeq s c r env x).2.1
    y.2.2 = .go →
    runAttn s c r env x = retire y.1 c r { status := 0, flags := y.2.1.flags, minCov := y.2.1.minCov, detail := 0, result := 0 } := by
  intro y hrest
  rw [runAttn_seqGoes hfirst, attnEnd]
  show (match y.2.2 with | .go => _ | .wait g => _ | .stop e n => _) = _
  rw [hrest]

/-- A batch whose list and body are allowed, and whose sequences all pass with their owners' keys loaded, is admitted and runs from the first. -/
theorem batchBody_runs {p : AttnParams} {ps : List AttnParams}
    (hlist : inT0 (fld d 1012 989) (listWidth grist * (List.range (fld d 1023 1018 + 1)).length) = true)
    (hpriv : touchesPriv (fld d 1012 989) (listWidth grist * (List.range (fld d 1023 1018 + 1)).length) = false) (hbody : batchBad grist d = false)
    (hplan : batchPlan s c grist d (List.range (fld d 1023 1018 + 1)) (fld d 879 856) (fld d 855 832) = .ok (p :: ps))
    (hkeys : batchKeyless s c (p :: ps) = none) (hfresh : freshHead s c r = true) :
    let slots := (p :: ps).map (fun x => x.slot)
    (dedup slots).any (useFull s c) = false →
    batchBody grist s c r env d =
      runAttn ((dedup slots).foldl (fun t x => countUse t c r x) s) c r env (attnStart p ps slots (hdrOf d).tag) := by
  intro slots hroom
  unfold batchBody
  dsimp only
  rw [if_neg (by rw [hlist, hpriv]; decide), if_neg (by simp [hbody]), hplan]
  dsimp only
  rw [hkeys]
  exact admitUse_fresh hfresh hroom _

/-- A batch descriptor that nothing holds back runs its body, of `AttendGrist` or of `AttendRagged`. -/
theorem exec_batch_runs (hrun : runsNow s c r (if grist then 0x02 else 0x03) = true) :
    exec (if grist then .attendGrist c r env else .attendRagged c r env) s =
      .next (batchBody grist (takeEnv s c env) c r env (headDesc s c r)) := by
  cases grist with
  | true => exact congrArg Host.Outcome.next (runHead_runs (op := 0x02) hrun _)
  | false => exact congrArg Host.Outcome.next (runHead_runs (op := 0x03) hrun _)

/-- Settles O19: the plan's sequences run from the first, on their own row or on the row of a presence gate's change. -/
theorem batchAttentionRuns : Obligations.BatchAttentionRuns := by
  refine ⟨?batch, ?goesOn⟩
  case batch =>
    intro c r env s grist hrun d s1 is n hlist hpriv hbody p ps hplan hkeys slots hfresh hroom y0 y hfirst hrest
    rw [exec_batch_runs hrun, batchBody_runs hlist hpriv hbody hplan hkeys hfresh hroom]
    exact congrArg _ (runAttn_goes hfirst hrest)
  case goesOn =>
    intro c r env s g x hw hold hup y0 y hfirst hrest
    show execPresenceGateRelease c r env s = _
    rw [execPresenceGateRelease, hw]
    dsimp only
    rw [if_pos hup, underOwn, hold]
    exact congrArg _ (runAttn_goes hfirst hrest)

/-! ## Buckets (R157) -/

/-- The integer square root of a number below 4 to the fuel is the largest number whose square does not exceed it. -/
theorem isqrt_bounds {fuel n : Nat} (h : n < 4 ^ fuel) : isqrt fuel n * isqrt fuel n ≤ n ∧ n < (isqrt fuel n + 1) * (isqrt fuel n + 1) := by
  induction fuel generalizing n with
  | zero =>
    have hn : n = 0 := by simpa using h
    subst hn
    decide
  | succ fuel ih =>
    obtain ⟨hlo, hhi⟩ := ih (n := n / 4) (by rw [Nat.pow_succ] at h; omega)
    unfold isqrt
    dsimp only
    generalize isqrt fuel (n / 4) = q at hlo hhi
    have h4 : 4 * (n / 4) ≤ n ∧ n < 4 * (n / 4) + 4 := by omega
    split
    · next hle => exact ⟨hle, by nlinarith⟩
    · next hgt => exact ⟨by nlinarith, by omega⟩

/-- P_k is the least page count whose square reaches 2^k. -/
theorem bucketPages_least (k : Nat) :
    2 ^ k ≤ bucketPages k * bucketPages k ∧ (bucketPages k - 1) * (bucketPages k - 1) < 2 ^ k := by
  have hfuel : 2 ^ k < 4 ^ (k / 2 + 1) := by
    rw [show 4 = 2 ^ 2 by rfl, ← Nat.pow_mul]
    exact Nat.pow_lt_pow_right (by omega) (by omega)
  obtain ⟨hlo, hhi⟩ := isqrt_bounds hfuel
  have hpos : 0 < 2 ^ k := Nat.two_pow_pos k
  unfold bucketPages
  dsimp only
  generalize isqrt (k / 2 + 1) (2 ^ k) = q at hlo hhi
  split
  · next heq =>
    have hq : q ≠ 0 := by rintro rfl; omega
    refine ⟨heq.ge, ?_⟩
    have : (q - 1) * (q - 1) < q * q := Nat.mul_self_lt_mul_self (by omega)
    omega
  · next hne => exact ⟨hhi.le, by rw [Nat.add_sub_cancel]; omega⟩

/-- Settles O20: the least page counts, and the table's values by evaluation. -/
theorem bucketsAreLeastPageCounts : Obligations.BucketsAreLeastPageCounts :=
  ⟨fun k => bucketPages_least k.val, by decide⟩

end Sys2Proof.Proofs
end

section
/-! SUPPORT. `Append` and `Prefetch` with nothing in their way, and the ends of waits at their own rows (R53, R154, R155, R166, R237, R238, R255), and the
statements about them. -/

namespace Sys2Proof.Proofs
open Sys2Proof Sys2Proof.Machine Sys2Proof.Laws

variable {s t : State} {c : Ch} {r : Sys2Proof.Ring} {env : Env} {d slot : Nat}

/-! ## Append (R154, R155) -/

/-- A field that reads 0 sets no reserved bit (R8). -/
theorem not_resv {hi lo : Nat} (h : fld d hi lo = 0) : ¬ resv d hi lo = true := by
  simp [resv, h]

/-- One slot with room in USE_COUNT (R53). -/
theorem any_useFull_single (h : useFull s c slot = false) : [slot].any (useFull s c) = false := by
  simp [h]

/-- The check of an append's handle, layer, position, format, body and room goes on to its admitted part. -/
theorem exec_append_admits (hrun : runsNow s c r 0x04 = true) :
    let d := headDesc s c r
    let s1 := takeEnv s c env
    let h := handleOf (fld d 1023 976)
    let e := seqAt s1 c h.slot
    freshHead s1 c r = true → seqCheck s1 c h false = none → apLayer d < layersOf e → e.posBase.toNat ≤ apPos0 d →
    (∃ f, fmtOf (fld d 931 927) = some f ∧ f.a = true) → fld d 871 128 = 0 → fld d 878 876 < 6 →
    inT0 (fld d 926 903) (headsOf e * apN d * 2 * roundUp (vecBytes (fmtD (fld d 931 927)) (headDimOf e.headDim.toNat)) 64) = true →
    useFull s1 c h.slot = false →
    exec (.append c r env) s = .next (appendRun (countUse s1 c r h.slot) c r env d h.slot) := by
  intro d s1 h e hfresh hhandle hlayer hpos hfmt hresv hcls hsrc hroom
  obtain ⟨f, hf, hfa⟩ := hfmt
  show execAppend c r env s = _
  rw [execAppend, runsNow_idle hrun]
  dsimp only
  rw [runHead_runs hrun]
  rw [admitCheck_fresh hfresh, hhandle]
  dsimp only
  rw [if_neg (not_or.2 ⟨Nat.not_le.2 hlayer, Nat.not_lt.2 hpos⟩), hf]
  dsimp only
  rw [if_neg (by simp [hfa]), if_neg (not_or.2 ⟨not_resv hresv, not_or.2 ⟨Nat.not_le.2 hcls, by rw [hsrc]; decide⟩⟩),
    admitUse_fresh hfresh (any_useFull_single hroom)]
  rfl

/-- An admitted append whose positions, pages and frames pass, with its owner's key there and nothing that makes it wait, has its effect (R155). -/
theorem appendRun_effect {xs : List AppendPage} {ys : List (Nat × List Byte)} :
    let e := seqAt s c slot
    let k := useKey s c e.owner.toNat
    apPos0 d + apN d ≤ 268435456 → e.length.toNat < 268435456 →
    appendInFlight s c d (appendPages s c d slot) = none → (appendPages s c d slot).findSome? (appendPageBad s c d e) = none →
    appendFillBad s c d e (appendPages s c d slot) = false → appendFrames s c d e (appendPages s c d slot) = .ok xs →
    keyHere k c e.owner.toNat = true →
    xs.any (fun x => x.use == .copy && changeWaits k c (some r) (pbIndexOf (fld (pteAt k c x.key).loc.toNat 39 0)).slot) = false →
    xs.any (copyGuarded k c d) = false → readCopies c d e xs k = (some ys, t) →
    appendRun s c r env d slot = appendEffect t c r env d slot xs ys := by
  intro e k hpos hlen hflight hpages hfill hframes hkey hheld hguard hcopies
  unfold appendRun
  dsimp only
  rw [if_neg (not_or.2 ⟨Nat.not_lt.2 hpos, Nat.not_le.2 hlen⟩), hflight]
  dsimp only
  rw [hpages]
  dsimp only
  rw [if_neg (by rw [hfill]; decide), hframes]
  dsimp only
  rw [if_neg (by rw [hkey]; decide), if_neg (by rw [hheld]; decide), if_neg (by rw [hguard]; decide), hcopies]

/-! ## The ends of waits -/

/-- The oldest release whose guard has cleared: forgotten while the log is off, recorded where it has room, and waiting where it is full (R237). -/
theorem exec_releaseRecordWrite {x : Release} {rest : List Release} (hx : takeClear (s.ch c).rel.queue = some (x, rest)) :
    exec (.releaseRecordWrite c) s = .next (
      if !(s.ch c).rel.enable then logProgress (modCh s c (fun ch => { ch with rel := { ch.rel with queue := rest } })) c
      else if relRoom (s.ch c).rel = 0 then noteFull s c
      else logProgress (modCh
        (t0Write s c ((s.ch c).rel.base.toNat * 4096 + 8 * (s.ch c).rel.head.toNat) (releaseRecord x)) c (fun ch =>
          { ch with rel := { ch.rel with queue := rest,
                                         head := BitVec.ofNat 16 (((s.ch c).rel.head.toNat + 1) % 2 ^ (s.ch c).rel.sizeLog2.toNat) } })) c) := by
  show execReleaseRecordWrite c s = _
  rw [execReleaseRecordWrite, hx]

/-- Settles O21: an append that passes its checks is admitted and has its effect; the rows of the waits' ends do what each wait waits for. -/
theorem appendWritesAndAdvances : Obligations.AppendWritesAndAdvances := by
  refine ⟨?append, ?useFull, ?freeze, ?guardPages, ?guardWrites, ?releaseRecord⟩
  case append =>
    intro c r env s hrun d s1 h e hfresh hhandle hlayer hpos hfmt hresv hcls hsrc hroom u e1 hend hlen hflight hpages hfill xs ys t hframes k hkey hheld
      hguard hcopies
    rw [exec_append_admits hrun hfresh hhandle hlayer hpos hfmt hresv hcls hsrc hroom,
      appendRun_effect hend hlen hflight hpages hfill hframes hkey hheld hguard hcopies]
  case useFull =>
    intro c r s hw
    show execUseCountAdmit c r s = _
    rw [execUseCountAdmit, hw]
  case freeze =>
    intro c r s slot x hw huse
    show execUseCountAdmit c r s = _
    rw [execUseCountAdmit, hw]
    exact congrArg _ (if_pos huse)
  case guardPages =>
    intro c r s x hup hw
    refine ⟨?_, fun env => ?_⟩
    · show execFrameGuardClear c r s = _
      rw [execFrameGuardClear, hw, hup]
      rfl
    · show execAppend c r env s = _
      rw [execAppend, hw]
      exact congrArg _ (if_pos hup)
  case guardWrites =>
    intro c r s x hup hw
    show execFrameGuardClear c r s = _
    rw [execFrameGuardClear, hw, hup]
    rfl
  case releaseRecord =>
    intro c s x rest hx
    rw [exec_releaseRecordWrite hx]
    refine ⟨fun hoff => ?_, fun hon hroom => ?_, fun hon hfull => ?_⟩
    · rw [if_pos (by rw [hoff]; decide)]
    · rw [if_neg (by rw [hon]; decide), if_neg hroom]
    · rw [if_neg (by rw [hon]; decide), if_pos hfull]

/-! ## Prefetch (R166) -/

/-- A `Prefetch` of a sequence that passes its checks copies the pages of its range in order. -/
theorem fetchSeq_copies :
    let e := seqAt s c slot
    let o := seqObj s c slot
    let lo := fld d 959 938
    let n := fld d 937 916 + 1 - lo
    fetchBad d (n * o.size) = false → keyLoaded s o.owner = true →
    fetchSeq s c r d slot = fetchEnd ((List.range n).foldl (fun a j =>
      let key := pteKey slot (fld d 973 966) (fld d 965 960) (pageEntry e (lo + j))
      let p := pteAt a.st c key
      let q := if e.ring ∧ keyPage a.st c e key p ≠ lo + j then none else resolvePage a.st c e (fld d 973 966) (fld d 965 960) key p
      fetchPage c (fld d 915 892) o.size a j q) { st := s, flags := 0 }) c r := by
  intro e o lo n hdest hkey
  unfold fetchSeq
  dsimp only
  rw [if_neg (by rw [hdest]; decide), if_neg (by rw [hkey]; decide)]

/-- A `Prefetch` of a block that passes its checks copies its page of the layer and KV head. -/
theorem fetchBlock_copies :
    let o := pbObj s c slot
    let b := pbAt s c slot
    let k := recKey slot (fld d 973 966) (fld d 965 960)
    fld d 973 966 < o.layers → fld d 965 960 < o.heads → fetchBad d o.size = false → keyLoaded s o.owner = true →
    fetchBlock s c r d slot = fetchEnd (fetchPage c (fld d 915 892) o.size { st := s, flags := 0 } 0
      (some { isPb := true, key := k, pte := recAt s c k, owner := o.owner, kFmt := b.kFmt.toNat, vFmt := b.vFmt.toNat,
              pbIdx := BitVec.ofNat 40 (fld d 1015 976) })) c r := by
  intro o b k hlayer hhead hdest hkey
  unfold fetchBlock
  dsimp only
  rw [if_neg (not_or.2 ⟨Nat.not_le.2 hlayer, Nat.not_le.2 hhead⟩), if_neg (by rw [hdest]; decide), if_neg (by rw [hkey]; decide)]

/-- Settles O22: the KIND of the descriptor, its checks, then the copies. -/
theorem prefetchCopies : Obligations.PrefetchCopies := by
  refine ⟨?sequence, ?block, ?raw⟩
  case sequence =>
    intro c r env s hrun d s1 h e hkind hfresh hhandle hlayer hhead hrange hresv hroom u o lo n hdest hkey
    show execPrefetch c r env s = _
    rw [execPrefetch, runHead_runs hrun]
    rw [hkind]
    dsimp only
    rw [admitCheck_fresh hfresh, hhandle]
    dsimp only
    rw [if_neg (not_or.2 ⟨Nat.not_le.2 hlayer, not_or.2 ⟨Nat.not_le.2 hhead, Nat.not_lt.2 hrange⟩⟩), if_neg (not_resv hresv),
      admitUse_fresh hfresh (any_useFull_single hroom)]
    exact congrArg _ (fetchSeq_copies hdest hkey)
  case block =>
    intro c r env s hrun d s1 slot o b k hkind hver hpages hresv hhome hlive hlayer hhead hdest hkey
    show execPrefetch c r env s = _
    rw [execPrefetch, runHead_runs hrun, hkind]
    have hgood : ¬ (!pbLive s1 (fld d 1023 976)) = true := by rw [hlive]; decide
    exact congrArg Host.Outcome.next ((if_neg (not_or.2 ⟨not_resv hver, not_or.2 ⟨not_resv hpages, not_resv hresv⟩⟩)).trans
      ((if_neg (not_not.2 hhome)).trans ((if_neg hgood).trans (fetchBlock_copies hlayer hhead hdest hkey))))
  case raw =>
    intro c r env s hrun d s1 fr n hkind h1 h2 h3 hdest hpool
    show execPrefetch c r env s = _
    rw [execPrefetch, runHead_runs hrun, hkind]
    exact congrArg _ (if_neg (not_or.2 ⟨not_resv h1, not_or.2 ⟨not_resv h2, not_or.2 ⟨not_resv h3,
      not_or.2 ⟨Bool.eq_false_iff.1 hdest, Nat.not_lt.2 hpool⟩⟩⟩⟩))

end Sys2Proof.Proofs
end

section
/-! SUPPORT. Page moves between the tiers where nothing holds them: the run of a move (R253), the start of a T3 move and the answer to its request (R261,
R389, R392, R393), and the statement about them. -/

namespace Sys2Proof.Proofs
open Sys2Proof Sys2Proof.Machine Sys2Proof.Laws

variable {s t : State} {c : Ch} {r : Sys2Proof.Ring} {env : Env} {x : MoveCtx} {m : Move} {k : Nat}

/-! ## Moves of a ring -/

/-- A ring whose descriptor has moves under way. -/
theorem ringMoves_moves (h : (s.ring c r).wait = .moves x) : ringMoves s c r = some x := by
  simp [ringMoves, h]

/-- PAGE_MOVE_END runs a move that is in the in-flight table, has not ended and is not of T3, while the release log and the journal have room (R237,
R251, R289). -/
theorem exec_pageMoveEnd (hw : (s.ring c r).wait = .moves x) (hm : x.moves[k]? = some m) (hended : m.ended = false) (h3 : m.wait3 = false)
    (hT3 : moveT3 s c x m = false) (htab : inTable x k = true) (hlog : logFull s c = false) (hj : journalOver s c = false) :
    exec (.pageMoveEnd c r k env) s = .next (underOwn s c r (fun s => moveRun s c r x k m env)) := by
  have hruns : ¬ (m.ended = true ∨ m.wait3 = true ∨ (!inTable x k) = true ∨ moveT3 s c x m = true) := by simp [hended, h3, hT3, htab]
  show execPageMoveEnd c r k env s = _
  rw [execPageMoveEnd, ringMoves_moves hw]
  dsimp only
  rw [hm]
  dsimp only
  rw [if_neg hruns, if_neg (by rw [hlog]; decide), if_neg (by rw [hj]; decide)]

/-! ## The run of a move between T1 and T2 (R252, R253) -/

/-- A move that its opcode skips as the page stands ends skipped. -/
theorem moveRun_skips (hfree : moveBlocked (takeEnv s c env) c r m = false)
    (hskip : moveSkips (takeEnv s c env) c x.opcode.toNat x.toTier.toNat m.isPb (moveRef (takeEnv s c env) c x m).pte = true) :
    moveRun s c r x k m env = moveEnds (takeEnv s c env) c r x k m .skipped := by
  unfold moveRun
  dsimp only
  rw [if_neg (by rw [hfree]; decide), if_pos hskip]

section
variable (hfree : moveBlocked (takeEnv s c env) c r m = false)
  (hskip : moveSkips (takeEnv s c env) c x.opcode.toNat x.toTier.toNat m.isPb (moveRef (takeEnv s c env) c x m).pte = false)
include hfree hskip

/-- A move of a page whose owner's key the channel no longer has ends failed (R449). -/
theorem moveRun_keyless (hkey : keyHere (useKey (takeEnv s c env) c x.owner.toNat) c x.owner.toNat = false) :
    moveRun s c r x k m env = moveEnds (useKey (takeEnv s c env) c x.owner.toNat) c r x k m (.failed .keyEmpty) := by
  unfold moveRun
  dsimp only
  rw [if_neg (by rw [hfree]; decide), if_neg (by rw [hskip]; decide), if_pos (by rw [hkey]; rfl)]

/-- A move that does not go to a home reads its page: one that cannot be read ends poisoned, and another is stored. -/
theorem moveRun_reads (hkey : keyHere (useKey (takeEnv s c env) c x.owner.toNat) c x.owner.toNat = true) (hhome : m.homed = false) :
    let p := moveRef (takeEnv s c env) c x m
    let size := moveSize (takeEnv s c env) c x
    let u := useKey (takeEnv s c env) c x.owner.toNat
    (∀ t, readPage u c p size = (none, t) → moveRun s c r x k m env = moveEnds (loseRead t c p size) c r x k m .poisoned) ∧
    (∀ t bs, readPage u c p size = (some bs, t) → moveRun s c r x k m env = (moveStore t c r x k m bs).2) := by
  intro p size u
  refine ⟨fun t hread => ?_, fun t bs hread => ?_⟩ <;> unfold moveRun <;> dsimp only <;>
    rw [if_neg (by rw [hfree]; decide), if_neg (by rw [hskip]; decide), if_neg (by rw [hkey]; decide), if_neg (by rw [hhome]; simp), hread]

end

/-- A page stored in T1, where no guard is on the frame (R238). -/
theorem moveStore_T1 (h1 : x.toTier = 1) (bs : List Byte)
    (hg : guarded s c (fld m.dest.toNat 25 0) (fld m.dest.toNat 25 0 + 2 ^ x.cls.toNat) = false) :
    moveStore s c r x k m bs = (true, moveEnds (moveDone (t1Write s c x.owner.toNat (frameAddr m.dest) bs) c x m) c r x k m .done) := by
  simp [moveStore, h1, hg]

/-- A page programmed in T2, where Marl accepts it (R278). -/
theorem moveStore_T2 (h2 : x.toTier = 2) (bs : List Byte) {w : State} {n : Nat}
    (hp : programFrame s c (placeStream x) x.owner.toNat x.cls.toNat m.dest bs (movedKeys x) = .ok w n) :
    moveStore s c r x k m bs = (true, moveEnds (moveDone (noteEvicted w c r n) c x m) c r x k m .done) := by
  have h1 : ¬ x.toTier = 1 := by rw [h2]; decide
  unfold moveStore
  rw [if_neg h1, hp]

/-! ## Moves to and from T3 (R261, R389, R393) -/

/-- The only move of a descriptor, of T3, in the table and not started. -/
theorem idleMoves3_single (hw : (s.ring c r).wait = .moves x) (hm : x.moves = [m]) (hended : m.ended = false) (h3 : m.wait3 = false)
    (hT3 : moveT3 s c x m = true) (htab : inTable x 0 = true) : idleMoves3 s c r = [0] ∧ idleMove s c r 0 = some (x, m) := by
  simp [idleMoves3, idleMove, ringMoves_moves hw, hm, hended, h3, hT3, htab]

/-- A T3 move that no connection holds is started under its descriptor's settings. -/
theorem tryMove3_starts (h : idleMove s c r k = some (x, m)) : (tryMove3 s c r k []).1 = underOwn s c r (fun s => moveStart3 s c r x k m) := by
  simp [tryMove3, h]

/-- Where one ring has one T3 move to start and the other has none, it is started (R261). -/
theorem startAll3_single (hr : r = 4 ∨ r = 5) (hmove : idleMoves3 s c r = [0]) (hidle : idleMove s c r 0 = some (x, m))
    (hother : idleMoves3 s c (if r = 4 then 5 else 4) = []) :
    startAll3 s c = underOwn s c r (fun s => moveStart3 s c r x 0 m) := by
  rcases hr with rfl | rfl
  · have h5 : idleMoves3 s c 5 = [] := hother
    simp [startAll3, hmove, h5, startMoves3, tryMove3_starts hidle]
  · have h4 : idleMoves3 s c 4 = [] := hother
    simp [startAll3, hmove, h4, startMoves3, tryMove3_starts hidle]

/-- A Place to a host-memory window, with nothing in its way, reads its page and sends the ciphertext to the window's address (R389, R393). -/
theorem moveStart3_hostWrite {l : Ld} {bs : List Byte} (hto : x.toTier = 3) (hfree : moveBlocked s c r m = false)
    (hskip : moveSkips s c x.opcode.toNat 3 m.isPb (moveRef s c x m).pte = false)
    (hkey : keyHere (useKey s c x.owner.toNat) c x.owner.toNat = true) (hvalid : (windowAt s c (t3Window m.dest)).valid = true)
    (hhost : (windowAt s c (t3Window m.dest)).host = true)
    (hlen : t3Offset m.dest + ceilDiv (moveSize s c x) 2048 ≤ (windowAt s c (t3Window m.dest)).len)
    (hlog : logFull (useKey s c x.owner.toNat) c = false)
    (hread : readPage (useKey s c x.owner.toNat) c (moveRef s c x m) (moveSize s c x) = (some bs, t))
    (hl : ldOfCh t c = some l) (hbm : (t.ld l).busMaster = true) :
    moveStart3 s c r x 0 m = moveSent (emit t (.hostWrite l.val (((windowAt s c (t3Window m.dest)).base + t3Offset m.dest) * 2048)
      (t3Encrypt t c x.owner.toNat m.dest bs))) c r 0 := by
  have hloc (w : State) : moveLoc3 w c x m = m.dest := by simp [moveLoc3, hto]
  have h31 : ¬ (3 : BitVec 2) = 1 := by decide
  have hskips : moveSkips s c x.opcode.toNat (3 : BitVec 2).toNat m.isPb (moveRef s c x m).pte = false := hskip
  have hissue (w : State) (size : Nat) : issueHeld w c x (windowAt s c (t3Window m.dest)) size = false := by simp [issueHeld, hhost]
  unfold moveStart3
  simp only [hloc, hfree, hskips, hvalid, hkey, hhost, hissue, hlog, h31, hto, hread, Nat.not_lt.2 hlen, Bool.not_true, Bool.false_eq_true,
    false_and, or_self, if_false, if_true]
  simp only [moveSend, hloc, hhost, hl, hbm, hto, Bool.not_true, Bool.false_eq_true, if_false, if_true]

/-- The settings under which a descriptor runs leave the release log. -/
theorem logFull_withSettings (y : Settings) : logFull (withSettings s y) c = logFull s c := by
  have hrel : ((withSettings s y).ch c).rel = (s.ch c).rel := by simp [withSettings, State.ch]
  simp only [logFull, hrel]

/-- The state that a step under a descriptor's own settings leaves, where it answers something besides. -/
theorem underOwnP_snd {α : Type} (f : State → α × State) : (underOwnP s c r f).2 = underOwn s c r (fun w => (f w).2) := by
  unfold underOwnP underOwn
  split <;> rfl

/-- Two steps that agree on the state, under whatever settings, agree under a descriptor's own. -/
theorem underOwn_congr {f g : State → State} (h : f s = g s) (hy : ∀ y, f (withSettings s y) = g (withSettings s y)) :
    underOwn s c r f = underOwn s c r g := by
  unfold underOwn
  split
  · exact h
  · rw [hy]

/-- The answer to the host-memory request of a move whose page goes by a window of the host (R393). -/
theorem exec_hostMemoryRequestDone {timeout : Bool} {data : List Byte} (hw : (s.ring c r).wait = .moves x) (hm : x.moves[k]? = some m)
    (hhost : (windowAt s c (t3Window (moveLoc3 s c x m))).host = true) :
    exec (.hostMemoryRequestDone c r k timeout data) s =
      .next (windowsStep (move3Done s c r k (if timeout then .linkTimeout else .ok) data).2 c) := by
  show execHostMemoryRequestDone c r k timeout data s = _
  rw [execHostMemoryRequestDone, ringMoves_moves hw]
  dsimp only
  rw [hm]
  exact congrArg _ (if_pos hhost)

section
variable (hw : (s.ring c r).wait = .moves x) (hm : x.moves[k]? = some m) (hended : m.ended = false) (h3 : m.wait3 = true)
include hw hm hended h3

/-- A request that times out ends its move failed (R392). -/
theorem move3Done_timeout (data : List Byte) :
    (move3Done s c r k .linkTimeout data).2 = underOwn s c r (fun s => moveEnds s c r x k m (.failed .linkTimeout)) := by
  have hne : St.linkTimeout ≠ St.ok := by decide
  simp only [move3Done, ringMoves_moves hw, Option.bind_some, hm, Option.map_some, hended, h3, Bool.not_true, Bool.false_eq_true, or_self,
    if_false, underOwnP_snd, ne_eq, hne, not_false_eq_true, if_true]

/-- A write to T3 that is answered ends its move done, while the release log has room (R253, R237). -/
theorem move3Done_placed (hstop : x.stopped = false) (hto : x.toTier = 3) (hlog : logFull s c = false) (data : List Byte) :
    (move3Done s c r k .ok data).2 = underOwn s c r (fun s => moveEnds (moveDone s c x m) c r x k m .done) := by
  simp only [move3Done, ringMoves_moves hw, Option.bind_some, hm, Option.map_some, hended, h3, Bool.not_true, Bool.false_eq_true, or_self,
    if_false, underOwnP_snd, ne_eq, not_true_eq_false, hstop, hto]
  exact underOwn_congr (by simp [hlog]) (fun y => by simp [logFull_withSettings, hlog])

end

/-- Settles O39: each row finds its move, and the move's checks pass one after the other. -/
theorem pageMovesEnd : Obligations.PageMovesEnd := by
  refine ⟨?pageMoveEnd, ?run, ?resume, ?start, ?answer⟩
  case pageMoveEnd =>
    intro c r k env s x m hw hm hended h3 hT3 htab hlog hj
    exact exec_pageMoveEnd hw hm hended h3 hT3 htab hlog hj
  case run =>
    intro c r k env s x m s1 p size f s2 hfree
    refine ⟨fun hskip => moveRun_skips hfree hskip, fun hskip => ⟨fun hkey => moveRun_keyless hfree hskip hkey, fun hkey hhome => ?_⟩⟩
    obtain ⟨hlost, hstored⟩ := moveRun_reads hfree hskip hkey hhome (r := r) (k := k)
    refine ⟨fun t hread => hlost t hread, fun t bs hread => ⟨fun h1 hg => ?_, fun w n h2 hp => ?_⟩⟩
    · rw [hstored t bs hread, moveStore_T1 h1 bs hg]
    · rw [hstored t bs hread, moveStore_T2 h2 bs hp]
  case resume =>
    intro c r s x m hr hw hm hended h3 hT3 htab hother
    obtain ⟨hmove, hidle⟩ := idleMoves3_single hw hm hended h3 hT3 htab
    show execT3MoveResume c r s = _
    rw [execT3MoveResume, ringMoves_moves hw, startAll3_single hr hmove hidle hother]
    rfl
  case start =>
    intro c r s x m l hto hfree p w s2 hskip hkey hvalid hhost hlen hlog t bs hread hl hbm
    exact moveStart3_hostWrite hto hfree hskip hkey hvalid hhost hlen hlog hread hl hbm
  case answer =>
    intro c r k data s x m hw hm hended h3 hhost
    refine ⟨?_, fun hstop hto hlog => ?_⟩
    · rw [exec_hostMemoryRequestDone hw hm hhost]
      exact congrArg (fun t => Host.Outcome.next (windowsStep t c)) (move3Done_timeout hw hm hended h3 data)
    · rw [exec_hostMemoryRequestDone hw hm hhost]
      exact congrArg (fun t => Host.Outcome.next (windowsStep t c)) (move3Done_placed hw hm hended h3 hstop hto hlog data)

end Sys2Proof.Proofs
end

section
/-! SUPPORT. The Sieve as a store of rows: the listed rows and the rows read (R178), the search over them (R182, R188), the landing of a shift
(R189) and the one handshake of a removal (R192), and the statements about them. -/

namespace Sys2Proof.Proofs
open Sys2Proof Sys2Proof.Machine Sys2Proof.Laws

variable {s : State} {c : Ch} {x : Sieve}

/-! ## Listed entries and entries read -/

/-- Listed indices lie above the bound of a rising store. -/
theorem lt_of_mem_rising {α : Type} {b : Nat} {m : SMap α} {e : Nat × α} (hm : smRising (some b) m = true) (he : e ∈ m) : b < e.1 := by
  induction m generalizing b with
  | nil => cases he
  | cons a m ih =>
    obtain ⟨hb, hrest⟩ := rising_cons.1 hm
    rcases List.mem_cons.1 he with rfl | he
    · exact above_some.1 hb
    · exact (above_some.1 hb).trans (ih hrest he)

/-- A rising store lists exactly the entries that it reads. -/
theorem mem_iff_smGet? {α : Type} {lo : Option Nat} {m : SMap α} (hm : smRising lo m = true) {k : Nat} {v : α} :
    (k, v) ∈ m ↔ smGet? m k = some v := by
  induction m generalizing lo with
  | nil => simp [smGet?]
  | cons a m ih =>
    obtain ⟨i, w⟩ := a
    have hrest := (rising_cons.1 hm).2
    by_cases hik : i = k
    · subst hik
      have hnot : (i, v) ∉ m := fun h => lt_irrefl i (lt_of_mem_rising hrest h)
      simp [smGet?, hnot, eq_comm]
    · by_cases hki : k < i
      · have hnot : (k, v) ∉ m := fun h => lt_asymm hki (lt_of_mem_rising hrest h)
        simp [smGet?, hik, hki, hnot, Ne.symm hik]
      · simp [smGet?, hik, hki, ih hrest, Ne.symm hik]

/-- The first entry of a rising store that passes a test is the one of the lowest index. -/
theorem find?_rising {α : Type} {lo : Option Nat} {m : SMap α} (hm : smRising lo m = true) {p : Nat × α → Bool} {i : Nat} {v : α} :
    m.find? p = some (i, v) ↔ (i, v) ∈ m ∧ p (i, v) = true ∧ ∀ e ∈ m, e.1 < i → p e = false := by
  induction m generalizing lo with
  | nil => simp
  | cons a m ih =>
    have hrest := (rising_cons (i := a.1) (v := a.2)).1 hm |>.2
    have habove (e : Nat × α) (he : e ∈ m) : a.1 < e.1 := lt_of_mem_rising hrest he
    by_cases ha : p a = true
    · rw [List.find?_cons_of_pos ha]
      constructor
      · rintro ⟨rfl⟩
        refine ⟨List.mem_cons_self, ha, fun e he hlt => ?_⟩
        rcases List.mem_cons.1 he with rfl | he
        · exact absurd hlt (lt_irrefl _)
        · exact absurd hlt (lt_asymm (habove e he))
      · rintro ⟨hmem, -, hlow⟩
        rcases List.mem_cons.1 hmem with h | h
        · rw [h]
        · have := hlow a List.mem_cons_self (habove _ h)
          rw [ha] at this
          cases this
    · have hne (h : p (i, v) = true) : (i, v) ≠ a := fun e => ha (e ▸ h)
      rw [List.find?_cons_of_neg ha, ih hrest]
      constructor
      · rintro ⟨hmem, hp, hlow⟩
        exact ⟨List.mem_cons_of_mem _ hmem, hp, List.forall_mem_cons.2 ⟨fun _ => Bool.eq_false_iff.2 ha, hlow⟩⟩
      · rintro ⟨hmem, hp, hlow⟩
        exact ⟨(List.mem_cons.1 hmem).resolve_left (hne hp), hp, (List.forall_mem_cons.1 hlow).2⟩

/-! ## Rows -/

theorem rowUsable_iff {i : Nat} : rowUsable x i = true ↔ i ∉ x.unusable := by
  simp [rowUsable]

/-- A valid row is listed at an index where it is read there. -/
theorem mem_rows_iff (hx : smRising none x.rows = true) {i : Nat} {w : SieveRow} (hw : w.valid = true) : (i, w) ∈ x.rows ↔ w = rowAt x i := by
  rw [mem_iff_smGet? hx, rowAt, smGet]
  cases smGet? x.rows i with
  | none => exact iff_of_false (fun h => nomatch h) (fun h => by rw [h] at hw; cases hw)
  | some v => simp [eq_comm]

/-! ## The search (R182, R188) -/

/-- An array row at or above `lo` that a search with a test takes (R182). -/
def ArrayMatch (x : Sieve) (lo : Nat) (m : SieveRow → Bool) (i : Nat) : Prop :=
  lo ≤ i ∧ (rowAt x i).valid = true ∧ i ∉ x.unusable ∧ m (rowAt x i) = true

/-- The lowest of them. -/
def LowestMatch (x : Sieve) (lo : Nat) (m : SieveRow → Bool) (i : Nat) : Prop :=
  ArrayMatch x lo m i ∧ ∀ j : Nat, j < i → ¬ ArrayMatch x lo m j

/-- The array row that a search finds. -/
def arrayHit (x : Sieve) (lo : Nat) (m : SieveRow → Bool) : Option (Nat × SieveRow) :=
  x.rows.find? (fun e => decide (lo ≤ e.1) && e.2.valid && rowUsable x e.1 && m e.2)

section
variable (hx : smRising none x.rows = true) {lo : Nat} {m : SieveRow → Bool}
include hx

/-- A listed row passes the test of a search where its index matches. -/
theorem listed_passes_iff {e : Nat × SieveRow} :
    (e ∈ x.rows ∧ (decide (lo ≤ e.1) && e.2.valid && rowUsable x e.1 && m e.2) = true) ↔ ArrayMatch x lo m e.1 ∧ e.2 = rowAt x e.1 := by
  simp only [Bool.and_eq_true, decide_eq_true_eq, rowUsable_iff, ArrayMatch]
  constructor
  · rintro ⟨hmem, ⟨⟨hlo, hv⟩, hu⟩, hm⟩
    have hrow := (mem_rows_iff hx hv).1 hmem
    rw [← hrow]
    exact ⟨⟨hlo, hv, hu, hm⟩, rfl⟩
  · rintro ⟨⟨hlo, hv, hu, hm⟩, hrow⟩
    rw [← hrow] at hv hm
    exact ⟨(mem_rows_iff hx hv).2 hrow, ⟨⟨hlo, hv⟩, hu⟩, hm⟩

/-- No array row is found where no index matches. -/
theorem arrayHit_none_iff : arrayHit x lo m = none ↔ ∀ i : Nat, ¬ ArrayMatch x lo m i := by
  rw [arrayHit, List.find?_eq_none]
  constructor
  · intro h i hi
    obtain ⟨hmem, hpass⟩ := (listed_passes_iff hx (e := (i, rowAt x i))).2 ⟨hi, rfl⟩
    exact h _ hmem hpass
  · exact fun h e hmem hpass => h e.1 ((listed_passes_iff hx).1 ⟨hmem, hpass⟩).1

/-- The array row found is the one of the lowest index that matches. -/
theorem arrayHit_some_iff {i : Nat} {w : SieveRow} : arrayHit x lo m = some (i, w) ↔ LowestMatch x lo m i ∧ w = rowAt x i := by
  rw [arrayHit, find?_rising hx, ← and_assoc, listed_passes_iff hx, LowestMatch, and_right_comm]
  refine and_congr_left fun _ => and_congr_right fun _ => ⟨fun h j hj hmatch => ?_, fun h e hmem hlt => ?_⟩
  · obtain ⟨hmem, hpass⟩ := (listed_passes_iff hx (e := (j, rowAt x j))).2 ⟨hmatch, rfl⟩
    exact Bool.false_ne_true ((h _ hmem hj).symm.trans hpass)
  · exact Bool.eq_false_iff.2 fun hpass => h e.1 hlt ((listed_passes_iff hx).1 ⟨hmem, hpass⟩).1

end

/-- With no pending row a search answers the array row. -/
theorem searchFrom_noPend {lo : Nat} {m : SieveRow → Bool} (hp : x.pend = none) : searchFrom x lo m = arrayHit x lo m := by
  rw [searchFrom, hp]
  rfl

/-- A pending row that passes takes part at its target (R188). -/
theorem searchFrom_pend {lo : Nat} {m : SieveRow → Bool} {p : PendRow} (hp : x.pend = some p) (hv : p.row.valid = true) (hm : m p.row = true)
    (hlo : lo ≤ p.target) :
    searchFrom x lo m = if pendWins p ((arrayHit x lo m).map (fun e => e.1)) = true then some (p.target, p.row) else arrayHit x lo m := by
  rw [searchFrom, hp]
  simp only [hv, hm, hlo, true_and]
  rfl

/-- The pending row wins against an array row at or beyond its target, in an upward shift beyond it (R188). -/
theorem pendWins_some_iff {p : PendRow} {a : Nat} :
    pendWins p (some a) = true ↔ (p.down = true ∧ p.target ≤ a) ∨ (p.down = false ∧ p.target < a) := by
  cases hd : p.down <;> simp [pendWins, hd]

/-- The masked test of a probe in its three parts (R182). -/
theorem probeTest_iff {key : BitVec 128} {tag m : Nat} {w : SieveRow} :
    probeTest s c key tag m w = true ↔
      w.key = key ∧ (w.tag.toNat ^^^ tag) &&& fld ((s.ch c).cfg.sieveMask.toList.getD (m % 4) 0).toNat 31 16 = 0 ∧
      bit ((s.ch c).cfg.sieveMask.toList.getD (m % 4) 0).toNat w.band.toNat = true := by
  simp only [probeTest, Bool.and_eq_true, beq_iff_eq, and_assoc]

/-- Settles O26: the array's part of a search is its lowest match, and a pending row is weighed against that. -/
theorem searchFindsTheLowestMatch : Obligations.SearchFindsTheLowestMatch := by
  intro s c key tag m lo hwf x k passes matches_ found lowest
  have hx := (wf_iff.1 hwf).1
  have hpasses (w : SieveRow) : passes w ↔ probeTest s c key tag m w = true := probeTest_iff.symm
  have hmatches : matches_ = ArrayMatch x lo (probeTest s c key tag m) :=
    funext fun i => propext (and_congr_right fun _ => and_congr_right fun _ => and_congr_right fun _ => hpasses _)
  have hlowest : lowest = LowestMatch x lo (probeTest s c key tag m) :=
    funext fun i => by simp only [lowest, hmatches, LowestMatch]
  rw [hmatches, hlowest]
  refine ⟨fun hp => ?_, fun hp i w => ?_, fun p hp hv hpass hlo => ?_⟩
  · rw [← arrayHit_none_iff hx, ← searchFrom_noPend hp]
  · rw [← arrayHit_some_iff hx, ← searchFrom_noPend hp]
  · have hfound := searchFrom_pend hp hv ((hpasses _).1 hpass) hlo
    refine ⟨fun hnone => ?_, fun a ha => ?_⟩
    · rw [(arrayHit_none_iff hx).2 hnone] at hfound
      exact hfound
    · rw [(arrayHit_some_iff hx).2 ⟨ha, rfl⟩] at hfound
      simpa only [Option.map_some, pendWins_some_iff] using hfound

/-! ## The landing of a shift (R189) -/

/-- Reading a row after the write of one. -/
theorem rowAt_setRow (hx : smRising none x.rows = true) (i : Nat) (w : SieveRow) (j : Nat) :
    rowAt (setRow x i w) j = if j = i then w else rowAt x j := get_set hx

/-- Clearing TRANSIT of an index leaves every other field and every other row. -/
theorem rowAt_clearTransit (hx : smRising none x.rows = true) (p : Option Nat) (j : Nat) :
    rowAt (clearTransit x p) j = if p = some j then { rowAt x j with transit := false } else rowAt x j := by
  cases p with
  | none => rfl
  | some i =>
    rw [clearTransit, rowAt, get_set hx]
    by_cases hij : j = i
    · rw [if_pos hij, if_pos (by rw [hij]), hij]
    · rw [if_neg hij, if_neg (by simpa using Ne.symm hij), rowAt]

/-- Clearing TRANSIT of an index keeps the rows in order. -/
theorem clearTransit_rising (hx : smRising none x.rows = true) (p : Option Nat) : smRising none (clearTransit x p).rows = true := by
  cases p with
  | none => exact hx
  | some i => exact set_rising hx

/-- Clearing TRANSIT is a change of the rows alone. -/
theorem clearTransit_eq (p : Option Nat) : clearTransit x p = { x with rows := (clearTransit x p).rows } := by
  cases p <;> rfl

/-- Where every index is usable, the lowest one from `v` on is `v`. -/
theorem usableUp_all (hu : x.unusable = []) (v : Nat) : usableUp x v = v := by
  simp [usableUp, hu, gapUp]

/-- Where every index is usable, the highest one below `v + 1` is `v`. -/
theorem usableDown_all (hu : x.unusable = []) (v : Nat) : usableDown x (v + 1) = some v := by
  simp [usableDown, hu, gapDown]

/-- BSTART after a landing where every index is usable (R189). -/
theorem landBstart_all (hu : x.unusable = []) (p : PendRow) (b : Nat) (n : Fin 16) :
    (landBstart x p b)[n] =
      if p.down = true ∧ b < n.val ∧ p.edge ≤ x.bstart[n] ∧ x.bstart[n] ≤ p.hole then x.bstart[n] + 1
      else if p.down = false ∧ n.val ≤ b ∧ n.val ≠ 0 ∧ p.hole < x.bstart[n] ∧ x.bstart[n] ≤ p.edge then x.bstart[n] - 1
      else x.bstart[n] := by
  have hdown (v : Nat) (hv : p.hole < v) : (usableDown x v).getD p.hole = v - 1 := by
    obtain ⟨u, rfl⟩ := Nat.exists_eq_add_of_lt hv
    rw [usableDown_all hu]
    rfl
  simp only [landBstart, Fin.getElem_fin, Vector.getElem_ofFn, usableUp_all hu]
  by_cases hd : p.down = true
  · simp [hd]
  · simp only [Bool.not_eq_true] at hd
    simp only [hd, Bool.false_eq_true, false_and, true_and, if_false]
    exact ite_congr rfl (fun h => hdown _ h.2.2.1) (fun _ => rfl)

/-- The rows after a landing: the pending row at its target, TRANSIT clear at the last copy, every other row as it was (R187, R189). -/
theorem rowAt_shiftLand (hx : smRising none x.rows = true) (p : PendRow) (j : Nat) :
    rowAt (shiftLand x p) j =
      if j = p.target then p.row else if p.prev = some j then { rowAt x j with transit := false } else rowAt x j := by
  rw [← rowAt_clearTransit hx]
  exact rowAt_setRow (clearTransit_rising hx p.prev) _ _ _

/-- A landing's mirror record is the pending row's with TRANSIT 0, and its BSTART is that of the rows before it (R189, R194). -/
theorem shiftLand_rest (p : PendRow) :
    (shiftLand x p).mirror = smSet SieveRow.none x.mirror p.target { p.row with transit := false } ∧
    (shiftLand x p).bstart = landBstart x p p.row.band.toNat := by
  rw [shiftLand, clearTransit_eq]
  exact ⟨rfl, rfl⟩

/-- The Sieve of a channel after its change. -/
@[simp] theorem sieve_modSieve (f : Sieve → Sieve) : ((modSieve s c f).ch c).sieve = f (s.ch c).sieve := by
  simp [modSieve]

/-- Settles O28: the landing is two writes of rows, each read back, and BSTART by its formula. -/
theorem shiftLandsItsRow : Obligations.ShiftLandsItsRow := by
  intro c s p hp hup hdone hu hrows hmirror x b
  have hx := (wf_iff.1 hrows).1
  have hexec : exec (.shiftLanding c) s = .next (modSieve s c (fun x => shiftLand x p)) := by
    show execShiftLanding c s = _
    rw [execShiftLanding, hp]
    exact congrArg _ (if_pos ⟨hup, hdone⟩)
  refine ⟨_, hexec, ?_⟩
  rw [sieve_modSieve]
  obtain ⟨hmir, hbst⟩ := shiftLand_rest (x := x) p
  refine ⟨rfl, ?target, ?mirror, fun n => ?bstart, fun i hi => ?others, fun q hq => ?direct⟩
  case target => rw [rowAt_shiftLand hx, if_pos rfl]
  case mirror => rw [hmir, get_set (wf_iff.1 hmirror).1, if_pos rfl]
  case bstart => rw [hbst, landBstart_all hu]
  case others => rw [rowAt_shiftLand hx, if_neg hi]
  case direct =>
    rw [rowEnters, sieve_modSieve, if_pos hq]
    rfl

/-! ## The handshake of a removal (R192) -/

/-- Invalidating rows one after the other invalidates each of them and leaves every other. -/
theorem rowAt_dropRows (l : List Nat) (hx : smRising none x.rows = true) (i : Nat) :
    rowAt (l.foldl dropRow x) i = if i ∈ l then { rowAt x i with valid := false, transit := false } else rowAt x i := by
  induction l generalizing x with
  | nil => simp
  | cons a l ih =>
    have hdrop : rowAt (dropRow x a) i = if i = a then { rowAt x a with valid := false, transit := false } else rowAt x i := rowAt_setRow hx _ _ _
    rw [List.foldl_cons, ih (x := dropRow x a) (set_rising hx), hdrop]
    by_cases hia : i = a
    · subst hia
      simp
    · simp [hia]

/-- Invalidating rows is a change of the rows and their mirror records. -/
theorem dropRows_eq (l : List Nat) : l.foldl dropRow x = { x with rows := (l.foldl dropRow x).rows, mirror := (l.foldl dropRow x).mirror } :=
  List.foldlRecOn (motive := fun y : Sieve => y = { x with rows := y.rows, mirror := y.mirror }) l dropRow rfl fun y hy i _ => by
    rw [hy]
    rfl

/-- A removal takes the index of every row that its test picks, usable or with its spare on the way. -/
theorem mem_takeRows_idx (hx : smRising none x.rows = true) {force : Bool} {m : SieveRow → Bool} {i : Nat} :
    i ∈ (takeRows x force m).idx ↔ removable force m (rowAt x i) = true ∧ (i ∉ x.unusable ∨ i ∈ x.sparing) := by
  simp only [takeRows, List.mem_map, List.mem_filter, Bool.and_eq_true, Bool.or_eq_true, rowUsable_iff, List.contains_iff_mem, Prod.exists,
    exists_and_right, exists_eq_right]
  have hvalid {w : SieveRow} (h : removable force m w = true) : w.valid = true := by
    simp only [removable, Bool.and_eq_true] at h
    exact h.1.1
  constructor
  · rintro ⟨w, hmem, hplace, hw⟩
    rw [← (mem_rows_iff hx (hvalid hw)).1 hmem]
    exact ⟨hw, hplace⟩
  · rintro ⟨hw, hplace⟩
    exact ⟨_, (mem_rows_iff hx (hvalid hw)).2 rfl, hplace, hw⟩

/-- The pending row after the handshake of a removal (R192). -/
theorem pend_removeTaken (t : Taken) : (removeTaken x t).pend =
    if t.pend = true then x.pend.map (fun p => { p with row := { p.row with valid := false } }) else x.pend := by
  rw [removeTaken, dropRows_eq]
  dsimp only
  split <;> rfl

/-- The rest of a Sieve after the handshake of a removal. -/
theorem removeTaken_rest (t : Taken) :
    (removeTaken x t).rows = (t.idx.foldl dropRow x).rows ∧ (removeTaken x t).bstart = x.bstart ∧ (removeTaken x t).unusable = x.unusable := by
  rw [removeTaken, dropRows_eq]
  dsimp only
  split <;> exact ⟨rfl, rfl, rfl⟩

/-- Settles O29: the array rows by their indices, the pending row by the removal's own mark. -/
theorem removalTakesEveryMatch : Obligations.RemovalTakesEveryMatch := by
  intro x force m hwf y takes
  have hx := (wf_iff.1 hwf).1
  obtain ⟨hrows, hbstart, hunusable⟩ := removeTaken_rest (x := x) (takeRows x force m)
  have hpend := pend_removeTaken (x := x) (takeRows x force m)
  refine ⟨fun i => ?array, fun p hp => ?pending, fun hp => ?none, hbstart, hunusable⟩
  case array =>
    rw [rowAt, hrows, ← rowAt, rowAt_dropRows _ hx]
    exact ite_congr (propext (mem_takeRows_idx hx)) (fun _ => rfl) (fun _ => rfl)
  case pending =>
    have htaken : (takeRows x force m).pend = takes p.row := by rw [takeRows, hp]; rfl
    rw [htaken, hp] at hpend
    rw [hpend]
    by_cases h : takes p.row = true
    · rw [if_pos h, if_pos h]
      exact ⟨_, rfl, rfl, rfl⟩
    · rw [if_neg h, if_neg h]
      exact ⟨p, rfl, rfl, rfl⟩
  case none => rw [hpend, hp]; exact ite_self _

end Sys2Proof.Proofs
end

section
/-! SUPPORT. The six Sieve descriptors on a device without a partner, from their body checks to their effect (R175, R184, R187, R192, R193, R199), and the
statement about them. -/

namespace Sys2Proof.Proofs
open Sys2Proof Sys2Proof.Machine

variable {s : State} {c : Ch} {r : Sys2Proof.Ring}

/-- One T0 area of a body that is in range and outside the areas of the engines (R199). -/
theorem areasBad_one {a n : Nat} (h : inT0 a n = true) (hp : touchesPriv a n = false) : areasBad [(a, n)] = false := by
  simp [areasBad, h, hp]

/-- Two T0 areas of a body that are in range and outside the areas of the engines (R199). -/
theorem areasBad_two {a b n m : Nat} (ha : inT0 a n = true) (hpa : touchesPriv a n = false) (hb : inT0 b m = true) (hpb : touchesPriv b m = false) :
    areasBad [(a, n), (b, m)] = false := by
  simp [areasBad, ha, hpa, hb, hpb]

/-- `SieveHash` of 16-byte hashes writes its chain (R175). -/
theorem exec_sieveHash_narrow (hrun : runsNow s c r 0x30 = true) :
    let d := headDesc s c r
    let n := fld d 1023 1018 + 1
    bit d 1017 = false → fld d 696 128 = 0 → fld d 952 825 = 0 → areasBad [(fld d 1000 977, 256 * n), (fld d 976 953, 16 * n)] = false →
    exec (.sieveHash c r) s = .next (retire (t0Write s c (fld d 976 953)
      ((chainAll (fld d 1016 1001 &&& fld (s.ch c).cfg.sieveCfg.toNat 31 16) 16 (natBe (fld d 824 697) 16)
        (chunks 256 (t0Read s c (fld d 1000 977) (256 * n)))).flatMap List.reverse)) c r (cplSt .ok)) := by
  intro d n hnarrow hresv hseed hareas
  have hgood : ¬ (resv d 696 128 = true ∨ ((!bit d 1017) = true ∧ resv d 952 825 = true) ∨ (bit d 1017 = true ∧ pairRole s c = 0) ∨
      areasBad [(fld d 1000 977, 256 * n), (fld d 976 953, (if bit d 1017 = true then 32 else 16) * n)] = true) := by
    simp [resv, hresv, hseed, hnarrow, hareas]
  show execSieveHash c r s = _
  rw [execSieveHash, runHead_runs hrun]
  dsimp only
  rw [if_neg hgood, hnarrow]
  rfl

/-- The entries of a vector on an unpaired device, each searched from index 0 (R182, R184). -/
theorem probeRecs_unpaired (hpair : pairRole s c = 0) (tag m addr n : Nat) :
    probeRecs s c tag m (vecKeys s c addr n) = (List.range n).map (fun e =>
      match searchFrom (s.ch c).sieve 0 (probeTest s c (BitVec.ofNat 128 (t0Num s c (addr + 16 * e) 16)) tag m) with
      | some a => hitRecord a.1 a.2
      | none => 0) := by
  simp only [probeRecs, vecKeys, hpair, if_true, List.map_map] <;> rfl

/-- A probe's end with status OK and nothing of a cascade (R199). -/
theorem probeEnd_ok (recs : List (BitVec 128)) (addr : Nat) :
    probeEnd s c r recs addr .ok 0 = retire (t0Write s c addr (recs.flatMap (fun w => natLe w.toNat 16))) c r (cplRes .ok (probeResult recs)) := by
  rw [probeEnd, Nat.add_zero]
  rfl

/-- `SieveProbe` without CAS on an unpaired device writes a record for each entry (R184). -/
theorem exec_sieveProbe_unpaired (hrun : runsNow s c r 0x31 = true) (hpair : pairRole s c = 0) :
    let d := headDesc s c r
    let n := fld d 1023 1018 + 1
    let recs := probeRecs s c (fld d 1017 1002) (fld d 1001 1000) (vecKeys s c (fld d 999 976) n)
    bit d 951 = false → fld d 942 128 = 0 → areasBad [(fld d 999 976, 16 * n), (fld d 975 952, 16 * n)] = false →
    exec (.sieveProbe c r) s = .next (retire (t0Write s c (fld d 975 952) (recs.flatMap (fun w => natLe w.toNat 16))) c r
      (cplRes .ok (probeResult recs))) := by
  intro d n recs hcas hresv hareas
  have hgood : ¬ (resv d 942 128 = true ∨ (bit d 951 = true ∧ casRole s c = 0) ∨
      areasBad [(fld d 999 976, (if pairRole s c = 0 then 16 else 32) * n), (fld d 975 952, 16 * n)] = true) := by
    simp [resv, hresv, hcas, hpair, hareas]
  show execSieveProbe c r s = _
  rw [execSieveProbe, runHead_runs hrun]
  dsimp only
  rw [if_neg hgood, if_pos hpair, hcas, ← probeEnd_ok]
  rfl

/-- `SieveInsert` of a live block on an unpaired device whose Sieve has no pending row searches for its KEY and MODEL_TAG (R187). -/
theorem exec_sieveInsert_unpaired (hrun : runsNow s c r 0x32 = true) (hpair : pairRole s c = 0) {h : Ch} :
    let d := headDesc s c r
    fld d 832 128 = 0 → (s.ch c).sieve.pend = none → (pbIndexOf (fld d 872 833)).home = h.val → isUp s h = true → pbLive s (fld d 872 833) = true →
    exec (.sieveInsert c r) s = .next (match searchFrom (s.ch c).sieve 0 (dupTest (BitVec.ofNat 128 (fld d 1023 896)) (fld d 895 880)) with
      | some e => retire s c r (cplRes .sieveDup e.2.pb.toNat)
      | none => insertPlan s c r d) := by
  intro d hresv hpend hhome hup hlive
  have hch : chOf (pbIndexOf (fld d 872 833)).home = some h := by simp [hhome, chOf, h.isLt]
  show execSieveInsert c r s = _
  rw [execSieveInsert, runHead_runs hrun]
  dsimp only
  rw [if_neg (not_resv hresv), hpend, if_neg (by decide), hch]
  dsimp only
  rw [hup, if_neg (by decide), hlive, if_neg (by decide), if_pos hpair] <;> rfl

/-- An insert on an unpaired device takes the place that its plan finds (R187). -/
theorem insertPlan_unpaired (hpair : pairRole s c = 0) {d : Nat} {p : PendRow}
    (hplan : planInsert (s.ch c).sieve (insertRow d) (fld d 879 876) (bit d 875) = some p) : insertPlan s c r d = insertPlaced s c r p := by
  simp [insertPlan, hplan, hpair]

/-- RESULT of an insert: the target and the shift length (R187). -/
theorem planResult_eq (p : PendRow) : planResult p = cplRes .ok (p.target % 2 ^ 17 + p.total % 2 ^ 17 * 2 ^ 32) := by
  simp [planResult, at_, Nat.shiftLeft_eq]

/-- The body checks of a locator pass (R199). -/
theorem locatorBad_good {d : Nat} {remove : Bool} (hsel : fld d 839 838 ≠ 3) (hresv : fld d 834 128 = 0)
    (hrest : (if remove then resv d 836 835 else bit d 837) = false) : locatorBad d remove = false := by
  simp [locatorBad, hsel, resv, hresv] at hrest ⊢
  simpa using hrest

/-- A removal retires at once where it takes nothing, else once its reports are answered (R192). -/
theorem removeRun_eq (t : Taken) :
    removeRun s c r t = if t.pbs = [] then retire (modSieve s c (fun y => removeTaken y t)) c r (cplRes .ok 0)
      else setWait (reportAll (modSieve s c (fun y => removeTaken y t)) c true t.pbs) c r (.reports t.pbs.length none (cplRes .ok t.pbs.length)) := by
  rw [removeRun]
  exact ite_congr (propext List.isEmpty_iff) (fun h => by rw [h]; rfl) (fun _ => rfl)

/-- PAIR_ROLE is no part of the Sieve. -/
theorem pairRole_modSieve (f : Sieve → Sieve) : pairRole (modSieve s c f) c = pairRole s c := by
  simp [pairRole]

/-- Settles O27: each body passes its checks, and its effect is the row's own. -/
theorem sieveDescriptorsRun : Obligations.SieveDescriptorsRun := by
  intro c r s hpair d x sel loc
  refine ⟨?hash, fun tag prev tokens rest => rfl, ?probe, ?insert, ?remove, ?setFlags, ?read⟩
  case hash =>
    intro hrun n tok dst tag hnarrow hresv hseed htok hptok hdst hpdst
    exact exec_sieveHash_narrow hrun hnarrow hresv hseed (areasBad_two htok hptok hdst hpdst)
  case probe =>
    intro hrun n vec res recs hcas hresv hvec hpvec hres hpres
    have hrecs : probeRecs s c (fld d 1017 1002) (fld d 1001 1000) (vecKeys s c vec n) = recs := probeRecs_unpaired hpair _ _ _ _
    rw [← hrecs]
    exact exec_sieveProbe_unpaired hrun hpair hcas hresv (areasBad_two hvec hpvec hres hpres)
  case insert =>
    intro hrun v h hresv hpend hhome hup hlive
    have hexec := exec_sieveInsert_unpaired hrun hpair hresv hpend hhome hup hlive
    refine ⟨fun e hdup => ?_, fun p hfresh hplan => ?_⟩
    · rw [hexec, hdup]
    · rw [hexec, hfresh]
      rw [← planResult_eq]
      exact congrArg _ (insertPlan_unpaired hpair hplan)
  case remove =>
    intro hrun hsel hresv hrest t u
    have hgood : ¬ locatorBad d true = true := by rw [locatorBad_good hsel hresv (by simp [resv, hrest])]; decide
    show execSieveRemove c r s = _
    rw [execSieveRemove, runHead_runs hrun]
    dsimp only
    rw [if_neg hgood, if_pos (.inl hpair), if_neg (by rw [hpair]; decide), removeRun_eq]
  case setFlags =>
    intro hrun hsel hresv hrest t
    have hgood : ¬ locatorBad d false = true := by rw [locatorBad_good hsel hresv (by simp [hrest])]; decide
    show execSieveSetFlags c r s = _
    rw [execSieveSetFlags, runHead_runs hrun]
    dsimp only
    rw [if_neg hgood, if_pos (.inl hpair), if_neg (by rw [pairRole_modSieve, hpair]; decide)]
  case read =>
    intro hrun first n dst hresv hrange hdst hpdst
    have hgood : ¬ (resv d 970 128 = true ∨ sieveRows < first + n ∨ areasBad [(dst, 32 * n)] = true) := by
      simpa [resv, hresv, areasBad_one hdst hpdst, sieveRows] using hrange
    show execSieveRead c r s = _
    rw [execSieveRead, runHead_runs hrun]
    exact congrArg _ (if_neg hgood)

end Sys2Proof.Proofs
end

section
/-! SUPPORT. The Sieve's events and the frames of its cascade and of its partner, where they arise (R187, R191, R193, R195, R196, R200, R201, R203, R209,
R227), under the settings of the descriptor that they reach (R26), and the statement about them. -/

namespace Sys2Proof.Proofs
open Sys2Proof Sys2Proof.Machine

variable {s : State} {c : Ch} {r : Sys2Proof.Ring}

/-! ## A descriptor under its own settings (R26) -/

/-- Settings leave every ring. -/
@[simp] theorem ring_withSettings (y : Settings) (d : Ch) (q : Sys2Proof.Ring) : (withSettings s y).ring d q = s.ring d q := by
  simp [withSettings, State.ring, State.ch]

/-- Settings leave the descriptor at HEAD. -/
@[simp] theorem headDesc_withSettings (y : Settings) : headDesc (withSettings s y) c r = headDesc s c r := by
  have ht0 : ((withSettings s y).ch c).t0 = (s.ch c).t0 := by simp [withSettings, State.ch]
  simp only [headDesc, descAt, t0Num, t0Read, ring_withSettings, ht0]

/-- Two steps that agree wherever the ring and its descriptor are as here agree under the descriptor's own settings. -/
theorem underOwn_congr_head {f g : State → State} (h : ∀ t : State, t.ring c r = s.ring c r → headDesc t c r = headDesc s c r → f t = g t) :
    underOwn s c r f = underOwn s c r g :=
  underOwn_congr (h s rfl rfl) fun y => h _ (ring_withSettings y c r) (headDesc_withSettings y)

/-! ## The depth cascade (R200, R201) -/

/-- A frame of even parity, without error and of the probe's CAS_SEQ (R200). -/
theorem exec_cascadeFrame_sound {frame : BitVec 74} {x : ProbeCtx} (hw : (s.ring c 7).wait = .cascade x) (hpar : popcount frame.toNat 74 % 2 = 0)
    (herr : bit frame.toNat 73 = false) (hseq : fld frame.toNat 72 65 = x.casSeq.toNat) :
    let hits := fld frame.toNat 64 1
    let all := hits ||| hitsOf x.recs
    exec (.cascadeFrame c frame) s = .next (underOwn s c 7 (fun s =>
      if casRole s c = 3 then probeEnd s c 7 (suppress x.recs hits) x.resAddr .ok (casDepth all % 2 ^ 7 * 2 ^ 48)
      else probeEnd (emit s (.cascade c.val (cascadeBits false x.casSeq all))) c 7 (suppress x.recs hits) x.resAddr .ok 0)) := by
  intro hits all
  have hdepth : at_ 48 7 (casDepth all) = casDepth all % 2 ^ 7 * 2 ^ 48 := by simp [at_, Nat.shiftLeft_eq]
  have hsound : ¬ (popcount frame.toNat 74 % 2 ≠ 0 ∨ bit frame.toNat 73 = true ∨ fld frame.toNat 72 65 ≠ x.casSeq.toNat) := by
    simp [hpar, herr, hseq]
  refine congrArg Host.Outcome.next (underOwn_congr_head fun t ht _ => ?_)
  rw [ht, hw]
  dsimp only
  rw [if_neg hsound, hdepth]

/-- A timeout ends the probe in error, the first to see it (R201). -/
theorem exec_cascadeTimeout_waiting {x : ProbeCtx} (hw : (s.ring c 7).wait = .cascade x) :
    exec (.cascadeTimeout c) s =
      .next (underOwn s c 7 (fun s => cascadeError (drawFree s).2 c 7 x (drawFree s).1.toNat .cascadeTimeout true)) :=
  congrArg Host.Outcome.next (underOwn_congr_head fun t ht _ => by rw [ht, hw])

/-! ## Paired frames (R203) -/

section
variable {f : BitVec 40} {x : ProbeCtx} {type : Nat}

/-- What a DROP frame does to an exchange that waits for one (R203). -/
def dropInExchange (c : Ch) (f : BitVec 40) (s : State) (x : ProbeCtx) : State :=
  if pairA f = pairNone then
    (if x.recs.isEmpty then retire s c 7 (cplRes .ok 0)
     else setWait (reportAll s c true (x.recs.map (fun w => w.setWidth 40))) c 7
      (.reports (x.recs.map (fun w => w.setWidth 40)).length none (cplRes .ok (x.recs.map (fun w => w.setWidth 40)).length)))
  else setWait (dropIndex s c (pairA f) (pairTest s c x)).2 c 7
    (.paired { x with recs := x.recs ++ (dropIndex s c (pairA f) (pairTest s c x)).1.pbs.map (fun v => v.setWidth 128) })

/-- What an exchange waits for goes by its descriptor alone. -/
theorem pairExpects_congr {t : State} (h : headDesc t c 7 = headDesc s c 7) : pairExpects t c x type = pairExpects s c x type := by
  simp only [pairExpects, pairTypes, h]

variable (hw : (s.ring c 7).wait = .paired x)
include hw

/-- A frame of even parity and of the type that the exchange waits for reaches it (R203). -/
theorem onPair_expected (hpar : popcount f.toNat 40 % 2 = 0) (htype : fld f.toNat 39 37 = type) (hexp : pairExpects s c x type = true)
    (k : State → ProbeCtx → State) : onPair s c f type k = underOwn s c 7 (fun s => k s x) := by
  have hgood : ¬ ((!pairOk f) = true ∨ pairType f ≠ type) := by simp [pairOk, pairType, hpar, htype]
  refine underOwn_congr_head fun t ht hd => ?_
  rw [if_neg hgood, ht, hw]
  dsimp only
  rw [pairExpects_congr hd, if_pos hexp]

/-- A frame of odd parity or of another type ends the exchange (R203). -/
theorem onPair_ends (hbad : popcount f.toNat 40 % 2 ≠ 0 ∨ fld f.toNat 39 37 ≠ type) (k : State → ProbeCtx → State) :
    onPair s c f type k = underOwn s c 7 (fun s => retire s c 7 (cplSt .cascadeMismatch)) := by
  have hbad' : (!pairOk f) = true ∨ pairType f ≠ type := hbad.imp (fun h => by simpa [pairOk] using h) id
  refine underOwn_congr_head fun t ht _ => ?_
  rw [if_pos hbad', pairEnds, ht, hw]
  rfl

/-- A DROP frame that the exchange waits for, or one that ends it, reaches the exchange (R203). -/
theorem exec_dropFrame_exchange (h : pairExpects s c x 3 = true ∨ popcount f.toNat 40 % 2 ≠ 0 ∨ fld f.toNat 39 37 ≠ 3) :
    exec (.dropFrame c f) s = .next (onPair s c f 3 (dropInExchange c f)) := by
  have hreaches : pairExpects s c x 3 = true ∨ (!pairOk f) = true ∨ pairType f ≠ 3 :=
    h.imp id (Or.imp (fun h => by simpa [pairOk] using h) id)
  show execDropFrame c f s = _
  rw [execDropFrame, hw]
  dsimp only
  rw [if_pos hreaches]
  rfl

/-- A paired frame of odd parity or of another type ends the descriptor under way (R203). -/
theorem exec_pairFrames_bad :
    let ends : Host.Outcome State Fault Refusal := .next (underOwn s c 7 (fun s => retire s c 7 (cplSt .cascadeMismatch)))
    (popcount f.toNat 40 % 2 ≠ 0 ∨ fld f.toNat 39 37 ≠ 1 → exec (.cand c f) s = ends) ∧
    (popcount f.toNat 40 % 2 ≠ 0 ∨ fld f.toNat 39 37 ≠ 2 → exec (.placeFrame c f) s = ends) ∧
    (popcount f.toNat 40 % 2 ≠ 0 ∨ fld f.toNat 39 37 ≠ 3 → exec (.dropFrame c f) s = ends) ∧
    (popcount f.toNat 40 % 2 ≠ 0 ∨ fld f.toNat 39 37 ≠ 4 → exec (.mark c f) s = ends) := by
  intro ends
  refine ⟨fun h => congrArg Host.Outcome.next (onPair_ends hw h _), fun h => congrArg Host.Outcome.next (onPair_ends hw h _), fun h => ?_,
    fun h => congrArg Host.Outcome.next (onPair_ends hw h _)⟩
  rw [exec_dropFrame_exchange hw (.inr h), onPair_ends hw h]

/-- CAND moves the search of a probe on (R203). -/
theorem exec_cand_probe (hpar : popcount f.toNat 40 % 2 = 0) (htype : fld f.toNat 39 37 = 1) (hop : fld (headDesc s c 7) 127 120 = 0x31) :
    exec (.cand c f) s = .next (underOwn s c 7 (fun s =>
      if pairRole s c = 1 then candLeader s c x (fld f.toNat 36 19) else candFollower s c x (fld f.toNat 36 19))) := by
  have hexp : pairExpects s c x 1 = true := by simp [pairExpects, pairTypes, hop]
  show execCand c f s = _
  rw [execCand, onPair_expected hw hpar htype hexp, pairA]

/-- PLACE places the row of an insert whose check is over, or ends it (R203). -/
theorem exec_placeFrame_insert (hpar : popcount f.toNat 40 % 2 = 0) (htype : fld f.toNat 39 37 = 2) (hop : fld (headDesc s c 7) 127 120 = 0x32)
    (hentry : x.entry = 1) :
    let a := fld f.toNat 36 19
    let b := fld f.toNat 18 1
    exec (.placeFrame c f) s = .next (underOwn s c 7 (fun t =>
      if a = 0x3FFFF then retire t c 7 (cplSt .sieveFull)
      else if rowUsable (t.ch c).sieve a = false ∨ rowUsable (t.ch c).sieve b = false then retire t c 7 (cplSt .cascadeMismatch)
      else insertPlaced t c 7 (placePlan (t.ch c).sieve (headDesc s c 7) a b))) := by
  intro a b
  have hexp : pairExpects s c x 2 = true := by simp [pairExpects, pairTypes, hop, hentry]
  refine congrArg Host.Outcome.next ((onPair_expected hw hpar htype hexp _).trans (underOwn_congr_head fun t _ hd => ?_))
  rw [hd]
  simp only [Bool.not_eq_true']
  rfl

/-- DROP ends a removal by block, or takes the row at its index (R203). -/
theorem exec_dropFrame_removal (hpar : popcount f.toNat 40 % 2 = 0) (htype : fld f.toNat 39 37 = 3) (hop : fld (headDesc s c 7) 127 120 = 0x33)
    (hsel : fld (headDesc s c 7) 839 838 = 1) :
    let a := fld f.toNat 36 19
    (a = 0x3FFFF → x.recs = [] → exec (.dropFrame c f) s = .next (underOwn s c 7 (fun s => retire s c 7 (cplRes .ok 0)))) ∧
    (a ≠ 0x3FFFF → exec (.dropFrame c f) s = .next (underOwn s c 7 (fun s => setWait (dropIndex s c a (pairTest s c x)).2 c 7
      (.paired { x with recs := x.recs ++ (dropIndex s c a (pairTest s c x)).1.pbs.map (fun v => v.setWidth 128) })))) := by
  intro a
  have hexp : pairExpects s c x 3 = true := by simp [pairExpects, pairTypes, hop, hsel]
  rw [exec_dropFrame_exchange hw (.inl hexp), onPair_expected hw hpar htype hexp]
  refine ⟨fun ha hrecs => congrArg Host.Outcome.next (underOwn_congr_head fun t _ _ => ?_),
    fun ha => congrArg Host.Outcome.next (underOwn_congr_head fun t _ _ => if_neg ha)⟩
  have hend : pairA f = pairNone := ha
  rw [dropInExchange, if_pos hend, hrecs]
  rfl

/-- MARK without an index ends a flag change by block (R203). -/
theorem exec_mark_end (hpar : popcount f.toNat 40 % 2 = 0) (htype : fld f.toNat 39 37 = 4) (hop : fld (headDesc s c 7) 127 120 = 0x34)
    (hsel : fld (headDesc s c 7) 839 838 = 1) (hnone : fld f.toNat 36 19 = 0x3FFFF) :
    exec (.mark c f) s = .next (underOwn s c 7 (fun s => retire s c 7 (cplSt .ok))) := by
  have hexp : pairExpects s c x 4 = true := by simp [pairExpects, pairTypes, hop, hsel]
  exact congrArg Host.Outcome.next ((onPair_expected hw hpar htype hexp _).trans (underOwn_congr_head fun t _ _ => if_pos hnone))

end

/-! ## Events -/

/-- A scrub visit of an index that nothing passes over (R195). -/
theorem exec_scrubVisit_visits (hup : isUp s c = true) (parityBad mirrorBad : Bool) :
    let i := (s.ch c).sieve.scrubPos
    let u := modSieve s c (fun x => { x with scrubPos := (i + 1) % 131072 })
    scrubSkips u c i = false → exec (.scrubVisit c parityBad mirrorBad) s = .next (scrubRow u c i parityBad mirrorBad) := by
  intro i u hvisit
  have hmoved : modSieve s c (fun x => { x with scrubPos := (x.scrubPos + 1) % sieveRows }) = u := rfl
  show execScrubVisit c parityBad mirrorBad s = _
  rw [execScrubVisit, hup, if_neg (by decide), hmoved]
  exact congrArg _ (if_neg (by rw [hvisit]; decide))

/-- A row that agrees with its mirror record stays as it is (R195). -/
theorem scrubRow_sound {i : Nat} (h : { rowAt (s.ch c).sieve i with transit := false } = smGet SieveRow.none (s.ch c).sieve.mirror i) :
    scrubRow s c i false false = s := by
  simp [scrubRow, h]

/-- A row whose parity fails is rewritten from its mirror record (R195). -/
theorem scrubRow_parityBad (i : Nat) : scrubRow s c i true false = scrubFix s c i := by
  simp [scrubRow]

/-- The oldest report, where nothing holds it back, is applied and answered (R209). -/
theorem exec_sieveReport_applies {x : Report} {rest : List Report} (hreports : (s.ch c).obj.port.reports = x :: rest) (hup : isUp s c = true) :
    let u := modRefPort s c (fun p => { p with reports := rest })
    logFull u c = false → changeWaits u c none (pbIndexOf x.pb.toNat).slot = false →
    exec (.sieveReport c) s =
      .next (if x.answer then reportAnswer (portReport u c x).2 x (portReport u c x).1 else (portReport u c x).2) := by
  intro u hlog hfree
  have hup' : isUp u c = true := by simpa [isUp, u, modRefPort] using hup
  show execSieveReport c s = _
  rw [execSieveReport, hreports]
  dsimp only
  rw [if_neg (by rw [hup']; decide), if_neg (by rw [hlog]; decide), if_neg (by rw [hfree]; decide)]
  rfl

/-- A count request to a channel that is up adds its Sieve's rows (R227). -/
theorem exec_sieveCountRequest_counts {tgt : Ch} {x : SweepCtx} (hsweep : (s.ch c).obj.port.sweep = some x) (hwait : tgt.val ∈ x.waiting)
    (hup : isUp s tgt = true) :
    let q := x.blocks.foldl (fun m b => smSet 0 m b (smGet 0 m b + sieveCount s c tgt (BitVec.ofNat 40 (pbIndexAt s c b)))) x.q
    let y : SweepCtx := { x with q := q, waiting := x.waiting.filter (fun t => t != tgt.val) }
    exec (.sieveCountRequest c tgt) s = .next (if y.waiting = [] then sweepEnd s c y else modRefPort s c (fun p => { p with sweep := some y })) := by
  intro q y
  have hasked : ¬ (!x.waiting.contains tgt.val) = true := by simpa using hwait
  show execSieveCountRequest c tgt s = _
  rw [execSieveCountRequest, hsweep]
  dsimp only
  rw [if_neg hasked, if_pos hup]
  exact congrArg Host.Outcome.next (ite_congr (propext List.isEmpty_iff) (fun _ => rfl) (fun _ => rfl))

/-- A shift that has rows left copies one (R187). -/
theorem exec_shiftRowCopy_copies {p : PendRow} (hp : (s.ch c).sieve.pend = some p) (hup : isUp s c = true) (hleft : p.moved < p.total) :
    exec (.shiftRowCopy c) s = .next (modSieve s c (fun x => shiftCopy x p)) := by
  show execShiftRowCopy c s = _
  rw [execShiftRowCopy, hp]
  exact congrArg _ (if_pos ⟨hup, hleft⟩)

/-- Settles O30: the events by their own checks, the frames by what the descriptor under way waits for. -/
theorem sieveEventsRun : Obligations.SieveEventsRun := by
  refine ⟨⟨?resume, ?copy, ?scrub, ?spare, ?removal, ?report, ?count, ?cascade, ?timeout, fun c frame s => rfl⟩, fun c f s x hw => ?paired⟩
  case resume =>
    intro c s hw hp
    show execSieveInsertResume c s = _
    rw [execSieveInsertResume, hw, hp]
    rfl
  case copy =>
    intro c s p hp hup hleft
    refine ⟨_, exec_shiftRowCopy_copies hp hup hleft, rfl, ?_⟩
    rw [sieve_modSieve]
    rfl
  case scrub =>
    intro c s hup i u hvisit
    have hexec (parityBad : Bool) := exec_scrubVisit_visits hup parityBad false hvisit
    refine ⟨fun hsound => ?_, ?_⟩
    · have hrow : { rowAt (u.ch c).sieve i with transit := false } = smGet SieveRow.none (u.ch c).sieve.mirror i := by
        rw [sieve_modSieve]
        exact hsound
      rw [hexec, scrubRow_sound hrow]
    · rw [hexec, scrubRow_parityBad]
  case spare =>
    intro c idx s hup hw hp
    show execSieveRowSpareIn c idx s = _
    rw [execSieveRowSpareIn, betweenSieve, hw, hp, hup]
    rfl
  case removal =>
    intro c s q rest hup hw hq
    show execSieveBlockRemoval c s = _
    rw [execSieveBlockRemoval, hq, betweenSieve, hw, hup]
    rfl
  case report => exact fun c s x rest hreports hup => exec_sieveReport_applies hreports hup
  case count => exact fun c tgt s x hsweep hwait hup => exec_sieveCountRequest_counts hsweep hwait hup
  case cascade => exact fun c frame s x hw hpar herr hseq => exec_cascadeFrame_sound hw hpar herr hseq
  case timeout => exact fun c s x hw => exec_cascadeTimeout_waiting hw
  case paired =>
    intro d type a b own ends
    obtain ⟨hcand, hplace, hdrop, hmark⟩ := exec_pairFrames_bad (f := f) hw
    refine ⟨fun hpar => ⟨?_, ?_, ?_, ?_⟩, fun hodd => ⟨hcand (.inl hodd), hplace (.inl hodd), hdrop (.inl hodd), hmark (.inl hodd)⟩,
      fun h => hcand (.inr h), fun h => hplace (.inr h), fun h => hdrop (.inr h), fun h => hmark (.inr h)⟩
    · exact fun htype hop => exec_cand_probe hw hpar htype hop
    · exact fun htype hop hentry => exec_placeFrame_insert hw hpar htype hop hentry
    · exact fun htype hop hsel => exec_dropFrame_removal hw hpar htype hop hsel
    · exact fun htype hop hsel hnone => exec_mark_end hw hpar htype hop hsel hnone

end Sys2Proof.Proofs
end

section
/-! SUPPORT. The tilth score as a function of the class, the mass and the age (R221, R222), and the statement about it. -/

namespace Sys2Proof.Proofs
open Sys2Proof Sys2Proof.Machine Sys2Proof.Laws

variable {cfg m m' : Word32} {p : BitVec 2}

/-! ## The logarithms of R222 -/

/-- T rises with its index, and stays below 16. -/
theorem tilthT_mono_lt : ∀ j' < 16, tilthT j' < 16 ∧ ∀ j ≤ j', tilthT j ≤ tilthT j' := by decide

/-- An exponent and its first four fraction bits: a logarithm rises with the two read as one number. -/
theorem tilthLog_mono {e e' j j' : Nat} (hj : j < 16) (hj' : j' < 16) (h : 16 * e + j ≤ 16 * e' + j') : 16 * e + tilthT j ≤ 16 * e' + tilthT j' := by
  by_cases he : e = e'
  · have := (tilthT_mono_lt j' hj').2 j (by omega)
    omega
  · have := (tilthT_mono_lt j hj).1
    omega

/-- The five leading bits of a positive integer, the first of them set: what R222 reads below 16 and from 16 on. -/
def leadingBits (n : Nat) : Nat := n * 16 / 2 ^ Nat.log2 n

/-- The five leading bits lie from 16 to 31. -/
theorem leadingBits_bounds {n : Nat} (hn : n ≠ 0) : 16 ≤ leadingBits n ∧ leadingBits n < 32 := by
  have hlow := Nat.log2_self_le hn
  have hhigh := Nat.lt_log2_self (n := n)
  rw [pow_succ] at hhigh
  exact ⟨(Nat.le_div_iff_mul_le (by positivity)).2 (by omega), (Nat.div_lt_iff_lt_mul (by positivity)).2 (by omega)⟩

/-- L of an integer by its exponent and its leading bits (R222). -/
theorem tilthLn_eq {n : Nat} : tilthLn n = 16 * Nat.log2 n + tilthT (leadingBits n % 16) := by
  unfold tilthLn leadingBits
  dsimp only
  split
  · next he =>
    have hpow : 2 ^ Nat.log2 n = 2 ^ (Nat.log2 n - 4) * 16 := by rw [show 16 = 2 ^ 4 from rfl, ← Nat.pow_add, Nat.sub_add_cancel he]
    rw [Nat.shiftRight_eq_div_pow, hpow, Nat.mul_div_mul_right _ _ (by decide)]
  · next he =>
    have hpow : 16 = 2 ^ (4 - Nat.log2 n) * 2 ^ Nat.log2 n := by rw [← Nat.pow_add, Nat.sub_add_cancel (by omega)]
    rw [Nat.shiftLeft_eq, show n * 16 = n * 2 ^ (4 - Nat.log2 n) * 2 ^ Nat.log2 n by rw [Nat.mul_assoc, ← hpow],
      Nat.mul_div_cancel _ (by positivity)]

/-- L does not fall as its integer rises. -/
theorem tilthLn_mono {n n' : Nat} (hn : n ≠ 0) (h : n ≤ n') : tilthLn n ≤ tilthLn n' := by
  have hbits := leadingBits_bounds hn
  have hbits' := leadingBits_bounds (n := n') (by omega)
  have hlog : Nat.log2 n ≤ Nat.log2 n' := by
    simpa only [Nat.log2_eq_log_two] using Nat.log_mono_right h
  rw [tilthLn_eq, tilthLn_eq]
  refine tilthLog_mono (Nat.mod_lt _ (by decide)) (Nat.mod_lt _ (by decide)) ?_
  by_cases he : Nat.log2 n = Nat.log2 n'
  · have : leadingBits n ≤ leadingBits n' := by
      unfold leadingBits
      rw [he]
      exact Nat.div_le_div_right (by omega)
    omega
  · omega

/-- The MASS of a positive normal number by its exponent and first fraction bits (R222). -/
theorem tilthLm_normal (hlow : 0x00800000 ≤ m.toNat) (hhigh : m.toNat < 0x7F800000) :
    tilthLm m = min 1023 (16 * (m.toNat / 2 ^ 23) + tilthT (m.toNat / 2 ^ 19 % 16) - 1520) := by
  have hsign : bit m.toNat 31 = false := Nat.testBit_lt_two_pow (by omega)
  have hexp : fld m.toNat 30 23 = m.toNat / 2 ^ 23 := by
    simp only [fld, Nat.shiftRight_eq_div_pow]
    omega
  have hfrac : fld m.toNat 22 0 >>> 19 = m.toNat / 2 ^ 19 % 16 := by
    simp only [fld, Nat.shiftRight_eq_div_pow]
    omega
  unfold tilthLm
  dsimp only
  rw [hsign, hexp, hfrac, if_neg (by simp only [Bool.false_eq_true, false_or]; omega)]
  generalize tilthT (m.toNat / 2 ^ 19 % 16) = j
  exact congrArg (min 1023) (by omega)

/-- A MASS that is 0, negative, subnormal or NaN counts as the mass 0 (R222). -/
theorem tilthLm_abnormal (h : m.toNat < 0x00800000 ∨ 0x7F800000 < m.toNat) : tilthLm m = 0 := by
  have hlt := m.isLt
  unfold tilthLm
  refine if_pos ?_
  simp only [fld, bit, Nat.testBit, Nat.shiftRight_eq_div_pow, Nat.one_and_eq_mod_two, bne_iff_ne]
  omega

/-- The mass counts no less as a positive normal MASS rises. -/
theorem tilthLm_mono (h : m.toNat ≤ m'.toNat) (hhigh : m'.toNat < 0x7F800000) : tilthLm m ≤ tilthLm m' := by
  by_cases hlow : m.toNat < 0x00800000
  · rw [tilthLm_abnormal (.inl hlow)]
    exact Nat.zero_le _
  · rw [tilthLm_normal (by omega) (by omega), tilthLm_normal (by omega) hhigh]
    have := tilthLog_mono (e := m.toNat / 2 ^ 23) (e' := m'.toNat / 2 ^ 23) (j := m.toNat / 2 ^ 19 % 16) (j' := m'.toNat / 2 ^ 19 % 16)
      (by omega) (by omega) (by omega)
    omega

/-! ## The score (R221) -/

/-- The score below the class: what the logarithms of the mass and of the age come to under TILTH_CFG, within 14 bits. -/
def tilthRank (cfg : Word32) (lm la : Nat) : Nat := min 16383 (8192 + fld cfg.toNat 31 28 * lm - fld cfg.toNat 27 24 * la)

/-- The rank does not fall with the mass nor rise with the age. -/
theorem tilthRank_mono {lm lm' la la' : Nat} (hm : lm ≤ lm') (ha : la' ≤ la) : tilthRank cfg lm la ≤ tilthRank cfg lm' la' :=
  min_le_min_left _ (tsub_le_tsub (Nat.add_le_add_left (Nat.mul_le_mul_left _ hm) _) (Nat.mul_le_mul_left _ ha))

/-- The class of each PROTECT (R221). -/
theorem protectClass_table : ∀ p : BitVec 2, (protectClass p = match p.toNat with | 0 => 0 | 1 => 2 | 2 => 1 | _ => 3) ∧ protectClass p ≤ 3 := by decide

/-- A score is its class in bits 15:14 over its rank (R221). -/
theorem tilthScore_toNat (age : Nat) :
    (tilthScore cfg m p age).toNat = protectClass p * 2 ^ 14 + tilthRank cfg (tilthLm m) (min 1023 (tilthLn (age + 1))) := by
  have hclass := (protectClass_table p).2
  unfold tilthScore tilthRank
  dsimp only
  have hage : (min (1023 : Int) (tilthLn (age + 1) : Nat)) = ((min 1023 (tilthLn (age + 1)) : Nat) : Int) := by omega
  rw [hage, BitVec.toNat_ofNat, ← Nat.cast_mul, ← Nat.cast_mul]
  generalize fld cfg.toNat 31 28 * tilthLm m = x
  generalize fld cfg.toNat 27 24 * min 1023 (tilthLn (age + 1)) = y
  split <;> omega

/-- Settles O36: the score is the class over a rank that rises with the mass's logarithm and falls with the age's. -/
theorem tilthRanksByClassThenMassThenAge : Obligations.TilthRanksByClassThenMassThenAge := by
  intro cfg m1 m2 p a1 a2 score
  have hscore (m : Word32) (a : Nat) :
      score m a = protectClass p * 2 ^ 14 + tilthRank cfg (tilthLm m) (min 1023 (tilthLn (a + 1))) := tilthScore_toNat a
  simp only [hscore]
  refine ⟨?byClass, fun hage => ?byAge, fun hle hnormal => ?byMass, fun habnormal => ?abnormal⟩
  case byClass =>
    have hrank : tilthRank cfg (tilthLm m1) (min 1023 (tilthLn (a1 + 1))) < 2 ^ 14 := by unfold tilthRank; omega
    rw [Nat.mul_comm, Nat.mul_add_div (by decide), Nat.div_eq_of_lt hrank]
    exact (protectClass_table p).1
  case byAge =>
    have hlog := tilthLn_mono (Nat.succ_ne_zero a1) (Nat.succ_le_succ hage)
    exact Nat.add_le_add_left (tilthRank_mono le_rfl (min_le_min_left _ hlog)) _
  case byMass => exact Nat.add_le_add_left (tilthRank_mono (tilthLm_mono hle hnormal) le_rfl) _
  case abnormal => rw [tilthLm_abnormal habnormal, tilthLm_abnormal (m := 0) (.inl (by decide))]

end Sys2Proof.Proofs
end

section
/-! SUPPORT. The records of prefix blocks: what a count up or down, a recount and the free of a block leave of them (R207, R208, R227), and the statement
about the counts. -/

namespace Sys2Proof.Proofs
open Sys2Proof Sys2Proof.Machine Sys2Proof.Laws

variable {s : State} {c : Ch} {key slot : Nat}

/-! ## Reads of the block tables -/

/-- A record is read from the channel's objects alone. -/
theorem recAt_congr {t : State} (h : (t.ch c).obj = (s.ch c).obj) (k : Nat) : recAt t c k = recAt s c k := by
  simp only [recAt, h]

/-- An event changes no record. -/
@[simp] theorem recAt_raiseC (code : BitVec 16) (sev : BitVec 2) (detail : List Byte) (k : Nat) :
    recAt (raiseC s c code sev detail) c k = recAt s c k := recAt_congr (by rw [ch_raiseC]) k

/-- A record after a write of one of them, on a canonical table. -/
theorem recAt_setRec (h : smRising none (s.ch c).obj.pbRecs = true) (key : Nat) (e : Pte) (k : Nat) :
    recAt (setRec s c key e) c k = if k = key then e else recAt s c k := by
  simp [recAt, setRec, modObj, get_set h]

/-- A write of a record keeps the table's order. -/
theorem rising_setRec (h : smRising none (s.ch c).obj.pbRecs = true) (key : Nat) (e : Pte) :
    smRising none ((setRec s c key e).ch c).obj.pbRecs = true := by
  simpa [setRec, modObj] using set_rising h

/-- A write of a record leaves the block slots. -/
@[simp] theorem pbs_setRec (key : Nat) (e : Pte) : ((setRec s c key e).ch c).obj.pbs = (s.ch c).obj.pbs := by
  simp [setRec, modObj]

/-! ## One count up or down (R207) -/

/-- The detail of a record's event is read from the block slots. -/
theorem recDetail_setRec (key : Nat) (e : Pte) (k : Nat) : recDetail (setRec s c key e) c k = recDetail s c k := by
  simp only [recDetail, pbIndexAt, pbAt, pbs_setRec]

/-- A stuck record stays under both changes. -/
theorem incRec_decRec_stuck (h : (recAt s c key).refcnt = 0xFFFF) : incRec s c key = s ∧ decRec s c key = s :=
  ⟨if_pos h, if_pos h⟩

/-- An increment below the last value before the stuck one only counts. -/
theorem incRec_counts (h : (recAt s c key).refcnt ≠ 0xFFFF) (h' : (recAt s c key).refcnt ≠ 0xFFFE) :
    incRec s c key = setRec s c key { recAt s c key with refcnt := (recAt s c key).refcnt + 1 } := by
  simp only [incRec, if_neg h, if_neg h']

/-- The increment that sticks raises its event. -/
theorem incRec_sticks (h : (recAt s c key).refcnt = 0xFFFE) :
    incRec s c key = raiseC (setRec s c key { recAt s c key with refcnt := 0xFFFF }) c 0x0303 sevWarn (recDetail s c key) := by
  simp only [incRec, h, if_pos, recDetail_setRec]
  rfl

/-- A decrement of a record that counts. -/
theorem decRec_counts (h : (recAt s c key).refcnt ≠ 0xFFFF) (h' : (recAt s c key).refcnt ≠ 0) :
    decRec s c key = setRec s c key { recAt s c key with refcnt := (recAt s c key).refcnt - 1 } := by
  simp only [decRec, if_neg h, if_neg h']

/-- A decrement of a record at 0 raises its event alone. -/
theorem decRec_fault (h : (recAt s c key).refcnt = 0) : decRec s c key = raiseC s c 0x0304 sevErr (recDetail s c key) := by
  simp only [decRec, h]
  rfl

/-- An increment changes no other record. -/
theorem recAt_incRec_ne (hr : smRising none (s.ch c).obj.pbRecs = true) {k : Nat} (hk : k ≠ key) : recAt (incRec s c key) c k = recAt s c k := by
  have hset (e : Pte) : recAt (setRec s c key e) c k = recAt s c k := (recAt_setRec hr key e k).trans (if_neg hk)
  by_cases hstuck : (recAt s c key).refcnt = 0xFFFF
  · rw [(incRec_decRec_stuck hstuck).1]
  · by_cases hlast : (recAt s c key).refcnt = 0xFFFE
    · rw [incRec_sticks hlast, recAt_raiseC, hset]
    · rw [incRec_counts hstuck hlast, hset]

/-- A decrement changes no other record. -/
theorem recAt_decRec_ne (hr : smRising none (s.ch c).obj.pbRecs = true) {k : Nat} (hk : k ≠ key) : recAt (decRec s c key) c k = recAt s c k := by
  by_cases hstuck : (recAt s c key).refcnt = 0xFFFF
  · rw [(incRec_decRec_stuck hstuck).2]
  · by_cases hzero : (recAt s c key).refcnt = 0
    · rw [decRec_fault hzero, recAt_raiseC]
    · rw [decRec_counts hstuck hzero, recAt_setRec hr, if_neg hk]

/-! ## The free of a block (R208) -/

/-- Where flash managers alone differ, the block slots are the same. -/
theorem SameButMarl.pbs {t : State} (h : SameButMarl s t) : (t.ch c).obj.pbs = (s.ch c).obj.pbs := by
  obtain ⟨m, l, hc⟩ := h c
  rw [hc]

/-- The release of a page leaves the block slots. -/
theorem pbs_releasePage (e : Pte) : ((releasePage s c e).ch c).obj.pbs = (s.ch c).obj.pbs := by
  unfold releasePage dropHome
  dsimp only
  split
  · split
    · simp only [setHome, modObj, ch_modCh_same, (sameButMarl_releaseLoc _ _ _).pbs]
    · exact (sameButMarl_releaseLoc _ _ _).pbs
  · exact (sameButMarl_releaseLoc _ _ _).pbs

/-- Units unsealed and released change Marl and the release log alone (R273). -/
theorem sameButMarl_unsealRelease (us : List Nat) : SameButMarl s (unsealRelease s c us) := by
  refine List.foldlRecOn (motive := SameButMarl s) us _ (.refl s) (fun t ht u _ => ?_)
  dsimp only
  split
  · exact ((ht.trans (sameButMarl_modMarl _)).trans (sameButMarl_clearSlots _ _ _)).trans (sameButMarl_release _ _ _)
  · exact ht

/-- A block's or sequence's image freed changes Marl and the release log alone (R273). -/
theorem sameButMarl_freeImage {kind : Nat} (hkind : kind ≠ 2) (obj : BitVec 48) : SameButMarl s (freeImage s c kind obj) := by
  have hmeta (t : State) (r : Nat × Nat) : SameButMarl t (freeMeta t c r) :=
    List.foldlRecOn (motive := SameButMarl t) _ _ (.refl t) (fun w hw _ _ => hw.trans (sameButMarl_clearSlots _ _ _))
  unfold freeImage
  split
  · exact .refl s
  · dsimp only
    rw [if_neg hkind]
    exact ((((sameButMarl_modMarl _).trans (sameButMarl_jAppend _)).trans (sameButMarl_unsealRelease _)).trans (hmeta _ _)).trans sameButMarl_mediaCheck

/-- A change of a channel's reference port leaves the block slots of every channel. -/
@[simp] theorem pbs_modRefPort (d : Ch) (f : RefPort → RefPort) : ((modRefPort s d f).ch c).obj.pbs = (s.ch c).obj.pbs := by
  by_cases h : c = d
  · subst h
    simp [modRefPort, modObj]
  · simp [modRefPort, modObj, h]

/-- Requests to the Sieves leave the block slots. -/
theorem pbs_askRemoval (idx : BitVec 40) : ((askRemoval s c idx).ch c).obj.pbs = (s.ch c).obj.pbs :=
  List.foldlRecOn (motive := fun t : State => (t.ch c).obj.pbs = (s.ch c).obj.pbs) _ _ rfl (fun _ ht _ _ => (pbs_modRefPort _ _).trans ht)

/-- A block freed leaves its slot not in use, with the next generation (R76, R208). -/
theorem pbAt_freeBlock (h : smRising none (s.ch c).obj.pbs = true) :
    pbAt (freeBlock s c slot) c slot = { PbSlot.free with pbGen := (pbAt s c slot).pbGen + 1 } := by
  have hpages : (((pbRecKeys s c slot).foldl (fun t k =>
      let e := recAt t c k
      setRec (freeSumm (releasePage t c e) c e.summIdx.toNat) c k Pte.empty) s).ch c).obj.pbs = (s.ch c).obj.pbs := by
    refine List.foldlRecOn (motive := fun t : State => (t.ch c).obj.pbs = (s.ch c).obj.pbs) _ _ rfl (fun t ht k _ => ?_)
    dsimp only
    simp only [pbs_setRec, freeSumm, modObj, ch_modCh_same, pbs_releasePage, ht]
  unfold freeBlock
  dsimp only
  rw [pbAt, pbs_askRemoval, (sameButMarl_freeImage (by decide) _).pbs, pbs_modRefPort]
  simp only [setPb, freeNodes, modObj, ch_modCh_same, hpages]
  rw [get_set h, if_pos rfl]

/-- A block is freed, or its records stay as they are (R208). -/
theorem freeIfUnheld_cases (h : smRising none (s.ch c).obj.pbs = true) :
    freeIfUnheld s c slot = s ∨ (pbAt (freeIfUnheld s c slot) c slot).used = false := by
  unfold freeIfUnheld
  dsimp only
  split
  · exact .inr (by rw [pbAt_freeBlock h]; rfl)
  · exact .inl rfl

/-! ## The recount of a block (R227) -/

/-- One record set to a count of its own. -/
def recountRec (c : Ch) (count : Nat → BitVec 16) (t : State) (k : Nat) : State := setRec t c k { recAt t c k with refcnt := count k }

/-- Records set to their counts one after the other. -/
theorem refcnt_recountRecs (count : Nat → BitVec 16) {ks : List Nat} (hr : smRising none (s.ch c).obj.pbRecs = true) :
    (recAt (ks.foldl (recountRec c count) s) c key).refcnt = if key ∈ ks then count key else (recAt s c key).refcnt := by
  induction ks generalizing s with
  | nil => simp
  | cons k ks ih =>
    have hread : (recAt (recountRec c count s k) c key).refcnt = if key = k then count k else (recAt s c key).refcnt := by
      rw [recountRec, recAt_setRec hr]
      split
      · rfl
      · rfl
    rw [List.foldl_cons, ih (s := recountRec c count s k) (rising_setRec hr k _), hread]
    by_cases hk : key = k
    · subst hk
      simp
    · simp [hk]

/-- The counts of a sweep (R227): the sharers of a record and the rows that name its block, at most the stuck value. -/
def sweepCount (s : State) (c : Ch) (q : SMap Nat) (slot k : Nat) : BitVec 16 :=
  BitVec.ofNat 16 (min 65535 (sharers s c slot (recLH k).1 (recLH k).2 + smGet 0 q slot))

/-- A recount sets each record of the block to its count; then the block is freed where nothing holds it. -/
theorem recount_eq (q : SMap Nat) :
    (recount s c q slot).2 = freeIfUnheld ((pbRecKeys s c slot).foldl (recountRec c (sweepCount s c q slot)) s) c slot := by
  unfold recount recountRec sweepCount
  dsimp only

/-- Settles O37: each count by the value that the record stands at; a recount by its write of each record and the free that may follow. -/
theorem referenceCountsStick : Obligations.ReferenceCountsStick := by
  intro s c key hrecs e n det
  have hr := (wf_iff.1 hrecs).1
  have hval (v : BitVec 16) : e.refcnt = v ↔ n = v.toNat := BitVec.toNat_inj.symm
  have hstuck : e.refcnt = 0xFFFF ↔ n = 65535 := hval _
  have hlast : e.refcnt = 0xFFFE ↔ n = 65534 := hval _
  have hzero : e.refcnt = 0 ↔ n = 0 := hval _
  refine ⟨fun h => incRec_decRec_stuck (hstuck.2 h), fun h => incRec_counts (mt hstuck.1 (by omega)) (mt hlast.1 (by omega)),
    fun h => incRec_sticks (hlast.2 h), fun h h' => decRec_counts (mt hstuck.1 (by omega)) (mt hzero.1 (by omega)),
    fun h => decRec_fault (hzero.2 h), fun k hk => ⟨recAt_incRec_ne hr hk, recAt_decRec_ne hr hk⟩, fun q slot hpbs hkey => ?recounted⟩
  case recounted =>
    have hslots : ((((pbRecKeys s c slot).foldl (recountRec c (sweepCount s c q slot)) s).ch c).obj.pbs) = (s.ch c).obj.pbs :=
      List.foldlRecOn (motive := fun t : State => (t.ch c).obj.pbs = (s.ch c).obj.pbs) _ _ rfl (fun _ ht _ _ => (pbs_setRec _ _).trans ht)
    dsimp only
    rw [recount_eq]
    refine (freeIfUnheld_cases (by rw [hslots]; exact (wf_iff.1 hpbs).1)).imp_left fun hkept => ?_
    rw [hkept, refcnt_recountRecs _ hr, if_pos hkey, sweepCount, BitVec.toNat_ofNat, Nat.mod_eq_of_lt (by omega)]
    rfl

end Sys2Proof.Proofs
end

section
/-! SUPPORT. The object descriptors of ring 8 that nothing holds back, from their checks to their effect (R210 to R213, R219, R224, R225, R227), and the
statement about them. -/

namespace Sys2Proof.Proofs
open Sys2Proof Sys2Proof.Machine Sys2Proof.Laws

variable {s : State} {c : Ch} {r : Sys2Proof.Ring}

/-! ## Descriptors on a sequence that passes R54 -/

/-- A handle that passes R54 passes at the first admission of its descriptor. -/
theorem admitCheck_good {h : Handle} (hfresh : freshHead s c r = true) (hgood : seqCheck s c h false = none) : admitCheck s c r h false = none :=
  (admitCheck_fresh hfresh h false).trans hgood

/-- A descriptor not admitted before is counted in its one sequence, where USE_COUNT has room, and goes on (R53). -/
theorem admitUse_one {slot : Nat} (hfresh : freshHead s c r = true) (hroom : useFull s c slot = false) (k : State → State) :
    admitUse s c r [slot] k = k (countUse s c r slot) := admitUse_fresh hfresh (any_useFull_single hroom) k

section
variable (hfresh : freshHead s c r = true) (hgood : seqCheck s c (handleOf (fld (headDesc s c r) 1023 976)) false = none)
  (hroom : useFull s c (handleOf (fld (headDesc s c r) 1023 976)).slot = false)
include hfresh hgood hroom

/-- A `BlockCreate` that passes its checks has its effect (R210, R211). -/
theorem exec_blockCreate_creates (hrun : runsNow s c r 0x44 = true) :
    let d := headDesc s c r
    let h := handleOf (fld d 1023 976)
    let q := seqAt s c h.slot
    let u := countUse s c r h.slot
    let p := fld d 975 954
    q.posBase.toNat ≤ 64 * p → 64 * p + 64 ≤ q.length.toNat → fld d 761 128 = 0 → createBad u c d h.slot = none →
    (pairsOf (layersOf q) (headsOf q)).any (fun x => appendHolds u c (pteKey h.slot x.1 x.2 p)) = false →
    exec (.blockCreate c r) s = .next (createRun u c r d h.slot) := by
  intro d h q u p hlow hhigh hresv hpass hheld
  show execBlockCreate c r s = _
  rw [execBlockCreate, runHead_runs hrun]
  dsimp only
  rw [admitCheck_good hfresh hgood]
  dsimp only
  rw [if_neg (not_or.2 ⟨Nat.not_lt.2 hlow, Nat.not_lt.2 hhigh⟩), if_neg (not_resv hresv), admitUse_one hfresh hroom, if_neg (by rw [hheld]; decide), hpass]

/-- An `Attach` that passes its checks and whose block no sweep holds has its effect (R212, R213). -/
theorem exec_attach_attaches (hrun : runsNow s c r 0x42 = true) :
    let d := headDesc s c r
    let h := handleOf (fld d 1023 976)
    let u := countUse s c r h.slot
    let v := fld d 975 936
    let p := (pbAt u c (pbIndexOf v).slot).blockNo.toNat
    fld d 935 128 = 0 → attachBad u c h.slot v = none →
    (pairsOf (layersOf (seqAt u c h.slot)) (headsOf (seqAt u c h.slot))).any (fun x => appendHolds u c (pteKey h.slot x.1 x.2 p)) = false →
    changeWaits u c (some r) (pbIndexOf v).slot = false →
    exec (.attach c r) s = .next (attachRun u c r h.slot v) := by
  intro d h u v p hresv hpass hheld hsweep
  show execAttach c r s = _
  rw [execAttach, runHead_runs hrun]
  dsimp only
  rw [admitCheck_good hfresh hgood]
  dsimp only
  rw [if_neg (not_resv hresv), admitUse_one hfresh hroom, if_neg (by rw [hheld]; decide), hpass]
  exact congrArg _ (if_neg (by rw [hsweep]; decide))

/-- A `Prune` on a sequence with LOSS_OK goes over the entries in range (R219). -/
theorem exec_prune_begins (hrun : runsNow s c r 0x45 = true) :
    let d := headDesc s c r
    let h := handleOf (fld d 1023 976)
    let q := seqAt s c h.slot
    let u := countUse s c r h.slot
    rangeOut (pruneRange d) (layersOf q) (headsOf q) = false → fld d 902 128 = 0 → q.lossOk = true →
    exec (.prune c r) s = .next (pruneGo c r h.slot (bit d 903) ((entriesIn u c h.slot (pruneRange d)).map (fun k => k.1)) 0 0 u) := by
  intro d h q u hrange hresv hloss
  show execPrune c r s = _
  rw [execPrune, droppingOf_idle (runsNow_idle hrun)]
  dsimp only
  rw [runHead_runs hrun]
  rw [admitCheck_good hfresh hgood]
  dsimp only
  rw [if_neg (by rw [hrange]; decide), if_neg (not_resv hresv), if_neg (by rw [hloss]; decide), admitUse_one hfresh hroom]

/-- A `SetProtect` on a sequence writes PROTECT in the summaries of the unshared pages in range (R224). -/
theorem exec_setProtect_protects (hrun : runsNow s c r 0x46 = true) :
    let d := headDesc s c r
    let h := handleOf (fld d 1023 976)
    let q := seqAt s c h.slot
    let u := countUse s c r h.slot
    let x := protectRange d
    fld d 975 974 = 0 → rangeOut x (layersOf q) (headsOf q) = false → fld d 899 128 = 0 →
    let summs := ((entriesIn u c h.slot x).filter (fun k => k.2.2.kind == .priv)).map (fun k => k.2.2.summIdx.toNat)
    exec (.setProtect c r) s = .next (retire (protectAll u c (BitVec.ofNat 2 (fld d 901 900)) summs) c r (cplRes .ok (summs.length % 2 ^ 24))) := by
  intro d h q u x hkind hrange hresv summs
  show execSetProtect c r s = _
  rw [execSetProtect, runHead_runs hrun]
  rw [if_neg (by rw [hkind]; decide), if_neg (by rw [hkind]; decide)]
  dsimp only
  rw [admitCheck_good hfresh hgood]
  dsimp only
  rw [if_neg (by rw [hrange]; decide), if_neg (not_resv hresv), admitUse_one hfresh hroom]
  rfl

end

/-- An `Attach` whose page maps grow: counts, Shared entries, LENGTH and PREFIX_PB (R213). -/
theorem attachRun_attaches {slot v : Nat} {w : State} :
    let ps := pairsOf (layersOf (seqAt s c slot)) (headsOf (seqAt s c slot))
    let p := (pbAt s c (pbIndexOf v).slot).blockNo.toNat
    growMaps s c slot (ps.map (fun q => (q.1, q.2, p))) = some w →
    attachRun s c r slot v =
      retire (modSeq (ps.foldl (fun t x => setPte t c (pteKey slot x.1 x.2 p) { Pte.empty with kind := .shared, loc := BitVec.ofNat 45 v })
        (incBlock w c (pbIndexOf v).slot)) c slot
        (fun e => { e with length := BitVec.ofNat 29 (64 * p + 64), prefixPb := BitVec.ofNat 40 v, written := true })) c r (cplSt .ok) := by
  intro ps p hgrow
  rw [attachRun]
  dsimp only
  rw [hgrow]
  rfl

/-- The counts of a `Prune` in its RESULT (R219). -/
theorem pruneCpl_eq (e : St) (n m : Nat) : pruneCpl e n m = cplRes e (n % 2 ^ 24 + m % 2 ^ 24 * 2 ^ 24) := by
  simp only [pruneCpl, at_, Nat.shiftLeft_eq, Nat.pow_zero, Nat.mul_one]

/-- A `Prune` that nothing makes wait acts on each entry in order and retires (R219). -/
theorem pruneGo_ends {slot : Nat} {force : Bool} {ks : List Nat} {n m : Nat} {y : State × St × Nat × Nat}
    (h : pruneEnds c r slot force ks n m s = some y) : pruneGo c r slot force ks n m s = retire y.1 c r (pruneCpl y.2.1 y.2.2.1 y.2.2.2) := by
  induction ks generalizing s n m with
  | nil =>
    cases h
    rfl
  | cons k ks ih =>
    simp only [pruneEnds] at h
    split at h
    · cases h
    · next hfree =>
      simp only [Bool.or_eq_true, not_or] at hfree
      obtain ⟨⟨hlog, happend⟩, hmoving⟩ := hfree
      rw [pruneGo, if_neg hlog, if_neg (not_or.2 ⟨happend, hmoving⟩)]
      cases hone : pruneOne s c r slot force k with
      | left =>
        rw [hone] at h
        exact ih h
      | skip =>
        rw [hone] at h
        exact ih h
      | done t =>
        rw [hone] at h
        exact ih h
      | hold =>
        rw [hone] at h
        cases h
      | full =>
        rw [hone] at h
        cases h
        rfl

/-- A `Prune` that waited between two entries goes on under its own settings (R26, R219). -/
theorem exec_prune_resumes {ks : List Nat} {n m : Nat} (hup : isUp s c = true) (hwait : (s.ring c r).wait = .dropping ks n m)
    (hop : fld (headDesc s c r) 127 120 = 0x45) :
    exec (.prune c r) s = .next (underOwn s c r
      (pruneGo c r (handleOf (fld (headDesc s c r) 1023 976)).slot (bit (headDesc s c r) 903) ks n m)) := by
  show execPrune c r s = _
  rw [execPrune, droppingOf_dropping hup hwait hop]

/-! ## Descriptors on the pool (R225, R227) -/

/-- A `TilthScan` that passes its checks reports the lowest scores of its classes (R225). -/
theorem exec_tilthScan_reports (hrun : runsNow s c r 0x47 = true) :
    let d := headDesc s c r
    let first := fld d 1023 1000
    let count := fld d 999 976 + 1
    let mx := fld d 975 964 + 1
    let dst := fld d 963 940
    fld d 937 128 = 0 → first + count ≤ summSlots s c → dst % 64 = 0 → inT0 dst (8 * mx) = true → touchesPriv dst (8 * mx) = false →
    let ms := (s.ch c).obj.summs.filter (fun e => decide (first ≤ e.1 ∧ e.1 < first + count))
    let scores := (ms.map (fun e => ((currentScore s c (s.ch c).obj.touch e.2).toNat, e.1))).filter (fun e => decide (e.1 / 16384 ≤ fld d 939 938))
    let rep := (sortBy scanLe scores).take mx
    exec (.tilthScan c r) s = .next (retire (t0Write s c dst (rep.flatMap (fun e => natLe (e.2 % 2 ^ 24 * 2 ^ 40 + e.1 % 2 ^ 16 * 2 ^ 24) 8)))
      c r (cplRes .ok (rep.length % 2 ^ 16 + ms.length % 2 ^ 24 * 2 ^ 24))) := by
  intro d first count mx dst hresv hcount halign hT0 hpriv ms scores rep
  have hdst : ¬ (dst % 64 ≠ 0 ∨ (!inT0 dst (8 * mx)) = true ∨ touchesPriv dst (8 * mx) = true) := by
    simp [halign, hT0, hpriv]
  show execTilthScan c r s = _
  rw [execTilthScan, runHead_runs hrun]
  dsimp only
  rw [if_neg (not_resv hresv), if_neg (Nat.not_lt.2 hcount), if_neg hdst]
  simp only [at_, Nat.shiftLeft_eq, Nat.pow_zero, Nat.mul_one]
  rfl

/-- A `Sweep` over all blocks starts, with a request to the Sieve of every channel that is up (R227). -/
theorem exec_sweep_starts (hrun : runsNow s c r 0x43 = true) :
    let d := headDesc s c r
    fld d 990 128 = 0 → bit d 991 = true → fld d 1023 992 = 0 →
    let x : SweepCtx := { blocks := sweepBlocks s c true 0, q := [], waiting := (allCh.filter (isUp s)).map (fun t => t.val) }
    exec (.sweep c r) s = .next (setWait (modRefPort s c (fun p =>
      { p with sweep := some x, scope := (if p.held = [] then [] else p.scope) ++ x.blocks })) c r .sweep) := by
  intro d hresv hall hid x
  have hbody : ¬ (resv d 990 128 = true ∨ bit d 991 = true ∧ fld d 1023 992 ≠ 0) := by simp [resv, hresv, hid]
  show execSweep c r s = _
  rw [execSweep, runHead_runs hrun]
  dsimp only
  rw [if_pos hall]
  dsimp only
  rw [if_neg hbody, hall, hid]
  simp only [List.isEmpty_iff]
  rfl

/-- Settles O34: each body passes its checks, and its effect is the row's own. -/
theorem objectDescriptorsRun : Obligations.ObjectDescriptorsRun := by
  refine ⟨?onSequences, fun c r s ks n m => exec_prune_resumes, fun c r s => exec_tilthScan_reports, fun c r s => exec_sweep_starts⟩
  intro c r s hfresh d h q u pairs hgood hroom
  refine ⟨?blockCreate, ?attach, ?prune, ?setProtect⟩
  case blockCreate => exact exec_blockCreate_creates hfresh hgood hroom
  case attach =>
    intro hrun v p w hresv hpass hheld hsweep hgrow w1 w2
    rw [exec_attach_attaches hfresh hgood hroom hrun hresv hpass hheld hsweep, attachRun_attaches hgrow]
  case prune =>
    intro hrun x es y hrange hresv hloss hends
    rw [exec_prune_begins hfresh hgood hroom hrun hrange hresv hloss, pruneGo_ends hends, pruneCpl_eq]
  case setProtect => exact exec_setProtect_protects hfresh hgood hroom

end Sys2Proof.Proofs
end

section
/-! SUPPORT. What the reference port does after a sweep: the changes that it held, and the scans of a poisoned page's sharers (R228, R229), and the statement
about them. -/

namespace Sys2Proof.Proofs
open Sys2Proof Sys2Proof.Machine Sys2Proof.Laws

variable {s : State} {c : Ch}

/-! ## Held changes (R228) -/

/-- While a sweep runs, no held change is applied. -/
theorem exec_heldReferenceChange_sweeping (h : (s.ch c).obj.port.sweep ≠ none) : exec (.heldReferenceChange c) s = .next s :=
  congrArg _ (if_pos (Option.isSome_iff_ne_none.2 h))

section
variable (hsweep : (s.ch c).obj.port.sweep = none)
include hsweep

/-- After the sweep, a full release log makes the port wait (R237). -/
theorem exec_heldReferenceChange_logFull (hlog : logFull s c = true) : exec (.heldReferenceChange c) s = .next (noteFull s c) := by
  show execHeldReferenceChange c s = _
  rw [execHeldReferenceChange, hsweep]
  exact congrArg _ (if_pos hlog)

variable (hlog : logFull s c = false) {rest : List HeldChange}
include hlog

/-- A held report is taken and applied as at its arrival (R209). -/
theorem exec_heldReferenceChange_report {x : Report} (hheld : (s.ch c).obj.port.held = .report x :: rest) (hup : isUp s c = true) :
    let u := modRefPort s c (fun p => { p with held := rest })
    exec (.heldReferenceChange c) s = .next (applyReport u c x) := by
  intro u
  have hup' : isUp u c = true := by simpa [isUp, u, modRefPort] using hup
  show execHeldReferenceChange c s = _
  rw [execHeldReferenceChange, hsweep, hlog, hheld]
  exact congrArg _ (if_pos hup')

/-- A ring whose descriptor's change is the oldest goes on; the change keeps its place. -/
theorem exec_heldReferenceChange_ring {q : Sys2Proof.Ring} (hheld : (s.ch c).obj.port.held = .ring q.val :: rest) (hwait : (s.ring c q).wait = .held) :
    exec (.heldReferenceChange c) s = .next (setWait s c q .resumed) := by
  have hq : ringOf q.val = some q := dif_pos q.isLt
  show execHeldReferenceChange c s = _
  rw [execHeldReferenceChange, hsweep, hlog, hheld]
  dsimp only
  rw [hq]
  exact congrArg _ (if_pos hwait)

/-- A held poisoning is taken, and applied where its block still stands and its record is not yet poisoned (R229). -/
theorem exec_heldReferenceChange_poison {k : Nat} {v : BitVec 40} (hheld : (s.ch c).obj.port.held = .poison k v :: rest) :
    let u := modRefPort s c (fun p => { p with held := rest })
    exec (.heldReferenceChange c) s =
      .next (if pbNames u c v.toNat = true ∧ (recAt u c k).poison = false then applyPoison u c k else u) := by
  intro u
  show execHeldReferenceChange c s = _
  rw [execHeldReferenceChange, hsweep, hlog, hheld]
  simp only [← Bool.not_eq_true', ← Bool.and_eq_true]
  rfl

end

/-! ## Scans of a poisoned page's sharers (R229, R231) -/

/-- Whether a sequence shares the page of a scan: it is Active, Frozen or Closing, and its entry is Shared and names the block (R229). -/
def scanHits (s : State) (c : Ch) (x : PoisonScan) (e : Nat × SeqEntry) : Bool :=
  let q := pteAt s c (pteKey e.1 x.layer x.head (pbAt s c (pbIndexOf x.pb.toNat).slot).blockNo.toNat)
  (e.2.state == .active || e.2.state == .frozen || e.2.state == .closing) && (q.kind == .shared && fld q.loc.toNat 39 0 == x.pb.toNat)

/-- The event of one sharer (R231). -/
def scanEvent (c : Ch) (x : PoisonScan) (p : Nat) (t : State) (e : Nat × SeqEntry) : State :=
  raiseC t c 0x0302 sevErr (natLe (handleBits e.2.gen.toNat c.val e.1) 6 ++ natLe x.pb.toNat 5 ++ natLe x.layer 1 ++ natLe x.head 1 ++ natLe p 3)

/-- The oldest scan is taken, and each sharer of its page gets its event. -/
theorem exec_poisonScan_raises {x : PoisonScan} {rest : List PoisonScan} (hscans : (s.ch c).obj.port.scans = x :: rest) :
    exec (.poisonScan c) s = .next (((s.ch c).obj.seqs.filter (scanHits s c x)).foldl
      (scanEvent c x (pbAt s c (pbIndexOf x.pb.toNat).slot).blockNo.toNat) (modRefPort s c (fun p => { p with scans := rest }))) := by
  have hobj : ((modRefPort s c (fun p => { p with scans := rest })).ch c).obj =
      { (s.ch c).obj with port := { (s.ch c).obj.port with scans := rest } } := by
    simp [modRefPort, modObj]
  show execPoisonScan c s = _
  rw [execPoisonScan, hscans]
  simp only [pbAt, pteAt, hobj]
  rfl

/-- Settles O35: a held change by its kind, once no sweep runs and the log has room; a scan by its sharers. -/
theorem heldChangesAndScansRun : Obligations.HeldChangesAndScansRun := by
  refine ⟨?held, fun c s x rest hscans => exec_poisonScan_raises hscans⟩
  intro c s h rest hheld u
  refine ⟨exec_heldReferenceChange_sweeping, exec_heldReferenceChange_logFull, fun hsweep hlog => ⟨?report, ?ring, ?poison⟩⟩
  case report =>
    rintro x rfl hup
    exact exec_heldReferenceChange_report hsweep hlog hheld hup
  case ring =>
    rintro q rfl hwait
    exact exec_heldReferenceChange_ring hsweep hlog hheld hwait
  case poison =>
    rintro k v rfl
    exact exec_heldReferenceChange_poison hsweep hlog hheld

end Sys2Proof.Proofs
end

section
/-! SUPPORT. What every command and every step keeps, and the statement about the memories' canonical form. -/

namespace Sys2Proof.Proofs
open Sys2Proof Sys2Proof.Machine Sys2Proof.Laws

/-- Every command keeps what `Keeps` names: one law of its effect for each constructor. -/
theorem exec_keeps (i : Instr) (s : State) : KX s (exec i s) := by
  have h := Keeps.refl s
  cases i with
  | nop => exact keeps_execNop h
  | attend => exact keeps_execAttend h
  | attendGrist => exact keeps_execAttendGrist h
  | attendRagged => exact keeps_execAttendRagged h
  | append => exact keeps_execAppend h
  | prefetch => exact keeps_execPrefetch h
  | place => exact keeps_execPlace h
  | promote => exact keeps_execPromote h
  | demote => exact keeps_execDemote h
  | drop => exact keeps_execDrop h
  | persist => exact keeps_execPersist h
  | merge _ _ env => exact keeps_execMerge (v3 := env) h
  | slipFill => exact keeps_execSlipFill h
  | slipCopy => exact keeps_execSlipCopy h
  | slipCompare => exact keeps_execSlipCompare h
  | slipReduce => exact keeps_execSlipReduce h
  | slipPublish => exact keeps_execSlipPublish h
  | slipAtomic => exact keeps_execSlipAtomic h
  | sieveHash => exact keeps_execSieveHash h
  | sieveProbe => exact keeps_execSieveProbe h
  | sieveInsert => exact keeps_execSieveInsert h
  | sieveRemove => exact keeps_execSieveRemove h
  | sieveSetFlags => exact keeps_execSieveSetFlags h
  | sieveRead => exact keeps_execSieveRead h
  | seqOpen => exact keeps_execSeqOpen h
  | seqClose => exact keeps_execSeqClose h
  | attach => exact keeps_execAttach h
  | sweep => exact keeps_execSweep h
  | blockCreate => exact keeps_execBlockCreate h
  | prune => exact keeps_execPrune h
  | setProtect => exact keeps_execSetProtect h
  | tilthScan => exact keeps_execTilthScan h
  | gateWaitRelease => exact keeps_execGateWaitRelease h
  | presenceGateRelease => exact keeps_execPresenceGateRelease h
  | useCountAdmit => exact keeps_execUseCountAdmit h
  | seqCloseRelease => exact keeps_execSeqCloseRelease h
  | gateAddArrival => exact keeps_execGateAddArrival h
  | releaseRecordWrite => exact keeps_execReleaseRecordWrite h
  | frameGuardClear => exact keeps_execFrameGuardClear h
  | pageMoveEnd => exact keeps_execPageMoveEnd h
  | ringDrainEnd => exact keeps_execRingDrainEnd h
  | ringTailWrite => exact keeps_execRingTailWrite h
  | ringEnableWrite => exact keeps_execRingEnableWrite h
  | ringStopWrite => exact keeps_execRingStopWrite h
  | ringDisableWrite => exact keeps_execRingDisableWrite h
  | gateSetWrite => exact keeps_execGateSetWrite h
  | gateAddWrite => exact keeps_execGateAddWrite h
  | clearLow => exact keeps_execClearLow h
  | srSeedWrite => exact keeps_execSrSeedWrite h
  | releaseLogEnableWrite => exact keeps_execReleaseLogEnableWrite h
  | linkEnableWrite => exact keeps_execLinkEnableWrite h
  | sqTailWrite => exact keeps_execSqTailWrite h
  | registerWrite => exact keeps_execRegisterWrite h
  | badRegisterAccess => exact keeps_execBadRegisterAccess h
  | paceWindowEnd => exact keeps_execPaceWindowEnd h
  | refclkLoss => exact keeps_execRefclkLoss h
  | refclkReturn => exact keeps_execRefclkReturn h
  | cxlMemRead => exact keeps_execCxlMemRead h
  | cxlMemWrite => exact keeps_execCxlMemWrite h
  | t0WindowRead => exact keeps_execT0WindowRead h
  | t0WindowWrite => exact keeps_execT0WindowWrite h
  | birsp => exact keeps_execBirsp h
  | biconflict => exact keeps_execBiconflict h
  | biSnoopTimeout => exact keeps_execBiSnoopTimeout h
  | hostLinkDown ev => exact keeps_execHostLinkDown (v1 := ev) h
  | hostLinkUp => exact keeps_execHostLinkUp h
  | flr => exact keeps_execFlr h
  | cxlReset => exact keeps_execCxlReset h
  | ldBind => exact keeps_execLdBind h
  | ldUnbind => exact keeps_execLdUnbind h
  | hdmDecoderCommit => exact keeps_execHdmDecoderCommit h
  | msixUnmask => exact keeps_execMsixUnmask h
  | mctpMessage => exact keeps_execMctpMessage h
  | getMeasurements => exact keeps_execGetMeasurements h
  | keyExchange => exact keeps_execKeyExchange h
  | spdmRequest => exact keeps_execSpdmRequest h
  | ideKm => exact keeps_execIdeKm h
  | ideIntegrityFail => exact keeps_execIdeIntegrityFail h
  | i3cAddressAssign => exact keeps_execI3cAddressAssign h
  | identifyMemoryDevice => exact keeps_execIdentifyMemoryDevice h
  | getSupportedLogs => exact keeps_execGetSupportedLogs h
  | getLog => exact keeps_execGetLog h
  | getPoisonList => exact keeps_execGetPoisonList h
  | clearPoison => exact keeps_execClearPoison h
  | getEventRecords => exact keeps_execGetEventRecords h
  | clearEventRecords => exact keeps_execClearEventRecords h
  | getDcConfiguration => exact keeps_execGetDcConfiguration h
  | getDcExtentList => exact keeps_execGetDcExtentList h
  | addDcResponse => exact keeps_execAddDcResponse h
  | releaseDynamicCapacity => exact keeps_execReleaseDynamicCapacity h
  | backgroundOperationStatus => exact keeps_execBackgroundOperationStatus h
  | requestAbortBackground => exact keeps_execRequestAbortBackground h
  | getLdInfo => exact keeps_execGetLdInfo h
  | getDcdInfo => exact keeps_execGetDcdInfo h
  | initiateDcAdd => exact keeps_execInitiateDcAdd h
  | initiateDcRelease => exact keeps_execInitiateDcRelease h
  | setLdAllocations => exact keeps_execSetLdAllocations h
  | getIdentity => exact keeps_execGetIdentity h
  | getHealth => exact keeps_execGetHealth h
  | setTime => exact keeps_execSetTime h
  | selfTestQuery => exact keeps_execSelfTestQuery h
  | shutdown => exact keeps_execShutdown h
  | stageWrite => exact keeps_execStageWrite h
  | stageRead => exact keeps_execStageRead h
  | stageClear => exact keeps_execStageClear h
  | commitCheck => exact keeps_execCommitCheck h
  | commitApply => exact keeps_execCommitApply h
  | commitFenceStands => exact keeps_execCommitFenceStands h
  | commitQuery => exact keeps_execCommitQuery h
  | capRead => exact keeps_execCapRead h
  | eventRead => exact keeps_execEventRead h
  | channelIsolate => exact keeps_execChannelIsolate h
  | channelReset => exact keeps_execChannelReset h
  | mediaFormat => exact keeps_execMediaFormat h
  | mediaFlush => exact keeps_execMediaFlush h
  | mediaDiscard => exact keeps_execMediaDiscard h
  | mediaSecureDiscard => exact keeps_execMediaSecureDiscard h
  | regionCreate => exact keeps_execRegionCreate h
  | regionSetHome => exact keeps_execRegionSetHome h
  | regionRegister => exact keeps_execRegionRegister h
  | regionRevoke => exact keeps_execRegionRevoke h
  | regionRelease => exact keeps_execRegionRelease h
  | regionPublish => exact keeps_execRegionPublish h
  | regionQuery => exact keeps_execRegionQuery h
  | revocationDrainEnd => exact keeps_execRevocationDrainEnd h
  | regionAdmissionResume => exact keeps_execRegionAdmissionResume h
  | linkConnSet => exact keeps_execLinkConnSet h
  | linkConnReset => exact keeps_execLinkConnReset h
  | linkConnClose => exact keeps_execLinkConnClose h
  | linkConnQuery => exact keeps_execLinkConnQuery h
  | linkWindowSet => exact keeps_execLinkWindowSet h
  | linkKeySet => exact keeps_execLinkKeySet h
  | keyLoad => exact keeps_execKeyLoad h
  | keyDestroy => exact keeps_execKeyDestroy h
  | keyQuery => exact keeps_execKeyQuery h
  | ownerPurge => exact keeps_execOwnerPurge h
  | keyPurgeTimeout => exact keeps_execKeyPurgeTimeout h
  | keyStorageCheck => exact keeps_execKeyStorageCheck h
  | firmwareUpdate => exact keeps_execFirmwareUpdate h
  | firmwareActivate => exact keeps_execFirmwareActivate h
  | firmwareRecover => exact keeps_execFirmwareRecover h
  | firmwareWatchdogExpiry => exact keeps_execFirmwareWatchdogExpiry h
  | boot => exact keeps_execBoot h
  | engineMapCommit => exact keeps_execEngineMapCommit h
  | sieveInsertResume => exact keeps_execSieveInsertResume h
  | shiftRowCopy => exact keeps_execShiftRowCopy h
  | shiftLanding => exact keeps_execShiftLanding h
  | scrubVisit => exact keeps_execScrubVisit h
  | sieveRowSpareIn => exact keeps_execSieveRowSpareIn h
  | sieveBlockRemoval => exact keeps_execSieveBlockRemoval h
  | sieveCountRequest => exact keeps_execSieveCountRequest h
  | sieveReport => exact keeps_execSieveReport h
  | heldReferenceChange => exact keeps_execHeldReferenceChange h
  | poisonScan => exact keeps_execPoisonScan h
  | cascadeFrame => exact keeps_execCascadeFrame h
  | cascadeTimeout => exact keeps_execCascadeTimeout h
  | lateCascadeFrame c frame => exact keeps_execLateCascadeFrame (v1 := c) (v2 := frame) h
  | cand => exact keeps_execCand h
  | placeFrame => exact keeps_execPlaceFrame h
  | dropFrame => exact keeps_execDropFrame h
  | mark => exact keeps_execMark h
  | writeBackTake => exact keeps_execWriteBackTake h
  | stripeProgrammed => exact keeps_execStripeProgrammed h
  | stripePad => exact keeps_execStripePad h
  | programFailure => exact keeps_execProgramFailure h
  | eraseFailure => exact keeps_execEraseFailure h
  | nandReadComplete => exact keeps_execNandReadComplete h
  | dieTimeout => exact keeps_execDieTimeout h
  | dieParameterChange => exact keeps_execDieParameterChange h
  | collection => exact keeps_execCollection h
  | stripeBlockErase => exact keeps_execStripeBlockErase h
  | journalPageProgrammed => exact keeps_execJournalPageProgrammed h
  | checkpoint => exact keeps_execCheckpoint h
  | anchorWrite => exact keeps_execAnchorWrite h
  | temperatureSample => exact keeps_execTemperatureSample h
  | channelStart => exact keeps_execChannelStart h
  | selfTestWindowCheck => exact keeps_execSelfTestWindowCheck h
  | selfTestGroupStart => exact keeps_execSelfTestGroupStart h
  | selfTestGroupEnd => exact keeps_execSelfTestGroupEnd h
  | stackLaneFailure => exact keeps_execStackLaneFailure h
  | supplyWarn => exact keeps_execSupplyWarn h
  | warnAckTimeout => exact keeps_execWarnAckTimeout h
  | supplyOk => exact keeps_execSupplyOk h
  | flushComplete => exact keeps_execFlushComplete h
  | supplyReset => exact keeps_execSupplyReset h
  | supplyRestored => exact keeps_execSupplyRestored h
  | coldStart => exact keeps_execColdStart h
  | regulatorAlert => exact keeps_execRegulatorAlert h
  | thermalSample => exact keeps_execThermalSample h
  | thermalTrip => exact keeps_execThermalTrip h
  | thermalTripBound => exact keeps_execThermalTripBound h
  | governorWindow => exact keeps_execGovernorWindow h
  | healthPollTimeout => exact keeps_execHealthPollTimeout h
  | linkTrainingDone => exact keeps_execLinkTrainingDone h
  | linkLaneFailure => exact keeps_execLinkLaneFailure h
  | linkRetrainDone => exact keeps_execLinkRetrainDone h
  | linkLossOfSignal => exact keeps_execLinkLossOfSignal h
  | uncorrectableFlit => exact keeps_execUncorrectableFlit h
  | packetReceive => exact keeps_execPacketReceive h
  | write => exact keeps_execWrite h
  | readReq => exact keeps_execReadReq h
  | add8 => exact keeps_execAdd8 h
  | add16 => exact keeps_execAdd16 h
  | cas8 => exact keeps_execCas8 h
  | cas16 => exact keeps_execCas16 h
  | duplicateLast => exact keeps_execDuplicateLast h
  | ack => exact keeps_execAck h
  | readResp => exact keeps_execReadResp h
  | atomicResp => exact keeps_execAtomicResp h
  | nakSeq => exact keeps_execNakSeq h
  | controlFlit => exact keeps_execControlFlit h
  | sendQueueIssue => exact keeps_execSendQueueIssue h
  | t3MoveResume => exact keeps_execT3MoveResume h
  | operationTimerExpiry => exact keeps_execOperationTimerExpiry h
  | retransmitWaitEnd => exact keeps_execRetransmitWaitEnd h
  | hostMemoryRequestDone => exact keeps_execHostMemoryRequestDone h
  | rdmaWrite => exact keeps_execRdmaWrite h
  | rdmaReadRequest => exact keeps_execRdmaReadRequest h
  | cmpswap => exact keeps_execCmpswap h
  | fetchadd => exact keeps_execFetchadd h
  | roceUnsupportedRequest => exact keeps_execRoceUnsupportedRequest h
  | pauseFrame _ prio => exact keeps_execPauseFrame (v2 := prio) h
  | eraseComplete => exact keeps_execEraseComplete h
  | linkRetrainTimeout => exact keeps_execLinkRetrainTimeout h
  | vaonReset => exact keeps_execVaonReset h
  | fatalFault => exact keeps_execFatalFault h
  | globalPersistentFlush => exact keeps_execGlobalPersistentFlush h
  | creditAdvertised => exact keeps_execCreditAdvertised h
  | islandPaceWindowEnd => exact keeps_execIslandPaceWindowEnd h

/-- Every step keeps what `Keeps` names, seen from the state whose queue is the rest; on an empty queue this is the state itself. -/
theorem step_keeps {s t : State} (h : Sys2Proof.Machine.step s = .next t) : Keeps { s with pending := s.pending.tail } t := by
  rcases hq : s.pending with _ | ⟨i, rest⟩ <;> rw [Sys2Proof.Machine.step, hq] at h
  case nil =>
    have hs : { s with pending := [] } = s := by rw [← hq]
    rw [List.tail_nil, hs, ← Host.Outcome.next.inj h]
    exact keeps_tick (Keeps.refl s)
  case cons => exact exec_keeps i _ t h

/-- Settles O4: the queue is no part of the memories, and what runs keeps them canonical. -/
theorem stepsKeepMemoryCanonical : Obligations.StepsKeepMemoryCanonical :=
  fun _ _ hs hstep => (step_keeps hstep).mem hs

end Sys2Proof.Proofs
end

section
/-! SUPPORT. The write-back of dirty pieces with nothing in its way: the head of the queue taken (R243, R244, R246), its unit begun (R245, R248, R329, R336)
and handed to Marl (R273), and the statement about them. -/

namespace Sys2Proof.Proofs
open Sys2Proof Sys2Proof.Machine Sys2Proof.Laws

variable {s t : State} {c : Ch} {idle : Bool} {env : Env} {e : WbEntry} {x : WbRun}

/-! ## The queue -/

/-- What a command's surroundings show changes no object table. -/
@[simp] theorem takeEnv_obj : ((takeEnv s c env).ch c).obj = (s.ch c).obj := by
  simp [takeEnv, addLost, rotKeys]

/-- The head leaves the queue. -/
@[simp] theorem wbPop_wbq : ((wbPop s c).ch c).obj.wbq = (s.ch c).obj.wbq.drop 1 := by
  unfold wbPop
  dsimp only
  split <;> simp [modObj]

/-- A running channel with no write-back in flight takes the head of its queue when it is due, and what waited for room goes on (log 63). -/
theorem exec_writeBackTake_takes {rest : List WbEntry} (hq : (s.ch c).obj.wbq = e :: rest) (hup : isUp s c = true) (hrun : (s.ch c).obj.wbRun = none)
    (hdue : takeDue s c e idle = true) :
    exec (.writeBackTake c idle env) s =
      .next (wbWake (if e.region then takeRegion (takeEnv s c env) c e else takePiece (takeEnv s c env) c e) c) := by
  show execWriteBackTake c idle env s = _
  rw [execWriteBackTake, hrun, hq]
  dsimp only
  rw [if_neg (by rw [hup]; decide), if_neg (by rw [hdue]; decide)]

/-- A running channel with a write-back in flight hands it on. -/
theorem exec_writeBackTake_hands (hup : isUp s c = true) (hrun : (s.ch c).obj.wbRun = some x) :
    exec (.writeBackTake c idle env) s = .next (wbHand s c x) := by
  show execWriteBackTake c idle env s = _
  rw [execWriteBackTake, hrun]
  exact congrArg _ (if_neg (by rw [hup]; decide))

/-- A test that holds does not fail. -/
theorem not_bnot {b : Bool} (h : b = true) : ¬ (!b) = true := by simp [h]

/-! ## The unit of a piece (R245, R248) -/

/-- The page piece at the head of the queue begins the write-back of its unit: WB_BUSY of the home is set and the unit's four bits are cleared. -/
theorem takePiece_begins {m : Summ} (hm : smGet? ((wbPop s c).ch c).obj.summs e.ref = some m) (hkind : m.ownerKind = false) :
    let v := wbPop s c
    let key := (summPage v c m).2
    let p := pteAt v c key
    let h := homeAt v c e.ref
    let o := seqObj v c (pteSlot key)
    let i := e.piece.toNat / 4
    p.tier = 1 → p.summIdx.toNat = e.ref → h.homed = true → p.dirty.getLsbD e.piece.toNat = true →
    let k := useKey v c o.owner
    let ref := pageRefOf k c false key o.owner
    keyHere k c o.owner = true → (k.marl c).readonly = false → homeSealed k c h = false →
    orphanPieces k c ref o.size (unitPieces i) = false → recoverPieces k c ref o.size (unitPieces i) = some t →
    let bs := homeBytes t c o.owner p o.size i
    let q := homePlace h i bs.length
    takePiece s c e = wbBegin (setPte (setBusy t c e.ref true) c key { p with dirty := p.dirty &&& ~~~ dirtyMask (unitPieces i) }) c
      { region := false, ref := e.ref, unit := i, owner := o.owner, lu := q.1, mask := q.2.1, off := q.2.2, bytes := bs, home := h.home } := by
  intro v key p h o i htier hidx hhomed hdirty k ref hkey hmedia hseal horphan hrecover bs q
  have hpage : summPage v c m = (false, key) := by simp [key, summPage, hkind]
  have hstands : ¬ (p.tier ≠ 1 ∨ p.summIdx.toNat ≠ e.ref ∨ (!h.homed) = true ∨ (!p.dirty.getLsbD e.piece.toNat) = true) := by
    simp [htier, hidx, hhomed, hdirty]
  unfold takePiece
  dsimp only
  rw [hm]
  dsimp only
  rw [hpage]
  refine (if_neg hstands).trans ((if_neg (not_bnot hkey)).trans ((if_neg (Bool.eq_false_iff.1 hmedia)).trans
    ((if_neg (Bool.eq_false_iff.1 hseal)).trans ((if_neg (Bool.eq_false_iff.1 horphan)).trans ?_))))
  split
  · next hlost => exact absurd (hrecover.symm.trans hlost) (Option.some_ne_none t)
  · next w hw =>
    cases hrecover.symm.trans hw
    rfl

/-- The region piece at the head of the queue, dirty and good, whose lines no host holds and no request waits at, begins its write-back: its bit is
cleared. -/
theorem takeRegion_begins {idx : Nat} {run : HomeRun} (hat : runAt s c.val (4096 * e.ref) = some (idx, run)) :
    let owner := (regionAt s idx).owner.toNat
    let b := runUnit run (4096 * e.ref)
    let k := useKey s c owner
    e.ref ∈ (k.ch c).obj.dirtyMap → pieceBad k c e.ref = false → keyHere k c owner = true → (k.marl c).readonly = false →
    linesReady k (.wb c) ((linesOf (4096 * e.ref) 4096).map (fun y => (c, y, false))) = true → devOn k (.wb c) = false →
    (mapAt k c b.1).sealed = false →
    takeRegion s c e = wbBegin (modObj (wbPop k c) c (fun o => { o with dirtyMap := o.dirtyMap.filter (fun y => y != e.ref) })) c
      { region := true, ref := e.ref, unit := b.2, owner, lu := b.1, mask := (3 <<< (2 * b.2)) % 256, off := 4096 * b.2,
        bytes := t1Plain k c owner (4096 * e.ref) 4096, home := 0 } := by
  intro owner b k hdirty hgood hkey hmedia hready hfree hseal
  have hstands : ¬ ((!(k.ch c).obj.dirtyMap.contains e.ref) = true ∨ pieceBad k c e.ref = true ∨ (!keyHere k c owner) = true ∨
      (k.marl c).readonly = true) := by
    simp [hdirty, hgood, hkey, hmedia]
  unfold takeRegion
  dsimp only
  rw [hat]
  exact (if_neg hstands).trans ((if_neg (not_bnot hready)).trans ((if_neg (Bool.eq_false_iff.1 hseal)).trans (if_neg (Bool.eq_false_iff.1 hfree))))

/-! ## Marl takes the unit (R245, R273) -/

section
variable (hkey : keyHere (useKey s c x.owner) c x.owner = true) (hmedia : ((useKey s c x.owner).marl c).readonly = false)
include hkey hmedia

/-- A page's unit whose home still stands and is not sealed is handed over: accepted, the write-back is over and WB_BUSY is clear; until then it stays in
flight. -/
theorem wbHand_page (hpage : x.region = false) (hhomed : (homeAt s c x.ref).homed = true) (hhome : (homeAt s c x.ref).home = x.home)
    (hseal : homeSealed (useKey s c x.owner) c (homeAt s c x.ref) = false) :
    let k := useKey s c x.owner
    wbHand s c x = ((handUnit k c 0 x.owner x.lu x.mask x.off x.region x.bytes).map (fun t => wbEnd (setBusy t c x.ref false) c)).getD k := by
  intro k
  have hstands : ¬ ((!(homeAt s c x.ref).homed) = true ∨ (homeAt s c x.ref).home ≠ x.home) := by simp [hhomed, hhome]
  unfold wbHand
  dsimp only
  rw [hpage]
  exact (if_neg (not_bnot hkey)).trans ((if_neg Bool.false_ne_true).trans ((if_neg hstands).trans ((if_neg (Bool.eq_false_iff.1 hmedia)).trans
    (if_neg (Bool.eq_false_iff.1 hseal)))))

/-- A region piece's unit that is not sealed and has room is handed over: accepted, the write-back is over; until then it stays in flight. -/
theorem wbHand_region (hregion : x.region = true) (hseal : (mapAt (useKey s c x.owner) c x.lu).sealed = false)
    (hroom : regionNoRoom (useKey s c x.owner) c x.lu = false) :
    let k := useKey s c x.owner
    wbHand s c x = ((handUnit k c 0 x.owner x.lu x.mask x.off x.region x.bytes).map (fun t => wbEnd t c)).getD k := by
  intro k
  have htakes : ¬ ((mapAt k c x.lu).sealed = true ∨ (k.marl c).readonly = true ∨ regionNoRoom k c x.lu = true) := by
    simp [k, hseal, hmedia, hroom]
  unfold wbHand
  dsimp only
  rw [hregion]
  exact (if_neg (not_bnot hkey)).trans ((if_pos rfl).trans (if_neg htakes))

end

/-- Settles O41: the head of the queue by its kind, and the unit in flight by what Marl answers. -/
theorem writeBackTakesTheHead : Obligations.WriteBackTakesTheHead := by
  refine ⟨?takes, ?hands⟩
  case takes =>
    intro c idle env s e rest hq hup hrun hdue u v begins
    rw [exec_writeBackTake_takes hq hup hrun hdue]
    refine ⟨?page, ?region, by simp [v, u, hq]⟩
    case page =>
      intro hpage m hm hkind key p h o i htier hidx hhomed hdirty k ref pieces hkey hmedia hseal horphan t hrecover bs q
      rw [hpage, if_neg Bool.false_ne_true,
        takePiece_begins hm hkind htier hidx hhomed hdirty hkey hmedia hseal horphan hrecover]
      rfl
    case region =>
      intro hregion idx run hat owner b k hdirty hgood hkey hmedia hready hfree hseal
      rw [hregion, if_pos rfl, takeRegion_begins hat hdirty hgood hkey hmedia hready hfree hseal]
      rfl
  case hands =>
    intro c idle env s x hup hrun k h ended handed
    refine ⟨exec_writeBackTake_hands hup hrun, fun hkey hmedia => ⟨fun hwaits hpage hhomed hhome hseal => ?waits, fun t haccepts =>
      ⟨fun hpage hhomed hhome hseal => ?page, fun hregion hseal hroom => ?region⟩⟩⟩
    case waits => rw [wbHand_page hkey hmedia hpage hhomed hhome hseal, show handUnit _ _ _ _ _ _ _ _ _ = none from hwaits]; rfl
    case page => rw [wbHand_page hkey hmedia hpage hhomed hhome hseal, show handUnit _ _ _ _ _ _ _ _ _ = some t from haccepts]; rfl
    case region => rw [wbHand_region hkey hmedia hregion hseal hroom, show handUnit _ _ _ _ _ _ _ _ _ = some t from haccepts]; rfl

end Sys2Proof.Proofs
end

section
/-! SUPPORT. The placement descriptors with nothing in their way: a placed sequence's moves begin (R249 to R251, R254 to R256), a `Drop` goes over its pages
(R252, R257), a `Persist` hands its image to Marl (R258, R273), and the statement about them. -/

namespace Sys2Proof.Proofs
open Sys2Proof Sys2Proof.Machine Sys2Proof.Laws

variable {s t w : State} {c : Ch} {r : Sys2Proof.Ring} {env : Env} {op d n slot : Nat} {o : PlaceObj} {h : Handle} {frozenOk : Bool}

/-! ## What an admission leaves (R53, R54) -/

/-- A value just written, other than the default, is read back, whatever the form of the store. -/
theorem get_set_same {α : Type} [DecidableEq α] {a v : α} {m : SMap α} {k : Nat} (hv : v ≠ a) : smGet a (smSet a m k v) k = v := by
  have hput : smGet? (smPut m k v) k = some v := by
    induction m with
    | nil => simp [smPut, smGet?]
    | cons e m ih =>
      unfold smPut
      split
      · simp [smGet?]
      · split
        · simp [smGet?]
        · next hlow hne => simp [smGet?, hne, hlow, ih]
  simp [smGet, smSet, hv, hput]

/-- A slot that passes R54 is not free. -/
theorem seqCheck_notFree (hgood : seqCheck s c h frozenOk = none) : (seqAt s c h.slot).state ≠ .free := by
  intro hfree
  simp only [seqCheck, hfree] at hgood
  split_ifs at hgood
  next hlives _ => exact hlives (.inr (.inl trivial))

/-- An admission counts in its slot and leaves the rest of it. -/
theorem seqAt_countUse (hused : (seqAt s c slot).state ≠ .free) :
    seqAt (countUse s c r slot) c slot = { seqAt s c slot with useCount := (seqAt s c slot).useCount + 1 } := by
  have hv : { seqAt s c slot with useCount := (seqAt s c slot).useCount + 1 } ≠ SeqEntry.free := fun hfree => hused (congrArg SeqEntry.state hfree)
  simp only [seqAt, countUse, modSeq, setSeq, modObj, modRing_ch_obj, ch_modCh_same]
  exact get_set_same hv

/-- What a command's surroundings show changes no ring. -/
@[simp] theorem ring_takeEnv (q : Sys2Proof.Ring) : (takeEnv s c env).ring c q = s.ring c q := by
  simp [takeEnv, addLost, rotKeys, State.ring]

/-- An admission changes no wait. -/
@[simp] theorem countUse_wait : ((countUse s c r slot).ring c r).wait = (s.ring c r).wait := by
  rw [countUse, ring_modRing_same]
  simp [modSeq, setSeq, modObj, State.ring]

/-- A range that passes check 2 of R249 for the counted sequence lies within its shape (check 6 of R54). -/
theorem placeShape_good (hused : (seqAt s c slot).state ≠ .free)
    (hspan : let o := seqObj (countUse s c r slot) c slot; spanBad (placeSpan d o.layers o.heads true) o.layers o.heads = false) :
    placeShape s c r d slot = false := by
  by_cases hwhole : placeWhole d = true
  · simp [placeShape, hwhole]
  · simp only [seqObj, seqAt_countUse hused, placeSpan, if_neg hwhole, spanBad, Bool.or_eq_false_iff, if_true] at hspan
    exact Bool.and_eq_false_imp.2 fun _ => hspan.2

/-! ## Place, Promote and Demote (R249 to R251, R254 to R256) -/

/-- Each of the three placement commands runs the placement body of its opcode. -/
theorem exec_placement_runs {x : Instr × Nat} (hx : x ∈ ([(.place c r, 0x11), (.promote c r, 0x12), (.demote c r, 0x13)] : List (Instr × Nat)))
    (hrun : runsNow s c r x.2 = true) : exec x.1 s = .next (placeBody x.2 s c r (headDesc s c r)) := by
  simp only [List.mem_cons, List.not_mem_nil, or_false] at hx
  obtain rfl | rfl | rfl := hx
  case inl => exact congrArg Host.Outcome.next (runHead_runs hrun _)
  case inr.inl => exact congrArg Host.Outcome.next (runHead_runs hrun _)
  case inr.inr =>
    show execDemote c r s = _
    rw [execDemote, runsNow_idle hrun]
    exact congrArg Host.Outcome.next (runHead_runs hrun _)

/-- A placement of a sequence that passes R54, with no freeze of it under way, is counted and goes on to its own checks. -/
theorem placeBody_admits (hkind : fld d 975 974 = 0) (hresv : fld d 859 128 = 0) (hfresh : freshHead s c r = true)
    (hgood : seqCheck s c (handleOf (fld d 1023 976)) (op == opPromote) = none) (hthaw : freezing s c (handleOf (fld d 1023 976)).slot = false)
    (hroom : useFull s c (handleOf (fld d 1023 976)).slot = false) :
    let slot := (handleOf (fld d 1023 976)).slot
    let u := countUse s c r slot
    let o := seqObj u c slot
    spanBad (placeSpan d o.layers o.heads true) o.layers o.heads = false →
    placeBody op s c r d = placeRun u c r op d 0 o := by
  intro slot u o hspan
  have hfreeze : ¬ (op = opPromote ∧ freezing s c slot = true ∧ seqCheck s c (handleOf (fld d 1023 976)) true = none) := by simp [slot, hthaw]
  unfold placeBody
  dsimp only
  rw [hkind, if_neg (by decide), if_neg (by decide), if_neg (by decide), if_neg hfreeze, admitCheck_fresh hfresh, hgood]
  dsimp only
  rw [placeShape_good (seqCheck_notFree hgood) hspan, if_neg Bool.false_ne_true, if_neg (not_resv hresv), admitUse_one hfresh hroom]

/-- A placement that passes R249 begins the moves of the pages that it acts on; one that freezes its sequence makes it Frozen first (R255). -/
theorem placeRun_begins {kind : Nat} (hfields : placeBad1 op d o.isSeq = false)
    (hspan : spanBad (placeSpan d o.layers o.heads o.isSeq) o.layers o.heads = false) (hpass : placeBad3 s c op d o = none) :
    let ps := objPages s c o (placeSpan d o.layers o.heads o.isSeq)
    let acts := ps.filter (fun p => !moveSkips s c op (placeTo d) (!o.isSeq) p.2.2)
    let n := (acts.filter (fun p => !goesHome s c op (placeTo d) p.2.2)).length
    let vs := placeList s c d n
    let y := placeCtx op d kind o (ps.length - acts.length + emptyPages s c d o (placeSpan d o.layers o.heads o.isSeq) ps) (planMoves s c r op d o acts vs)
    inT0 (fld d 895 872) (8 * n) = true → listBad s c d o vs = none → keyLoaded s o.owner = true →
    (freezes y = false → placeRun s c r op d kind o = beginMoves s c r y) ∧
    (freezes y = true →
      let w := jSlot (modSeq s c o.slot (fun e => { e with state := .frozen })) c o.slot
      placeRun s c r op d kind o = if (seqAt w c o.slot).useCount.toNat ≤ 1 then beginMoves w c r y else setWait w c r (.freeze o.slot y)) := by
  intro ps acts n vs y hlist hdests hkey
  have hchecked : placeRun s c r op d kind o = if freezes y then
      let w := jSlot (modSeq s c o.slot (fun e => { e with state := .frozen })) c o.slot
      if (seqAt w c o.slot).useCount.toNat ≤ 1 then beginMoves w c r y else setWait w c r (.freeze o.slot y)
    else beginMoves s c r y := by
    unfold placeRun
    dsimp only
    rw [hfields, if_neg Bool.false_ne_true, hspan, if_neg Bool.false_ne_true, hpass]
    dsimp only
    rw [if_neg (not_bnot hlist), hdests]
    exact if_neg (not_bnot hkey)
  exact ⟨fun hmoves => hchecked.trans (if_neg (Bool.eq_false_iff.1 hmoves)), fun hfreezes => hchecked.trans (if_pos hfreezes)⟩

/-! ## Drop (R252, R257) -/

/-- A `Drop` of a sequence with LOSS_OK that passes its checks goes over the Private pages in range that are neither poisoned nor gated. -/
theorem exec_drop_begins (hrun : runsNow s c r 0x14 = true) (hfresh : freshHead s c r = true) :
    let d := headDesc s c r
    let h := handleOf (fld d 1023 976)
    let u := countUse s c r h.slot
    let o := seqObj u c h.slot
    let x := placeSpan d o.layers o.heads true
    fld d 975 974 = 0 → fld d 859 128 = 0 → useFull s c h.slot = false → seqCheck s c h true = none → placeBad1 0x14 d true = false →
    spanBad x o.layers o.heads = false → (seqAt u c h.slot).lossOk = true →
    let ps := entriesIn u c h.slot x
    let acts := ps.filter (fun p => !dropSkips p.2.2)
    exec (.drop c r) s = .next (dropGo c r (acts.map (fun p => p.1)) 0 (ps.length - acts.length + emptyPages u c d o x ps) u) := by
  intro d h u o x hkind hresv hroom hgood hfields hspan hloss ps acts
  show execDrop c r s = _
  rw [execDrop, droppingOf_idle (runsNow_idle hrun)]
  dsimp only
  rw [runHead_runs hrun, hkind]
  rw [admitCheck_fresh hfresh, hgood]
  dsimp only
  rw [placeShape_good (seqCheck_notFree hgood) hspan, if_neg Bool.false_ne_true, if_neg (not_resv hresv), admitUse_one hfresh hroom]
  refine congrArg Host.Outcome.next ?_
  unfold dropRun
  exact (if_neg (Bool.eq_false_iff.1 hfields)).trans ((if_neg (Bool.eq_false_iff.1 hspan)).trans (if_neg (not_bnot hloss)))

/-- The pages that a `Drop` acts on. -/
theorem not_dropSkips (p : Pte) : (!dropSkips p) = (p.kind == .priv && !p.poison && p.pgate == 0xFFF) := by
  simp [dropSkips, bne]

/-- With no entry left a `Drop` retires with the pages acted on and skipped. -/
theorem dropGo_ends (acted skipped : Nat) :
    dropGo c r [] acted skipped s = retire s c r (cplRes .ok (acted % 2 ^ 24 + skipped % 2 ^ 24 * 2 ^ 24)) := by
  simp [dropGo, at_, Nat.shiftLeft_eq]

/-- While the release log has room and nobody else holds the next entry, it is dropped if it still may be. -/
theorem dropGo_acts {k : Nat} (hlog : logFullFor s c r = false) (hfree : dropWaits s c r k = false) (ks : List Nat) (acted skipped : Nat) :
    dropGo c r (k :: ks) acted skipped s =
      if dropSkips (pteAt s c k) = true then dropGo c r ks acted (skipped + 1) s else dropGo c r ks (acted + 1) skipped (dropOne s c k) := by
  rw [dropGo, hlog, hfree]
  rfl

/-- A `Drop` that waited goes on at its own row. -/
theorem exec_drop_resumes {ks : List Nat} {acted skipped : Nat} (hup : isUp s c = true) (hwait : (s.ring c r).wait = .dropping ks acted skipped)
    (hop : fld (headDesc s c r) 127 120 = 0x14) : exec (.drop c r) s = .next (underOwn s c r (dropGo c r ks acted skipped)) := by
  show execDrop c r s = _
  rw [execDrop, opDrop, droppingOf_dropping hup hwait hop]

/-! ## Persist (R258) -/

/-- A `Persist` of a whole sequence that passes R54 is counted and goes on to its own checks. -/
theorem exec_persist_admits (hrun : runsNow s c r 0x15 = true) :
    let d := headDesc s c r
    let h := handleOf (fld d 1023 976)
    let s1 := takeEnv s c env
    let u := countUse s1 c r h.slot
    freshHead s1 c r = true → fld d 975 974 = 0 → seqCheck s1 c h false = none → fld d 859 128 = 0 → useFull s1 c h.slot = false →
    placeWhole d = true → exec (.persist c r env) s = .next (persistRun u c r d 0 (seqObj u c h.slot)) := by
  intro d h s1 u hfresh hkind hgood hresv hroom hwhole
  have hshape : placeShape s1 c r d h.slot = false := by simp [placeShape, hwhole]
  show execPersist c r env s = _
  rw [execPersist, runsNow_idle hrun]
  dsimp only
  rw [runHead_runs hrun, hkind]
  rw [admitCheck_good hfresh hgood]
  dsimp only
  rw [hshape, if_neg Bool.false_ne_true, if_neg (not_resv hresv), admitUse_one hfresh hroom]
  rfl

/-- A `Persist` of a region goes to the region's checks. -/
theorem exec_persist_region (hrun : runsNow s c r 0x15 = true) (hkind : fld (headDesc s c r) 975 974 = 2) :
    exec (.persist c r env) s = .next (persistRegion (takeEnv s c env) c r (headDesc s c r)) := by
  show execPersist c r env s = _
  rw [execPersist, runsNow_idle hrun]
  dsimp only
  rw [runHead_runs hrun, hkind]
  rfl

/-- A `Persist` that waited for acceptance goes on at its own row (R278). -/
theorem exec_persist_resumes {homes : List ((Nat × Bool) × Nat)} (hup : isUp s c = true) (hwait : (s.ring c r).wait = .persistGo homes) :
    exec (.persist c r env) s = .next (underOwn (takeEnv s c env) c r (fun s => persistWaited s c r homes)) := by
  show execPersist c r env s = _
  rw [execPersist, hwait]
  exact congrArg _ (if_pos hup)

/-- A `Persist` whose object, pages and destination list pass their checks goes on to its steps (R249, R258). -/
theorem persistRun_goes {kind : Nat} (hfirst : (s.ring c r).wait ≠ .resumed) (hfields : placeBad1 0x15 d o.isSeq = false) (hwhole : placeWhole d = true)
    (hmedia : hasT2 (s.marl c) = true) (hwritable : (s.marl c).readonly = false) (hkey : keyLoaded s o.owner = true) :
    let ps := objPages s c o (placeSpan d o.layers o.heads o.isSeq)
    let own := imagePages ps o.isSeq
    let homes := if placeTo d = 2 ∧ isPooled s c then own.filter (fun p => needsHome s c p.2.2) else []
    let vs := placeList s c d homes.length
    persistBad s c (placeTo d) o ps = none → inT0 (fld d 895 872) (8 * homes.length) = true → listBad s c d o vs = none →
    homesOwn s c (placeCls d) own (homes.zip vs) = none →
    persistRun s c r d kind o = persistGo s c r d kind o ((homes.map (fun p => (p.1, !o.isSeq))).zip vs) := by
  intro ps own homes vs hpages hlist hdests hown
  have hgood : ¬ (placeBad1 0x15 d o.isSeq = true ∨ (!placeWhole d) = true) := by simp [hfields, hwhole]
  unfold persistRun
  dsimp only
  rw [if_neg hfirst, if_neg hgood, if_neg (not_bnot hmedia), if_neg (Bool.eq_false_iff.1 hwritable), hpages]
  dsimp only
  rw [if_neg (not_bnot hlist), hdests]
  dsimp only
  rw [hown]
  exact if_neg (not_bnot hkey)

/-- The steps of a `Persist` whose homes and dirty pieces are accepted hand its image to Marl (R258, R273). -/
theorem persistGo_writes {kind : Nat} {homes : List ((Nat × Bool) × Nat)} (hhanding : handing s c r = none) :
    let k := useKey s c o.owner
    let pages := imagePages (objPages k c o (placeSpan d o.layers o.heads o.isSeq)) o.isSeq
    keyHere k c o.owner = true →
    giveHomes c (placeCls d) o.owner o.size (pages.map (fun p => p.1)) homes k 0 = ([], none, t, n) →
    persistDirty c o.owner o.size (pages.map (fun p => (p.1, !o.isSeq, p.2.1))) (addEvicted t c r n) = .done w →
    let units := (pages.map (fun p => pageAt w c (!o.isSeq) p.1)).flatMap (fun p => (imageLoc w c p).flatMap (fun y => unitsOf y.1 y.2))
    persistGo s c r d kind o homes = writeImage w c r kind (BitVec.ofNat 48 (fld d 1023 976)) units (imageBody w c o) o.owner
      (pages.map (fun p => p.1)) (hdrOf d).tag := by
  intro k pages hkey hhomes hdirty units
  unfold persistGo
  dsimp only
  rw [hhanding]
  dsimp only
  rw [if_neg (not_bnot hkey), hhomes]
  dsimp only
  rw [hdirty]
  rfl

/-- A descriptor whose lines are ready, and that waits at none of them, makes its access (R329). -/
theorem onLines_ready {ls : List DevLine} (hready : linesReady s (.ring c r) ls = true) (hfree : devOn s (.ring c r) = false) (k : State → State) :
    onLines s c r ls k = k s := by
  rw [onLines, endAccess, hready, hfree]
  simp

/-- A `Persist` of a region in pooled mode that passes its checks, whose lines no host holds and no request waits at, writes its dirty pieces back and hands
its image to Marl (R258, R248, R329). -/
theorem persistRegion_writes :
    let id := fld d 1007 976
    let g := regionAt s (regIdx id)
    let k := useKey s c g.owner.toNat
    fld d 1023 1008 = 0 → fld d 859 128 = 0 → regionCheck s id = none → fld d 972 901 = 0 → placeWhole d = true →
    toTierOk 0x15 (placeTo d) = true → placeCls d < 6 → placeGate d = 0xFFF → isPooled s c = true → hasT2 (s.marl c) = true →
    (s.marl c).readonly = false → handing s c r = none → keyHere k c g.owner.toNat = true →
    linesReady k (.ring c r) ((dirtyPieces k c g).flatMap (fun p => (linesOf (4096 * p.1) 4096).map (fun x => (c, x, false)))) = true →
    devOn k (.ring c r) = false → persistPieces c g.owner.toNat (dirtyPieces k c g) k 0 = .ok t n →
    let w := addEvicted t c r n
    pageWithin w c (regionUnits w c g) = none →
    persistRegion s c r d = writeImage w c r 2 (BitVec.ofNat 48 id) (regionUnits w c g) (.region g.version g.root g.runs) g.owner.toNat [] (hdrOf d).tag := by
  intro id g k hhigh hresv hregion hrange hwhole htier hcls hgate hpooled hmedia hwritable hhanding hkey hready hfree hpieces w hwithin
  have hcheck : (if wasAdmitted s c r = true then none else regionCheck s id) = none := by rw [hregion, ite_self]
  have hgood : ¬ (resv d 1023 1008 = true ∨ resv d 859 128 = true ∨ (!placeWhole d) = true ∨ resv d 972 901 = true ∨
      (!toTierOk 0x15 (placeTo d)) = true ∨ 6 ≤ placeCls d ∨ placeGate d ≠ 0xFFF) := by
    simp [resv, hhigh, hresv, hrange, hwhole, htier, hcls, hgate]
  unfold persistRegion
  dsimp only
  rw [hcheck]
  dsimp only
  rw [if_neg hgood, if_neg (not_bnot hpooled), if_neg (not_bnot hmedia), if_neg (Bool.eq_false_iff.1 hwritable), hhanding]
  dsimp only
  rw [if_neg (not_bnot hkey), onLines_ready hready hfree, hpieces]
  dsimp only
  rw [hwithin]

/-- Settles O38: each body passes its checks, and what follows them is the row's effect. -/
theorem placementsBegin : Obligations.PlacementsBegin := by
  refine ⟨?begins, fun c r k ks acted skipped s hlog hfree => ⟨dropGo_ends acted skipped, dropGo_acts hlog hfree ks acted skipped⟩,
    fun c r ks acted skipped s => exec_drop_resumes, ?sequence, ?region, fun c r env s homes => exec_persist_resumes⟩
  case begins =>
    intro c r s hfresh d h u o hkind hresv hroom
    refine ⟨?moves, ?drop⟩
    case moves =>
      intro x hx hrun hgood hthaw hfields hspan hpass ps acts n vs y hlist hdests hkey
      rw [exec_placement_runs hx hrun, placeBody_admits hkind hresv hfresh hgood hthaw hroom hspan]
      obtain ⟨hmoves, hfreezes⟩ := placeRun_begins (o := o) (kind := 0) (r := r) hfields hspan hpass hlist hdests hkey
      exact ⟨fun hy => congrArg _ (hmoves hy), fun hy => congrArg _ (hfreezes hy)⟩
    case drop =>
      intro hrun hgood hfields hspan hloss ps acts
      rw [exec_drop_begins hrun hfresh hkind hresv hroom hgood hfields hspan hloss]
      simp only [not_dropSkips]
      rfl
  case sequence =>
    intro c r env s hrun d h s1 u o hfresh hkind hgood hresv hroom hfields hwhole hmedia hwritable hloaded ps own homes vs t w n hpages hlist hdests hown
      hhanding k pages hkey hhomes hdirty units
    have hfirst : (u.ring c r).wait ≠ .resumed := by simp [u, s1, runsNow_idle hrun]
    rw [exec_persist_admits hrun hfresh hkind hgood hresv hroom hwhole,
      persistRun_goes (o := o) hfirst hfields hwhole hmedia hwritable hloaded hpages hlist hdests hown]
    exact congrArg _ (persistGo_writes hhanding hkey hhomes hdirty)
  case region =>
    intro c r env s hrun d id u g k hkind hhigh hresv hregion hrange hwhole htier hcls hgate hpooled hmedia hwritable hhanding hkey hready hfree t n hpieces w
      hwithin
    rw [exec_persist_region hrun hkind]
    exact congrArg _ (persistRegion_writes hhigh hresv hregion hrange hwhole htier hcls hgate hpooled hmedia hwritable hhanding hkey hready hfree hpieces hwithin)

end Sys2Proof.Proofs
end

section
/-! SUPPORT. Marl's events and media commands with nothing in their way, each from its checks to its effect (R278 to R302, R410), and the statement about
them. -/

namespace Sys2Proof.Proofs
open Sys2Proof Sys2Proof.Machine

variable {s : State} {c : Ch} {mb : Mbox} {inp : List Byte}

/-! ## Programs (R278, R279, R283) -/

/-- Marl starts programs and erases on a channel that is up with a T2, where no supply warning holds them (R292). -/
theorem marlRuns_unheld (hup : isUp s c = true) (ht2 : hasT2 (s.marl c) = true) (hhold : (s.marl c).hold = false) : marlRuns s c = true := by
  simp [marlRuns, hup, ht2, hhold]

/-- The programs of a stream's oldest stripe complete where the journal has a buffer free (R278, R289). -/
theorem exec_stripeProgrammed_oldest {st : Fin 4} {group k : Nat} (hup : isUp s c = true) (ht2 : hasT2 (s.marl c) = true)
    (hj : jFull (s.marl c) = false) (hk : oldestStripe (s.marl c) st.val group = some k) :
    exec (.stripeProgrammed c st group) s = .next (marlTasks (placeWaiting (stripeDone s c (BitVec.ofNat 2 st.val) k) c) c) := by
  show execStripeProgrammed c st group s = _
  rw [execStripeProgrammed, if_neg (by simp [hup, ht2, hj]), hk]

/-- A program of a stream's oldest stripe fails: its stripe block is closed and marked, and what it still has in the buffer is placed elsewhere (R283). -/
theorem exec_programFailure_oldest {st : Fin 4} {group member k : Nat} (hup : isUp s c = true) (ht2 : hasT2 (s.marl c) = true)
    (hmember : member < 16) (hk : oldestStripe (s.marl c) st.val group = some k) :
    let key := puaSb (BitVec.ofNat 33 (16 * k))
    let s1 := (s.marl c).opens.foldl (fun t o => if sbKey o.group o.sb = key then closeSb t c o else t) s
    exec (.programFailure c st group member) s = .next (placeWaiting (modMarl (markMember (markSb s1 c key) c key member 0) c (fun m => { m with
      buffer := m.buffer.map (fun u => if puaSb u.pua = key then { u with pua := puaNone, issued := false } else u) })) c) := by
  show execProgramFailure c st group member s = _
  rw [execProgramFailure, if_neg (by simp [hup, ht2, hmember]), hk]

/-- A stripe that waits with a unit accepted is padded (R279). -/
theorem exec_stripePad_filled {st : Fin 4} {group : Nat} {o : OpenSb} (hrun : marlRuns s c = true)
    (ho : openOf (s.marl c) st.val group = some o) (hfilled : 0 < o.filled) : exec (.stripePad c st group) s = .next (endStripe s c o) := by
  show execStripePad c st group s = _
  rw [execStripePad, if_neg (by simp [hrun]), ho]
  dsimp only
  rw [if_pos hfilled]

/-! ## Collection and erase (R282, R283, R285 to R288) -/

/-- A collection copies its victim's valid units out; the victim is due for its erase once all are copied (R285, R287). -/
theorem exec_collection_victim {k : Nat} (hrun : marlRuns s c = true) (hneed : gcRun s c = true ∨ gcUrgent s c = true)
    (hk : victim (s.marl c) = some k) :
    let x := copyUnits c (validUnits (s.marl c) k) s
    exec (.collection c) s = .next (if x.1 then modMarl x.2 c (fun m => { m with due := m.due ++ [k] }) else x.2) := by
  have hgc : (gcRun s c || gcUrgent s c) = true := Bool.or_eq_true_iff.2 hneed
  show execCollection c s = _
  rw [execCollection, if_neg (by simp [hrun, hgc]), hk]

/-- The erase of a ready stripe block of a group with no failed die is issued (R288). -/
theorem exec_stripeBlockErase_ready {group sb : Nat} (hrun : marlRuns s c = true) (hsb : sb < 16384)
    (hready : eraseReady (s.marl c) (sbKey group sb) = true) (hidle : (sbAt (s.marl c) (sbKey group sb)).erasing = false)
    (hgroup : groupOk (s.marl c) group = true) :
    exec (.stripeBlockErase c group sb) s = .next (modSb s c (sbKey group sb) (fun b => { b with erasing := true })) := by
  show execStripeBlockErase c group sb s = _
  rw [execStripeBlockErase, if_neg (by simp [hrun, hsb, hready, hidle]), if_pos hgroup]

/-- Members that fail in an erase under way are retired (R283). -/
theorem exec_eraseFailure_erasing {group sb : Nat} (members : List Nat) (hup : isUp s c = true) (hsb : sb < 16384)
    (herasing : (sbAt (s.marl c) (sbKey group sb)).erasing = true) :
    exec (.eraseFailure c group sb members) s = .next (marlTasks (withCap s c (fun s =>
      retireMembers s c (sbKey group sb) ((dedup (members.filter (fun m => decide (m < 16)))).map (fun m => (m, 1))))) c) := by
  show execEraseFailure c group sb members s = _
  rw [execEraseFailure, if_neg (by simp [hup, hsb, herasing])]

/-- An erase under way ends: its record is appended, members due for it are replaced, and the stripe block is free (R282, R288). -/
theorem exec_eraseComplete_erasing {group sb : Nat} (hup : isUp s c = true) (hsb : sb < 16384)
    (herasing : (sbAt (s.marl c) (sbKey group sb)).erasing = true) :
    let key := sbKey group sb
    let b := sbAt (s.marl c) key
    let t := modMarl s c (fun m => { m with
      marked := m.marked.filter (fun k => k != key), due := m.due.filter (fun k => k != key), work := m.work + 16
      flash := { m.flash with
        pages := m.flash.pages.filter (fun p => puaSb (BitVec.ofNat 33 p.1) != key)
        lostPuas := m.flash.lostPuas.filter (fun p => puaSb (BitVec.ofNat 33 p) != key) } })
    let u := modSb (jAppend t c (.erase group sb (b.erases + 1))) c key (fun _ => { SbInfo.fresh with erases := b.erases + 1 })
    exec (.eraseComplete c group sb) s = .next (placeWaiting (marlTasks (withCap u c (fun s => retireMembers s c key b.retire)) c) c) := by
  show execEraseComplete c group sb s = _
  rw [execEraseComplete, if_neg (by simp [hup, hsb, herasing])]

/-! ## The journal and its checkpoints (R289, R291) -/

/-- A journal that spans 12 stripe blocks begins a checkpoint (R291). -/
theorem exec_checkpoint_long (hrun : marlRuns s c = true) (hlong : journalLong (s.marl c) = true) :
    exec (.checkpoint c) s = .next (beginCkpt s c) := by
  show execCheckpoint c s = _
  rw [execCheckpoint, if_pos (by simp [hrun, hlong])]

/-- The anchor of a checkpoint whose CKPT record is durable moves the replay point (R291 step 5). -/
theorem exec_anchorWrite_durable (hrun : marlRuns s c = true) (hstep : (s.marl c).ckptStep ≠ 0)
    (hdurable : (s.marl c).ckptStep < durableJseq (s.marl c)) :
    let m := s.marl c
    let a := nextAnchor m (ckptDir m m.ckptJseq) m.ckptJseq
    let journal := m.flash.journal.filter (fun p => decide (a.replay < p.first + p.recs.length))
    let f := { m.flash with anchor := a, snap := m.ckpt, journal := journal }
    let recs := journal.flatMap (fun p => p.recs) ++ m.jbuf
    let erased := (a.erases.1 - m.flash.anchor.erases.1) + (a.erases.2 - m.flash.anchor.erases.2)
    let named := m.ckpt.dirAt ++ m.ckpt.dir.map (fun e => e.2)
    exec (.anchorWrite c) s = .next (marlTasks (modMarl s c (fun m => { m with
      ckptStep := 0, ckpt := .empty, work := m.work + 2 + erased
      flash := { f with store := f.store.filter (imageReached f recs), segs := f.segs.filter (fun e => named.any (fun a => a.toNat == e.1)) } })) c) := by
  show execAnchorWrite c s = _
  rw [execAnchorWrite, if_neg (by simp [hrun, hstep, hdurable])]

/-- A journal page that is full, or that a waiter needs, becomes durable (R289). -/
theorem exec_journalPageProgrammed_due (hrun : marlRuns s c = true) (hbuf : (s.marl c).jbuf ≠ [])
    (hdue : jPageRecords ≤ (s.marl c).jbuf.length ∨ jWaiter s c = true) :
    exec (.journalPageProgrammed c) s = .next (pageDurable s c) := by
  have hneed : (decide (jPageRecords ≤ (s.marl c).jbuf.length) || jWaiter s c) = true := by simpa using hdue
  show execJournalPageProgrammed c s = _
  rw [execJournalPageProgrammed, if_neg (by simp [hrun, hbuf, hneed])]

/-! ## Reads, failed dies and temperature (R281, R284, R301, R302) -/

/-- A read of a failed die counts no retry and no soft decode; another that comes to the rebuild counts both (R281, R284). -/
theorem countSteps_toRebuild (s : State) (c : Ch) (dead : Bool) :
    countSteps s c (if dead then 0 else 2) =
      if dead then modMHealth s c (fun h => { h with retries := h.retries + 0, soft := h.soft + 0 })
      else modMHealth s c (fun h => { h with retries := h.retries + 1, soft := h.soft + 1 }) := by
  cases dead
  case false => rfl
  case true => rfl

/-- The state of a read that has ended, before the counts of how it ended. -/
def readCounted (s : State) (c : Ch) : State :=
  modMarl s c (fun m => { m with reads := m.reads + 1, health := { m.health with unitsRead := m.health.unitsRead + 1 } })

/-- A read of a mapped unit ends in every way on a good die, and on a failed one by its rebuild alone (R284). -/
theorem nandRead_ends {unit : Nat} {res : NandResult} (hup : isUp s c = true) (hmapped : (mapAt s c unit).mapped = true)
    (hres : (s.marl c).table.failed.contains (puaDie (mapAt s c unit).pua) = false ∨ deadReadOk res = true) :
    ¬ ((!isUp s c) = true ∨ (!(mapAt s c unit).mapped) = true ∨
      (s.marl c).table.failed.contains (puaDie (mapAt s c unit).pua) = true ∧ (!deadReadOk res) = true) := by
  rw [hup, hmapped]
  rcases hres with hgood | hdead
  · rw [hgood]
    simp
  · rw [hdead]
    simp

/-- A read of a mapped unit on a good die that decodes counts its corrected bits and the steps that it took; a soft decode marks its stripe block
(R281, R301). -/
theorem exec_nandRead_decoded {unit : Nat} (hup : isUp s c = true) (hmapped : (mapAt s c unit).mapped = true)
    (hgood : (s.marl c).table.failed.contains (puaDie (mapAt s c unit).pua) = false) (n : Nat) :
    exec (.nandReadComplete c unit (.hard n)) s = .next (countBits (readCounted s c) c n) ∧
    exec (.nandReadComplete c unit (.retry n)) s = .next (countBits (countSteps (readCounted s c) c 1) c n) ∧
    exec (.nandReadComplete c unit (.soft n)) s =
      .next (markSb (countBits (countSteps (readCounted s c) c 2) c n) c (puaSb (mapAt s c unit).pua)) := by
  have hends (res : NandResult) := nandRead_ends (res := res) hup hmapped (.inl hgood)
  exact ⟨congrArg _ (if_neg (hends (.hard n))), congrArg _ (if_neg (hends (.retry n))), congrArg _ (if_neg (hends (.soft n)))⟩

/-- A read of a mapped unit that comes to the rebuild, whether its die has failed or not: rebuilt, its member is marked; lost, it is also noted and
reported (R281). -/
theorem exec_nandRead_rebuild {unit : Nat} (hup : isUp s c = true) (hmapped : (mapAt s c unit).mapped = true) :
    let e := mapAt s c unit
    let key := puaSb e.pua
    let member := fld e.pua.toNat 3 0
    let deep := countSteps (readCounted s c) c (if (s.marl c).table.failed.contains (puaDie e.pua) then 0 else 2)
    exec (.nandReadComplete c unit .rebuilt) s = .next
      (markMember (markSb (modMHealth deep c (fun h => { h with rebuilt := h.rebuilt + 1 })) c key) c key member 2) ∧
    (let w := modFlash (modMHealth deep c (fun h => { h with unrecovered := h.unrecovered + 1 })) c (fun f =>
        { f with lostPuas := if f.lostPuas.contains e.pua.toNat then f.lostPuas else f.lostPuas ++ [e.pua.toNat] })
     exec (.nandReadComplete c unit .lost) s = .next
        (raiseC (markMember (markSb w c key) c key member 2) c 0x0504 sevErr (natLe unit 4))) := by
  have hends {res : NandResult} (hres : deadReadOk res = true) := nandRead_ends (res := res) hup hmapped (.inr hres)
  exact ⟨congrArg _ (if_neg (hends (res := .rebuilt) rfl)), congrArg _ (if_neg (hends (res := .lost) rfl))⟩

/-- A die of the channel fails: it is recorded, what two failed dies hold is lost, and every stripe block of its group not retired is marked (R284; log 69). -/
theorem dieFails_first {die : Nat} (hup : isUp s c = true) (hdie : die < 16 * groups (s.marl c)) (hnew : (s.marl c).table.failed.contains die = false) :
    let m := s.marl c
    let bad := die :: m.table.failed.filter (fun d => d / 16 == die / 16)
    let gone := if bad.length < 2 then [] else
      (m.flash.pages.filter (fun p => fld p.1 32 30 == die / 16 && bad.contains (puaDie (BitVec.ofNat 33 p.1)))).map (fun p => p.1)
    let s1 := modTable s c (fun t => { t with failed := t.failed ++ [die] })
    let t := jAppend (modFlash s1 c (fun f => { f with lostPuas := f.lostPuas ++ gone.filter (fun p => !f.lostPuas.contains p) })) c (.dieFail die)
    dieFails s c die =
      raiseC (((sbsOf m (die / 16)).filter (fun k => (sbAt m k).state != .retired)).foldl (fun t k => markSb t c k) t) c 0x0507 sevErr (natLe die 1) := by
  rw [dieFails, if_neg (by rw [hup, hnew]; simp [hdie])]

/-- A temperature sample that is due is binned (R302). -/
theorem exec_temperatureSample_due {celsius : Int} (hup : isUp s c = true) (hdue : 2 ^ 16 ≤ (s.marl c).work ∨ 2 ^ 20 ≤ (s.marl c).reads) :
    let t := modMarl s c (fun m => if 2 ^ 16 ≤ m.work then { m with work := m.work - 2 ^ 16 } else { m with reads := m.reads - 2 ^ 20 })
    exec (.temperatureSample c celsius) s = .next (modMHealth t c (fun h =>
      let first := h.tempHist.toList.all (fun n => n == 0)
      let i := (min 63 (max 0 ((celsius + 20) / 2))).toNat
      { h with tempMax := if first then celsius else max h.tempMax celsius, tempMin := if first then celsius else min h.tempMin celsius,
               tempHist := h.tempHist.set! i (h.tempHist[i]! + 1) })) := by
  have hdue' : ¬ ((!isUp s c) = true ∨ (s.marl c).work < 2 ^ 16 ∧ (s.marl c).reads < 2 ^ 20) := by
    rintro (hdown | ⟨hwork, hreads⟩)
    · simp [hup] at hdown
    · omega
  exact congrArg _ (if_neg hdue')

/-! ## Media commands (R298, R299, R410) -/

/-- `MediaFormat` of flash that is not in use begins the format. -/
theorem runMediaFormat_idle (h : mbServes s mb 0xC040 = true) (hl : inp.length = 1) (hc : chOf (bnum inp 0 1) = some c) (hn : mbNamesCh s mb c = true)
    (hb : (s.mb mb).bg = none) (hup : isUp s c = true) (hdies : 16 ≤ (s.marl c).dies) (huse : mediaInUse s c = false) :
    runMediaFormat mb inp s = formatBegin (mbStart s mb 0xC040 (.mediaFormat c.val)) c := by
  rw [runMediaFormat, mbRun_serves h (by simp [hl]) (fun _ => hb), mbOnCh_of_chOf hc hn, if_neg (by simp [hup]), if_neg (by omega), if_neg (by simp [huse])]

/-- `MediaFlush` of a formatted channel pads its open stripes. -/
theorem runMediaFlush_formatted (h : mbServes s mb 0xC041 = true) (hl : inp.length = 2) (hk : bnum inp 1 1 ≤ 1) (hc : chOf (bnum inp 0 1) = some c)
    (hn : mbNamesCh s mb c = true) (hb : (s.mb mb).bg = none) (hup : isUp s c = true) (ht2 : hasT2 (s.marl c) = true) :
    runMediaFlush mb inp s = marlTasks (padOpens (mbStart s mb 0xC041
      (.mediaFlush c.val (bnum inp 1 1 == 1) 0 (s.marl c).flash.wseq 0)) c (fun _ => true)) c := by
  rw [runMediaFlush, mbRun_serves h (by simp [hl]) (fun _ => hb), mbOnCh_of_chOf hc hn, if_neg (by omega), if_neg (by simp [hup]),
    if_neg (by simp [ht2])]

/-- `MediaDiscard` of a run that nothing refuses clears every slot of its units. -/
theorem runMediaDiscard_inRange (h : mbServes s mb 0xC042 = true) (hl : inp.length = 9) (hc : chOf (bnum inp 0 1) = some c) (hn : mbNamesCh s mb c = true)
    (hb : (s.mb mb).bg = none) (hgood : discardBad s c (bnum inp 1 4) (bnum inp 5 4) = none) :
    runMediaDiscard mb inp s = (unitsIn (s.marl c) (bnum inp 1 4) (bnum inp 5 4)).foldl (fun t u => clearSlots t c u 0xFF false)
      (mbStart s mb 0xC042 (.mediaDiscard c.val)) := by
  rw [runMediaDiscard, mbRun_serves h (by simp [hl]) (fun _ => hb), mbOnCh_of_chOf hc hn, hgood]

/-- `MediaSecureDiscard` of a run that nothing refuses clears every slot of its units, and pads the stripes that still hold one of them. -/
theorem runMediaSecureDiscard_inRange (h : mbServes s mb 0xC043 = true) (hl : inp.length = 9) (hc : chOf (bnum inp 0 1) = some c)
    (hn : mbNamesCh s mb c = true) (hb : (s.mb mb).bg = none) (hgood : discardBad s c (bnum inp 1 4) (bnum inp 5 4) = none) :
    let first := bnum inp 1 4
    let n := bnum inp 5 4
    let us := unitsIn (s.marl c) first n
    let inFlash := (s.marl c).flash.pages.filter (fun p => (p.2.kind == 0 || p.2.kind == 5) && decide (first ≤ p.2.lu ∧ p.2.lu < first + n))
    let t := mbStart s mb 0xC043 (.secureDiscard c.val first n
      (dedup (us.map (fun u => (mapAt s c u).owner.toNat) ++ inFlash.map (fun p => p.2.owner.toNat))) none)
    runMediaSecureDiscard mb inp s = marlTasks (padOpens (us.foldl (fun t u => clearSlots t c u 0xFF true) t) c
      (fun u => decide (first ≤ u.page.lu ∧ u.page.lu < first + n))) c := by
  rw [runMediaSecureDiscard, mbRun_serves h (by simp [hl]) (fun _ => hb), mbOnCh_of_chOf hc hn, hgood]

/-! ## The end of a media command (R407, R410; log 21) -/

/-- One mailbox's turn in a fold over the background commands. -/
def taskTurn (f : State → Mbox → BgTask → State) (s : State) (mb : Mbox) : State :=
  match (s.mb mb).bg with
  | some x => f s mb x
  | none => s

/-- The fold over the background commands gives each mailbox its turn. -/
theorem forTasks_eq_turns (s : State) (f : State → Mbox → BgTask → State) : forTasks s f = allMbs.foldl (taskTurn f) s := rfl

/-- The turns of mailboxes without a background command change nothing. -/
theorem foldl_taskTurn_none (f : State → Mbox → BgTask → State) (ms : List Mbox) (h : ∀ x ∈ ms, (s.mb x).bg = none) : ms.foldl (taskTurn f) s = s := by
  induction ms with
  | nil => rfl
  | cons x xs ih =>
    obtain ⟨hx, hxs⟩ := List.forall_mem_cons.1 h
    have hturn : taskTurn f s x = s := by simp [taskTurn, hx]
    rw [List.foldl_cons, hturn, ih hxs]

/-- Every mailbox has exactly one turn. -/
theorem allMbs_split (mb : Mbox) : ∃ before after : List Mbox, allMbs = before ++ mb :: after ∧ mb ∉ before ∧ mb ∉ after := by
  have hmem : mb ∈ allMbs := by simpa [allMbs] using ⟨mb.val, mb.isLt, rfl⟩
  have hnodup : allMbs.Nodup := by decide
  obtain ⟨before, after, heq⟩ := List.append_of_mem hmem
  rw [heq, List.nodup_middle, List.nodup_cons, List.mem_append, not_or] at hnodup
  exact ⟨before, after, heq, hnodup.1.1, hnodup.1.2⟩

/-- With one background command under way, which leaves the other mailboxes without one, the fold is that command's turn. -/
theorem forTasks_only {f : State → Mbox → BgTask → State} {x : BgTask} (hbg : (s.mb mb).bg = some x) (hothers : ∀ y : Mbox, y ≠ mb → (s.mb y).bg = none)
    (hleft : ∀ y : Mbox, y ≠ mb → (f s mb x).mb y = s.mb y) : forTasks s f = f s mb x := by
  obtain ⟨before, after, heq, hbefore, hafter⟩ := allMbs_split mb
  have hturn : taskTurn f s mb = f s mb x := by simp [taskTurn, hbg]
  have hrest (y : Mbox) (hy : y ∈ after) : ((f s mb x).mb y).bg = none := by
    have hne : y ≠ mb := fun h => hafter (h ▸ hy)
    rw [hleft y hne, hothers y hne]
  rw [forTasks_eq_turns, heq, List.foldl_append, foldl_taskTurn_none f before (fun y hy => hothers y (fun h => hbefore (h ▸ hy))),
    List.foldl_cons, hturn, foldl_taskTurn_none f after hrest]

/-- A message request changes nothing of the island. -/
@[simp] theorem msixReq_island (l : Ld) (vec : Nat) : (msixReq s l vec).island = s.island := by
  unfold msixReq
  split
  · rfl
  · split <;> rfl

/-- The end of a background command leaves the other mailboxes as they are. -/
theorem mb_mbDone_ne {y : Mbox} (hy : y ≠ mb) (x : St) (out : List Byte) : (mbDone s mb x out).mb y = s.mb y := by
  have hsame {t u : State} (h : t.island = u.island) : t.mb y = u.mb y := congrArg (fun i => i.mboxes[y]) h
  unfold mbDone
  split
  · exact mb_modMb_ne s hy _
  · dsimp only
    split
    · split
      · exact (hsame (msixReq_island _ _)).trans (mb_modMb_ne s hy _)
      · exact mb_modMb_ne s hy _
    · exact mb_modMb_ne s hy _

/-- A format changes no mailbox. -/
@[simp] theorem mb_formatFlash (y : Mbox) : (formatFlash s c).mb y = s.mb y := rfl

/-- A channel's own number names it. -/
theorem chOf_val (c : Ch) : chOf c.val = some c := by simp [chOf]

/-- The only background command under way, a format, ends with CAP_FMT. -/
theorem mediaStep_format (hothers : ∀ y : Mbox, y ≠ mb → (s.mb y).bg = none) (hbg : (s.mb mb).bg = some (.mediaFormat c.val)) :
    mediaStep s = mbDone (formatFlash s c) mb .ok (natLe ((formatFlash s c).marl c).flash.capFmt 8) := by
  rw [mediaStep, forTasks_only hbg hothers]
  · simp only [chOf_val]
  · intro y hy
    simp only [chOf_val]
    rw [mb_mbDone_ne hy, mb_formatFlash]

/-- The only background command under way, a discard, ends. -/
theorem mediaStep_discard (hothers : ∀ y : Mbox, y ≠ mb → (s.mb y).bg = none) (hbg : (s.mb mb).bg = some (.mediaDiscard c.val)) :
    mediaStep s = mbDone s mb .ok [] := by
  rw [mediaStep, forTasks_only hbg hothers]
  exact fun y hy => mb_mbDone_ne hy _ _

/-! ## The statement -/

/-- Settles O54: each event passes its checks to its effect, each media command arrives where Kiln serves it, and one that is alone ends in its own turn. -/
theorem mediaCommandsRun : Obligations.MediaCommandsRun := by
  refine ⟨fun c s hup ht2 => ⟨fun st group k hk => ⟨?programmed, ?failure⟩, fun hhold => ?held⟩,
    fun c s hup => ⟨fun unit hmapped => ?read, fun group sb hsb he => ⟨?eraseFails, ?eraseEnds⟩, ?die⟩, ?temperature,
    fun mb inp c s hc hn hb => ⟨?format, ?flush, fun hl hgood => ⟨?discard, ?secure⟩⟩,
    fun mb c s hothers => ⟨mediaStep_format hothers, mediaStep_discard hothers⟩⟩
  case programmed => exact fun hj => exec_stripeProgrammed_oldest (k := k) hup ht2 hj hk
  case failure => exact fun member hmember => exec_programFailure_oldest (k := k) hup ht2 hmember hk
  case held =>
    have hrun := marlRuns_unheld hup ht2 hhold
    exact ⟨fun st group o => exec_stripePad_filled hrun, fun k => exec_collection_victim hrun, fun group sb => exec_stripeBlockErase_ready hrun,
      exec_checkpoint_long hrun, exec_anchorWrite_durable hrun, exec_journalPageProgrammed_due hrun⟩
  case read =>
    obtain ⟨hrebuilt, hlost⟩ := exec_nandRead_rebuild hup hmapped
    rw [countSteps_toRebuild] at hrebuilt hlost
    exact ⟨exec_nandRead_decoded hup hmapped, hrebuilt, hlost⟩
  case eraseFails => exact fun members => exec_eraseFailure_erasing members hup hsb he
  case eraseEnds => exact exec_eraseComplete_erasing hup hsb he
  case die =>
    intro die hdie hnew
    have hfails := congrArg (Host.Outcome.next (φ := Fault) (ρ := Refusal)) (dieFails_first hup hdie hnew)
    exact ⟨hfails, hfails⟩
  case temperature => exact fun c celsius s => exec_temperatureSample_due
  case format =>
    intro h hl hup hdies huse
    exact next_of_served (mbServes_rec h).1 rfl (runMediaFormat_idle h hl hc hn hb hup hdies huse)
  case flush =>
    intro h hl hk hup ht2
    exact next_of_served (mbServes_rec h).1 rfl (runMediaFlush_formatted h hl hk hc hn hb hup ht2)
  case discard => exact fun h => next_of_served (mbServes_rec h).1 rfl (runMediaDiscard_inRange h hl hc hn hb hgood)
  case secure => exact fun h => next_of_served (mbServes_rec h).1 rfl (runMediaSecureDiscard_inRange h hl hc hn hb hgood)

end Sys2Proof.Proofs
end

section
/-! SUPPORT. CXL.mem requests: what a DPA names, how a request that nothing holds back is served, and which requests the lapse of a lease refuses
(R318 to R322, R329, R333, R345), with the statement about requests that nothing maps. -/

namespace Sys2Proof.Proofs
open Sys2Proof Sys2Proof.Machine

variable {s t : State} {l : Ld} {c : Ch} {dpa t1 par : Nat} {own : Bool} {env : Env} {g : Grant} {data : List Byte} {be : BitVec 64}

/-- The number of a logical device names it. -/
@[simp] theorem ldOf_val (l : Ld) : ldOf l.val = some l := dif_pos l.isLt

/-! ## What a command's surroundings leave -/

/-- What a command's surroundings show maps nothing anew, and changes no logical device and no region. -/
@[simp] theorem targetOf_takeEnv (a : Nat) : targetOf (takeEnv s c env) l a = targetOf s l a := rfl

@[simp] theorem inDb_takeEnv (a : Nat) : inDb (takeEnv s c env) l a = inDb s l a := rfl

@[simp] theorem ld_takeEnv : (takeEnv s c env).ld l = s.ld l := rfl

@[simp] theorem regionAt_takeEnv (idx : Nat) : regionAt (takeEnv s c env) idx = regionAt s idx := rfl

/-- Nor does it stop a channel. -/
@[simp] theorem isUp_takeEnv : isUp (takeEnv s c env) c = isUp s c := by
  simp [isUp, takeEnv, modHealth, addLost, rotKeys]

/-- Nor put a request at a line. -/
@[simp] theorem entryAt_takeEnv (line : Nat) : entryAt (takeEnv s c env) c line = entryAt s c line := by
  simp [entryAt, takeEnv, modHealth, addLost, rotKeys]

/-! ## What a DPA names -/

/-- A DPA that no window of the static partition and no extent above it maps (R319, R324, R305). -/
theorem targetOf_unmapped
    (hwin : ∀ w ∈ winsOf s l, w.valid = true → dpa < staticLen s l → ¬ (w.dpa ≤ dpa ∧ dpa < w.dpa + w.len))
    (hext : ∀ g ∈ s.island.grants, g.live = true → g.ld = l.val → (g.part < 2 ∨ s.host.flit256 = true) → staticLen s l ≤ dpa →
      ¬ (g.dpa ≤ dpa ∧ dpa < g.dpa + g.len)) :
    targetOf s l dpa = .unmapped := by
  unfold targetOf
  split
  case isTrue hlow =>
    split
    · next w hfind =>
      have hmaps := List.find?_some hfind
      simp only [Bool.and_eq_true, decide_eq_true_eq] at hmaps
      exact absurd hmaps.2 (hwin w (List.mem_of_find?_eq_some hfind) hmaps.1 hlow)
    · rfl
  case isFalse hhigh =>
    split
    · next g hfind =>
      have hmaps := List.find?_some hfind
      simp only [Bool.and_eq_true, Bool.or_eq_true, beq_iff_eq, decide_eq_true_eq] at hmaps
      obtain ⟨⟨⟨hlive, hld⟩, hpart⟩, hin⟩ := hmaps
      exact absurd hin (hext g (List.mem_of_find?_eq_some hfind) hlive hld hpart (Nat.le_of_not_lt hhigh))
    · rfl

/-- Above the static partition a DPA names an extent or nothing (R318). -/
theorem targetOf_high (hhigh : ¬ dpa < staticLen s l) :
    (∃ c g t1, targetOf s l dpa = .extent c g t1) ∨ targetOf s l dpa = .unmapped := by
  rw [targetOf, if_neg hhigh]
  split
  · split
    · exact .inl ⟨_, _, _, rfl⟩
    · exact .inr rfl
  · exact .inr rfl

/-- What a window maps lies below the HDM-DB partitions, which alone a lapse refuses (R318, R333). -/
theorem inDb_window (h : (∃ c owner t1, targetOf s l dpa = .frame c owner t1) ∨ ∃ c t1, targetOf s l dpa = .meta_ c t1) : inDb s l dpa = false := by
  have hlow : dpa < staticLen s l := by
    by_contra hhigh
    rcases targetOf_high hhigh with ⟨_, _, _, he⟩ | he <;> simp [he] at h
  rw [inDb, decide_eq_false_iff_not]
  omega

/-! ## The arrival of a request -/

/-- A request that is served without its turn is served at once. -/
theorem hostArrive_served {f : SnoopFor} (before : Option Snoop → Bool) (h : ∀ turn, hostServe s turn f = (t, none)) :
    hostArrive s before l dpa f = t := by
  unfold hostArrive
  split
  · simp [arriveAt, h]
  · rw [h]

/-- A request to a line of an extent at which nothing waits has its turn. -/
theorem hostArrive_free {f : SnoopFor} (before : Option Snoop → Bool) (htgt : targetOf s l dpa = .extent c g t1)
    (hfree : entryAt s c (t1 / 64) = none) (h : hostServe s true f = (t, none)) : hostArrive s before l dpa f = t := by
  simp [hostArrive, htgt, arriveAt, hfree, h]

/-- The state in which a read is served: where it reaches a channel's T1, the lines that its command names as lost are taken up (R345). -/
def readState (s : State) (env : Env) : Target → State
  | .frame c _ _ => takeEnv s c env
  | .extent c _ _ => takeEnv s c env
  | _ => s

theorem readState_cases (s : State) (env : Env) (x : Target) : readState s env x = s ∨ ∃ c : Ch, readState s env x = takeEnv s c env := by
  cases x with
  | frame c _ _ => exact .inr ⟨c, rfl⟩
  | extent c _ _ => exact .inr ⟨c, rfl⟩
  | meta_ _ _ => exact .inl rfl
  | unmapped => exact .inl rfl

/-- Whatever is taken up, the partitions and the logical devices are as they were. -/
theorem readState_keeps (s : State) (env : Env) (l : Ld) (x : Target) (a : Nat) :
    inDb (readState s env x) l a = inDb s l a ∧ (readState s env x).ld l = s.ld l := by
  rcases readState_cases s env x with h | ⟨c, h⟩
  · rw [h]
    exact ⟨rfl, rfl⟩
  · rw [h]
    exact ⟨inDb_takeEnv a, ld_takeEnv⟩

/-- A read that reaches the device (R345). -/
theorem exec_cxlMemRead (hmem : memEnabled s l = true) :
    exec (.cxlMemRead l dpa own env) s = .next (memReadReq (readState s env (targetOf s l (dpa / 64 * 64))) l (dpa / 64 * 64) own) := by
  show execCxlMemRead l dpa own env s = _
  simp only [execCxlMemRead, hmem]
  cases targetOf s l (dpa / 64 * 64) <;> rfl

/-- A write that reaches the device (R345). -/
theorem exec_cxlMemWrite (hmem : memEnabled s l = true) :
    exec (.cxlMemWrite l dpa data be) s = .next (memWriteReq s l (dpa / 64 * 64) data be) := by
  show execCxlMemWrite l dpa data be s = _
  rw [execCxlMemWrite, if_pos hmem]

/-! ## What the lapse of a lease refuses (R333) -/

/-- A lease that has not lapsed, or a DPA outside the HDM-DB partitions, refuses nothing. -/
theorem not_refused (hlease : inDb s l dpa = true → (s.ld l).lapsed = false) : ¬ (inDb s l dpa = true ∧ (s.ld l).lapsed = true) :=
  fun ⟨hdb, hlapsed⟩ => Bool.false_ne_true ((hlease hdb).symm.trans hlapsed)

theorem memReadReq_lapsed (hdb : inDb s l dpa = true) (hlapsed : (s.ld l).lapsed = true) : memReadReq s l dpa own = refuseRead s l aeLapsed :=
  hostArrive_served _ (fun turn => by simp [hostServe, hdb, hlapsed, endAdm])

theorem memWriteReq_lapsed (hdb : inDb s l dpa = true) (hlapsed : (s.ld l).lapsed = true) :
    memWriteReq s l dpa data be = refuseWrite s l aeLapsed :=
  hostArrive_served _ (fun turn => by simp [hostServe, hdb, hlapsed, endAdm])

/-! ## Requests outside extents (R319 to R322) -/

/-- A read of a DPA that no extent maps is served by what the DPA names. -/
theorem memReadReq_target (hlease : inDb s l dpa = true → (s.ld l).lapsed = false) (hext : ∀ c g t1, targetOf s l dpa ≠ .extent c g t1) :
    memReadReq s l dpa own = readTarget s l (targetOf s l dpa) := by
  refine hostArrive_served _ (fun turn => ?_)
  cases htgt : targetOf s l dpa with
  | extent c g t1 => exact absurd htgt (hext c g t1)
  | _ => simp [hostServe, not_refused hlease, htgt, endAdm]

/-- A write likewise. -/
theorem memWriteReq_target (hlease : inDb s l dpa = true → (s.ld l).lapsed = false) (hext : ∀ c g t1, targetOf s l dpa ≠ .extent c g t1) :
    memWriteReq s l dpa data be = writeTarget s l dpa data be (targetOf s l dpa) := by
  refine hostArrive_served _ (fun turn => ?_)
  cases htgt : targetOf s l dpa with
  | extent c g t1 => exact absurd htgt (hext c g t1)
  | _ => simp [hostServe, not_refused hlease, htgt, endAdm]

/-- Settles O44: a request is served by what its DPA names, which is nothing, or a metadata window. -/
theorem unmappedAndReadOnlyAccesses : Obligations.UnmappedAndReadOnlyAccesses := by
  intro l dpa own env data be s hmem a flag
  refine ⟨fun hlease hwin hext => ?unmapped, fun c t1 hmeta => ?readOnly⟩
  case unmapped =>
    have htgt : targetOf s l a = .unmapped := targetOf_unmapped hwin hext
    have hread : memReadReq s l a own = refuseRead s l aeUnmapped := by
      rw [memReadReq_target hlease (by simp [htgt]), htgt]
      rfl
    have hwrite : memWriteReq s l a data be = refuseWrite s l aeUnmapped := by
      rw [memWriteReq_target hlease (by simp [htgt]), htgt]
      rfl
    refine ⟨?_, (exec_cxlMemWrite hmem).trans (congrArg _ hwrite)⟩
    rw [exec_cxlMemRead hmem, htgt]
    exact congrArg _ hread
  case readOnly =>
    have hdb : inDb s l a = false := inDb_window (.inr ⟨c, t1, hmeta⟩)
    have hwrite : memWriteReq s l a data be = refuseWrite s l aeRoWrite := by
      rw [memWriteReq_target (by simp [hdb]) (by simp [hmeta]), hmeta]
      rfl
    exact (exec_cxlMemWrite hmem).trans (congrArg _ hwrite)

end Sys2Proof.Proofs
end

section
/-! SUPPORT. LAPSED of a logical device (R333): what clears it, and what a stop of rings leaves of it, with the statement about the lapse of a lease. -/

namespace Sys2Proof.Proofs
open Sys2Proof Sys2Proof.Machine

variable {s : State} {l : Ld} {c : Ch}

/-! ## What clears LAPSED, and what leaves it -/

/-- A logical device after a change of one. -/
theorem ld_modLd (x : Ld) (f : LdState → LdState) : (modLd s x f).ld l = if l = x then f (s.ld x) else s.ld l := by
  split
  · next h => rw [h, ld_modLd_same]
  · next h =>
    have hne : x.val ≠ l.val := fun e => h (Fin.ext e.symm)
    simp [modLd, State.ld, Vector.getElem_set_ne _ _ hne]

/-- Once LAPSED is cleared for every one of some logical devices, it is 0 for each of them. -/
theorem lapsed_clearAll (ls : List Ld) (h : l ∈ ls ∨ (s.ld l).lapsed = false) :
    ((ls.foldl (fun t x => modLd t x (fun d => { d with lapsed := false })) s).ld l).lapsed = false := by
  induction ls generalizing s with
  | nil => simpa using h
  | cons x xs ih =>
    refine ih ?_
    by_cases hx : l = x
    · exact .inr (by simp [hx])
    · exact h.imp (fun hmem => (List.mem_cons.1 hmem).resolve_left hx) (fun hl => by simp [ld_modLd, hx, hl])

/-- A message request leaves LAPSED. -/
theorem lapsed_msixReq (x : Ld) (vec : Nat) : ((msixReq s x vec).ld l).lapsed = (s.ld l).lapsed := by
  unfold msixReq
  split
  · rfl
  · split
    · rfl
    · rw [ld_modLd]
      split
      · next h => rw [h]
      · rfl

/-- The end of a descriptor's counts is in its channel and in the island (R53, R359). -/
theorem lds_dropUses (r : Sys2Proof.Ring) : (dropUses s c r).lds = s.lds := by
  show (List.foldl regionEnd _ _).lds = s.lds
  refine List.foldlRecOn (motive := fun t : State => t.lds = s.lds) _ _ ?_ (fun t ht _ _ => ht)
  exact List.foldlRecOn (motive := fun t : State => t.lds = s.lds) _ _ rfl (fun t ht _ _ => ht)

/-- A gate add is in the channels. -/
theorem lds_gateAddTo (dst gate n : Nat) : (gateAddTo s c dst gate n).1.lds = s.lds := by
  rcases gateAddTo_cases (s := s) (c := c) (g := gate) dst n with h | ⟨v, h⟩ | ⟨d, q, h⟩
  · rw [h]
  · obtain ⟨rs, x, hset⟩ := gateSet_modCh s c gate v
    rw [h, hset, modCh_lds]
  · rw [h, modCh_lds]

/-- A retire leaves LAPSED: of the logical devices it reaches the pending messages alone (R147). -/
theorem lapsed_retire1 (r : Sys2Proof.Ring) (x : Cpl) (adds : Bool) : ((retire1 s c r x adds).ld l).lapsed = (s.ld l).lapsed := by
  unfold retire1
  extract_lets h add x' vec written unheld added
  have hwritten : unheld.lds = s.lds := by
    simp [unheld, written, clearGuard, writeCpl, drawFree, lds_dropUses]
  have hadded : added.lds = s.lds := by
    simp only [added]
    split
    · rw [lds_gateAddTo, hwritten]
    · exact hwritten
  have hkept : (added.ld l).lapsed = (s.ld l).lapsed := by simp only [State.ld, hadded]
  clear_value added
  split
  · split
    · rw [lapsed_msixReq, hkept]
    · exact hkept
  · exact hkept

theorem lapsed_abortSome (n : Nat) (r : Sys2Proof.Ring) : ((abortSome n s c r).ld l).lapsed = (s.ld l).lapsed := by
  induction n generalizing s with
  | zero => rfl
  | succ n ih => rw [abortSome, ih, lapsed_retire1]

/-- A stop leaves LAPSED: it ends descriptors (R173). -/
theorem lapsed_stopRing (r : Sys2Proof.Ring) : ((stopRing s c r).ld l).lapsed = (s.ld l).lapsed := by
  unfold stopRing
  extract_lets u
  have hu : (u.ld l).lapsed = (s.ld l).lapsed := rfl
  clear_value u
  split <;> simp only [abortRest, lapsed_abortSome, lapsed_retire1, hu]

/-- Settles O45: the lapse is tested before anything that the DPA names; what ends it clears the bit last, or only stops rings after it. -/
theorem lapsedAccesses : Obligations.LapsedAccesses := by
  refine ⟨fun l dpa own env data be s hmem hlapsed hlo hhi => ?refused, fun l s => ⟨?linkUp, ?bind, ?flr, ?cxlReset⟩⟩
  case refused =>
    have hdb : inDb s l (dpa / 64 * 64) = true := decide_eq_true ⟨hlo, hhi⟩
    refine ⟨⟨readState s env (targetOf s l (dpa / 64 * 64)), readState_cases _ _ _, ?_⟩, ?_⟩
    · obtain ⟨hdbKept, hldKept⟩ := readState_keeps s env l (targetOf s l (dpa / 64 * 64)) (dpa / 64 * 64)
      rw [exec_cxlMemRead hmem]
      exact congrArg _ (memReadReq_lapsed (hdbKept.trans hdb) (by rw [hldKept, hlapsed]))
    · exact (exec_cxlMemWrite hmem).trans (congrArg _ (memWriteReq_lapsed hdb hlapsed))
  case linkUp =>
    intro rate f hl htrains
    exact ⟨_, (congrArg Host.Outcome.next (if_neg (by simp [htrains])) : execHostLinkUp rate f s = _), lapsed_clearAll _ (.inl hl)⟩
  case bind => intro hmld; exact ⟨_, (congrArg Host.Outcome.next (if_pos hmld) : execLdBind l s = _), by rw [ld_modLd_same]⟩
  case flr => exact ⟨_, rfl, by rw [ld_modLd_same]⟩
  case cxlReset =>
    refine ⟨_, rfl, ?_⟩
    refine List.foldlRecOn (motive := fun t : State => (t.ld l).lapsed = false) _ _ (by rw [ld_modLd_same]) (fun t ht c _ => ?_)
    refine List.foldlRecOn (motive := fun t : State => (t.ld l).lapsed = false) _ _ ht (fun u hu r _ => ?_)
    split
    · rw [lapsed_stopRing, hu]
    · exact hu

end Sys2Proof.Proofs
end

section
/-! SUPPORT. CXL.mem requests to extents (R326, R329, R345, R349, R358), and the statement about the requests that are served. -/

namespace Sys2Proof.Proofs
open Sys2Proof Sys2Proof.Machine

variable {s t : State} {l : Ld} {c : Ch} {dpa t1 par : Nat} {own : Bool} {g : Grant} {data : List Byte} {be : BitVec 64}

/-! ## T1 under an owner's key (R334, R345) -/

/-- A read of a line that is not orphaned, with its owner's key, answers its plaintext. -/
theorem hostReadLine_reads {owner : Nat} {bs : List Byte} (hkey : keyHere (useKey s c owner) c owner = true)
    (horphan : t1 / 64 ∉ ((useKey s c owner).ch c).t1Orphan) (hread : memRead (useKey s c owner) c owner t1 64 = (some bs, t)) :
    hostReadLine s l c owner t1 = emit t (.readData l.val bs) := by
  simp [hostReadLine, hkey, horphan, hread]

/-- A write of a whole line stores its bytes. -/
theorem hostWriteLine_whole {owner : Nat} (hkey : keyHere (useKey s c owner) c owner = true) :
    hostWriteLine s c owner t1 data (BitVec.allOnes 64) = memWrite (useKey s c owner) c false owner t1 (bsub data 0 64) := by
  simp [hostWriteLine, hkey]

/-! ## Requests to an extent's line at which nothing waits (R329, R349, R358) -/

/-- A read whose turn it is, and that needs nothing of the line's holders where it has any. -/
theorem readLine_go (hneed : isDb g.part = true → readNeed s c l (t1 / 64) own = .go) (adm : Nat × Nat) :
    readLine s l c g t1 dpa own true adm =
      (regionEnd (hostReadLine (if isDb g.part then grantHold s c l (t1 / 64) own else s) l c g.owner.toNat t1) adm, none) := by
  have hgo : (if isDb g.part then readNeed s c l (t1 / 64) own else .go) = .go := ite_eq_right_iff.2 hneed
  rw [readLine, hgo]
  rfl

/-- A write likewise, where the write-back queue has room (R246). -/
theorem writeLine_go (hneed : isDb g.part = true → writeNeed s c l (t1 / 64) = .go)
    (hroom : be ≠ 0 → wbHolds s c false t1 (if be = BitVec.allOnes 64 then 64 else 63) = false) (adm : Nat × Nat) :
    writeLine s l c g t1 dpa data be true adm =
      (regionEnd (emit (hostWriteLine s c g.owner.toNat t1 data be) (.writeDone l.val)) adm, none) := by
  have hgo : (if isDb g.part then writeNeed s c l (t1 / 64) else .go) = .go := ite_eq_right_iff.2 hneed
  have hmade : ¬ (be ≠ 0 ∧ wbHolds s c false t1 (if be = BitVec.allOnes 64 then 64 else 63) = true) :=
    fun ⟨hbe, hheld⟩ => Bool.false_ne_true ((hroom hbe).symm.trans hheld)
  rw [writeLine, hgo]
  exact if_neg hmade

section
variable (htgt : targetOf s l dpa = .extent c g t1) (hlease : inDb s l dpa = true → (s.ld l).lapsed = false)
  (hfree : entryAt s c (t1 / 64) = none) (hup : isUp s c = true)
include htgt hlease hfree hup

/-- A read of an extent's line that the region admits is served, and its admission ends. -/
theorem memReadReq_extent (hadm : admitTest (regionAt s (regIdx g.region.toNat)) 0 l.val 0 rightRead = .ok par)
    (hneed : isDb g.part = true → readNeed (regionCount s (regIdx g.region.toNat) par) c l (t1 / 64) own = .go) :
    memReadReq s l dpa own =
      let u := regionCount s (regIdx g.region.toNat) par
      regionEnd (hostReadLine (if isDb g.part then grantHold u c l (t1 / 64) own else u) l c g.owner.toNat t1) (regIdx g.region.toNat, par) := by
  exact hostArrive_free _ htgt hfree (by simp [hostServe, not_refused hlease, htgt, readExtent, hup, lineAdmit, hadm, lineCount, readLine_go hneed])

/-- A write likewise. -/
theorem memWriteReq_extent (hadm : admitTest (regionAt s (regIdx g.region.toNat)) 0 l.val 0 rightWrite = .ok par)
    (hneed : isDb g.part = true → writeNeed (regionCount s (regIdx g.region.toNat) par) c l (t1 / 64) = .go)
    (hroom : be ≠ 0 → wbHolds (regionCount s (regIdx g.region.toNat) par) c false t1 (if be = BitVec.allOnes 64 then 64 else 63) = false) :
    memWriteReq s l dpa data be =
      regionEnd (emit (hostWriteLine (regionCount s (regIdx g.region.toNat) par) c g.owner.toNat t1 data be) (.writeDone l.val))
        (regIdx g.region.toNat, par) := by
  exact hostArrive_free _ htgt hfree (by simp [hostServe, not_refused hlease, htgt, writeExtent, hup, lineAdmit, hadm, lineCount, writeLine_go hneed hroom])

end

/-- Settles O46: windows by what the DPA names, extents by the rule of a line at which nothing waits, and the answers to snoops by their own rows. -/
theorem hostMemoryAccessesRun : Obligations.HostMemoryAccessesRun := by
  refine ⟨?requests, fun c l line s hany => ⟨fun hasked => congrArg _ (if_pos hasked), congrArg _ (if_pos hany)⟩,
    fun c l line s hasked => congrArg _ (if_pos hasked)⟩
  intro l dpa own env data be s c hmem hup a u
  refine ⟨?frame, ?metadata, ?extent⟩
  case frame =>
    intro owner t1 htgt
    have hdb : inDb s l a = false := inDb_window (.inl ⟨c, owner, t1, htgt⟩)
    have hread : memReadReq u l a own = hostReadLine u l c owner t1 := by
      rw [memReadReq_target (by simp [u, hdb]) (by simp [u, htgt])]
      simp [u, htgt, readTarget, hup]
    have hwrite : memWriteReq s l a data be = emit (hostWriteLine s c owner t1 data be) (.writeDone l.val) := by
      rw [memWriteReq_target (by simp [hdb]) (by simp [htgt]), htgt, writeTarget, if_pos hup]
    refine ⟨?_, (exec_cxlMemWrite hmem).trans (congrArg _ hwrite), fun bs t hkey horphan hk => hostReadLine_reads hkey horphan hk, hostWriteLine_whole⟩
    rw [exec_cxlMemRead hmem, htgt]
    exact congrArg _ hread
  case metadata =>
    intro t1 htgt
    have hdb : inDb s l a = false := inDb_window (.inr ⟨c, t1, htgt⟩)
    have hread : memReadReq s l a own = emit s (.readData l.val (mdLine s c (t1 - mdBase s c))) := by
      rw [memReadReq_target (by simp [hdb]) (by simp [htgt]), htgt, readTarget, if_pos hup]
    rw [exec_cxlMemRead hmem, htgt]
    exact congrArg _ hread
  case extent =>
    intro g t1 par htgt i room hfree hlease
    have hread (hadm : admitTest (regionAt s i) 0 l.val 0 rightRead = .ok par)
        (hneed : isDb g.part = true → readNeed (regionCount u i par) c l (t1 / 64) own = .go) :
        exec (.cxlMemRead l dpa own env) s =
          .next (regionEnd (hostReadLine (if isDb g.part then grantHold (regionCount u i par) c l (t1 / 64) own else regionCount u i par) l c
            g.owner.toNat t1) (i, par)) := by
      rw [exec_cxlMemRead hmem, htgt]
      exact congrArg _ (memReadReq_extent (s := u) htgt hlease ((entryAt_takeEnv _).trans hfree) (isUp_takeEnv.trans hup) hadm hneed)
    have hwrite (hadm : admitTest (regionAt s i) 0 l.val 0 rightWrite = .ok par)
        (hneed : isDb g.part = true → writeNeed (regionCount s i par) c l (t1 / 64) = .go) (hroom : room (regionCount s i par)) :
        exec (.cxlMemWrite l dpa data be) s = .next (regionEnd (emit (hostWriteLine (regionCount s i par) c g.owner.toNat t1 data be)
          (.writeDone l.val)) (i, par)) :=
      (exec_cxlMemWrite hmem).trans (congrArg _ (memWriteReq_extent htgt hlease hfree hup hadm hneed hroom))
    refine ⟨fun hpart hadm => ?_, fun hpart hadm hroom => ?_, fun hpart hadm hneed => ?_, fun hpart hadm hneed hroom => ?_⟩
    · have hh : isDb g.part = false := decide_eq_false (by omega)
      simpa [hh] using hread hadm (by simp [hh])
    · exact hwrite hadm (by simp [isDb]; omega) hroom
    · have hdb : isDb g.part = true := decide_eq_true hpart
      simpa [hdb] using hread hadm (fun _ => hneed)
    · exact hwrite hadm (fun _ => hneed) hroom

end Sys2Proof.Proofs
end

section
/-! SUPPORT. The T0 window of a host (R235, R313, R317): a burst by its pieces, what one piece does to T0 and what a read then answers, and the
statement about them. -/

namespace Sys2Proof.Proofs
open Sys2Proof Sys2Proof.Machine Sys2Proof.Laws

variable {s : State} {l : Ld} {c : Ch} {o n : Nat} {data : List Byte}

/-! ## When CXL.io reaches a channel -/

/-- CXL.io reaches a function over a link that is up (R338). -/
theorem hostUp_of_ioUp (hio : ioUp s l = true) : s.host.up = true := by
  simp only [ioUp, Bool.and_eq_true] at hio
  exact hio.1.1

/-- What it takes for an access of a host to reach a channel. -/
theorem hostReaches_iff : hostReaches s l c = true ↔ ioUp s l = true ∧ ldOfCh s c = some l ∧ isUp s c = true := by
  simp [hostReaches, and_assoc]

/-! ## The pieces of a burst -/

/-- Nothing is left of an empty burst. -/
theorem t0Pieces_nil (n off : Nat) : t0Pieces n off [] = [] := by
  cases n <;> rfl

/-- The first piece of a burst ends at the next 64-byte boundary. -/
theorem t0Pieces_succ (hdata : data ≠ []) (n off : Nat) :
    t0Pieces (n + 1) off data = (off, data.take (64 - off % 64)) :: t0Pieces n (off + (64 - off % 64)) (data.drop (64 - off % 64)) := by
  rw [t0Pieces, if_neg (by simpa using hdata)]

/-- A burst within one line is one piece. -/
theorem t0Pieces_one {off : Nat} (hpos : 0 < data.length) (hline : off / 64 = (off + data.length - 1) / 64) :
    t0Pieces data.length off data = [(off, data)] := by
  have hfit : data.length ≤ 64 - off % 64 := by omega
  obtain ⟨n, hn⟩ : ∃ n, data.length = n + 1 := ⟨data.length - 1, by omega⟩
  rw [hn, t0Pieces_succ (List.length_pos_iff.1 hpos), List.take_of_length_le hfit, List.drop_of_length_le hfit, t0Pieces_nil]

/-- A burst where CXL.io reaches the device is its pieces, one after the other (log 178). -/
theorem exec_t0WindowWrite (hio : ioUp s l = true) {off : Nat} (hlen : 4 ≤ data.length) :
    exec (.t0WindowWrite l off data) s = .next ((t0Pieces data.length off data).foldl (fun t x => t0Piece t l x.1 x.2) s) := by
  show execT0WindowWrite l off data s = _
  rw [execT0WindowWrite, if_neg (by simp [hio]; omega)]

/-! ## One access of a channel's window -/

/-- The offset of a byte of a channel's T0 in BAR2 names that channel and that byte, and lies in a line as the byte does (R317). -/
theorem windowOff_names (c : Ch) (ho : o < 0x1000000) (hline : o / 64 = (o + n - 1) / 64) (hpos : 0 < n) :
    let off := c.val * 0x1000000 + o
    chOf (off / 0x1000000) = some c ∧ off % 0x1000000 = o ∧ off / 64 = (off + n - 1) / 64 := by
  have hdiv : (c.val * 0x1000000 + o) / 0x1000000 = c.val := by omega
  exact ⟨by rw [hdiv, chOf, dif_pos c.isLt], by omega, by omega⟩

section
variable {off : Nat} (hr : hostReaches s l c = true) (hch : chOf (off / 0x1000000) = some c) (hbyte : off % 0x1000000 = o)
include hr hch hbyte

/-- A piece that reaches the channel is dropped in an engine private area, and written anywhere else (R235). -/
theorem t0Piece_reaches : t0Piece s l off data = if touchesPriv o data.length then s else t0Write s c o data := by
  obtain ⟨-, hld, hup⟩ := hostReaches_iff.1 hr
  unfold t0Piece
  rw [hch, hbyte]
  dsimp only
  rw [if_neg (by simp [hld]), if_neg (by simp [hup])]

/-- A read that reaches the channel answers the bytes of T0, and changes nothing else. -/
theorem exec_t0WindowRead (hlo : 4 ≤ n) (hhi : n ≤ 64) (hline : off / 64 = (off + n - 1) / 64) :
    exec (.t0WindowRead l off n) s = .next (emit s (.readData l.val (t0Read s c o n))) := by
  obtain ⟨hio, hld, hup⟩ := hostReaches_iff.1 hr
  have hlink : s.host.up = true := hostUp_of_ioUp hio
  have hok : t0AccessOk off n = true := decide_eq_true ⟨hlo, hhi, hline⟩
  show execT0WindowRead l off n s = _
  rw [execT0WindowRead, if_neg (by simp [hlink, hok]), if_neg (by simp [hio]), hch, hbyte]
  dsimp only
  rw [if_neg (by simp [hld]), if_neg (by simp [hup])]

end

/-- A write of T0 takes no channel from the host. -/
theorem hostReaches_t0Write (a : Nat) : hostReaches (t0Write s c a data) l c = hostReaches s l c := by
  have hup : isUp (t0Write s c a data) c = isUp s c := by simp [isUp, t0Write]
  rw [hostReaches, hup]
  rfl

/-- Settles O47: an access within a line is one piece, which is a write of T0; its read is that of a canonical memory just written. -/
theorem t0WindowReadsWhatItWrote : Obligations.T0WindowReadsWhatItWrote := by
  intro l c o data s hr hmem ho hlo hhi hline off
  obtain ⟨hio, -, -⟩ := hostReaches_iff.1 hr
  obtain ⟨hch, hbyte, hoffLine⟩ : chOf (off / 0x1000000) = some c ∧ off % 0x1000000 = o ∧ off / 64 = (off + data.length - 1) / 64 :=
    windowOff_names c ho hline (by omega)
  clear_value off
  have hwrite : exec (.t0WindowWrite l off data) s = .next (if touchesPriv o data.length then s else t0Write s c o data) := by
    rw [exec_t0WindowWrite hio hlo, t0Pieces_one (by omega) hoffLine, List.foldl_cons, List.foldl_nil, t0Piece_reaches hr hch hbyte]
  have hrising : smRising none (s.ch c).t0 = true := (wf_iff.1 (Bool.and_eq_true_iff.1 hmem).1).1
  refine ⟨fun hpriv => ?priv, fun hfree => ⟨t0Write s c o data, ?done, ?readBack, fun a ha => ?frame, fun d hd => ch_modCh_ne s hd _⟩,
    fun burst start hlen => ⟨exec_t0WindowWrite hio hlen, t0Pieces_one (by omega), fun _ => ?split⟩⟩
  case priv => rw [hwrite, if_pos hpriv]
  case done => rw [hwrite, if_neg (by simp [hfree])]
  case readBack =>
    rw [exec_t0WindowRead ((hostReaches_t0Write _).trans hr) hch hbyte hlo hhi hoffLine]
    simp [t0Read, t0Write, read_bytes hrising]
  case frame =>
    rw [t0Write, ch_modCh_same]
    exact (get_bytes hrising).trans (dif_neg (by omega))
  case split =>
    obtain ⟨n, hn⟩ : ∃ n, burst.length = n + 1 := ⟨burst.length - 1, by omega⟩
    exact ⟨n, by rw [hn, t0Pieces_succ (List.length_pos_iff.1 (by omega))]⟩

end Sys2Proof.Proofs
end

section
/-! SUPPORT. Host-port events (R304, R306, R307, R331 to R333, R338), HDM decoders (R323) and the unmasking of a vector (R340) where nothing is in their
way, and the statement about them. -/

namespace Sys2Proof.Proofs
open Sys2Proof Sys2Proof.Machine

variable {s : State} {l : Ld} {i : Fin 8} {d : HdmDecoder} {vec : Nat}

/-! ## HDM decoders (R323) -/

/-- A decoder whose fields are allowed and whose range lies within the partitions. -/
theorem decoderOk_of (hways : d.ways ∈ [1, 2, 3, 4, 6, 8, 12, 16]) (hgran : d.gran ∈ [256, 512, 1024, 2048, 4096, 8192, 16384]) (hsize : 0 < d.size)
    (hspan : decoderBase s l i + decoderSpan d ≤ staticLen s l + 4 * 2 ^ 40) : decoderOk s l i d = true := by
  simp only [decoderOk, Bool.and_eq_true, decide_eq_true_eq, List.contains_iff_mem]
  exact ⟨⟨⟨hways, hgran⟩, hsize⟩, hspan⟩

/-- A commit at a function that is there, and that no fence holds, is made at once. -/
theorem exec_hdmDecoderCommit (hcxl : s.host.cxl = true) (hio : ioUp s l = true) (hfence : ldFenced s l = false) :
    exec (.hdmDecoderCommit l i d) s = .next (commitDecoder l i d s) := by
  show execHdmDecoderCommit l i d s = _
  rw [execHdmDecoderCommit, if_neg (by simp [hcxl, hio]), if_neg (by simp [hfence])]

/-! ## Vectors (R340) -/

/-- A vector's unmasking at a function that is there sends what is pending on it. -/
theorem exec_msixUnmask (hvec : vec < 2048) (hio : ioUp s l = true) :
    exec (.msixUnmask l (some vec)) s =
      .next (msixFlush (modLd s l (fun d => { d with unmasked := if d.unmasked.contains vec then d.unmasked else d.unmasked ++ [vec] })) l vec) := by
  show execMsixUnmask l (some vec) s = _
  rw [execMsixUnmask, if_neg (by simp [hio])]
  exact congrArg _ (if_neg (by omega))

/-- A vector that is unmasked at a function that is not sends its pending message. -/
theorem msixFlush_pending (hpend : vec ∈ (s.ld l).pba) (hopen : vec ∈ (s.ld l).unmasked) (hfunc : (s.ld l).funcMask = false) (hup : s.host.up = true) :
    msixFlush s l vec = emit (modLd s l (fun d => { d with pba := d.pba.filter (fun x => x != vec) })) (msixMsg s l vec) := by
  simp [msixFlush, hpend, hopen, hfunc, hup]

/-- Nothing pending, nothing sent. -/
theorem msixFlush_quiet (hpend : vec ∉ (s.ld l).pba) : msixFlush s l vec = s := by
  simp [msixFlush, hpend]

/-- Settles O48: the events are their own equations, decoders by the checks of a commit, vectors by what is pending. -/
theorem hostPortEventsRun : Obligations.HostPortEventsRun := by
  refine ⟨fun ev s => rfl, fun rate f s => ⟨fun hno => ?refused, fun htakes => ?trains⟩,
    fun l s => ⟨rfl, ?cxlReset, fun hmld => ⟨congrArg _ (if_pos hmld), congrArg _ (if_pos hmld)⟩⟩,
    fun l i d s hcxl hio hfence hways hgran hsize hspan => ?allowed, fun l i d s hcxl hio hfence hbad => ?notAllowed,
    fun l vec s hvec hio => ⟨fun hpend hfunc => ?pending, fun hnone => ?quiet⟩, fun phase s => rfl⟩
  case refused =>
    have htrains : trains s rate.gtps rate.width = false := hno
    exact congrArg _ (if_pos (by simp [htrains]))
  case trains =>
    have htrains : trains s rate.gtps rate.width = true := htakes
    exact congrArg _ (if_neg (by simp [htrains]))
  case cxlReset =>
    show execCxlReset l s = _
    simp only [execCxlReset, Bool.not_eq_true']
  case allowed => rw [exec_hdmDecoderCommit hcxl hio hfence, commitDecoder, if_pos (decoderOk_of hways hgran hsize hspan)]
  case notAllowed => rw [exec_hdmDecoderCommit hcxl hio hfence, commitDecoder, if_neg (by simp [hbad])]
  case pending =>
    have hup : s.host.up = true := hostUp_of_ioUp hio
    rw [exec_msixUnmask hvec hio]
    refine congrArg _ ((msixFlush_pending ?_ ?_ ?_ ?_).trans ?_)
    · simpa using hpend
    · rw [ld_modLd_same]
      dsimp only
      split
      · next h => exact List.contains_iff_mem.1 h
      · simp
    · simpa using hfunc
    · exact hup
    · simp [msixMsg]
  case quiet => exact (exec_msixUnmask hvec hio).trans (congrArg _ (msixFlush_quiet (by simpa using hnone)))

end Sys2Proof.Proofs
end

section
/-! SUPPORT. Messages at an endpoint (R341, R342, R402), SPDM (R440, R441), IDE (R458, R459) and the I3C address (R343), and the statement about them. -/

namespace Sys2Proof.Proofs
open Sys2Proof Sys2Proof.Machine

variable {s : State} {ep : Endpoint}

/-! ## MCTP messages -/

/-- A CCI message of a length that is reassembled runs its command at the endpoint's mailbox, which answers by a message. -/
theorem exec_cci {op : BitVec 16} {inp : List Byte} (start : StartReport) (answered : List Ch) (hep : epUp s ep = true) (hlen : inp.length ≤ 4096)
    (hserves : mbServesRec s (epMb ep) op.toNat = true) :
    exec (.mctpMessage ep (.cci op inp start answered)) s =
      .next (runMessage (epMb ep) op.toNat inp start answered (modMb s (epMb ep) (fun m => { m with via := some (ep, op.toNat) }))) := by
  show execMctpMessage ep (.cci op inp start answered) s = _
  rw [execMctpMessage, if_neg (by simp [hep]), if_neg (by simpa [mctpMax] using hlen), mbEnter_message hserves]
  rfl

/-- An FM-API message runs at the sideband's mailbox, where the endpoint is served by it. -/
theorem exec_fmApi {op : BitVec 16} {inp : List Byte} (start : StartReport) (answered : List Ch) (hep : epUp s ep = true) (hlen : inp.length ≤ 4096)
    (hmb : epMb ep = sidebandMb) (hserves : mbServesRec s sidebandMb op.toNat = true) :
    exec (.mctpMessage ep (.fmApi op inp start answered)) s =
      .next (runMessage sidebandMb op.toNat inp start answered (modMb s sidebandMb (fun m => { m with via := some (ep, op.toNat) }))) := by
  show execMctpMessage ep (.fmApi op inp start answered) s = _
  rw [execMctpMessage, if_neg (by simp [hep]), if_neg (by simpa [mctpMax] using hlen), if_pos hmb, mbEnter_message hserves]
  rfl

/-- An FM-API message at another endpoint is answered with the MCTP error. -/
theorem exec_fmApi_error {op : BitVec 16} {inp : List Byte} (start : StartReport) (answered : List Ch) (hep : epUp s ep = true)
    (hlen : inp.length ≤ 4096) (hmb : epMb ep ≠ sidebandMb) :
    exec (.mctpMessage ep (.fmApi op inp start answered)) s = .next (emit s (.mctpError ep 0x07)) := by
  show execMctpMessage ep (.fmApi op inp start answered) s = _
  rw [execMctpMessage, if_neg (by simp [hep]), if_neg (by simpa [mctpMax] using hlen), if_neg hmb]

/-- An MCTP control command of a length that is reassembled. -/
theorem exec_control {cmd : Byte} {data : List Byte} (hep : epUp s ep = true) (hlen : data.length ≤ 4096) :
    exec (.mctpMessage ep (.control cmd data)) s = .next (mctpControl s ep cmd data) := by
  show execMctpMessage ep (.control cmd data) s = _
  rw [execMctpMessage, if_neg (by simp [hep]), if_neg (by simpa [mctpMax] using hlen)]

/-- A control command outside the four that are served (log 152). -/
theorem mctpControl_unsupported {cmd : Byte} (data : List Byte) (h : cmd.toNat ∉ [1, 2, 4, 5]) :
    mctpControl s ep cmd data = emit s (.mctp ep 0 [cmd, 5]) := by
  simp only [List.mem_cons, List.not_mem_nil, or_false, not_or] at h
  obtain ⟨h1, h2, h4, h5⟩ := h
  unfold mctpControl
  dsimp only
  split
  · contradiction
  · contradiction
  · contradiction
  · contradiction
  · rfl

/-- `SetTime` as a message sets host time (R409). -/
theorem runMessage_setTime {mb : Mbox} {inp : List Byte} (start : StartReport) (answered : List Ch) (hrec : s.island.kiln ≠ .recovery)
    (hlen : inp.length = 8) :
    runMessage mb 0xC002 inp start answered s = mbSt (modIsland s (fun i => { i with hostTime := BitVec.ofNat 64 (leNat inp) })) mb 0xC002 .ok := by
  show runSetTime mb inp s = _
  simp [runSetTime, mbRun, hrec, hlen]

/-! ## SPDM -/

/-- Free values drawn advance their count alone (log 1). -/
theorem free32_state (s : State) : (free32 s).2 = { s with freeCount := s.freeCount + 4 } := rfl

/-- So does a signature, whose random number is a free value. -/
theorem spdmSign_state (s : State) (context : String) (transcript : List Byte) :
    (spdmSign s context transcript).2 = { s with freeCount := s.freeCount + 4 } := rfl

/-- GET_MEASUREMENTS of an index and a slot that there are is not refused (R441). -/
theorem measurements_notRefused {req : MeasReq} (hidx : req.idx = 0xFF ∨ req.idx.toNat ≤ 5) (hslot : req.slot.toNat ≤ 1) :
    ¬ ((req.idx ≠ 0xFF ∧ 5 < req.idx.toNat) ∨ (req.sign = true ∧ 1 < req.slot.toNat)) := by
  rintro (⟨hne, hgt⟩ | ⟨-, hgt⟩)
  · exact hidx.elim hne (fun hle => by omega)
  · omega

/-- KEY_EXCHANGE of a slot that there is, with fewer than eight sessions, opens one; free values alone are drawn for its answer (R440). -/
theorem exec_keyExchange_opens {req : KexReq} (hep : epUp s ep = true) (hslot : req.slot.toNat ≤ 1) (hroom : s.host.sessions.length < 8) :
    ∃ (t : State) (bs : List Byte), exec (.keyExchange ep req) s = .next (spdmSend (modHost t (fun h =>
        { h with sessions := h.sessions ++ [(s.host.nextSess, ep)], nextSess := s.host.nextSess + 1 })) ep
      ([0x12, 0x64, BitVec.ofNat 8 (Config.spdmParam 3), 0] ++ natLe s.host.nextSess 2 ++ bs)) ∧
      t.host = s.host ∧ t.island = s.island ∧ t.chans = s.chans := by
  show ∃ (t : State) (bs : List Byte), execKeyExchange ep req s = _ ∧ _
  rw [execKeyExchange, if_neg (by simp [hep]), if_neg (by omega), if_neg (by omega)]
  extract_lets n a k t ask body g v
  have hsent : body ++ g.1 ++ v.1 = [0x12, 0x64, BitVec.ofNat 8 (Config.spdmParam 3), 0] ++ natLe n 2 ++
      ([0, 0] ++ a.1 ++ sm2Pub (leNat k.1) ++ measSummary s req.summary ++ [0, 0] ++ g.1 ++ v.1) := by
    simp only [body, List.append_assoc]
  have hdrawn : v.2 = { s with freeCount := s.freeCount + 4 + 4 + 4 + 4 } := by
    simp only [v, g, k, a, free32_state, spdmSign_state]
  rw [hsent, hdrawn]
  exact ⟨_, _, rfl, rfl, rfl, rfl⟩

/-- A request of the subset, of version 1.2 or GET_VERSION, is not refused as unsupported (R440). -/
theorem spdm_supported {req : SpdmReq} (hver : req.code.toNat = 0x84 ∨ req.version = 0x12)
    (hcode : req.code.toNat ∈ spdmOpen ∨ req.code.toNat ∈ spdmInSession) :
    ¬ (((!spdmOpen.contains req.code.toNat) = true ∧ (!spdmInSession.contains req.code.toNat) = true) ∨
      (req.code.toNat ≠ 0x84 ∧ req.version ≠ 0x12)) := by
  rintro (⟨hopen, hsess⟩ | ⟨hcode', hver'⟩)
  · simp only [Bool.not_eq_true', List.contains_eq_mem, decide_eq_false_iff_not] at hopen hsess
    exact hcode.elim hopen hsess
  · exact hver.elim hcode' hver'

/-- The requests that need no session and are answered from the build. -/
theorem exec_spdmRequest_plain {req : SpdmReq} {bs : List Byte} (hep : epUp s ep = true) (hver : req.code.toNat = 0x84 ∨ req.version = 0x12)
    (hcode : req.code.toNat ∈ [0x81, 0x82, 0x84, 0xE1, 0xE3]) (hplain : spdmPlain s.build req = some bs) :
    exec (.spdmRequest ep req) s =
      .next (spdmSend (setTalk s ep (talkNext (talkOf s ep) req.code.toNat (spdmBytes req ++ bs))) ep bs) := by
  have hopen : req.code.toNat ∈ spdmOpen := (by decide : ([0x81, 0x82, 0x84, 0xE1, 0xE3] : List Nat) ⊆ spdmOpen) hcode
  have hne : req.code.toNat ≠ 0x83 := fun h => absurd (h ▸ hcode) (by decide)
  show execSpdmRequest ep req s = _
  rw [execSpdmRequest, if_neg (by simp [hep])]
  dsimp only
  rw [if_neg (spdm_supported hver (.inl hopen)), if_neg hne, if_pos (List.contains_iff_mem.2 hopen), hplain]

/-- CHALLENGE of a slot that there is. -/
theorem exec_spdmRequest_challenge {req : SpdmReq} (hep : epUp s ep = true) (hver : req.code.toNat = 0x84 ∨ req.version = 0x12)
    (hcode : req.code.toNat = 0x83) (hslot : req.param1.toNat ≤ 1) : exec (.spdmRequest ep req) s = .next (spdmChallenge s ep req) := by
  show execSpdmRequest ep req s = _
  rw [execSpdmRequest, if_neg (by simp [hep])]
  dsimp only
  rw [if_neg (spdm_supported hver (.inl (by simp [hcode, spdmOpen]))), if_pos hcode, if_neg (by omega)]

/-- A request of a session that is open at the endpoint. -/
theorem exec_spdmRequest_session {req : SpdmReq} {n : Nat} (hep : epUp s ep = true) (hver : req.code.toNat = 0x84 ∨ req.version = 0x12)
    (hcode : req.code.toNat ∈ spdmInSession) (hsess : req.session = some n) (hopen : (n, ep) ∈ s.host.sessions) :
    exec (.spdmRequest ep req) s =
      let t := if req.code.toNat = 0xEC then modHost s (fun h => { h with sessions := h.sessions.filter (fun x => !(some n == some x.1 && x.2 == ep)) }) else s
      .next (spdmSend t ep [0x12, BitVec.ofNat 8 (req.code.toNat % 128), req.param1, req.param2]) := by
  have hclosed : req.code.toNat ∉ spdmOpen := (by decide : ∀ k ∈ spdmInSession, k ∉ spdmOpen) _ hcode
  have hne : req.code.toNat ≠ 0x83 := fun h => absurd (h ▸ hcode) (by decide)
  have hany : s.host.sessions.any (fun x => req.session == some x.1 && x.2 == ep) = true :=
    List.any_eq_true.2 ⟨(n, ep), hopen, by simp [hsess]⟩
  show execSpdmRequest ep req s = _
  rw [execSpdmRequest, if_neg (by simp [hep])]
  dsimp only
  rw [if_neg (spdm_supported hver (.inr hcode)), if_neg hne, if_neg (by simpa using hclosed), if_neg (by simp [hany]), hsess]

/-- A request outside the subset is answered UnsupportedRequest. -/
theorem exec_spdmRequest_unsupported {req : SpdmReq} (hep : epUp s ep = true)
    (hcode : req.code.toNat ∉ [0x81, 0x82, 0x83, 0x84, 0xE1, 0xE3, 0xE5, 0xE8, 0xE9, 0xEC, 0xFE]) :
    exec (.spdmRequest ep req) s = .next (spdmSend s ep [0x12, 0x7F, 0x07, 0]) := by
  have hout : req.code.toNat ∉ spdmOpen ++ spdmInSession := hcode
  rw [List.mem_append, not_or] at hout
  show execSpdmRequest ep req s = _
  rw [execSpdmRequest, if_neg (by simp [hep])]
  dsimp only
  rw [if_pos (.inl ⟨by simpa using hout.1, by simpa using hout.2⟩)]
  rfl

/-! ## IDE -/

/-- A request of IDE_KM in an open session whose endpoint's transport works (R458). -/
theorem exec_ideKm_open {session : Nat} (req : IdeKmReq) (hfind : s.host.sessions.find? (fun x => x.1 == session) = some (session, ep))
    (hep : epUp s ep = true) :
    exec (.ideKm session req) s = .next (emit (modHost s (fun h =>
      ideSet h (ideStream req) (ideDo (ideGet h (ideStream req)) req))) (.mctp ep 0x06 (natLe session 2))) := by
  show execIdeKm session req s = _
  rw [execIdeKm, hfind]
  dsimp only
  rw [if_neg (by simp [hep])]

/-- A stream in use loses its keys and becomes Insecure (R459). -/
theorem exec_ideIntegrityFail_active {st : IdeStream} (hactive : (ideGet s.host st).active ≠ []) :
    exec (.ideIntegrityFail st) s =
      let t := modHost s (fun h => ideSet h st { ideGet s.host st with keys := [], active := [], insecure := true })
      .next (if st = .linkMem then hostDown t else t) := by
  show execIdeIntegrityFail st s = _
  rw [execIdeIntegrityFail]
  exact congrArg _ (if_neg (by simpa using hactive))

/-- Settles O52: each message goes past the checks of its endpoint to the command, request or answer that it names. -/
theorem messagesAreAnswered : Obligations.MessagesAreAnswered := by
  refine ⟨fun ep s hep => ⟨fun flags eid => ?setEid, fun cmd data hcmd hlen => ?unsupported,
      fun op inp start answered hlen => ⟨?cci, ?fmApi, ?fmError, ?setTime⟩,
      fun t => congrArg _ (if_neg (by simp [hep]))⟩,
    fun ep req s hep hidx hslot => ?measurements, fun ep req s hep hslot hroom => exec_keyExchange_opens hep hslot hroom,
    fun ep req s hep hver => ⟨fun bs hcode hplain => exec_spdmRequest_plain hep hver hcode hplain, fun hcode => ?version, fun hcode => ?digests,
      fun hcode hslot => exec_spdmRequest_challenge hep hver hcode hslot,
      fun hcode n hsess hopen => exec_spdmRequest_session hep hver hcode hsess hopen, exec_spdmRequest_unsupported hep⟩,
    fun session ep req s hfind hep => exec_ideKm_open req hfind hep, fun st s hactive => exec_ideIntegrityFail_active hactive,
    fun s hside a sa => ?i3c⟩
  case setEid => exact exec_control hep (by simp)
  case unsupported => rw [exec_control hep hlen, mctpControl_unsupported data hcmd]
  case cci => exact fun hserves => exec_cci start answered hep hlen hserves
  case fmApi => exact fun hmb hserves => exec_fmApi start answered hep hlen hmb hserves
  case fmError => exact fun hmb => exec_fmApi_error start answered hep hlen hmb
  case setTime =>
    intro hop hserves hinp
    obtain ⟨hrec, hrun⟩ := mbServes_rec hserves
    have hval : op.toNat = 0xC002 := by rw [hop]; rfl
    rw [exec_cci start answered hep hlen (hval ▸ hrec), hval]
    exact congrArg _ (runMessage_setTime start answered hrun hinp)
  case measurements =>
    show execGetMeasurements ep req s = _
    rw [execGetMeasurements, if_neg (by simp [hep]), if_neg (measurements_notRefused hidx hslot)]
    rfl
  case version => simp [spdmPlain, hcode]
  case digests => simp [spdmPlain, hcode]
  case i3c =>
    exact ⟨congrArg _ (if_neg (by simp [hside])), fun hsa => (congrArg _ (if_neg (by simp [hside]))).trans (congrArg _ (if_pos hsa))⟩

end Sys2Proof.Proofs
end

section
/-! SUPPORT. The Slip unit's fill, copy, compare, reduction and atomic with nothing in their way (R363 to R368), and the statement about them. -/

namespace Sys2Proof.Proofs
open Sys2Proof Sys2Proof.Machine Sys2Proof.Laws

variable {s t : State} {c : Ch} {r : Sys2Proof.Ring} {env : Env} {u v : SlipUse} {us : List SlipUse} {dst : Option SlipUse} {p : SlipPlan}

/-! ## From the body to the operation (R364) -/

/-- A descriptor that has not been admitted counts in no region (R359). -/
theorem regs_of_fresh (h : freshHead s c r = true) : (s.ring c r).regs.isEmpty = true := by
  simp only [freshHead, wasAdmitted, Bool.not_eq_true', Bool.or_eq_false_iff, Bool.not_eq_false'] at h
  exact h.2

/-- A descriptor that has not been admitted has not begun. -/
theorem begun_of_fresh (h : freshHead s c r = true) : begun (s.ring c r).wait = false := by
  simp only [freshHead, wasAdmitted, Bool.not_eq_true', Bool.or_eq_false_iff] at h
  exact h.1.1

/-- A descriptor not admitted before, where every region that it names lets it in, is counted in each and goes on (R359). -/
theorem slipAdmit_ok {rs : List (Nat × List Nat)} (hfresh : freshHead s c r = true) (k : State → State)
    (hok : ∀ x ∈ rs, ∃ p, admitRegion s c x.1 x.2 = .ok p) :
    slipAdmit s c r rs k = k (rs.foldl (fun t x => match admitRegion s c x.1 x.2 with
      | .ok p => ringCount t c r x.1 p
      | _ => t) s) := by
  have hall : ∀ a ∈ rs.map (fun x => (x.1, admitRegion s c x.1 x.2)), ∃ p, a.2 = .ok p := by
    intro a ha
    obtain ⟨x, hx, rfl⟩ := List.mem_map.1 ha
    exact hok x hx
  unfold slipAdmit
  rw [if_neg (by simp [regs_of_fresh hfresh])]
  dsimp only
  split
  · next e he =>
    obtain ⟨a, ha, hsome⟩ := List.exists_of_findSome?_eq_some he
    obtain ⟨p, hp⟩ := hall a ha
    simp [hp] at hsome
  · split
    · next w hw =>
      obtain ⟨a, ha, hsome⟩ := List.exists_of_findSome?_eq_some hw
      obtain ⟨p, hp⟩ := hall a ha
      simp [hp] at hsome
    · exact congrArg k List.foldl_map

/-- The same for the regions of an operation's operands. -/
theorem slipAdmit_counted (hfresh : freshHead s c r = true) (k : State → State)
    (hok : (rightsOf us).all (fun x => match admitRegion s c x.1 x.2 with
      | .ok _ => true
      | _ => false) = true) : slipAdmit s c r (rightsOf us) k = k (slipCounted s c r us) := by
  refine (slipAdmit_ok hfresh k fun x hx => ?_).trans rfl
  have hx := List.all_eq_true.1 hok x hx
  cases hadm : admitRegion s c x.1 x.2 with
  | refuse e => simp [hadm] at hx
  | wait p => simp [hadm] at hx
  | ok p => exact ⟨p, rfl⟩

/-- A descriptor that has not begun goes through its checks, its admissions and its lines to its operation. -/
theorem slipRun_passes {whole : Bool} {t0s : List (Nat × Nat)} (k : State → SlipPlan) (hfresh : freshHead s c r = true)
    (hregions : regionsBad s us = none)
    (hadmit : (rightsOf us).all (fun x => match admitRegion s c x.1 x.2 with
      | .ok _ => true
      | _ => false) = true)
    (hchecks : slipBad (slipCounted s c r us) c us t0s = none)
    (hlines : ∀ f, onLines (slipCounted s c r us) c r (slipLines us) f = f (slipCounted s c r us))
    (hkeyed : slipKeyed (slipAt s c r us) us = true)
    (hheld : ¬ (whole = true ∧ dst.any (fun x => slipHeld (slipAt s c r us) (opCh x.op) x.op.addr x.len) = true)) :
    slipRun s c r us dst whole t0s k = slipEnd (k (slipAt s c r us)) c r dst := by
  have hbegun := begun_of_fresh hfresh
  unfold slipRun
  dsimp only
  split
  · next x hx =>
    rw [hx] at hbegun
    cases hbegun
  · rw [if_neg (by rw [hbegun]; decide), hregions]
    dsimp only
    rw [slipAdmit_counted hfresh _ hadmit, hchecks]
    dsimp only
    rw [hlines, ← slipAt, if_neg (not_bnot hkeyed), if_neg hheld]

/-- An operation with nothing in its way reads, and its writes begin. -/
theorem slipRun_clear {whole : Bool} {t0s : List (Nat × Nat)} (h : slipClear s c r us dst whole t0s = true) (k : State → SlipPlan) :
    slipRun s c r us dst whole t0s k = slipEnd (k (slipAt s c r us)) c r dst := by
  simp only [slipClear, Bool.and_eq_true, Option.isNone_iff_eq_none, Bool.not_eq_true'] at h
  obtain ⟨⟨⟨⟨⟨⟨⟨hfresh, hregions⟩, hadmit⟩, hchecks⟩, hready⟩, hon⟩, hkeyed⟩, hheld⟩ := h
  refine slipRun_passes k hfresh hregions hadmit hchecks (onLines_ready hready hon) hkeyed ?_
  rintro ⟨rfl, hd⟩
  exact absurd (hheld.symm.trans hd) (by decide)

/-- The writes of T1 that nothing makes wait are made line after line, and the descriptor retires. -/
theorem slipWrites_pass {d : Ch} {ls : List (List Byte)} {x : SlipCtx} (h : slipPasses ls s d x.owner x.addr = true) :
    slipWrites ls s c r d x = retire (slipMade ls s d x.owner x.addr) c r x.cpl := by
  induction ls generalizing s x with
  | nil => rfl
  | cons l ls ih =>
    simp only [slipPasses, slipHeld, Bool.and_eq_true, Bool.not_eq_true', Bool.or_eq_false_iff] at h
    obtain ⟨⟨hguard, hroom⟩, hrest⟩ := h
    rw [slipWrites, if_neg (by rw [hguard]; decide), if_neg (by rw [hroom]; decide)]
    exact ih hrest

/-- An operation whose writes nothing makes wait lands them and retires. -/
theorem slipEnd_free (h : slipFree p u = true) : slipEnd p c r (some u) = retire (slipLands p u) c r p.cpl := by
  simp only [slipFree, Bool.or_eq_true, beq_iff_eq] at h
  unfold slipEnd slipLands
  dsimp only
  by_cases hspace : u.op.space = 0
  · rw [if_pos hspace, if_pos hspace]
  · rw [if_neg hspace, if_neg hspace, slipWrites_pass (h.resolve_left hspace)]

/-- An operation with nothing in its way reads, lands its writes and retires. -/
theorem slipRun_lands {whole : Bool} {t0s : List (Nat × Nat)} (h : slipClear s c r us (some u) whole t0s = true) {k : State → SlipPlan}
    (hk : k (slipAt s c r us) = p) (hfree : slipFree p u = true) :
    slipRun s c r us (some u) whole t0s k = retire (slipLands p u) c r p.cpl := by
  rw [slipRun_clear h, hk, slipEnd_free hfree]

/-- The body of a copy or a compare that passes check 1 of R364. -/
theorem twoOperands_pass {a b : SlipOp} {d n : Nat} (ha : a.bad = false) (hb : b.bad = false) (hn : lenBad n = false) (hresv : fld d 831 128 = 0) :
    ¬ (a.bad = true ∨ b.bad = true ∨ lenBad n = true ∨ resv d 831 128 = true) :=
  not_or.2 ⟨ne_true_of_eq_false ha, not_or.2 ⟨ne_true_of_eq_false hb, not_or.2 ⟨ne_true_of_eq_false hn, not_resv hresv⟩⟩⟩

/-! ## The five operations (R363, R366 to R368) -/

/-- Settles O23: each body passes check 1 of R364, and its operation reads, lands its writes and retires. -/
theorem slipOperationsRun : Obligations.SlipOperationsRun := by
  refine ⟨fun c r env s hrun => ?fill, fun c r env s hrun => ?copy, fun c r env s hrun => ?compare, fun c r env s hrun => ?reduce,
    fun c r env s hrun => ?atomic⟩
  case fill =>
    intro d n u s1 hu hn h1 h2 hclear p hfree
    show execSlipFill c r env s = _
    rw [execSlipFill, runHead_runs hrun]
    exact congrArg _ ((if_neg (not_or.2 ⟨ne_true_of_eq_false hu, not_or.2 ⟨ne_true_of_eq_false hn, not_or.2 ⟨not_resv h1, not_resv h2⟩⟩⟩)).trans
      (slipRun_lands hclear rfl hfree))
  case copy =>
    intro d n u v s1 x hu hv hn h1 hclear p hfree
    show execSlipCopy c r env s = _
    rw [execSlipCopy, runHead_runs hrun]
    exact congrArg _ ((if_neg (twoOperands_pass hu hv hn h1)).trans
      (slipRun_lands hclear rfl hfree))
  case compare =>
    intro d n u v s1 hu hv hn h1 hclear y
    show execSlipCompare c r env s = _
    rw [execSlipCompare, runHead_runs hrun]
    exact congrArg _ ((if_neg (twoOperands_pass hu hv hn h1)).trans
      (slipRun_clear hclear _))
  case reduce =>
    intro d k list n u es vs s1 hu hsources hn hop h1 hclear s2 p hfree
    show execSlipReduce c r env s = _
    rw [execSlipReduce, runHead_runs hrun]
    dsimp only
    rw [runsNow_idle hrun]
    refine congrArg _ ((if_neg Bool.false_ne_true).trans ((if_neg (not_or.2 ⟨ne_true_of_eq_false hu, not_or.2 ⟨not_not.2 hn,
      not_or.2 ⟨hop, not_resv h1⟩⟩⟩)).trans ?_))
    rw [hsources]
    exact slipRun_lands hclear rfl hfree
  case atomic =>
    intro d w cas arg1 u s1 hu hspace halign hresp harg hcas h1 hclear bs t hread old new ws p hfree
    have hcas : ¬ ((!cas) = true ∧ resv d 813 686 = true) := fun ⟨hnot, hres⟩ => hcas.elim (fun h => not_bnot h hnot) (fun h => not_resv h hres)
    have hlines : (if cas = true ∧ old ≠ arg1 then [] else [natLe (atomicNew w cas old arg1 (fld d 813 686)) w]) = ws := by
      simp only [ws, new, atomicNew]
      cases cas with
      | false => simp
      | true => by_cases heq : old = arg1 <;> simp [heq]
    show execSlipAtomic c r env s = _
    rw [execSlipAtomic, runHead_runs hrun]
    refine congrArg _ ((if_neg (not_or.2 ⟨ne_true_of_eq_false hu, not_or.2 ⟨hspace, not_or.2 ⟨not_not.2 halign, not_or.2 ⟨not_not.2 hresp,
      not_or.2 ⟨Nat.not_le.2 harg, not_or.2 ⟨hcas, not_resv h1⟩⟩⟩⟩⟩⟩)).trans (slipRun_lands hclear ?_ hfree))
    dsimp only
    rw [hread]
    exact congrArg (fun ls => ({ lines := ls, cpl := cplRes .ok (old % 2 ^ 64), st := t0Write t c (fld d 685 662) (natLe old w) } : SlipPlan)) hlines

end Sys2Proof.Proofs
end

section
/-! SUPPORT. Slip operands in T0: no region, line or key is asked for, a source reads as one range, and the statement about copies and compares within T0
(R363 to R366). -/

namespace Sys2Proof.Proofs
open Sys2Proof Sys2Proof.Machine Sys2Proof.Laws

variable {s : State} {c : Ch} {r : Sys2Proof.Ring} {env : Env} {u v : SlipUse} {dst : Option SlipUse} {p q : SlipOp}

/-! ## Ranges read in pieces -/

/-- A read of two adjacent ranges is the read of both. -/
theorem read_append {m : SMap Byte} {a : Nat} (n k : Nat) : smRead m a (n + k) = smRead m a n ++ smRead m (a + n) k := by
  induction n generalizing a with
  | zero => simp [smRead]
  | succ n ih => rw [Nat.succ_add, smRead, ih, smRead, Nat.add_assoc a 1 n, Nat.add_comm 1 n, List.cons_append]

/-- The first difference of two strings is that of their first parts, or else that of the rest. -/
theorem firstDiff_append {xs ys xs' ys' : List Byte} {i : Nat} (h : xs.length = ys.length) :
    firstDiff i (xs ++ xs') (ys ++ ys') = (firstDiff i xs ys).or (firstDiff (i + xs.length) xs' ys') := by
  induction xs generalizing ys i with
  | nil =>
    obtain rfl := List.length_eq_zero_iff.1 h.symm
    rfl
  | cons x xs ih =>
    cases ys with
    | nil => cases h
    | cons y ys =>
      simp only [List.cons_append, firstDiff, List.length_cons]
      by_cases hxy : x = y
      · rw [if_pos hxy, if_pos hxy, ih (by simpa using h), Nat.add_assoc, Nat.add_comm 1]
      · rw [if_neg hxy, if_neg hxy]
        rfl

/-- A read of an operand in T0 is T0's, and changes nothing. -/
theorem opRead_t0 (h : p.space = 0) (o n : Nat) : opRead s p o n = (some (t0Read s (opCh p) (p.addr + o) n), s) := if_pos h

/-- All lines of a source in T0 are read, and are its range. -/
theorem readLines_t0 (h : p.space = 0) (k o : Nat) (acc : List (List Byte)) :
    ∃ ls, readLines p k o s acc = (acc.reverse ++ ls, true, s) ∧ ls.flatten = t0Read s (opCh p) (p.addr + o) (64 * k) := by
  induction k generalizing o acc with
  | zero => exact ⟨[], by simp [readLines], rfl⟩
  | succ k ih =>
    obtain ⟨ls, hlines, hflat⟩ := ih (o + 64) (t0Read s (opCh p) (p.addr + o) 64 :: acc)
    refine ⟨t0Read s (opCh p) (p.addr + o) 64 :: ls, ?_, ?_⟩
    · rw [readLines, opRead_t0 h]
      simpa using hlines
    · rw [List.flatten_cons, hflat, Nat.mul_succ, Nat.add_comm (64 * k), t0Read, t0Read, t0Read, read_append, Nat.add_assoc]

/-- A compare within T0 finds the first difference of the two ranges, and changes nothing. -/
theorem compareLines_t0 (hp : p.space = 0) (hq : q.space = 0) (k o : Nat) :
    compareLines p q k o s = (s, cplRes .ok ((firstDiff o (t0Read s (opCh p) (p.addr + o) (64 * k))
      (t0Read s (opCh q) (q.addr + o) (64 * k))).getD 0xFFFFFFFFFFFFFFFF)) := by
  induction k generalizing o with
  | zero => rfl
  | succ k ih =>
    have hsplit (x : SlipOp) : t0Read s (opCh x) (x.addr + o) (64 * (k + 1)) =
        t0Read s (opCh x) (x.addr + o) 64 ++ t0Read s (opCh x) (x.addr + (o + 64)) (64 * k) := by
      rw [Nat.mul_succ, Nat.add_comm (64 * k), t0Read, t0Read, t0Read, read_append, Nat.add_assoc]
    have hlength (x : SlipOp) : (t0Read s (opCh x) (x.addr + o) 64).length = 64 := read_length
    rw [hsplit, hsplit, firstDiff_append ((hlength p).trans (hlength q).symm), hlength, compareLines, opRead_t0 hp]
    dsimp only
    rw [opRead_t0 hq]
    dsimp only
    cases hdiff : firstDiff o (t0Read s (opCh p) (p.addr + o) 64) (t0Read s (opCh q) (q.addr + o) 64) with
    | some i => rfl
    | none => exact ih (o + 64)

/-! ## Operands in T0 (R363, R364) -/

/-- The channel that an operand names. -/
theorem opCh_eq {d : Ch} (h : p.ch = d.val) : opCh p = d := by
  simp [opCh, chOf, h]

/-- T0 does not lose lines: the surroundings show two operands in T0 no more than the keys that fail. -/
theorem slipEnv_t0 (hu : u.op.space = 0) (hv : v.op.space = 0) : slipEnv s [u, v] env = rotKeys s env.keyBad := by
  simp [slipEnv, hu, hv]

/-- Operands in T0 name no region. -/
theorem rightsOf_t0 (hu : u.op.space = 0) (hv : v.op.space = 0) : rightsOf [u, v] = [] := by
  simp [rightsOf, hu, hv, dedup]

/-- Operands in T0 are counted in no region. -/
theorem slipCounted_t0 (hu : u.op.space = 0) (hv : v.op.space = 0) : slipCounted s c r [u, v] = s := by
  rw [slipCounted, rightsOf_t0 hu hv]
  rfl

/-- Operands in T0 take no key. -/
theorem slipAt_t0 (hu : u.op.space = 0) (hv : v.op.space = 0) : slipAt s c r [u, v] = s := by
  rw [slipAt, slipCounted_t0 hu hv]
  simp [slipKeys, hu, hv]

/-- What checks 4 to 6 of R364 ask of an operand in T0: it lies within T0, it touches no area of the engines, and its channel is the ring's or one
that is up. -/
structure T0Reachable (s : State) (c : Ch) (u : SlipUse) : Prop where
  space : u.op.space = 0
  inside : inT0 u.op.addr u.len = true
  general : touchesPriv u.op.addr u.len = false
  up : opDown s c u = false

/-- The channel of an operand is the ring's, or up. -/
theorem t0Reachable_of_ch {d : Ch} {n right : Nat} (hspace : p.space = 0) (hin : inT0 p.addr n = true) (hgeneral : touchesPriv p.addr n = false)
    (hch : p.ch = d.val) (hup : d = c ∨ isUp s d = true) : T0Reachable s c { op := p, len := n, right } := by
  refine ⟨hspace, hin, hgeneral, ?_⟩
  rw [opDown, opCh_eq hch]
  rcases hup with rfl | hup
  · simp
  · simp [hup]

/-- A key that fails takes no channel down. -/
theorem T0Reachable.rotKeys (h : T0Reachable s c u) (slots : List Nat) : T0Reachable (rotKeys s slots) c u :=
  ⟨h.space, h.inside, h.general, h.up⟩

/-- An operation on two such operands reads at once, and its writes begin. -/
theorem slipRun_t0 (hfresh : freshHead s c r = true) (hu : T0Reachable s c u) (hv : T0Reachable s c v) (k : State → SlipPlan) :
    slipRun s c r [u, v] dst false [] k = slipEnd (k s) c r dst := by
  have hcounted : slipCounted s c r [u, v] = s := slipCounted_t0 hu.space hv.space
  have hat : slipAt s c r [u, v] = s := slipAt_t0 hu.space hv.space
  have hspace : ∀ x ∈ [u, v], x.op.space = 0 := by simp [hu.space, hv.space]
  have hlines : slipLines [u, v] = [] := by
    simp only [slipLines, List.append_eq_nil_iff, List.flatMap_eq_nil_iff]
    exact ⟨fun x hx => if_pos (hspace x (List.mem_of_mem_filter hx)), fun x hx => if_pos (hspace x (List.mem_of_mem_filter hx))⟩
  rw [slipRun_passes k hfresh]
  · rw [hat]
  · simp [regionsBad, hu.space, hv.space]
  · rw [rightsOf_t0 hu.space hv.space]
    rfl
  · simp [hcounted, slipBad, opRangeBad, opOutside, hu.space, hu.inside, hu.general, hu.up, hv.space, hv.inside, hv.general, hv.up]
  · intro f
    rw [hcounted, hlines]
    rfl
  · simp [slipKeyed, hu.space, hv.space]
  · simp

/-- From the surroundings on: the keys that fail are all that they show. -/
theorem slipRun_t0_env (hfresh : freshHead s c r = true) (hu : T0Reachable s c u) (hv : T0Reachable s c v) (k : State → SlipPlan) :
    slipRun (slipEnv s [u, v] env) c r [u, v] dst false [] k = slipEnd (k (rotKeys s env.keyBad)) c r dst := by
  have hfresh' : freshHead (rotKeys s env.keyBad) c r = true := hfresh
  rw [slipEnv_t0 hu.space hv.space, slipRun_t0 hfresh' (hu.rotKeys _) (hv.rotKeys _)]

/-- A write to T0 waits for nothing. -/
theorem slipEnd_t0 {p : SlipPlan} (h : u.op.space = 0) :
    slipEnd p c r (some u) = retire (t0Write p.st (opCh u.op) u.op.addr p.lines.flatten) c r p.cpl := if_pos h

/-- Settles O24: operands in T0 meet nothing in their way; the lines read are the source's range, and the writes are one write of it. -/
theorem slipOnStagingMemory : Obligations.SlipOnStagingMemory := by
  intro c r env s op hrun hfresh d n u v du dv hu hv hspaceU hspaceV hchU hchV hupU hupV hn hn64 hresv hinU hprivU hinV hprivV
  have hlen : lenBad n = false := by simp [lenBad, hn, hn64]
  have hmul : 64 * (n / 64) = n := by omega
  have reachU (right : Nat) : T0Reachable s c { op := u, len := n, right } := t0Reachable_of_ch hspaceU hinU hprivU hchU hupU
  have reachV (right : Nat) : T0Reachable s c { op := v, len := n, right } := t0Reachable_of_ch hspaceV hinV hprivV hchV hupV
  refine ⟨?copy, ?compare⟩
  case copy =>
    rintro rfl
    obtain ⟨ls, hread, hflat⟩ := readLines_t0 (s := rotKeys s env.keyBad) hspaceV (n / 64) 0 []
    show execSlipCopy c r env s = _
    rw [execSlipCopy, runHead_runs hrun]
    refine congrArg _ ((if_neg (twoOperands_pass hu hv hlen hresv)).trans ?_)
    rw [slipRun_t0_env hfresh (reachU _) (reachV _), slipEnd_t0 hspaceU]
    dsimp only
    rw [hread, List.reverse_nil, List.nil_append, hflat, hmul, opCh_eq hchU, opCh_eq hchV]
    rfl
  case compare =>
    rintro rfl
    show execSlipCompare c r env s = _
    rw [execSlipCompare, runHead_runs hrun]
    refine congrArg _ ((if_neg (twoOperands_pass hu hv hlen hresv)).trans ?_)
    rw [slipRun_t0_env hfresh (reachU _) (reachV _)]
    dsimp only
    rw [compareLines_t0 hspaceU hspaceV, hmul, opCh_eq hchU, opCh_eq hchV]
    rfl

end Sys2Proof.Proofs
end

section
/-! SUPPORT. Publishes under a channel's registration (R355, R359) and merges of partials (R171, R369) with nothing in their way, and the statement about
them. -/

namespace Sys2Proof.Proofs
open Sys2Proof Sys2Proof.Machine Sys2Proof.Laws

variable {s : State} {c : Ch} {r : Sys2Proof.Ring} {idx par : Nat} {expect root : Word64}

/-! ## Publishes -/

/-- A publish whose EXPECT is the version advances it and sets ROOT. -/
theorem publish_match (h : (regionAt s idx).version = expect) :
    publish s idx expect root =
      (true, (regionAt s idx).version, (regionAt s idx).root, modRegion s idx (fun g => { g with version := expect + 1, root })) := if_pos h

/-- A publish whose EXPECT is another version leaves the region. -/
theorem publish_conflict (h : (regionAt s idx).version ≠ expect) :
    publish s idx expect root = (false, (regionAt s idx).version, (regionAt s idx).root, s) := if_neg h

/-- A region that admits a descriptor with one right needed counts it (R359). -/
theorem slipAdmit_one {right : Nat} (hfresh : freshHead s c r = true) (hadmit : admitTest (regionAt s idx) 2 c.val 0 right = .ok par)
    (k : State → State) : slipAdmit s c r [(idx, [right])] k = k (ringCount s c r idx par) := by
  have hregion : admitRegion s c idx [right] = .ok par := hadmit
  rw [slipAdmit_ok hfresh k (by simpa using ⟨par, hregion⟩), List.foldl_cons, List.foldl_nil, hregion]

/-- A publish that passes its checks answers the word found, and retires by whether it won. -/
theorem exec_slipPublish_admitted (hrun : runsNow s c r 0x25 = true) (hfresh : freshHead s c r = true) :
    let d := headDesc s c r
    let i := regIdx (fld d 1023 992)
    let resp := fld d 863 840
    resp % 16 = 0 → fld d 839 128 = 0 → regionCheck s (fld d 1023 992) = none → admitTest (regionAt s i) 2 c.val 0 rightPublish = .ok par →
    inT0 resp 16 = true → touchesPriv resp 16 = false →
    let p := publish (ringCount s c r i par) i (BitVec.ofNat 64 (fld d 991 928)) (BitVec.ofNat 64 (fld d 927 864))
    let t := t0Write p.2.2.2 c resp (natLe (p.2.1.toNat * 2 ^ 64 + p.2.2.1.toNat) 16)
    exec (.slipPublish c r) s =
      .next (if p.1 then retire t c r (cplRes .ok (p.2.1 + 1).toNat) else retire t c r (cplRes .versionConflict p.2.1.toNat)) := by
  intro d i resp halign hresv hcheck hadmit hin hpriv
  show execSlipPublish c r s = _
  rw [execSlipPublish, runHead_runs hrun]
  dsimp only
  rw [if_neg (not_or.2 ⟨not_not.2 halign, not_resv hresv⟩), if_pos (regs_of_fresh hfresh), hcheck]
  dsimp only
  rw [slipAdmit_one hfresh hadmit, if_neg (not_or.2 ⟨not_bnot hin, ne_true_of_eq_false hpriv⟩)]

/-! ## Merges -/

/-- A list of partials none of which is refused. -/
theorem find_partialBad_none {size : Nat} {vs : List Nat} (h : vs.any (partialBad size) = false) :
    vs.zipIdx.find? (fun v => partialBad size v.1) = none := by
  rw [List.find?_eq_none]
  intro v hv
  exact List.any_eq_false.1 h _ (List.fst_mem_of_mem_zipIdx hv)

/-- Settles O25: a publish by whether its EXPECT is the version, and a merge past its checks to its rows. -/
theorem publishesAndMergesRun : Obligations.PublishesAndMergesRun := by
  refine ⟨fun c r s hrun hfresh => ?publish, fun c r env s hrun => ?merge⟩
  case publish =>
    intro d i resp expect par halign hresv hcheck hadmit hin hpriv u g word
    have hexec := exec_slipPublish_admitted hrun hfresh halign hresv hcheck hadmit hin hpriv
    refine ⟨fun hmatch => ?_, fun hconflict => ?_⟩
    · have hresult : cplRes .ok ((regionAt u i).version + 1).toNat = cplRes .ok (expect + 1).toNat := by rw [hmatch]
      rw [hexec, publish_match hmatch]
      dsimp only
      rw [if_pos rfl, hresult]
    · rw [hexec, publish_conflict hconflict]
      exact congrArg _ (if_neg Bool.false_ne_true)
  case merge =>
    intro d k list dest n dim fi fo hresv hdim hfi hfo size out vs parts m hin hpriv halign hinD hprivD hbad hup
    show execMerge c r env s = _
    rw [execMerge, runHead_runs hrun]
    dsimp only
    rw [if_neg (not_or.2 ⟨not_resv hresv, Nat.not_le.2 hdim⟩), hfi, hfo]
    dsimp only
    rw [if_neg (not_or.2 ⟨not_bnot hin, not_or.2 ⟨ne_true_of_eq_false hpriv, not_or.2 ⟨not_not.2 halign,
      not_or.2 ⟨not_bnot hinD, ne_true_of_eq_false hprivD⟩⟩⟩⟩), find_partialBad_none hbad]
    exact congrArg _ (if_neg (ne_true_of_eq_false hup))

end Sys2Proof.Proofs
end

section
/-! SUPPORT. The region commands (R346 to R361) and the link port's connection, window and key commands (R376, R377, R392, R396) of a mailbox with nothing in
their way, and the statement about them. -/

namespace Sys2Proof.Proofs
open Sys2Proof Sys2Proof.Machine Sys2Proof.Laws

variable {s t : State} {mb : Mbox} {inp : List Byte} {c : Ch} {r : Sys2Proof.Ring} {op : Nat}

/-! ## From the arrival of a command to its effect -/

/-- A foreground command written into a mailbox that serves it, with a payload of its length, answers what its effect is. -/
theorem served_fg {n : Nat} {i : Instr} {k : State → State} (h : mbServes s mb op = true) (hv : viaOf i = none) (hlen : inp.length = n) (hk : k s = t) :
    (.next (mbEnter s mb op i (fun s => mbRun s mb op false false (inp.length == n) k)) : Host.Outcome State Fault Refusal) = .next t :=
  next_of_served (mbServes_rec h).1 hv ((mbRun_serves_fg h (beq_iff_eq.2 hlen) k).trans hk)

/-- So does a background command, where the mailbox has none under way (R407). -/
theorem served_bg {n : Nat} {i : Instr} {k : State → State} (h : mbServes s mb op = true) (hv : viaOf i = none) (hlen : inp.length = n)
    (hbg : (s.mb mb).bg = none) (hk : k s = t) :
    (.next (mbEnter s mb op i (fun s => mbRun s mb op false true (inp.length == n) k)) : Host.Outcome State Fault Refusal) = .next t :=
  next_of_served (mbServes_rec h).1 hv ((mbRun_serves h (beq_iff_eq.2 hlen) (fun _ => hbg) k).trans hk)

/-- A command of the fabric manager, at a mailbox of its rights (R309, R401). -/
theorem mbFmOnly_fm (h : mbFm s mb = true) (k : State) : mbFmOnly s mb op k = k := if_pos h

/-- A command on an identity that passes R348. -/
theorem mbOnRegion_good {id : Nat} (h : regionCheck s id = none) (k : Nat → State) : mbOnRegion s mb op id k = k (regIdx id) := by
  rw [mbOnRegion, h]

/-- A foreground link command on a port that its mailbox may name has its effect there. -/
theorem linkCmd_fg {n : Nat} (h : mbServes s mb op = true) (hlen : inp.length = n) (hch : chOf (bnum inp 0 1) = some c)
    (hnames : mbNamesCh s mb c = true) (k : State → Ch → State) : linkCmd s mb op false inp n k = k s c :=
  (mbRun_serves_fg h (beq_iff_eq.2 hlen) _).trans (mbOnCh_of_chOf hch hnames _)

/-- So has a background link command, where the mailbox has none under way (R407). -/
theorem linkCmd_bg {n : Nat} (h : mbServes s mb op = true) (hlen : inp.length = n) (hbg : (s.mb mb).bg = none)
    (hch : chOf (bnum inp 0 1) = some c) (hnames : mbNamesCh s mb c = true) (k : State → Ch → State) : linkCmd s mb op true inp n k = k s c :=
  (mbRun_serves h (beq_iff_eq.2 hlen) (fun _ => hbg) _).trans (mbOnCh_of_chOf hch hnames _)

/-! ## The commands -/

/-- Settles O53: each command that its mailbox serves goes past its checks to its effect, and the two events find what waited for them. -/
theorem regionAndConnectionCommandsRun : Obligations.RegionAndConnectionCommandsRun := by
  refine ⟨fun mb inp s => ⟨fun c hserves hfm hlen hch howner hfree hup ht2 t hnodes => ?create,
    fun hfm hgood => ⟨fun c hserves hlen hch hup hhome => ?setHome,
      fun hserves hlen hfields => ⟨fun i hfound hrevoked => ?changes, fun hnone hkind hroom => ?adds⟩,
      fun hserves hlen hbg hvalid => ?revoke, fun hserves hlen hbg hgrants => ?release⟩,
    fun l p hserves hlen hld hgood hadmit => ?publish, fun hserves hlen => served_fg hserves rfl hlen rfl,
    fun c hch hnames hup => ⟨fun hserves hlen hfields hclosed t hnodes => ?connSet,
        fun hserves hlen hconn hlow hhigh hopen => ?connReset,
        fun hserves hlen hbg hconn => ?connClose, fun hserves hlen hconn => ?connQuery,
        fun hserves hlen hidx => ⟨fun hinvalid => ?windowClear, fun hvalid hfree t hnodes => ?windowSet⟩,
        fun hserves hlen hidx hresv hrights => ?keySet⟩⟩,
    fun idx s hrevokes => congrArg _ (if_neg (mt List.isEmpty_iff.1 hrevokes)), fun c r s idx par hwait hdrain => ?resume⟩
  case create =>
    refine served_fg hserves rfl hlen ((mbFmOnly_fm hfm _).trans ?_)
    dsimp only
    rw [hch]
    dsimp only
    rw [if_neg (Nat.not_le.2 howner), if_neg (by rw [hfree]; decide), if_neg (not_not.2 hfree), if_neg (not_bnot hup), if_neg (not_bnot ht2), hnodes]
  case setHome =>
    refine served_fg hserves rfl hlen ((mbFmOnly_fm hfm _).trans ((mbOnRegion_good hgood _).trans ?_))
    dsimp only
    rw [hch]
    dsimp only
    rw [if_neg (not_bnot hup), hhome]
  case changes =>
    refine served_fg hserves rfl hlen ((mbFmOnly_fm hfm _).trans ((mbOnRegion_good hgood _).trans ?_))
    dsimp only
    rw [if_neg (not_bnot hfields), hfound]
    exact if_neg (ne_true_of_eq_false hrevoked)
  case adds =>
    refine served_fg hserves rfl hlen ((mbFmOnly_fm hfm _).trans ((mbOnRegion_good hgood _).trans ?_))
    dsimp only
    rw [if_neg (not_bnot hfields), hnone]
    exact (if_neg hkind).trans (if_neg (Nat.not_le.2 hroom))
  case revoke =>
    refine served_bg hserves rfl hlen hbg ((mbFmOnly_fm hfm _).trans ((mbOnRegion_good hgood _).trans ?_))
    dsimp only
    cases hreg : smGet? (regionAt s (regIdx (bnum inp 0 4))).regs (bnum inp 4 1) with
    | none => simp [hreg] at hvalid
    | some x =>
      have hx : x.valid = true := by simpa [hreg] using hvalid
      rw [Option.filter_some_pos hx]
  case release =>
    refine served_bg hserves rfl hlen hbg ((mbFmOnly_fm hfm _).trans ((mbOnRegion_good hgood _).trans ?_))
    exact if_neg (ne_true_of_eq_false hgrants)
  case publish =>
    refine served_fg hserves rfl hlen ?_
    rw [hld]
    refine (mbOnRegion_good hgood _).trans ?_
    rw [hadmit]
  case connSet =>
    refine next_of_served (mbServes_rec hserves).1 rfl ((linkCmd_fg hserves hlen hch hnames _).trans ?_)
    dsimp only
    rw [if_neg (not_bnot hup), if_neg (ne_true_of_eq_false hfields), if_neg (not_not.2 hclosed), hnodes]
  case connReset =>
    exact next_of_served (mbServes_rec hserves).1 rfl ((linkCmd_fg hserves hlen hch hnames _).trans ((if_neg (not_bnot hup)).trans
      ((if_neg (not_or.2 ⟨Nat.not_le.2 hconn, not_or.2 ⟨Nat.ne_of_gt hlow, Nat.not_le.2 hhigh⟩⟩)).trans (if_neg hopen))))
  case connClose =>
    exact next_of_served (mbServes_rec hserves).1 rfl ((linkCmd_bg hserves hlen hbg hch hnames _).trans ((if_neg (not_bnot hup)).trans
      (if_neg (Nat.not_le.2 hconn))))
  case connQuery =>
    exact next_of_served (mbServes_rec hserves).1 rfl ((linkCmd_fg hserves hlen hch hnames _).trans (if_neg (Nat.not_le.2 hconn)))
  case windowClear =>
    exact next_of_served (mbServes_rec hserves).1 rfl ((linkCmd_fg hserves hlen hch hnames _).trans ((if_neg (not_bnot hup)).trans
      ((if_neg (Nat.not_le.2 hidx)).trans (if_pos (by rw [hinvalid]; rfl)))))
  case windowSet =>
    refine next_of_served (mbServes_rec hserves).1 rfl ((linkCmd_fg hserves hlen hch hnames _).trans ?_)
    dsimp only
    rw [if_neg (not_bnot hup), if_neg (Nat.not_le.2 hidx), if_neg (not_bnot hvalid), if_neg (ne_true_of_eq_false hfree), hnodes]
  case keySet =>
    exact next_of_served (mbServes_rec hserves).1 rfl ((linkCmd_fg hserves hlen hch hnames _).trans
      (if_neg (not_or.2 ⟨Nat.not_le.2 hidx, not_or.2 ⟨not_not.2 hresv, hrights⟩⟩)))
  case resume =>
    show execRegionAdmissionResume c r s = _
    rw [execRegionAdmissionResume, hwait]
    dsimp only
    rw [if_neg hdrain]

end Sys2Proof.Proofs
end

section
/-! SUPPORT. What the block keeps, read off the laws of its commands: the event queues' indices, MIN_SVN and the build, the queue and the outputs; and that
every command completes. -/

namespace Sys2Proof.Proofs
open Sys2Proof Sys2Proof.Machine Sys2Proof.Laws

/-- Settles O5: the queue of commands is no part of the event queues, and what runs keeps their indices in range. -/
theorem stepsKeepEventQueueIndices : Obligations.StepsKeepEventQueueIndices :=
  fun _ _ hs hstep => (step_keeps hstep).evq hs

/-- Settles O6: what runs neither lowers MIN_SVN nor alters the build. -/
theorem minSvnNeverFalls : Obligations.MinSvnNeverFalls :=
  fun _ _ hstep => ⟨(step_keeps hstep).minSvn, (step_keeps hstep).build⟩

/-- Settles O3: the four are among what every command keeps. -/
theorem commandsLeaveTheQueue : Obligations.CommandsLeaveTheQueue := by
  intro i s t hexec
  have hkeeps : Keeps s t := exec_keeps i s t hexec
  exact ⟨hkeeps.pending, hkeeps.build, hkeeps.out, hkeeps.free⟩

/-- Settles O1: a step goes by the queue's front alone. -/
theorem stepRunsFrontOfQueue : Obligations.StepRunsFrontOfQueue :=
  ⟨fun _ _ _ hqueue => by rw [Sys2Proof.Machine.step, hqueue], fun _ hempty => by rw [Sys2Proof.Machine.step, hempty]⟩

/-- Settles O2: each row of `exec` answers a next state, whatever that state is. -/
theorem everyCommandCompletes : Obligations.EveryCommandCompletes := by
  intro i s
  cases i <;> exact ⟨_, rfl⟩

/-- Settles O7: every memory is empty after reset, and every event queue stands at entry 0. -/
theorem resetMeetsTheInvariants : Obligations.ResetMeetsTheInvariants := by
  refine ⟨fun c => ?memories, fun n => ?queues⟩
  case memories =>
    rw [ch_reset]
    rfl
  case queues => simp [State.reset, Island.reset, EvQueue.reset]

end Sys2Proof.Proofs
end

section
/-! SUPPORT. The events of the link port (R374, R375, R379, R382, R387, R394, R395): what each comes to where it can arise, how a request packet is
classified by its PSN, and the two statements about them. -/

namespace Sys2Proof.Proofs
open Sys2Proof Sys2Proof.Machine

variable {s : State} {c : Ch}

/-! ## Training and lanes (R374, R394) -/

/-- Training ends, by the port's mode and the lanes that failed it. -/
theorem exec_linkTrainingDone_training {failed : BitVec 5} {peer : PeerInfo} (hstate : (s.ch c).link.state = .training)
    (hclock : (s.ch c).pace.refclk = true) :
    let t := modLink s c (fun p => { p with laneFailed := failed })
    exec (.linkTrainingDone c failed peer) s = .next (
      if isEthernet s c ∧ failedMain failed ≠ 0 ∨ !isEthernet s c ∧ linkWidth failed = 0 then linkDown (linkErr t c leTrain) c 2
      else
        let u := if isEthernet s c then modLink t c (fun p => { p with state := .up, width := 4 })
          else linkAtWidth (modLink t c (fun p => { p with peerValid := true, peer })) c
        pump (raiseC u c 0x0700 sevInfo (natLe c.val 1 ++ natLe (u.ch c).link.width 1 ++ natLe (linkPeer u c) 4)) c) :=
  congrArg _ (if_neg (not_or.2 ⟨not_not.2 hstate, not_bnot hclock⟩))

/-- A lane fails that had not failed before, on a port that is up. -/
theorem exec_linkLaneFailure_fresh {lane : Fin 5} (hup : (s.ch c).link.state = .up) (hfresh : (s.ch c).link.laneFailed.getLsbD lane = false) :
    let t := modLink s c (fun p => { p with laneFailed := p.laneFailed ||| (1#5 <<< lane.val) })
    exec (.linkLaneFailure c lane) s = .next (
      if isEthernet s c then (if lane.val < 4 then linkDown t c 1 else s)
      else if lane.val = 4 ∧ !(s.ch c).link.spareUsed then t else modLink t c (fun p => { p with state := .retraining })) :=
  congrArg _ (if_neg (not_or.2 ⟨not_not.2 hup, ne_true_of_eq_false hfresh⟩))

/-- A retrain ends, where the reference clock is present, at the width left. -/
theorem exec_linkRetrainDone_retraining (hstate : (s.ch c).link.state = .retraining) (hclock : (s.ch c).pace.refclk = true) :
    exec (.linkRetrainDone c) s = .next (
      if linkWidth (s.ch c).link.laneFailed = 0 then linkDown (linkErr s c leTrain) c 2 else pump (linkAtWidth s c) c) :=
  congrArg _ (if_neg (not_or.2 ⟨not_not.2 hstate, not_bnot hclock⟩))

/-! ## Packets (R379, R382) -/

/-- A native port that is up is not turned away as down or Ethernet-compatible. -/
theorem nativeUp (hup : (s.ch c).link.state = .up) (hnative : isEthernet s c = false) :
    ¬ ((s.ch c).link.state ≠ .up ∨ isEthernet s c = true) :=
  not_or.2 ⟨not_not.2 hup, ne_true_of_eq_false hnative⟩

/-- The count of corrected symbols is no part of the connections. -/
@[simp] theorem connAt_noteCorrected (n conn : Nat) : connAt (noteCorrected s c n) c conn = connAt s c conn := by
  simp [connAt, noteCorrected, modLink]

/-- The count of corrected symbols is no part of the port's mode. -/
@[simp] theorem isEthernet_noteCorrected (n : Nat) : isEthernet (noteCorrected s c n) c = isEthernet s c := by
  simp [isEthernet, noteCorrected]

/-- A change of a connection is no part of the port's mode. -/
@[simp] theorem isEthernet_modConn (conn : Nat) (f : Conn → Conn) : isEthernet (modConn s c conn f) c = isEthernet s c := by
  simp [isEthernet, modConn]

/-- A packet without credit, or with a bad CRC, is dropped with its bit of LINK_ERR. -/
theorem exec_packetReceive_dropped (hup : (s.ch c).link.state = .up) (hnative : isEthernet s c = false) (hdr : BitVec 256) (payload : List Byte)
    (frame : LinkFrame) :
    (frame.credit = false → exec (.packetReceive c hdr payload frame) s = .next (linkErr (noteCorrected s c frame.corrected) c leCredit)) ∧
    (frame.credit = true → frame.crc ≠ packetCrc { hdr, payload } →
      exec (.packetReceive c hdr payload frame) s = .next (linkErr (noteCorrected s c frame.corrected) c leCrc)) := by
  refine ⟨fun hcredit => congrArg _ ((if_neg (nativeUp hup hnative)).trans ?noCredit),
    fun hcredit hcrc => congrArg _ ((if_neg (nativeUp hup hnative)).trans ?badCrc)⟩
  case noCredit => exact if_pos (by rw [hcredit]; rfl)
  case badCrc => exact (if_neg (not_bnot hcredit)).trans (if_pos (.inl hcrc))

section
variable {hdr : BitVec 256} {payload : List Byte} (n : Nat) (hup : (s.ch c).link.state = .up) (hnative : isEthernet s c = false)
  (hver : (pktHdr hdr).ver = 1) (hopen : (connAt s c (pktHdr hdr).dst).state ≠ .closed)
  (hsrc : (pktHdr hdr).src = (connAt s c (pktHdr hdr).dst).params.peerConn.toNat)
include hup hnative hver hopen hsrc

/-- A sound packet of an assigned code on an open connection is noted, then queued as a response or classified as a request. -/
theorem exec_packetReceive_sound (hknown : opcKnown (pktHdr hdr).opc = true) :
    let p : Packet := { hdr, payload }
    let t := noteCorrected s c n
    exec (.packetReceive c hdr payload { crc := packetCrc p, corrected := n, credit := true }) s = .next (
      if 0x81 ≤ (pktHdr hdr).opc then modLink (noteBadConn t c (pktHdr hdr).dst) c (fun q => { q with rsp := q.rsp ++ [p] })
      else rxArrive (noteBadConn t c (pktHdr hdr).dst) c (reqNative false p) (fun d => .native d p)) := by
  have hgood : ¬ (packetCrc ⟨hdr, payload⟩ ≠ packetCrc ⟨hdr, payload⟩ ∨ (pktHdr hdr).ver ≠ 1 ∨ (!opcKnown (pktHdr hdr).opc) = true) := by
    simp [hver, hknown]
  exact congrArg _ ((if_neg (nativeUp hup hnative)).trans ((if_neg Bool.false_ne_true).trans ((if_neg hgood).trans
    (if_neg (not_or.2 ⟨hopen, not_not.2 hsrc⟩)))))

end

/-- A PAUSE frame holds the answers of an Ethernet-compatible port, or lets those held go (R395). -/
theorem exec_pauseFrame_up (hup : (s.ch c).link.state = .up) (heth : isEthernet s c = true) (prio quanta : Nat) :
    exec (.pauseFrame c prio quanta) s = .next (
      if quanta ≠ 0 then modLink s c (fun p => { p with paused := true })
      else (s.ch c).link.ethq.foldl (fun t a => emit t (.roce c.val a.1 a.2)) (modLink s c (fun p => { p with paused := false, ethq := [] }))) :=
  congrArg _ (if_neg (not_or.2 ⟨not_not.2 hup, not_bnot heth⟩))

/-- Settles O58: each event passes the checks of its row, then does what the row says. -/
theorem linkPortEventsRun : Obligations.LinkPortEventsRun := by
  refine ⟨fun l c v s hreach => ⟨fun hfence => ?enable, fun conn hconn hopen hsize => ?sqTail⟩,
    fun c failed peer s hstate hclock => ⟨fun heth => ?trainEthernet, fun hnative => ?trainNative⟩,
    fun c lane s hup hfresh => ⟨fun heth => ?laneEthernet, fun hnative => ?laneNative⟩,
    fun c s hstate => ⟨exec_linkRetrainDone_retraining hstate, congrArg _ (if_neg (not_not.2 hstate))⟩,
    fun c s => rfl,
    fun c s hup => ⟨congrArg _ (if_neg (not_not.2 hup)), fun hnative => ⟨fun n => congrArg _ (if_neg (nativeUp hup hnative)),
        fun f => congrArg _ (if_neg (nativeUp hup hnative)), ?response, exec_packetReceive_dropped hup hnative⟩,
      fun heth prio quanta => ?pause⟩⟩
  case enable =>
    show execLinkEnableWrite l c v s = _
    rw [execLinkEnableWrite, chanWrite_reaches hreach, hfence]
    rfl
  case sqTail =>
    show execSqTailWrite l c conn v s = _
    rw [execSqTailWrite, chanWrite_reaches hreach]
    exact congrArg _ (if_neg (not_or.2 ⟨Nat.not_le.2 hconn, not_or.2 ⟨hopen, hsize⟩⟩))
  case trainEthernet =>
    refine (exec_linkTrainingDone_training hstate hclock).trans (congrArg _ ?_)
    by_cases hlanes : failedMain failed = 0 <;> simp [heth, hlanes]
  case trainNative =>
    refine (exec_linkTrainingDone_training hstate hclock).trans (congrArg _ ?_)
    by_cases hlanes : linkWidth failed = 0 <;> simp [hnative, hlanes]
  case laneEthernet => exact (exec_linkLaneFailure_fresh hup hfresh).trans (congrArg _ (if_pos heth))
  case laneNative =>
    refine (exec_linkLaneFailure_fresh hup hfresh).trans (congrArg _ ((if_neg (ne_true_of_eq_false hnative)).trans ?_))
    simp only [Bool.not_eq_true']
  case response =>
    intro hdr payload h hver hlow hhigh hopen hsrc n
    have hknown : opcKnown (pktHdr hdr).opc = true := decide_eq_true (.inr ⟨hlow, hhigh⟩)
    exact (exec_packetReceive_sound n hup hnative hver hopen hsrc hknown).trans (congrArg _ (if_pos hlow))
  case pause =>
    refine (exec_pauseFrame_up hup heth prio quanta).trans (congrArg _ ?_)
    by_cases hquanta : quanta = 0 <;> simp [hquanta]

/-! ## The class of a PSN (R378, R382) -/

section
variable {k : Conn} {psn : Nat}

/-- The PSN that RCV_NEXT names is new. -/
theorem psnClass_next (hpsn : psn = k.rcvNext) (hrange : psn < 2 ^ 32) : psnClass 32 k psn = .new :=
  if_pos ((Nat.mod_eq_of_lt hrange).trans hpsn)

/-- How far a PSN lies ahead of RCV_NEXT. -/
theorem psnDiff_ahead {a : Nat} (ha : a < 2 ^ 32) (hpsn : psn = (k.rcvNext + a) % 2 ^ 32) : psnDiff 32 psn k.rcvNext = a := by
  unfold psnDiff
  omega

/-- How far a PSN lies behind RCV_NEXT. -/
theorem psnDiff_behind {b : Nat} (hb : 1 ≤ b) (hb' : b < 2 ^ 32) (hpsn : psn = (k.rcvNext + (2 ^ 32 - b)) % 2 ^ 32) :
    psnDiff 32 k.rcvNext psn = b := by
  unfold psnDiff
  omega

/-- A PSN ahead by 1 to 4,095. -/
theorem psnClass_ahead {a : Nat} (ha : 1 ≤ a) (ha' : a < 4096) (hpsn : psn = (k.rcvNext + a) % 2 ^ 32) : psnClass 32 k psn = .ahead := by
  have hnew : psn % 2 ^ 32 ≠ k.rcvNext := by omega
  have hahead : psnAhead 32 psn k.rcvNext = true := by
    have hdist : (psn + 2 ^ 32 - k.rcvNext % 2 ^ 32) % 2 ^ 32 = a := by omega
    simp only [psnAhead, hdist, Bool.and_eq_true, bne_iff_ne, decide_eq_true_eq]
    omega
  rw [psnClass, if_neg hnew, if_pos hahead, psnDiff_ahead (by omega) hpsn, if_neg (Nat.not_le.2 ha')]

/-- A PSN behind by up to half of the numbers: a duplicate within what the receiver has counted, stale past it. -/
theorem psnClass_behind {b : Nat} (hb : 1 ≤ b) (hb' : b ≤ 2 ^ 31) (hpsn : psn = (k.rcvNext + (2 ^ 32 - b)) % 2 ^ 32) :
    psnClass 32 k psn = if b ≤ k.rcvCount then .duplicate else .stale := by
  have hnew : psn % 2 ^ 32 ≠ k.rcvNext := by omega
  have hahead : psnAhead 32 psn k.rcvNext = false := by
    have hdist : (psn + 2 ^ 32 - k.rcvNext % 2 ^ 32) % 2 ^ 32 = 2 ^ 32 - b := by omega
    simp only [psnAhead, hdist, Bool.and_eq_false_iff, decide_eq_false_iff_not]
    omega
  rw [psnClass, if_neg hnew, if_neg (ne_true_of_eq_false hahead), psnDiff_behind hb (by omega) hpsn]

end

/-! ## What a request does by its class (R382) -/

section
variable {p : Packet}

/-- PSNs of a native port have 32 bits (R378). -/
theorem psnBits_native (hnative : isEthernet s c = false) : psnBits s c = 32 := if_neg (ne_true_of_eq_false hnative)

/-- The packets received by a native port are queued without flow control of the peer. -/
theorem modRx_native (hnative : isEthernet s c = false) (f : List RxPkt → List RxPkt) : modRx s c f = modLink s c (fun q => { q with rx := f q.rx }) :=
  if_pos (by rw [hnative]; rfl)

/-- A native request is queued, answered with NAK_SEQ, dropped or noted as stale by the class of its PSN, where that is not past the window. -/
theorem rxArrive_native (hnative : isEthernet s c = false) :
    let h := pktHdr p.hdr
    let k := connAt s c h.dst
    let arrive := rxArrive s c (reqNative false p) (fun d => .native d p)
    (psnClass 32 k h.psn = .new →
      arrive = modLink (modConn s c h.dst (rcvAdvance 32)) c (fun q => { q with rx := q.rx ++ [.native false p] })) ∧
    (psnClass 32 k h.psn = .ahead →
      arrive = if k.nakSent then s
        else sendPkts (modConn s c h.dst (fun k => { k with nakSent := true })) c [respPkt k h.dst 0x84 k.rcvNext h.kind h.id 0 0 0 true true []]) ∧
    (psnClass 32 k h.psn = .duplicate →
      arrive = if h.last then modLink s c (fun q => { q with rx := q.rx ++ [.native true p] }) else s) ∧
    (psnClass 32 k h.psn = .stale → arrive = linkErr s c leStale) := by
  intro h k arrive
  have hconn : (reqNative false p).conn = h.dst := rfl
  have hpsn : (reqNative false p).psn = h.psn := rfl
  refine ⟨fun hclass => ?new, fun hclass => ?ahead, fun hclass => ?duplicate, fun hclass => ?stale⟩ <;>
    simp only [arrive, rxArrive, psnBits_native hnative, hconn, hpsn, k] at hclass ⊢ <;> rw [hclass]
  case new => exact modRx_native (by rw [isEthernet_modConn, hnative]) _
  case ahead => rfl
  case duplicate =>
    dsimp only
    rw [modRx_native hnative]
    rfl

end

/-- Settles O59: a sound request is classified by its PSN's distance from RCV_NEXT, and the class says what becomes of it. -/
theorem requestPacketsAreClassifiedByPsn : Obligations.RequestPacketsAreClassifiedByPsn := by
  intro c hdr payload n s0 frame s h k p hup hnative hver hlow hhigh hready hsrc
  have hup0 : (s0.ch c).link.state = .up := by simpa [s, noteCorrected, modLink] using hup
  have hnative0 : isEthernet s0 c = false := (isEthernet_noteCorrected n).symm.trans hnative
  have hk : connAt s0 c h.dst = k := (connAt_noteCorrected n h.dst).symm
  have hopen : (connAt s0 c h.dst).state ≠ .closed := by simp [hk, hready]
  have hknown : opcKnown h.opc = true := decide_eq_true (.inl ⟨hlow, hhigh⟩)
  have hrequest : ¬ 0x81 ≤ h.opc := by omega
  have harrive : exec (.packetReceive c hdr payload frame) s0 = .next (rxArrive s c (reqNative false p) (fun d => .native d p)) := by
    refine (exec_packetReceive_sound n hup0 hnative0 hver hopen (hk ▸ hsrc) hknown).trans (congrArg _ ((if_neg hrequest).trans ?_))
    rw [noteBadConn, if_pos hready]
  have hrange : h.psn < 2 ^ 32 := Nat.mod_lt _ (by decide)
  obtain ⟨hnew, hahead, hduplicate, hstale⟩ := rxArrive_native (p := p) hnative
  rw [harrive]
  refine ⟨fun hpsn => congrArg _ (hnew (psnClass_next hpsn hrange)),
    fun a ha ha' hpsn => congrArg _ (hahead (psnClass_ahead ha ha' hpsn)),
    fun b hb hb' hpsn => ⟨fun hcount => congrArg _ (hduplicate ?_), fun hcount => congrArg _ (hstale ?_)⟩⟩
  · exact (psnClass_behind hb hb' hpsn).trans (if_pos hcount)
  · exact (psnClass_behind hb hb' hpsn).trans (if_neg (Nat.not_le.2 hcount))

end Sys2Proof.Proofs
end

section
/-! SUPPORT. The link port's operations with nothing in their way: requests served (R383 to R386), responses and send queues (R387, R390), retries (R390, R391)
and RoCEv2 packets (R395 to R397), and the statement about them. -/

namespace Sys2Proof.Proofs
open Sys2Proof Sys2Proof.Machine

variable {s t : State} {c : Ch} {env : Env}

/-! ## The oldest received packet (R382) -/

/-- The oldest received packet, where a row takes it and it need not wait, is taken and leaves the queue. -/
theorem rxStep_oldest {x : RxPkt} {rest : List RxPkt} {pick : RxPkt → Bool} (hrx : (s.ch c).link.rx = x :: rest) (hpick : pick x = true)
    (htake : rxTake (takeEnv s c env) c x = (t, true)) :
    rxStep s c env pick = leaveLines (modRx t c (fun xs => xs.eraseIdx 0)) (.rx c (rxConn x)) := by
  have hpick' : (pick x && !([] : List Nat).contains (rxConn x)) = true := by simp [hpick]
  rw [rxStep, hrx, List.zipIdx_cons, rxScan, if_pos hpick', htake]

/-- Each row of a native request takes one new request of its operation code. -/
theorem exec_nativeRequest (c : Ch) (env : Env) (s : State) :
    ∀ i ∈ ([(.write c env, 1), (.readReq c env, 2), (.add8 c env, 3), (.add16 c env, 4), (.cas8 c env, 5), (.cas16 c env, 6)] : List (Instr × Nat)),
      exec i.1 s = .next (linkRest (rxStep s c env (pickNative i.2))) := by
  simp only [List.forall_mem_cons]
  exact ⟨rfl, rfl, rfl, rfl, rfl, rfl, nofun⟩

/-! ## New requests (R383, R384) -/

/-- A request that begins its operation and is admitted opens it, counted in the region that it names. -/
theorem rxOpen_admitted {q : Req} {adm : Option (Nat × Nat)} (hfirst : q.first = true) (hidle : (connAt s c q.conn).rx = none)
    (hadmit : rxAdmit s c q = .ok adm) :
    rxOpen s c q = some (
      { refused := none, tgtKind := BitVec.ofNat 2 q.kind, tgtId := BitVec.ofNat 32 q.id, addr := q.addr, pkts := 0, left := q.total, adm := adm },
      match (generalizing := false) adm with
      | some a => regionCount s a.1 a.2
      | none => s) := by
  rw [rxOpen, hidle]
  dsimp only
  rw [if_pos hfirst]
  simp only [endAdm, hadmit]
  cases adm <;> rfl

/-- An operation opened that meets no further refusal, no full write-back queue and no holder of its lines is applied; its LAST packet closes it. -/
theorem rxNew_applies {q : Req} {o : RxOp} {u : State} (hopen : rxOpen s c q = some (o, u)) (hadmitted : o.refused = none)
    (hnext : rxNext (rxKey u c o.tgtKind.toNat o.tgtId.toNat) c q o = none)
    (hroom : rxHolds (rxKey u c o.tgtKind.toNat o.tgtId.toNat) c q o.tgtKind.toNat o.addr = false)
    (hlines : linesReady (rxKey u c o.tgtKind.toNat o.tgtId.toNat) (.rx c q.conn) (rxLines c q o.tgtKind.toNat o.addr) = true) :
    let x := rxPerform (rxKey u c o.tgtKind.toNat o.tgtId.toNat) c q o.tgtKind.toNat o.tgtId.toNat o.addr
    rxNew s c q = (if q.last then rxClose x.2 c q o x.1
      else modConn x.2 c q.conn (fun k => { k with rx := some { o with addr := o.addr + q.len, pkts := o.pkts + 1, left := o.left - q.len } }), true) := by
  rw [rxNew, hopen]
  simp only [hadmitted, Option.isSome_none, Bool.false_eq_true, if_false, hnext, hroom, hlines, if_true]
  cases q.last <;> rfl

/-! ## Duplicates (R385) -/

/-- The operation code of a read is 0x02 alone. -/
theorem reqOpOf_eq_read {n : Nat} : reqOpOf n = .read ↔ n = 2 := by
  unfold reqOpOf
  split <;> simp_all

section
variable {q : Req} {d : DupRec} (hnative : q.eth = false) (hfind : (connAt s c q.conn).dups.find? (fun d => d.psn == q.psn) = some d)
include hnative hfind

/-- A native duplicate that is no read served again is answered from its record. -/
theorem rxDup_recorded
    (hrecord : let q2 := { q with op := reqOpOf d.opc.toNat, kind := d.tgtKind.toNat, id := d.tgtId.toNat }
      d.opc ≠ 2 ∨ (d.lstat ≠ 0 ∧ d.lstat ≠ 7) ∨ dupLstat s c q2 d ≠ d.lstat.toNat) :
    let q2 := { q with op := reqOpOf d.opc.toNat, kind := d.tgtKind.toNat, id := d.tgtId.toNat }
    rxDup s c q = (rxAnswer s c q2 (if d.applied then 1 else 2) { lstat := dupLstat s c q2 d, word := d.word.toNat, data := [] }, true) := by
  intro q2
  have hnotRead : ¬ (q2.op = .read ∧ (d.lstat = 0 ∨ d.lstat = 7) ∧ dupLstat s c q2 d = d.lstat.toNat) := by
    rintro ⟨hop, hserved, hsame⟩
    rcases hrecord with hopc | ⟨hzero, hpoison⟩ | hchanged
    · exact hopc (BitVec.eq_of_toNat_eq (reqOpOf_eq_read.1 hop))
    · exact hserved.elim hzero hpoison
    · exact hchanged hsame
  rw [rxDup, hfind]
  exact (if_neg (by simp [hnative])).trans (if_neg hnotRead)

/-- A native duplicate of a read that was served, whose target stands, is admitted anew. -/
theorem rxDup_read
    (hread : d.opc = 2) (hserved : d.lstat = 0 ∨ d.lstat = 7)
    (hsame : dupLstat s c { q with op := reqOpOf d.opc.toNat, kind := d.tgtKind.toNat, id := d.tgtId.toNat } d = d.lstat.toNat) :
    let q3 := { q with op := reqOpOf d.opc.toNat, kind := d.tgtKind.toNat, id := d.tgtId.toNat, addr := d.addr, len := d.len, total := d.len,
                       first := true, bad := false, deny := false }
    let prior := if d.applied then 1 else 2
    let u := rxKey s c q3.kind q3.id
    let ls := rxLines c q3 q3.kind q3.addr
    rxDup s c q = match rxAdmit s c q3 with
      | .wait => (s, false)
      | .refuse e => (rxAnswer s c q3 prior { lstat := e, word := 0, data := [] }, true)
      | .ok _ =>
        if q3.kind = 0 ∧ !keyHere u c (regionAt u (regIdx q3.id)).owner.toNat then (rxAnswer u c q3 prior { lstat := 0x0A, word := 0, data := [] }, true)
        else if linesReady u (.rx c q3.conn) ls then
          let x := rxPerform u c q3 q3.kind q3.id q3.addr
          (rxAnswer x.2 c q3 prior x.1, true)
        else (awaitLines u (.rx c q3.conn) ls, false) := by
  have hop : reqOpOf d.opc.toNat = .read := by rw [hread]; rfl
  rw [rxDup, hfind]
  exact (if_neg (by simp [hnative])).trans (if_pos ⟨hop, hserved, hsame⟩)

end

/-! ## Responses (R380, R390) -/

/-- The oldest response, of the code that a row takes and with an operation that it answers, is taken. -/
theorem respStep_oldest {p : Packet} {rest : List Packet} (hrsp : (s.ch c).link.rsp = p :: rest) (htake : respTake s c p = (true, t)) :
    respStep s c (pktHdr p.hdr).opc = linkRest (windowsStep (modLink t c (fun q => { q with rsp := q.rsp.eraseIdx 0 })) c) := by
  rw [respStep, hrsp, List.zipIdx_cons, respScan, if_pos rfl, htake]

/-- An ACK answers a write alone. -/
theorem answers_ack {opc : Nat} (h : answers 0x81 opc = true) : opc = 1 := by
  unfold answers at h
  split at h
  · assumption
  · split at h <;> simp at h

/-- An entry's operation ends with its record; an atomic that found a word writes it to T0. -/
theorem outEnds_entry {conn lstat prior word : Nat} {o : OutOp} {e : BitVec 512} {idx : Nat} {phase : Bool} (hsrc : o.src = .entry e idx phase) :
    let found : Bool := (outHdr o).opc ≥ 3 && (lstat == 0 || lstat == 0x0B || prior == 1)
    let t := dropOut s c conn o
    let u := if found then t0Write t c (fld e.toNat 335 312) (natLe word 16) else t
    outEnds s c conn o lstat prior word = (true, sqFinish u c conn e idx phase (lstatSt (outHdr o).kind lstat) lstat prior (lstat == 0 || prior == 1)
      o.retries (if found then word % 2 ^ 64 else 0)) := by
  rw [outEnds, hsrc]

section
variable {p : Packet} {rest : List Packet} {o : OutOp} (hrsp : (s.ch c).link.rsp = p :: rest)
  (hfind : (connAt s c (pktHdr p.hdr).dst).outs.find? (fun o => o.last == (pktHdr p.hdr).psn && answers (pktHdr p.hdr).opc (outHdr o).opc) = some o)
include hrsp hfind

/-- A READ_RESP packet that need not wait is taken, its payload as far as it has arrived. -/
theorem exec_readResp_arrives (hopc : (pktHdr p.hdr).opc = 0x82)
    (harrives : readArrives s c (pktHdr p.hdr).dst o (pktHdr p.hdr) p.payload = (true, t)) :
    exec (.readResp c) s = .next (linkRest (windowsStep (modLink t c (fun q => { q with rsp := q.rsp.eraseIdx 0 })) c)) := by
  have htake : respTake s c p = (true, t) := by
    rw [respTake, hfind]
    exact (if_pos hopc).trans harrives
  have hstep := respStep_oldest hrsp htake
  rw [hopc] at hstep
  exact congrArg Host.Outcome.next hstep

/-- Another response of an entry's operation ends it. -/
theorem respStep_entry {e : BitVec 512} {idx : Nat} {phase : Bool} (hsrc : o.src = .entry e idx phase) (hopc : (pktHdr p.hdr).opc ≠ 0x82) :
    let h := pktHdr p.hdr
    let word := bnum p.payload 0 16
    let found : Bool := (outHdr o).opc ≥ 3 && (h.lstat == 0 || h.lstat == 0x0B || h.prior == 1)
    let t := dropOut s c h.dst o
    let u := if found then t0Write t c (fld e.toNat 335 312) (natLe word 16) else t
    respStep s c h.opc = linkRest (windowsStep (modLink (sqFinish u c h.dst e idx phase (lstatSt (outHdr o).kind h.lstat) h.lstat h.prior
      (h.lstat == 0 || h.prior == 1) o.retries (if found then word % 2 ^ 64 else 0)) c (fun q => { q with rsp := q.rsp.eraseIdx 0 })) c) := by
  refine respStep_oldest hrsp ?_
  rw [respTake, hfind]
  exact (if_neg hopc).trans (outEnds_entry hsrc)

/-- An ACK ends a write with its status. -/
theorem exec_ack_ends {e : BitVec 512} {idx : Nat} {phase : Bool} (hsrc : o.src = .entry e idx phase) (hopc : (pktHdr p.hdr).opc = 0x81) :
    let h := pktHdr p.hdr
    exec (.ack c) s = .next (linkRest (windowsStep (modLink (sqFinish (dropOut s c h.dst o) c h.dst e idx phase (lstatSt (outHdr o).kind h.lstat) h.lstat h.prior
      (h.lstat == 0 || h.prior == 1) o.retries 0) c (fun q => { q with rsp := q.rsp.eraseIdx 0 })) c)) := by
  have hanswers := List.find?_some hfind
  rw [hopc, Bool.and_eq_true] at hanswers
  have hnotFound : decide ((outHdr o).opc ≥ 3) = false := by rw [answers_ack hanswers.2]; rfl
  have hstep := respStep_entry hrsp hfind hsrc (by omega)
  simp only [hnotFound, Bool.false_and, Bool.false_eq_true, if_false, hopc] at hstep
  exact congrArg Host.Outcome.next hstep

/-- An ATOMIC_RESP ends an atomic with its status, and with the word found where it was applied or compared. -/
theorem exec_atomicResp_ends {e : BitVec 512} {idx : Nat} {phase : Bool} (hsrc : o.src = .entry e idx phase) (hopc : (pktHdr p.hdr).opc = 0x83)
    (hatomic : 3 ≤ (outHdr o).opc) :
    let h := pktHdr p.hdr
    let word := bnum p.payload 0 16
    let t := dropOut s c h.dst o
    let finish (u : State) (result : Nat) : State := sqFinish u c h.dst e idx phase (lstatSt (outHdr o).kind h.lstat) h.lstat h.prior
      (h.lstat == 0 || h.prior == 1) o.retries result
    exec (.atomicResp c) s = .next (linkRest (windowsStep (modLink (
      if h.lstat = 0 ∨ h.lstat = 0x0B ∨ h.prior = 1 then finish (t0Write t c (fld e.toNat 335 312) (natLe word 16)) (word % 2 ^ 64) else finish t 0)
      c (fun q => { q with rsp := q.rsp.eraseIdx 0 })) c)) := by
  have hstep := respStep_entry hrsp hfind hsrc (by omega)
  simp only [ge_iff_le, hatomic, decide_true, Bool.true_and, Bool.or_eq_true, beq_iff_eq, or_assoc, hopc] at hstep
  refine congrArg Host.Outcome.next (hstep.trans ?_)
  by_cases hfound : (pktHdr p.hdr).lstat = 0 ∨ (pktHdr p.hdr).lstat = 0x0B ∨ (pktHdr p.hdr).prior = 1 <;> simp only [hfound, if_true, if_false]

end

/-! ## RoCEv2 (R395 to R397) -/

section
variable {p : RocePkt}

/-- A packet of another framing than R395's is dropped. -/
theorem roceTake_otherFrame (hframe : ethOk p.eth = false) : roceTake s c p env = s := by
  rw [roceTake, hframe]
  rfl

/-- A packet whose ICRC fails sets CRC. -/
theorem roceTake_badCrc (hframe : ethOk p.eth = true) (hcrc : p.icrcOk = false) : roceTake s c p env = linkErr s c leCrc := by
  rw [roceTake, hframe, hcrc]
  rfl

/-- A sound packet on a Closed connection sets BAD_CONN. -/
theorem roceTake_closed (hframe : ethOk p.eth = true) (hcrc : p.icrcOk = true) (hclosed : (connAt s c (roceConn p)).state = .closed) :
    roceTake s c p env = linkErr s c leBadConn := by
  rw [roceTake, if_neg (not_bnot hframe), if_neg (not_bnot hcrc), if_pos hclosed]

/-- A sound packet on an open connection is classified and served in order, after a CNP where it is marked CE. -/
theorem roceTake_served (hframe : ethOk p.eth = true) (hcrc : p.icrcOk = true) (hopen : (connAt s c (roceConn p)).state ≠ .closed) :
    let u := if p.ce then roceCnp s c (roceConn p) else s
    let extra := roceOver u c p
    let t := rxArrive (noteBadConn u c (roceConn p)) c (reqRoce u c false extra p) (fun d => .roce d extra p)
    roceTake s c p env = linkRest (roceSteps (t.ch c).link.rx.length t c env) := by
  rw [roceTake, if_neg (not_bnot hframe), if_neg (not_bnot hcrc), if_neg hopen]

end

/-- Each row of a RoCEv2 packet takes those of its opcodes, where the port is up and Ethernet-compatible. -/
theorem exec_roceRows {p : RocePkt} {t : Env → State} (hup : (s.ch c).link.state = .up) (heth : isEthernet s c = true)
    (htake : ∀ e, roceTake (noteCorrected s c p.corrected) c p e = t e) :
    let o := p.opcode.toNat
    (o = 0x06 ∨ o = 0x07 ∨ o = 0x08 ∨ o = 0x0A → exec (.rdmaWrite c p env) s = .next (t env)) ∧
    (o = 0x0C → exec (.rdmaReadRequest c p env) s = .next (t env)) ∧
    (o = 0x13 → exec (.cmpswap c p env) s = .next (t env)) ∧
    (o = 0x14 → exec (.fetchadd c p env) s = .next (t env)) ∧
    (roceSupported o = false → exec (.roceUnsupportedRequest c p) s = .next (t Env.clean)) := by
  have harrive (ops : Nat → Bool) (hops : ops p.opcode.toNat = true) (e : Env) : roceArrive s c ops p e = t e :=
    (if_neg (not_or.2 ⟨not_not.2 hup, not_or.2 ⟨not_bnot heth, not_bnot hops⟩⟩)).trans (htake e)
  refine ⟨fun ho => congrArg _ (harrive _ ?_ env), fun ho => congrArg _ (harrive _ ?_ env), fun ho => congrArg _ (harrive _ ?_ env),
    fun ho => congrArg _ (harrive _ ?_ env), fun ho => congrArg _ (harrive _ ?_ Env.clean)⟩ <;> simp [ho]

/-! ## The statement -/

/-- Settles O60: each packet, response, entry or timer passes the checks of its row to what the row does with it. -/
theorem linkOperationsRun : Obligations.LinkOperationsRun := by
  refine ⟨?request, ?duplicate, fun c s p rest o hrsp hfind => ⟨?readResp, fun e idx phase hsrc => ⟨?ack, ?atomicResp⟩⟩,
    ?nak, ?issue, fun c conn psn s o => ⟨fun hfind => ?timer, fun hfind => ?retransmit⟩,
    fun c p env s hup heth => ⟨fun hframe => ?otherFrame, fun hframe hcrc => ?badCrc, fun hframe hcrc hclosed => ?closed, ?served⟩⟩
  case request =>
    intro c env s p rest q s1 u adm i hi hrx hopc hfirst hidle hadmit s2 o s3 hnext hroom hlines x t
    have htake : rxTake s1 c (.native false p) = (t, true) :=
      rxNew_applies (o := o) (u := s2) (rxOpen_admitted hfirst hidle hadmit) rfl hnext hroom hlines
    exact (exec_nativeRequest c env s i hi).trans
      (congrArg (fun t => Host.Outcome.next (linkRest t)) (rxStep_oldest (pick := pickNative i.2) hrx (beq_iff_eq.2 hopc) htake))
  case duplicate =>
    intro c env s p rest d s1 q hrx hfind q2 q3 prior l done
    have hdone {t : State} (htake : rxDup s1 c q = (t, true)) : exec (.duplicateLast c env) s = .next (done t) :=
      congrArg (fun t => Host.Outcome.next (linkRest t)) (rxStep_oldest (pick := pickDup) hrx rfl htake)
    refine ⟨fun hrecord => hdone (rxDup_recorded rfl hfind hrecord), fun hread hserved hsame => ?_⟩
    have hdup := rxDup_read rfl hfind hread hserved hsame
    refine ⟨fun e hadmit => hdone (hdup.trans ?refused), fun a hadmit => ⟨fun hkind hkey => hdone (hdup.trans ?keyless),
      fun hkey hlines => hdone (hdup.trans ?performed)⟩⟩ <;> rw [hadmit]
    case keyless => exact if_pos ⟨hkind, by rw [hkey]; rfl⟩
    case performed =>
      refine (if_neg ?_).trans (if_pos hlines)
      rintro ⟨hkind, hnokey⟩
      rcases hkey with hother | hhere
      · exact hother hkind
      · exact not_bnot hhere hnokey
  case readResp => exact fun hopc t harrives => exec_readResp_arrives hrsp hfind hopc harrives
  case ack => exact fun hopc => exec_ack_ends hrsp hfind hsrc hopc
  case atomicResp => exact fun hopc hatomic => exec_atomicResp_ends hrsp hfind hsrc hopc hatomic
  case nak =>
    intro c s p i hfind h t
    show execNakSeq c s = _
    rw [execNakSeq, hfind]
  case issue =>
    intro c conn s hup k d hready hsize htail hmet hgood hnative hturn hwindow
    have hopen : k.state ≠ .closed := by simp [hready]
    have hgoes : ¬ ((!isUp s c) = true ∨ k.state = .closed ∨ k.params.sqLog2 = 0 ∨ k.sqIssue = k.sqTail ∨ (!sqReady s c k d) = true) :=
      not_or.2 ⟨not_bnot hup, not_or.2 ⟨hopen, not_or.2 ⟨hsize, not_or.2 ⟨htail, not_bnot hmet⟩⟩⟩⟩
    refine congrArg _ ((if_neg hgoes).trans ?_)
    dsimp only
    rw [show entryBad (sqEntry s c (connAt s c conn) (connAt s c conn).sqIssue) = none from hgood]
    exact (if_neg (not_not.2 hready)).trans ((if_neg (ne_true_of_eq_false hnative)).trans ((if_neg (ne_true_of_eq_false hturn)).trans
      (if_neg (ne_true_of_eq_false hwindow))))
  case timer =>
    show execOperationTimerExpiry c conn psn s = _
    rw [execOperationTimerExpiry, hfind]
    rfl
  case retransmit =>
    show execRetransmitWaitEnd c conn psn s = _
    rw [execRetransmitWaitEnd, hfind]
  case otherFrame => exact exec_roceRows (t := fun _ => noteCorrected s c p.corrected) hup heth (fun _ => roceTake_otherFrame hframe)
  case badCrc => exact exec_roceRows (t := fun _ => linkErr (noteCorrected s c p.corrected) c leCrc) hup heth (fun _ => roceTake_badCrc hframe hcrc)
  case closed =>
    exact exec_roceRows (t := fun _ => linkErr (noteCorrected s c p.corrected) c leBadConn) hup heth
      (fun _ => roceTake_closed hframe hcrc (by rwa [connAt_noteCorrected]))
  case served =>
    intro hframe hcrc hopen v extra t
    exact exec_roceRows (t := fun e => linkRest (roceSteps (t.ch c).link.rx.length t c e)) hup heth
      (fun _ => roceTake_served hframe hcrc (by rwa [connAt_noteCorrected]))

end Sys2Proof.Proofs
end

section
/-! SUPPORT. The CXL commands of a mailbox that Kiln serves (R304, R318, R324 to R327, R334, R335, R407, R410), and the statement about them. -/

namespace Sys2Proof.Proofs
open Sys2Proof Sys2Proof.Machine

variable {s t : State} {mb : Mbox} {l : Ld} {op : Nat}

/-! ## From the arrival of a command to its effect -/

/-- A CXL command written into a mailbox that serves it answers what its effect is. -/
theorem cxlCmd_served {i : Instr} {k : State → State} (hserves : mbServes s mb op = true) (hvia : viaOf i = none) (hk : k s = t) :
    (.next (cxlCmd s mb op i k) : Host.Outcome State Fault Refusal) = .next t :=
  next_of_served (mbServes_rec hserves).1 hvia ((mbRun_serves_fg hserves rfl k).trans hk)

/-- A command of a logical device's mailbox acts on that device. -/
theorem cxlLd_of (hld : mbLd mb = some l) (k : Ld → State) : cxlLd s mb op k = k l := by
  rw [cxlLd, hld]

/-- A command of the fabric manager, at a mailbox of its rights (R309). -/
theorem cxlFm_of (hfm : mbFm s mb = true) (k : State) : cxlFm s mb op k = k := if_pos hfm

/-! ## Commands with checks of their own -/

/-- `ClearPoison` of a line of a window, with room in the write-back queue, clears the mark and writes the line (R334). -/
theorem runClearPoison_window {dpa owner t1 : Nat} {c : Ch} {data : List Byte} (hld : mbLd mb = some l)
    (htarget : targetOf s l (dpa / 64 * 64) = .frame c owner t1) (hup : isUp s c = true) (hroom : wbHolds s c false t1 64 = false) :
    runClearPoison mb dpa data s =
      mbReply (hostWriteLine (clearOrphan s c (t1 / 64)) c owner t1 data (BitVec.allOnes 64)) mb 0x4302 .done := by
  rw [runClearPoison, cxlLd_of hld, htarget]
  exact (if_pos hup).trans (if_neg (ne_true_of_eq_false hroom))

/-- `GetDcConfiguration` answers the four partitions (R318, R305). -/
theorem runDcConfig_ld (hld : mbLd mb = some l) :
    runDcConfig mb s = mbReply s mb 0x4800 (.dcConfig ((List.range 4).map (fun k =>
      (staticLen s l + k * 2 ^ 40, if 2 ≤ k ∧ s.host.cxl = true ∧ s.host.flit256 = false then 0 else 2 ^ 40, k % 2 == 1)))) := by
  rw [runDcConfig, cxlLd_of hld]
  simp only [Bool.not_eq_true', partBase]

/-- `AddDcResponse` of offers that stand takes them up and declines the rest (R326). -/
theorem runAddDcResponse_offered {exts : List (Nat × Nat)} (hld : mbLd mb = some l) :
    let offers := s.island.grants.filter (fun g => !g.live && g.ld == l.val)
    exts.all (fun e => offers.any (fun g => g.dpa == e.1 && g.len == e.2)) = true →
    runAddDcResponse mb exts s = mbReply (modIsland ((offers.filter (fun g => exts.contains (g.dpa, g.len))).foldl (fun t g => acceptGrant t l g) s)
      (fun i => { i with grants := i.grants.filter (fun g => g.live || g.ld != l.val) })) mb 0x4802 .done := by
  intro offers hoffered
  rw [runAddDcResponse, cxlLd_of hld]
  exact if_neg (not_bnot hoffered)

/-- `ReleaseDynamicCapacity` of extents that stand begins their releases (R327). -/
theorem runReleaseDc_granted {exts : List (Nat × Nat)} (hld : mbLd mb = some l) (hsome : exts ≠ []) :
    let gs := s.island.grants.filter (fun g => g.live && !g.leaving && g.ld == l.val && exts.contains (g.dpa, g.len))
    exts.all (fun e => gs.any (fun g => g.dpa == e.1 && g.len == e.2)) = true →
    runReleaseDc mb exts s = grantsStep (gs.foldl (fun t g => leaveGrant t mb.val g) s) := by
  intro gs hgranted
  rw [runReleaseDc, cxlLd_of hld]
  exact if_neg (not_or.2 ⟨mt List.isEmpty_iff.1 hsome, not_bnot hgranted⟩)

/-- `InitiateDcAdd` of an extent that R325 refuses ends with its status and an event. -/
theorem runDcAdd_refused {part : Fin 4} {off len : Nat} {tag : BitVec 128} {e : St} (hfm : mbFm s mb = true)
    (hbad : extentBad s l part.val off len tag = some e) :
    runDcAdd mb l part off len tag s =
      raiseS (mbSt s mb 0x5604 e) 0x0603 sevWarn (natLe (stCode e) 2 ++ natLe l.val 1 ++ natLe part.val 1 ++ natLe tag.toNat 16) := by
  rw [runDcAdd, cxlFm_of hfm, hbad]

/-- `InitiateDcAdd` of an extent that R325 admits, with no home run to fill it from, offers it to the host. -/
theorem runDcAdd_offers {part : Fin 4} {off len : Nat} {tag : BitVec 128} {c : Ch} (hfm : mbFm s mb = true)
    (hgood : extentBad s l part.val off len tag = none) (hch : chOf (fld tag.toNat 95 92) = some c)
    (hrun : runAt s c.val (0x200000 * fld tag.toNat 91 76) = none) :
    let dpa := staticLen s l + part.val * 2 ^ 40 + off
    let g : Grant := { ld := l.val, part := part.val, dpa := dpa, len := len, region := BitVec.ofNat 32 (fld tag.toNat 127 96), ch := c.val,
                       t1 := 0x200000 * fld tag.toNat 91 76, owner := BitVec.ofNat 12 (fld tag.toNat 75 64), live := false, leaving := false, by_ := 33 }
    runDcAdd mb l part off len tag s =
      mbReply (dcNote (modIsland s (fun i => { i with grants := i.grants ++ [g] })) l 0 dpa len) mb 0x5604 .done := by
  rw [runDcAdd, cxlFm_of hfm, hgood]
  simp only [hch, hrun, Option.isNone_none, or_true, if_true]
  rfl

/-- `InitiateDcRelease` of a grant begins its forced release; an offer not yet taken up is withdrawn (R327). -/
theorem runDcRelease_found {part : Fin 4} {off len : Nat} {g : Grant} (hfm : mbFm s mb = true)
    (hfind : s.island.grants.find? (fun g => g.ld == l.val && g.dpa == partBase s l part.val + off && g.len == len && !g.leaving) = some g) :
    let t := dcNote s l 2 (partBase s l part.val + off) len
    runDcRelease mb l part off len s = if g.live then grantsStep (leaveGrant t mb.val g)
      else mbReply (modIsland t (fun i => { i with grants := i.grants.filter (fun x => x != g) })) mb 0x5605 .done := by
  rw [runDcRelease, cxlFm_of hfm]
  dsimp only
  rw [hfind]

/-- Settles O49: each command arrives where its mailbox serves it, and its checks pass. -/
theorem cxlCommandsAnswer : Obligations.CxlCommandsAnswer := by
  refine ⟨fun mb l s hld => ⟨?identify, fun h => cxlCmd_served h rfl rfl, ?log, ?poisonList, ?clearPoison, ?events, ?clearEvents, ?configuration,
      ?extentList, ?response, ?release, fun h => cxlCmd_served h rfl rfl, fun h => cxlCmd_served h rfl rfl, fun h => cxlCmd_served h rfl rfl⟩,
    fun mb s hfm => ⟨fun h => cxlCmd_served h rfl (cxlFm_of hfm _), fun h => cxlCmd_served h rfl (cxlFm_of hfm _),
      fun l part off len tag h => ⟨fun e hbad => cxlCmd_served h rfl (runDcAdd_refused hfm hbad),
        fun c hgood hch hrun => cxlCmd_served h rfl (runDcAdd_offers hfm hgood hch hrun)⟩,
      fun l part off len g h hfind => cxlCmd_served h rfl (runDcRelease_found hfm hfind)⟩⟩
  case identify => exact fun h => cxlCmd_served h rfl (by rw [runIdentify, hld])
  case log => exact fun off len h hlen => cxlCmd_served h rfl (if_pos ⟨rfl, hlen⟩)
  case poisonList => exact fun dpa len h => cxlCmd_served h rfl (cxlLd_of hld _)
  case clearPoison =>
    intro dpa owner t1 c data h htarget hup hroom
    exact cxlCmd_served h rfl (runClearPoison_window hld htarget hup hroom)
  case events => exact fun h => cxlCmd_served h rfl ((cxlLd_of hld _).trans (if_pos rfl))
  case clearEvents => exact fun hs h hknown => cxlCmd_served h rfl ((cxlLd_of hld _).trans (if_pos ⟨rfl, hknown⟩))
  case configuration => exact fun h => cxlCmd_served h rfl (runDcConfig_ld hld)
  case extentList => exact fun count start h => cxlCmd_served h rfl (cxlLd_of hld _)
  case response => exact fun exts h hoffered => cxlCmd_served h rfl (runAddDcResponse_offered hld hoffered)
  case release => exact fun exts h hsome hgranted => cxlCmd_served h rfl (runReleaseDc_granted hld hsome hgranted)

end Sys2Proof.Proofs
end

section
/-! SUPPORT. Key and firmware commands, purges, boot, the watchdog and the engine map with nothing in their way (R399, R430, R434 to R438, R442 to R450, R469),
and the statement about them. -/

namespace Sys2Proof.Proofs
open Sys2Proof Sys2Proof.Machine

variable {s : State} {mb : Mbox} {inp : List Byte} {slot : Nat}

/-! ## Owner keys (R430, R446, R448, R450) -/

/-- `KeyLoad` into an Empty slot goes by the key's decryption and its fields (R446). -/
theorem runKeyLoad_empty (h : mbServes s mb 0xC070 = true) (hlen : inp.length = 147) (hslot : bnum inp 0 2 < 4096)
    (hnames : mbNamesKey s mb (bnum inp 0 2) = true) (hempty : (keySlot s (bnum inp 0 2)).state = .empty) :
    let slot := bnum inp 0 2
    runKeyLoad mb inp s = match sm2Decrypt s.build.wrapKey (inp.drop 2) with
      | none => mbSt s mb 0xC070 .sigInvalid
      | some bs =>
        let p := wrapPlain bs
        if wrapBad s slot p then mbSt s mb 0xC070 .badField
        else
          let t := keyLogAppend s { type := 1, slot := BitVec.ofNat 16 slot, epoch := BitVec.ofNat 32 p.epoch, chans := 0, rseq := 0 }
          mbSt (modKey t slot (fun k =>
            { k with state := .loaded, key1 := p.key1, key2 := p.key2, lastEpoch := BitVec.ofNat 32 p.epoch })) mb 0xC070 .ok := by
  have hnotFailed : (keySlot s (bnum inp 0 2)).state ≠ .failed := by simp [hempty]
  rw [runKeyLoad, mbRun_serves_fg h (by simp [hlen])]
  exact (if_neg (Nat.not_le.2 hslot)).trans ((if_neg (not_bnot hnames)).trans ((if_neg hnotFailed).trans (if_neg (not_not.2 hempty))))

/-- `KeyDestroy` of a Loaded slot purges the caches of the channels that answer, and ends once every present channel has (R450). -/
theorem runKeyDestroy_loaded (hlen : inp.length = 2) (hslot : bnum inp 0 2 < 4096)
    (hnames : mbNamesKey s mb (bnum inp 0 2) = true) (hloaded : (keySlot s (bnum inp 0 2)).state = .loaded) (answered : List Ch) :
    let slot := bnum inp 0 2
    let ps := presentChs s
    let left := (ps.filter (fun c => !answered.contains c)).map (fun c => c.val)
    let t := forCh (modIsland s (fun i => { i with destroy := some { mb := mb.val, slot, wait := left, isolated := 0 } }))
      (ps.filter (fun c => answered.contains c)) (fun t c => purgeCache t c slot)
    runKeyDestroy mb inp answered s = if left = [] then destroyFinish t mb slot 0 else t := by
  intro slot ps left t
  rw [runKeyDestroy, mbRun_rec_fg (by simp [hlen])]
  refine (if_neg (Nat.not_le.2 hslot)).trans ((if_neg (not_bnot hnames)).trans ?_)
  rw [hloaded]
  simp only [List.isEmpty_iff]
  rfl

/-- A channel does not acknowledge the purge of a key: it is isolated, and the command goes on (R430). -/
theorem purgeTimeout_awaited {c : Ch} {d : KeyDestroying} (h : d.mb < 33) (hdestroy : s.island.destroy = some d) (hslot : d.slot = slot)
    (hwait : d.wait.contains c.val = true) :
    let t := purgeCache (isolateCh s c 6) c slot
    let left := d.wait.filter (fun x => x != c.val)
    purgeTimeout s c slot = if left.isEmpty then destroyFinish t ⟨d.mb, h⟩ slot (d.isolated + 1)
      else modIsland t (fun i => { i with destroy := some { d with wait := left, isolated := d.isolated + 1 } }) := by
  rw [purgeTimeout, hdestroy]
  exact (if_neg (not_or.2 ⟨not_not.2 hslot, not_bnot hwait⟩)).trans (dif_pos h)

/-- A Loaded slot that fails its check loses its key; it is Failed where no spare is left, else Empty in a spare (R448). -/
theorem keyFails_loaded (hloaded : (keySlot s slot).state = .loaded) :
    let r := forCh (modIsland s (fun i => { i with keyRot := i.keyRot.filter (fun x => x != slot) })) allCh (fun t c => purgeCache t c slot)
    let t := modKey r slot (fun k => { k with state := if r.island.keySpares = 0 then .failed else .empty, key1 := 0, key2 := 0 })
    let u := modIsland t (fun i => { i with keySpares := i.keySpares - 1 })
    keyFails s slot = if r.island.keySpares = 0 then t
      else raiseOn u (queuesKey u slot) 0x0202 sevInfo none 0xF (natLe 5 1 ++ natLe slot 4) := by
  intro r t u
  have hkey : keyLoaded s slot = true := by simp [keyLoaded, hloaded]
  refine (if_neg (not_bnot hkey)).trans ?_
  by_cases hspares : r.island.keySpares = 0
  case pos =>
    refine (if_pos hspares).trans ?_
    simp only [t, hspares, if_true]
    rfl
  case neg =>
    refine (if_neg hspares).trans ?_
    simp only [u, t, hspares, if_false]
    rfl

/-! ## Firmware (R434 to R438) -/

/-- `FirmwareUpdate` programs a chunk within the area of the idle copy (R436). -/
theorem runFirmwareUpdate_inArea (h : mbServes s mb 0xC080 = true) (hmin : 4 ≤ inp.length) (hmax : inp.length ≤ 4092) (hfm : mbFm s mb = true)
    (harea : bnum inp 0 4 + (inp.length - 4) ≤ 0x400000) :
    let o := bnum inp 0 4
    runFirmwareUpdate mb inp s = mbSt (modFw s (fun f =>
      if f.runB then { f with copyA := fwProgram f.copyA o (inp.drop 4) } else { f with copyB := fwProgram f.copyB o (inp.drop 4) })) mb 0xC080 .ok := by
  have hroom : ¬ fwArea < bnum inp 0 4 + (inp.drop 4).length := by
    rw [List.length_drop]
    exact Nat.not_lt.2 harea
  rw [runFirmwareUpdate, mbRun_serves_fg h (decide_eq_true ⟨hmin, hmax⟩)]
  exact (if_neg (not_bnot hfm)).trans (if_neg hroom)

/-- `FirmwareActivate` of a complete image ends with R434's refusal, or prefers the image and restarts Kiln (R437). -/
theorem runFirmwareActivate_complete (h : mbServes s mb 0xC081 = true) (hfm : mbFm s mb = true) (hbg : (s.mb mb).bg = none)
    (hcomplete : fwComplete (fwIdle s.island.fw) = true) :
    runFirmwareActivate mb [] s = match fwCheck s (fwIdle s.island.fw) with
      | some e => mbSt s mb 0xC081 e
      | none => fwRestart (modFw (mbStart s mb 0xC081 .fwActivate)
          (fun f => { f with preferB := !f.runB, copyA := { f.copyA with begun := false }, copyB := { f.copyB with begun := false } }))
          (fwRaises (fwIdle s.island.fw)) := by
  rw [runFirmwareActivate, mbRun_serves h List.isEmpty_nil (fun _ => hbg)]
  exact (if_neg (not_bnot hfm)).trans (if_neg (not_bnot hcomplete))

/-- `FirmwareRecover` collects a chunk; the last one of a complete image ends with R434's refusal, or writes copy A and restarts Kiln (R438). -/
theorem runFirmwareRecover_inArea (hmin : 5 ≤ inp.length) (hmax : inp.length ≤ 4093) (hfrom : mb = sidebandMb ∨ mb = 0)
    (harea : bnum inp 0 4 + (inp.length - 5) ≤ 0x400000) :
    let x := fwProgram s.island.fw.recovery (bnum inp 0 4) (inp.drop 5)
    (bnum inp 4 1 = 0 → runFirmwareRecover mb inp s = mbSt (modFw s (fun f => { f with recovery := x })) mb 0xC082 .ok) ∧
    (bnum inp 4 1 = 1 → fwComplete x = true →
      let t := modFw s (fun f => { f with recovery := .empty })
      runFirmwareRecover mb inp s = match fwCheck t x with
        | some e => mbSt t mb 0xC082 e
        | none => fwRestart (mbSt (modFw t (fun f => { f with copyA := { x with begun := false }, preferB := false })) mb 0xC082 .ok) (fwRaises x)) := by
  have hmb : (mb == sidebandMb || mb == 0) = true := by simpa using hfrom
  have hfields {last : Nat} (hlast : last ≤ 1) : ¬ (1 < last ∨ fwArea < bnum inp 0 4 + (inp.drop 5).length) := by
    rw [List.length_drop]
    exact not_or.2 ⟨Nat.not_lt.2 hlast, Nat.not_lt.2 harea⟩
  rw [runFirmwareRecover, mbRun_rec_fg (decide_eq_true ⟨hmin, hmax⟩)]
  refine ⟨fun hlast => (if_neg (not_bnot hmb)).trans ((if_neg (hfields (by omega))).trans (if_pos hlast)), fun hlast hcomplete => ?_⟩
  exact (if_neg (not_bnot hmb)).trans ((if_neg (hfields (by omega))).trans ((if_neg (by omega)).trans (if_neg (not_bnot hcomplete))))

/-- Settles O51: each command that its mailbox serves goes past its checks, and each event is one that can arise. -/
theorem securityCommandsRun : Obligations.SecurityCommandsRun := by
  refine ⟨fun mb inp s => ⟨?load, ?destroy, ?query, ?update, ?activate, ?recover⟩, ?purge, ?timeout, ?storage, ?boot, ?watchdog, ?engines⟩
  case load =>
    intro h hlen hslot hnames hempty
    exact next_of_served (mbServes_rec h).1 rfl (runKeyLoad_empty h hlen hslot hnames hempty)
  case destroy =>
    intro h hlen hslot hnames hloaded answered
    exact next_of_served h rfl (runKeyDestroy_loaded hlen hslot hnames hloaded answered)
  case query =>
    intro h hlen hslot hnames
    exact served_fg h rfl hlen ((if_neg (Nat.not_le.2 hslot)).trans (if_neg (not_bnot hnames)))
  case update =>
    intro h hmin hmax hfm harea
    exact next_of_served (mbServes_rec h).1 rfl (runFirmwareUpdate_inArea h hmin hmax hfm harea)
  case activate =>
    rintro h rfl hfm hbg hcomplete
    exact next_of_served (mbServes_rec h).1 rfl (runFirmwareActivate_complete h hfm hbg hcomplete)
  case recover =>
    intro h hmin hmax hfrom harea
    obtain ⟨hchunk, hlast⟩ := runFirmwareRecover_inArea hmin hmax hfrom harea
    exact ⟨fun hmore => next_of_served h rfl (hchunk hmore), fun hend hcomplete => next_of_served h rfl (hlast hend hcomplete)⟩
  case purge =>
    intro c slot s hup hpurge
    show execOwnerPurge c slot s = _
    rw [execOwnerPurge, if_pos hup, ownerPurgeStep, if_neg (not_bnot hpurge)]
  case timeout =>
    intro c slot s d h hdestroy hslot hwait
    exact congrArg (fun t => Host.Outcome.next (mbDispatch t)) (purgeTimeout_awaited h hdestroy hslot hwait)
  case storage =>
    intro slot s hloaded
    show execKeyStorageCheck [slot] s = _
    rw [execKeyStorageCheck, List.singleton_append, List.foldl_cons, keyFails_loaded hloaded]
  case boot =>
    intro s hon hboots
    refine congrArg _ ((if_neg (not_or.2 ⟨not_bnot hon, not_not.2 hboots⟩)).trans ?_)
    cases fwChoose s <;> rfl
  case watchdog => exact fun s hon hruns => congrArg _ (if_neg (not_or.2 ⟨not_bnot hon, not_not.2 hruns⟩))
  case engines =>
    intro c s hdue hcommit hruns
    exact congrArg _ (if_neg (not_or.2 ⟨mt List.isEmpty_iff.1 hdue, not_or.2 ⟨by simp [hcommit], not_not.2 hruns⟩⟩))

end Sys2Proof.Proofs
end

section
/-! SUPPORT. Heat and the governor (R480, R482, R483, R502): what of the throttle levels and of the THROTTLES count the other parts of a sample leave
alone, a change of every channel, and the two statements about them. -/

namespace Sys2Proof.Proofs
open Sys2Proof Sys2Proof.Machine

variable {s t u : State} {c : Ch}

/-! ## What an event leaves of the device's counters (R422 to R424) -/

/-- A record's signal changes nothing of the island. -/
@[simp] theorem evSignal_island (n : Fin 17) (sev : BitVec 2) : (evSignal s n sev).island = s.island := by
  unfold evSignal
  split
  · split
    · exact msixReq_island _ _
    · rfl
  · split <;> rfl

/-- A record put into a queue changes no counter of the device. -/
@[simp] theorem evWrite_devHealth (n : Fin 17) (x : EvRec) : (evWrite s n x).island.devHealth = s.island.devHealth := by
  rw [evWrite, evSignal_island]
  rfl

/-- A dropped record changes no counter of the device but its queue's own. -/
@[simp] theorem evDrop_devHealth (n : Fin 17) : (evDrop s n).island.devHealth = s.island.devHealth := rfl

/-- A record appended, dropped, or put after an overflow record changes no counter of the device (R423). -/
@[simp] theorem evAppend_devHealth (n : Fin 17) (x : EvRec) : (evAppend s n x).island.devHealth = s.island.devHealth := by
  unfold evAppend
  dsimp only
  by_cases hfull : evFull s.island.evq[n] = true
  · rw [if_pos hfull, evDrop_devHealth]
  · by_cases hdrops : s.island.evq[n].drops = 0
    · rw [if_neg hfull, if_pos hdrops, evWrite_devHealth]
    · rw [if_neg hfull, if_neg hdrops, apply_ite State.island, apply_ite Island.devHealth]
      simp [modIsland]

/-- An event changes no counter of the device. -/
@[simp] theorem raiseOn_devHealth (qs : List (Fin 17)) (code : BitVec 16) (sev : BitVec 2) (d : Option Ch) (ld : Nat) (detail : List Byte) :
    (raiseOn s qs code sev d ld detail).island.devHealth = s.island.devHealth := by
  unfold raiseOn
  dsimp only
  exact List.foldlRecOn (motive := fun t : State => t.island.devHealth = s.island.devHealth) qs _ rfl (fun t ht n _ => (evAppend_devHealth n _).trans ht)

/-! ## What leaves the throttle levels alone -/

/-- No throttle level or reading of a channel and not the THROTTLES count differs. -/
structure SameHeat (s t : State) : Prop where
  throttle : ∀ d : Ch, (t.ch d).throttle = (s.ch d).throttle
  count : t.island.devHealth.throttles = s.island.devHealth.throttles

theorem SameHeat.refl (s : State) : SameHeat s s := ⟨fun _ => rfl, rfl⟩

theorem SameHeat.trans (h : SameHeat s t) (k : SameHeat t u) : SameHeat s u :=
  ⟨fun d => (k.throttle d).trans (h.throttle d), k.count.trans h.count⟩

/-- A change of the island that leaves the count alone. -/
theorem SameHeat.modIsland (h : SameHeat s t) {f : Island → Island} (hf : ∀ i, (f i).devHealth.throttles = i.devHealth.throttles) :
    SameHeat s (modIsland t f) :=
  h.trans ⟨fun _ => rfl, hf _⟩

/-- A change of the device's counters that leaves the count alone. -/
theorem SameHeat.modDev (h : SameHeat s t) {f : DevHealth → DevHealth} (hf : ∀ x, (f x).throttles = x.throttles) : SameHeat s (modDev t f) :=
  h.trans ⟨fun _ => rfl, hf _⟩

/-- A change of the self-test. -/
theorem SameHeat.modTest (h : SameHeat s t) (f : SelfTest → SelfTest) : SameHeat s (modTest t f) := h.trans ⟨fun _ => rfl, rfl⟩

/-- A change of a channel's counters. -/
theorem SameHeat.modHealth (h : SameHeat s t) (f : ChHealth → ChHealth) : SameHeat s (modHealth t c f) :=
  h.trans ⟨fun d => modHealth_ch_throttle t c d f, rfl⟩

/-- An event of scope D. -/
theorem SameHeat.raiseD (h : SameHeat s t) (code : BitVec 16) (sev : BitVec 2) (detail : List Byte) : SameHeat s (raiseD t code sev detail) :=
  h.trans ⟨fun d => by simp only [State.ch, Machine.raiseD, raiseOn_chans], by rw [Machine.raiseD, raiseOn_devHealth]⟩

/-- The end of a background command. -/
theorem SameHeat.mbDone (h : SameHeat s t) (mb : Mbox) (x : St) (out : List Byte) : SameHeat s (mbDone t mb x out) := by
  refine h.trans ?_
  have hmb (f : MbState → MbState) : SameHeat t (modMb t mb f) := ⟨fun _ => rfl, rfl⟩
  have hmsix (w : State) (l : Ld) (vec : Nat) : SameHeat w (msixReq w l vec) :=
    ⟨fun d => by simp only [State.ch, msixReq_chans], by rw [msixReq_island]⟩
  unfold Machine.mbDone
  split
  · exact hmb _
  · dsimp only
    split
    · split
      · exact (hmb _).trans (hmsix _ _ _)
      · exact hmb _
    · exact hmb _

/-- The end of a `Shutdown`. -/
theorem SameHeat.shutEnd (h : SameHeat s t) (mb : Mbox) : SameHeat s (shutEnd t mb) := by
  rw [Machine.shutEnd]
  have hdone : SameHeat t (Machine.modIsland t (fun i => { i with supply := { i.supply with shdnDone := true } })) := ⟨fun _ => rfl, rfl⟩
  exact (h.trans hdone).mbDone mb .ok []

/-- The end of the `Shutdown` commands whose test has ended. -/
theorem SameHeat.shutTested (h : SameHeat s t) : SameHeat s (shutTested t) := by
  unfold Machine.shutTested forTasks
  refine List.foldlRecOn (motive := SameHeat s) allMbs _ h (fun w hw mb _ => ?_)
  split
  · dsimp only
    split
    · exact hw.shutEnd mb
    · exact hw
  · exact hw

/-- The abort of a test (R465). -/
theorem SameHeat.abortTest (h : SameHeat s t) (cause : Nat) : SameHeat s (abortTest t cause) := by
  have hdev : SameHeat s (Machine.modDev t (fun x => { x with testsAborted := x.testsAborted + 1 })) := h.modDev (fun _ => rfl)
  unfold Machine.abortTest
  dsimp only
  split
  · exact h
  · split
    · exact ((hdev.modTest _).modTest _).shutTested
    · exact (hdev.modTest _).modTest _

/-- The least and greatest temperatures (R487, R488). -/
theorem SameHeat.joinTemps (h : SameHeat s t) (die tj : Int) : SameHeat s (joinTemps t c die tj) := by
  unfold Machine.joinTemps
  dsimp only
  split
  · refine SameHeat.modTest (SameHeat.modDev (h.modHealth _) ?_) _
    exact fun _ => rfl
  · refine SameHeat.modDev (h.modHealth _) ?_
    exact fun _ => rfl

/-! ## The thermal level (R480) -/

/-- The thermal level by the distance of Tj from the throttle temperature. -/
theorem thermalNext_eq (old : Nat) (tC tj : Int) : thermalNext old tC tj =
    if tC + 4 ≤ tj then 3 else if tC + 2 ≤ tj then 2 else if tC ≤ tj then 1 else if tj < tC - 5 then 0 else if old = 0 then 0 else 1 := by
  unfold thermalNext
  split_ifs <;> omega

/-- A channel's thermal level and its readings. -/
def heated (s : State) (c : Ch) (level : Nat) (tj die : Int) : State :=
  modCh s c (fun ch => { ch with throttle := { ch.throttle with thermal := level, tj, die } })

/-- What a thermal sample of a present channel leaves, the device being up: the level and the readings of its channel, and one more throttling
where the level leaves 0. -/
theorem exec_thermalSample_present {sensor : Byte} {die stack : Int} (hon : s.island.supply.aon = true) (hvalid : s.island.supply.down = [])
    (hpresent : isPresent s c = true) :
    let tj := max die stack
    let old := (s.ch c).throttle.thermal
    let new := thermalNext old (throttleC s) tj
    ∃ t : State, exec (.thermalSample c sensor die stack) s = .next t ∧
      (∀ d : Ch, (t.ch d).throttle = ((heated s c new tj die).ch d).throttle) ∧
      t.island.devHealth.throttles = s.island.devHealth.throttles + (if old = 0 ∧ new ≠ 0 then 1 else 0) := by
  intro tj old new
  have hruns : ¬ ((!s.island.supply.aon) = true ∨ (!s.island.supply.down.isEmpty) = true ∨ (!isPresent s c) = true) := by simp [hon, hvalid, hpresent]
  refine ⟨_, congrArg Host.Outcome.next (if_neg hruns), ?_⟩
  have hjoin := (SameHeat.refl (heated s c new tj die)).joinTemps (c := c) die tj
  dsimp only
  by_cases hrise : old = 0 ∧ new ≠ 0
  case pos =>
    rw [if_pos hrise, if_pos hrise]
    let joined := joinTemps (heated s c new tj die) c die tj
    let counted := modHealth joined c (fun h => { h with throttles := h.throttles + 1 })
    have hcounted : SameHeat joined counted := (SameHeat.refl joined).modHealth _
    have hlast := ((SameHeat.refl (modDev counted (fun d => { d with throttles := d.throttles + 1 }))).raiseD 0x0102 sevWarn
      ([sensor] ++ intLe tj 2)).abortTest 3
    refine ⟨fun d => (hlast.throttle d).trans ((hcounted.throttle d).trans (hjoin.throttle d)), hlast.count.trans ?_⟩
    exact congrArg (· + 1) hjoin.count
  case neg =>
    rw [if_neg hrise, if_neg hrise]
    split
    · exact ⟨(hjoin.raiseD _ _ _).throttle, (hjoin.raiseD _ _ _).count⟩
    · exact ⟨hjoin.throttle, hjoin.count⟩

/-- Settles O56: the sample sets the level by R480, and nothing after it changes a level. -/
theorem thermalLevelFollowsTheTemperature : Obligations.ThermalLevelFollowsTheTemperature := by
  intro c sensor die stack s hon hvalid hpresent tC tj old level
  have htj : max die stack = tj := max_def die stack
  have hlevel : thermalNext old (throttleC s) (max die stack) = level := by
    rw [htj]
    exact thermalNext_eq old tC tj
  obtain ⟨t, hexec, hthrottle, hcount⟩ := exec_thermalSample_present (sensor := sensor) (die := die) (stack := stack) hon hvalid hpresent
  rw [htj] at hthrottle
  refine ⟨t, hexec, (hthrottle c).trans ?_, fun d hd => (hthrottle d).trans ?_, hcount.trans ?_⟩
  · rw [heated, ch_modCh_same, ← htj, ← hlevel]
  · rw [heated, ch_modCh_ne s hd]
  · rw [← hlevel]

/-! ## The governor (R483, R502) -/

/-- A channel after the same change of each channel of a list. -/
theorem ch_forCh_modCh {l : List Ch} (hl : l.Nodup) (f : Channel → Channel) (d : Ch) :
    (forCh s l (fun t c => modCh t c f)).ch d = if d ∈ l then f (s.ch d) else s.ch d := by
  induction l generalizing s with
  | nil => rfl
  | cons x xs ih =>
    obtain ⟨hx, hxs⟩ := List.nodup_cons.1 hl
    refine (ih hxs).trans ?_
    by_cases hd : d = x
    case pos =>
      subst hd
      rw [if_neg hx, if_pos List.mem_cons_self, ch_modCh_same]
    case neg => simp [List.mem_cons, hd, ch_modCh_ne s hd]

/-- Changes of channels leave the island. -/
theorem island_forCh_modCh (l : List Ch) (f : Channel → Channel) : (forCh s l (fun t c => modCh t c f)).island = s.island :=
  List.foldlRecOn (motive := fun t : State => t.island = s.island) l _ rfl (fun _ ht _ _ => ht)

/-- Every channel is among all of them. -/
theorem mem_allCh (d : Ch) : d ∈ allCh := by
  revert d
  decide

/-- The same change of every channel. -/
theorem ch_forAllCh (f : Channel → Channel) (d : Ch) : (forCh s allCh (fun t c => modCh t c f)).ch d = f (s.ch d) :=
  (ch_forCh_modCh (by decide) f d).trans (if_pos (mem_allCh d))

/-- The governor's next level, by cases. -/
theorem govNext_eq (old limit watts : Nat) : govNext old limit watts =
    if limit < watts then (if old < 3 then old + 1 else 3) else if 100 * watts < 95 * limit then old - 1 else old := by
  unfold govNext
  split_ifs <;> omega

/-- The VCORE setpoint that follows, by cases. -/
theorem govSetpoint_eq (old limit watts sp : Nat) : govSetpoint old limit watts sp =
    if old = 3 ∧ limit < watts then (if 710 ≤ sp then sp - 10 else 700)
    else if old = 0 ∧ sp < 760 then (if sp ≤ 750 then sp + 10 else 760) else sp := by
  unfold govSetpoint
  split_ifs <;> omega

/-- A request of a setpoint changes it alone in the supply monitor. -/
theorem setpointTo_supply (mv : Nat) : (setpointTo s mv).island.supply = { s.island.supply with setpoint := mv } := by
  unfold setpointTo
  split
  · next h => rw [← h]
  · rfl

/-- A request of a setpoint changes no channel. -/
theorem ch_setpointTo (mv : Nat) (d : Ch) : (setpointTo s mv).ch d = s.ch d := by
  unfold setpointTo
  split <;> rfl

/-- A sample of VCORE in the supply monitor. -/
theorem vcoreSample_supply (mv : Nat) : (vcoreSample s .vcore mv).island.supply = { s.island.supply with vcoreMv := BitVec.ofNat 16 mv } := rfl

/-- A sample of a rail changes no channel. -/
theorem ch_vcoreSample (r : Rail) (mv : Nat) (d : Ch) : (vcoreSample s r mv).ch d = s.ch d := by
  unfold vcoreSample
  split <;> rfl

/-- What the governor sets in a window at a level, a power and a setpoint. -/
def governed (s : State) (watts level sp : Nat) : State :=
  setpointTo (forCh (modDev (modSupply s (fun y => { y with govLevel := level, powerW := BitVec.ofNat 11 watts }))
    (fun d => { d with peakW := max d.peakW watts, govWindows := d.govWindows + b2n (level != 0) })) allCh
    (fun t c => modCh t c (fun ch => { ch with throttle := { ch.throttle with governor := level } }))) sp

/-- The governor's window (R483). -/
theorem exec_governorWindow (sense : PowerSense) (mv : Nat) (hon : s.island.supply.aon = true) :
    exec (.governorWindow sense mv) s = .next (if 820 ≤ limitW s then vcoreSample s .vcore mv
      else governed (vcoreSample s .vcore mv) (packageW sense mv) (govNext s.island.supply.govLevel (limitW s) (packageW sense mv))
        (govSetpoint s.island.supply.govLevel (limitW s) (packageW sense mv) s.island.supply.setpoint)) := by
  have hsetpoint (w : State) (f : Supply → Supply) (g : DevHealth → DevHealth) (k : Channel → Channel) :
      (forCh (modDev (modSupply w f) g) allCh (fun t c => modCh t c k)).island.supply = f w.island.supply := by
    rw [island_forCh_modCh]; rfl
  show execGovernorWindow sense mv s = _
  unfold execGovernorWindow
  rw [if_neg (not_bnot hon)]
  dsimp only
  rw [hsetpoint]
  rfl

/-- The supply monitor after a window. -/
theorem governed_supply (watts level sp : Nat) :
    (governed s watts level sp).island.supply = { s.island.supply with govLevel := level, powerW := BitVec.ofNat 11 watts, setpoint := sp } := by
  rw [governed, setpointTo_supply, island_forCh_modCh]
  rfl

/-- A channel after a window. -/
theorem ch_governed (watts level sp : Nat) (d : Ch) :
    (governed s watts level sp).ch d = { s.ch d with throttle := { (s.ch d).throttle with governor := level } } := by
  rw [governed, ch_setpointTo, ch_forAllCh]
  rfl

/-- Settles O57: the window's sample changes VCORE's reading alone; below 820 W the level, the reading and the setpoint follow, and every channel takes the
level. -/
theorem governorLevelAppliesToEveryChannel : Obligations.GovernorLevelAppliesToEveryChannel := by
  intro sense mv s hon watts y limit old level sp
  have hlevel : govNext old limit (packageW sense mv) = level := govNext_eq old limit watts
  have hsp : govSetpoint old limit (packageW sense mv) y.setpoint = sp := govSetpoint_eq old limit watts y.setpoint
  refine ⟨_, exec_governorWindow sense mv hon, fun hidle => ?idle, fun hlimit => ?governs⟩
  case idle =>
    rw [if_pos hidle]
    exact ⟨vcoreSample_supply mv, ch_vcoreSample .vcore mv⟩
  case governs =>
    rw [if_neg (Nat.not_le.2 hlimit), hlevel, hsp]
    refine ⟨?_, fun d => ?_⟩
    · rw [governed_supply, vcoreSample_supply, packageW]
    · rw [ch_governed, ch_vcoreSample]

end Sys2Proof.Proofs
end

section
/-! SUPPORT. Supply, trips, starts, the self-test and stack lanes (R461 to R481, R498 to R502): the events' guards, the crossing of a warning level, and
the statement about them. -/

namespace Sys2Proof.Proofs
open Sys2Proof Sys2Proof.Machine

variable {s : State} {c g : Ch} {r : Rail}

/-! ## Rails (R474 to R478) -/

/-- What a crossing does to the monitor's record of the rails, before anything is told. -/
def crossing (s : State) (r : Rail) (mv : Nat) : State :=
  modDev (vcoreSample (modSupply (modSupply s (fun y => { y with low := if y.low.contains r then y.low else y.low ++ [r] }))
    (fun y => { y with warn := y.warn ||| railBit r })) r mv) (fun d => { d with
      supplyWarns := d.supplyWarns + 1, pfPin := d.pfPin + b2n (r == .pwrfail)
      railWarn := d.railWarn.set (railCode r) (d.railWarn[railCode r] + 1) })

/-- No rail is in warning but those that have not been valid since the rise of VAON (R498). -/
theorem not_warned : (!warned s) = true ↔ s.island.supply.warn &&& ~~~ s.island.supply.rising = 0 := by
  simp [warned]

/-- A crossing of a rail that is not in warning, the first of all or a further one (R477). -/
theorem warnOn_new (mv : Nat) (hon : s.island.supply.aon = true) (hnew : inWarn s r = false) :
    warnOn s r mv =
      let t := crossing s r mv
      let det := natLe (railCode r).val 1 ++ natLe mv 2
      let u := raiseD (startFlush (supplyThrottle t 3)) 0x0100 sevWarn det
      let ups := allCh.filter (isUp u)
      abortTest (if s.island.supply.warn &&& ~~~ s.island.supply.rising = 0 then
          modSupply (forCh u ups (fun t c => sendFlit t c true false)) (fun y => { y with ackDue := ups.map (fun c => c.val) })
        else raiseD t 0x0100 sevWarn det) 2 := by
  have hstill (f : Supply → List Rail) : ¬ inWarn (modSupply s (fun y => { y with low := f y })) r = true := by
    simpa [inWarn, modSupply, modIsland] using hnew
  have hfirst (f : Supply → List Rail) : (!warned (modSupply s (fun y => { y with low := f y }))) = (!warned s) := rfl
  unfold warnOn
  rw [if_neg (not_bnot hon)]
  dsimp only
  rw [if_neg (hstill _), hfirst]
  by_cases hw : s.island.supply.warn &&& ~~~ s.island.supply.rising = 0
  · rw [not_warned.2 hw, if_pos hw]
    rfl
  · rw [Bool.eq_false_iff.2 (mt not_warned.1 hw), if_neg hw]
    rfl

/-- A rail's sample below its level, or its pin (R474). -/
theorem exec_supplyWarn (mv : Nat) (hr : r ≠ .vaonIo) (hlow : r = .pwrfail ∨ 100 * mv < warnLevel r) :
    exec (.supplyWarn r mv) s = .next (warnOn s r mv) := by
  have hisLow : isLow r mv = true := by simpa [isLow] using hlow
  show execSupplyWarn r mv s = _
  rw [execSupplyWarn, if_neg hr, if_pos hisLow]

/-- A fault of a regulator that Kiln reads (R502). -/
theorem exec_regulatorAlert (mv : Nat) (hon : s.island.supply.aon = true) (hr : r = .vcore ∨ r = .vsram) :
    exec (.regulatorAlert r true mv) s = .next (warnOn (emit s (.statusWord r)) r mv) := by
  have hserved : ¬ ((!s.island.supply.aon) = true ∨ (!decide (r = .vcore ∨ r = .vsram)) = true) := by simp [hon, hr]
  show execRegulatorAlert r true mv s = _
  rw [execRegulatorAlert, if_neg hserved]
  rfl

/-- An acknowledge that did not come (R428). -/
theorem exec_warnAckTimeout (hdue : s.island.supply.ackDue.contains c.val = true) :
    exec (.warnAckTimeout c) s = .next (tripCheck (isolateCh (modMarl (modSupply s (fun y => { y with
      ackDue := y.ackDue.filter (fun n => n != c.val) })) c (fun m => { m with flushing := false })) c 4)) := by
  show execWarnAckTimeout c s = _
  rw [execWarnAckTimeout, if_neg (not_bnot hdue)]

/-- A rail recovers, alone of its code or not, as the last one or not (R478, R498). -/
theorem exec_supplyOk (mv : Nat) (hr : r ≠ .vaonIo) (hwarn : inWarn s r = true) (hback : r = .pwrfail ∨ warnLevel r + 2000 < 100 * mv) :
    let s1 := modSupply s (fun y => { y with low := y.low.filter (fun q => q != r) })
    let t := vcoreSample (modSupply s1 (fun y => { y with
      warn := y.warn &&& ~~~ (railBit r), rising := y.rising &&& ~~~ (railBit r) })) r mv
    exec (.supplyOk r mv) s = .next (
      if s1.island.supply.low.any (fun q => railCode q == railCode r) then s1
      else if isRising s1 r = true ∨ warned t = true then t
      else forCh (raiseD (supplyThrottle t 0) 0x0101 sevInfo (natLe (railCode r).val 1 ++ natLe mv 2)) allCh
        (fun t c => if (t.marl c).flushing then t else unhold t c)) := by
  have hrecovers : ¬ ((!inWarn s r) = true ∨ (!isBack r mv) = true) := by
    have hisBack : isBack r mv = true := by simpa [isBack] using hback
    simp [hwarn, hisBack]
  intro s1 t
  show execSupplyOk r mv s = _
  rw [execSupplyOk, if_neg hr, if_neg hrecovers]

/-- The condition of a recovery as it is stated: the rail was valid before, and none is in warning. -/
theorem not_rising_or_warned {t : State} : (¬ (isRising s r = true ∨ warned t = true)) ↔
    s.island.supply.rising.getLsbD (railCode r) = false ∧ t.island.supply.warn &&& ~~~ t.island.supply.rising = 0 := by
  rw [not_or, ← not_warned]
  simp [isRising]

/-- A channel's flush is complete (R478). -/
theorem exec_flushComplete (hflush : (s.marl c).flushing = true) :
    let t := modMarl (flushPage (flushPage s c) c) c (fun m => { m with flushing := false })
    exec (.flushComplete c) s = .next (tripCheck (modSupply (if warned t = true ∨ t.island.supply.tripping = true then t else unhold t c)
      (fun y => { y with ackDue := y.ackDue.filter (fun n => n != c.val) }))) := by
  intro t
  show execFlushComplete c s = _
  rw [execFlushComplete, if_neg (not_bnot hflush)]

/-- A page buffer becomes durable where it holds a record. -/
theorem flushPage_eq : flushPage s c = if (s.marl c).jbuf = [] then s else pageDurable s c := by
  simp [flushPage, List.isEmpty_iff]

/-! ## Resets, trips and faults (R22, R476, R481) -/

/-- A dip of VCORE or VSRAM below its reset level (R474, R476). -/
theorem exec_supplyReset (mv : Nat) (hon : s.island.supply.aon = true) (hdip : r = .vcore ∧ mv < 620 ∨ r = .vsram ∧ mv < 700)
    (hdown : s.island.supply.down.contains r = false) (hvalid : s.island.supply.rising.getLsbD (railCode r) = false) :
    let used := (presentChs s).any (fun c => (s.ch c).state != .off)
    let t := modDev s (fun d => { d with
      supplyResets := d.supplyResets + 1, railReset := d.railReset.set (railCode r) (d.railReset[railCode r] + 1) })
    let u := abortTest (modSupply t (fun y => { y with
      down := y.down ++ [r], low := if y.low.contains r then y.low else y.low ++ [r], warn := y.warn ||| railBit r, tripping := false, ackDue := [] })) 2
    let v := if used then dropResult u 4 else u
    let w := forCh v (presentChs v) (fun t c => modCh (resetCh (endOps t c) c false) c (fun ch => { ch with state := .off }))
    exec (.supplyReset { rail := r, mv }) s = .next (mbDispatch (destroyAfterReset (endChTasks (rebuildRegions w)))) := by
  have hresets : ¬ ((!s.island.supply.aon) = true ∨ resetLevel r ≤ mv ∨ (!decide (r = .vcore ∨ r = .vsram)) = true ∨
      s.island.supply.down.contains r = true ∨ isRising s r = true) := by
    have hlow : mv < resetLevel r ∧ (r = .vcore ∨ r = .vsram) := by
      rcases hdip with ⟨rfl, hmv⟩ | ⟨rfl, hmv⟩
      · exact ⟨hmv, .inl rfl⟩
      · exact ⟨hmv, .inr rfl⟩
    rintro (haon | hhigh | hother | hfallen | hrising)
    · exact not_bnot hon haon
    · exact Nat.not_le.2 hlow.1 hhigh
    · exact not_bnot (decide_eq_true hlow.2) hother
    · exact Bool.eq_false_iff.1 hdown hfallen
    · exact Bool.eq_false_iff.1 hvalid hrising
  show execSupplyReset { rail := r, mv } s = _
  rw [execSupplyReset, if_neg hresets]

/-- The return of VCORE and VSRAM (R476). -/
theorem exec_supplyRestored (hdown : s.island.supply.down ≠ []) (hcore : inWarn s .vcore = false) (hsram : inWarn s .vsram = false) :
    let t := modSupply s (fun y => { y with down := [] })
    exec .supplyRestored s = .next (beginStarts t (offConnected t)) := by
  have hreturns : ¬ (s.island.supply.down.isEmpty = true ∨ inWarn s .vcore = true ∨ inWarn s .vsram = true) := by
    simp [hdown, hcore, hsram]
  show execSupplyRestored s = _
  rw [execSupplyRestored, if_neg hreturns]

/-- The WARN bits of the rails of the later stages. -/
theorem stageBits_eq : stageBits = 0x3B := by decide

/-- The rise of VAON (R399, R447, R476, R498). -/
theorem exec_coldStart (hoff : s.island.supply.aon = false) :
    let l := klStart s.island.keyLog
    exec .coldStart s = .next (modSupply (modIsland s (fun i => { i with
      kiln := .booting, cause := 0, keyLog := l, keySlots := (klRead (klActive l)).foldl keyFromLog [] }))
      (fun y => { y with aon := true, warn := 0x3B, rising := 0x3B
                         low := [.vcore, .vsram, .vnand, .stack 0, .stack 1, .stack 2, .phy 0, .phy 1, .phy 2] })) := by
  intro l
  show execColdStart s = _
  rw [execColdStart, if_neg (Bool.eq_false_iff.1 hoff), stageBits_eq]
  rfl

/-- A trip temperature, no trip being under way (R481). -/
theorem exec_thermalTrip {tj : Int} (hon : s.island.supply.aon = true) (htj : 115 ≤ tj) (hnone : s.island.supply.tripping = false)
    (hup : s.island.supply.thermtrip = false ∨ allCh.any (isUp s) = true) :
    let t := joinTemps (modCh s c (fun ch => { ch with throttle := { ch.throttle with tj, die := tj } })) c tj tj
    let u := forCh t allCh (fun t d => modCh t d (fun ch => { ch with throttle := { ch.throttle with tripHold := true } }))
    let v := abortTest (dropResult (startFlush (modDev u (fun d => { d with trips := d.trips + 1 }))) 4) 3
    exec (.thermalTrip c tj) s = .next (tripCheck (modSupply v (fun y => { y with tripping := true }))) := by
  have htrips : ¬ ((!s.island.supply.aon) = true ∨ tj < tripC ∨ s.island.supply.tripping = true ∨
      (s.island.supply.thermtrip = true ∧ (!allCh.any (isUp s)) = true)) := by
    rintro (haon | hcool | htrip | ⟨hpin, hdead⟩)
    · exact not_bnot hon haon
    · exact absurd htj (Int.not_le.2 hcool)
    · exact Bool.eq_false_iff.1 hnone htrip
    · exact hup.elim (fun h => Bool.eq_false_iff.1 h hpin) (fun h => not_bnot h hdead)
  show execThermalTrip c tj s = _
  rw [execThermalTrip, if_neg htrips]

/-! ## Starts and the self-test (R461 to R466, R498) -/

/-- The start of a channel that waits for it. -/
theorem exec_channelStart (st : StartReport) (hon : s.island.supply.aon = true) (hkiln : s.island.kiln ≠ .booting)
    (hwaits : s.island.selfTest.starts.contains c.val = true) (htest : s.island.selfTest.state = 0) (hvalid : s.island.supply.down = [])
    (hoff : (s.ch c).state ≠ .off ∨ s.island.supply.warn = 0) : exec (.channelStart c st) s = .next (startNow s c st) := by
  have hstarts : ¬ ((!s.island.supply.aon) = true ∨ s.island.kiln = .booting ∨ (!s.island.selfTest.starts.contains c.val) = true ∨
      s.island.selfTest.state ≠ 0 ∨ (!s.island.supply.down.isEmpty) = true ∨ (s.ch c).state = .off ∧ s.island.supply.warn ≠ 0) := by
    rintro (haon | hboot | hnone | hruns | hdown | ⟨hch, hwarn⟩)
    · exact not_bnot hon haon
    · exact hkiln hboot
    · exact not_bnot hwaits hnone
    · exact hruns htest
    · exact not_bnot (List.isEmpty_iff.2 hvalid) hdown
    · exact hoff.elim (fun h => h hch) (fun h => hwarn h)
  exact congrArg Host.Outcome.next (if_neg hstarts)

/-- The fallback test's begin within its window (R466). -/
theorem exec_selfTestWindowCheck_begin {mv : Nat} {tj : Int} (hwaits : s.island.selfTest.state = 2) (hdown : s.island.supply.down = [])
    (hrising : s.island.supply.rising = 0) (hwindow : inWindow mv tj = true) :
    exec (.selfTestWindowCheck mv tj) s = .next (modTest (modDev s (fun d => { d with testsStart := d.testsStart + 1 }))
      (fun x => { x with state := 1, vcoreMv := mv, tjMax := tj, running := [], got := [] })) := by
  have hstands : ¬ (s.island.selfTest.state = 1 ∧ (!s.island.selfTest.atShut) = true ∧ (!inWindow mv tj) = true) := by simp [hwaits]
  have hbegins : ¬ (s.island.selfTest.state ≠ 2 ∨ (!s.island.supply.down.isEmpty) = true ∨ s.island.supply.rising ≠ 0 ∨ (!inWindow mv tj) = true) := by
    simp [hwaits, hdown, hrising, hwindow]
  show execSelfTestWindowCheck mv tj s = _
  rw [execSelfTestWindowCheck, if_neg hstands, if_neg hbegins]

/-- The fallback test's stop outside its window (R466). -/
theorem exec_selfTestWindowCheck_stop {mv : Nat} {tj : Int} (hruns : s.island.selfTest.state = 1) (hfallback : s.island.selfTest.atShut = false)
    (hwindow : inWindow mv tj = false) :
    exec (.selfTestWindowCheck mv tj) s = .next (modTest s (fun x => { x with
      state := 2, todo := ascGroups (x.got.map (fun e => e.1) ++ x.running ++ x.todo), running := [], got := [] })) := by
  have hstops : s.island.selfTest.state = 1 ∧ (!s.island.selfTest.atShut) = true ∧ (!inWindow mv tj) = true := by simp [hruns, hfallback, hwindow]
  exact congrArg Host.Outcome.next (if_pos hstops)

/-- The start of the next group (R462). -/
theorem exec_selfTestGroupStart (hruns : s.island.selfTest.state = 1) (hnext : s.island.selfTest.todo.head? = some g.val)
    (hroom : s.island.selfTest.running.length < testsAtOnce s)
    (hbefore : g.val < testsAtOnce s ∨ s.island.selfTest.running.contains (g.val - testsAtOnce s) = false) :
    exec (.selfTestGroupStart g) s = .next (groupClears (modTest s (fun x => { x with todo := x.todo.drop 1, running := x.running ++ [g.val] })) g) := by
  have hstarts : ¬ (s.island.selfTest.state ≠ 1 ∨ s.island.selfTest.todo.head? ≠ some g.val ∨ testsAtOnce s ≤ s.island.selfTest.running.length ∨
      (testsAtOnce s ≤ g.val ∧ s.island.selfTest.running.contains (g.val - testsAtOnce s) = true)) := by
    rintro (hstate | hhead | hfull | ⟨hlate, hstill⟩)
    · exact hstate hruns
    · exact hhead hnext
    · exact Nat.not_le.2 hroom hfull
    · exact hbefore.elim (fun h => Nat.not_le.2 h hlate) (fun h => Bool.eq_false_iff.1 h hstill)
  exact congrArg Host.Outcome.next (if_neg hstarts)

/-- The end of a group that runs (R462, R466). -/
theorem exec_selfTestGroupEnd (rec : GroupRec) (hruns : s.island.selfTest.running.contains g.val = true) :
    let t := modTest s (fun x => { x with
      running := x.running.filter (fun n => n != g.val), got := smPut x.got g.val rec
      groups := if x.atShut then x.groups else x.groups.set g (some rec) })
    let u := if t.island.selfTest.atShut then t else dropLanes t g
    exec (.selfTestGroupEnd g rec) s = .next (if u.island.selfTest.todo.isEmpty ∧ u.island.selfTest.running.isEmpty then testEnds u else u) := by
  intro t u
  show execSelfTestGroupEnd g rec s = _
  rw [execSelfTestGroupEnd, if_neg (not_bnot hruns)]

/-! ## Stack lanes (R471) -/

/-- A stack that is lost has lost a half. -/
theorem stackLost_of_not_stackHalf {lanes : List Nat} (h : stackHalf lanes = false) : stackLost lanes = false := by
  unfold stackHalf at h
  unfold stackLost
  rw [(Bool.or_eq_false_iff.1 h).1, Bool.false_and]

/-- A new lane failure of a running channel. -/
theorem exec_stackLaneFailure {lane : Nat} (hup : isUp s c = true) (hlane : lane < 2064) (hnew : (s.ch c).eng.lanes.contains lane = false) :
    let e := (s.ch c).eng
    let lanes := e.lanes ++ [lane]
    let t := modCh s c (fun ch => { ch with eng := { ch.eng with lanes, rtLanes := ch.eng.rtLanes ++ [lane] } })
    let u := modCh t c (fun ch => { ch with eng := { ch.eng with half := true, markHalf := true } })
    exec (.stackLaneFailure c lane) s = .next (
      if stackLost lanes then isolateCh t c 2
      else if stackHalf lanes = true ∧ (!e.half) = true then (if (u.ch c).state = .ready then setChState u c .degraded 2 else u)
      else if laneCount lanes (lane / 129) = 1 then raiseSpare (modHealth t c (fun h => { h with laneSpares := h.laneSpares + 1 })) c 2 lane
      else t) := by
  have hcounts : ¬ ((!isUp s c) = true ∨ 2064 ≤ lane ∨ (s.ch c).eng.lanes.contains lane = true) := by
    rintro (hdown | hfar | hold)
    · exact not_bnot hup hdown
    · exact Nat.not_le.2 hlane hfar
    · exact Bool.eq_false_iff.1 hnew hold
  intro e lanes t u
  show execStackLaneFailure c lane s = _
  rw [execStackLaneFailure, if_neg hcounts]

/-! ## The statement -/

/-- Settles O55, row by row. -/
theorem supplyStartsAndTestsRun : Obligations.SupplyStartsAndTestsRun := by
  refine ⟨⟨?warn, ?io, ?ack, ?ok, ?flush, ?reset, ?restored, ?vaon, ?trip, ?bound, ?fatal⟩, ?start, ?begins, ?stops, ?group, ?groupEnd, ?lane⟩
  case warn =>
    intro r mv s hon hnew v
    refine ⟨fun hr hlow => ?_, fun hr => ?_⟩
    · rw [exec_supplyWarn mv hr hlow, warnOn_new mv hon hnew]
      rfl
    · rw [exec_regulatorAlert mv hon hr, warnOn_new (s := emit s (.statusWord r)) mv hon hnew]
      rfl
  case io => exact fun mv s => rfl
  case ack => exact fun c s hdue => exec_warnAckTimeout hdue
  case ok =>
    intro r mv s hr hwarn hback s1 t
    refine (exec_supplyOk mv hr hwarn hback).trans (congrArg Host.Outcome.next ?_)
    split
    · rfl
    · rw [← ite_not]
      exact if_congr not_rising_or_warned rfl rfl
  case flush =>
    intro c s hflush page t u
    rw [exec_flushComplete hflush, flushPage_eq, flushPage_eq]
    simp only [warned, bne_iff_ne]
    rfl
  case reset => exact fun r mv s hon hdip hdown hvalid => exec_supplyReset mv hon hdip hdown hvalid
  case restored => exact fun s hdown hcore hsram => exec_supplyRestored hdown hcore hsram
  case vaon => exact fun s => ⟨rfl, fun hoff => exec_coldStart hoff⟩
  case trip => exact fun c tj s hon htj hnone hup => exec_thermalTrip hon htj hnone hup
  case bound => exact fun s htrip => congrArg Host.Outcome.next (if_pos htrip)
  case fatal => exact fun c s hup => congrArg Host.Outcome.next (if_pos hup)
  case start => exact fun c st s hon hkiln hwaits htest hvalid hoff => exec_channelStart st hon hkiln hwaits htest hvalid hoff
  case begins =>
    intro mv tj s hwaits hdown hrising hlo hhi htj
    exact exec_selfTestWindowCheck_begin hwaits hdown hrising (decide_eq_true ⟨hlo, hhi, htj⟩)
  case stops =>
    intro mv tj s hruns hfallback hout
    exact exec_selfTestWindowCheck_stop hruns hfallback (decide_eq_false (by omega))
  case group =>
    intro g s x n hruns hnext hroom hbefore t
    exact exec_selfTestGroupStart hruns hnext hroom hbefore
  case groupEnd => exact fun g rec s hruns => exec_selfTestGroupEnd rec hruns
  case lane =>
    intro c lane s hup hlane hnew e lanes t
    have hexec := exec_stackLaneFailure hup hlane hnew
    refine ⟨fun hlost => ?_, fun hkept hhalf hfull => ?_, fun hwhole hfirst => ?_⟩
    · exact hexec.trans (congrArg Host.Outcome.next (if_pos hlost))
    · rw [hexec, if_neg (Bool.eq_false_iff.1 hkept), if_pos ⟨hhalf, (Bool.not_eq_true' _).mpr hfull⟩]
    · rw [hexec, if_neg (Bool.eq_false_iff.1 (stackLost_of_not_stackHalf hwhole)), if_neg (fun h => Bool.eq_false_iff.1 hwhole h.1), if_pos hfirst]

end Sys2Proof.Proofs
end
